-- ==== Sys2Proof/Word.lean ====
section
/-! DEFINITION. The word types of the Yeril T2 model: the bytes, 32-bit register words, 64-bit counts and 64-byte
store words of R8, R15, R53 and R177. -/
namespace Sys2Proof

/-- A byte of a public structure or of memory (R8). -/
abbrev Byte := BitVec 8

/-- A 32-bit register word, or the bits of an FP32 value (R12, R52). -/
abbrev W32 := BitVec 32

/-- A 64-bit register, count or bell tick (R15, R26). -/
abbrev W64 := BitVec 64

/-- The 64 data bytes of a store word, of a memory block or of a flit's data lane (R53, R177, R207, R243). -/
abbrev Line := BitVec 512

end Sys2Proof
end

