-- ==== Sys2Proof/Syntax.lean ====
section
/-! DEFINITION. The commands of the block: one constructor of `Instr` per row of the opcode table, in its order, with
the fields that the manual names as operands. Control words are typed by their named fields (R5, R112): a public code
is kept raw, and a field whose encoding the manual keeps private has a constructor `reserved` for its reserved
encodings. -/
namespace Sys2Proof

/-- The four engines of a stall (R21), in the order of R120. -/
inductive Eng where
  | mx | vx | pt | ex
  deriving DecidableEq, Repr

/-- Engine number of R134. -/
def Eng.num : Eng → Nat
  | .mx => 0 | .vx => 1 | .pt => 2 | .ex => 3

/-- The four stores of a stall (R178). -/
inductive StoreId where
  | w | a | p | g
  deriving DecidableEq, Repr

/-- Store number of R178. -/
def StoreId.num : StoreId → Nat
  | .w => 0 | .a => 1 | .p => 2 | .g => 3

/-- A tile register: a store and a slot; P and G slots are taken modulo 32 (R6). -/
structure Tile where
  store : StoreId
  slot : Nat
  deriving DecidableEq, Repr

/-- Wait fields of R112 and R113. -/
structure Wait where
  kind : BitVec 3
  index : BitVec 6
  value : BitVec 16
  consume : Bool
  tclass : BitVec 3
  feed : BitVec 2
  deriving DecidableEq, Repr

/-- Signal fields of R112 and R116. -/
structure Sig where
  kind : BitVec 3
  index : BitVec 6
  value : BitVec 8
  pitch : BitVec 8
  stall : BitVec 16
  deriving DecidableEq, Repr

/-- The common fields of every control word (R112). -/
structure Common where
  offset : BitVec 40
  wait : Wait
  sig : Sig
  popRing : BitVec 4
  popCount : BitVec 8
  inspect : Option Nat
  deriving DecidableEq, Repr

/-- Order of a W tile (R69, R86). -/
inductive Orient where
  | kMajor | nMajor | reserved
  deriving DecidableEq, Repr

/-- Structured pattern of a load (R164). -/
inductive Pattern where
  | none | of24 | of48 | reserved
  deriving DecidableEq, Repr

/-- Pass shape (R73). -/
inductive Shape where
  | f | h2 | q4 | v | reserved
  deriving DecidableEq, Repr

/-- The fields of a stationary load: LDW, and next_w of a pass (R86, R164). -/
structure Load where
  slot : Nat
  orient : Orient
  fmt : BitVec 4
  struct : Pattern
  deriving DecidableEq, Repr

/-- The fields of an MMA word (R86); `tpBase` names a TP slot by its number and a TG slot by its number plus 32 (R279). -/
structure Mma where
  shape : Shape
  mode : BitVec 3
  fmtA : BitVec 4
  swap : Bool
  nextW : Option Load
  aSrc : Nat
  m : Nat
  kcount : Nat
  ncount : Nat
  fbBase : List Nat
  promote : BitVec 2
  tpBase : List Nat
  deriving DecidableEq, Repr

/-- A run operand of the vector engine (R137), its format and valid extent. -/
structure Run where
  tile : Tile
  fmt : BitVec 4
  orient : Orient
  tiles : Nat
  rows : Nat
  cols : Nat
  deriving DecidableEq, Repr

/-- A vector operand (R137): a run, one P-tile row applied to every row, or a scalar. -/
inductive VArg where
  | run (r : Run)
  | row (tile : Tile) (row : Nat)
  | scalar (x : W32)
  deriving DecidableEq, Repr

/-- Elementwise operations (R139). -/
inductive VopKind where
  | add | sub | mul | fma | min | max | abs | neg | cmpgt | cmpge | cmpeq | select | scale2 | cvt | reserved
  deriving DecidableEq, Repr

/-- Row reductions (R139). -/
inductive VredKind where
  | sum | sumsq | max | min | argmax | argmin | countnz | reserved
  deriving DecidableEq, Repr

/-- Special functions (R143). -/
inductive SfnKind where
  | exp2 | log2 | rcp | rsqrt | tanh | reserved
  deriving DecidableEq, Repr

/-- A VOP word: operands in Gaosh order, `k` of SCALE2, first destination tile. -/
structure Vop where
  kind : VopKind
  args : List VArg
  k : Int
  dst : Tile
  deriving DecidableEq, Repr

/-- The fields of a PACK word (R146, R397). -/
structure Pack where
  src : Tile
  fmtOut : BitVec 4
  stack : Bool
  validK : Nat
  validMn : Nat
  packFmt : BitVec 4
  ring : Bool
  dst : Tile
  dstRing : BitVec 4
  safe : Bool
  sr : Bool
  satMode : Bool
  p2Pattern : BitVec 2
  p2Prune : Bool
  statRing : Option (BitVec 4)
  plausEn : Bool
  amaxExp : BitVec 8
  nanOk : Bool
  infOk : Bool
  satOk : Bool
  underMax : BitVec 16
  deriving DecidableEq, Repr

/-- The fields of an UNPACK word (R155, R163). -/
structure Unpack where
  ring : BitVec 4
  consume : Bool
  struct : Bool
  dst : Tile
  deriving DecidableEq, Repr

/-- Transfer modes of R250. -/
inductive PtMode where
  | linear | stack | row | reserved
  deriving DecidableEq, Repr

/-- A porter's target, or a PUT's source (R256). -/
inductive PtTarget where
  | tile (t : Tile) (word : Nat)
  | ring (n : BitVec 4)
  deriving DecidableEq, Repr

/-- The fields of GET, PUT and GATHER words (R256, R299). -/
structure Porter where
  va : W64
  mode : PtMode
  len : Nat
  frame : Bool
  fmt : BitVec 4
  tiles : Nat
  tstride : Nat
  bstride : Nat
  sva : W64
  target : PtTarget
  index : Option Nat
  rowLen : Nat
  rowStride : Nat
  rows : Nat
  commit : Bool
  deriving DecidableEq, Repr

/-- The fields of an AHEAD word (R260). -/
structure Ahead where
  va : W64
  run : Nat
  stride : Nat
  runs : Nat
  limit : W64
  deriving DecidableEq, Repr

/-- The fields of SEND and BULK words (R211, R400): `kind` is the code of R208, `tally` the target tally and its
increment. -/
structure Send where
  kind : BitVec 3
  pitch : BitVec 8
  stall : BitVec 16
  src : Tile
  word : Nat
  len : Nat
  ring : BitVec 4
  slot : Nat
  tally : Option (Nat × Nat)
  fold : Bool
  foldReset : Bool
  csum : Bool
  deriving DecidableEq, Repr

/-- The fields of a GRANT word (R211). -/
structure Grant where
  pitch : BitVec 8
  stall : BitVec 16
  ring : BitVec 4
  count : Nat
  deriving DecidableEq, Repr

/-- The operation classes of R110 with the fields their chapters name. -/
inductive Op where
  | ldw (l : Load)
  | mma (m : Mma)
  | vop (v : Vop)
  | vred (kind : VredKind) (src : Run) (dst : Tile) (d : Nat)
  | vnormStat (rms : Bool) (eps : W32) (src : Run) (dst : Tile) (d : Nat)
  | vnormApply (src : Run) (stat : Tile) (d : Nat) (gamma beta : VArg) (dst : Tile)
  | vsmaxStat (src : Run) (c : W32) (acc : Option (Tile × Nat)) (dst : Tile) (d : Nat)
  | vsmaxApply (src : Run) (c : W32) (stat : Tile) (d : Nat) (dst : Tile)
  | vsfn (kind : SfnKind) (src : Run) (dst : Tile)
  | pack (p : Pack)
  | unpack (u : Unpack)
  | groupidx (ring : BitVec 4) (count : Nat) (dst : Tile)
  | get (p : Porter)
  | put (p : Porter)
  | gather (p : Porter)
  | ahead (a : Ahead)
  | send (s : Send)
  | bulk (s : Send)
  | grant (g : Grant)
  | checkcmp (tp : Nat) (ring : BitVec 4) (slot : Nat)
  | waitw
  | stepEnd
  deriving DecidableEq, Repr

/-- A control word: common fields and operation. -/
structure CWord where
  common : Common
  op : Op
  deriving DecidableEq, Repr

/-- The engine that executes a class (R110); WAITW and STEP_END run on any. -/
def Op.engine : Op → Option Eng
  | .ldw _ => some .mx
  | .mma _ => some .mx
  | .get _ => some .pt
  | .put _ => some .pt
  | .gather _ => some .pt
  | .ahead _ => some .pt
  | .send _ => some .ex
  | .bulk _ => some .ex
  | .grant _ => some .ex
  | .checkcmp _ _ _ => some .ex
  | .waitw => none
  | .stepEnd => none
  | _ => some .vx

/-! ### What commands bring with them -/

/-- What the tester finds in a row of a region: a corrected read, an uncorrectable read, a failing row (R198). -/
structure RowFind where
  row : Nat
  corrected : Bool
  uncorr : Bool
  fails : Bool
  deriving DecidableEq, Repr

/-- A bank that serves its stealers, and its rows that an upset has hit since it last did, as (row, uncorrectable) (R181, R184). -/
structure BankGrant where
  bank : Nat
  upsets : List (Nat × Bool)
  deriving DecidableEq, Repr

/-- Flit 0 of a message: its header, and the payload words that it and the flits after it bring, each with its arrival in ticks after
flit 0 (R207, R217). -/
structure MsgStart where
  hdr : BitVec 128
  words : List (Nat × Line)
  deriving DecidableEq, Repr

/-- A memory block read for a companion: whether it fails its check after its re-reads, and whether the stack reported a
correction (R247, R270). -/
structure ReadTry where
  bad : Bool
  corrected : Bool
  deriving DecidableEq, Repr

/-- Tries of a companion's write: the read of a block to be merged, and failed tries of the write (R247, R248). -/
structure MergeTries where
  read : ReadTry
  fails : Nat
  deriving DecidableEq, Repr

/-- A block that reaches a run-ahead buffer: its physical address, and whether the stack reported a correction (R261, R270). -/
structure AheadIn where
  pa : Nat
  corrected : Bool
  deriving DecidableEq, Repr

/-- A port that holds a message, and failed tries of the writes that it makes, by physical block address (R248). -/
structure PortWrites where
  port : Nat
  fails : List (Nat × Nat)
  deriving DecidableEq, Repr

/-- A job at the end of its step, with the send and receive running values of its stalls on other devices, as their Clerks report
them (R220). -/
structure JobEnd where
  job : Nat
  sends : List (Nat × W32)
  recvs : List (Nat × W32)
  deriving DecidableEq, Repr

/-- What the power controller measures by a frame boundary (R479): hottest die junction and hottest stack in degrees, energy of
the frame on each rail in pJ, and the mean power of each die over the last 10 ms in W (R369). -/
structure PowerMeas where
  junction : Nat
  stack : Nat
  rails : List Nat
  dies : List Nat
  deriving DecidableEq, Repr

/-- The static energy coefficients of a device's calibration, in pJ per tick (R384): an awake bank, a bank in retention, and the
rest of a stall. -/
structure StaticCoef where
  awake : Nat
  retained : Nat
  rest : Nat
  deriving DecidableEq, Repr

/-- What a transfer presented to an arbiter carries, as far as its output follows from it: an exchange message between stalls
or hubs (1536 and above) of a kind and job class (R203, R204), the access to a memory block (R245), or something else. -/
inductive Carried where
  | message (src dst kind cls : Nat)
  | block (pa : Nat)
  | other
  deriving DecidableEq, Repr

/-- A requester of an arbiter output as it stands in cycle x (R231, R237, R238): beats of its transfer, its job, and whether
it withdraws in the next cycle. -/
structure ArbReq where
  req : Nat
  carries : Carried
  beats : Nat
  job : Option Nat
  withdraws : Bool
  deriving DecidableEq, Repr

/-- A bridge flit as its receiver sees it (R224). -/
structure RxFlit where
  bytes : List Byte
  seq : Nat
  check : Nat
  deriving DecidableEq, Repr

/-- What a pitch's streams use, by its load image (R367), with masks by engine, and the configurations of its rings: ring,
and the words of RING_CFG without the job (R191, R200). -/
structure PitchUse where
  pitch : Nat
  masks : List Nat
  banks : Nat
  rings : Nat
  flags : Nat
  tallies : Nat
  groups : Nat
  cfg : List (Nat × Nat × Nat)
  deriving DecidableEq, Repr

/-- A load image as the Clerk reads it (R99, R298, R314, R343, R399, R446): inspection rate, hop limit, the FOOT_ACC word,
pitches, commit units (number, address, pages), group records, the streams it names as (pitch, logical stall, engine, address), and
for each witness stall the one that it inspects, as pitch and logical stall of both (R400). -/
structure LoadImage where
  rate : Nat
  hops : Nat
  acc : Nat
  pitches : List PitchUse
  units : List (Nat × Nat × Nat)
  groups : List (Nat × List Byte)
  streams : List (Nat × Nat × Nat × Nat)
  inspects : List (Nat × Nat × Nat × Nat)
  deriving DecidableEq, Repr

/-- What the opening inspection finds (R417): stalls whose stores exhaust their spare rows, stalls that fail a scan,
rows mapped to spare rows as (stall, bank, rows), bridge channels (8 × bridge + channel) and stacks that did not train, dies whose
hall store fails, and hubs whose Clerk passed. -/
structure Inspection where
  repair : List (Nat × Nat × Nat)
  scan : List Nat
  spares : List (Nat × Nat × List Nat)
  channels : List Nat
  downStacks : List Nat
  halls : List Nat
  clerks : List Nat
  deriving DecidableEq, Repr

/-- A memory block as delivered to a reader: data, stored check, and the stack's uncorrectable and correction reports
(R246, R247, R270). -/
structure Block where
  data : Line
  check : W32
  uncorr : Bool
  corrected : Bool
  deriving DecidableEq, Repr

/-- What an update unit meets in memory on one tensor block: the state blocks that it reads, and failed tries of its writes, both by
physical block address (R247, R248, R316). -/
structure UnitMem where
  reads : List (Nat × Block)
  fails : List (Nat × Nat)
  deriving DecidableEq, Repr

/-- A frame of a window PUT, by its block, as it reaches an update unit (R317). -/
structure FrameIn where
  block : Nat
  mem : UnitMem
  deriving DecidableEq, Repr

/-- An instruction of the test access port (R486); every other opcode selects the bypass register. -/
inductive TapInstr where
  | bypass | samplePreload | extest | extestPulse | extestTrain | other (code : Nat)
  deriving DecidableEq, Repr

/-- A scan of the test access port (R486): the instruction and the bits shifted in. -/
structure TapScan where
  instr : TapInstr
  din : List Bool
  deriving DecidableEq, Repr

/-- Why a pitch is moved (R378). -/
inductive MoveWhy where
  | power | temperature | contention | admission | fence
  deriving DecidableEq, Repr

/-- The commands: one constructor per row of the opcode table. `t` is the bell tick at which a command arrives; a command
without it acts at its own tick. `stall`, `slot`, `eng`, `tag`, `hub`, `port`, `half` and `job` name their objects, and
`seq` the taken descriptor that a Clerk command runs. -/
inductive Instr where
  | pllLock
  | roundBoundary
  | powerFrameUpdate (m : PowerMeas)
  | syncPeriodBoundary
  | bellsyncPulseCheck (t : Nat)
  | timeMarkReceive (t port : Nat) (w0 : W64) (w1 : W32)
  | syncWindowExpiry
  | bellrefLoss (t : Nat)
  | pllRelock (t : Nat)
  | acquire (t : Nat) (v : W32)
  | kupReport (t : Nat)
  | kupReceive (t port : Nat) (w0 : W64) (w1 : W32)
  | kmasterIntake
  | kdownReceive (t port : Nat) (w0 : W64) (w1 : W32)
  | streamChunkArrival (t stall slot : Nat) (eng : Eng) (raw : List Byte) (words : List CWord)
  | ldw (stall slot : Nat)
  | mma (stall slot : Nat)
  | vop (stall slot : Nat)
  | vred (stall slot : Nat)
  | vnormStat (stall slot : Nat)
  | vnormApply (stall slot : Nat)
  | vsmaxStat (stall slot : Nat)
  | vsmaxApply (stall slot : Nat)
  | vsfn (stall slot : Nat)
  | pack (stall slot : Nat)
  | unpack (stall slot : Nat)
  | groupidx (stall slot : Nat)
  | get (stall slot : Nat)
  | put (stall slot : Nat)
  | gather (stall slot : Nat)
  | ahead (stall slot : Nat)
  | send (stall slot : Nat)
  | bulk (stall slot : Nat)
  | grant (stall slot : Nat)
  | checkcmp (stall slot : Nat)
  | waitw (stall slot : Nat) (eng : Eng)
  | stepEnd (stall slot : Nat) (eng : Eng)
  | wordCompletion (stall : Nat) (eng : Eng)
  | hbmBlockArrival (t stall tag q : Nat) (delivered : Option Block)
  | porterTransferComplete (t stall tag : Nat)
  | hbmBlockWrite (t stall tag q fails : Nat)
  | porterTagTimeout (stall tag : Nat)
  | pageFaultTagRelease (t stall tag : Nat)
  | porterStarveTimer (t stall tag : Nat)
  | aheadBlockArrival (t hub job : Nat) (blk : AheadIn)
  | stealerPortGrant (t stall : Nat) (bank : BankGrant)
  | scrubComplete (t stall bank : Nat)
  | bankWakeComplete (t stall bank : Nat)
  | storeTestRegion (t stall store : Nat) (errs : List (Nat × Bool)) (fails : List Nat)
  | msgFlit0Arrival (t stall : Nat) (msg : MsgStart)
  | msgLastFlitArrival (t stall : Nat) (hdr : BitVec 128) (word : Option Line) (crc status : W32)
  | msgTruncationTimeout (t stall : Nat) (hdr : BitVec 128) (received : Nat)
  | bridgeFlitReceive (t chan : Nat) (flit : List Byte) (rx : RxFlit)
  | bridgeNakReceive (t chan seq : Nat)
  | arbCycleDecision (t arb output cycle : Nat) (reqs : List ArbReq) (gap : Bool)
  | stepCtrlGo (t stall : Nat) (v : W32)
  | stepCtrlAbort (t stall : Nat) (v : W32)
  | stepDrainEnd (t stall slot : Nat)
  | ringPtrWrite (t stall ring : Nat) (v : W32)
  | checkValWrite (t stall : Nat) (v : W32)
  | rerunArm (t die : Nat) (v : W32)
  | xlateInval (t hub : Nat) (v : W32)
  | commit (t agent page : Nat) (v : W32)
  | grpStepWrite (t : Nat) (v : W64)
  | ledgerSnap (t agent job : Nat)
  | ledgerRelease (t agent job : Nat)
  | aisleRetrain (t port : Nat) (v : W32)
  | bootGo (t agent : Nat) (v : W32)
  | ringCtrlEnable (t agent : Nat) (v : W32)
  | registerWrite (t agent addr : Nat) (v : W32)
  | lowWordRead (t agent addr : Nat)
  | rcFieldRead (t agent addr : Nat)
  | gradientFrameArrival (t stall tag : Nat) (frame : FrameIn)
  | gradMessageReceive (t port : Nat)
  | tensorBlockUpdate (t group k : Nat) (mem : UnitMem)
  | wcopyMessageReceive (t : Nat) (port : PortWrites)
  | scheduleCompute (job : Nat)
  | stepClose (t : Nat) (job : JobEnd)
  | flagWordSend (job : Nat)
  | flagWordReceive (t port : Nat)
  | guardArm (t job delay : Nat)
  | guardPeerDeadline (job : Nat)
  | aisleFlitReceive (t port : Nat) (bytes : List Byte)
  | aisleMessageReceive (t port : Nat)
  | aisleAckTimeout (t port : Nat)
  | aisleNakRepeat (t port : Nat)
  | aisleLaneLockLoss (t port lane : Nat)
  | aisleLinkTimeout (t port : Nat)
  | aisleLanesLocked (t port : Nat)
  | identReceive (t port : Nat) (bytes : List Byte)
  | creditRevoke (t port : Nat)
  | sealReceive (t port : Nat)
  | sealTableReceive (t job step : Nat) (table : List Byte)
  | sealTableTimeout (t job : Nat)
  | abortReceive (t port : Nat)
  | doorlineInval (t half : Nat) (door : List Byte) (descs : List (List Byte))
  | doorlinePoll (t : Nat) (door : List Byte) (descs : List (List Byte))
  | jobOpen (t seq : Nat) (record : List Byte) (phase : Nat) (place : List (Nat × Nat × Nat))
  | jobLoad (t seq : Nat) (raw : List Byte) (image : LoadImage) (frames : List Nat)
  | jobMap (t seq : Nat) (pages tables : List Nat)
  | stepRun (t seq : Nat) (agreed : Option Nat)
  | stepAbort (t seq : Nat)
  | jobClose (t seq : Nat)
  | jobSuspend (t seq : Nat)
  | jobResume (t seq : Nat)
  | selftest (t seq : Nat) (found : Inspection)
  | selftestQueuedStart (t seq : Nat) (found : Inspection)
  | fenceStall (t seq : Nat)
  | unfenceStall (t seq : Nat) (found : Inspection)
  | setPolicy (t seq : Nat)
  | twinBind (t seq : Nat)
  | echo (t seq : Nat)
  | summary (t seq : Nat)
  | deadlineTimer (job : Nat)
  | ledgerReconcile (measured : Option Nat) (coef : List (Nat × Nat)) (static : StaticCoef)
  | pitchMove (t job pitch : Nat) (why : MoveWhy) (stalls halls : List Nat) (phase : Nat)
  | preemptResume (t job : Nat)
  | stepWatchdogExpiry (t job : Nat)
  | stepRerunGo (t job : Nat) (moves : List (Nat × List Nat × List Nat)) (agreed : Option Nat)
  | engineBusyExpiry (t stall : Nat) (eng : Eng)
  | clerkWatchdogExpiry (t hub : Nat)
  | companionLossTimeout (t : Nat)
  | statusHeartbeat
  | companionRead (t half : Nat) (read : ReadTry)
  | companionWrite (t half : Nat) (tries : MergeTries)
  | inval (t half : Nat)
  | lemefHalfLost (t half : Nat)
  | lemefTrained
  | resetNRelease (heldUs : Nat)
  | resetNAssert
  | pwrGoodFall
  | pwrGoodRise
  | bootTakeover
  | imageFetchComplete (bytes : List Byte) (complete : Bool)
  | openingInspectionDone (found : Inspection)
  | thermtrip
  | smbusRead (cmd : BitVec 8) (word : Bool)
  | tapInstruction (x : TapScan)
  | traceCounterSnapshot
  | lemefSlotReceive (t half : Nat) (bytes : List Byte)
  | lemefAckTimeout (t half : Nat)
  | lemefRetrain (t half : Nat)
  | bridgeChannelRetrain (t chan : Nat)
  | clerkResumesService (t : Nat)
  | vioRise
  | vioFall
  | setPolicySyncTimeout (t : Nat)
  deriving DecidableEq, Repr

end Sys2Proof
end

