-- ==== Sys2Proof/Machine/Bits.lean ====
section
/-! DEFINITION. Helpers the machine is written with: bit fields and little-endian byte strings (R7, R8), sparse
tables in ascending key order, and the check values of R219 and R331. -/
namespace Sys2Proof.Machine

/-! ### Sparse tables: ascending keys, an absent key reads as the caller's default -/

/-- The value under key `k`. -/
def sget {α : Type} : List (Nat × α) → Nat → Option α
  | [], _ => none
  | (i, v) :: r, k => if i = k then some v else sget r k

/-- The value under key `k`, or `d`. -/
def sgetD {α : Type} (m : List (Nat × α)) (k : Nat) (d : α) : α := (sget m k).getD d

/-- Put `v` under `k`, keeping the keys ascending. -/
def sset {α : Type} : List (Nat × α) → Nat → α → List (Nat × α)
  | [], k, v => [(k, v)]
  | (i, w) :: r, k, v =>
    if k < i then (k, v) :: (i, w) :: r
    else if i = k then (k, v) :: r
    else (i, w) :: sset r k v

/-- Drop key `k`. -/
def sdel {α : Type} : List (Nat × α) → Nat → List (Nat × α)
  | [], _ => []
  | (i, w) :: r, k => if i = k then sdel r k else (i, w) :: sdel r k

/-- Put `v` under `k`; a value equal to what an absent key reads as is not listed. -/
def sput {α : Type} [DecidableEq α] (d : α) (m : List (Nat × α)) (k : Nat) (v : α) : List (Nat × α) :=
  if v = d then sdel m k else sset m k v

/-- Keys strictly rising. -/
def sorted {α : Type} : List (Nat × α) → Bool
  | [] => true
  | [_] => true
  | (i, _) :: (j, w) :: r => decide (i < j) && sorted ((j, w) :: r)

/-! ### Bit fields and bytes -/

/-- Bits `hi` to `lo` of a number (R7). -/
def bits (x hi lo : Nat) : Nat := (x >>> lo) % 2 ^ (hi - lo + 1)

/-- Bit `i` of a number. -/
def bit (x i : Nat) : Bool := x.testBit i

/-- A Bool as one bit of a field. -/
def b2n (b : Bool) : Nat := if b then 1 else 0

/-- The `n` bytes at offset `o`, least significant first (R8); bytes past the end read 0. -/
def leAt (l : List Byte) (o n : Nat) : Nat :=
  ((l.drop o).take n).foldr (fun b a => a * 256 + b.toNat) 0

/-- `n` bytes of `x`, least significant first (R8). -/
def leBytes : Nat → Nat → List Byte
  | 0, _ => []
  | n + 1, x => BitVec.ofNat 8 x :: leBytes n (x / 256)

/-- The 64 bytes of a line, byte 0 first (R53). -/
def lineBytes (w : Line) : List Byte := leBytes 64 w.toNat

/-- A line from bytes, byte 0 first; missing bytes are 0. -/
def bytesLine (l : List Byte) : Line := BitVec.ofNat 512 (leAt l 0 64)

/-- Cut bytes into lines of 64. -/
def bytesLines : Nat → List Byte → List Line
  | 0, _ => []
  | n + 1, l => bytesLine (l.take 64) :: bytesLines n (l.drop 64)

/-- Pad with zero bytes to a multiple of `m`. -/
def padTo (m : Nat) (l : List Byte) : List Byte :=
  l ++ List.replicate ((m - l.length % m) % m) 0

/-- Quotient rounded up. -/
def cdiv (a b : Nat) : Nat := (a + b - 1) / b

/-- 64-bit saturating addition of the statistics counters (R415). -/
def satAdd64 (a : W64) (n : Nat) : W64 :=
  if a.toNat + n ≥ 2 ^ 64 - 1 then BitVec.allOnes 64 else a + BitVec.ofNat 64 n

/-- The lowest multiple of `m` not below `t`. -/
def upTo (m t : Nat) : Nat := cdiv t m * m

/-- Reverse the six low bits (R45). -/
def bitrev6 (x : Nat) : Nat :=
  bits x 0 0 * 32 + bits x 1 1 * 16 + bits x 2 2 * 8 + bits x 3 3 * 4 + bits x 4 4 * 2 + bits x 5 5

/-- Replace the element at `i` of a list. -/
def lset {α : Type} : List α → Nat → α → List α
  | [], _, _ => []
  | _ :: r, 0, v => v :: r
  | x :: r, i + 1, v => x :: lset r i v

/-- Update the element at `i` of a list. -/
def lmod {α : Type} (l : List α) (i : Nat) (f : α → α) : List α :=
  match l[i]? with
  | some v => lset l i (f v)
  | none => l

/-- The first element that satisfies `p`, with its index. -/
def lfind {α : Type} (p : α → Bool) : List α → Nat → Option (Nat × α)
  | [], _ => none
  | x :: r, i => if p x then some (i, x) else lfind p r (i + 1)

/-- Drop the element at `i`. -/
def ldel {α : Type} : List α → Nat → List α
  | [], _ => []
  | _ :: r, 0 => r
  | x :: r, i + 1 => x :: ldel r i

/-- The entry of smallest key by `f`, the earliest among equals. -/
def argmin {α : Type} (f : α → Nat) : List α → Option α
  | [] => none
  | x :: r => match argmin f r with
    | none => some x
    | some y => if f y < f x then some y else some x

/-! ### Check values -/

/-- One bit step of the reflected CRC-32C of R219. -/
def crcBit (v : W32) : W32 := if v.getLsbD 0 then (v >>> 1) ^^^ 0x82F63B78#32 else v >>> 1

/-- `crc_fold` of R219: one byte into the running value. -/
def crcFold (v : W32) (b : Byte) : W32 :=
  let v := v ^^^ b.setWidth 32
  crcBit (crcBit (crcBit (crcBit (crcBit (crcBit (crcBit (crcBit v)))))))

/-- The running value after bytes `l` (R219, R220). -/
def crcRun (v : W32) (l : List Byte) : W32 := l.foldl crcFold v

/-- The check value of R219: start at all ones, fold, XOR with all ones. -/
def check32 (l : List Byte) : W32 := crcRun 0xFFFFFFFF#32 l ^^^ 0xFFFFFFFF#32

/-- The low 16 bits of the check value (hdr_check of R150 and R208, the link check of R224). -/
def check16 (l : List Byte) : BitVec 16 := (check32 l).setWidth 16

/-- One bit step of the reflected CRC-64 of R331. -/
def crc64Bit (v : W64) : W64 := if v.getLsbD 0 then (v >>> 1) ^^^ 0xC96C5795D7870F42#64 else v >>> 1

/-- One byte into the running CRC-64 value (R331). -/
def crc64Fold (v : W64) (b : Byte) : W64 :=
  let v := v ^^^ b.setWidth 64
  crc64Bit (crc64Bit (crc64Bit (crc64Bit (crc64Bit (crc64Bit (crc64Bit (crc64Bit v)))))))

/-- The 64-bit block digest's CRC of R331. -/
def check64 (l : List Byte) : W64 := l.foldl crc64Fold (BitVec.allOnes 64) ^^^ BitVec.allOnes 64

/-- The block check of R246: the 64 data bytes, then the physical address as 8 bytes. -/
def blockCheck (d : Line) (pa : Nat) : W32 := check32 (lineBytes d ++ leBytes 8 pa)

/-! ### Kinds of chargeable events beside useful products (R384) -/

/-- No job. -/
def noJob : Nat := 64

/-- A gated or skipped product. -/
def workKind.gated : Nat := 16
/-- A VX element. -/
def workKind.vx : Nat := 17
/-- A store word access. -/
def workKind.store : Nat := 18
/-- A memory block. -/
def workKind.block : Nat := 19
/-- A flit. -/
def workKind.flit : Nat := 20
/-- An update lane cycle: the 256 lanes of a cycle count each. -/
def workKind.lane : Nat := 21
/-- A tick of a bank that is awake. -/
def workKind.awake : Nat := 22
/-- A tick of a bank in retention. -/
def workKind.retained : Nat := 23
/-- A tick of a rota entry, of which a stall has 256. -/
def workKind.rota : Nat := 24

end Sys2Proof.Machine
end

