-- ==== Sys2Proof/Machine/Float.lean ====
section
/-! DEFINITION. FP32 arithmetic of R52 (IEEE 754-2019 binary32, round to nearest even, subnormals kept, NaN rules
of the device), formed on exact dyadic values and rounded once. Binary64 for the schedule engine (R330) uses the
same rounding at its own precision. -/
namespace Sys2Proof.Machine

/-- An exact dyadic value `± man × 2^exp`. -/
structure Dy where
  neg : Bool
  man : Nat
  exp : Int
  deriving DecidableEq, Repr

/-- What a floating-point bit pattern stands for; a NaN keeps its FP32 bits (R52). -/
inductive Num where
  | nan (b : W32)
  | inf (neg : Bool)
  | fin (d : Dy)
  deriving DecidableEq, Repr

/-- The NaN of an invalid operation and of a NaN with no FP32 bits of its own (R52). -/
def qnan : W32 := 0x7FC00000#32

/-- `floor(log2 |d|)` of a non-zero value. -/
def Dy.log2 (d : Dy) : Int := (Nat.log2 d.man : Int) + d.exp

/-- `n / 2^k` rounded to nearest, ties to even. -/
def rneShift (n k : Nat) : Nat :=
  let q := n >>> k
  let r := n % 2 ^ k
  let half := 2 ^ k / 2
  if k = 0 then n
  else if r > half then q + 1
  else if r = half then q + q % 2
  else q

/-- Round a magnitude to `p` significant bits, the grid never finer than `2^qmin` (nearest even). -/
def roundTo (p : Nat) (qmin : Int) (d : Dy) : Dy :=
  if d.man = 0 then { d with exp := qmin }
  else
    let q : Int := max (d.log2 - (p : Int) + 1) qmin
    if d.exp ≥ q then d
    else { d with man := rneShift d.man (q - d.exp).toNat, exp := q }

/-- The mantissa of a value at exponent `q`, where `q` is at or below every exponent in use or the value is a
multiple of `2^q`. -/
def Dy.manAt (d : Dy) (q : Int) : Nat :=
  if d.exp ≥ q then d.man <<< (d.exp - q).toNat else d.man >>> (q - d.exp).toNat

/-- The bits of a value already on the grid of a binary format with `e` exponent bits, `f` fraction bits and bias
`2^(e-1) - 1`, infinity past the largest finite magnitude. -/
def packIeee (e f : Nat) (d : Dy) : Nat :=
  let bias : Int := 2 ^ (e - 1) - 1
  let s := b2n d.neg * 2 ^ (e + f)
  if d.man = 0 then s
  else
    let l := d.log2
    if l > bias then s + (2 ^ e - 1) * 2 ^ f
    else if l < 1 - bias then s + d.manAt (1 - bias - (f : Int))
    else s + (l + bias).toNat * 2 ^ f + d.manAt (l - (f : Int)) % 2 ^ f

/-- Round and encode in a binary format with `e` exponent and `f` fraction bits. -/
def roundIeee (e f : Nat) (d : Dy) : Nat :=
  packIeee e f (roundTo (f + 1) (2 - 2 ^ (e - 1) - (f : Int)) d)

/-- The value of a binary format's bits; infinities and NaNs answer `none`. -/
def unpackIeee (e f x : Nat) : Option Dy :=
  let bias : Int := 2 ^ (e - 1) - 1
  let ex := bits x (e + f - 1) f
  let fr := x % 2 ^ f
  let neg := bit x (e + f)
  if ex = 2 ^ e - 1 then none
  else if ex = 0 then some ⟨neg, fr, 1 - bias - (f : Int)⟩
  else some ⟨neg, 2 ^ f + fr, (ex : Int) - bias - (f : Int)⟩

/-- What an FP32 pattern stands for (R50). -/
def num32 (x : W32) : Num :=
  match unpackIeee 8 23 x.toNat with
  | some d => .fin d
  | none => if x.toNat % 2 ^ 23 = 0 then .inf (x.getLsbD 31) else .nan x

/-- FP32 bits of an exact value, rounded once (R52). -/
def f32 (d : Dy) : W32 := BitVec.ofNat 32 (roundIeee 8 23 d)

/-- FP32 infinity of a sign. -/
def inf32 (neg : Bool) : W32 := if neg then 0xFF800000#32 else 0x7F800000#32

/-- A NaN with its quiet bit set (R52). -/
def quiet (x : W32) : W32 := x ||| 0x00400000#32

/-- Is the pattern a NaN? -/
def isNaN (x : W32) : Bool := match num32 x with | .nan _ => true | _ => false

/-- Is the pattern an infinity? -/
def isInf (x : W32) : Bool := match num32 x with | .inf _ => true | _ => false

/-- Is the pattern a NaN or an infinity? -/
def nonFinite (x : W32) : Bool := isNaN x || isInf x

/-- FP32 bits of a decoded value. -/
def Num.to32 : Num → W32
  | .nan b => b
  | .inf n => inf32 n
  | .fin d => f32 d

/-- Exact sum; an exact zero is +0 unless both addends are -0 (IEEE round to nearest). -/
def Dy.add (a b : Dy) : Dy :=
  let q := min a.exp b.exp
  let x := a.manAt q
  let y := b.manAt q
  if a.neg = b.neg then ⟨a.neg, x + y, q⟩
  else if x > y then ⟨a.neg, x - y, q⟩
  else if y > x then ⟨b.neg, y - x, q⟩
  else ⟨false, 0, q⟩

/-- Exact product. -/
def Dy.mul (a b : Dy) : Dy := ⟨a.neg != b.neg, a.man * b.man, a.exp + b.exp⟩

/-- Negation of an exact value. -/
def Dy.negate (a : Dy) : Dy := { a with neg := !a.neg }

/-- Is `a < b` as numbers (zeros of both signs equal)? -/
def Dy.lt (a b : Dy) : Bool :=
  let q := min a.exp b.exp
  let x : Int := if a.neg then -(a.manAt q : Int) else a.manAt q
  let y : Int := if b.neg then -(b.manAt q : Int) else b.manAt q
  decide (x < y)

/-- Magnitude comparison: `|a| < |b|`. -/
def Dy.magLt (a b : Dy) : Bool :=
  let q := min a.exp b.exp
  decide (a.manAt q < b.manAt q)

/-- The first NaN among the operands, quiet bit set, sign and payload kept (R52). -/
def firstNaN : List W32 → Option W32
  | [] => none
  | x :: r => if isNaN x then some (quiet x) else firstNaN r

/-- Sum of two decoded values. -/
def Num.add : Num → Num → Num
  | .nan x, _ => .nan (quiet x)
  | _, .nan y => .nan (quiet y)
  | .inf a, .inf b => if a = b then .inf a else .nan qnan
  | .inf a, .fin _ => .inf a
  | .fin _, .inf b => .inf b
  | .fin a, .fin b => .fin (a.add b)

/-- Product of two decoded values. -/
def Num.mul : Num → Num → Num
  | .nan x, _ => .nan (quiet x)
  | _, .nan y => .nan (quiet y)
  | .inf a, .inf b => .inf (a != b)
  | .inf a, .fin d => if d.man = 0 then .nan qnan else .inf (a != d.neg)
  | .fin d, .inf b => if d.man = 0 then .nan qnan else .inf (b != d.neg)
  | .fin a, .fin b => .fin (a.mul b)

/-- Negation of a decoded value. -/
def Num.negate : Num → Num
  | .nan x => .nan x
  | .inf n => .inf (!n)
  | .fin d => .fin d.negate

/-- FP32 addition (R52). -/
def fadd (a b : W32) : W32 := (Num.add (num32 a) (num32 b)).to32

/-- FP32 subtraction; a NaN operand is returned as it came (R52). -/
def fsub (a b : W32) : W32 :=
  match firstNaN [a, b] with
  | some n => n
  | none => (Num.add (num32 a) (num32 b).negate).to32

/-- FP32 multiplication (R52). -/
def fmul (a b : W32) : W32 := (Num.mul (num32 a) (num32 b)).to32

/-- FP32 fused multiply-add `a × b + c`, one rounding; NaNs in operand order (R52). -/
def ffma (a b c : W32) : W32 :=
  match firstNaN [a, b, c] with
  | some n => n
  | none => (Num.add (Num.mul (num32 a) (num32 b)) (num32 c)).to32

/-- Negation inverts bit 31 of whatever the operand holds (R52). -/
def fneg (a : W32) : W32 := a ^^^ 0x80000000#32

/-- ABS clears bit 31 (R52). -/
def fabs (a : W32) : W32 := a &&& 0x7FFFFFFF#32

/-- Floor square root by `n` bit steps from bit `n - 1` down. -/
def isqrtFrom : Nat → Nat → Nat → Nat
  | 0, _, r => r
  | k + 1, n, r =>
    let c := r + 2 ^ k
    if c * c ≤ n then isqrtFrom k n c else isqrtFrom k n r

/-- Floor of the square root. -/
def isqrt (n : Nat) : Nat := isqrtFrom (Nat.log2 n / 2 + 1) n 0

/-- Quotient `a / b` with at least `p + 2` significant bits and a sticky last bit, so that one later rounding to `p`
bits is correct. -/
def divSticky (p : Nat) (a b : Dy) : Dy :=
  let k := p + 3 + Nat.log2 b.man
  let n := a.man <<< k
  let q := n / b.man
  ⟨a.neg != b.neg, 2 * q + b2n (n % b.man != 0), a.exp - b.exp - (k : Int) - 1⟩

/-- Square root of a non-negative value with a sticky last bit. -/
def sqrtSticky (p : Nat) (a : Dy) : Dy :=
  let k := 2 * p + 6
  let e := a.exp - (k : Int)
  let odd := e % 2 ≠ 0
  let n := a.man <<< (if odd then k + 1 else k)
  let e := if odd then e - 1 else e
  let r := isqrt n
  ⟨false, 2 * r + b2n (r * r != n), e / 2 - 1⟩

/-- FP32 division, correctly rounded (R310). -/
def fdiv (a b : W32) : W32 :=
  match num32 a, num32 b with
  | .nan x, _ => quiet x
  | _, .nan y => quiet y
  | .inf _, .inf _ => qnan
  | .inf n, .fin d => inf32 (n != d.neg)
  | .fin d, .inf n => f32 ⟨d.neg != n, 0, 0⟩
  | .fin x, .fin y =>
    if y.man = 0 then (if x.man = 0 then qnan else inf32 (x.neg != y.neg))
    else f32 (divSticky 24 x y)

/-- FP32 square root, correctly rounded (R310). -/
def fsqrt (a : W32) : W32 :=
  match num32 a with
  | .nan x => quiet x
  | .inf n => if n then qnan else inf32 false
  | .fin d => if d.man = 0 then a else if d.neg then qnan else f32 (sqrtSticky 24 d)

/-- Order of IEEE 754-2019 minimum and maximum: -0 below +0; no NaN among the operands. -/
def numBelow : Num → Num → Bool
  | .inf a, .inf b => a && !b
  | .inf a, .fin _ => a
  | .fin _, .inf b => !b
  | .fin a, .fin b =>
    if a.man = 0 && b.man = 0 then a.neg && !b.neg else a.lt b
  | _, _ => false

/-- IEEE 754-2019 minimum: a NaN operand gives NaN, -0 below +0. -/
def fmin (a b : W32) : W32 :=
  match firstNaN [a, b] with
  | some n => n
  | none => if numBelow (num32 b) (num32 a) then b else a

/-- IEEE 754-2019 maximum. -/
def fmax (a b : W32) : W32 :=
  match firstNaN [a, b] with
  | some n => n
  | none => if numBelow (num32 a) (num32 b) then b else a

/-- IEEE ordered comparison `a > b`; false with a NaN, zeros equal (R491). -/
def fgt (a b : W32) : Bool :=
  match num32 a, num32 b with
  | .inf x, .inf y => y && !x
  | .inf x, .fin _ => !x
  | .fin _, .inf y => y
  | .fin x, .fin y => y.lt x
  | _, _ => false

/-- IEEE ordered comparison `a = b` (R491). -/
def feq (a b : W32) : Bool :=
  !isNaN a && !isNaN b && !fgt a b && !fgt b a

/-- FP32 of an integer, exact within 2^24 (R140). -/
def fnat (n : Nat) : W32 := f32 ⟨false, n, 0⟩

/-- The exact value of an FP32 pattern known to be finite; others read as zero. -/
def dy32 (x : W32) : Dy := match num32 x with | .fin d => d | _ => ⟨false, 0, 0⟩

/-- 1.0 in FP32. -/
def one32 : W32 := 0x3F800000#32

/-- An exact sum under construction: `m × 2^e` with a signed mantissa. -/
structure Ex where
  m : Int
  e : Int
  deriving DecidableEq, Repr

/-- The exact sum of two values. -/
def Ex.add (a b : Ex) : Ex :=
  if a.m = 0 then b else if b.m = 0 then a
  else
    let q := min a.e b.e
    ⟨a.m * 2 ^ (a.e - q).toNat + b.m * 2 ^ (b.e - q).toNat, q⟩

/-- A dyadic value as an exact sum. -/
def Dy.ex (d : Dy) : Ex := ⟨if d.neg then -(d.man : Int) else d.man, d.exp⟩

/-- `x / 2^q` rounded to the nearest integer, ties to even (R94). -/
def Ex.rneAt (x : Ex) (q : Int) : Int :=
  if x.e ≥ q then x.m * 2 ^ (x.e - q).toNat
  else
    let r : Int := rneShift x.m.natAbs (q - x.e).toNat
    if x.m < 0 then -r else r

end Sys2Proof.Machine
end

