-- ==== Sys2Proof/Machine/Operands.lean ====
section
/-! DEFINITION. Every operand form of the engines: the element formats of R49 to R54, block scales (R55 to R61),
roundings (R62 to R64) and the stochastic generator (R65). -/
namespace Sys2Proof.Machine

/-- The element formats that R49 names; reserved codes have none. -/
inductive Fmt where
  | fp32 | bf16 | e4m3 | e5m2 | e3m2 | e2m3 | e2m1 | int8
  deriving DecidableEq, Repr

/-- R49's 4-bit code; 0x8 to 0xF are reserved. -/
def Fmt.ofCode (c : BitVec 4) : Option Fmt :=
  match c.toNat with
  | 0 => some .fp32 | 1 => some .bf16 | 2 => some .e4m3 | 3 => some .e5m2
  | 4 => some .e3m2 | 5 => some .e2m3 | 6 => some .e2m1 | 7 => some .int8
  | _ => none

/-- The code of a format (R49). -/
def Fmt.code : Fmt → Nat
  | .fp32 => 0 | .bf16 => 1 | .e4m3 => 2 | .e5m2 => 3 | .e3m2 => 4 | .e2m3 => 5 | .e2m1 => 6 | .int8 => 7

/-- Element width of R49. -/
def Fmt.width : Fmt → Nat
  | .fp32 => 32 | .bf16 => 16 | .e4m3 => 8 | .e5m2 => 8 | .e3m2 => 6 | .e2m3 => 6 | .e2m1 => 4 | .int8 => 8

/-- Bits an element takes in a tile register (FP6 takes a byte, R54). -/
def Fmt.regBits : Fmt → Nat
  | .e3m2 => 8 | .e2m3 => 8 | f => f.width

/-- Does the format carry block scales (R49)? -/
def Fmt.scaled : Fmt → Bool
  | .e4m3 => true | .e5m2 => true | .e3m2 => true | .e2m3 => true | .e2m1 => true | _ => false

/-- Product lanes per cell (R68). -/
def Fmt.lanes : Fmt → Nat
  | .fp32 => 1 | .bf16 => 1 | .e2m1 => 4 | _ => 2

/-- Rows of R59's pairing table: two formats pair when their classes agree. -/
def Fmt.pairClass : Fmt → Nat
  | .fp32 => 0 | .bf16 => 1 | .int8 => 3 | .e2m1 => 4 | _ => 2

/-- Unbiased exponent of the largest finite value of a scaled format (before R60). -/
def Fmt.emax : Fmt → Int
  | .e4m3 => 8 | .e5m2 => 15 | .e3m2 => 4 | .e2m3 => 2 | .e2m1 => 2 | _ => 0

/-- Fraction bits (R50). -/
def Fmt.frac : Fmt → Nat
  | .fp32 => 23 | .bf16 => 7 | .e4m3 => 3 | .e5m2 => 2 | .e3m2 => 2 | .e2m3 => 3 | .e2m1 => 1 | .int8 => 0

/-- Exponent bits (R50). -/
def Fmt.ebits : Fmt → Nat
  | .fp32 => 8 | .bf16 => 8 | .e4m3 => 4 | .e5m2 => 5 | .e3m2 => 3 | .e2m3 => 2 | .e2m1 => 2 | .int8 => 0

/-- Exponent bias (R50). -/
def Fmt.bias : Fmt → Int
  | .fp32 => 127 | .bf16 => 127 | .e4m3 => 7 | .e5m2 => 15 | .e3m2 => 3 | .e2m3 => 1 | .e2m1 => 1 | .int8 => 0

/-- Largest finite magnitude (R50). -/
def Fmt.maxFinite : Fmt → Dy
  | .fp32 => ⟨false, 2 ^ 24 - 1, 104⟩
  | .bf16 => ⟨false, 255, 120⟩
  | .e4m3 => ⟨false, 448, 0⟩
  | .e5m2 => ⟨false, 57344, 0⟩
  | .e3m2 => ⟨false, 28, 0⟩
  | .e2m3 => ⟨false, 15, -1⟩
  | .e2m1 => ⟨false, 6, 0⟩
  | .int8 => ⟨false, 127, 0⟩

/-- Value of an element's code without its scale (R50 to R52); bits above the format's width are ignored (R54). -/
def Fmt.value (f : Fmt) (raw : Nat) : Num :=
  match f with
  | .fp32 => num32 (BitVec.ofNat 32 raw)
  | .bf16 => num32 (BitVec.ofNat 32 (raw % 65536 * 65536))
  | .int8 => .fin (if raw % 256 ≥ 128 then ⟨true, 256 - raw % 256, 0⟩ else ⟨false, raw % 256, 0⟩)
  | f =>
    let neg := bit raw (f.ebits + f.frac)
    let ex := bits raw (f.ebits + f.frac - 1) f.frac
    let fr := raw % 2 ^ f.frac
    if f = .e4m3 && ex = 15 && fr = 7 then .nan qnan
    else if f = .e5m2 && ex = 31 then (if fr = 0 then .inf neg else .nan qnan)
    else if ex = 0 then .fin ⟨neg, fr, 1 - f.bias - (f.frac : Int)⟩
    else .fin ⟨neg, 2 ^ f.frac + fr, (ex : Int) - f.bias - (f.frac : Int)⟩

/-- The decode of R58: the element's value under scale byte `c`. -/
def Fmt.decode (f : Fmt) (raw c : Nat) : Num :=
  if f.scaled then
    if c = 0xFF then .nan qnan
    else match f.value raw with
      | .fin d => .fin { d with exp := d.exp + ((c : Int) - 127) }
      | v => v
  else f.value raw

/-- How a narrowing rounds: to nearest even (R62), or stochastically by a drawn number (R64). -/
inductive Rounding where
  | rne
  | sr (r : Nat)
  deriving DecidableEq, Repr

/-- A magnitude rounded to the format's grid at its own binade, exponent unbounded above (R62, R64). -/
def Fmt.roundMag (f : Fmt) (m : Rounding) (d : Dy) : Dy :=
  let qmin : Int := if f = .int8 then 0 else 1 - f.bias - (f.frac : Int)
  if d.man = 0 then ⟨d.neg, 0, qmin⟩
  else
    let q : Int := if f = .int8 then 0 else max (d.log2 - (f.frac : Int)) qmin
    if d.exp ≥ q then d
    else
      let k := (q - d.exp).toNat
      match m with
      | .rne => { d with man := rneShift d.man k, exp := q }
      | .sr r =>
        let lo := d.man >>> k
        let f16 := (d.man % 2 ^ k) * 65536 / 2 ^ k
        { d with man := if f16 + r ≥ 65536 then lo + 1 else lo, exp := q }

/-- Code of a grid value no larger than the largest finite one (R50). -/
def Fmt.pack (f : Fmt) (d : Dy) : Nat :=
  let s := b2n d.neg * 2 ^ (f.ebits + f.frac)
  if d.man = 0 then s
  else if d.log2 < 1 - f.bias then s + d.manAt (1 - f.bias - (f.frac : Int))
  else s + (d.log2 + f.bias).toNat * 2 ^ f.frac + d.manAt (d.log2 - (f.frac : Int)) % 2 ^ f.frac

/-- Narrow a finite value: round, then the overflow column of R62. -/
def Fmt.encodeFin (f : Fmt) (m : Rounding) (sat : Bool) (d : Dy) : Nat :=
  let g := f.roundMag m d
  match f with
  | .int8 =>
    let n := g.manAt 0
    if d.neg then (256 - min n 128) % 256 else min n 127
  | .bf16 => if f.maxFinite.magLt g then (b2n d.neg * 32768 + if sat then 0x7F7F else 0x7F80) else f.pack g
  | f => if f.maxFinite.magLt g then f.pack { f.maxFinite with neg := d.neg } else f.pack g

/-- Narrow an FP32 value to an unscaled format (R62, R63). -/
def Fmt.encode32 (f : Fmt) (m : Rounding) (sat : Bool) (x : W32) : Nat :=
  match f, num32 x with
  | .fp32, _ => x.toNat
  | .int8, .nan _ => 0
  | .int8, .inf n => if n then 0x80 else 0x7F
  | .bf16, .nan b => (b.toNat / 65536) ||| 0x40
  | .bf16, .inf n => b2n n * 32768 + 0x7F80
  | f, .fin d => f.encodeFin m sat d
  | _, .nan _ => 0
  | f, .inf n => if f = .e5m2 then b2n n * 128 + 0x7C else 0

/-- Largest magnitude among the finite values of a block (before R60). -/
def amaxDy : List W32 → Dy
  | [] => ⟨false, 0, 0⟩
  | x :: r => match num32 x with
    | .fin d => let y := amaxDy r; if y.magLt d then { d with neg := false } else y
    | _ => amaxDy r

/-- The scale code that R60 chooses for a block. -/
def Fmt.chooseScale (f : Fmt) (safe : Bool) (xs : List W32) : Nat :=
  if xs.any isNaN then 0xFF
  else if xs.any isInf && f != .e5m2 then 0xFF
  else
    let a := amaxDy xs
    if a.man = 0 then 0x7F
    else
      let s : Int := a.log2 - f.emax
      let tooBig := f.maxFinite.magLt (f.roundMag .rne { a with exp := a.exp - s })
      let s := if safe && tooBig then s + 1 else s
      let s := max (-127) (min 127 s)
      (s + 127).toNat

/-- One element of a block under its chosen scale (R60, R61). -/
def Fmt.encodeScaled (f : Fmt) (m : Rounding) (c : Nat) (x : W32) : Nat :=
  if c = 0xFF then 0
  else match num32 x with
    | .fin d => f.encodeFin m false { d with exp := d.exp - ((c : Int) - 127) }
    | .inf n => if f = .e5m2 then b2n n * 128 + 0x7C else 0
    | .nan _ => 0

/-- `mix` of R65. -/
def mix (z : W64) : W64 :=
  let z := (z ^^^ (z >>> 31)) * 0xD6E8FEB86659FD93#64
  let z := (z ^^^ (z >>> 29)) * 0xA0B428DB4F8E5D27#64
  z ^^^ (z >>> 32)

/-- `r16` of R65. -/
def r16 (S : W64) (u n i : Nat) : Nat :=
  let k := mix (S ^^^ mix (BitVec.ofNat 64 (u % 2 ^ 32 * 2 ^ 32 + n % 2 ^ 32)))
  let w := mix (k + BitVec.ofNat 64 (i / 4) * 0xC6BC279692B5C323#64)
  w.toNat >>> (16 * (i % 4)) % 65536

/-- Element `i` of a run of store words, at the format's register width (R53, R54). -/
def lineElem (f : Fmt) (w : Line) (i : Nat) : Nat :=
  bits w.toNat (f.regBits * i + f.regBits - 1) (f.regBits * i)

/-- Elements in one 64-byte word of register form. -/
def Fmt.perWord (f : Fmt) : Nat := 512 / f.regBits

/-- The word that holds the given codes, first element lowest (R53, R54). -/
def codesLine (f : Fmt) (l : List Nat) : Line :=
  BitVec.ofNat 512 (l.foldr (fun c a => a * 2 ^ f.regBits + c % 2 ^ f.regBits) 0)

/-- The sixteen FP32 values of a word, first lowest. -/
def lineF32 (w : Line) : List W32 :=
  (List.range 16).map fun i => BitVec.ofNat 32 (bits w.toNat (32 * i + 31) (32 * i))

/-- The word of sixteen FP32 values. -/
def f32Line (l : List W32) : Line :=
  BitVec.ofNat 512 (l.foldr (fun c a => a * 2 ^ 32 + c.toNat) 0)

/-- The exponent tag of R96: the largest exponent field over the finite non-zero BF16 lanes, 0xFF with none. -/
def expTag (w : Line) : Nat :=
  let es := (List.range 32).filterMap fun i =>
    let x := bits w.toNat (16 * i + 15) (16 * i)
    let e := bits x 14 7
    if e = 0xFF || x % 32768 = 0 then none else some e
  es.foldl (fun a e => if a = 0xFF then e else max a e) 0xFF

/-- The sub-block map of R171; a poisoned word has every bit set. -/
def subMap (w : Line) (poison : Bool) : Nat :=
  if poison then 0xFFFF
  else ((List.range 16).map fun b => b2n (bits w.toNat (32 * b + 31) (32 * b) != 0) * 2 ^ b).sum

end Sys2Proof.Machine
end

