-- ==== Sys2Proof/Machine/State.lean ====
section
/-! DEFINITION. The state of the device as plain data: every register, buffer, queue, counter, mode and pin the manual
gives it, the queue of waiting commands, and the value after reset. Ticks, counts and indices are natural numbers;
what software reads as a word is a bit vector. -/
namespace Sys2Proof.Machine

/-- One value for each engine of a stall. -/
structure Per4 (α : Type) where
  mx : α
  vx : α
  pt : α
  ex : α
  deriving DecidableEq, Repr

/-- The component of an engine. -/
def Per4.get {α : Type} (p : Per4 α) : Eng → α
  | .mx => p.mx | .vx => p.vx | .pt => p.pt | .ex => p.ex

/-- Replace the component of an engine. -/
def Per4.set {α : Type} (p : Per4 α) (e : Eng) (v : α) : Per4 α :=
  match e with
  | .mx => { p with mx := v } | .vx => { p with vx := v } | .pt => { p with pt := v } | .ex => { p with ex := v }

/-- The same value four times. -/
def Per4.all {α : Type} (v : α) : Per4 α := ⟨v, v, v, v⟩

/-- The stored words and counters of one register page (R458, R462 to R464): live and shadow words by page offset
(an unlisted word holds its reset value), counters by page offset, COUNTER_SAT, EVENT_PENDING, whether a commit is pending, the
dirty bit, and the shadow writes and the COMMIT write that reached the page in the tick of a boundary that is still to be
taken, which belong to the next (R464). -/
structure Page where
  live : List (Nat × W32)
  shadow : List (Nat × W32)
  counters : List (Nat × W64)
  sat : W32
  pendingEv : BitVec 5
  commit : Bool
  dirty : Bool
  lateShadow : List (Nat × W32)
  lateCommit : Bool
  deriving DecidableEq, Repr

/-- A page whose every word holds its reset value. -/
def Page.empty : Page := ⟨[], [], [], 0#32, 0#5, false, false, [], false⟩

/-- One job's sub-queue of one engine (R109): round base (R33), failed-check count (R115), program counter, words
waiting (at most 64) and their ordinals, ordinal of the stream's next word, the stop of R124, STEP_END issued, the last
offset that arrived (R111), and the ordinal and tick of the word issued last. -/
structure SubQ where
  base : Nat
  fails : Nat
  pc : Nat
  words : List CWord
  ords : List Nat
  next : Nat
  stopped : Bool
  ended : Bool
  lastOff : Option Nat
  lastPc : Nat
  lastTick : Nat
  deriving DecidableEq, Repr

/-- A chit account (R214). -/
structure Account where
  granter : Nat
  ring : Nat
  count : Nat
  k : Nat
  deriving DecidableEq, Repr

/-- A sender's stream counter (R221): kind and target of the stream, and the next alive value. -/
structure Stream where
  kind : Nat
  dst : Nat
  target : Nat
  next : Nat
  deriving DecidableEq, Repr

/-- One job slot of a stall at run time (R109, R129, R130, R214, R220, R221, R394): `srOrd` is the ordinal of R65,
`step` the step whose go was accepted last, `feed` the words that its fetchers hold for a sub-queue without room (R446; none for
a word that is not delivered, R399). -/
structure SlotSt where
  running : Bool
  refused : Bool
  draining : Bool
  abortReq : Bool
  step : Nat
  q : Per4 SubQ
  sendRv : W32
  recvRv : W32
  accounts : List Account
  streams : List Stream
  poisonHit : Bool
  poisonDue : Bool
  srOrd : Nat
  feed : Per4 (List (Option CWord))
  deriving DecidableEq, Repr

/-- An engine's occupancy (R110, R124): busy until a tick with a word of a slot. -/
structure Busy where
  till : Nat
  slot : Nat
  deriving DecidableEq, Repr

/-- A bank's state (R187, R188, R195): owner entry in force as R200 encodes it (0 none), awake, planned end of a
scrub, planned end of a wake, woken for a stealer write, rows mapped to its spare rows in order (R198; a sidecar row is
numbered after the data rows), whether inbound exchange was granted last (R184), entry to retention due (R195), and the
rows that its running scrub has zeroed (R188). -/
structure Bank where
  owner : BitVec 8
  awake : Bool
  scrubEnd : Option Nat
  wakeEnd : Option Nat
  stealWoken : Bool
  spares : List Nat
  lastEx : Bool
  sleepAt : Option Nat
  scrubbed : Nat
  deriving DecidableEq, Repr

/-- A BULK assigned to a ring slot and not yet passed by the tail (R217, R218): `inc` is its tally, increment and the message
as an event names it (R226). -/
structure Landing where
  ix : Nat
  complete : Bool
  inc : Option (Nat × Nat × Nat)
  fold : List Line
  deriving DecidableEq, Repr

/-- A ring's pointers and protocol counts (R193, R215, R300); `incs` are tally increments held with held slots. -/
structure RingSt where
  head : Nat
  tail : Nat
  held : Nat
  heldStep : Nat
  outstanding : Nat
  landing : List Landing
  incs : List (Nat × Nat × Nat × Nat)
  deriving DecidableEq, Repr

/-- A stationary set (R70, R87, R161): the W slot it was read from, its tile words as far as they have been read, scales,
positions, and its marks. -/
structure StatSet where
  job : Nat
  slot : Nat
  fmt : Fmt
  nMajor : Bool
  struct : Pattern
  tile : List Line
  scales : List Nat
  pos : List Nat
  poisoned : Bool
  stamp : Nat
  deriving DecidableEq, Repr

/-- The pass last issued (R89): due tick, rows, job, and the tick at which the array is free of it and of every pass before
it (R91). -/
structure PassRec where
  start : Nat
  m : Nat
  free : Nat
  job : Nat
  deriving DecidableEq, Repr

/-- The load last issued (R70, R89, R164): start, length, job, job slot's word, words read so far, and the meta words of a
structured one. -/
structure LoadRec where
  start : Nat
  len : Nat
  job : Nat
  pc : Nat
  done : Nat
  meta_ : List Line
  deriving DecidableEq, Repr

/-- A foot entry (R84, R93): short sum or 22-bit extreme, saturation, special, and whether it holds a contribution. -/
structure FootEnt where
  s : Int
  sat : Bool
  spec : BitVec 2
  used : Bool
  deriving DecidableEq, Repr

/-- Window tops of the two halves, their clamps, and the chain count of an interval (R95 to R104). -/
structure Window where
  topL : Option Int
  topR : Option Int
  clampL : Bool
  clampR : Bool
  chain : Nat
  deriving DecidableEq, Repr

/-- A foot row that is not cleared (R77, R87, R170). `win` is the window released to it (R98), none while the window in
force of its group is its own. -/
structure FootRow where
  extreme : Bool
  job : Nat
  poison : Bool
  win : Option Window
  ents : List FootEnt
  deriving DecidableEq, Repr

/-- A foot group (R77, R87, R98, R100): window in force, pass count, and the job that both are of. -/
structure FootGroup where
  win : Window
  passes : Nat
  job : Nat
  deriving DecidableEq, Repr

/-- What a pass needs of itself (R86, R99): its set, moving format, word, first foot row of its job, promotion interval and
headroom. -/
structure PassCtx where
  set : StatSet
  fa : Fmt
  w : Mma
  first : Nat
  l : Nat
  head : Nat
  deriving DecidableEq, Repr

/-- A moving row as it entered the array: its words, and the scale bytes of the blocks of each. -/
structure MovRow where
  words : List (Line × Bool)
  scales : List (List Nat)
  deriving DecidableEq, Repr

/-- A pass whose rows have not all reached the stores (R72): due tick, job, job slot, ordinal of its word, a stray kept element
(R166), next tick to run, rows entered and not yet written to the foot, the windows released to its groups (by 8 × sub-array + group of the
pass; none while the window in force is used), and the sub-blocks skipped as (sub-array, group, block). -/
structure PassRun where
  ctx : PassCtx
  start : Nat
  job : Nat
  slot : Nat
  pc : Nat
  stray : Bool
  upto : Nat
  rows : List (Nat × MovRow)
  wins : List (Nat × Option Window)
  skips : List (Nat × Nat × Nat)
  deriving DecidableEq, Repr

/-- The matrix array (R68 to R104): sets, last pass and load, passes under way in issue order, foot rows, groups, and the tick
at which each row handed over at a boundary is still to be cleared (R88, R92). -/
structure ArraySt where
  active : Option StatSet
  shadow : Option StatSet
  pass : Option PassRec
  load : Option LoadRec
  runs : List PassRun
  foot : List (Nat × FootRow)
  groups : List (Nat × FootGroup)
  clearing : List (Nat × Nat)
  deriving DecidableEq, Repr

/-- A packed tile or statistics record on its way into a ring (R154): ring, pointer of its first slot, slots, words and their
poison. -/
structure RingPut where
  ring : Nat
  ptr : Nat
  n : Nat
  words : List Line
  poison : Bool
  deriving DecidableEq, Repr

/-- A word issued and not completed (R110, R116): job, step, issue tick, completion tick, its common fields, head advances and
ring writes that act with it, and the plausibility and payload findings that its completion reports (R398, R156). -/
structure Flight where
  eng : Eng
  slot : Nat
  job : Nat
  step : Nat
  pc : Nat
  issue : Nat
  tick : Nat
  common : Common
  heads : List (Nat × Nat)
  tails : List RingPut
  plaus : Option Nat
  sparse : Option Nat
  deriving DecidableEq, Repr

/-- Where bytes of a transfer lie in the stall: a store word, a sidecar entry, a tile status word, or nowhere. -/
inductive Place where
  | word (store addr : Nat)
  | side (store slot : Nat)
  | status (key : Nat)
  | none
  deriving DecidableEq, Repr

/-- A run of bytes of a transfer: virtual address, length, place and offset in it (R249 to R251, R256). -/
structure PRun where
  va : Nat
  n : Nat
  place : Place
  off : Nat
  deriving DecidableEq, Repr

/-- A memory block of a transfer: block-aligned virtual address, translated physical address, cause of a page fault (0
none, 1 UNMAPPED, 2 READONLY, 3 HOLE), data taken from a run-ahead buffer, and progress. -/
structure PBlock where
  va : Nat
  pa : Nat
  cause : Nat
  snap : Option (Line × Bool)
  requested : Bool
  held : Bool
  rereads : Nat
  landed : Bool
  data : Line
  poison : Bool
  deriving DecidableEq, Repr

/-- The three kinds of transfer (R256). -/
inductive PtKind where
  | get | put | gather
  deriving DecidableEq, Repr

/-- A transfer that holds a tag (R257). `queued` lists the places whose words have been queued as stealers, `reads` the source
words of a PUT and the words of an index that have been read; `rowsOf` is the word of a transfer by ordinal, with its ring
pointer, until its index has been read (R256). -/
structure Transfer where
  kind : PtKind
  slot : Nat
  job : Nat
  step : Nat
  pc : Nat
  issue : Nat
  common : Common
  runs : List PRun
  blocks : List PBlock
  tail : Option (Nat × Nat)
  waiting : Nat
  queued : List Nat
  reads : List (Nat × (Line × Bool))
  faulted : Bool
  resent : Bool
  starved : Bool
  commit : Bool
  grad : Bool
  rowsOf : Option (Porter × Nat)
  deriving DecidableEq, Repr

/-- A stealer word waiting for its bank (R184): the transfer's tag or the message it belongs to, and its read or write. -/
structure Steal where
  bank : Nat
  read : Bool
  tag : Option Nat
  hdr : BitVec 128
  job : Nat
  place : Place
  data : Line
  poison : Bool
  since : Nat
  deriving DecidableEq, Repr

/-- A message accepted at its flit 0 and not yet landed (R217): the tick at which its last flit so far arrived (R225), its
ring slot, words that wait for their banks, whether its last flit has arrived, its status word, the words that have arrived,
those whose flits are under way, and the store words that it has written, by key, as they stood before. -/
structure Inbound where
  hdr : BitVec 128
  since : Nat
  slotIx : Option Nat
  waiting : Nat
  last : Bool
  status : Option W32
  payload : List Line
  coming : List Line
  wrote : List (Nat × (Line × Bool))
  deriving DecidableEq, Repr

/-- The engine fault record (R132, R134). -/
structure FaultRec where
  valid : Bool
  code : Nat
  engine : Nat
  job : Nat
  store : Nat
  slot : Nat
  tick : Nat
  stamp : Nat
  word : Nat
  aux : W32
  deriving DecidableEq, Repr

/-- What takes effect at the end of a tick (R120). -/
inductive Act where
  | setFlag (i : Nat)
  | clearFlag (i : Nat)
  | addTally (i n aux : Nat)
  | popRing (r n job eng pc due : Nat)
  | pushRing (r n job : Nat) (inc : Option (Nat × Nat × Nat))
  | packRing (p : RingPut) (job : Nat)
  | grant (k granter ring n sz : Nat)
  | bulkDone (r ix job : Nat)
  | resolve (r : Nat) (commit : Bool)
  deriving DecidableEq, Repr

/-- What is due in a stall at a later tick: the status word that a passing stamp shows (R108); a bank clash at a port (R185); a
read of a row that holds an error, and the poison mark that an uncorrectable one leaves if its port was idle in the tick before
(R181, R182); the next flit of a message (R217); a bank's entry to retention after its scrub (R195). -/
inductive Due where
  | showStat (key : Nat)
  | clash (port : Nat)
  | readErr (key : Nat)
  | mark (key : Nat)
  | flit (hdr : BitVec 128)
  | sleep (bank : Nat)
  deriving DecidableEq, Repr

/-- An engine's access to a port in a tick (R185): the port (bank index, 128 more for the read port, 256 more for a
sidecar), whether it reads, the word's key or sidecar entry, and the job slot, engine, ordinal and issue tick of the control
word. -/
structure Access where
  tick : Nat
  port : Nat
  read : Bool
  key : Nat
  slot : Nat
  eng : Eng
  pc : Nat
  issue : Nat
  deriving DecidableEq, Repr

/-- A region open in the background tester (R197): bank, first row, what its test finds, the accesses that it has made, and
the first tick that it may use for the next. -/
structure Region where
  bank : Nat
  first : Nat
  finds : List RowFind
  done : Nat
  at_ : Nat
  deriving DecidableEq, Repr

/-- One stall (R6, R21, R109): its register page, stores, banks, flags, tallies, rings, job slots, engines, array,
transfers, messages and fault record. Store words are keyed by store × 4,096 + store word address, tile registers by
store × 128 + slot. `tshown` holds the status words as the last stamp passed left them (R108), `seen` flags and tallies at
the start of a tick in which a wait consumed (R134), `errs` the rows that hold an error by word key or sidecar entry (true:
uncorrectable, R181), `testQ` the rows queued for the tester, `regions` its open regions by store, `agenda` what is due at later ticks,
`claims` the port accesses of issued words and `used` the ports that stealers took, by tick (a sidecar entry stands for 2^20 +
store × 128 + slot among keys). -/
structure Stall where
  page : Page
  words : List (Nat × (Line × Bool))
  side : List (Nat × (Line × Bool))
  stamps : List (Nat × Nat)
  tstatus : List (Nat × W32)
  banks : List (Nat × Bank)
  flags : W32
  tallies : List (Nat × Nat)
  wrapped : W64
  rings : List (Nat × RingSt)
  slots : List (Nat × SlotSt)
  busy : Per4 Busy
  rr : List (Nat × Nat)
  winner : List (Nat × (Nat × Nat))
  array : ArraySt
  flight : List Flight
  tags : List (Nat × Transfer)
  steal : List Steal
  stealFrom : Nat
  retFrom : Nat
  inbound : List Inbound
  alive : List (Nat × List (Nat × Nat))
  smallFrom : List (Nat × Nat)
  fault : FaultRec
  satSeen : Bool
  satTile : Nat
  testAt : List (Nat × Nat)
  exhausted : Bool
  fenced : Bool
  acts : List Act
  actsAt : Nat
  tshown : List (Nat × W32)
  seen : Option (Nat × W32 × List (Nat × Nat))
  errs : List (Nat × Bool)
  testQ : List Nat
  regions : List (Nat × Region)
  agenda : List (Nat × Due)
  claims : List Access
  used : List (Nat × Nat)
  work : List (Nat × Nat)
  deriving DecidableEq, Repr

/-- An empty sub-queue. -/
def SubQ.empty : SubQ := ⟨0, 0, 0, [], [], 0, false, false, none, 0, 0⟩

/-- A job slot that has run nothing (R227: running values reset to all ones). -/
def SlotSt.empty : SlotSt :=
  ⟨false, false, false, false, 0, .all .empty, 0xFFFFFFFF#32, 0xFFFFFFFF#32, [], [], false, false, 0, .all []⟩

/-- A bank with no owner, in retention (R196). -/
def Bank.empty : Bank := ⟨0#8, false, none, none, false, [], false, none, 0⟩

/-- A ring at its configuration (R192). -/
def RingSt.empty : RingSt := ⟨0, 0, 0, 0, 0, [], []⟩

/-- The array with nothing loaded and every foot row cleared. -/
def ArraySt.empty : ArraySt := ⟨none, none, none, none, [], [], [], []⟩

/-- No fault recorded. -/
def FaultRec.empty : FaultRec := ⟨false, 0, 0, 0, 0, 0, 0, 0, 0, 0#32⟩

/-- A stall as the opening inspection leaves it (R196): banks unowned, in retention, all words zero. -/
def Stall.empty : Stall where
  page := .empty
  words := []
  side := []
  stamps := []
  tstatus := []
  banks := []
  flags := 0#32
  tallies := []
  wrapped := 0#64
  rings := []
  slots := []
  busy := .all ⟨0, 0⟩
  rr := []
  winner := []
  array := .empty
  flight := []
  tags := []
  steal := []
  stealFrom := 0
  retFrom := 0
  inbound := []
  alive := []
  smallFrom := []
  fault := .empty
  satSeen := false
  satTile := 0
  testAt := []
  exhausted := false
  fenced := false
  acts := []
  actsAt := 0
  tshown := []
  seen := none
  errs := []
  testQ := []
  regions := []
  agenda := []
  claims := []
  used := []
  work := []

/-- A device event before it is recorded (R390 to R392). -/
structure Ev where
  code : Nat
  sev : Nat
  job : Option Nat
  source : W32
  step : Nat
  tick : Nat
  aux : W64
  deriving DecidableEq, Repr

/-- The way of a message through the package (R203, R204): the outputs that it is granted in order, as ARB index, output and
requester (R229), and its mesh hops, die bridges and passes through hubs (R206). -/
structure Route where
  grants : List (Nat × Nat × Nat)
  hops : Nat
  dies : Nat
  hubs : Nat
  deriving DecidableEq, Repr

/-- What has left the device: an exchange message on the mesh with its route and flits (R204, R207), a NAK on a bridge channel (R224), a slot on a
LemefLink half-port (R427), a flit on an aisle port (R336), a BELLSYNC pulse (R38), a trace record with its lane (R484),
the answer of a register read, of SMBus (R487) or of the test port (R486): whether the boundary register was selected, the bits
shifted out, and the levels that it drives on the lands, if it does. -/
inductive Out where
  | msg (t : Nat) (route : Route) (hdr : BitVec 128) (flits : List (List Byte))
  | bridgeNak (t chan seq : Nat)
  | slot (t half : Nat) (data : List Byte)
  | flit (t port : Nat) (data : List Byte)
  | pulse (t : Nat)
  | trace (t lane : Nat) (data : List Byte)
  | read (t agent addr : Nat) (value : W64)
  | smbus (value : Nat)
  | tap (boundary : Bool) (out : List Bool) (drives : Option (List Bool))
  deriving DecidableEq, Repr

/-! ### Pins, fuses and boot -/

/-- The low-speed pins and the always-on domain (R473, R474, R478, R481, R486): straps as tied and as sampled, a release
of RESET_N seen while PWR_GOOD is low, a thermal trip in force, `last_trip`, and the test port's instruction, bypass register and
boundary register (empty until it has captured). -/
structure Pins where
  vio : Bool
  pwrGood : Bool
  resetN : Bool
  releasePending : Bool
  posPin : BitVec 6
  twinPin : Bool
  pos : BitVec 6
  twin : Bool
  trip : Bool
  lastTrip : Bool
  tap : TapInstr
  bypass : Bool
  boundary : List Bool
  deriving DecidableEq, Repr

/-- The one-time fuses (R451). -/
structure Fuses where
  grade : Nat
  serial : W64
  rollback : Nat
  keyHash : List Byte
  deriving DecidableEq, Repr

/-- The running firmware image (R449, R457). -/
structure FwImage where
  version : W32
  svn : Nat
  commitSvn : Bool
  digest : List Byte
  deriving DecidableEq, Repr

/-- Device state, boot phase, last rejection, hub that boots, image, whether both LemefLink ports have trained, whether the
opening inspection has finished, and the image as read and whether all of it was read, while its checks run (R14, R434, R447 to
R450). -/
structure Boot where
  dev : Nat
  phase : Nat
  reject : Nat
  hub : Nat
  image : Option FwImage
  trained : Bool
  inspected : Bool
  buffer : Option (List Byte × Bool)
  deriving DecidableEq, Repr

/-! ### The bell -/

/-- The bell (R26, R38 to R48, R346, R347): count, state, whether the current round is masked, pulse checking, masks,
announced mask, latest reports and values taken in, depth, master position, the one that a COMMIT to come brings and whether it
reached the page in the tick of a boundary still to be taken (R440, R464), and the next round, frame and sync boundaries to come. -/
structure Bell where
  now : Nat
  state : Nat
  masked : Bool
  onBackup : Bool
  acqRefused : Bool
  acqPending : Bool
  expected : Nat
  missed : Nat
  lastErr : Int
  maxAbs : Nat
  kLocal : Nat
  kSquare : Nat
  kApplied : Nat
  kDown : Option (Nat × Nat)
  kTable : List (Nat × Nat)
  kSent : Nat
  depth : Nat
  masterPos : Nat
  masterNext : Option (Nat × Bool)
  nextRound : Nat
  nextFrame : Nat
  nextSync : Nat
  nextMid : Nat
  deriving DecidableEq, Repr

/-! ### Jobs (R291 to R299, R364 to R368, R403, R422) -/

/-- A pitch entry of an admission record (R366). -/
structure PitchAdm where
  stalls : Nat
  span : Nat
  movable : Bool
  remote : Bool
  masks : List Nat
  banks : Nat
  rings : Nat
  flags : Nat
  tallies : Nat
  groups : Nat
  beats : Nat
  blocks : Nat
  hall : Nat
  deriving DecidableEq, Repr

/-- A 2 MiB page mapped for a job (R252, R264): virtual and physical address, write, companion access, and the pitch and
logical stall of a hall page. -/
structure MapEnt where
  va : Nat
  pa : Nat
  write : Bool
  comp : Bool
  hall : Option (Nat × Nat)
  deriving DecidableEq, Repr

/-- An unresolved step (R291 to R296, R304, R373, R403): number, sequence number of its STEP_RUN, guard mask and round,
start tick, attempt, attempts that do not count (R405), run (R353), release tick, whether it is running or waits for its
start, its schedule was computed, the counters that its commit gives to groups (R312, R329), close tick, flags raised in the attempt, flags carried in, peers' words and close ticks,
flag word sent, boundary R293 chose, armed guard tick and decision, GUARD_LATE raised, deferral, abort cause, and
DEADLINE_MISS raised. -/
structure StepSt where
  n : Nat
  seq : Nat
  guard : Nat
  gr : Nat
  start : Nat
  attempt : Nat
  uncounted : Nat
  run : Nat
  release : Nat
  sched : Bool
  groups : List (Nat × W64)
  closed : Option Nat
  flags : Nat
  carried : Nat
  peers : List (Nat × Nat × Nat)
  sent : Bool
  due : Option Nat
  armed : Option (Nat × Bool)
  late : Bool
  deferred : Bool
  abort : Option Nat
  missed : Bool
  deriving DecidableEq, Repr

/-- A twin binding (R356 to R359): fields, solo, mismatch, last compared step, the tables being assembled at position 0
as (step, position, state, seal), completion ticks of local tables, and partner tables held. -/
structure TwinSt where
  interval : Nat
  policy : Nat
  path : Nat
  timeout : Nat
  solo : Bool
  mismatch : Bool
  lastStep : Nat
  seals : List (Nat × Nat × Nat × W64)
  doneAt : List (Nat × Nat)
  partner : List (Nat × List Byte)
  deriving DecidableEq, Repr

/-- The fetcher of a control stream (R446): the step and the chunk that it is at, whether the chunk has been asked for and is
awaited, whether it has failed its check once, and the lines of it that the line cache held when it was asked for (R433). -/
structure Fetch where
  step : Nat
  chunk : Nat
  asked : Bool
  failed : Bool
  held : List (Nat × List Byte)
  deriving DecidableEq, Repr

/-- A job (R364 to R371, R422). `state` is coded as R422; `resolution` 0 none, 1 committed, 2 discarded; `starts` are the
start ticks of the last four steps by number (R223), `kmax` the k_max at which it was admitted (R468), `byCommand` whether a
JOB_SUSPEND is in force beside a pre-emption (R379, R445), `quietAt` the tick at which its stalls last left running and
draining (R223), `asked` the inspection rate that JOB_OPEN asked for (R399), `cacheable` whether the image's streams are held
in the line cache, `fetched` the fetcher of each stream (by stall × 4 + engine) that has not delivered all of it (R446), `runs` the runs that ABORTs
gave steps not yet accepted (R353), `commitAt` the boundary at which the last COMMIT of its placement takes effect (R376; 0 before
there is one). -/
structure Job where
  state : Nat
  cls : Nat
  phase : Nat
  tenant : W32
  seed : W64
  rate : Nat
  streamCheck : Bool
  watchdog : Nat
  length : Nat
  deadline : Nat
  period : Nat
  hops : Nat
  devices : Nat
  adm : List PitchAdm
  place : List (Nat × Nat × Nat)
  image : Option LoadImage
  maps : List MapEnt
  consumed : Nat
  prev : Nat
  resolved : Nat
  resolvedAt : Nat
  resolution : Nat
  steps : List StepSt
  carried : Nat
  lastClose : Nat
  suspended : Bool
  preempted : Bool
  byCommand : Bool
  suspAt : Option Nat
  revoked : Bool
  failure : Nat
  lastSeq : Nat
  openTick : Nat
  twin : Option TwinSt
  starts : List (Nat × Nat)
  kmax : Nat
  quietAt : Nat
  asked : Nat
  cacheable : Bool
  fetched : List (Nat × Fetch)
  runs : List (Nat × Nat)
  commitAt : Nat
  deriving DecidableEq, Repr

/-! ### Hubs: translation, run-ahead, commit units and the update unit -/

/-- A translation cache entry (R253). -/
structure XlateEnt where
  job : Nat
  vpn : Nat
  pa : Nat
  write : Bool
  deriving DecidableEq, Repr

/-- A block of a run-ahead buffer (R261): its snapshot once it has arrived. -/
structure AheadBlk where
  job : Nat
  pa : Nat
  va : Nat
  arrived : Option (Line × Bool)
  deriving DecidableEq, Repr

/-- A page of the fetch directory (R263): jobs that read it in their step, and jobs a collision was raised against. -/
structure DirEnt where
  page : Nat
  jobs : List Nat
  raised : List Nat
  deriving DecidableEq, Repr

/-- A commit unit's range and commit record (R298, R311); `frame1` is the base of frame 1. -/
structure CommitUnit where
  job : Nat
  num : Nat
  va : Nat
  pages : Nat
  frame1 : Nat
  resolved : Nat
  tick : Nat
  pending : Option Nat
  discarded : Bool
  deriving DecidableEq, Repr

/-- Contributions of one rank to a tensor block in the ingress store (R319, R320, R353): format 0 is the local gradient
in FP32, 1 SIGN, 2 TOPK. -/
structure Contribution where
  job : Nat
  group : Nat
  k : Nat
  step : Nat
  rank : Nat
  fmt : Nat
  data : List Byte
  poison : Bool
  deriving DecidableEq, Repr

/-- A FACTORED group in its step (R316, R323, R324): the next block it admits, SR and SC, and the statistics plane as read
once, with the memory blocks of it read poisoned. -/
structure FactAcc where
  group : Nat
  step : Nat
  next : Nat
  sr : List (Nat × W32)
  sc : List (Nat × W32)
  stats : List Byte
  bad : List Nat
  deriving DecidableEq, Repr

/-- A job's seals on a hub (R331): running seals of unresolved steps, oldest first, and the last committed seal. -/
structure SealSt where
  pend : List (Nat × W64)
  step : Nat
  value : W64
  deriving DecidableEq, Repr

/-- One hub die (R20): translation cache (most recent first), run-ahead buffer (oldest first), fetch directory, commit
records, frame map by group × 2^32 + block (committed frame 1, pending step), tensor blocks that had their local frame in
the step, those that had a state block read again in it (R327), ingress store, blocks that await a working copy, FACTORED
accumulators, seals by job, the ordinals of R342, and the counts GRAD_CHECK_FAILS, GRAD_DUPLICATES and GRAD_DISCARDED of R353. -/
structure Hub where
  cache : List XlateEnt
  ahead : List AheadBlk
  dir : List DirEnt
  units : List CommitUnit
  frames : List (Nat × (Bool × Option Nat))
  drained : List (Nat × Nat × Nat)
  resent : List (Nat × Nat × Nat)
  ingress : List Contribution
  await : List (Nat × Nat × Nat)
  acc : List FactAcc
  seals : List (Nat × SealSt)
  ordinals : List (Nat × Nat)
  gradFails : W64
  gradDups : W64
  gradDrops : W64
  deriving DecidableEq, Repr

/-- A group as sampled at its step's start tick (R314, R328, R330): record, schedule outputs and frozen rows. -/
structure GroupCur where
  job : Nat
  step : Nat
  record : List Byte
  eta : W32
  c1 : W32
  c2 : W32
  frozen : List (Nat × Nat)
  deriving DecidableEq, Repr

/-- The schedule engine (R329, R330). -/
structure Sched where
  steps : List (Nat × W64)
  cur : List (Nat × GroupCur)
  deriving DecidableEq, Repr

/-! ### Arbiters, bridges and links -/

/-- The transfer that holds an arbiter output (R231, R234, R235), with what it carries. -/
structure Holder where
  req : Nat
  left : Nat
  moved : Nat
  locked : Bool
  cycles : Nat
  rota : Bool
  job : Option Nat
  carries : Carried
  deriving DecidableEq, Repr

/-- One arbiter output (R237): holder, losses since the last grant, end of back-off, round-robin pointers by class, the
cycle of the last decision, and the cycle at which a link replay that occupies the output ends (R231). -/
structure ArbOut where
  hold : Option Holder
  losses : List (Nat × Nat)
  off : List (Nat × Nat)
  rr : List (Nat × Nat)
  cycle : Nat
  busyTo : Nat
  deriving DecidableEq, Repr

/-- One directed bridge channel (R224, R225): live, next sequence number to send, the last 64 flits sent, sequence
numbers to replay, flits handed over from a channel taken down, sequence the receiver expects, a NAK outstanding, and
failed tries of the flit named last. -/
structure Channel where
  live : Bool
  txSeq : Nat
  buf : List (Nat × List Byte)
  replay : List Nat
  moved : List (List Byte)
  rxSeq : Nat
  nak : Bool
  failSeq : Nat
  fails : Nat
  deriving DecidableEq, Repr

/-- A flit or slot in a replay buffer (R338, R429). -/
structure TxFlit where
  seq : Nat
  tries : Nat
  bytes : List Byte
  deriving DecidableEq, Repr

/-- A message waiting at an aisle transmitter (R340, R341, R381): requester, pool, flit type, job and bytes, and whether its last
flit was lost on the way here, so that none of its flits is marked last (R339). -/
structure AisleMsg where
  req : Nat
  pool : Nat
  ty : Nat
  job : Option Nat
  body : List Byte
  cut : Bool
  deriving DecidableEq, Repr

/-- A complete message received (R341, R342). -/
structure Mail where
  ty : Nat
  pool : Nat
  flits : Nat
  body : List Byte
  deriving DecidableEq, Repr

/-- An aisle port (R335 to R348, R362): state as LINK_STATUS codes it, locked lanes, peer, latency, results of the IDENTs
received, last IDENT received (its tick and arrival), tick of the lock and IDENTs sent since, sequence numbers, replay
buffer, credits held and to return by pool, credits reserved by the head message of each requester (R381), tick of the NAK in
force and whether it is still to be sent, ticks of ack progress, of the last replay for want of it and of the last good flit,
millisecond of the last LINK_RETRY, the message being received with its type and pool, messages received and delivered, and
messages waiting. -/
structure Aisle where
  state : Nat
  lanes : Nat
  peerPos : Nat
  peerPort : Nat
  peerSide : Bool
  peerValid : Bool
  latency : Nat
  idents : List Int
  identTx : Nat
  identRx : Nat
  lockAt : Nat
  identsOut : Nat
  txSeq : Nat
  rxSeq : Nat
  acked : Bool
  replay : List TxFlit
  credits : List Nat
  owed : List Nat
  reserved : List (Nat × Nat)
  nakAt : Option Nat
  nakOwed : Bool
  ackAt : Nat
  retryAt : Nat
  goodAt : Nat
  retryMs : Option Nat
  partTy : Nat
  partPool : Nat
  part : List Byte
  partFlits : Nat
  inbox : List Mail
  local_ : List Mail
  queue : List AisleMsg
  deriving DecidableEq, Repr

/-- A slot waiting for a credit at a LemefLink half-port (R427, R430), with the job of a stream fetch. -/
structure SlotReq where
  ty : Nat
  pool : Nat
  tag : Nat
  addr : Nat
  mask : W64
  data : List Byte
  status : Nat
  job : Option Nat
  deriving DecidableEq, Repr

/-- A LemefLink half-port (R426 to R430): state as LINK_STATUS codes it, sequence numbers, replay buffer, credits, NAK in force
and whether it is still to be sent, ack and good-slot ticks, slots received, slots waiting, requests sent whose responses have
not come, the next request tag, and the tick of the last replay for want of ack progress. -/
structure Half where
  state : Nat
  txSeq : Nat
  rxSeq : Nat
  replay : List TxFlit
  credits : List Nat
  owed : List Nat
  nakAt : Option Nat
  nakOwed : Bool
  ackAt : Nat
  goodAt : Nat
  inbox : List (List Byte)
  queue : List SlotReq
  asked : List SlotReq
  tag : Nat
  acked : Bool
  retryAt : Nat
  deriving DecidableEq, Repr

/-! ### The Clerk, the companion's rings, events, ledgers, power and trace -/

/-- A descriptor taken and not completed (R436, R443, R444): started, or a repeat that waits for its original. -/
structure Taken where
  desc : List Byte
  seq : Nat
  started : Bool
  dup : Bool
  deriving DecidableEq, Repr

/-- The result of a completed command (R444). -/
structure Result where
  seq : Nat
  status : Nat
  result : W64
  deriving DecidableEq, Repr

/-- What the Clerk is to do once it serves again (R413): fail a job with a code, abort a job's steps for a cause, fence a stall,
strike a stall, or complete a taken command (status, cause, result, inspection rate and attempts). -/
inductive ClerkAct where
  | fail (job code : Nat)
  | abort (job cause : Nat) (counts : Bool)
  | fence (stall cause : Nat)
  | strike (stall cause : Nat) (job : Option Nat)
  | finish (seq status cause result rate attempts : Nat) (job : Option Nat)
  deriving DecidableEq, Repr

/-- The Clerk (R20, R405, R407, R413, R418, R440, R444, R468, R471): core states, restarts, ticks of the primary's
restarts, serving, last refresh, primary, H, results, taken commands, queued SELFTESTs, fence map, strikes, stalls reset,
body of the last SET_POLICY, the SET_POLICY that acquires and its limit, largest admitted k_max, k_max held, the last
owner of physical pages (R255), the bank owners that a stall's reset writes again from a tick on (R408), and the
translation-table slots of 32 KiB in use with the job they serve (R252), and what waits for its restart to end (R413). -/
structure Clerk where
  cores : List Nat
  restarts : Nat
  recent : List Nat
  serving : Bool
  refresh : Nat
  primary : Nat
  high : Nat
  results : List Result
  taken : List Taken
  selfq : List Nat
  fences : List Nat
  strikes : List (Nat × Nat)
  policy : List Byte
  acquiring : Option (Nat × Nat)
  kFloor : Nat
  kHeld : Bool
  lastOwner : List (Nat × Nat)
  rebank : List (Nat × Nat × List Nat)
  tables : List (Nat × Nat)
  waiting : List ClerkAct
  deriving DecidableEq, Repr

/-- The companion's rings as the device sees them (R433 to R437): counts, what it has written into the completion and
event rings, heartbeat, events lost, events lost as the status line last told, and the companion lines held in the line cache,
a line that has been asked for without its data (R433). -/
structure Rings where
  sqHead : Nat
  cqTail : Nat
  cqHead : Nat
  eqTail : Nat
  eqHead : Nat
  cq : List (Nat × List Byte)
  eq : List (Nat × List Byte)
  heartbeat : Nat
  lost : Nat
  toldLost : Nat
  lines : List (Nat × Option (List Byte))
  deriving DecidableEq, Repr

/-- A recorded event (R392, R393). -/
structure EvRec where
  ev : Ev
  seq : Nat
  posted : Bool
  deriving DecidableEq, Repr

/-- The event log (R392, R393, R469): next sequence number, the 256 most recent records (oldest first), the last record
and the first DEVICE_FATAL record. -/
structure Events where
  next : Nat
  recs : List EvRec
  last : Option EvRec
  fatal : Option EvRec
  deriving DecidableEq, Repr

/-- A ledger beside its counters (R383 to R388): state, snapshot requested, snapshot and its tick, flags, open tick,
LEDGER_SAT raised, the tick up to which MX time is charged on each stall, and the chargeable events of the interval outside the
stalls by kind (R384). -/
structure Ledger where
  state : Nat
  cls : Nat
  snapPend : Bool
  snapDone : Bool
  snaps : List (Nat × W64)
  snapTick : Nat
  unrec : Bool
  openTick : Nat
  satRaised : Bool
  mxTill : List (Nat × Nat)
  events : List (Nat × Nat)
  deriving DecidableEq, Repr

/-- The power controller (R384, R479, R489, R490): watts over the last millisecond, hottest junction once measured, frames of
the CAP_EXCEEDED run, throttle and critical seen, remainders below 1 µJ of the interval and of the rails, in pJ,
ENERGY_UNRECONCILED raised, the next reconciliation and heartbeat ticks, the energies of the last frames in pJ (newest first), the
energy of the frames since the last reconciliation, what that one took of the frame under way, and the mean power of each die over
10 ms (R369). -/
structure Power where
  watts : Nat
  tmax : Option Nat
  capRun : Nat
  throttled : Bool
  critical : Bool
  rest : Nat
  rails : List Nat
  unrec : Bool
  nextRec : Nat
  nextBeat : Nat
  frames : List Nat
  energy : Nat
  taken : Nat
  dies : List Nat
  deriving DecidableEq, Repr

/-- The trace port (R484): next sequence number, and its buffer's backlog in quarter bits of line time at a tick. -/
structure Trace where
  seq : Nat
  backlog : Nat
  at_ : Nat
  deriving DecidableEq, Repr

/-! ### The state -/

/-- The machine. Sparse tables by: page number, reading agent, global stall number, job, hub, bridge channel, arbiter
output, port and half-port; an unlisted entry is at its reset. `mem` lists HBM and hall-store bytes by physical address,
`marks` the blocks stored poisoned (1), `outStacks` the stacks out of service. -/
structure State where
  pins : Pins
  fuses : Fuses
  boot : Boot
  bell : Bell
  pages : List (Nat × Page)
  latches : List (Nat × (Nat × List W32))
  stalls : List (Nat × Stall)
  jobs : List (Nat × Job)
  hubs : List (Nat × Hub)
  sched : Sched
  mem : List Host.Cell
  marks : List (Nat × Nat)
  outStacks : List Nat
  chans : List (Nat × Channel)
  arbs : List (Nat × ArbOut)
  aisles : List (Nat × Aisle)
  halves : List (Nat × Half)
  clerk : Clerk
  rings : Rings
  events : Events
  ledgers : List (Nat × Ledger)
  power : Power
  trace : Trace
  out : List Out
  freeIx : Nat
  pending : List Instr
  deriving DecidableEq, Repr

/-- The pins at the release of RESET_N. -/
def Pins.reset : Pins := ⟨true, true, true, false, 0#6, false, 0#6, false, false, false, .bypass, false, []⟩

/-- The fuses of a YT2-1536 with serial number 0 (log entry 3). -/
def Fuses.reset : Fuses := ⟨0, 0#64, 0, List.replicate 64 0#8⟩

/-- State CLOSED, phase TRAINING (R447, R448). -/
def Boot.reset : Boot := ⟨0, 0, 0, 0, none, false, false, none⟩

/-- The bell in state COLD (R43). -/
def Bell.reset : Bell where
  now := 0
  state := 0
  masked := false
  onBackup := false
  acqRefused := false
  acqPending := false
  expected := 0
  missed := 0
  lastErr := 0
  maxAbs := 0
  kLocal := 0
  kSquare := 0
  kApplied := 0
  kDown := none
  kTable := []
  kSent := 0
  depth := 0
  masterPos := 0
  masterNext := none
  nextRound := 0
  nextFrame := 0
  nextSync := 0
  nextMid := 0x80000

/-- A hub that holds nothing. -/
def Hub.empty : Hub := ⟨[], [], [], [], [], [], [], [], [], [], [], [], 0#64, 0#64, 0#64⟩

/-- An arbiter output that nothing holds. -/
def ArbOut.empty : ArbOut := ⟨none, [], [], [], 0, 0⟩

/-- A channel that has not trained. -/
def Channel.empty : Channel := ⟨false, 0, [], [], [], 0, false, 0, 0⟩

/-- A port in state DOWN. -/
def Aisle.empty : Aisle where
  state := 0
  lanes := 0
  peerPos := 0
  peerPort := 0
  peerSide := false
  peerValid := false
  latency := 0
  idents := []
  identTx := 0
  identRx := 0
  lockAt := 0
  identsOut := 0
  txSeq := 0
  rxSeq := 0
  acked := false
  replay := []
  credits := [0, 0, 0, 0, 0]
  owed := [0, 0, 0, 0, 0]
  reserved := []
  nakAt := none
  nakOwed := false
  ackAt := 0
  retryAt := 0
  goodAt := 0
  retryMs := none
  partTy := 0
  partPool := 0
  part := []
  partFlits := 0
  inbox := []
  local_ := []
  queue := []

/-- A half-port in state DOWN. -/
def Half.empty : Half := ⟨0, 0, 0, [], [0, 0, 0, 0, 0], [0, 0, 0, 0, 0], none, false, 0, 0, [], [], [], 0, false, 0⟩

/-- The Clerk before the opening inspection. -/
def Clerk.reset : Clerk where
  cores := [0, 0, 0, 0]
  restarts := 0
  recent := []
  serving := true
  refresh := 0
  primary := 0
  high := 0
  results := []
  taken := []
  selfq := []
  fences := []
  strikes := []
  policy := List.replicate 92 0#8
  acquiring := none
  kFloor := 0
  kHeld := false
  lastOwner := []
  rebank := []
  tables := []
  waiting := []

/-- Rings not served. -/
def Rings.reset : Rings := ⟨0, 0, 0, 0, 0, [], [], 0, 0, 0, []⟩

/-- No event recorded; the sequence starts at 0 (R392). -/
def Events.reset : Events := ⟨0, [], none, none⟩

/-- A ledger in state FREE. -/
def Ledger.empty : Ledger := ⟨0, 0, false, false, [], 0, false, 0, false, [], []⟩

/-- No power measured yet. -/
def Power.reset : Power := ⟨0, none, 0, false, false, 0, [0, 0, 0, 0, 0, 0, 0], false, 3300000, 3300000, [], 0, 0, []⟩

/-- The machine at the tick of a release of RESET_N (R14, R447): the first value of every Reset column, and where the
manual gives none the values of log entries 3 and 4. -/
def State.reset : State where
  pins := .reset
  fuses := .reset
  boot := .reset
  bell := .reset
  pages := []
  latches := []
  stalls := []
  jobs := []
  hubs := []
  sched := ⟨[], []⟩
  mem := []
  marks := []
  outStacks := []
  chans := []
  arbs := []
  aisles := []
  halves := []
  clerk := .reset
  rings := .reset
  events := .reset
  ledgers := []
  power := .reset
  trace := ⟨0, 0, 0⟩
  out := []
  freeIx := 0
  pending := []

/-- What the machine stops on. -/
inductive Fault where
  /-- Raised by RESET_N_RELEASE when RESET_N was low for less than 10 µs, which has no defined effect (R478); safe. -/
  | shortResetPulse
  deriving DecidableEq, Repr

/-- What the machine refuses. -/
inductive Refusal where
  /-- Raised by an arm of `exec` for a command without a meaning; safe. -/
  | notModelled (mnemonic : String)
  deriving DecidableEq, Repr

end Sys2Proof.Machine
end

