-- ==== Sys2Proof/Machine/Pages.lean ====
section
/-! DEFINITION. The register pages (R458 to R471 and the register tables of every chapter): the address map, the
writable fields of each page with their access codes and resets, the counters, and the page operations. -/
namespace Sys2Proof.Machine

/-- The page types of R458 and R460. -/
inductive PageTy where
  | device | bell | policy | fault | trace | power | security | clerk | lemef | aisle | hdie | update | sched
  | hbm | ledger | cdie | arb | stall
  deriving DecidableEq, Repr

/-- Block type code (R460). -/
def PageTy.code : PageTy → Nat
  | .device => 0x0001 | .bell => 0x0002 | .policy => 0x0003 | .fault => 0x0004 | .trace => 0x0005
  | .power => 0x0006 | .security => 0x0007 | .clerk => 0x0008 | .lemef => 0x0010 | .aisle => 0x0011
  | .hdie => 0x0020 | .update => 0x0021 | .sched => 0x0022 | .hbm => 0x0023 | .ledger => 0x0030
  | .cdie => 0x0040 | .arb => 0x0041 | .stall => 0x0042

/-- Base page number (address div 0x1000) and number of instances (R458). -/
def PageTy.span : PageTy → Nat × Nat
  | .device => (0x0, 1) | .bell => (0x1, 1) | .policy => (0x2, 1) | .fault => (0x4, 1) | .trace => (0x5, 1)
  | .power => (0x6, 1) | .security => (0x7, 1) | .clerk => (0x8, 1) | .lemef => (0x10, 2) | .aisle => (0x20, 12)
  | .hdie => (0x40, 4) | .update => (0x50, 4) | .sched => (0x60, 1) | .hbm => (0x80, 16) | .ledger => (0x100, 64)
  | .cdie => (0x200, 12) | .arb => (0x300, 1618) | .stall => (0x1000, 1536)

/-- Every page type. -/
def allPageTys : List PageTy :=
  [.device, .bell, .policy, .fault, .trace, .power, .security, .clerk, .lemef, .aisle, .hdie, .update, .sched,
   .hbm, .ledger, .cdie, .arb, .stall]

/-- Page number of an instance. -/
def pageNo (p : PageTy) (i : Nat) : Nat := p.span.1 + i

/-- The page and instance of a page number, if R458 assigns it. -/
def findPage : List PageTy → Nat → Option (PageTy × Nat)
  | [], _ => none
  | p :: r, n => if p.span.1 ≤ n && n < p.span.1 + p.span.2 then some (p, n - p.span.1) else findPage r n

/-- The page and instance that a window address lies in (R458, R459). -/
def pageOf (addr : Nat) : Option (PageTy × Nat) := findPage allPageTys (addr / 0x1000)

/-- PAGE_ID of a page (R460). -/
def pageId (p : PageTy) (i : Nat) : W32 := BitVec.ofNat 32 (i * 65536 + p.code)

/-- A run of writable registers of one shape: first offset, count, stride, masks of the RW, RWS, W1C, WO and RC bits,
and the reset of the RW and RWS bits. -/
structure RegRow where
  off : Nat
  count : Nat
  stride : Nat
  rw : Nat
  rws : Nat
  w1c : Nat
  wo : Nat
  rc : Nat
  reset : Nat
  deriving DecidableEq, Repr

/-- An RWS row. -/
def rowS (off count stride mask reset : Nat) : RegRow := ⟨off, count, stride, 0, mask, 0, 0, 0, reset⟩

/-- An RW row. -/
def rowRW (off count stride mask reset : Nat) : RegRow := ⟨off, count, stride, mask, 0, 0, 0, 0, reset⟩

/-- A W1C row. -/
def rowC (off mask : Nat) : RegRow := ⟨off, 1, 4, 0, 0, mask, 0, 0, 0⟩

/-- A WO row. -/
def rowWO (off mask : Nat) : RegRow := ⟨off, 1, 4, 0, 0, 0, mask, 0, 0⟩

/-- The common registers of R462 with writable bits. -/
def commonRows : List RegRow :=
  [rowWO 0x010 1, rowC 0x018 0x1F, rowRW 0x01C 1 4 0x1F 0x18, rowC 0x020 0x80FFFFFF]

/-- The STALL page (R91, R108, R134, R176, R200, R227). -/
def stallRows : List RegRow :=
  [rowC 0x100 0x20, rowS 0x104 1 4 3 3, rowS 0x108 1 4 1 1, rowRW 0x10C 1 4 0xF 0, rowRW 0x110 1 4 0xFFFFFFFF 0,
   rowRW 0x11C 1 4 0x3F 0, rowS 0x120 8 4 0x777F 0, rowS 0x140 8 4 0xFF 16, rowS 0x160 32 4 0xFFFFFFFF 0,
   rowS 0x1E0 4 4 0xFFFFFFFF 0, rowS 0x300 64 4 0x7F7F7F7F 0x7F7F7F7F, rowS 0x400 8 4 0x3FF 0,
   rowS 0x420 8 4 0x7F3F3F1F 0, rowRW 0x580 2 4 0xFFFFFFFF 0, rowWO 0x588 0x307, rowRW 0x5B0 16 4 0xFFFFFFFF 0,
   rowS 0x5F0 1 4 0xFF01 1, rowC 0x680 0x1000000, rowS 0x780 16 8 0x1FFF 0, rowS 0x784 16 8 0x1FFFFFF 0]

/-- The writable rows of every page. -/
def PageTy.rows : PageTy → Nat → List RegRow
  | .stall, _ => stallRows
  | .arb, _ => [rowS 0x100 16 4 0x7F7F7F7F 0x7F7F7F7F, rowS 0x140 2 4 0xFFFFFFFF 0, rowS 0x148 1 4 1 1,
      rowRW 0x14C 1 4 0x1F7F 0]
  | .hdie, _ => [rowRW 0x100 64 8 0xFFFFC001 0, rowRW 0x104 64 8 0x1FF 0, rowWO 0x300 0xFFFFFF7F,
      rowRW 0x310 16 4 0xFFFFFFFF 0, rowS 0x360 8 4 0xFFFFFF 0, rowRW 0x380 1 4 0x3FF3F 0,
      rowRW 0x400 64 4 0x1FFF 0, rowRW 0x500 1 4 0x3F 0]
  | .cdie, _ => [rowS 0x104 8 4 0xFFFFFF 0, rowRW 0x124 1 4 0x7F0F 0, rowWO 0x130 0x177F]
  | .update, _ => [rowRW 0x104 1 4 0x3F 0]
  | .sched, _ => [rowS 0x100 1 4 0xFFFFFF80 0, rowS 0x104 1 4 0x1FF 0, rowS 0x108 2 4 0xFFFFFFFF 0,
      rowRW 0x110 1 4 0x3F 0, rowRW 0x118 2 4 0xFFFFFFFF 0, rowS 0x200 16 8 0x7F 0, rowS 0x204 16 8 0xFFFFFFFF 0]
  | .aisle, _ => [rowS 0x104 1 4 0x7FFF 1, rowS 0x10C 1 4 0x3FFFFFFF (64 + 256 * 2 ^ 10 + 192 * 2 ^ 20),
      rowS 0x110 1 4 0xFFFFF (128 + 128 * 2 ^ 10), rowWO 0x11C 1]
  | .bell, _ => [rowS 0x110 1 4 0x7FF 0, rowS 0x114 1 4 0xFFF 0, ⟨0x118, 1, 4, 0, 0, 0, 0, 0xFF00, 0⟩,
      rowRW 0x120 1 4 0xFFF00000 0, rowRW 0x124 1 4 0xFFFFFFFF 0, rowWO 0x128 1]
  | .policy, _ => [rowS 0x100 1 4 0xF 3, rowS 0x104 1 4 0x3F 16, rowS 0x108 1 4 1 1]
  | .power, _ => [rowS 0x100 1 4 0x1FFF 4000, rowS 0x104 1 4 0xFF07 (3 + 100 * 256), rowC 0x108 0x100]
  | .trace, _ => [rowS 0x100 1 4 0xF01 0, rowS 0x104 1 4 0x1FFFFF 0, rowS 0x108 1 4 0x07FF07FF 0,
      rowS 0x110 2 4 0xFFFFFFFF 0]
  | .ledger, _ => [rowWO 0x100 3, rowRW 0x108 2 4 0xFFFFFFFF 0, rowRW 0x110 1 4 0xFFFFFFFF 0]
  | .lemef, 0 => [rowRW 0x110 5 8 0xFFFFFFC0 0, rowRW 0x114 5 8 0xFFFFF 0,
      rowRW 0x138 1 4 0xFFF (4 + 5 * 16 + 5 * 256), rowRW 0x13C 1 4 1 0, rowRW 0x140 1 4 0xFFFFFFC0 0,
      rowRW 0x144 1 4 0xFFFFF 0, rowRW 0x148 1 4 0x1FFFFFF 0, rowWO 0x14C 1]
  | _, _ => []

/-- The row that holds an offset. -/
def findRow : List RegRow → Nat → Option RegRow
  | [], _ => none
  | r :: rs, o => if r.off ≤ o && (o - r.off) % r.stride = 0 && (o - r.off) / r.stride < r.count then some r
    else findRow rs o

/-- The row of a register of a page. -/
def PageTy.row (p : PageTy) (i o : Nat) : Option RegRow := findRow (commonRows ++ p.rows i) o

/-- REQ_CLASS after the opening inspection (R233): class queues have their class, Clerks 0, every other 2. -/
def reqClassReset (a o : Nat) : Nat :=
  let cls (r : Nat) : Nat :=
    if a < 1536 then 2
    else if a < 1560 then (if r < 4 then r else 2)
    else if a < 1584 then (if r < 8 then r % 4 else 2)
    else if a < 1600 then (if r = 5 then 0 else 2)
    else if a < 1604 then (if r = 7 then 0 else 2)
    else if a < 1616 then (if r < 4 then r else if r = 5 then 0 else 2)
    else 2
  let first := if o = 0x140 then 0 else 16
  ((List.range 16).map fun k => cls (first + k) * 4 ^ k).sum

/-- Reset of a register's RW and RWS bits; REQ_CLASS resets by R233. -/
def PageTy.reset (p : PageTy) (i o : Nat) : Nat :=
  if p = .arb && (o = 0x140 || o = 0x144) then reqClassReset i o
  else match p.row i o with
    | some r => r.reset
    | none => 0

/-- Offsets of the counters of a page (R48, R91, R108, R133, R159, R176, R201, R227, R228, R241, R267, R268, R270,
R307, R309, R333, R362, R388, R389, R425, R455, R467, R469, R470, R471, R490). -/
def PageTy.counters : PageTy → List Nat
  | .stall => (List.range 24).map (fun i => 0x40 + 8 * i) ++ (List.range 8).map (fun i => 0x440 + 8 * i) ++ [0x598]
      ++ (List.range 16).map (fun i => 0x6A0 + 8 * i) ++ (List.range 11).map (fun i => 0x720 + 8 * i) ++ [0x778]
  | .device => [0x40, 0x48]
  | .bell => [0x40, 0x48, 0x50, 0x58, 0x60]
  | .policy => []
  | .fault => (List.range 6).map fun i => 0x40 + 8 * i
  | .trace => [0x40, 0x48]
  | .power => (List.range 8).map fun i => 0x40 + 8 * i
  | .security => []
  | .clerk => (List.range 6).map fun i => 0x40 + 8 * i
  | .lemef => (List.range 8).map fun i => 0x40 + 8 * i
  | .aisle => (List.range 13).map fun i => 0x40 + 8 * i
  | .hdie => (List.range 12).map fun i => 0x40 + 8 * i
  | .update => (List.range 11).map fun i => 0x40 + 8 * i
  | .sched => (List.range 4).map fun i => 0x40 + 8 * i
  | .hbm => (List.range 9).map fun i => 0x40 + 8 * i
  | .ledger => (List.range 17).map fun i => 0x40 + 8 * i
  | .cdie => (List.range 10).map fun i => 0x40 + 8 * i
  | .arb => (List.range 10).map fun i => 0x40 + 8 * i

/-- Offsets of the low words of the other 64-bit registers of a page (R15). -/
def PageTy.wide : PageTy → Nat → List Nat
  | .bell, _ => [0x100, 0x120]
  | .stall, _ => (List.range 32).map (fun i => 0x480 + 8 * i) ++ [0x580, 0x688, 0x690]
  | .hdie, _ => (List.range 64).map (fun i => 0x100 + 8 * i) ++ [0x388, 0x390]
  | .update, _ => [0x108, 0x110, 0x118]
  | .sched, _ => [0x100, 0x108, 0x118]
  | .trace, _ => [0x110]
  | .clerk, _ => [0x108]
  | .ledger, _ => (List.range 17).map (fun i => 0x140 + 8 * i) ++ [0x108, 0x118, 0x120]
  | .lemef, 0 => [0x110, 0x118, 0x120, 0x128, 0x130, 0x140]
  | .security, _ => [0x100, 0x108]
  | _, _ => []

/-! ### Operations on one page -/

/-- The live word at an offset, as stored: the RW and RWS fields (R463). -/
def Page.word (pg : Page) (p : PageTy) (i o : Nat) : W32 :=
  (sget pg.live o).getD (BitVec.ofNat 32 (p.reset i o))

/-- The shadow word of a live offset: its RWS fields (R463). -/
def Page.shadowWord (pg : Page) (p : PageTy) (i o : Nat) : W32 :=
  match p.row i o with
  | some r => (sget pg.shadow o).getD (BitVec.ofNat 32 (p.reset i o &&& r.rws))
  | none => 0#32

/-- A counter's value. -/
def Page.counter (pg : Page) (o : Nat) : W64 := sgetD pg.counters o 0#64

/-- Bit of COUNTER_SAT for a counter's offset (R416). -/
def satBit (o : Nat) : Nat := if o < 0x100 then (o - 0x40) / 8 else 31

/-- Add to a statistics counter, saturating (R415, R416). -/
def Page.bump (pg : Page) (o n : Nat) : Page :=
  let v := satAdd64 (pg.counter o) n
  { pg with
    counters := sput 0#64 pg.counters o v
    sat := if v = BitVec.allOnes 64 && n != 0 then pg.sat ||| BitVec.ofNat 32 (2 ^ satBit o) else pg.sat }

/-- Store RW bits of a register: reserved bits are ignored (R12, R13). -/
def Page.writeRW (pg : Page) (p : PageTy) (i o : Nat) (v : W32) : Page :=
  match p.row i o with
  | some r =>
    let m := BitVec.ofNat 32 r.rw
    if r.rw = 0 then pg
    else { pg with live := sset pg.live o ((pg.word p i o &&& ~~~m) ||| (v &&& m)) }
  | none => pg

/-- Store RWS bits in the shadow copy (R12, R463); `late` tells that the write reaches the page in the tick of a boundary that is
still to be taken, and belongs to the next (R464). -/
def Page.writeShadow (pg : Page) (p : PageTy) (i o : Nat) (v : W32) (late : Bool) : Page :=
  match p.row i o with
  | some r =>
    let w := v &&& BitVec.ofNat 32 r.rws
    if r.rws = 0 then pg
    else if late then { pg with lateShadow := sset pg.lateShadow o w }
    else { pg with shadow := sset pg.shadow o w, dirty := true }
  | none => pg

/-- The shadow word that the writes so far leave at an offset. -/
def Page.shadowNext (pg : Page) (p : PageTy) (i o : Nat) : W32 := (sget pg.lateShadow o).getD (pg.shadowWord p i o)

/-- A write of 1 to COMMIT (R464). -/
def Page.request (pg : Page) (late : Bool) : Page := if late then { pg with lateCommit := true } else { pg with commit := true }

/-- Every shadow word becomes live; pending and dirty clear (R464). -/
def Page.apply (pg : Page) (p : PageTy) (i : Nat) : Page :=
  { pg with
    live := pg.shadow.foldr (fun ow l =>
      match p.row i ow.1 with
      | some r =>
        let m := BitVec.ofNat 32 r.rws
        sset l ow.1 (((sget l ow.1).getD (BitVec.ofNat 32 (p.reset i ow.1)) &&& ~~~m) ||| (ow.2 &&& m))
      | none => l) pg.live
    commit := false
    dirty := false }

/-- What reached the page in the tick of a boundary follows it (R464). -/
def Page.takeLate (pg : Page) : Page :=
  { pg with
    shadow := pg.lateShadow.foldl (fun l q => sset l q.1 q.2) pg.shadow
    dirty := pg.dirty || !pg.lateShadow.isEmpty
    commit := pg.commit || pg.lateCommit
    lateShadow := []
    lateCommit := false }

end Sys2Proof.Machine
end

