-- ==== Sys2Proof/Machine/Ops.lean ====
section
/-! DEFINITION. The named operations over one stall: its configuration registers, stores, banks, rings, counters,
events and fault record (chapters 6, 9 and 10 of the manual). -/
namespace Sys2Proof.Machine

/-! ### What a stall's engines know of a job (R65, R116, R299) -/

/-- A job as its stalls see it: seed, step number in force, the step consumed before it, class, and placement as
(pitch, logical stall, physical stall). -/
structure JobCtx where
  seed : W64
  step : Nat
  prev : Nat
  place : List (Nat × Nat × Nat)
  deriving DecidableEq, Repr

/-- The job that no slot has. -/
def JobCtx.empty : JobCtx := ⟨0#64, 0, 0, []⟩

/-- The physical stall of a logical stall of a pitch. -/
def placeOf : List (Nat × Nat × Nat) → Nat → Nat → Option Nat
  | [], _, _ => none
  | (p, l, s) :: r, pitch, log => if p = pitch && l = log then some s else placeOf r pitch log

/-- Pitch and logical stall that lie on a physical stall. -/
def placeAt : List (Nat × Nat × Nat) → Nat → Option (Nat × Nat)
  | [], _ => none
  | (p, l, s) :: r, phys => if s = phys then some (p, l) else placeAt r phys

/-! ### Configuration registers in force (R134, R135, R192, R200) -/

/-- The live word of the STALL page at an offset. -/
def Stall.reg (st : Stall) (o : Nat) : Nat := (st.page.word .stall 0 o).toNat

/-- Rota entry `i` of engine `e` as the register holds it (R134). -/
def Stall.rotaEntry (st : Stall) (e : Eng) (i : Nat) : Nat :=
  bits (st.reg (0x300 + 0x40 * e.num + 4 * (i / 4))) (8 * (i % 4) + 6) (8 * (i % 4))

/-- The job of rota entry `i` of engine `e` (R32): reserved values and FREE answer `none`. -/
def Stall.rota (st : Stall) (e : Eng) (i : Nat) : Option Nat :=
  if st.rotaEntry e i < 64 then some (st.rotaEntry e i) else none

/-- A JOB_SLOT entry (R134): job, valid, suspended, class. -/
structure JobSlot where
  job : Nat
  valid : Bool
  suspended : Bool
  cls : Nat
  deriving DecidableEq, Repr

/-- A JOB_SLOT word's fields. -/
def jobSlotOf (w : Nat) : JobSlot := ⟨bits w 5 0, bit w 6, bit w 7, bits w 9 8⟩

/-- The entry of slot `k`. -/
def Stall.jobSlot (st : Stall) (k : Nat) : JobSlot := jobSlotOf (st.reg (0x400 + 4 * k))

/-- The slot of a job on this stall (R109). -/
def Stall.slotOf (st : Stall) (job : Nat) : Option Nat :=
  (List.range 8).find? fun k => (st.jobSlot k).valid && (st.jobSlot k).job = job

/-- A JOB_RES range (R118, R134). -/
structure JobRes where
  flagBase : Nat
  flagCount : Nat
  tallyBase : Nat
  tallyCount : Nat
  deriving DecidableEq, Repr

/-- A JOB_RES word's fields. -/
def jobResOf (w : Nat) : JobRes := ⟨bits w 4 0, bits w 13 8, bits w 21 16, bits w 30 24⟩

/-- A range that holds nothing. -/
def JobRes.none : JobRes := ⟨0, 0, 0, 0⟩

/-- Do two ranges overlap? A range of count 0 overlaps nothing (R135). -/
def overlaps (a n b m : Nat) : Bool := n != 0 && m != 0 && decide (a < b + m) && decide (b < a + n)

/-- The ranges in force, in ascending slot order (R135). -/
def resInForce (slots ress : List Nat) : List (Nat × JobRes) :=
  (List.range 8).foldl (fun acc k =>
    let r := jobResOf (ress.getD k 0)
    if (jobSlotOf (slots.getD k 0)).valid && decide (r.flagBase + r.flagCount ≤ 32)
        && decide (r.tallyBase + r.tallyCount ≤ 64)
        && acc.all (fun q => !overlaps r.flagBase r.flagCount q.2.flagBase q.2.flagCount
          && !overlaps r.tallyBase r.tallyCount q.2.tallyBase q.2.tallyCount)
    then acc ++ [(k, r)] else acc) []

/-- The range of slot `k`; an entry treated as empty holds nothing (R135). -/
def Stall.jobRes (st : Stall) (k : Nat) : JobRes :=
  ((resInForce ((List.range 8).map fun i => st.reg (0x400 + 4 * i))
    ((List.range 8).map fun i => st.reg (0x420 + 4 * i))).find? (fun q => q.1 = k)).elim .none (·.2)

/-- A RING_CFG entry (R191, R200). -/
structure RingCfg where
  store : Nat
  valid : Bool
  prov : Bool
  job : Nat
  k : Nat
  base : Nat
  size : Nat
  deriving DecidableEq, Repr

/-- The fields of the two words of a RING_CFG entry. -/
def ringCfgOf (w0 w1 : Nat) : RingCfg :=
  ⟨bits w0 1 0, bit w0 2, bit w0 3, bits w0 9 4, bits w0 12 10, bits w1 11 0, bits w1 24 12⟩

/-- Store words in a ring slot (R191). -/
def RingCfg.words (c : RingCfg) : Nat := 2 ^ c.k

/-- Bytes in a ring slot. -/
def RingCfg.slotBytes (c : RingCfg) : Nat := 64 * c.words

/-- The configuration of ring `n`. -/
def Stall.ringCfg (st : Stall) (n : Nat) : RingCfg := ringCfgOf (st.reg (0x780 + 8 * n)) (st.reg (0x784 + 8 * n))

/-- Words of one slot of a store (R178). -/
def slotWords (store : Nat) : Nat := if store < 2 then 32 else 64

/-- Store words of a store (R179). -/
def storeWords (store : Nat) : Nat := if store < 2 then 4096 else 2048

/-- Tile slots of a store. -/
def storeSlots (store : Nat) : Nat := if store < 2 then 128 else 32

/-- Bank index of a store word address (R178). -/
def bankOf (store addr : Nat) : Nat :=
  let s := addr / slotWords store
  let w := addr % slotWords store
  store * 32 + 2 * (if store < 2 then s / 8 else s / 2) + w % 2

/-- Bank indices of the pair of a tile slot (R178). -/
def pairOf (store slot : Nat) : Nat := store * 32 + 2 * (if store < 2 then slot / 8 else slot / 2)

/-- A bank's state. -/
def Stall.bank (st : Stall) (b : Nat) : Bank := sgetD st.banks b .empty

/-- Set a bank's state. -/
def Stall.setBank (st : Stall) (b : Nat) (v : Bank) : Stall := { st with banks := sput .empty st.banks b v }

/-- The BANK_OWNER entry of a bank as its register holds it (R187, R200). -/
def Stall.ownerRaw (st : Stall) (b : Nat) : Nat := bits (st.reg (0x160 + 4 * (b / 4))) (8 * (b % 4) + 7) (8 * (b % 4))

/-- Owner byte of a job (R200, kind JOB). -/
def ownJob (j : Nat) : BitVec 8 := BitVec.ofNat 8 (0x40 + j % 64)

/-- Is bank `b` owned by job `j`, its handover over (R187, R188)? -/
def Stall.bankOwned (st : Stall) (b j : Nat) : Bool := (st.bank b).owner = ownJob j

/-- The owner byte that the live BANK_OWNER entry of a bank names, normalised (R200). -/
def Stall.ownerEntry (st : Stall) (b : Nat) : BitVec 8 :=
  let raw (i : Nat) : Nat :=
    let v := st.ownerRaw i
    if v / 64 = 1 then v else if v / 64 = 2 then 0x80 else 0
  let v := raw b
  if b < 64 && v != raw (b / 2 * 2 + (1 - b % 2)) then 0#8 else BitVec.ofNat 8 v

/-- Banks that a ring's span touches (R192). -/
def RingCfg.banks (c : RingCfg) : List Nat :=
  let sl := slotWords c.store
  let stop := c.base + c.size * c.words
  (List.range ((stop - 1) / sl + 1 - c.base / sl)).flatMap fun i =>
    let s := c.base / sl + i
    let lo := max c.base (s * sl)
    if min stop (s * sl + sl) = lo + 1 then [bankOf c.store lo] else [pairOf c.store s, pairOf c.store s + 1]

/-- Is a ring valid (R192)? -/
def Stall.ringValid (st : Stall) (n : Nat) : Bool :=
  let c := st.ringCfg n
  c.valid && c.k != 7 && c.size != 0 && c.base % c.words = 0
    && decide (c.base + c.size * c.words ≤ storeWords c.store)
    && c.banks.all fun b => st.bankOwned b c.job

/-- Is ring `n` valid and owned by job `j` (R118, R192)? -/
def Stall.ringOwned (st : Stall) (n j : Nat) : Bool := st.ringValid n && (st.ringCfg n).job = j

/-- A ring's pointers. -/
def Stall.ring (st : Stall) (n : Nat) : RingSt := sgetD st.rings n .empty

/-- Set a ring's pointers. -/
def Stall.setRing (st : Stall) (n : Nat) (r : RingSt) : Stall := { st with rings := sput .empty st.rings n r }

/-- Filled slots (R193); on a provisional ring the committed ones (R301). -/
def RingSt.filled (r : RingSt) : Nat := (r.tail + 65536 - r.head) % 65536

/-- Free slots (R193); held slots count as filled (R301). -/
def RingSt.free (r : RingSt) (size : Nat) : Nat := size - r.filled - r.held

/-- Store word address of word `w` of the ring slot that pointer `p` addresses (R191, R193). -/
def RingCfg.addr (c : RingCfg) (p w : Nat) : Nat := c.base + p % c.size * c.words + w

/-- A foot range in force (R88, R92): entry, first group, last group. -/
structure FootAlloc where
  q : Nat
  job : Nat
  first : Nat
  last : Nat
  deriving DecidableEq, Repr

/-- The FOOT_ALLOC entries in force, from their words, in ascending order (R92). -/
def footInForce (ws : List Nat) : List FootAlloc :=
  (List.range 8).foldl (fun acc q =>
    let w := ws.getD q 0
    let a : FootAlloc := ⟨q, bits w 5 0, bits w 10 8, bits w 14 12⟩
    if bit w 6 && decide (a.first ≤ a.last)
        && acc.all (fun b => b.job != a.job && (decide (b.last < a.first) || decide (a.last < b.first)))
    then acc ++ [a] else acc) []

/-- The foot ranges in force. -/
def Stall.foots (st : Stall) : List FootAlloc := footInForce ((List.range 8).map fun q => st.reg (0x120 + 4 * q))

/-- The foot range of a job. -/
def Stall.footOf (st : Stall) (j : Nat) : Option FootAlloc := st.foots.find? fun a => a.job = j

/-- Promotion interval and headroom of a job (R99, R108). -/
def Stall.footAcc (st : Stall) (j : Nat) : Nat × Nat :=
  match st.footOf j with
  | some a =>
    let w := st.reg (0x140 + 4 * a.q)
    let l := bits w 4 0
    ((if l = 0 || l > 16 then 16 else l), bits w 7 5)
  | none => (16, 0)

/-! ### Stores, stamps and status words -/

/-- A store word with its poison bit, as its row was last written (R171, R181). -/
def Stall.stored (st : Stall) (store addr : Nat) : Line × Bool := sgetD st.words (store * 4096 + addr) (0#512, false)

/-- A store word with its poison bit, as a read delivers it (R182). -/
def Stall.word (st : Stall) (store addr : Nat) : Line × Bool :=
  let x := st.stored store addr
  (x.1, x.2 || sget st.errs (store * 4096 + addr) = some true)

/-- Write a store word (R177, R183); the row's code is written with it (R181). -/
def Stall.putWord (st : Stall) (store addr : Nat) (d : Line) (p : Bool) : Stall :=
  { st with words := sput (0#512, false) st.words (store * 4096 + addr) (d, p), errs := sdel st.errs (store * 4096 + addr) }

/-- Write consecutive words from an address, wrapping in the store. -/
def Stall.putWords (st : Stall) (store addr : Nat) (ds : List Line) (p : Bool) : Stall :=
  (ds.foldl (fun (a : Stall × Nat) d =>
    (a.1.putWord store (a.2 % storeWords store) d p, a.2 + 1)) (st, addr)).1

/-- Number of a store of a tile register, and its slot in range (R6). -/
def tileKey (t : Tile) : Nat := t.store.num * 128 + t.slot % storeSlots t.store.num

/-- The slot of a tile register in range. -/
def tileIx (t : Tile) : Nat := t.slot % storeSlots t.store.num

/-- The tile register in which a store word lies. -/
def tileOf (store addr : Nat) : Tile :=
  ⟨match store with | 0 => .w | 1 => .a | 2 => .p | _ => .g, addr / slotWords store⟩

/-- The n-th tile register of a run (R137, R86). -/
def tileStep (t : Tile) (n : Nat) : Tile := ⟨t.store, (tileIx t + n) % storeSlots t.store.num⟩

/-- Word `w` of a tile register. -/
def Stall.tword (st : Stall) (t : Tile) (w : Nat) : Line × Bool :=
  st.word t.store.num (tileIx t * slotWords t.store.num + w)

/-- The key of a sidecar entry among the rows of a stall (R180). -/
def sideKey (store slot : Nat) : Nat := 2 ^ 20 + store * 128 + slot % 128

/-- A sidecar entry (R57, R180). -/
def Stall.sidecar (st : Stall) (store slot : Nat) : Line := (sgetD st.side (store * 128 + slot % 128) (0#512, false)).1

/-- The poison bit of a sidecar row as a read delivers it (R181 to R183). -/
def Stall.sidePoison (st : Stall) (store slot : Nat) : Bool :=
  (sgetD st.side (store * 128 + slot % 128) (0#512, false)).2 || sget st.errs (sideKey store slot) = some true

/-- Is a sidecar entry of a tile's scales poisoned? An E2M1 tile has two entries (R57), and both count where a run uses the
scales of one only (DESIGN CHOICE, log entry 72). -/
def Stall.scalePoison (st : Stall) (f : Fmt) (store slot : Nat) : Bool :=
  f.scaled && (st.sidePoison store slot || (f = .e2m1 && st.sidePoison store (slot + 1)))

/-- Write a sidecar entry with its poison bit (R183); the row's code is written with it (R181). -/
def Stall.putSide (st : Stall) (store slot : Nat) (d : Line) (p : Bool) : Stall :=
  { st with
    side := sput (0#512, false) st.side (store * 128 + slot % 128) (d, p), errs := sdel st.errs (sideKey store slot) }

/-- A ready stamp (R121). -/
def Stall.stamp (st : Stall) (key : Nat) : Nat := sgetD st.stamps key 0

/-- Raise a ready stamp to a tick (R121). -/
def Stall.setStamp (st : Stall) (key t : Nat) : Stall := { st with stamps := sput 0 st.stamps key (max (st.stamp key) t) }

/-- A tile status word (R103). -/
def Stall.tstat (st : Stall) (key : Nat) : W32 := sgetD st.tstatus key 0#32

/-- Set a tile status word. -/
def Stall.setTstat (st : Stall) (key : Nat) (w : W32) : Stall := { st with tstatus := sput 0#32 st.tstatus key w }

/-- The status word that a register read shows, once the tile's stamp has passed at tick `t` (R108). -/
def Stall.showAt (st : Stall) (t key : Nat) : Stall :=
  if st.stamp key ≤ t then { st with tshown := sput 0#32 st.tshown key (st.tstat key) } else st

/-- Add to a counter of the stall's page. -/
def Stall.bump (st : Stall) (o n : Nat) : Stall := { st with page := st.page.bump o n }

/-- Chargeable events and static ticks of a job are noted for the energy interval (R384). The kinds are the format code for a
useful product, then those of `workKind`. -/
def Stall.spend (st : Stall) (job kind n : Nat) : Stall :=
  if n = 0 then st else { st with work := sset st.work (job * 32 + kind) (sgetD st.work (job * 32 + kind) 0 + n) }

/-- A job slot at run time. -/
def Stall.slotSt (st : Stall) (k : Nat) : SlotSt := sgetD st.slots k .empty

/-- Set a job slot. -/
def Stall.setSlot (st : Stall) (k : Nat) (v : SlotSt) : Stall := { st with slots := sput .empty st.slots k v }

/-- A tally's value. -/
def Stall.tally (st : Stall) (i : Nat) : Nat := sgetD st.tallies i 0

/-- Step number of a job's slot, or 0. -/
def Stall.stepOf (st : Stall) (job : Nat) : Nat :=
  match st.slotOf job with | some k => (st.slotSt k).step | none => 0

/-! ### Events and the fault record -/

/-- An event of stall `sn` (R392). -/
def Stall.ev (st : Stall) (sn t code sev job aux : Nat) : Ev :=
  ⟨code, sev, some job, pageId .stall sn, st.stepOf job, t, BitVec.ofNat 64 aux⟩

/-- What a stall's step does outside the stall: an event, a counter of another page, something that
leaves, the issue of a word (for the trace and the ledger, R383, R484), memory blocks that a transfer requests of its
hub, a run-ahead descriptor, a strike against a stall (R407), or a message to a stall of another device (R344). -/
inductive Eff where
  | ev (e : Ev)
  | count (page off n : Nat)
  | emit (o : Out)
  | issued (t stall eng job pc d : Nat)
  | reads (sn tag : Nat) (qs : List Nat)
  | lookup (sn job va : Nat)
  | ahead (t sn job : Nat) (a : Ahead)
  | strike (stall cause : Nat) (job : Option Nat)
  | remote (t pos : Nat) (hdr : BitVec 128) (words : List Line) (crc status : W32)
  deriving DecidableEq, Repr

/-- Write the engine fault record if none is held (R132). -/
def Stall.record (st : Stall) (f : FaultRec) : Stall :=
  if st.fault.valid then st else { st with fault := { f with valid := true } }

/-- Set a poison hit of a job's slot, counted once per step on the die's page (R394). -/
def Stall.poisonHit (st : Stall) (sn k : Nat) : Stall × List Eff :=
  let s := st.slotSt k
  if s.poisonHit then (st, [])
  else (st.setSlot k { s with poisonHit := true, poisonDue := true }, [.count (pageNo .cdie (sn / 128)) 0x88 1])

end Sys2Proof.Machine
end

