-- ==== Sys2Proof/Machine/Flags.lean ====
section
/-! DEFINITION. Flags, tallies and ring pointers: what changes at the end of a tick (R118 to R120, R193, R213, R300 to
R303), what a wait sees and consumes (R113), and what a signal does (R116). -/
namespace Sys2Proof.Machine

/-- Set flag `i` (R119). -/
def Stall.setFlag (st : Stall) (i : Nat) : Stall := { st with flags := st.flags ||| BitVec.ofNat 32 (2 ^ (i % 32)) }

/-- Clear flag `i`. -/
def Stall.clearFlag (st : Stall) (i : Nat) : Stall :=
  { st with flags := st.flags &&& ~~~(BitVec.ofNat 32 (2 ^ (i % 32))) }

/-- The job that owns tally `i`, if a range in force holds it (R118). -/
def Stall.tallyOwner (st : Stall) (i : Nat) : Option Nat :=
  ((List.range 8).find? fun k =>
    let r := st.jobRes k
    decide (r.tallyBase ≤ i) && decide (i < r.tallyBase + r.tallyCount)).map fun k => (st.jobSlot k).job

/-- A message as an event names it (R226): source and destination stall, kind, ring and tally as received. -/
def msgAux (src dst kind ring tally : Nat) : Nat := src + 2 ^ 16 * dst + 2 ^ 32 * kind + 2 ^ 35 * ring + 2 ^ 39 * tally

/-- Add to a tally at the end of a tick; past 0xFFFF it wraps and is held (R120, R213). `aux` names the message (R226). -/
def Stall.addTally (st : Stall) (sn t i n aux : Nat) : Stall × List Eff :=
  if st.wrapped.getLsbD i then (st, [])
  else if st.tally i + n > 0xFFFF then
    ({ st with tallies := sput 0 st.tallies i 0xFFFF, wrapped := st.wrapped ||| BitVec.ofNat 64 (2 ^ i) },
     match st.tallyOwner i with
     | some j => [.ev (st.ev sn t 0x3201 2 j aux)]
     | none => [])
  else ({ st with tallies := sput 0 st.tallies i (st.tally i + n) }, [])

/-- Advance a ring's head by a pop; short of slots it stops at the tail and the job fails (R117). ENG_FAULT_REG of RING_UNDERRUN
holds store 7, which names no store, and ENG_FAULT_AUX the ring (DESIGN CHOICE, log entry 72). -/
def Stall.popRing (st : Stall) (sn t r n job eng pc due : Nat) : Stall × List Eff :=
  let g := st.ring r
  if g.filled < n then
    ((st.setRing r { g with head := g.tail }).record
      ⟨true, 0x1306, eng, job, 7, 0, due, 0, pc, BitVec.ofNat 32 r⟩,
     [.ev (st.ev sn t 0x1306 2 job r)])
  else (st.setRing r { g with head := (g.head + n) % 65536 }, [])

/-- Would an advance of a ring's tail make its filled slots exceed its size (R193)? -/
def Stall.pastEnd (st : Stall) (r n : Nat) : Bool := decide ((st.ringCfg r).size < (st.ring r).filled + (st.ring r).held + n)

/-- Advance a ring's tail: refused on an invalid ring (R192), on an overrun (R193) and on a provisional ring that
holds another step's slots (R303); a provisional ring holds the advance (R300). -/
def Stall.pushRing (st : Stall) (sn t r n job : Nat) (inc : Option (Nat × Nat × Nat)) : Stall × List Eff :=
  let c := st.ringCfg r
  let g := st.ring r
  if !st.ringOwned r job then (st.bump 0x740 1, [])
  else if st.pastEnd r n then (st, [.ev (st.ev sn t 0x2302 2 c.job r)])
  else if c.prov then
    if g.held != 0 && g.heldStep != st.stepOf job then
      (st, [.ev (st.ev sn t 0x2303 2 c.job (r + 2 ^ 4 * (g.heldStep % 65536) + 2 ^ 20 * (st.stepOf job % 65536)))])
    else
      (st.setRing r { g with
        held := g.held + n, heldStep := st.stepOf job,
        incs := match inc with
          | some q => g.incs ++ [((g.tail + g.held) % 65536, q)]
          | none => g.incs }, [])
  else
    let st := st.setRing r { g with tail := (g.tail + n) % 65536 }
    match inc with
    | some (i, v, aux) => st.addTally sn t i v aux
    | none => (st, [])

/-- Write words into a ring from pointer `ptr` on, crossing slots and wrapping (R154). -/
def Stall.putRing (st : Stall) (n ptr : Nat) (ws : List Line) (poison : Bool) : Stall :=
  let cfg := st.ringCfg n
  (ws.zipIdx).foldl (fun s q => s.putWord cfg.store (cfg.addr (ptr + q.2 / cfg.words) (q.2 % cfg.words)) q.1 poison) st

/-- What PACK wrote enters its ring and the tail advances; on an overrun, or in a ring that is no longer the job's, no byte is
written (R154, R192, R193). -/
def Stall.packRing (st : Stall) (sn t : Nat) (p : RingPut) (job : Nat) : Stall × List Eff :=
  let st := if st.ringOwned p.ring job && !st.pastEnd p.ring p.n then st.putRing p.ring p.ptr p.words p.poison else st
  st.pushRing sn t p.ring p.n job none

/-- The resolution of a provisional ring (R302). -/
def Stall.resolveRing (st : Stall) (sn t r : Nat) (commit : Bool) : Stall × List Eff :=
  let g := st.ring r
  if commit then
    g.incs.foldl (fun (a : Stall × List Eff) q =>
        let b := a.1.addTally sn t q.2.1 q.2.2.1 q.2.2.2
        (b.1, a.2 ++ b.2))
      (st.setRing r { g with tail := (g.tail + g.held) % 65536, held := 0, heldStep := 0, incs := [] }, [])
  else (st.setRing r { g with held := 0, heldStep := 0, incs := [] }, [])

/-- Chits arrive in an account (R214): the first opens it; a ninth account or a count above 4,096 is dropped. -/
def Stall.grantAct (st : Stall) (sn t k granter ring n sz : Nat) : Stall × List Eff :=
  let s := st.slotSt k
  let bad : Stall × List Eff :=
    (st, [.ev (st.ev sn t 0x3204 2 (st.jobSlot k).job (granter + 2 ^ 16 * ring + 2 ^ 32 * n))])
  match lfind (fun a => a.granter = granter && a.ring = ring) s.accounts 0 with
  | some (i, a) =>
    if 4096 < a.count + n then bad
    else (st.setSlot k { s with accounts := lset s.accounts i { a with count := a.count + n } }, [])
  | none =>
    if 8 ≤ s.accounts.length || 4096 < n then bad
    else (st.setSlot k { s with accounts := s.accounts ++ [⟨granter, ring, n, sz⟩] }, [])

/-- Fold payload words into the receive running value of a job's slot (R220). -/
def Stall.foldRecv (st : Stall) (job : Nat) (ws : List Line) : Stall :=
  match st.slotOf job with
  | some k =>
    let s := st.slotSt k
    st.setSlot k { s with recvRv := crcRun s.recvRv (ws.flatMap lineBytes) }
  | none => st

/-- The tail advances over every complete slot that it reaches, in slot order (R218); `fuel` bounds the slots. -/
def Stall.passComplete (st : Stall) (sn t r job : Nat) : Nat → Stall × List Eff
  | 0 => (st, [])
  | fuel + 1 =>
    let g := st.ring r
    match g.landing with
    | l :: rest =>
      if l.complete then
        let a := ((st.setRing r { g with landing := rest }).foldRecv job l.fold).bump 0x6A0 1
        let b := a.pushRing sn t r 1 job l.inc
        let c := b.1.passComplete sn t r job fuel
        (c.1, b.2 ++ c.2)
      else (st, [])
    | [] => (st, [])

/-- A BULK's slot is complete (R217, R218). -/
def Stall.bulkDone (st : Stall) (sn t r ix job : Nat) : Stall × List Eff :=
  let g := st.ring r
  let ls := g.landing.map fun l => if l.ix = ix then { l with complete := true } else l
  (st.setRing r { g with landing := ls }).passComplete sn t r job ls.length

/-- Order of the acts of one tick: clears, sets, tallies and accounts, heads, tails, resolutions (R120). -/
def Act.rank : Act → Nat
  | .clearFlag _ => 0 | .setFlag _ => 1 | .addTally .. => 2 | .grant _ _ _ _ _ => 2 | .popRing _ _ _ _ _ _ => 3
  | .pushRing _ _ _ _ => 4 | .packRing _ _ => 4 | .bulkDone _ _ _ => 4 | .resolve _ _ => 5

/-- One act at the end of tick `t`. -/
def Stall.doAct (st : Stall) (sn t : Nat) : Act → Stall × List Eff
  | .clearFlag i => (st.clearFlag i, [])
  | .setFlag i => (st.setFlag i, [])
  | .addTally i n aux => st.addTally sn t i n aux
  | .popRing r n j e pc due => st.popRing sn t r n j e pc due
  | .pushRing r n j inc => st.pushRing sn t r n j inc
  | .packRing p j => st.packRing sn t p j
  | .grant k g r n sz => st.grantAct sn t k g r n sz
  | .bulkDone r ix j => st.bulkDone sn t r ix j
  | .resolve r c => st.resolveRing sn t r c

/-- Run a list of acts in order, gathering their effects. -/
def Stall.doActs (st : Stall) (sn t : Nat) (l : List Act) : Stall × List Eff :=
  l.foldl (fun a x => let b := a.1.doAct sn t x; (b.1, a.2 ++ b.2)) (st, [])

/-- The end of the tick in which acts were gathered, once a later tick is reached (R120). -/
def Stall.endTick (st : Stall) (sn now : Nat) : Stall × List Eff :=
  if st.acts.isEmpty || decide (now ≤ st.actsAt) then (st, [])
  else
    let l := (List.range 6).flatMap fun r => st.acts.filter fun a => a.rank = r
    { st with acts := [] }.doActs sn st.actsAt l

/-- Gather an act for the end of tick `t`. -/
def Stall.later (st : Stall) (t : Nat) (a : Act) : Stall := { st with acts := st.acts ++ [a], actsAt := t }

/-- Gather several. -/
def Stall.laters (st : Stall) (t : Nat) (l : List Act) : Stall := l.foldl (fun s a => s.later t a) st

/-- Slip budget of a timeout class (R114); class 7 has none. -/
def slipBudget (c : Nat) : Option Nat :=
  match c with
  | 0 => some 64 | 1 => some 0 | 2 => some 4 | 3 => some 16 | 4 => some 256 | 5 => some 1024 | 6 => some 16384
  | _ => none

/-- Is a wait's condition true (R113, R120, R213)? `r` is the range of the job. -/
def Stall.waitTrue (st : Stall) (r : JobRes) (w : Wait) : Bool :=
  let i := w.index.toNat
  match w.kind.toNat with
  | 0 => true
  | 1 => st.flags.getLsbD ((r.flagBase + i) % 32)
  | 2 => !st.flags.getLsbD ((r.flagBase + i) % 32)
  | 3 => !st.wrapped.getLsbD (r.tallyBase + i) && decide (w.value.toNat ≤ st.tally (r.tallyBase + i))
  | 4 => decide (w.value.toNat ≤ (st.ring (i % 16)).filled)
  | 5 => decide (w.value.toNat ≤ (st.ring (i % 16)).free (st.ringCfg (i % 16)).size)
  | _ => false

/-- Consume a wait's condition at issue (R113, R120). -/
def Stall.consume (st : Stall) (r : JobRes) (w : Wait) : Stall :=
  if !w.consume then st
  else match w.kind.toNat with
    | 1 => st.clearFlag (r.flagBase + w.index.toNat)
    | 3 =>
      let i := r.tallyBase + w.index.toNat
      if st.wrapped.getLsbD i then st
      else { st with tallies := sput 0 st.tallies i (st.tally i - w.value.toNat) }
    | _ => st

/-- The local act of a signal of stall `sn` at its completion tick (R116); remote increments are messages. -/
def sigAct (sn : Nat) (r : JobRes) (s : Sig) : List Act :=
  match s.kind.toNat with
  | 1 => [.setFlag (r.flagBase + s.index.toNat)]
  | 2 => [.clearFlag (r.flagBase + s.index.toNat)]
  | 3 => [.addTally (r.tallyBase + s.index.toNat) s.value.toNat (msgAux sn sn 2 0 s.index.toNat)]
  | _ => []

/-- Does a wait or signal or pop hold a reserved encoding (R111 to R116)? A sig.value of 0 is none and adds 0 (log entry 65). -/
def Common.reserved (c : Common) : Bool :=
  decide (c.wait.kind.toNat > 5) || decide (c.sig.kind.toNat > 4) || decide (c.wait.feed.toNat > 2)
    || (c.wait.consume && c.wait.kind.toNat != 1 && c.wait.kind.toNat != 3)
    || (decide (3 ≤ c.wait.kind.toNat) && c.wait.value.toNat = 0)

end Sys2Proof.Machine
end

