-- ==== Sys2Proof/Machine/Issue.lean ====
section
/-! DEFINITION. Issue in full (R34, R35, R115, R123 to R125, R187): the checks that every control word meets at its due
tick, the slip, the fault, and the issue itself. The operation classes bring their own checks as a `Spec`. -/
namespace Sys2Proof.Machine

/-- A fault of a word (R131, R132): event code, register named, stamp, and aux of the record. -/
structure Flt where
  code : Nat
  store : Nat
  slot : Nat
  stamp : Nat
  aux : Nat
  deriving DecidableEq, Repr

/-- A fault that names no register: ENG_FAULT_REG holds 0, as it would for TW slot 0 (DESIGN CHOICE, log entry 72). -/
def flt (code aux : Nat) : Flt := ⟨code, 0, 0, 0, aux⟩

/-- What a check at the due tick decides: a slip that counts at some offsets, a wait that fails (R216), or a fault. -/
inductive Verdict where
  | slip (ctrs : List Nat)
  | waitFail (ctrs : List Nat)
  | fault (f : Flt)
  deriving DecidableEq, Repr

/-- What an operation class adds to the issue of its word: an object outside the job (R116, R118, R492), tile registers
in operand order with their source mark (R123, R187), checks after the wait and after the stamps, occupancy, and the effect
at issue. -/
structure Spec where
  ownerBad : Bool
  regs : List (Tile × Bool)
  stampOf : List (Nat × Nat)
  pre : Option Verdict
  late : Option Verdict
  d : Nat
  run : Stall → Stall × List Eff

/-- The counters of a slip by cause (R133). -/
def slipCtr : Eng → Nat
  | .mx => 0xB8 | .vx => 0xC0 | .pt => 0xC8 | .ex => 0xD0

/-- Counter of words issued (R133). -/
def wordCtr : Eng → Nat
  | .mx => 0x98 | .vx => 0xA0 | .pt => 0xA8 | .ex => 0xB0

/-- Cause counter of a false wait by its feed (R133). -/
def feedCtr (f : BitVec 2) : Nat := if f = 1#2 then 0xF0 else if f = 2#2 then 0xF8 else 0xE8

/-- Sub-queue of slot `k` on engine `e`. -/
def Stall.subq (st : Stall) (k : Nat) (e : Eng) : SubQ := (st.slotSt k).q.get e

/-- Set a sub-queue. -/
def Stall.setSubq (st : Stall) (k : Nat) (e : Eng) (q : SubQ) : Stall :=
  let s := st.slotSt k
  st.setSlot k { s with q := s.q.set e q }

/-- The slip of R35: the base moves by one round and the causes count; R265's counters rise by 4,096 ticks. -/
def Stall.slip (st : Stall) (k : Nat) (e : Eng) (ctrs : List Nat) : Stall :=
  let q := st.subq k e
  (slipCtr e :: ctrs).foldl (fun s o => s.bump o (if 0x440 ≤ o && o < 0x470 then 4096 else 1)) (st.setSubq k e { q with base := q.base + 4096 })

/-- The fault record's fields for a word (R132). -/
def wordFault (e : Eng) (job due pc : Nat) (f : Flt) : FaultRec :=
  ⟨true, f.code, e.num, job, f.store, f.slot, due, f.stamp, pc, BitVec.ofNat 32 f.aux⟩

/-- A fault at the due tick (R124): recorded, raised against the job, and the sub-queue issues nothing more. -/
def Stall.faultWord (st : Stall) (sn k : Nat) (e : Eng) (t : Nat) (f : Flt) : Stall × List Eff :=
  let q := st.subq k e
  let job := (st.jobSlot k).job
  (((st.record (wordFault e job t q.pc f)).setSubq k e { q with stopped := true }),
   [.ev (st.ev sn t f.code 2 job (f.aux + 2 ^ 32 * (f.store + 8 * f.slot)))])

/-- The wait fields as R132 lays them out in ENG_FAULT_AUX. -/
def waitAux (w : Wait) : Nat :=
  w.index.toNat + 2 ^ 6 * w.kind.toNat + 2 ^ 9 * w.tclass.toNat + 2 ^ 12 * w.value.toNat

/-- A false check (R115): a slip that counts, or WAIT_TIMEOUT once the budget is used. -/
def Stall.waitFail (st : Stall) (sn k : Nat) (e : Eng) (t : Nat) (w : Wait) (ctrs : List Nat) : Stall × List Eff :=
  let q := st.subq k e
  let job := (st.jobSlot k).job
  if slipBudget w.tclass.toNat = some q.fails then
    ((st.record (wordFault e job t q.pc (flt 0x3202 (waitAux w)))).setSubq k e { q with stopped := true },
     [.ev (st.ev sn t 0x3202 0 job (waitAux w + 2 ^ 32 * q.fails))])
  else ((st.setSubq k e { q with fails := q.fails + 1 }).slip k e ctrs, [])

/-- Apply a verdict. -/
def Stall.judge (st : Stall) (sn k : Nat) (e : Eng) (t : Nat) (w : Wait) : Verdict → Stall × List Eff
  | .slip cs => (st.slip k e cs, [])
  | .waitFail cs => st.waitFail sn k e t w cs
  | .fault f => st.faultWord sn k e t f

/-- The slots whose head word falls due in the 64 ticks from `lo` on an engine (R34). -/
def Stall.dueIn (st : Stall) (e : Eng) (lo : Nat) : List Nat :=
  (List.range 8).filter fun k =>
    let s := st.slotSt k
    let q := s.q.get e
    (st.jobSlot k).valid && !(st.jobSlot k).suspended && s.running && !q.stopped && !q.ended
      && match q.words with
        | w :: _ => decide (lo ≤ q.base + w.common.offset.toNat) && decide (q.base + w.common.offset.toNat < lo + 64)
        | [] => false

/-- The winner of the FREE slot that holds tick `t`, ranked by class and round robin (R34). -/
def Stall.freeWinner (st : Stall) (e : Eng) (k t : Nat) : Stall × Nat :=
  let lo := t / 64 * 64
  match sget st.winner e.num with
  | some (l, w) => if l = lo then (st, w) else rank lo
  | none => rank lo
where
  /-- Rank the candidates and remember the winner. -/
  rank (lo : Nat) : Stall × Nat :=
    let cs := st.dueIn e lo
    let c := ((argmin id (cs.map fun i => (st.jobSlot i).cls)).getD (st.jobSlot k).cls)
    let same := cs.filter fun i => (st.jobSlot i).cls = c
    let ptr := sgetD st.rr (c * 4 + e.num) 0
    let w := ((same.find? fun i => decide (ptr ≤ i)).getD (same.headD k))
    ({ st with rr := sput 0 st.rr (c * 4 + e.num) ((w + 1) % 8), winner := sset st.winner e.num (lo, w) }, w)

/-- Does the word name an object outside its job in its common fields (R116 to R118)? -/
def Stall.foreign (st : Stall) (k : Nat) (ctx : JobCtx) (c : Common) : Bool :=
  let r := st.jobRes k
  let j := (st.jobSlot k).job
  let w := c.wait.kind.toNat
  let s := c.sig.kind.toNat
  ((w = 1 || w = 2) && decide (r.flagCount ≤ c.wait.index.toNat))
    || (w = 3 && decide (r.tallyCount ≤ c.wait.index.toNat))
    || ((w = 4 || w = 5) && !(decide (c.wait.index.toNat < 16) && st.ringOwned c.wait.index.toNat j))
    || ((s = 1 || s = 2) && decide (r.flagCount ≤ c.sig.index.toNat))
    || (s = 3 && decide (r.tallyCount ≤ c.sig.index.toNat))
    || (s = 4 && (placeOf ctx.place c.sig.pitch.toNat c.sig.stall.toNat).isNone)
    || (c.popCount != 0#8 && !st.ringOwned c.popRing.toNat j)

/-- The bank checks of R187 over the registers a word names, in operand order. -/
def Stall.bankCheck (st : Stall) (j : Nat) : List (Tile × Bool) → Option Verdict
  | [] => none
  | (tl, _) :: r =>
    let s := tl.store.num
    let b := pairOf s (tileIx tl)
    let busy (i : Nat) : Bool := (st.bank i).scrubEnd.isSome || ((st.bank i).wakeEnd.isSome && (st.bank i).owner = 0#8)
    let mine (i : Nat) : Bool := st.bankOwned i j || (busy i && st.ownerEntry i = ownJob j)
    let f (code i : Nat) : Verdict := .fault ⟨code, s, tileIx tl, 0, st.ownerRaw i⟩
    if !mine b then some (f 0x2301 b)
    else if !mine (b + 1) then some (f 0x2301 (b + 1))
    else if busy b || busy (b + 1) then some (.slip [0xE0])
    else if !(st.bank b).awake then some (f 0x2304 b)
    else if !(st.bank (b + 1)).awake then some (f 0x2304 (b + 1))
    else st.bankCheck j r

/-- The stamp check of R123 over source registers, in operand order; `extra` gives later ticks for keys (R400). -/
def Stall.stampCheck (st : Stall) (t : Nat) (extra : List (Nat × Nat)) : List (Tile × Bool) → Option Verdict
  | [] => none
  | (tl, src) :: r =>
    let s := st.stamp (tileKey tl) + sgetD extra (tileKey tl) 0
    if src && decide (t < s) then some (.fault ⟨0x1301, tl.store.num, tileIx tl, s, 0⟩)
    else st.stampCheck t extra r

/-- The occupancy check of R124 on VX, PT and EX. -/
def Stall.busyCheck (st : Stall) (k : Nat) (e : Eng) (t : Nat) : Option Verdict :=
  let b := st.busy.get e
  if e != .mx && decide (t < b.till) then
    if b.slot = k then some (.fault ⟨0x1301, 7, 0, b.till, 0⟩) else some (.slip [0xE0])
  else none

/-- The lowest free tag of the porter (R257). -/
def Stall.freeTag (st : Stall) : Option Nat := (List.range 8).find? fun i => (sget st.tags i).isNone

/-- A word of the porter engine needs a free tag (R124); its slip is also charged to STALL_ISSUE_TICKS (R265). -/
def Stall.tagCheck (st : Stall) (e : Eng) : Option Verdict :=
  if e = .pt && st.freeTag.isNone then some (.slip [0xF0, 0x468]) else none

/-- The first verdict of a list of checks. -/
def firstOf : List (Option Verdict) → Option Verdict
  | [] => none
  | some v :: _ => some v
  | none :: r => firstOf r

/-- The sub-queue after its head word has issued at tick `t`: the next word's ordinal is the program counter (R109). -/
def SubQ.issued (q : SubQ) (t : Nat) : SubQ :=
  { q with
    words := q.words.tail, ords := q.ords.tail, pc := q.ords.tail.headD q.next, fails := 0, lastPc := q.pc, lastTick := t }

/-- Flags and tallies at the start of a tick in which a wait consumes, as the registers still show them (R134). -/
def Stall.note (st : Stall) (t : Nat) (w : Wait) : Stall :=
  if w.consume && (match st.seen with | some x => x.1 != t | none => true) then
    { st with seen := some (t, st.flags, st.tallies) }
  else st

/-- The issue of the head word (R121, R124): consumption, occupancy, the counters, then the class's effect. -/
def Stall.issueWord (st : Stall) (sn k : Nat) (e : Eng) (t : Nat) (w : CWord) (sp : Spec) : Stall × List Eff :=
  let q := st.subq k e
  let st := (((st.note t w.common.wait).consume (st.jobRes k) w.common.wait).setSubq k e (q.issued t)).bump (wordCtr e) 1
  let st := { st with busy := st.busy.set e ⟨max (st.busy.get e).till (t + sp.d), k⟩ }
  let r := sp.run st
  (r.1, .issued t sn e.num (st.jobSlot k).job q.pc sp.d :: r.2)

/-- The rule of R124 for the head word of slot `k` on engine `e` at its due tick `t`. `charge` is R265's cause. -/
def Stall.due (st : Stall) (sn k : Nat) (e : Eng) (ctx : JobCtx) (t : Nat) (w : CWord) (charge : Option Nat)
    (sp : Spec) : Stall × List Eff :=
  let job := (st.jobSlot k).job
  let missed (owner : Nat) : Stall × List Eff := st.faultWord sn k e t ⟨0x1302, 0, 0, 0, owner⟩
  let body (st : Stall) : Stall × List Eff :=
    if (st.slotSt k).poisonDue && (w.common.wait.kind != 0#3 || w.op = .stepEnd) then
      let s := st.slotSt k
      (st.setSlot k { s with poisonDue := false }).faultWord sn k e t (flt 0x7103 0)
    else if st.foreign k ctx w.common || sp.ownerBad then st.faultWord sn k e t (flt 0x1304 0)
    else match st.bankCheck job sp.regs with
    | some v => st.judge sn k e t w.common.wait v
    | none =>
      let wt := w.common.wait
      if (wt.kind = 4#3 || wt.kind = 5#3) && decide ((st.ringCfg (wt.index.toNat % 16)).size < wt.value.toNat) then
        st.faultWord sn k e t (flt 0x1305 0)
      else if !st.waitTrue (st.jobRes k) wt then
        st.waitFail sn k e t wt (feedCtr wt.feed :: charge.toList)
      else match firstOf [sp.pre, st.busyCheck k e t, st.tagCheck e, st.stampCheck t sp.stampOf sp.regs, sp.late] with
        | some (.waitFail cs) => st.waitFail sn k e t wt (cs ++ charge.toList)
        | some v => st.judge sn k e t wt v
        | none => st.issueWord sn k e t w sp
  match st.rota e (t % 4096 / 64) with
  | some j => if j = job then body st else missed j
  | none =>
    let r := st.freeWinner e k t
    if r.2 = k then body r.1 else (r.1.slip k e [0xD8], [])

/-- The head word of a sub-queue that may fall due: the slot runs, is not suspended, and the sub-queue has neither stopped nor
issued its STEP_END, behind which the next step's words wait (R109, R446). -/
def Stall.head (st : Stall) (k : Nat) (e : Eng) : Option (CWord × Nat) :=
  let s := st.slotSt k
  let q := s.q.get e
  if s.running && (st.jobSlot k).valid && !(st.jobSlot k).suspended && !q.stopped && !q.ended && !st.fenced then
    match q.words with
    | w :: _ => some (w, q.base + w.common.offset.toNat)
    | [] => none
  else none

/-- Something is due at a later tick. -/
def Stall.at_ (st : Stall) (t : Nat) (a : Due) : Stall := { st with agenda := st.agenda ++ [(t, a)] }

/-- Something is due at a later tick, if it is not already. -/
def Stall.once (st : Stall) (t : Nat) (a : Due) : Stall := if st.agenda.contains (t, a) then st else st.at_ t a

/-- Are two accesses those of one control word? -/
def Access.sameWord (a b : Access) : Bool := a.eng = b.eng && a.slot = b.slot && a.pc = b.pc && a.issue = b.issue

/-- An issued word claims its port accesses (R177, R184): one that another word has claimed is a clash in its tick (R185), and a
read of a row that holds an error meets it (R181, R182). -/
def Stall.claim (st : Stall) (l : List Access) : Stall :=
  let st := l.foldl (fun (s : Stall) a =>
    let s := if s.claims.any fun c => c.tick = a.tick && c.port = a.port && !c.sameWord a then s.once a.tick (.clash a.port) else s
    if a.read && (sget s.errs a.key).isSome then s.once a.tick (.readErr a.key) else s) st
  { st with claims := l ++ st.claims }

/-- Port accesses of a word issued at `t`, from (tick after issue, write, store, address). -/
def portsOf (k : Nat) (e : Eng) (pc t : Nat) (l : List (Nat × Bool × Nat × Nat)) : List Access :=
  l.map fun q => ⟨t + q.1, (if q.2.1 then 0 else 128) + bankOf q.2.2.1 q.2.2.2, !q.2.1, q.2.2.1 * 4096 + q.2.2.2, k, e, pc, t⟩

/-- Bank index of a sidecar entry (R180). -/
def sideBank (store slot : Nat) : Nat := store * 32 + 2 * (slot % 128 / 8) + slot % 2

/-- Accesses of sidecar entries by a word issued at `t`, from (tick after issue, write, store, slot), each once; a sidecar has
one port (R180). -/
def sidesOf (k : Nat) (e : Eng) (pc t : Nat) (l : List (Nat × Bool × Nat × Nat)) : List Access :=
  l.eraseDups.map fun q => ⟨t + q.1, 256 + sideBank q.2.2.1 q.2.2.2, !q.2.1, sideKey q.2.2.1 q.2.2.2, k, e, pc, t⟩

/-- Elements of a VX word of slot `k` are counted and charged (R159, R384). -/
def Stall.vxElems (st : Stall) (k n : Nat) : Stall := (st.bump 0x6C0 n).spend (st.jobSlot k).job workKind.vx n

/-- A word in flight until tick `c`. -/
def Stall.fly (st : Stall) (k : Nat) (e : Eng) (c : Nat) (w : CWord) : Stall :=
  let q := st.subq k e
  { st with flight := st.flight ++ [⟨e, k, (st.jobSlot k).job, (st.slotSt k).step, q.lastPc, q.lastTick, c, w.common, [], [], none, none⟩] }

end Sys2Proof.Machine
end

