-- ==== Sys2Proof/Machine/Array.lean ====
section
/-! DEFINITION. The matrix engine: stationary loads, passes, foot buffer and promotion (chapters 4, 5 and 8 of the
manual), with the checks of R89. -/
namespace Sys2Proof
open Machine

/-- Sub-arrays, cell rows of each, columns of each, fill, offset of the foot write and largest M (R73). -/
structure ShapeInfo where
  subs : Nat
  rows : Nat
  cols : Nat
  fill : Nat
  foot : Nat
  maxM : Nat
  deriving DecidableEq, Repr

/-- Group size and kept elements of a pattern (R160). -/
def Pattern.group : Pattern → Nat × Nat × Nat
  | .of24 => (4, 2, 2)
  | .of48 => (8, 4, 3)
  | _ => (1, 1, 0)

/-- Does a load read a structured operand? -/
def Pattern.structured : Pattern → Bool
  | .of24 => true | .of48 => true | _ => false

/-- Length of a load in ticks (R70, R164). -/
def Pattern.ticks (p : Pattern) : Nat := if p.structured then 64 else 32

/-- The table of R73. -/
def Shape.info : Shape → ShapeInfo
  | .f => ⟨1, 32, 32, 32, 40, 256⟩
  | .h2 => ⟨2, 16, 32, 16, 24, 128⟩
  | .q4 => ⟨4, 16, 16, 16, 24, 128⟩
  | .v => ⟨1, 32, 32, 6, 14, 7⟩
  | .reserved => ⟨1, 32, 32, 32, 40, 0⟩

/-- Half of the active tile that sub-array `s` uses (R74, R75). -/
def Shape.half (sh : Shape) (s : Nat) : Nat := match sh with | .h2 => s | .q4 => s / 2 | _ => 0

/-- First column of sub-array `s` (R75). -/
def Shape.col0 (sh : Shape) (s : Nat) : Nat := match sh with | .q4 => 16 * (s % 2) | _ => 0

/-- Are the fields of a load reserved (R89)? -/
def Load.invalid (l : Load) : Bool :=
  (match Fmt.ofCode l.fmt with | some .fp32 => true | none => true | _ => false)
    || l.orient = .reserved || l.struct = .reserved

/-- An E2M1 tile in an odd slot (R57). -/
def Load.oddSlot (l : Load) : Bool := l.fmt = 6#4 && l.slot % 2 = 1

/-- The sum of a class: EXTREME for MINPLUS and MAXPLUS (R77). -/
def Mma.extreme (w : Mma) : Bool := w.mode = 3#3 || w.mode = 4#3

/-- The tile registers that a load reads. -/
def Load.regs (l : Load) : List (Tile × Bool) :=
  (⟨.w, l.slot % 128⟩, true) :: (if l.struct.structured then [(⟨.w, (l.slot + 1) % 128⟩, true)] else [])

end Sys2Proof

namespace Sys2Proof.Machine

/-! ### Stationary sets (R69, R70, R161 to R164) -/

/-- Element `i` of a tile's words. -/
def tileElem (f : Fmt) (ws : List Line) (i : Nat) : Nat := lineElem f (ws.getD (i / f.perWord) 0#512) (i % f.perWord)

/-- Bytes of a list of words. -/
def linesBytes (ws : List Line) : List Byte := ws.flatMap lineBytes

/-- Field `i` of width `w` in a bit stream of bytes (R151, R162). -/
def streamField (bs : List Byte) (w i : Nat) : Nat :=
  let o := w * i
  leAt bs (o / 8) 2 >>> (o % 8) % 2 ^ w

/-- The shadow set as a load leaves it at its issue (R70, R162): no word read, the scales of a dense tile copied. -/
def Stall.newSet (st : Stall) (job x : Nat) (f : Fmt) (l : Load) : StatSet :=
  let slot := l.slot % 128
  let sc := lineBytes (st.sidecar 0 slot) ++ (if f = .e2m1 then lineBytes (st.sidecar 0 (slot + 1)) else [])
  { job := job, slot := slot, fmt := f, nMajor := !l.struct.structured && l.orient = .nMajor, struct := l.struct
    tile := [], scales := if f.scaled && !l.struct.structured then sc.map (·.toNat) else []
    pos := [], poisoned := !l.struct.structured && st.scalePoison f 0 slot, stamp := x + l.struct.ticks }

/-- Word `r` of a load (R70, R164): of the tile, then of the meta tile. -/
def Stall.loadWord (st : Stall) (s : StatSet) (r : Nat) : Line × Bool :=
  if r < 32 then st.tword ⟨.w, s.slot⟩ r else st.tword ⟨.w, s.slot + 1⟩ (r - 32)

/-- Scales and dense positions of a structured set from its meta words, and the first kept element whose position breaks the
order (R162, R164). -/
def StatSet.placed (s : StatSet) (ws : List Line) : StatSet × Option Nat :=
  let (gs, kp, fw) := s.struct.group
  let bs := linesBytes ws
  let n := 32 * s.fmt.lanes
  let fields := (List.range (n * 32)).map fun i => streamField (bs.drop 256) fw i
  let bad := (List.range (n * 32)).find? fun i =>
    decide (i / 32 % kp ≠ 0) && decide (fields.getD i 0 ≤ fields.getD (i - 32) 0)
  ({ s with
    scales := (bs.take (2 * if s.fmt.scaled then n else 0)).map (·.toNat)
    pos := (List.range (n * 32)).map fun i => i / 32 / kp * gs + fields.getD i 0
    poisoned := s.poisoned || bad.isSome }, bad)

/-- Stationary element at reduction index `k` and column `n`: for a structured set, kept element `k` (R69, R161). -/
def StatSet.elem (s : StatSet) (k n : Nat) : Num :=
  let i := if s.nMajor then n * (32 * s.fmt.lanes) + k else k * 32 + n
  let raw := tileElem s.fmt s.tile i
  let c := if s.struct.structured then s.scales.getD (s.pos.getD i 0 / 32 * 32 + n) 0
    else if s.nMajor then s.scales.getD (n * s.fmt.lanes + k / 32) 0
    else s.scales.getD (k / 32 * 32 + n) 0
  s.fmt.decode raw c

/-- Dense position of lane `k` in column `n` (R161). -/
def StatSet.densePos (s : StatSet) (k n : Nat) : Nat := if s.struct.structured then s.pos.getD (k * 32 + n) 0 else k

/-! ### Shapes (R73 to R76, R165) -/

/-- Words of the moving run that one moving row takes. -/
def rowWords (sh : Shape) (structured : Bool) : Nat := if sh = .q4 || structured then 2 else 1

/-- Slots that one moving tile steps (R86). -/
def runStep (f : Fmt) : Nat := if f = .e2m1 then 2 else 1

/-- Tiles of the moving run (R86, R165). -/
def runTiles (sh : Shape) (structured : Bool) (m : Nat) : Nat := cdiv (rowWords sh structured * m) 32

/-- Slot of the tile that holds word `x` of the run. -/
def runSlot (f : Fmt) (aSrc x : Nat) : Nat := (aSrc + runStep f * (x / 32)) % 128

/-- Word `x` of the moving run. -/
def Stall.movWord (st : Stall) (f : Fmt) (aSrc x : Nat) : Line × Bool := st.tword ⟨.a, runSlot f aSrc x⟩ (x % 32)

/-- Scale byte of block `b` of word `x` of the moving run (R56, R57). -/
def Stall.movScale (st : Stall) (f : Fmt) (aSrc x b : Nat) : Nat :=
  let i := x % 32 * f.lanes + b
  bits (st.sidecar 1 (runSlot f aSrc x + i / 64)).toNat (8 * (i % 64) + 7) (8 * (i % 64))

/-- Word and element index of the moving element of row `m`, sub-array `s`, index `k` (R74, R75, R165). -/
def movAt (sh : Shape) (structured : Bool) (f : Fmt) (s m k : Nat) : Nat × Nat :=
  let n := 32 * f.lanes
  if structured then (2 * m + k / n, k % n)
  else match sh with
    | .h2 => (m, n / 2 * s + k)
    | .q4 => (2 * m + s % 2, n / 2 * (s / 2) + k)
    | _ => (m, k)

/-- The words of moving row `m` and the scale bytes of their blocks (R72, R75, R165); the words `un` are not read and bring no
poison (R170, R174). -/
def Stall.readRow (st : Stall) (p : PassCtx) (m : Nat) (un : List Nat) : MovRow :=
  let xs := (List.range (rowWords p.w.shape p.set.struct.structured)).map fun j =>
    rowWords p.w.shape p.set.struct.structured * m + j
  ⟨xs.zipIdx.map fun q =>
      let x := q.1
      let w := st.movWord p.fa p.w.aSrc x
      (w.1, (w.2 && !un.contains q.2) || (p.fa.scaled && st.sidePoison 1 (runSlot p.fa p.w.aSrc x + x % 32 * p.fa.lanes / 64))),
    if p.fa.scaled then xs.map fun x => (List.range p.fa.lanes).map fun b => st.movScale p.fa p.w.aSrc x b else []⟩

/-- Scale byte of a block of word `x` of a moving row. -/
def MovRow.scale (r : MovRow) (x b : Nat) : Nat := (r.scales.getD x []).getD b 0

/-- Decoded moving element at index `k` of sub-array `s` (R58, R69). -/
def MovRow.elem (r : MovRow) (p : PassCtx) (s k : Nat) : Num :=
  let (x, i) := movAt p.w.shape p.set.struct.structured p.fa s 0 k
  p.fa.decode (lineElem p.fa (r.words.getD x (0#512, false)).1 i) (r.scale x (i / 32))

/-! ### Lane results and contributions (R79, R83, R94) -/

/-- Absolute value of a decoded value. -/
def Num.abs : Num → Num
  | .inf _ => .inf false
  | .fin d => .fin { d with neg := false }
  | n => n

/-- IEEE ordered `a > w` on decoded values (R83). -/
def Num.gt : Num → Num → Bool
  | .inf x, .inf y => y && !x
  | .inf x, .fin _ => !x
  | .fin _, .inf y => y
  | .fin x, .fin y => y.lt x
  | _, _ => false

/-- A difference; one that rounds beyond the largest finite binary32 value has overflowed (R94, log entry 60). -/
def diffOf (a w : Num) : Num :=
  match a.add w.negate with
  | .fin d => if isInf (f32 d) then .inf d.neg else .fin d
  | x => x

/-- The lane result of R83 for modes 0 to 5. -/
def laneResult (mode : Nat) (a w : Num) : Num :=
  match mode with
  | 0 => a.mul w
  | 1 => (diffOf a w).abs
  | 2 => (diffOf a w).mul (diffOf a w)
  | 5 => .fin ⟨false, b2n (a.gt w), 0⟩
  | _ => a.add w

/-- A column's contribution: which specials its lanes hold and the exact sum of the finite ones (R79, R94). -/
structure Contr where
  nan : Bool
  pinf : Bool
  ninf : Bool
  sum : Ex
  deriving DecidableEq, Repr

/-- Add one lane's result. -/
def Contr.add (c : Contr) : Num → Contr
  | .nan _ => { c with nan := true }
  | .inf n => if n then { c with ninf := true } else { c with pinf := true }
  | .fin d => { c with sum := c.sum.add d.ex }

/-- The special code of a contribution (R94): 0 FINITE, 1 +INF, 2 -INF, 3 NAN. -/
def Contr.spec (c : Contr) : Nat :=
  if c.nan || (c.pinf && c.ninf) then 3 else if c.pinf then 1 else if c.ninf then 2 else 0

/-- Combine two special codes (R94). -/
def specCombine (a b : Nat) : Nat :=
  if a = 0 then b else if b = 0 then a else if a = b then a else 3

/-- Update a SUM entry by a contribution at window top `T` (R94, R95). -/
def FootEnt.accum (e : FootEnt) (c : Contr) (top : Option Int) : FootEnt :=
  let sp := specCombine e.spec.toNat c.spec
  let e := { e with spec := BitVec.ofNat 2 sp, used := true }
  if c.spec ≠ 0 then e
  else match top with
    | none => e
    | some t =>
      let v := e.s + c.sum.rneAt (t - 20)
      if v > 2 ^ 21 - 1 then { e with s := 2 ^ 21 - 1, sat := true }
      else if v < -(2 ^ 21 - 1) then { e with s := -(2 ^ 21 - 1), sat := true }
      else { e with s := v }

/-- A value rounded to the 22-bit format of R84. -/
def toE22 : Num → Nat
  | .nan _ => 0x1FF000
  | .inf n => b2n n * 2 ^ 21 + 0x1FE000
  | .fin d => roundIeee 8 13 d

/-- The value of a 22-bit entry (R84). -/
def ofE22 (x : Nat) : Num :=
  match unpackIeee 8 13 x with
  | some d => .fin d
  | none => if x % 2 ^ 13 = 0 then .inf (bit x 21) else .nan qnan

/-- Is the value a NaN? -/
def Num.isNan : Num → Bool | .nan _ => true | _ => false

/-- Minimum or maximum of two 22-bit entries (R84). -/
def e22Best (isMax : Bool) (a b : Nat) : Nat :=
  if (ofE22 a).isNan then a else if (ofE22 b).isNan then b
  else if isMax then (if numBelow (ofE22 a) (ofE22 b) then b else a)
  else (if numBelow (ofE22 b) (ofE22 a) then b else a)

/-- Update an EXTREME entry by a lane result. -/
def FootEnt.extreme (e : FootEnt) (isMax : Bool) (v : Nat) : FootEnt :=
  if e.used then { e with s := (e22Best isMax e.s.toNat v : Nat) } else { e with s := (v : Nat), used := true }

/-! ### Windows (R95 to R98) -/

/-- Larger of two present values. -/
def optMax : Option Int → Option Int → Option Int
  | none, b => b
  | a, none => a
  | some a, some b => some (max a b)

/-- `floor(log2 |w|)` of a finite non-zero element; a BF16 subnormal counts as -127 (R95), and a scaled one as it is (log
entry 60). -/
def expOf (f : Fmt) : Num → Option Int
  | .fin d => if d.man = 0 then none else if f = .bf16 && d.log2 < -126 then some (-127) else some d.log2
  | _ => none

/-- Smallest `n` with `x ≤ 2^n`. -/
def ceilLog2 (x : Nat) : Nat := if x ≤ 1 then 0 else Nat.log2 (x - 1) + 1

/-- K of a sub-array (R73, R165 counts dense positions). -/
def PassCtx.k (p : PassCtx) : Nat := p.w.shape.info.rows * p.fa.lanes

/-- Is the active set structured? -/
def PassCtx.str (p : PassCtx) : Bool := p.set.struct.structured

/-- Unmasked lanes of a column: kcount, or half of it for a structured set (R167). -/
def PassCtx.lanes (p : PassCtx) : Nat := if p.str then p.w.kcount / 2 else p.w.kcount

/-- First foot row of sub-array `s` (R77, R88). -/
def PassCtx.fb (p : PassCtx) (s : Nat) : Nat := p.first + p.w.fbBase.getD s 0

/-- First lane index of sub-array `s` in the active tile. -/
def PassCtx.lane0 (p : PassCtx) (s : Nat) : Nat := p.w.shape.half s * (p.k)

/-- E_w of sub-array `s` for foot column half `h` (R95). -/
def PassCtx.ew (p : PassCtx) (s h : Nat) : Option Int :=
  let c0 := p.w.shape.col0 s
  let P := p.fa.lanes
  let n := cdiv p.lanes P * P
  (List.range n).foldl (fun acc k => (List.range 16).foldl (fun acc c =>
    let col := 16 * h + c
    if c0 ≤ col && col < c0 + p.w.shape.info.cols then
      optMax acc (expOf p.set.fmt (p.set.elem (p.lane0 s + k) col))
    else acc) acc) none

/-- Word indices, within its own row, that sub-array `s` reads. -/
def PassCtx.words (p : PassCtx) (s : Nat) : List Nat :=
  if p.str then [0, 1] else [(movAt p.w.shape false p.fa s 0 0).1]

/-- Row `m` of a pass: as it entered the array, or as it stands in the store before that. -/
def Stall.rowAt (st : Stall) (r : PassRun) (m : Nat) : MovRow := (sget r.rows m).getD (st.readRow r.ctx m [])

/-- E_a of sub-array `s` over rows `m0` to `m1 - 1` (R95). Rows that have not entered yet are taken as the store holds them
(log entry 59). -/
def Stall.ea (st : Stall) (r : PassRun) (s m0 m1 : Nat) : Option Int :=
  let p := r.ctx
  let rows := (List.range (m1 - m0)).map fun i => st.rowAt r (m0 + i)
  match p.fa with
  | .int8 => some 7
  | .bf16 => rows.foldl (fun acc q => (p.words s).foldl (fun acc x =>
      let t := expTag (q.words.getD x (0#512, false)).1
      if t = 0xFF then acc else optMax acc (some ((t : Int) - 127))) acc) none
  | f =>
    (rows.foldl (fun acc q => (List.range (cdiv p.w.kcount 32)).foldl (fun acc b =>
      let (x, e) := movAt p.w.shape p.str f s 0 (32 * b)
      let c := q.scale x (e / 32)
      if c = 0xFF then acc else optMax acc (some ((c : Int) - 127))) acc) none).map (· + f.emax)

/-- The product bound B of a mode (R95). -/
def boundB (mode : Nat) (ea ew : Option Int) : Option Int :=
  match mode with
  | 0 => match ea, ew with | some a, some w => some (a + w + 2) | _, _ => none
  | 1 => (optMax ea ew).map (· + 2)
  | _ => (optMax ea ew).map (fun x => 2 * x + 4)

/-- The window top that a pass sets for half `h` of a group fed by rows `m0` to `m1 - 1` of sub-array `s`, and
whether it was clamped (R97). -/
def Stall.topOf (st : Stall) (r : PassRun) (s h m0 m1 : Nat) : Option (Int × Bool) :=
  let p := r.ctx
  let mode := p.w.mode.toNat
  if mode = 5 || (mode = 0 && p.fa = .int8) then some (20, false)
  else match boundB mode (st.ea r s m0 m1) (p.ew s h) with
    | none => none
    | some b =>
      let t := b + (ceilLog2 (p.l * (if p.str then 32 * p.fa.lanes else p.k)) : Int) + (p.head : Int)
      let c := max (-129) (min 127 t)
      some (c, decide (c ≠ t))

/-- A window nobody has set. -/
def Window.empty : Window := ⟨none, none, false, false, 0⟩

/-- A foot group at the start of an interval. -/
def FootGroup.empty : FootGroup := ⟨.empty, 0, 0⟩

/-- Insert an event after those that are no later. -/
def insertAt {α : Type} (f : α → Nat) (x : α) : List α → List α
  | [] => [x]
  | y :: r => if f x < f y then x :: y :: r else y :: insertAt f x r

/-- Events in order of time; those of one tick keep their order. -/
def inOrder {α : Type} (f : α → Nat) (l : List α) : List α := l.foldl (fun a x => insertAt f x a) []

/-- Top of a half. -/
def Window.top (w : Window) (h : Nat) : Option Int := if h = 0 then w.topL else w.topR

/-- Set a half if it is not set (R98). -/
def Window.set (w : Window) (h : Nat) : Option (Int × Bool) → Window
  | none => w
  | some (t, c) =>
    if h = 0 then (if w.topL.isSome then w else { w with topL := some t, clampL := c })
    else (if w.topR.isSome then w else { w with topR := some t, clampR := c })

/-- A group of the array. -/
def ArraySt.group (a : ArraySt) (g : Nat) : FootGroup := sgetD a.groups g .empty

/-- A group as the passes of a job find it: what another job left there is none of its (R87). -/
def ArraySt.groupOf (a : ArraySt) (g job : Nat) : FootGroup :=
  if (a.group g).job = job then a.group g else { FootGroup.empty with job := job }

/-- Set a group. -/
def ArraySt.setGroup (a : ArraySt) (g : Nat) (v : FootGroup) : ArraySt :=
  { a with groups := sput .empty a.groups g v }

/-- Key of a group of a pass's sub-array. -/
def passGroup (s m : Nat) : Nat := 8 * s + m / 32

/-- Foot row `r` as row `m` of sub-array `s` of a pass finds it: a cleared row, or one that another job wrote (R87, log entry
73), starts with every entry empty, in the interval that the pass opened (R77, R98). -/
def ArraySt.rowFor (a : ArraySt) (p : PassRun) (r s m : Nat) : FootRow :=
  let new : FootRow :=
    ⟨p.ctx.w.extreme, p.job, false, sgetD p.wins (passGroup s m) none, List.replicate 32 ⟨0, false, 0#2, false⟩⟩
  match sget a.foot r with
  | some row => if row.job = p.job then row else new
  | none => new

/-- The window that a foot row uses (R98). -/
def ArraySt.winOf (a : ArraySt) (r : Nat) (row : FootRow) : Window := row.win.getD (a.groupOf (r / 32) row.job).win

/-- The first row of group `g` is promoted by a pass of a job (R98): its window and counts are released to the job's rows that
still hold sums and to its passes that are still writing the group. -/
def ArraySt.release (a : ArraySt) (g job : Nat) : ArraySt :=
  let w := (a.groupOf g job).win
  let mark (o : Option Window) : Option Window := some (o.getD w)
  { a.setGroup g .empty with
    foot := a.foot.map fun q => if q.1 / 32 = g && q.2.job = job then (q.1, { q.2 with win := mark q.2.win }) else q
    runs := a.runs.map fun p => if p.job = job then { p with wins := p.wins.map fun q =>
      if (p.ctx.fb (q.1 / 8)) / 32 + q.1 % 8 = g then (q.1, mark q.2) else q } else p }

/-! ### A pass (R72, R78 to R81, R93 to R104, R170) -/

/-- The contribution of a moving row to column `n` of sub-array `s` (R79). -/
def MovRow.contr (q : MovRow) (p : PassCtx) (s n : Nat) : Contr :=
  let col := p.w.shape.col0 s + n
  (List.range p.lanes).foldl (fun c k =>
    let kk := p.lane0 s + k
    let d := if p.str then p.set.densePos kk col else k
    if p.str && decide (p.w.kcount ≤ d) then c
    else c.add (laneResult p.w.mode.toNat (q.elem p s d) (p.set.elem kk col)))
    ⟨false, false, false, ⟨0, 0⟩⟩

/-- The extreme lane result of a moving row in column `n` (R84). -/
def MovRow.extreme (q : MovRow) (p : PassCtx) (s n : Nat) (isMax : Bool) : Nat :=
  let col := p.w.shape.col0 s + n
  let lane (k : Nat) : Nat := toE22 (laneResult p.w.mode.toNat (q.elem p s k) (p.set.elem (p.lane0 s + k) col))
  (List.range (p.lanes - 1)).foldl (fun v k => e22Best isMax v (lane (k + 1))) (lane 0)

/-- Does a moving row bring a poisoned word to sub-array `s`? -/
def MovRow.poison (q : MovRow) (p : PassCtx) (s : Nat) : Bool := (p.words s).any fun x => (q.words.getD x (0#512, false)).2

/-- The foot write of row `m` of sub-array `s`; the count of entries whose sat bit went to 1 (R94). -/
def ArraySt.footWrite (a : ArraySt) (r : PassRun) (q : MovRow) (s m : Nat) : ArraySt × Nat :=
  let p := r.ctx
  let f := p.fb s + m
  let ext := p.w.extreme
  let row := a.rowFor r f s m
  let win := a.winOf f row
  let c0 := p.w.shape.col0 s
  let ents := (List.range 32).map fun c =>
    let e := row.ents.getD c ⟨0, false, 0#2, false⟩
    if c0 ≤ c && c < c0 + p.w.ncount then
      if ext then e.extreme (p.w.mode = 4#3) (q.extreme p s (c - c0) (p.w.mode = 4#3))
      else e.accum (q.contr p s (c - c0)) (win.top (c / 16))
    else e
  let news := (List.range 32).countP fun c =>
    (ents.getD c ⟨0, false, 0#2, false⟩).sat && !(row.ents.getD c ⟨0, false, 0#2, false⟩).sat
  ({ a with foot := sset a.foot f { row with
      poison := row.poison || q.poison p s || p.set.poisoned || r.stray, ents := ents } }, news)

/-- The FP32 value that an entry promotes as (R84, R102). -/
def FootEnt.promoted (e : FootEnt) (ext : Bool) (top : Option Int) : W32 :=
  if ext then
    match ofE22 e.s.toNat with
    | .nan _ => qnan
    | v => v.to32
  else match e.spec.toNat with
    | 0 => f32 ⟨decide (e.s < 0), e.s.natAbs, top.getD 0 - 20⟩
    | 1 => inf32 false
    | 2 => inf32 true
    | _ => qnan

/-- The largest finite FP32 value of a sign. -/
def maxFp32 (neg : Bool) : W32 := if neg then 0xFF7FFFFF#32 else 0x7F7FFFFF#32

/-- An FP32 addition that saturates on overflow of finite addends, with its SAT mark (R102). -/
def satAdd (a b : W32) : W32 × Bool :=
  let r := fadd a b
  if isInf r && !nonFinite a && !nonFinite b then (maxFp32 (r.getLsbD 31), true) else (r, false)

/-- One element's promotion (R78, R102): the new TP element, whether the FP32 sum overflowed. -/
def promoteElem (add ext isMax : Bool) (old v : W32) : W32 × Bool :=
  if !add then (v, false)
  else if ext then ((if isMax then fmax old v else fmin old v), false)
  else satAdd old v

/-- The destination tile of foot rows `32q` to `32q + 31` of a sub-array whose tp_base is `b`: TP slots by their number, TG
slots, for a gradient pass, by theirs plus 32; slots wrap within their store (R77, R279). -/
def promTile (b q : Nat) : Tile := ⟨if b % 64 < 32 then .p else .g, (b + q) % 32⟩

/-- What the promotion of one foot row brings to its tile's status word (R104): the tile, the flags, the products in the left
and the right columns; and the additions that overflowed and a poisoned word added to. -/
structure Promo where
  tile : Tile
  flags : Nat
  left : Nat
  right : Nat
  ovf : Nat
  hit : Bool
  deriving DecidableEq, Repr

/-- Row `m` of sub-array `s` is promoted into the TP row (R102) and its foot row cleared; the group's first row releases its
window (R98). -/
def Stall.promoteSub (st : Stall) (p : PassRun) (s m : Nat) : Stall × Promo :=
  let w := p.ctx.w
  let r := p.ctx.fb s + m
  let row0 := st.array.rowFor p r s m
  let a := if r % 32 = 0 then st.array.release (r / 32) p.job else st.array
  let win := st.array.winOf r row0
  let st := { st with array := { a with foot := sdel a.foot r } }
  let add := w.promote = 1#2
  let isMax := w.mode = 4#3
  let tp := promTile (w.tpBase.getD s 0) (m / 32)
  let c0 := w.shape.col0 s
  let w0 := st.tword tp (2 * (m % 32))
  let w1 := st.tword tp (2 * (m % 32) + 1)
  let old := lineF32 w0.1 ++ lineF32 w1.1
  let upd := (List.range 32).map fun c =>
    if c0 ≤ c && c < c0 + w.ncount then
      let e := row0.ents.getD c ⟨0, false, 0#2, false⟩
      let v := e.promoted row0.extreme (win.top (c / 16))
      let q := promoteElem add row0.extreme isMax (old.getD c 0#32) v
      (q.1, q.2, e.sat, isNaN v, isInf v)
    else (old.getD c 0#32, false, false, false, false)
  let lo := decide (c0 = 0)
  let hi := decide (16 < c0 + w.ncount)
  let full0 := c0 = 0 && decide (16 ≤ w.ncount)
  let full1 := decide (32 ≤ c0 + w.ncount) && decide (c0 ≤ 16)
  let base := tp.slot * 64 + 2 * (m % 32)
  let st := if lo then st.putWord tp.store.num base (f32Line ((upd.take 16).map (·.1)))
    (row0.poison || (w0.2 && (add || !full0))) else st
  let st := if hi then st.putWord tp.store.num (base + 1) (f32Line ((upd.drop 16).map (·.1)))
    (row0.poison || (w1.2 && (add || !full1))) else st
  let sat := upd.any fun u => u.2.1 || u.2.2.1
  let fl := b2n sat + 4 * b2n (upd.any (·.2.2.2.1)) + 8 * b2n (upd.any (·.2.2.2.2))
    + 16 * b2n (!row0.extreme && ((lo && win.clampL) || (hi && win.clampR)))
  let chain := if row0.extreme then 0 else win.chain
  (st, ⟨tp, fl, if lo then chain else 0, if hi then chain else 0, upd.countP (·.2.1), add && ((lo && w0.2) || (hi && w1.2))⟩)

/-- The status word of a tile after row `m` of it has been promoted by every sub-array that writes it (R104): SET clears the
flags at row 0, and the chain counts the products of the columns that took most. -/
def statAfter (old m : Nat) (add : Bool) (ps : List Promo) : Nat :=
  let base := if m % 32 = 0 && !add then 0 else old
  let chain := max (ps.map (·.left)).sum (ps.map (·.right)).sum
  let ch := if m % 32 = 0 then min ((if add then bits old 28 8 else 0) + chain) (2 ^ 21 - 1) else bits old 28 8
  (((ps.foldl (fun acc q => acc ||| q.flags) (bits base 4 0))) ||| (2 * b2n (bit base 1 || decide (ch > 2 ^ 20)))) + ch * 256

/-- The fault record of an event of R107 about a tile: the tile register, the due tick of the pass, and the status word. -/
def PassRun.tileFault (p : PassRun) (tp : Tile) (code stat : Nat) : FaultRec :=
  ⟨true, code, 0, p.job, tp.store.num, tp.slot, p.start, 0, p.pc, BitVec.ofNat 32 stat⟩

/-- The promotions of row `m` of a pass at tick `u` (R102 to R107): TP rows, status words, counters and events. sat_tile takes
the TG number of a TG slot (log entry 60). -/
def Stall.promoteRow (st : Stall) (sn u : Nat) (p : PassRun) (m : Nat) : Stall × List Eff :=
  let add := p.ctx.w.promote = 1#2
  let r := (List.range p.ctx.w.shape.info.subs).foldl (fun (acc : Stall × List Promo) s =>
    let x := acc.1.promoteSub p s m; (x.1, acc.2 ++ [x.2])) (st, [])
  let st := (r.1.bump 0x70 r.2.length).bump 0x80 (r.2.map (·.ovf)).sum
  let tiles := r.2.foldl (fun (l : List Tile) q => if l.contains q.tile then l else l ++ [q.tile]) []
  let out := tiles.foldl (fun (acc : Stall × List Eff) tp =>
    let st := acc.1
    let key := tileKey tp
    let old := (st.tstat key).toNat
    let base := if m % 32 = 0 && !add then 0 else old
    let new := statAfter old m add (r.2.filter fun q => q.tile = tp)
    let satUp := bit new 0 && !bit base 0
    let longUp := bit new 1 && !bit base 1
    let st := st.setTstat key (BitVec.ofNat 32 new)
    let st := if satUp then { st with satSeen := true, satTile := tp.slot } else st
    let st := if longUp then st.bump 0x90 1 else st
    let st := if satUp then st.record (p.tileFault tp 0x1101 new) else st
    let st := if longUp then st.record (p.tileFault tp 0x1102 new) else st
    let st := if m + 1 = p.ctx.w.m || m % 32 = 31 then { st with tshown := sput 0#32 st.tshown key (st.tstat key) } else st
    let aux := sn + 2 ^ 11 * p.job + 2 ^ 17 * (tp.slot + 32 * b2n (tp.store = .g)) + 2 ^ 23 * new
    (st, acc.2 ++ (if satUp then [.ev (st.ev sn u 0x1101 0 p.job aux)] else [])
      ++ (if longUp then [.ev (st.ev sn u 0x1102 0 p.job aux)] else []))) (st, [])
  if r.2.any (·.hit) then
    let h := out.1.poisonHit sn p.slot
    (h.1, out.2 ++ h.2)
  else out

/-! ### Skipping (R171 to R174) -/

/-- The union map bits of group `gm` of sub-array `s` (R172), from the maps that the writes of its words left (R171). -/
def Stall.unionMap (st : Stall) (p : PassCtx) (gm : Nat) (odd even : Bool) : Nat :=
  let tiles := if p.w.shape = .q4 || p.str then [2 * gm, 2 * gm + 1] else [gm]
  tiles.foldl (fun acc i => (List.range 32).foldl (fun acc w =>
    if (w % 2 = 0 && even) || (w % 2 = 1 && odd) then
      let x := st.stored 1 (runSlot p.fa p.w.aSrc (32 * i + w) * 32 + w)
      acc ||| subMap x.1 x.2
    else acc) acc) 0

/-- Lanes of sub-array `s` that face sub-block `b` in column `n`: dense position in the block and unmasked. -/
def PassCtx.facing (p : PassCtx) (s b n : Nat) : List Nat :=
  (List.range p.lanes).filter fun k =>
    let d := p.set.densePos (p.lane0 s + k) (p.w.shape.col0 s + n)
    let d := if p.str then d else k
    d / 8 = b && decide (d < p.w.kcount)

/-- Is sub-block `b` of group `gm` of sub-array `s` skipped (R173)? -/
def Stall.skipped (st : Stall) (p : PassCtx) (s gm b : Nat) : Bool :=
  let n := 32 * p.fa.lanes
  let dbl := p.str && decide (n ≤ 8 * b)
  let even := if p.w.shape = .q4 then s % 2 = 0 else if p.str then !dbl else true
  let odd := if p.w.shape = .q4 then s % 2 = 1 else if p.str then dbl else true
  let e0 := (movAt p.w.shape p.str p.fa s 0 (8 * b)).2
  let bb := 4 / p.fa.lanes
  let first := e0 * p.fa.regBits / 32
  let u := st.unionMap p gm odd even
  let zero := (List.range (max 1 bb)).all fun i => !bit u (first + i)
  let m1 := min p.w.m (32 * gm + 32)
  let scOk := !p.fa.scaled || (List.range (m1 - 32 * gm)).all fun i =>
    let (x, e) := movAt p.w.shape p.str p.fa s (32 * gm + i) (8 * b)
    st.movScale p.fa p.w.aSrc x (e / 32) != 0xFF
  let cols := (List.range p.w.ncount)
  let finite := cols.all fun c => (p.facing s b c).all fun k =>
    match p.set.elem (p.lane0 s + k) (p.w.shape.col0 s + c) with | .fin _ => true | _ => false
  let some := cols.any fun c => !(p.facing s b c).isEmpty
  zero && scOk && finite && some

/-- Is a value a zero of either sign? -/
def Num.isZero : Num → Bool | .fin d => d.man = 0 | _ => false

/-- Products of a moving row that zero detection gates, those of skipped sub-blocks left out (R81, R174). A lane of a zero and
an infinity or NaN counts as gated, and its result is the NaN of R94 (log entry 60). -/
def MovRow.zeroProducts (q : MovRow) (p : PassCtx) (m : Nat) (skips : List (Nat × Nat × Nat)) : Nat :=
  ((List.range p.w.shape.info.subs).map fun s => ((List.range p.w.ncount).map fun n => (List.range p.lanes).countP fun k =>
    let kk := p.lane0 s + k
    let col := p.w.shape.col0 s + n
    let d := if p.str then p.set.densePos kk col else k
    decide (d < p.w.kcount) && !skips.contains (s, m / 32, d / 8)
      && ((q.elem p s d).isZero || (p.set.elem kk col).isZero)).sum).sum

/-- Sub-blocks along K of a sub-array's moving row. -/
def PassCtx.blocks (p : PassCtx) : Nat := (if p.str then 64 * p.fa.lanes else p.k) / 8

/-- Rows of group `g` of a pass. -/
def PassCtx.rowsIn (p : PassCtx) (g : Nat) : Nat := min p.w.m (32 * g + 32) - 32 * g

/-- Products of the skipped sub-blocks of group `g` (R174). -/
def PassCtx.skippedProducts (p : PassCtx) (g : Nat) (skips : List (Nat × Nat × Nat)) : Nat :=
  ((skips.filter fun q => q.2.1 = g).map fun q =>
    p.rowsIn g * ((List.range p.w.ncount).map fun n => (p.facing q.1 q.2.2 n).length).sum).sum

/-- Words of each moving row of group `g` that are not read (R174): every unmasked sub-block of the word is skipped. -/
def PassCtx.unread (p : PassCtx) (g : Nat) (skips : List (Nat × Nat × Nat)) : List Nat :=
  let blocks : List (Nat × Nat) := (List.range p.w.shape.info.subs).flatMap fun s =>
    (List.range p.blocks).filterMap fun b =>
      if (List.range p.w.ncount).any fun n => !(p.facing s b n).isEmpty then some (s, b) else none
  (List.range (rowWords p.w.shape p.str)).filter fun x =>
    let mine := blocks.filter fun q => (movAt p.w.shape p.str p.fa q.1 0 (8 * q.2)).1 = x
    !mine.isEmpty && mine.all fun q => skips.contains (q.1, g, q.2)

/-- Key of word `j` of moving row `m`. -/
def PassCtx.wordKey (p : PassCtx) (m j : Nat) : Nat :=
  let x := rowWords p.w.shape p.str * m + j
  4096 + runSlot p.fa p.w.aSrc x * 32 + x % 32

/-! ### The checks of R89 -/

/-- The load in progress refuses another (R89): stamp of the record. -/
def Stall.loadBusy (st : Stall) (t : Nat) : Option Verdict :=
  match st.array.load with
  | some l => if t < l.start + l.len then some (.fault ⟨0x1301, 5, 0, l.start + l.len, 0⟩) else none
  | none => none

/-- First check of R89, on every MX word: the array, a load or an unswapped shadow of another job. -/
def Stall.arrayBusy (st : Stall) (job t : Nat) (loads : Bool) : Bool :=
  (match st.array.pass with | some p => p.job != job && decide (t < p.free) | none => false)
    || (match st.array.load with | some l => l.job != job && decide (t < l.start + l.len) | none => false)
    || (loads && match st.array.shadow with | some s => s.job != job | none => false)

/-- The sub-arrays' written rows, absolute (R77, R88). -/
def passRows (w : Mma) (first : Nat) : List Nat :=
  (List.range w.shape.info.subs).flatMap fun s => (List.range w.m).map fun m => first + w.fbBase.getD s 0 + m

/-- The field of a pass that is out of range (R73, R77, R78, R80, R83, R165), as ENG_FAULT_AUX numbers it (R90, log entry 61):
1 shape, 2 mode, 3 m, 4 kcount, 5 ncount, 6 promote, 7 fb_base; 0 for none. A reserved fmt_a bounds kcount by BF16's lanes,
and any other by its own (log entry 60). -/
def mmaField (w : Mma) (fa : Option Fmt) (set : Option StatSet) : Nat :=
  let P := (fa.getD .bf16).lanes
  let str := match set with | some s => s.struct.structured | none => false
  let gs := match set with | some s => s.struct.group.1 | none => 1
  let i := w.shape.info
  if w.shape = .reserved || (str && w.shape != .f) then 1
  else if decide (w.mode.toNat > 5) || (str && w.mode != 0#3) then 2
  else if w.m = 0 || decide (i.maxM < w.m) then 3
  else if w.kcount = 0 || (if str then decide (64 * P < w.kcount) || w.kcount % gs != 0 else decide (i.rows * P < w.kcount)) then 4
  else if w.ncount = 0 || decide (i.cols < w.ncount) then 5
  else if w.promote = 3#2 then 6
  else if (List.range i.subs).any (fun s => w.fbBase.getD s 0 % 32 != 0) then 7
  else 0

/-- A field of the pass out of range. -/
def mmaInvalid (w : Mma) (fa : Option Fmt) (set : Option StatSet) : Bool := mmaField w fa set != 0

/-- The rows of a job's pass under way that lie at foot row `r`: row of the pass, tick of its foot write. -/
def PassRun.rowsAt (p : PassRun) (r : Nat) : List (Nat × Nat) :=
  (List.range p.ctx.w.shape.info.subs).filterMap fun s =>
    let b := p.ctx.fb s
    if b ≤ r && decide (r < b + p.ctx.w.m) then some (r - b, p.start + (r - b) + p.ctx.w.shape.info.foot) else none

/-- Ticks at which passes of a job under way promote foot row `r` (R101). -/
def ArraySt.promotesAt (a : ArraySt) (job r : Nat) : List Nat :=
  (a.runs.filter fun p => p.job = job && p.ctx.w.promote != 0#2).flatMap fun p => (p.rowsAt r).map (·.2 + 8)

/-- Class of the sums of a job in foot row `r` now (R77, R87). -/
def ArraySt.classNow (a : ArraySt) (job r : Nat) : Option Bool :=
  match sget a.foot r with
  | some fr => if fr.job = job then some fr.extreme else none
  | none => none

/-- Class of the sums that foot row `r` will hold at tick `u`, once the passes of the job under way have written and promoted it
up to then (R89, log entry 59). -/
def ArraySt.classAt (a : ArraySt) (job r u : Nat) : Option Bool :=
  let mine := a.runs.filter fun p => p.job = job
  let clr := ((a.promotesAt job r).filter fun x => decide (x ≤ u)).foldl max 0
  let ws := mine.flatMap fun p => (p.rowsAt r).filterMap fun q =>
    if clr < q.2 && decide (q.2 ≤ u) then some (q.2, p.ctx.w.extreme) else none
  if clr = 0 && (a.classNow job r).isSome then a.classNow job r else (argmin (·.1) ws).map (·.2)

/-- What the passes of a job under way have still to do to the pass count of group `g` (R98, R100): tick, whether it releases
the count, and whether the pass that writes promotes. -/
def ArraySt.groupEvents (a : ArraySt) (job g : Nat) : List (Nat × Bool × Bool) :=
  (a.runs.filter fun p => p.job = job).flatMap fun p => (p.rowsAt (32 * g)).flatMap fun q =>
    let pr := p.ctx.w.promote != 0#2
    (if p.upto ≤ q.2 && !p.ctx.w.extreme then [(q.2, false, pr)] else [])
      ++ (if pr && decide (p.upto ≤ q.2 + 8) then [(q.2 + 8, true, pr)] else [])

/-- The pass count of group `g` before the foot write at tick `u` of a pass that promotes nothing, and whether that pass, or one
under way that writes after it and promotes nothing, brings the count to `l` (R100). -/
def ArraySt.countAt (a : ArraySt) (job g u l : Nat) : Nat × Bool :=
  let ev := inOrder (·.1) (a.groupEvents job g)
  let n := (ev.filter fun e => decide (e.1 ≤ u)).foldl (fun n e => if e.2.1 then 0 else n + 1) (a.groupOf g job).passes
  let after := (ev.filter fun e => decide (u < e.1)).takeWhile fun e => !e.2.1
  (n, decide (l ≤ n + 1) || after.zipIdx.any fun e => !e.1.2.2 && decide (l ≤ n + e.2 + 2))

/-- Fields of an MX word as SHAPE_INVALID names them in ENG_FAULT_AUX (R90, log entry 61). -/
def loadField (l : Load) : Nat :=
  if (match Fmt.ofCode l.fmt with | some .fp32 => true | none => true | _ => false) then 9
  else if l.orient = .reserved then 10 else 11

/-- The checks of R89 on a pass, after the busy check. What R67 and R90 leave to the layout of ENG_FAULT_AUX is the model's choice
(DESIGN CHOICE, log entry 72): FORMAT_PAIR gives fmt_a in 3:0 and the set's format in 7:4, SCALE_SLOT the code of the tile that
it names, and ARRAY_OWNER the tag found, 0 where the set is empty. -/
def Stall.passChecks (st : Stall) (job t : Nat) (w : Mma) : Option Verdict :=
  let set := if w.swap then st.array.shadow else st.array.active
  let fa := Fmt.ofCode w.fmtA
  let info := w.shape.info
  let oddA := w.fmtA = 6#4 && w.aSrc % 2 = 1
  let fault (f : Flt) : Option Verdict := some (.fault f)
  let al := st.footOf job
  let first := match al with | some a => 32 * a.first | none => 0
  let last := match al with | some a => 32 * a.last + 31 | none => 0
  let rows := passRows w first
  let count (g m : Nat) : Nat × Bool := st.array.countAt job g (t + m + info.foot) (st.footAcc job).1
  let counts := (rows.zipIdx.filter fun q => q.1 % 32 = 0).map fun q => (q.1 / 32, count (q.1 / 32) (q.2 % w.m))
  let late := counts.find? fun q => q.2.2
  let early := rows.zipIdx.flatMap fun q =>
    (st.array.promotesAt job q.1).filter fun u => decide (t + q.2 % w.m + info.foot ≤ u)
  let other (c : Option Bool) : Bool := match c with | some x => x != w.extreme | none => false
  let bad (r m : Nat) : Bool := al.isNone || decide (last < r) || other (st.array.classNow job r)
    || other (st.array.classAt job r (t + m + info.foot))
  let conflict := (rows.zipIdx.find? fun q => bad q.1 (q.2 % w.m) || (rows.take q.2).contains q.1).map (·.1)
  if al.isSome && rows.any (fun r => (sget st.array.clearing r).isSome) then some (.slip [0xE0])
  else if mmaInvalid w fa set then fault (flt 0x1503 (mmaField w fa set))
  else if (match w.nextW with | some l => l.invalid | none => false) then fault (flt 0x1503 ((w.nextW.map loadField).getD 0))
  else if oddA then fault ⟨0x1401, 1, w.aSrc % 128, 0, w.fmtA.toNat⟩
  else if (match w.nextW with | some l => l.oddSlot | none => false) then
    fault ⟨0x1401, 0, (w.nextW.map (·.slot)).getD 0 % 128, 0, 6⟩
  else if conflict.isSome then fault ⟨0x1501, 6, 0, 0, conflict.getD 0⟩
  else if !w.extreme && w.promote = 0#2 && late.isSome then
    fault ⟨0x1103, 6, 0, 0, (late.map fun q => q.1 + 8 * q.2.1).getD 0⟩
  else if !early.isEmpty then fault ⟨0x1301, 6, 0, early.foldl max 0, 0⟩
  else
    let arr : Option Nat := match st.array.pass with
      | some p => if p.job != job then none
        else if t < p.start + p.m then some (p.start + p.m)
        else if w.swap && decide (t < p.free) then some p.free else none
      | none => none
    match arr with
    | some u => fault ⟨0x1301, 4, 0, u, 0⟩
    | none =>
      let sh : Option Nat := match st.array.shadow with
        | some s => if w.swap && decide (t < s.stamp) then some s.stamp else none
        | none => none
      match sh with
      | some u => fault ⟨0x1301, 5, 0, u, 0⟩
      | none => match set with
        | none => fault ⟨0x1502, if w.swap then 5 else 4, 0, 0, 0⟩
        | some s =>
          if s.job != job then fault ⟨0x1502, if w.swap then 5 else 4, 0, 0, s.job⟩
          else match fa with
            | none => fault ⟨0x1402, 1, w.aSrc % 128, 0, w.fmtA.toNat + 16 * s.fmt.code⟩
            | some f =>
              if f = .fp32 || f.pairClass != s.fmt.pairClass || (f = .e2m1 && w.mode != 0#3) then
                fault ⟨0x1402, 1, w.aSrc % 128, 0, w.fmtA.toNat + 16 * s.fmt.code⟩
              else if w.nextW.isSome then st.loadBusy t
              else none

/-! ### Issue of MX words -/

/-- Start a load at tick `t` (R70, R164): the shadow set is emptied for it. -/
def Stall.load (st : Stall) (k t : Nat) (l : Load) : Stall :=
  let job := (st.jobSlot k).job
  { st with array := { st.array with
      shadow := some (st.newSet job t ((Fmt.ofCode l.fmt).getD .bf16) l)
      load := some ⟨t, l.struct.ticks, job, (st.subq k .mx).lastPc, 0, []⟩ } }

/-- A malformed structured operand (R164, R166, R175): kept element `i` of the W slot. -/
def Stall.sparseMeta (st : Stall) (sn u job pc slot i : Nat) : Stall × List Eff :=
  (st.record ⟨true, 0x1201, 0, job, 0, slot, u, 0, pc, BitVec.ofNat 32 i⟩, [.ev (st.ev sn u 0x1201 0 job i)])

/-- Tick `u` of the load in progress (R70, R164): word `u - start` is read; a structured one checks its positions a tick after
its last word. -/
def Stall.loadTick (st : Stall) (sn u : Nat) : Stall × List Eff :=
  match st.array.load, st.array.shadow with
  | some l, some s =>
    if u ≠ l.start + l.done || s.stamp ≠ l.start + l.len || l.len + b2n s.struct.structured ≤ l.done then (st, [])
    else if l.done = l.len then
      let r := s.placed l.meta_
      let st := { st with array := { st.array with shadow := some r.1, load := some { l with done := l.done + 1 } } }
      match r.2 with
      | some i => st.sparseMeta sn u l.job l.pc s.slot i
      | none => (st, [])
    else
      let x := st.loadWord s l.done
      let s := { s with
        poisoned := s.poisoned || x.2, tile := if l.done < 32 then s.tile ++ [x.1] else s.tile }
      ({ st with array := { st.array with
          shadow := some s
          load := some { l with done := l.done + 1, meta_ := if l.done < 32 then [] else l.meta_ ++ [x.1] } } }, [])
  | _, _ => (st, [])

/-- The port reads of a load issued at `t` (R70, R164, R177): its words, and at its issue the sidecar entries of a dense scaled
tile (log entry 59). -/
def loadReads (k pc t : Nat) (l : Load) : List Access :=
  let f := (Fmt.ofCode l.fmt).getD .bf16
  (List.range l.struct.ticks).map (fun r =>
    let a := (l.slot + r / 32) % 128 * 32 + r % 32
    (⟨t + r, 128 + bankOf 0 a, true, a, k, .mx, pc, t⟩ : Access))
    ++ (if f.scaled && !l.struct.structured then sidesOf k .mx pc t
        ((List.range (runStep f)).map fun i => (0, false, 0, (l.slot + i) % 128)) else [])

/-- An LDW word (R70, R86, R89). -/
def ldwSpec (st : Stall) (sn k t : Nat) (w : CWord) (l : Load) : Spec where
  ownerBad := false
  regs := l.regs
  stampOf := []
  pre :=
    if st.arrayBusy (st.jobSlot k).job t true then some (.slip [0xE0])
    else if l.invalid then some (.fault (flt 0x1503 (loadField l)))
    else if l.oddSlot then some (.fault ⟨0x1401, 0, l.slot % 128, 0, 6⟩)
    else st.loadBusy t
  late := none
  d := 0
  run := fun st =>
    let st := (st.load k t l).claim (loadReads k ((st.subq k .mx).lastPc) t l)
    let r := st.loadTick sn t
    (r.1.fly k .mx (t + l.struct.ticks) w, r.2)

/-- A pass of the SUM class begins to write the groups of rows `m` to `m + 31` (R97, R98, R100, R104): windows, pass counts
and chain counts; the answer counts the windows clamped. A half whose every column is masked is written too (log entry 60). -/
def Stall.openWindows (st : Stall) (r : PassRun) (m : Nat) : ArraySt × Nat :=
  let p := r.ctx
  if p.w.extreme then (st.array, 0)
  else
    (List.range p.w.shape.info.subs).foldl (fun (acc : ArraySt × Nat) s =>
      let m1 := min p.w.m (m + 32)
      let g := (p.fb s + m) / 32
      let grp := acc.1.groupOf g r.job
      let c0 := p.w.shape.col0 s
      let inHalf (h : Nat) : Bool := decide (c0 < 16 * h + 16) && decide (16 * h < c0 + p.w.shape.info.cols)
      let w1 := if inHalf 0 then grp.win.set 0 (st.topOf r s 0 m m1) else grp.win
      let w2 := if inHalf 1 then w1.set 1 (st.topOf r s 1 m m1) else w1
      let clamps := b2n (w2.clampL && !grp.win.clampL) + b2n (w2.clampR && !grp.win.clampR)
      let chain := min (grp.win.chain + p.lanes) (2 ^ 21 - 1)
      (acc.1.setGroup g { grp with win := { w2 with chain := chain }, passes := grp.passes + 1 }, acc.2 + clamps))
      (st.array, 0)

/-- First kept element outside kcount that is not zero (R166). -/
def PassCtx.strayKept (p : PassCtx) : Option Nat :=
  if !p.str then none
  else (List.range (32 * p.fa.lanes * 32)).find? fun i =>
    decide (p.w.kcount ≤ p.set.pos.getD i 0) && !(p.set.elem (i / 32) (i % 32)).isZero

/-- The counters that a pass raises at its issue (R81, R91, R169). -/
def Stall.passCounters (st : Stall) (p : PassCtx) (t free : Nat) : Stall :=
  let i := p.w.shape.info
  let tot := if p.str then 32 * p.fa.lanes * 32 else i.rows * p.fa.lanes * i.cols
  let useful := p.lanes * p.w.ncount
  let prev := match st.array.pass with | some q => q.free | none => 0
  let st := ((((st.bump 0x40 1).bump 0x48 (b2n p.w.swap)).bump 0x50 (max free prev - max t prev)).bump 0x58
    (i.subs * p.w.m * useful)).bump 0x60 (i.subs * p.w.m * (tot - useful))
  if p.str then (st.bump 0x700 1).bump 0x708 (p.w.m * useful) else st

/-! ### The ticks of a pass (R72, R73, R98, R173) -/

/-- Replace a pass under way. -/
def Stall.setRun (st : Stall) (i : Nat) (r : PassRun) : Stall :=
  { st with array := { st.array with runs := lset st.array.runs i r } }

/-- Words of a pass that it does not read hold no port and meet no error (R174), as (tick, key). -/
def Stall.freeReads (st : Stall) (r : PassRun) (l : List (Nat × Nat)) : Stall :=
  if l.isEmpty then st
  else { st with
    claims := st.claims.filter fun c =>
      !(c.eng = .mx && c.slot = r.slot && c.pc = r.pc && c.issue = r.start && l.contains (c.tick, c.key))
    agenda := st.agenda.filter fun q => match q.2 with
      | .readErr key => !l.contains (q.1, key)
      | _ => true }

/-- Before row `m` enters: the group that it opens is sampled for skips (R173, R174). -/
def Stall.sampleTick (st : Stall) (i m : Nat) (r : PassRun) : Stall :=
  let p := r.ctx
  if m % 32 ≠ 0 || p.w.mode ≠ 0#3 || !bit (st.reg 0x108) 0 then st
  else
    let g := m / 32
    let skips := (List.range p.w.shape.info.subs).flatMap fun s =>
      (List.range p.blocks).filterMap fun b => if st.skipped p s g b then some (s, g, b) else none
    let un := p.unread g skips
    let st := ((st.setRun i { r with skips := r.skips ++ skips }).bump 0x710 (p.skippedProducts g skips)).bump 0x718
      (p.rowsIn g * un.length)
    st.freeReads r ((List.range (p.rowsIn g)).flatMap fun q => un.map fun j => (r.start + m + q, p.wordKey (m + q) j))

/-- Row `m` enters the array (R72): its words are read, its gated products counted (R81), and a poisoned word is met (R170). -/
def Stall.enterTick (st : Stall) (sn i m : Nat) (r : PassRun) : Stall × List Eff :=
  let p := r.ctx
  let q := st.readRow p m (p.unread (m / 32) (r.skips.filter fun x => x.2.1 = m / 32))
  let zeros := if p.w.mode = 0#3 && bit (st.reg 0x104) 0 then q.zeroProducts p m r.skips else 0
  let useful := p.w.shape.info.subs * p.lanes * p.w.ncount
  let gated := zeros + p.skippedProducts (m / 32) r.skips / p.rowsIn (m / 32)
  let st := (((st.setRun i { r with rows := sset r.rows m q }).bump 0x68 zeros).spend r.job p.fa.code (useful - gated)).spend
    r.job workKind.gated gated
  if (List.range p.w.shape.info.subs).any fun s => q.poison p s then st.poisonHit sn r.slot else (st, [])

/-- The foot write of row `m` (R72, R94): the windows of a group open with its first row. -/
def Stall.footTick (st : Stall) (i m : Nat) (r : PassRun) : Stall :=
  let subs := r.ctx.w.shape.info.subs
  let ow := if m % 32 = 0 then st.openWindows r m else (st.array, 0)
  let q := st.rowAt r m
  let fw := (List.range subs).foldl (fun (acc : ArraySt × Nat) s =>
    let x := acc.1.footWrite r q s m; (x.1, acc.2 + x.2)) ow
  let r := { r with
    rows := sdel r.rows m
    wins := if m % 32 = 0 then (List.range subs).foldl (fun l s => sset l (passGroup s m) none) r.wins else r.wins }
  ({ st with array := fw.1 }.setRun i r).bump 0x88 ow.2 |>.bump 0x78 (fw.2 - ow.2)

/-- Ticks of a pass from its due tick to the last write of it. -/
def PassRun.span (r : PassRun) : Nat := r.ctx.w.m + r.ctx.w.shape.info.foot + if r.ctx.w.promote = 0#2 then 0 else 8

/-- Tick `u` of the `i`-th pass under way: a row enters, a row reaches the foot, a row is promoted. -/
def Stall.passTick (st : Stall) (sn u i : Nat) : Stall × List Eff :=
  match st.array.runs[i]? with
  | none => (st, [])
  | some r =>
    if r.upto ≠ u then (st, [])
    else
      let m := r.ctx.w.m
      let foot := r.ctx.w.shape.info.foot
      let d := u - r.start
      let cur (st : Stall) : PassRun := (st.array.runs[i]?).getD r
      let st := st.setRun i { r with upto := u + 1 }
      let a : Stall × List Eff := if d < m then
          let st := st.sampleTick i d (cur st)
          st.enterTick sn i d (cur st)
        else (st, [])
      let st := a.1
      let st := if foot ≤ d && d < foot + m then st.footTick i (d - foot) (cur st) else st
      if r.ctx.w.promote ≠ 0#2 && foot + 8 ≤ d && d < foot + 8 + m then
        let b := st.promoteRow sn u (cur st) (d - foot - 8)
        (b.1, a.2 ++ b.2)
      else (st, a.2)

/-- The rows handed over whose turn comes by tick `u` are cleared, and with the first row of a group its window and counts (R88,
R92). -/
def ArraySt.clearRows (a : ArraySt) (u : Nat) : ArraySt :=
  let now (r : Nat) : Bool := match sget a.clearing r with | some x => decide (x ≤ u) | none => false
  { a with
    foot := a.foot.filter fun q => !now q.1, groups := a.groups.filter fun q => !now (32 * q.1)
    clearing := a.clearing.filter fun q => !decide (q.2 ≤ u) }

/-- Tick `u` of the array: the load, then the passes in issue order, and the clearing of a row handed over; passes that have written
their last row leave. -/
def Stall.arrayTick (st : Stall) (sn u : Nat) : Stall × List Eff :=
  let r := (List.range st.array.runs.length).foldl (fun (acc : Stall × List Eff) i =>
    let x := acc.1.passTick sn u i; (x.1, acc.2 ++ x.2)) (st.loadTick sn u)
  ({ r.1 with array := { r.1.array with runs := r.1.array.runs.filter fun p => decide (p.upto < p.start + p.span) }.clearRows u },
    r.2)

/-- The next tick at which the array does something, if it has anything under way. -/
def ArraySt.next (a : ArraySt) : Option Nat :=
  let l := match a.load, a.shadow with
    | some l, some s => if l.done < l.len + b2n s.struct.structured && s.stamp = l.start + l.len then [l.start + l.done] else []
    | _, _ => []
  argmin id (l ++ a.runs.map (·.upto) ++ a.clearing.map (·.2))

/-- Ticks that the array has still to run. -/
def ArraySt.left (a : ArraySt) : Nat :=
  (match a.load with | some l => l.len + 1 - l.done | none => 0) + (a.runs.map fun p => p.start + p.span - p.upto).sum + a.clearing.length

/-- Stamps of the tiles that a pass promotes into (R72, R121, R279). -/
def Stall.passStamps (st : Stall) (t : Nat) (w : Mma) : Stall :=
  let i := w.shape.info
  if w.promote = 0#2 then st
  else (List.range i.subs).foldl (fun st s => (List.range (cdiv w.m 32)).foldl (fun (st : Stall) q =>
    st.setStamp (tileKey (promTile (w.tpBase.getD s 0) q)) (t + (min w.m (32 * q + 32) - 1) + i.foot + 8)) st) st

/-- The port accesses of a pass due at `t` (R72, R75, R78, R177). -/
def passAccesses (p : PassCtx) (k pc t : Nat) : List Access :=
  let w := p.w
  let n := rowWords w.shape p.str
  let reads := (List.range w.m).flatMap fun m => (List.range n).map fun j =>
    let a := p.wordKey m j
    (⟨t + m, 128 + bankOf 1 (a % 4096), true, a, k, .mx, pc, t⟩ : Access)
  let sides := if !p.fa.scaled then [] else (List.range w.m).flatMap fun m => sidesOf k .mx pc t ((List.range n).map fun j =>
    let x := n * m + j
    (m, false, 1, (runSlot p.fa w.aSrc x + x % 32 * p.fa.lanes / 64) % 128))
  let proms := if w.promote = 0#2 then [] else (List.range w.m).flatMap fun m => (List.range w.shape.info.subs).flatMap fun s =>
    let tp := promTile (w.tpBase.getD s 0) (m / 32)
    let c0 := w.shape.col0 s
    let halves := (if c0 = 0 then [0] else []) ++ (if 16 < c0 + w.ncount then [1] else [])
    halves.flatMap fun h =>
      let a := tp.slot * 64 + 2 * (m % 32) + h
      let b := bankOf tp.store.num a
      let key := tp.store.num * 4096 + a
      let u := t + m + w.shape.info.foot + 8
      ⟨u, b, false, key, k, .mx, pc, t⟩ :: (if w.promote = 1#2 then [⟨u, 128 + b, true, key, k, .mx, pc, t⟩] else [])
  reads ++ sides ++ proms

/-- A pass at its issue (R71, R72, R124): swap, load, the pass under way, stamps, counters, port accesses and poison; its first
tick runs at once. -/
def Stall.pass (st : Stall) (sn k t : Nat) (w : Mma) (cw : CWord) (f : Fmt) (set : StatSet) : Stall × List Eff :=
  let job := (st.jobSlot k).job
  let al := (st.footOf job).getD ⟨0, 0, 0, 0⟩
  let acc := st.footAcc job
  let p : PassCtx := ⟨set, f, w, 32 * al.first, acc.1, acc.2⟩
  let i := w.shape.info
  let pc := (st.subq k .mx).lastPc
  let prev := match st.array.pass with | some q => q.free | none => 0
  let st := st.passCounters p t (t + w.m + i.fill)
  let st := if w.swap then { st with array := { st.array with active := some set, shadow := none } } else st
  let stray := p.strayKept
  let st := { st with array := { st.array with
    pass := some ⟨t, w.m, max (t + w.m + i.fill) prev, job⟩
    runs := st.array.runs ++ [⟨p, t, job, k, pc, stray.isSome, t, [], [], []⟩] } }
  let st := match w.nextW with | some l => st.load k t l | none => st
  let sm : Stall × List Eff := match stray with
    | some x => st.sparseMeta sn t job pc set.slot x
    | none => (st, [])
  let hit := if set.poisoned || stray.isSome then sm.1.poisonHit sn k else (sm.1, [])
  let st := (hit.1.claim (passAccesses p k pc t ++ (match w.nextW with | some l => loadReads k pc t l | none => []))).passStamps t w
  let b := st.arrayTick sn t
  (b.1.fly k .mx (t + w.m - 1 + i.foot + (if w.promote = 0#2 then 0 else 8)) cw, sm.2 ++ hit.2 ++ b.2)

/-- An MMA word (R86, R89). -/
def mmaSpec (st : Stall) (sn k t : Nat) (cw : CWord) (w : Mma) : Spec :=
  let job := (st.jobSlot k).job
  let set := if w.swap then st.array.shadow else st.array.active
  let str := match set with | some s => s.struct.structured | none => false
  let fa := (Fmt.ofCode w.fmtA).getD .bf16
  let mov := (List.range (runTiles w.shape str w.m)).map fun i =>
    ((⟨.a, (w.aSrc + runStep fa * i) % 128⟩, true) : Tile × Bool)
  let tps := if w.promote = 0#2 then []
    else (List.range w.shape.info.subs).flatMap fun s => (List.range (cdiv w.m 32)).map fun q =>
      ((promTile (w.tpBase.getD s 0) q, w.promote = 1#2) : Tile × Bool)
  { ownerBad := false
    regs := (match w.nextW with | some l => l.regs | none => []) ++ mov ++ tps
    stampOf := []
    pre := if st.arrayBusy job t w.nextW.isSome then some (.slip [0xE0]) else st.passChecks job t w
    late := none
    d := 0
    run := fun st => match set with
      | some s => st.pass sn k t w cw fa s
      | none => (st, []) }

/-- The word sequence of WAITW and STEP_END, and R89's first check when they stand on MX. -/
def plainSpec (st : Stall) (k : Nat) (e : Eng) (t : Nat) (w : CWord) : Spec where
  ownerBad := false
  regs := []
  stampOf := []
  pre := if e = .mx && st.arrayBusy (st.jobSlot k).job t false then some (.slip [0xE0]) else none
  late := none
  d := 1
  run := fun st =>
    let q := st.subq k e
    let st := if w.op = .stepEnd then st.setSubq k e { q with ended := true } else st
    (st.fly k e t w, [])

end Sys2Proof.Machine
end

