-- ==== Sys2Proof/Machine/Route.lean ====
section
/-! DEFINITION. Paths of messages inside the package (R18, R19, R203 to R206), the channels of its bridges (R225, R229) and
the flits of messages (R207). Joins 0 to 11 are the
hub bridges of C00 to C11, 12 to 20 the die bridges below C00, C01, C02, C04, C05, C06, C08, C09 and C10. Output and
requester ports of a mesh router are numbered as R229 numbers requesters, a control channel's output 64 above. -/
namespace Sys2Proof.Machine

/-! ### The chain of dies (R18, R19) -/

/-- Compute die at the upper end of a join: the die of a hub bridge, the northern die of a die bridge. -/
def joinDie (j : Nat) : Nat := if j < 12 then j else (j - 12) / 3 * 4 + (j - 12) % 3

/-- Join below compute die `i` on the chain: one die bridge, or the two hub bridges of a turn. -/
def chainJoin (i : Nat) : List Nat :=
  if i = 3 || i = 7 then [i, i + 1] else if i < 3 then [12 + i] else if i < 7 then [11 + i] else [10 + i]

/-- Joins on the chain from one compute die to another. -/
def chainPath (a b : Nat) : List Nat :=
  ((List.range (max a b)).filter fun i => decide (min a b ≤ i)).flatMap chainJoin

/-! ### Routers and ports (R203, R204, R229) -/

/-- The router of a row and slot of a die: the number of its stall. -/
def routerAt (die row slot : Nat) : Nat := 128 * die + 16 * row + slot

/-- Slot of the routers that a die's hub bridge attaches to: the hub lies to the west where its number is the column's (R17,
R204). -/
def edgeSlot (die : Nat) : Nat := if die / 3 = die / 4 then 0 else 15

/-- Port of router `a` that faces router `b` of its row or slot column; its own stall's port is 0. -/
def portToward (a b : Nat) : Nat := if a = b then 0 else if a / 16 = b / 16 then 1 + b % 16 else 17 + b % 128 / 16

/-- A route under way: the router reached, the port by which it was entered, and what has been passed. -/
structure Walk where
  at_ : Nat
  port : Nat
  route : Route
  deriving DecidableEq, Repr

/-- Outputs granted in order. -/
def Walk.grant (w : Walk) (l : List (Nat × Nat × Nat)) : Walk := { w with route := { w.route with grants := w.route.grants ++ l } }

/-- A mesh hop to a router of the same row or slot column; none where the walk is there. -/
def Walk.hop (w : Walk) (vc b : Nat) : Walk :=
  if w.at_ = b then w
  else { w.grant [(w.at_, portToward w.at_ b + vc, w.port)] with at_ := b, port := portToward b w.at_ }

/-- The same with the hops that R204 counts. -/
def Walk.hops (w : Walk) (n : Nat) : Walk := { w with route := { w.route with hops := w.route.hops + n } }

/-- Row first, then column, on the die reached (R203). -/
def Walk.within (w : Walk) (vc b : Nat) : Walk :=
  let turn := w.at_ / 16 * 16 + b % 16
  ((w.hop vc turn).hop vc b).hops (b2n (w.at_ != turn) + b2n (turn != b))

/-- From the die reached to the next on the chain, downwards where `up` is false: `ch` is the channel, `ds` the slot of the
destination stall, `cls` the job's class, `first` whether this is the source die (R204). -/
def Walk.cross (w : Walk) (vc ch ds cls : Nat) (up first : Bool) : Walk :=
  let c := w.at_ / 128
  let n := if up then c + 1 else c - 1
  let s := 2 * ch + ds % 2
  if (chainJoin (min c n)).length = 2 then
    let exit := routerAt c ch (edgeSlot c)
    let w := if first then (w.hop vc exit).hops (b2n (w.at_ != exit))
      else ((w.hop vc (routerAt c ch (w.at_ % 16))).hop vc exit).hops 2
    let w := w.grant [(exit, 26 + vc, w.port), (1560 + 2 * c, ch, cls), (1560 + 2 * n + 1, ch, cls)]
    ⟨routerAt n ch (edgeSlot n), 26, { w.route with hubs := w.route.hubs + 1 }⟩
  else
    let row := if up then 7 else 0
    let exit := if first then routerAt c row (w.at_ % 16) else routerAt c row s
    let w := if first then (w.hop vc exit).hops (b2n (w.at_ != exit))
      else if w.port = 26 then ((w.hop vc (routerAt c ch s)).hop vc exit).hops 2
      else (w.hop vc exit).hops 1
    let w := w.grant [(exit, 25 + vc, w.port), (1536 + 2 * c + b2n (!up), ch, cls)]
    ⟨routerAt n (7 - row) s, 25, { w.route with dies := w.route.dies + 1 }⟩

/-- From die to die until the destination's. -/
def Walk.along (w : Walk) (vc ch dst cls : Nat) (first : Bool) : Nat → Walk
  | 0 => w
  | fuel + 1 =>
    if w.at_ / 128 = dst / 128 then w
    else (w.cross vc ch (dst % 16) cls (decide (w.at_ < dst)) first).along vc ch dst cls false fuel

/-- Channel of a route from router `a` toward another die: by the slot where it leaves over a die bridge, by the row where
over a hub bridge (R204). -/
def exitChannel (a dst : Nat) : Nat :=
  let c := a / 128
  if (chainJoin (min c (if c < dst / 128 then c + 1 else c - 1))).length = 2 then a % 128 / 16 else a % 16 / 2

/-- The route from one stall to another (R203, R204): BULK and SMALL on the data channel, SIGNAL and GRANT on the control
channel. -/
def stallRoute (src dst kind cls : Nat) : Route :=
  let vc := if kind < 2 then 0 else 64
  let w := ((⟨src, 0, ⟨[], 0, 0, 0⟩⟩ : Walk).along vc (exitChannel src dst) dst cls true 12).within vc dst
  (w.grant [(dst, vc, w.port)]).route

/-- A message from a hub enters the mesh of the nearest die that the hub serves, by the channel of the destination's row
(log entry 65). -/
def Walk.fromHub (h dst cls : Nat) : Walk :=
  let d := max (3 * h) (min (dst / 128) (3 * h + 2))
  let ch := dst % 128 / 16
  ⟨routerAt d ch (edgeSlot d), 26, ⟨[(1560 + 2 * d + 1, ch, cls)], 0, 0, 0⟩⟩

/-- A message leaves the mesh for the hub of the die reached (R19, R204). -/
def Walk.toHub (w : Walk) (vc ch cls : Nat) (first : Bool) : Walk :=
  let d := w.at_ / 128
  let exit := routerAt d ch (edgeSlot d)
  let w := if first then (w.hop vc exit).hops (b2n (w.at_ != exit))
    else ((w.hop vc (routerAt d ch (w.at_ % 16))).hop vc exit).hops 2
  w.grant [(exit, 26 + vc, w.port), (1560 + 2 * d, ch, cls)]

/-- The route between stalls (below 1536) and hubs (1536 and above) of the device. -/
def routeBetween (src dst kind cls : Nat) : Route :=
  let vc := if kind < 2 then 0 else 64
  if src < 1536 then
    if dst < 1536 then stallRoute src dst kind cls
    else
      let h := dst - 1536
      let d := max (3 * h) (min (src / 128) (3 * h + 2))
      let near := d = src / 128
      let ch := if near then src % 128 / 16 else exitChannel src (128 * d)
      (((⟨src, 0, ⟨[], 0, 0, 0⟩⟩ : Walk).along vc ch (128 * d) cls true 12).toHub vc ch cls near).route
  else
    let h := src - 1536
    if dst < 1536 then
      let w := ((Walk.fromHub h dst cls).along vc (dst % 128 / 16) dst cls false 12).within vc dst
      (w.grant [(dst, vc, w.port)]).route
    else
      let g := dst - 1536
      let d := if h < g then 3 * g else 3 * g + 2
      if h = g then ⟨[], 0, 0, 0⟩
      else (((Walk.fromHub h (128 * d) cls).along vc 0 (128 * d) cls false 12).toHub vc 0 cls false).route

/-- Tick at which a flit that leaves its stall at tick `x` lands when no arbiter makes it wait (R206). -/
def Route.lands (r : Route) (x : Nat) : Nat := x + 3 * r.hops + 4 * r.dies + 14 * r.hubs + 4

/-! ### Bridge channels (R224, R225, R229) -/

/-- A channel of the device. -/
def State.chan (s : State) (c : Nat) : Channel := sgetD s.chans c .empty

/-- Put a channel back. -/
def State.setChan (s : State) (c : Nat) (v : Channel) : State := { s with chans := sset s.chans c v }

/-- Live channels of a join as a mask: both directions live (R228). -/
def State.liveMask (s : State) (j : Nat) : Nat :=
  ((List.range 8).map fun i => b2n ((s.chan (16 * j + i)).live && (s.chan (16 * j + 8 + i)).live) * 2 ^ i).sum

/-- The next live channel of a bridge, counting upwards modulo 8 (R225). -/
def State.nextLive (s : State) (j i : Nat) : Option Nat :=
  ((List.range 7).map fun k => (i + k + 1) % 8).find? fun k => s.liveMask j / 2 ^ k % 2 = 1

/-- The channel that carries the traffic of channel `c`: itself while it is live, else the next live one of its bridge (R225). -/
def State.carrier (s : State) (c : Nat) : Nat :=
  if (s.chan c).live then c else match s.nextLive (c / 16) (c % 8) with | some k => c / 8 * 8 + k | none => c

/-- ARB instance of a directed channel's transmitter (R229). -/
def chanArb (c : Nat) : Nat :=
  let j := c / 16
  let d := c % 16 / 8
  if j < 12 then 1560 + 2 * j + d else 1536 + 2 * (joinDie j + d) + d

/-- Cycles in which a replay of `n` flits holds a channel's output: one a flit, a hub bridge two flits in each (R229, R231). -/
def replayCycles (c n : Nat) : Nat := if c / 16 < 12 then cdiv n 2 else n

/-- The directed channel whose transmitter is output `ch` of a bridge's ARB instance. -/
def arbChan (a ch : Nat) : Nat :=
  if 1560 ≤ a then 16 * ((a - 1560) / 2) + 8 * (a % 2) + ch
  else
    let u := (a - 1536) / 2 - a % 2
    16 * (12 + u / 4 * 3 + u % 4) + 8 * (a % 2) + ch

/-! ### Flits (R207) -/

/-- Flits of a message of `n` words. -/
def flits (n : Nat) : Nat := max n 1

/-- The 88-byte flits of a message: payload word `i` in the data lane of flit `i`, the header in bytes 0 to 15 of the first
control lane, crc and status in bytes 16 to 23 of the last; reserved bytes are 0. -/
def flitBytes (hdr : BitVec 128) (words : List Line) (crc status : W32) : List (List Byte) :=
  let f := flits words.length
  (List.range f).map fun i =>
    lineBytes (words.getD i 0#512) ++ (if i = 0 then leBytes 16 hdr.toNat else List.replicate 16 0#8)
      ++ (if i + 1 = f then leBytes 4 crc.toNat ++ leBytes 4 status.toNat else List.replicate 8 0#8)

end Sys2Proof.Machine
end

