-- ==== Sys2Proof/Machine/Exchange.lean ====
section
/-! DEFINITION. Exchange inside the package: messages to the bit (R207 to R210), the EX words (R211, R216, R492, R400),
receiving (R217, R218), alive counters (R221, R222), and the completion of words (R116, R117). -/
namespace Sys2Proof.Machine

/-! ### Headers (R208, R209) -/

/-- The fields of a message header. -/
structure Hdr where
  kind : Nat
  poison : Bool
  statusValid : Bool
  untracked : Bool
  tallyEn : Bool
  fold : Bool
  len : Nat
  stp : Nat
  job : Nat
  alive : Nat
  src : Nat
  dst : Nat
  ring : Nat
  tally : Nat
  inc : Nat
  arg : Nat
  deriving DecidableEq, Repr

/-- Header bytes 0 to 13 as a number. -/
def Hdr.low (h : Hdr) : Nat :=
  h.kind % 8 + 2 ^ 3 * b2n h.poison + 2 ^ 4 * b2n h.statusValid + 2 ^ 5 * b2n h.untracked + 2 ^ 6 * b2n h.tallyEn
    + 2 ^ 7 * b2n h.fold + 2 ^ 8 * (h.len % 64) + 2 ^ 14 * (h.stp % 4) + 2 ^ 16 * (h.job % 64) + 2 ^ 24 * (h.alive % 256)
    + 2 ^ 32 * (h.src % 2048) + 2 ^ 48 * (h.dst % 2048) + 2 ^ 64 * (h.ring % 16) + 2 ^ 72 * (h.tally % 64)
    + 2 ^ 80 * (h.inc % 256) + 2 ^ 96 * (h.arg % 65536)

/-- The header with its check (R208). -/
def Hdr.bits (h : Hdr) : BitVec 128 :=
  BitVec.ofNat 128 (h.low + 2 ^ 112 * (check16 (leBytes 14 h.low)).toNat)

/-- The fields of received header bits. -/
def hdrOf (b : BitVec 128) : Hdr :=
  let x := b.toNat
  ⟨bits x 2 0, bit x 3, bit x 4, bit x 5, bit x 6, bit x 7, bits x 13 8, bits x 15 14, bits x 21 16, bits x 31 24,
   bits x 42 32, bits x 58 48, bits x 67 64, bits x 77 72, bits x 87 80, bits x 111 96⟩

/-- Does hdr_check pass (R208)? -/
def hdrOk (b : BitVec 128) : Bool := (check16 (leBytes 14 b.toNat)).toNat = bits b.toNat 127 112

/-- The message's crc (R209). -/
def msgCrc (b : BitVec 128) (words : List Line) (status : W32) : W32 :=
  check32 (leBytes 16 b.toNat ++ words.flatMap lineBytes
    ++ (if bit b.toNat 4 then leBytes 4 status.toNat else []))

/-- The rules of R210. -/
def Hdr.malformed (h : Hdr) : Bool :=
  match h.kind with
  | 0 => h.len = 0 || decide (32 < h.len)
  | 1 => h.len != 1 || !h.tallyEn
  | 2 => h.len != 0 || !h.tallyEn
  | 3 => h.len != 0 || h.tallyEn
  | _ => true

/-- Stream class of a kind and its target (R221): ring, tally or chit account. -/
def Hdr.stream (h : Hdr) : Nat × Nat :=
  match h.kind with
  | 2 => (1, h.tally)
  | 3 => (2, h.ring)
  | _ => (0, h.ring)

/-- Event aux of a message: stalls, kind, ring and tally as received (R226). -/
def Hdr.aux (h : Hdr) : Nat := msgAux h.src h.dst h.kind h.ring h.tally

/-! ### Sending (R211, R221) -/

/-- Number the next message of a stream; a full table sends untracked (R221). -/
def SlotSt.nextAlive (s : SlotSt) (cls dst tgt : Nat) : SlotSt × Nat × Bool :=
  match lfind (fun x => x.kind = cls && x.dst = dst && x.target = tgt) s.streams 0 with
  | some (i, x) => ({ s with streams := lset s.streams i { x with next := (x.next + 1) % 256 } }, x.next, false)
  | none =>
    if s.streams.length < 64 then ({ s with streams := s.streams ++ [⟨cls, dst, tgt, 1⟩] }, 0, false)
    else (s, 0, true)

/-- Is a stall number of a placement one of another device (log entry 25)? -/
def remoteStall (n : Nat) : Bool := decide (2048 ≤ n)

/-- Square position of a remote stall number. -/
def remotePos (n : Nat) : Nat := n / 2048 - 1

/-- Send a message of slot `k` for a word of step `step` whose flit 0 leaves at tick `t`: alive, step, header and trailer filled
in (R211). -/
def Stall.send (st : Stall) (sn k t step : Nat) (h : Hdr) (words : List Line) (status : W32) : Stall × List Eff :=
  let s := st.slotSt k
  let tgt := h.stream
  let a := s.nextAlive tgt.1 h.dst tgt.2
  let h := { h with
    src := sn, job := (st.jobSlot k).job, stp := step % 4, alive := a.2.1, untracked := a.2.2, len := words.length }
  let b := h.bits
  let crc := msgCrc b words status
  ((st.setSlot k a.1).bump 0x598 1,
    [if remoteStall h.dst then .remote t (remotePos h.dst) b words crc status
     else .emit (.msg t (stallRoute sn h.dst h.kind (st.jobSlot k).cls) b (flitBytes b words crc status))])

/-- A header with only its kind and destination. -/
def Hdr.toward (kind dst : Nat) : Hdr :=
  ⟨kind, false, false, false, false, false, 0, 0, 0, 0, 0, dst, 0, 0, 0, 0⟩

/-! ### Completion of a word (R116, R117, R211) -/

/-- The signal and pop of a word of step `step` act at tick `c`; a remote increment leaves at `c + 1` with its word's stp (R211). -/
def Stall.complete (st : Stall) (sn k step c due pc : Nat) (e : Eng) (ctx : JobCtx) (w : Common) : Stall × List Eff :=
  let r := st.jobRes k
  let job := (st.jobSlot k).job
  let st := st.laters c (sigAct sn r w.sig ++
    (if w.popCount = 0#8 then [] else [.popRing w.popRing.toNat w.popCount.toNat job e.num pc due]))
  if w.sig.kind = 4#3 then
    match placeOf ctx.place w.sig.pitch.toNat w.sig.stall.toNat with
    | some d => st.send sn k (c + 1) step { Hdr.toward 2 d with
        tallyEn := true, tally := w.sig.index.toNat, inc := w.sig.value.toNat } [] 0#32
    | none => (st, [])
  else (st, [])

/-! ### EX words -/

/-- Word address of the first payload word of a source (R211). -/
def srcAddr (tl : Tile) (word : Nat) : Nat := tileIx tl * slotWords tl.store.num + word

/-- The tile registers that `n` payload words from a source cover. -/
def srcTiles (tl : Tile) (word n : Nat) : List Tile :=
  let sw := slotWords tl.store.num
  (List.range ((word + n - 1) / sw + 1)).drop (word / sw) |>.map (tileStep tl)

/-- The payload words from a source. -/
def Stall.payload (st : Stall) (tl : Tile) (word n : Nat) : List (Line × Bool) :=
  (List.range n).map fun i => st.word tl.store.num ((srcAddr tl word + i) % storeWords tl.store.num)

/-- The tile checksum of R400. -/
def Stall.tileSum (st : Stall) (tl : Tile) : W32 :=
  check32 (((List.range 64).flatMap fun w => lineBytes (st.tword tl w).1) ++ leBytes 4 (st.tstat (tileKey tl)).toNat)

/-- A field of R211 out of range or against R210 (R492). -/
def sendInvalid (s : Send) (bulk : Bool) : Bool :=
  (match s.tally with
    | some (i, n) => decide (63 < i) || n = 0 || decide (255 < n)
    | none => !bulk)
    || (if bulk then s.len = 0 || decide (32 < s.len)
        else (s.kind != 1#3 && s.kind != 2#3) || (s.kind = 1#3 && decide (4096 ≤ s.slot)))
    || ((bulk || s.kind = 1#3) && decide (slotWords s.src.store.num ≤ s.word))
    || (s.csum && s.src.store != .p)

/-- The header of a SEND or BULK word to a physical stall; a SIGNAL names no ring, slot or fold (R208). -/
def sendHdr (s : Send) (bulk : Bool) (dst : Nat) (poison stv : Bool) : Hdr :=
  let pays := bulk || s.kind = 1#3
  { Hdr.toward (if bulk then 0 else s.kind.toNat) dst with
    poison := poison, statusValid := stv, tallyEn := s.tally.isSome, fold := pays && (s.fold || s.foldReset)
    ring := if pays then s.ring.toNat else 0, tally := (s.tally.getD (0, 0)).1, inc := (s.tally.getD (0, 0)).2
    arg := if !bulk && s.kind = 1#3 then s.slot else 0 }

/-- Tile registers that a SEND or BULK names as its source, also where another field is out of range (R211, R492). -/
def sendRegs (s : Send) (bulk : Bool) : List (Tile × Bool) :=
  if !bulk && s.kind != 1#3 then []
  else
    let n := if bulk then max 1 (min s.len 32) else 1
    (srcTiles s.src (s.word % slotWords s.src.store.num) n).map fun tl => (tl, true)

/-- Fold sent payload into the send running value (R220). -/
def Stall.foldSend (st : Stall) (k : Nat) (s : Send) (ws : List Line) : Stall :=
  if s.fold || s.foldReset then
    let x := st.slotSt k
    st.setSlot k { x with sendRv := crcRun (if s.foldReset then 0xFFFFFFFF#32 else x.sendRv) (ws.flatMap lineBytes) }
  else st

/-- The account that a BULK's target names (R216). -/
def Stall.account (st : Stall) (k dst ring : Nat) : Option (Nat × Account) :=
  lfind (fun a => a.granter = dst % 2048 && a.ring = ring) (st.slotSt k).accounts 0

/-- The effect of a SEND or BULK at its issue (R211, R216). A checksum has been formed by the P-store (R400) and takes no port. -/
def Stall.sendRun (st : Stall) (sn k t dst : Nat) (w : CWord) (s : Send) (bulk : Bool) : Stall × List Eff :=
  let n := if bulk then s.len else if s.kind = 1#3 then 1 else 0
  let pay := st.payload s.src s.word n
  let ws := if s.csum && n = 1 then [BitVec.ofNat 512 (st.tileSum s.src).toNat] else pay.map (·.1)
  let pg := n != 0 && bulk && (s.src.store = .p || s.src.store = .g)
  let status := if pg then st.tstat (tileKey s.src) else 0#32
  let st := if bulk then
      match st.account k dst s.ring.toNat with
      | some (i, a) =>
        let x := st.slotSt k
        st.setSlot k { x with accounts := lset x.accounts i { a with count := a.count - 1 } }
      | none => st
    else st
  let r := (if n = 0 then st else st.foldSend k s ws).send sn k (t + 1) (st.slotSt k).step (sendHdr s bulk dst (pay.any (·.2)) pg) ws status
  let q := r.1.subq k .ex
  let a := srcAddr s.src s.word
  let reads := (List.range (if s.csum then 0 else n)).map fun i => (i, false, s.src.store.num, (a + i) % storeWords s.src.store.num)
  ((r.1.claim (portsOf k .ex q.lastPc t reads)).fly k .ex (t + flits n) w, r.2)

/-- A SEND or BULK word (R211, R216, R492). -/
def sendSpec (st : Stall) (sn k t : Nat) (ctx : JobCtx) (w : CWord) (s : Send) (bulk : Bool) : Spec :=
  let dst := placeOf ctx.place s.pitch.toNat s.stall.toNat
  let d := dst.getD 0
  let n := if bulk then s.len else if s.kind = 1#3 then 1 else 0
  { ownerBad := dst.isNone
    regs := sendRegs s bulk
    stampOf := if s.csum then [(tileKey s.src, 64)] else []
    pre := if !bulk then none else match st.account k d s.ring.toNat with
      | some (_, a) =>
        if a.count = 0 then some (.waitFail [0xF8])
        else if 2 ^ a.k < s.len then some (.fault (flt 0x3206 0)) else none
      | none => some (.waitFail [0xF8])
    late := if sendInvalid s bulk then some (.fault (flt 0x3206 0)) else none
    d := flits n
    run := fun st => st.sendRun sn k t d w s bulk }

/-- A GRANT word (R211, R215, R492). -/
def grantSpec (st : Stall) (sn k t : Nat) (ctx : JobCtx) (w : CWord) (g : Grant) : Spec :=
  let dst := placeOf ctx.place g.pitch.toNat g.stall.toNat
  let r := g.ring.toNat
  let c := st.ringCfg r
  let p := st.ring r
  { ownerBad := dst.isNone || !st.ringOwned r (st.jobSlot k).job
    regs := []
    stampOf := []
    pre := none
    late := if g.count = 0 || decide (4096 < g.count) || decide (5 < c.k) then some (.fault (flt 0x3206 0))
      else if c.size < p.filled + p.held + p.landing.length + p.outstanding + g.count then
        some (.fault (flt 0x3203 r)) else none
    d := 1
    run := fun st =>
      let p := st.ring r
      let st := st.setRing r { p with outstanding := p.outstanding + g.count }
      let x := st.send sn k (t + 1) (st.slotSt k).step { Hdr.toward 3 (dst.getD 0) with ring := r, arg := g.count + 2 ^ 13 * c.k } [] 0#32
      (x.1.fly k .ex (t + 1) w, x.2) }

/-- A CHECKCMP word (R400): its own TP slot's checksum against the primary's word in a ring slot. A mismatch's record packs both
stalls, the unit and the checksums as far as its 64 bits go (log entry 70). -/
def checkcmpSpec (st : Stall) (sn k t : Nat) (w : CWord) (tp : Nat) (ring : BitVec 4) (slot : Nat) : Spec :=
  let r := ring.toNat
  let tl : Tile := ⟨.p, tp⟩
  let c := st.ringCfg r
  { ownerBad := !st.ringOwned r (st.jobSlot k).job
    regs := (tl, true) :: (if slot < c.size then [(tileOf c.store (c.addr slot 0), true)] else [])
    stampOf := [(tileKey tl, 64)]
    pre := none
    late := if decide (c.size ≤ slot) then some (.fault (flt 0x3206 0)) else none
    d := 1
    run := fun st =>
      let own := (st.tileSum tl).toNat
      let theirs := bits (st.word c.store (c.addr slot 0)).1.toNat 31 0
      let prim := sgetD st.smallFrom (r * 4096 + slot) 0
      let pg := pageNo .cdie (sn / 128)
      let st := (st.claim (portsOf k .ex (st.subq k .ex).lastPc t [(0, false, c.store, c.addr slot 0)])).fly k .ex t w
      (st, .count pg 0x78 1 ::
        (if own = theirs then []
         else [.count pg 0x80 1, .ev (st.ev sn t 0x7102 0 (st.jobSlot k).job
            (prim + 2 ^ 11 * sn + 2 ^ 22 * w.common.inspect.getD 0 + 2 ^ 46 * (own + 2 ^ 32 * theirs))),
          .strike sn 0x7102 (some (st.jobSlot k).job), .strike prim 0x7102 (some (st.jobSlot k).job)])) }

/-! ### Receiving (R217, R218, R221, R222) -/

/-- Key of the receiver's alive table for a message: its ring, its tally, or the account of its job's slot (R221). -/
def Stall.aliveKey (st : Stall) (h : Hdr) : Nat :=
  let k := (st.slotOf h.job).getD 0
  match h.stream.1 with
  | 0 => h.ring
  | 1 => 64 + (st.jobRes k).tallyBase + h.tally
  | _ => 1024 + k * 32768 + h.src * 16 + h.ring

/-- Is the target of a message outside its job on this stall (R217, R118, R192, R212)? -/
def Stall.msgForeign (st : Stall) (sn : Nat) (h : Hdr) : Bool :=
  h.dst != sn || match st.slotOf h.job with
    | none => true
    | some k =>
      (decide (h.kind < 2) && !st.ringOwned h.ring h.job)
        || (h.kind = 1 && decide ((st.ringCfg h.ring).size ≤ h.arg % 4096))
        || (h.tallyEn && decide ((st.jobRes k).tallyCount ≤ h.tally))

/-- The tally of a message in the stall's numbering. -/
def Stall.msgTally (st : Stall) (h : Hdr) : Option Nat :=
  match st.slotOf h.job with
  | some k => if h.tallyEn then some ((st.jobRes k).tallyBase + h.tally) else none
  | none => none

/-- The alive check (R221, R222): whether the message goes on, and what it records, counts and raises. -/
def Stall.aliveCheck (st : Stall) (sn t : Nat) (h : Hdr) : Bool × Stall × List Eff :=
  let key := st.aliveKey h
  let tbl := sgetD st.alive key []
  let limit := if h.stream.1 = 2 then 1 else 8
  let ev (code aux : Nat) : List Eff := [.ev (st.ev sn t code 0 h.job aux)]
  if h.untracked then (true, st.bump 0x778 1, [])
  else match sget tbl h.src with
    | none =>
      if limit ≤ tbl.length then (true, st.bump 0x778 1, [])
      else (true, { st with alive := sset st.alive key (sset tbl h.src h.alive) }, [])
    | some v =>
      let rec' : Stall := { st with alive := sset st.alive key (sset tbl h.src h.alive) }
      if h.alive = v then (false, st.bump 0x6B0 1, ev 0x3102 h.aux)
      else if h.alive = (v + 1) % 256 then (true, rec', [])
      else (true, rec'.bump 0x6B8 1, ev 0x3103 (h.aux + 2 ^ 48 * v + 2 ^ 56 * h.alive))

/-- An accepted message, whose words arrive at the given ticks after flit 0 (R217). -/
def Stall.accepted (st : Stall) (t : Nat) (b : BitVec 128) (slotIx : Option Nat) (words : List (Nat × Line)) : Stall :=
  words.foldl (fun s q => s.at_ (t + q.1) (.flit b))
    { st with inbound := st.inbound ++ [⟨b, t, slotIx, 0, false, none, [], words.map (·.2), []⟩] }

/-- Arrival of flit 0 (R217): the header decides, and the payload words follow at ticks after `t`. -/
def Stall.flit0 (st : Stall) (sn t : Nat) (b : BitVec 128) (words : List (Nat × Line)) : Stall × List Eff :=
  let h := hdrOf b
  let ev (s : Stall) (code sev : Nat) : List Eff := [.ev (s.ev sn t code sev h.job h.aux)]
  if !hdrOk b then (st.bump 0x6A8 1, ev st 0x3101 0)
  else if h.malformed || st.msgForeign sn h then (st.bump 0x740 1, ev st 0x3105 0)
  else if h.stp != st.stepOf h.job % 4 then (st.bump 0x740 1, ev st 0x3107 0)
  else
    let (go, st, e) := st.aliveCheck sn t h
    if !go then (st, e)
    else if h.kind = 0 then
      let g := st.ring h.ring
      if g.outstanding = 0 then (st, e ++ ev st 0x3205 2)
      else
        let ix := (g.tail + g.held + g.landing.length) % 65536
        let inc := (st.msgTally h).map fun i => (i, h.inc, h.aux)
        let st := st.setRing h.ring { g with
          outstanding := g.outstanding - 1, landing := g.landing ++ [⟨ix, false, inc, []⟩] }
        (st.accepted t b (some ix) words, e)
    else (st.accepted t b (if h.kind = 1 then some (h.arg % 4096) else none) words, e)

/-- The landing of a message whose last word is written, at tick `t` (R217). -/
def Stall.land (st : Stall) (t : Nat) (m : Inbound) : Stall :=
  let h := hdrOf m.hdr
  let c := st.ringCfg h.ring
  let keys := (List.range m.payload.length).map fun i =>
    c.store * 128 + c.addr ((m.slotIx.getD 0) + i / c.words) (i % c.words) / slotWords c.store
  let st := keys.foldl (fun s key => s.setStamp key t) st
  let st := match m.status, keys.head? with
    | some w, some key => if 2 ≤ c.store then st.setTstat key w else st
    | _, _ => st
  let st := if 2 ≤ c.store then keys.foldl (fun s key => s.showAt t key) st else st
  match h.kind with
  | 0 =>
    let g := st.ring h.ring
    let ix := m.slotIx.getD 0
    (st.setRing h.ring { g with landing := g.landing.map fun l =>
      if l.ix = ix then { l with fold := if h.fold then m.payload else [] } else l }).later t (.bulkDone h.ring ix h.job)
  | 3 => match st.slotOf h.job with
    | some k => (st.bump 0x6A0 1).later t (.grant k h.src h.ring (h.arg % 8192) (h.arg / 8192))
    | none => st.bump 0x740 1
  | _ =>
    let st := if h.fold && h.kind = 1 then st.foldRecv h.job m.payload else st
    let st := if h.kind = 1 then
      { st with smallFrom := sput 0 st.smallFrom (h.ring * 4096 + m.slotIx.getD 0) h.src } else st
    match st.msgTally h with
    | some i => (st.bump 0x6A0 1).later t (.addTally i h.inc h.aux)
    | none => st.bump 0x740 1

/-- A bank has a stealer word queued: in retention it wakes for the word of its owner (R195). -/
def Stall.wakeFor (st : Stall) (t b job : Nat) : Stall :=
  let x := st.bank b
  if !x.awake && x.wakeEnd.isNone && x.scrubEnd.isNone && x.owner = ownJob job then
    st.setBank b { x with wakeEnd := some (t + 8192), stealWoken := true }
  else st

/-- A bank enters retention at tick `t`; a write of its owner that waits for it wakes it at once (R195). -/
def Stall.wakeWanted (st : Stall) (t b : Nat) : Stall :=
  match st.steal.find? fun s => s.bank = b && !s.read && decide ((st.bank b).owner = ownJob s.job) with
  | some s => st.wakeFor t b s.job
  | none => st

/-- Queue stealer words at tick `t` (R184). -/
def Stall.queueSteal (st : Stall) (t : Nat) (l : List Steal) : Stall :=
  if l.isEmpty then st
  else
    let st := { st with steal := st.steal ++ l, stealFrom := if st.steal.isEmpty then t else st.stealFrom }
    l.foldl (fun s x => if x.read then s else s.wakeFor t x.bank x.job) st

/-- Store word of payload word `i` of a message (R191, R217). -/
def Stall.msgPlace (st : Stall) (m : Inbound) (i : Nat) : Nat × Nat :=
  let c := st.ringCfg (hdrOf m.hdr).ring
  (c.store, c.addr (m.slotIx.getD 0 + i / c.words) (i % c.words))

/-- The next payload words of a message arrive, each with its poison, and wait for their banks (R217). -/
def Stall.takeWords (st : Stall) (t i : Nat) (m : Inbound) (ws : List (Line × Bool)) : Stall :=
  let steals := ws.zipIdx.map fun q =>
    let a := st.msgPlace m (m.payload.length + q.2)
    (⟨bankOf a.1 a.2, false, none, m.hdr, (hdrOf m.hdr).job, .word a.1 a.2, q.1.1, q.1.2, t⟩ : Steal)
  let m := { m with
    since := t, waiting := m.waiting + ws.length, payload := m.payload ++ ws.map (·.1), coming := m.coming.drop ws.length }
  { st with inbound := lset st.inbound i m }.queueSteal t steals

/-- A message that is still arriving. -/
def Stall.arriving (st : Stall) (b : BitVec 128) : Option (Nat × Inbound) := lfind (fun m => m.hdr = b && !m.last) st.inbound 0

/-- The next flit of a message arrives with its payload word (R217). -/
def Stall.nextFlit (st : Stall) (t : Nat) (b : BitVec 128) : Stall :=
  match st.arriving b with
  | none => st
  | some (i, m) => match m.coming with
    | d :: _ => if m.payload.length < (hdrOf b).len then st.takeWords t i m [(d, (hdrOf b).poison)] else st
    | [] => st

/-- The words that a message has written and whose banks are still its job's (R187). -/
def Inbound.wroteOwn (m : Inbound) (st : Stall) : List (Nat × (Line × Bool)) :=
  m.wrote.filter fun q => st.bankOwned (bankOf (q.1 / 4096) (q.1 % 4096)) (hdrOf m.hdr).job

/-- The poison bit of every word that a message wrote, where its bank is still its job's, and of every word of it that waits, is
set (R187, R217). -/
def Stall.spoil (st : Stall) (m : Inbound) : Stall :=
  let st := (m.wroteOwn st).foldl (fun (s : Stall) q =>
    s.putWord (q.1 / 4096) (q.1 % 4096) (s.word (q.1 / 4096) (q.1 % 4096)).1 true) st
  { st with steal := st.steal.map fun s => if s.hdr = m.hdr && s.tag.isNone then { s with poison := true } else s }

/-- No flit of a message follows (R217, R225): the words `rest` arrive now, every word is poisoned where `bad`, and the
message lands with its last word. -/
def Stall.finishMsg (st : Stall) (t i : Nat) (m : Inbound) (rest : List (Line × Bool)) (status : Option W32) (bad : Bool) :
    Stall :=
  let m := { m with last := true, status := status }
  let st := st.takeWords t i m rest
  let m := (st.inbound[i]?).getD m
  let st := if bad then st.spoil m else st
  if m.waiting = 0 then { st with inbound := ldel st.inbound i }.land t m else st

/-- A message that has begun to arrive is revoked on its way and restarts from its first flit (R236): what has come of it is
discarded, the words that it wrote stand as before, and its alive value and its ring's slot are expected again. -/
def Stall.discardMsg (st : Stall) (i : Nat) (m : Inbound) : Stall :=
  let h := hdrOf m.hdr
  let st := (m.wroteOwn st).foldl (fun (s : Stall) q => s.putWord (q.1 / 4096) (q.1 % 4096) q.2.1 q.2.2) st
  let st := { st with
    inbound := ldel st.inbound i
    steal := st.steal.filter fun s => !(s.hdr = m.hdr && s.tag.isNone)
    agenda := st.agenda.filter fun q => q.2 != .flit m.hdr }
  let key := st.aliveKey h
  let tbl := sgetD st.alive key []
  let st := if !h.untracked && sget tbl h.src = some h.alive then
      { st with alive := sset st.alive key (sset tbl h.src ((h.alive + 255) % 256)) } else st
  if h.kind != 0 then st
  else
    let g := st.ring h.ring
    st.setRing h.ring { g with
      outstanding := g.outstanding + 1, landing := g.landing.filter fun l => some l.ix != m.slotIx }

/-- The transfer of a message from stall `src`, of a kind and job, has been revoked (R236). -/
def Stall.revoked (st : Stall) (src kind : Nat) (job : Option Nat) : Stall :=
  match lfind (fun m : Inbound => !m.last && (hdrOf m.hdr).src = src && (hdrOf m.hdr).kind = kind && some (hdrOf m.hdr).job = job)
      st.inbound 0 with
  | some (i, m) => st.discardMsg i m
  | none => st

/-- Payload words of a message that have not arrived, zero where none follows. -/
def Inbound.rest (m : Inbound) : List Line :=
  (List.range ((hdrOf m.hdr).len - m.payload.length)).map fun j => m.coming.getD j 0#512

/-- Arrival of the last flit, with the word that it brings (R217): crc is checked over what arrived. -/
def Stall.lastFlit (st : Stall) (sn t : Nat) (b : BitVec 128) (word : Option Line) (crc status : W32) : Stall × List Eff :=
  match st.arriving b with
  | none => (st, [])
  | some (i, m) =>
    let m := { m with coming := m.coming ++ word.toList }
    let h := hdrOf b
    let ok := crc = msgCrc b (m.payload ++ m.rest) status
    let st := if ok then st else st.bump 0x6A8 1
    (st.finishMsg t i m (m.rest.map fun d => (d, h.poison)) (if h.statusValid then some status else none) !ok,
      if ok then [] else [.ev (st.ev sn t 0x3101 0 h.job h.aux)])

/-- The message with a header that is still arriving and of which `n` payload words have come. -/
def Stall.partly (st : Stall) (b : BitVec 128) (n : Nat) : Option (Nat × Inbound) :=
  lfind (fun m => m.hdr = b && !m.last && m.payload.length = n) st.inbound 0

/-- No flit of a message for 1,024 ticks: missing words are zero with poison set (R225). -/
def Stall.truncate (st : Stall) (sn t : Nat) (b : BitVec 128) (received : Nat) : Stall × List Eff :=
  match st.partly b received with
  | none => (st, [])
  | some (i, m) =>
    let h := hdrOf b
    if t < m.since + 1024 then (st, [])
    else
      (st.finishMsg t i m (m.rest.map fun _ => (0#512, true)) none false,
        [.ev (st.ev sn t 0x3104 0 h.job h.aux), .count (pageNo .cdie (sn / 128)) 0x58 1])

end Sys2Proof.Machine
end

