-- ==== Sys2Proof/Config.lean ====
section
/-! DEFINITION. What an implementation fixes and the spec leaves open: opaque constants with no body, so that
nothing in Lean can evaluate them (the free values of the assumption log). -/
namespace Sys2Proof.Config

/-- A fresh unconstrained 512-bit value: the n-th free value (log entries 5 and 38: words of a failed transfer, R259;
the record that carries a SEAL_TABLE, R357). -/
opaque freeLine : Nat → BitVec 512

/-- The levels that the n-th capture finds on the signal lands, in the order of the boundary register, whose length is the
device's own (R486, log entry 75). -/
opaque freeLands : Nat → List Bool

/-- Which types of firmware traffic among 0x80 to 0xFF carry position 0's words to its side (R355, R358, R359, log entry 38). -/
opaque clerkTypes : Nat

/-- A charge in µJ of an interval whose estimates are all 0 (R384, log entry 69). -/
opaque freeCharge : Nat → Nat

/-- Which of the results that meet R143's bound the device gives for EXP2 (log entry 6). -/
opaque exp2Bits : BitVec 32 → BitVec 32

/-- The same for LOG2 (R143, log entry 6). -/
opaque log2Bits : BitVec 32 → BitVec 32

/-- The same for RCP (R143, log entry 6). -/
opaque rcpBits : BitVec 32 → BitVec 32

/-- The same for RSQRT (R143, log entry 6). -/
opaque rsqrtBits : BitVec 32 → BitVec 32

/-- The same for TANH (R143, log entry 6). -/
opaque tanhBits : BitVec 32 → BitVec 32

/-- The identity public modulus (R452); each device has its own (log entry 7). -/
opaque identityModulus : Nat

/-- The signature the security engine makes with the identity key over a report's bytes (R452, log entry 7). -/
opaque identitySign : List (BitVec 8) → Nat

end Sys2Proof.Config
end

