-- ==== Sys2Proof/Machine/Real.lean ====
section
/-! DEFINITION. The special functions of R143: the exact and special values, and for every other operand a free
value held to the bound of the manual's table. Exact results are enclosed in fixed point with `realBits` fraction
bits, far below any ulp in use; the same enclosures serve the schedule engine (R330). -/
namespace Sys2Proof.Machine

/-- Fraction bits of the fixed-point enclosures. -/
def realBits : Nat := 320

/-- One in fixed point. -/
def oneFix : Int := 2 ^ realBits

/-- Product in fixed point, rounded down. -/
def mulFix (a b : Int) : Int := a * b / oneFix

/-- Quotient in fixed point, rounded down. -/
def divFix (a b : Int) : Int := a * oneFix / b

/-- `n` terms of the exponential series from term `k`, for a small fixed-point argument. -/
def expTerms : Nat → Nat → Int → Int → Int
  | 0, _, _, _ => 0
  | n + 1, k, term, z => term + expTerms n (k + 1) (mulFix term z / (k + 1 : Nat)) z

/-- `e^z` in fixed point for `|z| ≤ 1`. -/
def expFix (z : Int) : Int := expTerms 80 0 oneFix z

/-- `n` terms of `2 atanh z` from odd power `k`, where `p` is `z^k`. -/
def atanhTerms : Nat → Nat → Int → Int → Int
  | 0, _, _, _ => 0
  | n + 1, k, p, zz => 2 * p / (k : Nat) + atanhTerms n (k + 2) (mulFix p zz) zz

/-- `ln m` in fixed point for fixed-point `m` in [1, 2]. -/
def lnFix (m : Int) : Int :=
  let z := divFix (m - oneFix) (m + oneFix)
  atanhTerms 110 1 z (mulFix z z)

/-- `ln 2` in fixed point. -/
def ln2Fix : Int := lnFix (2 * oneFix)

/-- A dyadic value in fixed point, rounded down. -/
def Dy.fix (d : Dy) : Int :=
  let e := d.exp + (realBits : Int)
  let m : Int := if d.neg then -(d.man : Int) else d.man
  if e ≥ 0 then m * 2 ^ e.toNat else m / 2 ^ (-e).toNat

/-- `2^x` for fixed-point `x`, as a dyadic value with `realBits` significant bits. -/
def exp2Fix (x : Int) : Dy :=
  let i := x / oneFix
  let f := x - i * oneFix
  ⟨false, (expFix (mulFix f ln2Fix)).toNat, i - (realBits : Int)⟩

/-- `log2 d` in fixed point for a positive value. -/
def log2Fix (d : Dy) : Int :=
  let l := Nat.log2 d.man
  let m : Int := (d.man : Int) * oneFix / 2 ^ l
  ((l : Int) + d.exp) * oneFix + divFix (lnFix m) ln2Fix

/-- A fixed-point value as a dyadic one. -/
def fixDy (x : Int) : Dy := ⟨decide (x < 0), x.natAbs, -(realBits : Int)⟩

/-- `|a - b|` as a non-negative value. -/
def Dy.dist (a b : Dy) : Dy := { (a.add b.negate) with neg := false }

/-- `2^k ulp` of R143 at an exact result `y`: `2^(max(floor(log2 |y|), -126) - 23 + k)`. -/
def ulpOf (y : Dy) (k : Int) : Dy := ⟨false, 1, max y.log2 (-126) - 23 + k⟩

/-- Is a candidate finite and within `tol` of `y`, the enclosure's own error allowed? -/
def within (g : W32) (y tol : Dy) : Bool :=
  match num32 g with
  | .fin d => !((tol.add ⟨false, 1, y.log2 - 200⟩).lt (d.dist y))
  | _ => false

/-- The free value where it meets the bound, the nearest value where it does not. -/
def pick (g : W32) (y tol : Dy) : W32 := if within g y tol then g else f32 y

/-- Is a magnitude a power of two? -/
def Dy.isPow2 (d : Dy) : Bool := decide (d.man ≠ 0) && decide (d.man = 2 ^ Nat.log2 d.man)

/-- EXP2 (R143). -/
def fexp2 (x : W32) : W32 :=
  match num32 x with
  | .nan b => quiet b
  | .inf n => if n then 0#32 else inf32 false
  | .fin d =>
    if !d.lt ⟨false, 128, 0⟩ then inf32 false
    else if d.lt ⟨true, 150, 0⟩ then 0#32
    else
      let f := d.fix
      if f % oneFix = 0 && decide (-149 ≤ f / oneFix) && (d.exp ≥ 0 || d.man % 2 ^ (-d.exp).toNat = 0) then
        f32 ⟨false, 1, f / oneFix⟩
      else
        let y := exp2Fix f
        pick (Config.exp2Bits x) y (ulpOf y 0)

/-- LOG2 (R143). -/
def flog2 (x : W32) : W32 :=
  match num32 x with
  | .nan b => quiet b
  | .inf n => if n then qnan else inf32 false
  | .fin d =>
    if d.man = 0 then inf32 true
    else if d.neg then qnan
    else if d.isPow2 then f32 ⟨decide (d.log2 < 0), d.log2.natAbs, 0⟩
    else
      let y := fixDy (log2Fix d)
      let near := !d.lt ⟨false, 1, -1⟩ && !(Dy.lt ⟨false, 2, 0⟩ d)
      pick (Config.log2Bits x) y (if near then ⟨false, 1, -23⟩ else ulpOf y 0)

/-- RCP (R143). -/
def frcp (x : W32) : W32 :=
  match num32 x with
  | .nan b => quiet b
  | .inf n => f32 ⟨n, 0, 0⟩
  | .fin d =>
    if d.man = 0 then inf32 d.neg
    else
      let y := divSticky realBits ⟨false, 1, 0⟩ d
      if d.isPow2 then f32 ⟨d.neg, 1, -d.log2⟩
      else pick (Config.rcpBits x) y (ulpOf y 0)

/-- RSQRT (R143). -/
def frsqrt (x : W32) : W32 :=
  match num32 x with
  | .nan b => quiet b
  | .inf n => if n then qnan else 0#32
  | .fin d =>
    if d.man = 0 then inf32 d.neg
    else if d.neg then qnan
    else if d.isPow2 && d.log2 % 2 = 0 then f32 ⟨false, 1, -(d.log2 / 2)⟩
    else
      let y := divSticky realBits ⟨false, 1, 0⟩ (sqrtSticky realBits d)
      pick (Config.rsqrtBits x) y (ulpOf y 0)

/-- `tanh x` for a positive value below 10. -/
def tanhDy (d : Dy) : Dy :=
  let e := exp2Fix (2 * divFix d.fix ln2Fix)
  divSticky realBits (e.add ⟨true, 1, 0⟩) (e.add ⟨false, 1, 0⟩)

/-- TANH (R143). -/
def ftanh (x : W32) : W32 :=
  match num32 x with
  | .nan b => quiet b
  | .inf n => if n then 0xBF800000#32 else one32
  | .fin d =>
    let a := { d with neg := false }
    if a.lt ⟨false, 1, -12⟩ then x
    else if !(a.mul ⟨false, 100, 0⟩).lt ⟨false, 902, 0⟩ then (if d.neg then 0xBF800000#32 else one32)
    else
      let y := { tanhDy a with neg := d.neg }
      pick (Config.tanhBits x) y (if a.lt ⟨false, 1, -1⟩ then ⟨false, 1, -24⟩ else ulpOf y 1)

end Sys2Proof.Machine
end

