-- ==== Sys2Proof/Machine/Vector.lean ====
section
/-! DEFINITION. The vector engine: operand runs (R137), timing (R138), operations (R139 to R143, R491), status and
poison (R144), and the ordering of rows by sparsity (R157). -/
namespace Sys2Proof
open Machine

/-- Format in which a run is read: P and G tiles as FP32, W and A tiles by their code, never FP32 (R136). -/
def Run.eff (r : Run) : Option Fmt :=
  match r.tile.store with
  | .p => some .fp32
  | .g => some .fp32
  | _ => match Fmt.ofCode r.fmt with
    | some .fp32 => none
    | f => f

/-- Elements of one tile row (R140). -/
def Run.rowLen (f : Fmt) : Nat := 32 * f.lanes

/-- A field of a run out of range. -/
def Run.invalid (r : Run) : Bool :=
  match r.eff with
  | none => true
  | some f => r.orient = .reserved || r.rows = 0 || decide (32 < r.rows) || r.cols = 0
      || decide (r.tiles * Run.rowLen f < r.cols)

/-- The `i`-th tile of a run: E2M1 tiles step two slots (R137). -/
def Run.tileAt (r : Run) (f : Fmt) (i : Nat) : Tile := tileStep r.tile (if f = .e2m1 then 2 * i else i)

/-- Elements of a run that are read before the one at row `row` and column `c`: in index order, tile after tile (R69, R137). -/
def Run.before (r : Run) (f : Fmt) (row c : Nat) : Nat :=
  let len := Run.rowLen f
  let lo := c / len * len
  lo * r.rows + row * (min (lo + len) r.cols - lo) + (c - lo)

/-- The tiles of a run, in order. -/
def Run.tilesOf (r : Run) : List Tile :=
  match r.eff with
  | none => []
  | some f => (List.range r.tiles).map (r.tileAt f)

/-- An E2M1 run that starts in an odd slot (R137). -/
def Run.odd (r : Run) : Bool := r.eff = some .e2m1 && r.tile.slot % 2 = 1

/-- The tiles that an operand reads. -/
def VArg.tiles : VArg → List Tile
  | .run r => r.tilesOf
  | .row t _ => [t]
  | .scalar _ => []

/-- Is a vector operand's own field out of range? A row vector is one row of a P tile (R137). -/
def VArg.invalid : VArg → Bool
  | .run r => r.invalid
  | .row t d => t.store != .p || decide (31 < d)
  | .scalar _ => false

/-- Operands an elementwise operation takes (R139). -/
def VopKind.arity : VopKind → Nat
  | .abs => 1 | .neg => 1 | .scale2 => 1 | .cvt => 1 | .fma => 3 | .select => 3 | .reserved => 0 | _ => 2

/-- Valid extent that the runs of a word share (R137): none where they differ or there is no run. -/
def extentOf : List VArg → Option (Nat × Nat)
  | [] => none
  | .run r :: rest => match extentOf rest with
    | none => if rest.any (fun a => match a with | .run _ => true | _ => false) then none else some (r.rows, r.cols)
    | some e => if e = (r.rows, r.cols) then some e else none
  | _ :: rest => extentOf rest

end Sys2Proof

namespace Sys2Proof.Machine

/-! ### Reading operands -/

/-- Element at row `r` and column `c` of a run, as FP32 (R58, R69, R137). -/
def Stall.runElem (st : Stall) (run : Run) (f : Fmt) (r c : Nat) : W32 :=
  let len := Run.rowLen f
  let tl := run.tileAt f (c / len)
  let i := r * len + c % len
  let raw := lineElem f (st.tword tl (i / f.perWord)).1 (i % f.perWord)
  if f = .fp32 then BitVec.ofNat 32 raw
  else
    let b := if run.tile.store = .w && run.orient = .kMajor then i / 1024 * 32 + i % 32 else i / 32
    let sc := bits (st.sidecar tl.store.num (tileIx tl + b / 64)).toNat (8 * (b % 64) + 7) (8 * (b % 64))
    (f.decode raw sc).to32

/-- Value of an operand at row `r` and column `c` (R137). -/
def Stall.argElem (st : Stall) (a : VArg) (r c : Nat) : W32 :=
  match a with
  | .run x => match x.eff with
    | some f => st.runElem x f r c
    | none => 0#32
  | .row t row => (lineF32 (st.tword t (2 * row + c % 32 / 16)).1).getD (c % 16) 0#32
  | .scalar x => x

/-- Does an operand read a poisoned word (R144)? -/
def Stall.argPoison (st : Stall) (a : VArg) : Bool :=
  match a with
  | .run x => match x.eff with
    | some f =>
      let wpr := Run.rowLen f / f.perWord
      (List.range x.tiles).any fun i => (List.range x.rows).any fun r => (List.range wpr).any fun j =>
        decide (i * Run.rowLen f + j * f.perWord < x.cols) && ((st.tword (x.tileAt f i) (r * wpr + j)).2
          || st.scalePoison f (x.tileAt f i).store.num (tileIx (x.tileAt f i)))
    | none => false
  | .row t row => (st.tword t (2 * row)).2 || (st.tword t (2 * row + 1)).2
  | .scalar _ => false

/-- Entry `r` of a row vector held in row `d` of a P tile. -/
def Stall.rowEntry (st : Stall) (t : Tile) (d r : Nat) : W32 := st.argElem (.row t d) 0 r

/-! ### Status words (R103, R144) -/

/-- The status word formed from the source tiles that carry one, before the word's own results. -/
def Stall.srcStat (st : Stall) (ts : List Tile) : Nat :=
  ts.foldl (fun a tl =>
    if tl.store = .p || tl.store = .g then
      let s := (st.tstat (tileKey tl)).toNat
      (bits a 4 0 ||| bits s 4 0) + 256 * max (bits a 28 8) (bits s 28 8)
    else a) 0

/-- Add the NaN and infinity bits of results or source values. -/
def withSpecials (s : Nat) (vals : List W32) : Nat := s ||| (4 * b2n (vals.any isNaN) + 8 * b2n (vals.any isInf))

/-- Give a destination tile its status word: replaced by a word that writes every row, merged otherwise (R144). -/
def Stall.carryStat (st : Stall) (key s : Nat) (full : Bool) : Stall :=
  let o := (st.tstat key).toNat
  st.setTstat key (BitVec.ofNat 32 (if full then s
    else (bits o 4 0 ||| bits s 4 0) + 256 * max (bits o 28 8) (bits s 28 8)))

/-! ### Writing results -/

/-- Write entries `lo` to `hi - 1` of an FP32 store word from `vals`; a word written in part keeps its poison. -/
def Stall.putLanes (st : Stall) (tl : Tile) (w n : Nat) (vals : List W32) (poison : Bool) : Stall :=
  if n = 0 then st
  else
    let o := st.tword tl w
    let new := vals.take n ++ (lineF32 o.1).drop n
    st.putWord tl.store.num (tileIx tl * slotWords tl.store.num + w) (f32Line new) (poison || (o.2 && decide (n < 16)))

/-- Write the rows of an FP32 destination run: tile `j` holds columns 32j to 32j + 31 (R139). -/
def Stall.putRun (st : Stall) (dst : Tile) (cols : Nat) (rows : List (List W32)) (poison : Bool) : Stall :=
  (rows.foldl (fun (a : Stall × Nat) row =>
    ((List.range (cdiv cols 16)).foldl (fun s q =>
      s.putLanes (tileStep dst (q / 2)) (2 * a.2 + q % 2) (min 16 (cols - 16 * q)) (row.drop (16 * q)) poison) a.1,
      a.2 + 1)) (st, 0)).1

/-- Write a row vector into row `d` of a P tile (R139). -/
def Stall.putRow (st : Stall) (dst : Tile) (d : Nat) (vals : List W32) (poison : Bool) : Stall :=
  (st.putLanes dst (2 * d) (min 16 vals.length) vals poison).putLanes dst (2 * d + 1) (vals.length - 16)
    (vals.drop 16) poison

/-! ### Elementwise operations (R52, R139, R491) -/

/-- 1.0 or 0.0. -/
def fbool (b : Bool) : W32 := if b then one32 else 0#32

/-- Is a value +0 or -0? -/
def isZero32 (x : W32) : Bool := x &&& 0x7FFFFFFF#32 = 0#32

/-- A value as an operation returns it: a NaN has its quiet bit set (R52). -/
def quieted (x : W32) : W32 := if isNaN x then quiet x else x

/-- The value of an elementwise operation. -/
def vopVal (k : VopKind) (n : Int) (a b c : W32) : W32 :=
  match k with
  | .add => fadd a b
  | .sub => fsub a b
  | .mul => fmul a b
  | .fma => ffma a b c
  | .min => fmin a b
  | .max => fmax a b
  | .abs => fabs a
  | .neg => fneg a
  | .cmpgt => fbool (fgt a b)
  | .cmpge => fbool (fgt a b || feq a b)
  | .cmpeq => fbool (feq a b)
  | .select => if isZero32 a then c else b
  | .scale2 => quieted ((num32 a).mul (.fin ⟨false, 1, n⟩)).to32
  | .cvt => quieted a
  | .reserved => a

/-! ### Reductions (R140 to R142) -/

/-- Combine neighbours; an absent element takes no part. -/
def pairUp (f : W32 → W32 → W32) : List (Option W32) → List (Option W32)
  | some a :: some b :: r => some (f a b) :: pairUp f r
  | some a :: none :: r => some a :: pairUp f r
  | none :: b :: r => b :: pairUp f r
  | [a] => [a]
  | [] => []

/-- The balanced pairwise tree over a segment of 32 values, in five levels (R140). -/
def segTree (f : W32 → W32 → W32) (l : List (Option W32)) : Option W32 :=
  (pairUp f (pairUp f (pairUp f (pairUp f (pairUp f l))))).headD none

/-- A row reduced segment by segment, left to right (R140). -/
def reduceRow (f : W32 → W32 → W32) (row : List W32) : W32 :=
  quieted <| ((List.range (cdiv row.length 32)).foldl (fun (acc : Option W32) q =>
    let seg := (List.range 32).map fun i => row[32 * q + i]?
    match acc, segTree f seg with
    | some a, some b => some (f a b)
    | none, b => b
    | a, none => a) none).getD 0#32

/-- Index of the extreme element of a row: the first NaN, else the lowest index among equals (R139). -/
def argBest (isMax : Bool) (row : List W32) : Nat :=
  match row.findIdx? isNaN with
  | some i => i
  | none => (row.foldl (fun (a : Nat × Nat × Option W32) x =>
      match a.2.2 with
      | none => (a.1 + 1, a.1, some x)
      | some b =>
        let better := if isMax then numBelow (num32 b) (num32 x) else numBelow (num32 x) (num32 b)
        if better then (a.1 + 1, a.1, some x) else (a.1 + 1, a.2)) (0, 0, none)).2.1

/-- A row reduction's value (R139, R140). -/
def vredVal (k : VredKind) (row : List W32) : W32 :=
  match k with
  | .sum => reduceRow fadd row
  | .sumsq => reduceRow fadd (row.map fun x => fmul x x)
  | .max => reduceRow fmax row
  | .min => reduceRow fmin row
  | .argmax => fnat (argBest true row)
  | .argmin => fnat (argBest false row)
  | .countnz => fnat (row.countP fun x => !isZero32 x)
  | .reserved => 0#32

/-- Mean and reciprocal deviation of a row (R141). -/
def vnormStatVal (rms : Bool) (eps : W32) (row : List W32) : W32 × W32 :=
  let s1 := vredVal .sum row
  let s2 := vredVal .sumsq row
  let q := fdiv one32 (fnat row.length)
  if rms then (0#32, frsqrt (fadd (fmul s2 q) eps))
  else
    let mu := fmul s1 q
    let var := fmax (fsub (fmul s2 q) (fmul mu mu)) 0#32
    (mu, frsqrt (fadd var eps))

/-- A normalised element (R141). -/
def vnormApplyVal (x mu r gamma beta : W32) : W32 := ffma (fmul (fsub x mu) r) gamma beta

/-- The exponent helper of the soft maximum: `EXP2((x - m) × c)` (R142). -/
def smaxExp (x m c : W32) : W32 := fexp2 (fmul (fsub x m) c)

/-- Maximum and exponent sum of a row; a row whose maximum is -∞ sums to 0 (R142). -/
def vsmaxStatVal (c : W32) (row : List W32) : W32 × W32 :=
  let m := vredVal .max row
  (m, if m = inf32 true then 0#32 else reduceRow fadd (row.map fun x => smaxExp x m c))

/-- Accumulate a previous pair (R142). -/
def vsmaxAcc (c : W32) (prev cur : W32 × W32) : W32 × W32 :=
  let m := fmax prev.1 cur.1
  (m, if m = inf32 true then 0#32
    else fadd (fmul prev.2 (smaxExp prev.1 m c)) (fmul cur.2 (smaxExp cur.1 m c)))

/-- A soft-maximum element (R142). -/
def vsmaxApplyVal (x m s c : W32) : W32 := if m = inf32 true then 0#32 else fmul (smaxExp x m c) (frcp s)

/-- A special function's value (R143). -/
def vsfnVal (k : SfnKind) (x : W32) : W32 :=
  match k with
  | .exp2 => fexp2 x
  | .log2 => flog2 x
  | .rcp => frcp x
  | .rsqrt => frsqrt x
  | .tanh => ftanh x
  | .reserved => x

/-! ### Words of the vector engine -/

/-- What every VX word shares: the checks of R137 and R57 with the number of the field or check that fails (R158, log entry
61), the timing of R138, the store words read and written as (tick after issue, write, store, address), the sidecar entries
likewise, and the effect. -/
structure VxWord where
  regs : List (Tile × Bool)
  invalid : Bool
  why : Nat
  odd : Option Tile
  n : Nat
  d : Nat
  extra : Nat
  dsts : List Tile
  ports : List (Nat × Bool × Nat × Nat)
  sides : List (Nat × Bool × Nat × Nat)
  run : Stall → Stall × Bool

/-- SCALE_SLOT on a tile register (R57). -/
def scaleFault (tl : Tile) : Verdict := .fault ⟨0x1401, tl.store.num, tileIx tl, 0, 6⟩

/-- Store words of an operand run with the tick after issue at which each is read: `rate` elements per tick in element order
(R137, R138, log entry 59). -/
def runReads (r : Run) (rate : Nat) : List (Nat × Bool × Nat × Nat) :=
  match r.eff with
  | none => []
  | some f => (List.range r.rows).flatMap fun row => (List.range (cdiv r.cols f.perWord)).map fun j =>
      let c := j * f.perWord
      let tl := r.tileAt f (c / Run.rowLen f)
      let i := row * Run.rowLen f + c % Run.rowLen f
      (r.before f row c / rate, false, tl.store.num, tileIx tl * slotWords tl.store.num + i / f.perWord)

/-- Sidecar entries of an operand run of a scaled format, read with the words whose scales they hold (R56, R180, log entry
59). -/
def runSides (r : Run) (rate : Nat) : List (Nat × Bool × Nat × Nat) :=
  match r.eff with
  | none => []
  | some f =>
    if !f.scaled then []
    else (List.range r.rows).flatMap fun row => (List.range (cdiv r.cols f.perWord)).map fun j =>
      let c := j * f.perWord
      let tl := r.tileAt f (c / Run.rowLen f)
      let i := row * Run.rowLen f + c % Run.rowLen f
      let b := if r.tile.store = .w && r.orient = .kMajor then i / 1024 * 32 + i % 32 else i / 32
      (r.before f row c / rate, false, tl.store.num, (tileIx tl + b / 64) % 128)

/-- Store words of an operand. -/
def argReads (a : VArg) (rate : Nat) : List (Nat × Bool × Nat × Nat) :=
  match a with
  | .run r => runReads r rate
  | .row t d => [(0, false, t.store.num, tileIx t * slotWords t.store.num + 2 * d),
      (0, false, t.store.num, tileIx t * slotWords t.store.num + 2 * d + 1)]
  | .scalar _ => []

/-- Sidecar entries of an operand. -/
def argSides (a : VArg) (rate : Nat) : List (Nat × Bool × Nat × Nat) := match a with | .run r => runSides r rate | _ => []

/-- Elements of the operands that have been read once the element at a row and column of each has (R137). -/
def readBy (as : List VArg) (row c : Nat) : Nat :=
  as.foldl (fun m a => match a with
    | .run r => match r.eff with | some f => max m (r.before f row c + 1) | none => m
    | _ => m) 1

/-- Store words of an FP32 destination run: a word is written once the operand elements that complete it have passed. -/
def runWrites (as : List VArg) (dst : Tile) (rows cols rate extra : Nat) : List (Nat × Bool × Nat × Nat) :=
  (List.range rows).flatMap fun r => (List.range (cdiv cols 16)).map fun q =>
    let tl := tileStep dst (q / 2)
    ((readBy as r (min cols (16 * q + 16) - 1) - 1) / rate + 1 + extra, true, tl.store.num, tileIx tl * 64 + 2 * r + q % 2)

/-- Words of the vector engine as the issue rule sees them (R124, R138, R144, R394). -/
def vxSpec (sn k t : Nat) (w : CWord) (v : VxWord) : Spec where
  ownerBad := false
  regs := if v.invalid then [] else v.regs
  stampOf := []
  pre := if v.invalid then some (.fault (flt 0x1601 v.why)) else v.odd.map scaleFault
  late := none
  d := v.d
  run := fun st =>
    let c := t + v.d + v.extra
    let r := v.run st
    let st := (v.dsts.foldl (fun s tl => (s.setStamp (tileKey tl) c).at_ c (.showStat (tileKey tl))) r.1).vxElems k v.n
    let pc := (st.subq k .vx).lastPc
    let st := st.claim (portsOf k .vx pc t v.ports ++ sidesOf k .vx pc t v.sides)
    let h := if r.2 then st.poisonHit sn k else (st, [])
    (h.1.fly k .vx c w, h.2)

/-- The first E2M1 run in an odd slot among the operands. -/
def oddArg : List VArg → Option Tile
  | [] => none
  | .run r :: rest => if r.odd then some r.tile else oddArg rest
  | _ :: rest => oddArg rest

/-- A destination of FP32 results lies in the P or G store (R136). -/
def badDst (tl : Tile) : Bool := tl.store = .w || tl.store = .a

/-- Source registers of operands. -/
def argRegs (as : List VArg) : List (Tile × Bool) := as.flatMap fun a => a.tiles.map fun t => (t, true)

/-- A word whose results form an FP32 run of the operands' extent (VOP, VNORM.APPLY, VSMAX.APPLY, VSFN): `val` gives
the value at a row and column. -/
def mapWord (as : List VArg) (extraSrc : List Tile) (bad : Bool) (dst : Tile) (rate extra : Nat)
    (val : Stall → Nat → Nat → W32) : VxWord :=
  let e := (extentOf as).getD (0, 0)
  let n := e.1 * e.2
  let dsts := (List.range (cdiv e.2 32)).map (tileStep dst)
  { regs := argRegs as ++ extraSrc.map (fun t => (t, true)) ++ dsts.map (fun t => (t, false))
    invalid := bad || (extentOf as).isNone || as.any VArg.invalid || badDst dst
    why := if bad then 1 else if as.any VArg.invalid then 2 else if (extentOf as).isNone then 3 else 4
    odd := oddArg as
    n := n
    d := cdiv n rate
    extra := extra
    dsts := dsts
    ports := as.flatMap (argReads · rate) ++ runWrites as dst e.1 e.2 rate extra
    sides := as.flatMap (argSides · rate)
    run := fun st =>
      let rows := (List.range e.1).map fun r => (List.range e.2).map fun c => val st r c
      let p := as.any st.argPoison || extraSrc.any fun tl => (List.range 64).any fun i => (st.tword tl i).2
      let s := withSpecials (st.srcStat (as.flatMap VArg.tiles ++ extraSrc)) rows.flatten
      (dsts.foldl (fun s' tl => s'.carryStat (tileKey tl) s (e.1 = 32)) (st.putRun dst e.2 rows p), p) }

/-- A word whose results are row vectors written from row `d` of a P tile (VRED, VNORM.STAT, VSMAX.STAT): `val` gives
the values of a row, one for each row vector. -/
def rowWord (src : Run) (prev : Option (Tile × Nat)) (bad : Bool) (dst : Tile) (d nrow rate extra : Nat)
    (val : Stall → Nat → List W32 → List W32) : VxWord :=
  let n := src.rows * src.cols
  let pargs : List VArg := match prev with | some (t, r) => [.row t r, .row t (r + 1)] | none => []
  { regs := argRegs (.run src :: pargs.take 1) ++ [(dst, false)]
    invalid := bad || src.invalid || dst.store != .p || decide (31 < d + nrow - 1) || pargs.any VArg.invalid
    why := if bad then 1 else if src.invalid || pargs.any VArg.invalid then 2 else 4
    odd := oddArg [.run src]
    n := n
    d := cdiv n rate
    extra := extra
    dsts := [dst]
    ports := (VArg.run src :: pargs).flatMap (argReads · rate) ++ (List.range (2 * nrow)).map fun i =>
      (cdiv n rate + extra, true, 2, tileIx dst * 64 + 2 * d + i)
    sides := argSides (.run src) rate
    run := fun st =>
      let vals := (List.range src.rows).map fun r =>
        val st r ((List.range src.cols).map fun c => st.argElem (.run src) r c)
      let p := (VArg.run src :: pargs).any st.argPoison
      let s := withSpecials (st.srcStat (src.tilesOf ++ pargs.flatMap VArg.tiles)) vals.flatten
      let st := (List.range nrow).foldl (fun s' i => s'.putRow dst (d + i) (vals.map fun l => l.getD i 0#32) p) st
      (st.carryStat (tileKey dst) s false, p) }

/-- A VOP word (R139). -/
def vopWord (v : Vop) : VxWord :=
  mapWord v.args [] (v.kind = .reserved || v.args.length != v.kind.arity) v.dst 64 8 fun st r c =>
    let g (i : Nat) : W32 := match v.args[i]? with | some a => st.argElem a r c | none => 0#32
    vopVal v.kind v.k (g 0) (g 1) (g 2)

/-- A VRED word (R139, R140). -/
def vredWord (kind : VredKind) (src : Run) (dst : Tile) (d : Nat) : VxWord :=
  rowWord src none (kind = .reserved) dst d 1 64 14 fun _ _ row => [vredVal kind row]

/-- A VNORM.STAT word (R141). -/
def vnormStatWord (rms : Bool) (eps : W32) (src : Run) (dst : Tile) (d : Nat) : VxWord :=
  rowWord src none false dst d 2 64 30 fun _ _ row => let q := vnormStatVal rms eps row; [q.1, q.2]

/-- A VNORM.APPLY word (R141); the pair of VNORM.STAT lies in rows `d` and `d + 1` of `stat`. -/
def vnormApplyWord (src : Run) (stat : Tile) (d : Nat) (gamma beta : VArg) (dst : Tile) : VxWord :=
  let isRun (a : VArg) : Bool := match a with | .run _ => true | _ => false
  mapWord [.run src, .row stat d, .row stat (d + 1), gamma, beta] []
    (isRun gamma || isRun beta) dst 64 8 fun st r c =>
      vnormApplyVal (st.argElem (.run src) r c) (st.rowEntry stat d r) (st.rowEntry stat (d + 1) r)
        (st.argElem gamma r c) (st.argElem beta r c)

/-- A VSMAX.STAT word (R142). -/
def vsmaxStatWord (src : Run) (c : W32) (acc : Option (Tile × Nat)) (dst : Tile) (d : Nat) : VxWord :=
  rowWord src acc false dst d 2 16 24 fun st r row =>
    let cur := vsmaxStatVal c row
    let q := match acc with
      | some (tl, a) => vsmaxAcc c (st.rowEntry tl a r, st.rowEntry tl (a + 1) r) cur
      | none => cur
    [q.1, q.2]

/-- A VSMAX.APPLY word (R142). -/
def vsmaxApplyWord (src : Run) (c : W32) (stat : Tile) (d : Nat) (dst : Tile) : VxWord :=
  mapWord [.run src, .row stat d, .row stat (d + 1)] [] false dst 16 24 fun st r col =>
    vsmaxApplyVal (st.argElem (.run src) r col) (st.rowEntry stat d r) (st.rowEntry stat (d + 1) r) c

/-- A VSFN word (R143). -/
def vsfnWord (kind : SfnKind) (src : Run) (dst : Tile) : VxWord :=
  mapWord [.run src] [] (kind = .reserved) dst 16 16 fun st r c => vsfnVal kind (st.argElem (.run src) r c)

/-- Words of VSMAX and VSFN pass the special-function unit and count there (R159); the reciprocal roots of VNORM.STAT do not, and
GROUPIDX counts in neither counter (DESIGN CHOICE, log entry 72). -/
def sfnSpec (sn k t : Nat) (w : CWord) (v : VxWord) : Spec :=
  let s := vxSpec sn k t w v
  { s with run := fun st => let r := s.run st; (r.1.bump 0x6C8 v.n, r.2) }

/-! ### GROUPIDX (R157) -/

/-- A stable ascending sort by the first component. -/
def stableSort (l : List (Nat × Nat)) : List (Nat × Nat) := inOrder (·.1) l

/-- The tile registers that the words of a ring from pointer `ptr` on lie in, `n` words of them (R191). -/
def Stall.ringTiles (st : Stall) (r ptr n : Nat) : List Tile :=
  let c := st.ringCfg r
  ((List.range n).map fun i => tileOf c.store (c.addr (ptr + i / c.words) (i % c.words))).eraseDups

/-- A GROUPIDX word: sort the words of the records at the head of a ring by word_nnz. -/
def groupidxSpec (st : Stall) (sn k t : Nat) (w : CWord) (ring : BitVec 4) (count : Nat) (dst : Tile) : Spec :=
  let n := ring.toNat
  let bad := count = 0 || decide (8 < count) || dst.store != .a
  { ownerBad := !st.ringOwned n (st.jobSlot k).job
    regs := if bad then [] else (((List.range count).flatMap fun j => st.ringTiles n ((st.ring n).head + j) 1).eraseDups.map
      fun tl => (tl, true)) ++ [(dst, false)]
    stampOf := []
    pre := if bad then some (.fault (flt 0x1601 (if dst.store != .a then 4 else 5))) else none
    late := none
    d := 16
    run := fun st =>
      let cfg := st.ringCfg n
      let recs := (List.range count).map fun j => st.word cfg.store (cfg.addr ((st.ring n).head + j) 0)
      let keyed := (recs.zipIdx).flatMap fun q => (List.range 32).map fun x =>
        (bits q.1.1.toNat (8 * x + 7) (8 * x), 32 * q.2 + x)
      let bytes := (stableSort keyed).flatMap fun q => leBytes 2 q.2
      let p := recs.any (·.2)
      let st := (st.putWords 1 (tileIx dst * 32) (bytesLines count bytes) p).setStamp (tileKey dst) (t + 24)
      let st := st.claim (portsOf k .vx (st.subq k .vx).lastPc t
        ((List.range count).map (fun j => (j, false, cfg.store, cfg.addr ((st.ring n).head + j) 0))
          ++ (List.range count).map fun j => (24, true, 1, tileIx dst * 32 + j)))
      let h := if p then st.poisonHit sn k else (st, [])
      (h.1.fly k .vx (t + 24) w, h.2) }

end Sys2Proof.Machine
end

