-- ==== Sys2Proof/Machine/Pack.lean ====
section
/-! DEFINITION. The pack unit: narrowing into tile registers and packed forms (R146 to R154, R397), statistics records
(R145), and unpacking with its checks (R155, R156, R163). -/
namespace Sys2Proof.Machine

/-! ### Elements, extents and bit streams -/

/-- Elements of a tile in a format (R138). -/
def tileElems (f : Fmt) : Nat := 1024 * f.lanes

/-- Scale bytes of a packed tile (R151). -/
def scaleBytes (f : Fmt) : Nat := if f.scaled then 32 * f.lanes else 0

/-- Position along K and along the other axis of element `e` (R147). -/
def elemPos (f : Fmt) (stack : Bool) (e : Nat) : Nat × Nat :=
  if stack then (e / 32, e % 32) else (e % (32 * f.lanes), e / (32 * f.lanes))

/-- Does element `e` lie in the valid extent? -/
def inExtent (f : Fmt) (stack : Bool) (vk vmn e : Nat) : Bool :=
  let q := elemPos f stack e
  decide (q.1 < vk) && decide (q.2 < vmn)

/-- Scale block of element `e` (R56). -/
def scaleIx (stack : Bool) (e : Nat) : Nat := if stack then e / 1024 * 32 + e % 32 else e / 32

/-- The elements of scale block `b` in index order. -/
def blockElems (stack : Bool) (b : Nat) : List Nat :=
  (List.range 32).map fun j => if stack then (b / 32 * 32 + j) * 32 + b % 32 else 32 * b + j

/-- Is a narrowed code other than +0 and -0 (R149)? -/
def nonZeroCode (f : Fmt) (c : Nat) : Bool := if f = .int8 then c != 0 else c % 2 ^ (f.width - 1) != 0

/-- A bit stream of `w`-bit fields, first field lowest (R151). -/
def bitStream (w : Nat) (l : List Nat) : List Byte :=
  leBytes (cdiv (w * l.length) 8) (l.foldr (fun c a => a * 2 ^ w + c % 2 ^ w) 0)

/-- Field `i` of a bit stream. -/
def fieldAt (bs : List Byte) (w i : Nat) : Nat := leAt bs (w * i / 8) (w / 8 + 2) >>> (w * i % 8) % 2 ^ w

/-- Group size, kept elements and position width of a P2 pattern (R151, R153). -/
def p2Info (p : Nat) : Nat × Nat × Nat := if p = 0 then (4, 2, 2) else if p = 1 then (4, 1, 2) else (8, 4, 3)

/-- The groups of a tile in order of their first element, each a list of element indices (R151). -/
def p2Groups (f : Fmt) (stack : Bool) (g : Nat) : List (List Nat) :=
  (List.range (tileElems f / g)).map fun q => (List.range g).map fun i =>
    if stack then (q / 32 * g + i) * 32 + q % 32 else q * g + i

/-- Bytes of a packed tile with `n` non-zero elements or set sub-blocks, header included (R151). -/
def packedSize (f : Fmt) (pf pat n : Nat) : Nat :=
  let e := tileElems f
  let (g, k, w) := p2Info pat
  16 + upTo 16 (scaleBytes f +
    (if pf = 0 then e * f.width / 8
     else if pf = 1 then 32 + e / 8 + cdiv (n * f.width) 8
     else if pf = 2 then e / g * k * f.width / 8 + e / g * k * w / 8
     else 32 + 8 * n))

/-! ### Narrowing one tile (R147, R148) -/

/-- What a PACK forms before it is written. -/
structure Packed where
  codes : List Nat
  scales : List Nat
  poison : Bool
  fallback : Bool
  dropped : Nat
  flags : Nat
  amax : W32
  under : Nat
  nans : Nat
  infs : Nat
  record : Line
  bytes : List Byte

/-- Tile, word and entry of the source value of element `e` (R147). -/
def packAt (f : Fmt) (p : Pack) (e : Nat) : Tile × Nat × Nat :=
  let q := elemPos f p.stack e
  let (r, c) := if p.stack then (q.1 % 32, q.2) else (q.2, q.1 % 32)
  (tileStep p.src (q.1 / 32), 2 * r + c / 16, c % 16)

/-- The source word that element `e` is read from. -/
def Stall.packWord (st : Stall) (f : Fmt) (p : Pack) (e : Nat) : Line × Bool :=
  let q := packAt f p e
  st.tword q.1 q.2.1

/-- Source value of element `e` (R147). -/
def Stall.packSrc (st : Stall) (f : Fmt) (p : Pack) (e : Nat) : W32 :=
  (lineF32 (st.packWord f p e).1).getD (packAt f p e).2.2 0#32

/-- The kept elements of a group by pruning: the largest source magnitudes, lower positions first among equals
(R153). -/
def pruneKeep (mags : List Nat) (k : Nat) : List Nat :=
  ((stableSort (mags.zipIdx.map fun q => (2 ^ 32 - q.1, q.2))).take k).map (·.2)

/-- The kept positions of a group: its non-zero elements, filled with the lowest other positions (R153). -/
def keptPos (nz : List Bool) (k : Nat) : List Nat :=
  let n := nz.countP id
  let fill := ((List.range nz.length).filter fun i => !nz.getD i false).take (k - n)
  (List.range nz.length).filter fun i => nz.getD i false || fill.contains i

/-- Bin of the non-zero histogram (R145). -/
def nnzBin (w n : Nat) : Nat := if n = 0 then 0 else cdiv (7 * n) w

/-- Bin of the exponent histogram (R145). -/
def expBin (x : W32) : Nat :=
  let e := bits x.toNat 30 23
  if e ≤ 96 then 0 else if e ≤ 111 then 1 else if e ≤ 119 then 2 else if e ≤ 127 then 3 else if e ≤ 135 then 4 else 5

/-- Narrow a tile and form its statistics and packed form (R145 to R153). `ord` is the first stochastic ordinal and
`u` the logical position of R65. A P2 fill entry that stands at a -0 element stores that element's own code, and header bit 18
is 0 outside P2 (DESIGN CHOICE, log entry 72). -/
def Stall.packTile (st : Stall) (ctx : JobCtx) (u ord : Nat) (p : Pack) : Packed :=
  let f := (Fmt.ofCode p.fmtOut).getD .bf16
  let N := tileElems f
  let W := N / 32
  let srcTiles := (List.range f.lanes).map (tileStep p.src)
  let poison := (List.range N).any fun e => inExtent f p.stack p.validK p.validMn e && (st.packWord f p e).2
  let vals : List (Option W32) := (List.range N).map fun e =>
    if inExtent f p.stack p.validK p.validMn e then some (st.packSrc f p e) else none
  let valid := vals.filterMap id
  let val (e : Nat) : Option W32 := (vals[e]?).join
  let scales := if f.scaled then
    (List.range (32 * f.lanes)).map fun b => f.chooseScale p.safe ((blockElems p.stack b).filterMap val) else []
  let raw := vals.zipIdx.map fun q => match q.1 with
    | none => 0
    | some x =>
      let m : Rounding := if p.sr then .sr (r16 ctx.seed u ctx.step (ord + q.2)) else .rne
      if f.scaled then f.encodeScaled m (scales.getD (scaleIx p.stack q.2) 0x7F) x else f.encode32 m p.satMode x
  let (gs, kp, pw) := p2Info p.p2Pattern.toNat
  let p2 := p.packFmt = 2#4
  let groups := if p2 then p2Groups f p.stack gs else []
  let drop : List Nat := if p2 && p.p2Prune then groups.flatMap fun g =>
      let keep := pruneKeep (g.map fun e => match val e with | some x => x.toNat % 2 ^ 31 | none => 0) kp
      (g.zipIdx.filter fun q => !keep.contains q.2).map (·.1)
    else []
  let codes := drop.foldl (fun l e => lset l e 0) raw
  let dropped := drop.countP fun e => nonZeroCode f (raw.getD e 0)
  let nz := codes.map (nonZeroCode f)
  let wnnz := (List.range 32).map fun w => ((nz.drop (W * w)).take W).countP id
  let nnz := wnnz.sum
  let subs := (List.range (N / 8)).map fun b => ((nz.drop (8 * b)).take 8).any id
  let union := ((List.range (W / 8)).map fun b =>
    b2n ((List.range 32).any fun w => subs.getD (w * (W / 8) + b) false) * 2 ^ b).sum
  let nsub := subs.countP id
  let crowded := groups.any fun g => decide (kp < g.countP fun e => nz.getD e false)
  let pf := p.packFmt.toNat
  let fallback := p.ring && (if p2 then !p.p2Prune && crowded
    else pf != 0 && decide (packedSize f 0 0 0 < packedSize f pf 0 (if pf = 1 then nnz else nsub)))
  let pf := if fallback then 0 else pf
  let amax := f32 (amaxDy valid)
  let nans := valid.countP isNaN
  let infs := valid.countP isInf
  let hist := (List.range 6).map fun b => valid.countP fun x => !nonFinite x && !isZero32 x && expBin x = b
  let flags := bits (st.srcStat srcTiles ||| (4 * b2n (nans != 0) + 8 * b2n (infs != 0))) 4 0
  let rflags := flags + 32 * b2n poison + 64 * b2n fallback + 128 * b2n (dropped != 0)
  let record := bytesLine (wnnz.map (BitVec.ofNat 8 ·)
    ++ (List.range 8).map (fun b => BitVec.ofNat 8 (wnnz.countP fun n => nnzBin W n = b))
    ++ leBytes 2 union ++ leBytes 2 rflags ++ leBytes 4 amax.toNat ++ leBytes 2 nans ++ leBytes 2 infs
    ++ hist.flatMap (leBytes 2 ·))
  let w0 := pf + 16 * f.code + 256 * b2n p.stack + 512 * b2n fallback + 1024 * b2n poison + 2 ^ 11 * flags
    + (if pf = 2 then 2 ^ 16 * p.p2Pattern.toNat + 2 ^ 18 * b2n p.p2Prune else 0) + 2 ^ 19 * b2n (dropped != 0)
    + 2 ^ 20 + 2 ^ 24 * (p.validK - 1)
  let sc := scales.map (BitVec.ofNat 8 ·)
  let body := if pf = 0 then sc ++ bitStream f.width codes
    else if pf = 1 then sc ++ wnnz.map (BitVec.ofNat 8 ·) ++ bitStream 1 (nz.map b2n)
      ++ bitStream f.width (codes.filter (nonZeroCode f))
    else if pf = 2 then
      let kept := groups.map fun g => (g, keptPos (g.map fun e => nz.getD e false) kp)
      sc ++ bitStream f.width (kept.flatMap fun q => q.2.map fun i => codes.getD (q.1.getD i 0) 0)
        ++ bitStream pw (kept.flatMap (·.2))
    else sc ++ bitStream 1 (subs.map b2n) ++ (List.range (N / 8)).flatMap fun b =>
      if subs.getD b false then ((codes.drop (8 * b)).take 8).map (BitVec.ofNat 8 ·) else []
  let body := padTo 16 body
  let w1 := body.length + 2 ^ 12 * nnz + 2 ^ 25 * (p.validMn - 1)
  let head := leBytes 4 w0 ++ leBytes 4 w1 ++ leBytes 4 amax.toNat ++ leBytes 2 union
  { codes, scales, poison, fallback, dropped, flags, amax, nans, infs, record
    under := hist.headD 0
    bytes := head ++ leBytes 2 (check16 head).toNat ++ body }

/-! ### Writing a tile and a ring -/

/-- Write narrowed codes into a tile register and its scales into its sidecar entry (R53 to R57, R148). -/
def Stall.putTile (st : Stall) (tl : Tile) (f : Fmt) (codes scales : List Nat) (poison : Bool) : Stall :=
  let ws := (List.range 32).map fun w => codesLine f ((codes.drop (w * f.perWord)).take f.perWord)
  let st := st.putWords tl.store.num (tileIx tl * slotWords tl.store.num) ws poison
  if scales.isEmpty then st
  else
    let sc := scales.map (BitVec.ofNat 8 ·)
    let st := st.putSide tl.store.num (tileIx tl) (bytesLine (sc.take 64)) poison
    if 64 < sc.length then st.putSide tl.store.num (tileIx tl + 1) (bytesLine (sc.drop 64)) poison else st

/-- Sidecar entries that a narrow tile's writes fill, each with the last element whose scale it holds (R56, R180, log entry 59). -/
def tileSides (tl : Tile) (f : Fmt) : List (Nat × Bool × Nat × Nat) :=
  if !f.scaled then []
  else (List.range (runStep f)).map fun j =>
    ((min (tileElems f) (2048 * (j + 1)) - 1) / 64 + 9, true, tl.store.num, (tileIx tl + j) % 128)

/-- Slots by which words in flight and transfers will advance ring `n`'s tail. -/
def Stall.pendingTail (st : Stall) (n : Nat) : Nat :=
  (st.flight.map fun x => (x.tails.filter fun q => q.ring = n).map (·.n) |>.sum).sum
    + (st.tags.map fun x => match x.2.tail with | some (r, c) => if r = n then c else 0 | none => 0).sum

/-- Pointer of the first slot that nothing filled, held or in flight occupies. -/
def Stall.ringEnd (st : Stall) (n : Nat) : Nat := (st.ring n).tail + (st.ring n).held + st.pendingTail n

/-- Store and address of word `i` of a ring from pointer `ptr` on (R191, R193). -/
def RingCfg.wordAt (c : RingCfg) (ptr i : Nat) : Nat × Nat := (c.store, c.addr (ptr + i / c.words) (i % c.words))

/-- Accesses of `n` ring words from pointer `ptr` on, spread over `d` ticks from `lo` ticks after issue (R154, R155, log entry
59). -/
def ringPorts (c : RingCfg) (write : Bool) (ptr n lo d : Nat) : List (Nat × Bool × Nat × Nat) :=
  (List.range n).map fun i => (lo + i * d / n, write, c.wordAt ptr i)

/-- The stamps of the tile registers in which `n` ring words from pointer `ptr` on lie rise to `c` (R121, R154). -/
def Stall.ringStamps (st : Stall) (r ptr n c : Nat) : Stall :=
  (st.ringTiles r ptr n).foldl (fun s tl => s.setStamp (tileKey tl) c) st

/-- `n` bytes of a ring from pointer `ptr` on, and whether a word of them is poisoned. -/
def Stall.ringBytes (st : Stall) (n ptr len : Nat) : List Byte × Bool :=
  let cfg := st.ringCfg n
  let ws := (List.range (cdiv len 64)).map fun i => st.word cfg.store (cfg.addr (ptr + i / cfg.words) (i % cfg.words))
  ((ws.flatMap fun w => lineBytes w.1).take len, ws.any (·.2))

/-! ### PACK -/

/-- The field of a PACK word that is out of range (R146, R158, R397), as ENG_FAULT_AUX numbers it (log entry 61): 1 src, 2
fmt_out, 3 valid_k, 4 valid_mn, 5 pack_fmt, 6 form, 7 dst, 8 p2_pattern, 9 the plausibility bound; 0 for none. -/
def packField (p : Pack) : Nat :=
  match Fmt.ofCode p.fmtOut with
  | none => 2
  | some f =>
    if p.src.store != .p && p.src.store != .g then 1
    else if f = .fp32 then 2
    else if p.validK = 0 || decide (32 * f.lanes < p.validK) then 3
    else if p.validMn = 0 || decide (32 < p.validMn) then 4
    else if decide (3 < p.packFmt.toNat) || (p.packFmt = 3#4 && f != .e4m3 && f != .e5m2) then 5
    else if !p.ring && p.packFmt != 0#4 then 6
    else if !p.ring && p.dst.store != .w && p.dst.store != .a then 7
    else if p.p2Pattern = 3#2 then 8
    else if p.plausEn && (p.amaxExp = 0#8 || p.amaxExp = 255#8) then 9
    else 0

/-- A field of a PACK word out of range. -/
def packBad (p : Pack) : Bool :=
  packField p != 0

/-- The failed plausibility checks of R397, with the tile's amax: the event's aux (R398). -/
def plausAux (p : Pack) (q : Packed) : Option Nat :=
  let lim : Dy := ⟨false, 1, (p.amaxExp.toNat : Int) - 127⟩
  let m := b2n (!(dy32 q.amax).lt lim) + 2 * b2n (q.nans != 0 && !p.nanOk) + 4 * b2n (q.infs != 0 && !p.infOk)
    + 8 * b2n (bit q.flags 0 && !p.satOk) + 16 * b2n (decide (p.underMax.toNat < q.under))
  if p.plausEn && m != 0 then some (m + 32 * q.amax.toNat) else none

/-- Logical position of a stall of the job, as R65 packs it: pitch in 23:16, logical stall in 15:0. -/
def JobCtx.logical (ctx : JobCtx) (sn : Nat) : Nat :=
  match placeAt ctx.place sn with
  | some (p, l) => p % 256 * 65536 + l % 65536
  | none => 0

/-- The effect of a PACK at its issue. -/
def Stall.packRun (st : Stall) (sn k t : Nat) (ctx : JobCtx) (w : CWord) (p : Pack) : Stall × List Eff :=
  let f := (Fmt.ofCode p.fmtOut).getD .bf16
  let N := tileElems f
  let c := t + N / 64 + 8
  let s := st.slotSt k
  let q := st.packTile ctx (ctx.logical sn) s.srOrd p
  let st := (st.setSlot k { s with srOrd := s.srOrd + N }).vxElems k N
  let st := ((st.bump 0x6D0 1).bump 0x6D8 (b2n q.fallback)).bump 0x6E0 q.dropped
  let dn := p.dstRing.toNat
  let n := cdiv q.bytes.length (st.ringCfg dn).slotBytes
  let words := bytesLines (cdiv q.bytes.length 64) q.bytes
  let dsts : List RingPut := if p.ring then [⟨dn, st.ringEnd dn, n, words, q.poison⟩] else []
  let stats : List RingPut := match p.statRing with
    | some r => [⟨r.toNat, st.ringEnd r.toNat + (if p.ring && r = p.dstRing then n else 0), 1, [q.record], q.poison⟩]
    | none => []
  let st := if p.ring then (st.bump 0x6E8 q.bytes.length).bump 0x6F0 (packedSize f 0 0 0)
    else (st.putTile p.dst f q.codes q.scales q.poison).setStamp (tileKey p.dst) c
  let tails := dsts ++ stats
  let st := tails.foldl (fun (s : Stall) x => s.ringStamps x.ring x.ptr x.words.length c) st
  let reads := (List.range N).filterMap fun e =>
    if e % 16 = 0 && inExtent f p.stack p.validK p.validMn e then
      let x := packAt f p e
      some (e / 64, false, x.1.store.num, tileIx x.1 * 64 + x.2.1)
    else none
  let writes := if p.ring then [] else (List.range 32).map fun i =>
    (((i + 1) * f.perWord - 1) / 64 + 9, true, p.dst.store.num, tileIx p.dst * slotWords p.dst.store.num + i)
  let rings := dsts.flatMap (fun x => ringPorts (st.ringCfg x.ring) true x.ptr x.words.length 9 (N / 64))
    ++ stats.flatMap fun x => ringPorts (st.ringCfg x.ring) true x.ptr 1 (c - t) 1
  let pc := (st.subq k .vx).lastPc
  let st := st.claim (portsOf k .vx pc t (reads ++ writes ++ rings)
    ++ (if p.ring then [] else sidesOf k .vx pc t (tileSides p.dst f)))
  let h := if q.poison then st.poisonHit sn k else (st, [])
  ({ h.1 with flight := h.1.flight ++
      [⟨.vx, k, (h.1.jobSlot k).job, (h.1.slotSt k).step, pc, t, c, w.common, [], tails, plausAux p q, none⟩] }, h.2)

/-- Free slots of a ring that no word in flight and no transfer has yet to fill (R154, R193). -/
def Stall.roomIn (st : Stall) (n : Nat) : Nat := (st.ring n).free (st.ringCfg n).size - st.pendingTail n

/-- A PACK word (R146, R154). ENG_FAULT_AUX of PACK_RING_FULL holds the ring's number (DESIGN CHOICE, log entry 61). -/
def packSpec (st : Stall) (sn k t : Nat) (ctx : JobCtx) (w : CWord) (p : Pack) : Spec :=
  let f := (Fmt.ofCode p.fmtOut).getD .bf16
  let job := (st.jobSlot k).job
  let dn := p.dstRing.toNat
  let full : Option Nat :=
    let need := cdiv (packedSize f 0 0 0) (st.ringCfg dn).slotBytes
    if p.ring && decide (st.roomIn dn < need) then some dn
    else match p.statRing with
      | some r => if st.roomIn r.toNat ≤ (if p.ring && r = p.dstRing then need else 0) then some r.toNat else none
      | none => none
  let ringRegs (r n : Nat) : List (Tile × Bool) := (st.ringTiles r (st.ringEnd r) n).map fun tl => (tl, false)
  { ownerBad := (p.ring && !st.ringOwned dn job)
      || (match p.statRing with | some r => !st.ringOwned r.toNat job | none => false)
    regs := if packBad p then [] else ((List.range f.lanes).map fun i => (tileStep p.src i, true))
      ++ (if p.ring then ringRegs dn (cdiv (packedSize f 0 0 0) 64) else [(p.dst, false)])
      ++ (match p.statRing with | some r => ringRegs r.toNat 1 | none => [])
    stampOf := []
    pre := if packBad p then some (.fault (flt 0x1601 (packField p)))
      else if !p.ring && f = .e2m1 && p.dst.slot % 2 = 1 then some (scaleFault p.dst) else none
    late := full.map fun r => .fault (flt 0x1602 r)
    d := tileElems f / 64
    run := fun st => st.packRun sn k t ctx w p }

/-! ### UNPACK (R155, R156, R163) -/

/-- The fields of a packed tile's header (R150). -/
structure PackHdr where
  pf : Nat
  fmt : Fmt
  stack : Bool
  poison : Bool
  pat : Nat
  vk : Nat
  plen : Nat
  nnz : Nat
  vmn : Nat

/-- A header's fields. -/
def hdrFields (b : List Byte) : PackHdr :=
  let w0 := leAt b 0 4
  let w1 := leAt b 4 4
  ⟨bits w0 3 0, (Fmt.ofCode (BitVec.ofNat 4 (bits w0 7 4))).getD .fp32, bit w0 8, bit w0 10, bits w0 17 16, bits w0 30 24 + 1,
    bits w1 11 0, bits w1 24 12, bits w1 29 25 + 1⟩

/-- The check of R156 that a header fails, as ENG_FAULT_AUX numbers it (R158, log entry 61): 1 hdr_check, 2 version, 3 a
reserved encoding, 4 elem_fmt, 5 payload_len; 0 for none. -/
def hdrFails (b : List Byte) : Nat :=
  let h := hdrFields b
  if (check16 (b.take 14)).toNat != leAt b 14 2 then 1
  else if bits (leAt b 0 4) 23 20 != 1 then 2
  else if decide (3 < h.pf) || h.pat = 3 || h.fmt = .fp32 then 3
  else if h.pf = 3 && h.fmt != .e4m3 && h.fmt != .e5m2 then 4
  else if (if h.pf = 3 then decide (2112 < h.plen) else h.plen != packedSize h.fmt h.pf h.pat h.nnz - 16) then 5
  else 0

/-- A header that passes the checks of R156. -/
def readHdr (b : List Byte) : Option PackHdr := if hdrFails b = 0 then some (hdrFields b) else none

/-- A tile read from a payload: codes, scales, kept elements by group with their positions, and the first failed
check of R156 (0 none). -/
structure Unpacked where
  codes : List Nat
  scales : List Nat
  kept : List (List (Nat × Nat))
  bad : Nat

/-- Read a payload under its header (R151, R156). -/
def readPayload (h : PackHdr) (b : List Byte) : Unpacked :=
  let f := h.fmt
  let N := tileElems f
  let W := N / 32
  let S := scaleBytes f
  let scales := (b.take S).map (·.toNat)
  let b := b.drop S
  let ok (e : Nat) : Bool := inExtent f h.stack h.vk h.vmn e
  if h.pf = 0 then ⟨(List.range N).map (fieldAt b f.width), scales, [], 0⟩
  else if h.pf = 1 then
    let wn := (b.take 32).map (·.toNat)
    let map := (List.range N).map fun e => decide (fieldAt (b.drop 32) 1 e = 1)
    let data := b.drop (32 + N / 8)
    let codes := (map.foldl (fun (a : List Nat × Nat) s =>
      if s then (fieldAt data f.width a.2 :: a.1, a.2 + 1) else (0 :: a.1, a.2)) ([], 0)).1.reverse
    let bad := if (List.range 32).any (fun w => wn.getD w 0 != ((map.drop (W * w)).take W).countP id) then 1
      else if map.countP id != h.nnz then 2
      else if (List.range N).any (fun e => map.getD e false && !ok e) then 3 else 0
    ⟨codes, scales, [], bad⟩
  else if h.pf = 2 then
    let (gs, kp, pw) := p2Info h.pat
    let groups := p2Groups f h.stack gs
    let pos := b.drop (N / gs * kp * f.width / 8)
    let kept := groups.zipIdx.map fun q => (List.range kp).map fun i =>
      (fieldAt pos pw (q.2 * kp + i), fieldAt b f.width (q.2 * kp + i))
    let codes := (groups.zip kept).foldl (fun l q => q.2.foldl (fun l x => lset l (q.1.getD x.1 0) x.2) l)
      (List.replicate N 0)
    let asc := kept.all fun g => (List.range (kp - 1)).all fun i =>
      decide ((g.getD i (0, 0)).1 < (g.getD (i + 1) (0, 0)).1)
    let out := (groups.zip kept).any fun q => q.2.any fun x => nonZeroCode f x.2 && !ok (q.1.getD x.1 0)
    ⟨codes, scales, kept, if !asc then 4 else if out then 5 else 0⟩
  else
    let map := (List.range (N / 8)).map fun s => decide (fieldAt b 1 s = 1)
    let data := b.drop 32
    let codes := (map.foldl (fun (a : List (List Nat) × Nat) s =>
      if s then (((data.drop (8 * a.2)).take 8 ++ List.replicate 8 0#8).take 8 |>.map (·.toNat)) :: a.1 |> (·, a.2 + 1)
      else (List.replicate 8 0 :: a.1, a.2)) ([], 0)).1.reverse.flatten
    let bad := if (List.range (N / 8)).any (fun s => map.getD s false && !(List.range 8).any fun i => ok (8 * s + i)) then 6
      else if packedSize f 3 0 (map.countP id) - 16 != h.plen then 7 else 0
    ⟨codes, scales, [], bad⟩

/-- Header and ring slots of the packed tile at pointer `ptr` of a ring (R155). -/
def Stall.packedAt (st : Stall) (n ptr : Nat) : Option (PackHdr × Nat) :=
  match readHdr (st.ringBytes n ptr 16).1 with
  | some h => some (h, cdiv (16 + h.plen) (st.ringCfg n).slotBytes)
  | none => none

/-- Kept rows of a structured half: row `j`, column `n` holds (position in its group, code) (R163). -/
def keptRows (pat : Nat) (u : Unpacked) : List (List (Nat × Nat)) :=
  let kp := if pat = 2 then 4 else 2
  let full := u.kept.map fun g =>
    if pat = 1 then
      let (p, c) := g.headD (0, 0)
      if p = 0 then [(0, c), (1, 0)] else [(0, 0), (p, c)]
    else g
  (List.range (u.kept.length / 32 * kp)).map fun j => (List.range 32).map fun n =>
    ((full.getD (j / kp * 32 + n) []).getD (j % kp) (0, 0))

/-- Write a kept tile and its meta tile from two packed tiles (R161 to R163). -/
def Stall.putStruct (st : Stall) (dst f pat : Nat) (fmt : Fmt) (a b : Unpacked) (poison : Bool) : Stall :=
  let rows := keptRows pat a ++ keptRows pat b
  let kept := rows.flatten
  let ws := (List.range 32).map fun w => codesLine fmt (((kept.drop (w * fmt.perWord)).take fmt.perWord).map (·.2))
  let st := st.putWords 0 (dst % 128 * 32) ws poison
  let meta' := ((a.scales ++ b.scales).map (BitVec.ofNat 8 ·) ++ List.replicate 256 0#8).take 256
    ++ bitStream f (kept.map (·.1))
  st.putWords 0 ((dst + 1) % 128 * 32) (bytesLines 32 (meta' ++ List.replicate 2048 0#8)) poison

/-- The effect of an UNPACK at its issue. -/
def Stall.unpackRun (st : Stall) (k t : Nat) (w : CWord) (u : Unpack) (h : PackHdr) (n1 : Nat)
    (second : Option (PackHdr × Nat)) : Stall × List Eff :=
  let n := u.ring.toNat
  let ptr := (st.ring n).head
  let c := t + tileElems h.fmt * (if u.struct then 2 else 1) / 64 + 8
  let r1 := st.ringBytes n ptr (16 + h.plen)
  let x := readPayload h (r1.1.drop 16)
  let (st, adv, bad, cnt) := match second with
    | some (h2, n2) =>
      let r2 := st.ringBytes n (ptr + n1) (16 + h2.plen)
      let y := readPayload h2 (r2.1.drop 16)
      let bad := if x.bad != 0 then x.bad else y.bad
      let p := h.poison || h2.poison || r1.2 || r2.2 || bad != 0
      (((st.putStruct u.dst.slot (p2Info h.pat).2.2 h.pat h.fmt x y p).setStamp (tileKey u.dst) c).setStamp
        (tileKey (tileStep u.dst 1)) c, n1 + n2, bad, 2)
    | none =>
      ((st.putTile u.dst h.fmt x.codes x.scales (h.poison || r1.2 || x.bad != 0)).setStamp (tileKey u.dst) c,
        n1, x.bad, 1)
  let cfg := st.ringCfg n
  let half := tileElems h.fmt / 64
  let pc := (st.subq k .vx).lastPc
  let st := (st.vxElems k (tileElems h.fmt * cnt)).claim (portsOf k .vx pc t
    (ringPorts cfg false ptr (cdiv (16 + h.plen) 64) 0 half
      ++ (match second with | some (h2, _) => ringPorts cfg false (ptr + n1) (cdiv (16 + h2.plen) 64) half half | none => [])
      ++ (List.range (32 * cnt)).map fun i =>
        (((i + 1) * h.fmt.perWord - 1) / 64 + 9, true, u.dst.store.num,
          tileIx (tileStep u.dst (i / 32)) * slotWords u.dst.store.num + i % 32))
    ++ (if cnt = 1 then sidesOf k .vx pc t (tileSides u.dst h.fmt) else []))
  ({ st with flight := st.flight ++
      [⟨.vx, k, (st.jobSlot k).job, (st.slotSt k).step, pc, t, c, w.common, if u.consume then [(n, adv)] else [], [], none,
        if bad = 0 then none else some (tileKey u.dst * 256 + 8 * cnt + bad)⟩] }, [])

/-- An UNPACK word (R155, R156, R163). -/
def unpackSpec (st : Stall) (k t : Nat) (w : CWord) (u : Unpack) : Spec :=
  let n := u.ring.toNat
  let field := if u.dst.store != .w && u.dst.store != .a then 1 else if u.struct && u.dst.store != .w then 2
    else if u.consume && w.common.popCount != 0#8 then 3 else 0
  let badField := field != 0
  let first := st.packedAt n (st.ring n).head
  let second := match first with
    | some (_, n1) => if u.struct then st.packedAt n ((st.ring n).head + n1) else none
    | none => none
  let odd (h : PackHdr) : Bool := h.fmt = .e2m1 && u.dst.slot % 2 = 1
  let hd := (st.ring n).head
  let srcs := match first with
    | none => st.ringTiles n hd 1
    | some (h, n1) => (st.ringTiles n hd (cdiv (16 + h.plen) 64) ++ (if !u.struct then [] else match second with
        | some (h2, _) => st.ringTiles n (hd + n1) (cdiv (16 + h2.plen) 64)
        | none => st.ringTiles n (hd + n1) 1)).eraseDups
  let check : Option Verdict := match first with
    | none => some (.fault (flt 0x1603 (hdrFails (st.ringBytes n (st.ring n).head 16).1)))
    | some (h, n1) =>
      if u.struct then match second with
        | none => some (.fault (flt 0x1603 (8 + hdrFails (st.ringBytes n ((st.ring n).head + n1) 16).1)))
        | some (h2, _) =>
          if h.pf != 2 || h2.pf != 2 || !h.stack || !h2.stack || h.fmt != h2.fmt || h.pat != h2.pat then
            some (.fault (flt 0x1601 4))
          else if odd h then some (scaleFault u.dst) else none
      else if odd h then some (scaleFault u.dst) else none
  { ownerBad := !st.ringOwned n (st.jobSlot k).job
    regs := if badField then [] else (srcs.map fun tl => (tl, true)) ++ (u.dst, false) ::
      (if u.struct then [(tileStep u.dst 1, false)] else [])
    stampOf := []
    pre := if badField then some (.fault (flt 0x1601 field)) else none
    late := check
    d := match first with | some (h, _) => tileElems h.fmt * (if u.struct then 2 else 1) / 64 | none => 1
    run := fun st => match first with
      | some (h, n1) => st.unpackRun k t w u h n1 second
      | none => (st, []) }

end Sys2Proof.Machine
end

