-- ==== Sys2Proof/Machine/Porter.lean ====
section
/-! DEFINITION. Porters in the stall: the words GET, PUT, GATHER and AHEAD (R249 to R251, R256 to R260, R299), what their
transfers assemble, their completion and their end by a fault (R247, R254, R257, R259), and why a consumer waited
(R265). -/
namespace Sys2Proof.Machine

/-! ### Shapes of a transfer -/

/-- Bytes of a tensor block in a format (R249). -/
def blockBytes (f : Fmt) : Nat := 2048 / f.lanes

/-- Tensor blocks that a porter builds a tile from (R250): R68's number, and 1 for INT8, as for BF16 (log entry 63). -/
def tileBlocks (f : Fmt) : Nat := if f = .int8 then 1 else f.lanes

/-- First address of the gradient window (R317). -/
def gradWindow : Nat := 0xF00 * 2 ^ 32

/-- Is a virtual address in the gradient window? -/
def inWindow (va : Nat) : Bool := decide (gradWindow ≤ va) && decide (va < 2 ^ 44)

/-- Bytes that a word moves to or from its target (R256). -/
def porterLen (k : PtKind) (p : Porter) : Nat :=
  if k = .gather || (k = .put && p.index.isSome) then p.rows * p.rowLen else p.len

/-- Does the word move rows by ordinal (R256)? -/
def byRows (k : PtKind) (p : Porter) : Bool := k = .gather || (k = .put && p.index.isSome)

/-- Format of a tile mode. -/
def porterFmt (p : Porter) : Fmt := (Fmt.ofCode p.fmt).getD .bf16

/-- A field out of range or in a forbidden combination (R256). -/
def porterBad (k : PtKind) (p : Porter) : Bool :=
  let isRing := match p.target with | .ring _ => true | _ => false
  let word := match p.target with | .tile _ w => w | _ => 0
  let sw := match p.target with | .tile t _ => slotWords t.store.num | _ => 64
  let narrow := match p.target with | .tile t _ => t.store = .w || t.store = .a | _ => true
  let S := blockBytes (porterFmt p)
  p.va.toNat % 64 != 0 || decide (sw ≤ word)
    || (if byRows k p then
          p.index.isNone || decide (127 < p.index.getD 0) || decide (p.rowLen < 64) || decide (2048 < p.rowLen)
            || p.rowStride % 64 != 0 || p.rows = 0 || decide (256 < p.rows) || decide (16384 < p.rows * p.rowLen)
            || (k = .put && (p.frame || p.mode = .reserved || (p.mode != .linear && (isRing || word != 0))))
        else match p.mode with
          | .reserved => true
          | .linear => p.len = 0 || decide (16384 < p.len) || p.len % 64 != 0
              || (p.frame && (narrow || p.len % 4160 != 0))
          | m => p.frame || isRing || word != 0 || p.tiles = 0 || decide (8 < p.tiles)
              || (match Fmt.ofCode p.fmt with | none => true | some f => f = .fp32)
              || p.tstride % S != 0 || (m = .stack && p.bstride % S != 0))

/-- An E2M1 tile target in an odd slot (R57, R256). A PUT by ordinal takes its rows from consecutive words whatever its mode says
and ignores fmt, so that it raises none here (DESIGN CHOICE, log entry 29). -/
def porterOdd (k : PtKind) (p : Porter) : Option Tile :=
  match p.target with
  | .tile t _ => if !byRows k p && p.mode != .linear && p.fmt = 6#4 && t.slot % 2 = 1 then some t else none
  | .ring _ => none

/-- Store and address of the `i`-th word of the target or source: a ring from pointer `ptr`. -/
def Stall.targetWord (st : Stall) (p : Porter) (ptr i : Nat) : Nat × Nat :=
  match p.target with
  | .tile t w => (t.store.num, (tileIx t * slotWords t.store.num + w + i) % storeWords t.store.num)
  | .ring n => let c := st.ringCfg n.toNat; (c.store, c.addr (ptr + i / c.words) (i % c.words))

/-- Runs of a tile of a tile mode (R250): elements, then scale entries. -/
def tileRuns (p : Porter) (f : Fmt) (n : Nat) : List PRun :=
  match p.target with
  | .ring _ => []
  | .tile t0 _ =>
    let P := tileBlocks f
    let S := blockBytes f
    let bs := if p.mode = .stack then p.bstride else S
    let t := tileStep t0 (if f = .e2m1 then 2 * n else n)
    let s := t.store.num
    let base := tileIx t * slotWords s
    let rowB := 64 / P
    (List.range P).flatMap fun b =>
      let va := p.va.toNat + n * p.tstride + b * bs
      let sva := p.sva.toNat + (n * p.tstride + b * bs) * 32 / S
      let elems := (List.range (S / 64)).flatMap fun i =>
        if p.mode = .stack then [(⟨va + 64 * i, 64, .word s (base + b * (32 / P) + i), 0⟩ : PRun)]
        else (List.range P).map fun j => ⟨va + 64 * i + rowB * j, rowB, .word s (base + P * i + j), rowB * b⟩
      let scales := if !f.scaled || 2 ≤ s then []
        else if p.mode = .stack then [(⟨sva, 32, .side s (tileIx t + b / 2), 32 * (b % 2)⟩ : PRun)]
        else (List.range 32).map fun x => ⟨sva + x, 1, .side s (tileIx t + (x * P + b) / 64), (x * P + b) % 64⟩
      elems ++ scales

/-- Number of a place among those of a stall. -/
def Place.id : Place → Nat
  | .word s a => s * 4096 + a
  | .side s n => sideKey s n
  | .status k => 2 ^ 21 + k
  | .none => 2 ^ 22

/-- Bank whose port a place needs (R178, R180). -/
def Place.bank : Place → Nat
  | .word s a => bankOf s a
  | .side s n => sideBank s n
  | .status k => pairOf (k / 128) (k % 128)
  | .none => 0

/-- The index words of a transfer by ordinal (R256), in the A-store. -/
def indexPlaces (p : Porter) : List Place :=
  (List.range (cdiv p.rows 32)).map fun i => .word 1 (p.index.getD 0 % 128 * 32 + i)

/-- The byte runs of a transfer by ordinal, in order, once its index words have been read (R256). -/
def Stall.rowRuns (st : Stall) (x : Transfer) (p : Porter) (ptr : Nat) : List PRun :=
  let w (i : Nat) : Place := let a := st.targetWord p ptr i; .word a.1 a.2
  let ordAt (i : Nat) : Nat :=
    bits (sgetD x.reads (Place.word 1 (p.index.getD 0 % 128 * 32 + i / 32)).id (0#512, false)).1.toNat (16 * (i % 32) + 15) (16 * (i % 32))
  let L := p.rowLen
  (List.range p.rows).flatMap fun i => (List.range (cdiv ((i + 1) * L) 64 - i * L / 64)).map fun q =>
    let j := i * L / 64 + q
    let lo := max (i * L) (64 * j)
    ⟨p.va.toNat + ordAt i * p.rowStride + (lo - i * L), min ((i + 1) * L) (64 * j + 64) - lo, w j, lo - 64 * j⟩

/-- The byte runs of a transfer by address, in order (R250, R251, R256). -/
def Stall.porterRuns (st : Stall) (p : Porter) (ptr : Nat) : List PRun :=
  let w (i : Nat) : Place := let a := st.targetWord p ptr i; .word a.1 a.2
  if p.mode = .linear then
    if p.frame then
      (List.range (p.len / 4160)).flatMap fun j =>
        ((List.range 64).map fun i => (⟨p.va.toNat + 4160 * j + 64 * i, 64, w (64 * j + i), 0⟩ : PRun)) ++
          (let a := st.targetWord p ptr (64 * j)
           [⟨p.va.toNat + 4160 * j + 4096, 64, .status (a.1 * 128 + a.2 / 64), 0⟩])
    else (List.range (p.len / 64)).map fun i => ⟨p.va.toNat + 64 * i, 64, w i, 0⟩
  else (List.range p.tiles).flatMap (tileRuns p (porterFmt p))

/-- Lines that a run touches. -/
def PRun.lines (r : PRun) : List Nat :=
  let a := r.va / 64 * 64
  if r.va + r.n ≤ a + 64 then [a] else [a, a + 64]

/-- Distinct memory blocks of the runs, in order, with their translation `tr` (cause, physical address). -/
def runBlocks (runs : List PRun) (tr : Nat → Nat × Nat) : List PBlock :=
  (runs.foldl (fun (acc : List Nat) r => r.lines.foldl (fun a v => if a.contains v then a else v :: a) acc) []).reverse.map
    fun v => let q := tr v; ⟨v, q.2, q.1, none, false, false, 0, false, 0#512, false⟩

/-- The tile registers of a word, in operand order, with their source mark (R123, R187). -/
def porterRegs (st : Stall) (k : PtKind) (p : Porter) : List (Tile × Bool) :=
  let src := k = .put
  let ix := if byRows k p then [((⟨.a, p.index.getD 0⟩, true) : Tile × Bool)] else []
  let tgt := match p.target with
    | .ring n =>
      (st.ringTiles n.toNat (if src then (st.ring n.toNat).head else st.ringEnd n.toNat) (cdiv (porterLen k p) 64)).map fun x => (x, src)
    | .tile t w =>
      if !byRows k p && p.mode != .linear then
        (List.range p.tiles).map fun n => (tileStep t (if p.fmt = 6#4 then 2 * n else n), src)
      else
        let n := if p.frame && !byRows k p then p.len / 65 else cdiv (porterLen k p) 64
        (srcTiles t w (max n 1)).map fun x => (x, src)
  ix ++ tgt

/-! ### Requests, arrivals and assembly -/

/-- The transfer of a tag. -/
def Stall.setTag (st : Stall) (tag : Nat) (x : Transfer) : Stall := { st with tags := sset st.tags tag x }

/-- Blocks requested and not landed. -/
def Transfer.inFlight (x : Transfer) : Nat := x.blocks.countP fun b => b.requested && !b.landed

/-- Request further blocks while fewer than 64 are in flight; the transfer stops at its first faulting block (R254,
R257). The answer lists the blocks requested now and the fault, if one is met. -/
def Transfer.request (x : Transfer) : Nat → Transfer × List Nat × Option PBlock
  | 0 => (x, [], none)
  | fuel + 1 =>
    if x.faulted || 64 ≤ x.inFlight then (x, [], none)
    else match lfind (fun b => !b.requested) x.blocks 0 with
      | none => (x, [], none)
      | some (i, b) =>
        if b.cause ≠ 0 then ({ x with faulted := true }, [], some b)
        else
          let r := { x with blocks := lset x.blocks i { b with requested := true } }.request fuel
          (r.1, i :: r.2.1, r.2.2)

/-- Does a place hold a store row, which a PUT reads as a stealer? A tile status word is no row. -/
def Place.row : Place → Bool
  | .word _ _ => true
  | .side _ _ => true
  | _ => false

/-- Places of the runs that `f` picks, without those of `known` or repeats. -/
def Transfer.places (x : Transfer) (known : List Nat) (f : PRun → Bool) : List Place :=
  (x.runs.filter f).foldl (fun (acc : List Place) r =>
    if known.contains r.place.id || acc.any (fun o => o.id = r.place.id) then acc else acc ++ [r.place]) []

/-- Do the runs of a block lie in the bytes that it carries: its line, or for a window PUT its frame (R317)? -/
def Transfer.inBlock (x : Transfer) (v : Nat) (r : PRun) : Bool :=
  if x.grad then decide (v ≤ r.va) && decide (r.va < v + 4160) else r.lines.contains v

/-- The source words of the blocks that a PUT requests are read as stealers (R184, R257). -/
def Stall.readSources (st : Stall) (t tag : Nat) (qs : List Nat) : Stall :=
  match sget st.tags tag with
  | none => st
  | some x =>
    if x.kind ≠ .put then st
    else
      let vs := qs.filterMap fun q => (x.blocks[q]?).map (·.va)
      let new := x.places x.queued fun r => r.place.row && vs.any fun v => x.inBlock v r
      (st.setTag tag { x with queued := new.map Place.id ++ x.queued, waiting := x.waiting + new.length }).queueSteal t
        (new.map fun pl => ⟨pl.bank, true, some tag, 0#128, x.job, pl, 0#512, false, t⟩)

/-- Request what may be requested for a tag, with the events of R254. -/
def Stall.requestMore (st : Stall) (sn t tag : Nat) : Stall × List Eff :=
  match sget st.tags tag with
  | none => (st, [])
  | some x =>
    let r := x.request 64
    let st := (st.setTag tag r.1).readSources t tag r.2.1
    let rd : List Eff := if r.2.1.isEmpty then [] else [.reads sn tag r.2.1]
    match r.2.2 with
    | none => (st, rd)
    | some b => (st.record ⟨true, 0x4203, 2, x.job, 0, 0, x.issue, 0, x.pc, BitVec.ofNat 32 b.va⟩,
        rd ++ [.lookup sn x.job b.va, .ev (st.ev sn t 0x4203 2 x.job (b.va % 2 ^ 48 + 2 ^ 48 * b.cause))])

/-- Is the data of every block of a place landed? -/
def Transfer.ready (x : Transfer) (id : Nat) : Bool :=
  x.runs.all fun r => r.place.id != id || r.lines.all fun v =>
    x.blocks.any fun b => b.va = v && b.landed

/-- Bytes of a run as a number. -/
def Transfer.runData (x : Transfer) (r : PRun) : Nat :=
  let line (v : Nat) : Nat := ((x.blocks.find? fun b => b.va = v).map fun b => b.data.toNat).getD 0
  let a := r.va / 64 * 64
  (line a + 2 ^ 512 * line (a + 64)) >>> (8 * (r.va - a)) % 2 ^ (8 * r.n)

/-- The word assembled for a place, and its poison (R183). -/
def Transfer.assemble (x : Transfer) (id : Nat) : Line × Bool :=
  let rs := x.runs.filter fun r => r.place.id = id
  (BitVec.ofNat 512 (rs.foldl (fun a r => a + x.runData r * 2 ^ (8 * r.off)) 0),
   rs.any fun r => r.lines.any fun v => x.blocks.any fun b => b.va = v && b.poison)

/-- A block of a GET or GATHER is accepted (R247): its words, once whole, wait for their banks. -/
def Stall.acceptBlock (st : Stall) (sn t tag q : Nat) (data : Line) (poison : Bool) : Stall × List Eff :=
  match sget st.tags tag with
  | none => (st, [])
  | some x =>
    let x := { x with blocks := lmod x.blocks q fun b => { b with landed := true, data := data, poison := poison } }
    let v := ((x.blocks[q]?).map (·.va)).getD 0
    let new := x.places x.queued fun r => r.lines.contains v && x.ready r.place.id
    let st := st.setTag tag { x with queued := new.map Place.id ++ x.queued, waiting := x.waiting + new.length }
    let steals := new.map fun pl =>
      let d := x.assemble pl.id
      (⟨pl.bank, false, some tag, 0#128, x.job, pl, d.1, d.2, t⟩ : Steal)
    (st.queueSteal t steals).requestMore sn t tag

/-- The word of a place with its poison bit, as a stealer reads it (R182). -/
def Stall.placeData (st : Stall) (pl : Place) : Line × Bool :=
  match pl with
  | .word s a => st.word s a
  | .side s n => (st.sidecar s n, st.sidePoison s n)
  | .status k => ((st.tstat k).setWidth 512, false)
  | .none => (0#512, false)

/-- Bits of a place that a transfer's runs cover. -/
def Transfer.cover (x : Transfer) (id : Nat) : Nat :=
  (x.runs.filter fun r => r.place.id = id).foldl (fun a r => a ||| (2 ^ (8 * r.n) - 1) * 2 ^ (8 * r.off)) 0

/-- Write a stealer word to its place with its poison bit (R183); bits outside `mask` stay as they are. -/
def Stall.putPlace (st : Stall) (pl : Place) (mask : Nat) (d : Line) (p : Bool) : Stall :=
  let old := st.placeData pl
  let m := BitVec.ofNat 512 mask
  let new := (d &&& m) ||| (old.1 &&& ~~~m)
  let p := p || (old.2 && m != BitVec.allOnes 512)
  match pl with
  | .word s a => st.putWord s a new p
  | .side s n => st.putSide s n new p
  | .status k => st.setTstat k (d.setWidth 32)
  | .none => st

/-- The source word of a PUT as it was read; a tile status word as it stands. -/
def Stall.sourceData (st : Stall) (x : Transfer) (pl : Place) : Line × Bool :=
  if pl.row then sgetD x.reads pl.id (0#512, false) else st.placeData pl

/-- Have the source words of a block been read (R257)? -/
def Transfer.sourced (x : Transfer) (v : Nat) : Bool :=
  x.runs.all fun r => !x.inBlock v r || !r.place.row || (sget x.reads r.place.id).isSome

/-- What a PUT writes into a block: mask of the bytes written, bytes, and poison. -/
def Stall.putData (st : Stall) (x : Transfer) (v : Nat) : Nat × Nat × Bool :=
  (x.runs.filter fun r => r.lines.contains v).foldl (fun (a : Nat × Nat × Bool) r =>
    let d := st.sourceData x r.place
    let src := d.1.toNat >>> (8 * r.off) % 2 ^ (8 * r.n)
    let sh := fun (n : Nat) => if v ≤ r.va then (n * 2 ^ (8 * (r.va - v))) % 2 ^ 512 else n >>> (8 * (v - r.va))
    (a.1 ||| sh (2 ^ (8 * r.n) - 1), a.2.1 ||| sh src, a.2.2 || d.2)) (0, 0, false)

/-! ### Completion and end of a transfer -/

/-- Has a transfer done all it has to (R257)? -/
def Transfer.finished (x : Transfer) : Bool :=
  !x.faulted && x.rowsOf.isNone && x.blocks.all (·.landed) && x.waiting = 0

/-- Tile registers that a transfer writes. -/
def Transfer.tiles (x : Transfer) : List Nat :=
  (x.runs.foldl (fun (acc : List Nat) r =>
    match r.place with
    | .word s a => let k := s * 128 + a / slotWords s; if acc.contains k then acc else acc ++ [k]
    | _ => acc) [])

/-- Completion at tick `t` (R257, R258): the tag is freed; stamps, status words, tail, signal and pop follow. -/
def Stall.porterDone (st : Stall) (sn t tag : Nat) (ctx : JobCtx) : Stall × List Eff :=
  match sget st.tags tag with
  | none => (st, [])
  | some x =>
    if !x.finished then (st, [])
    else if (st.jobSlot x.slot).job ≠ x.job then ({ st with tags := sdel st.tags tag }, [])
    else
      let st := { st with tags := sdel st.tags tag }
      let n := if x.grad then 0 else (x.runs.map (·.n)).sum
      let st := st.bump (if x.kind = .put then 0x478 else 0x470) n
      let framed := x.runs.any fun r => match r.place with | .status _ => true | _ => false
      let st := if x.kind = .put then st
        else x.tiles.foldl (fun s k =>
          let s := s.setStamp k t
          let s := if !framed && 256 ≤ k then s.setTstat k 0#32 else s
          if 256 ≤ k then s.showAt t k else s) st
      let st := match x.tail with
        | some (r, c) => st.later t (.pushRing r c x.job none)
        | none => st
      st.complete sn x.slot x.step t x.issue x.pc .pt ctx x.common

/-- A transfer ends without finishing (R259): its tag is freed, and the words it has written hold undefined contents,
here free values from `free` on. The answer counts the free values used. -/
def Stall.dropTransfer (st : Stall) (tag free : Nat) : Stall × Nat :=
  match sget st.tags tag with
  | none => (st, 0)
  | some x =>
    let still := (st.steal.filter fun s => s.tag = some tag).map (·.place.id)
    let st := { st with tags := sdel st.tags tag, steal := st.steal.filter fun s => s.tag != some tag }
    if x.kind = .put then (st, 0)
    else
      let wr := x.queued.filter fun i => !still.contains i && decide (i < 2 ^ 20)
      ((wr.zipIdx).foldl (fun s q =>
        s.putWord (q.1 / 4096) (q.1 % 4096) (Config.freeLine (free + q.2)) (s.word (q.1 / 4096) (q.1 % 4096)).2) st,
        wr.length)

/-! ### Words of the porter engine -/

/-- A transfer by ordinal begins: its index words wait for their banks as stealer reads (R184, R256). -/
def Stall.readIndex (st : Stall) (t tag : Nat) (x : Transfer) (p : Porter) (ptr : Nat) : Stall :=
  let ps := indexPlaces p
  (st.setTag tag { x with waiting := ps.length, rowsOf := some (p, ptr) }).queueSteal t
    (ps.map fun pl => ⟨pl.bank, true, some tag, 0#128, x.job, pl, 0#512, false, t⟩)

/-- The index of a transfer has been read: its rows are known, and their blocks are requested under translation `tr` (R256). -/
def Stall.beginRows (st : Stall) (sn t tag : Nat) (tr : Nat → Nat × Nat) : Stall × List Eff :=
  match sget st.tags tag with
  | none => (st, [])
  | some x => match x.rowsOf with
    | none => (st, [])
    | some (p, ptr) =>
      if x.waiting ≠ 0 then (st, [])
      else
        let runs := st.rowRuns x p ptr
        (st.setTag tag { x with runs := runs, blocks := runBlocks runs tr, rowsOf := none }).requestMore sn t tag

/-- The effect of a GET, PUT or GATHER at its issue (R256, R257, R258). -/
def Stall.porterRun (st : Stall) (sn k t : Nat) (w : CWord) (kind : PtKind) (p : Porter) (tr : Nat → Nat × Nat) :
    Stall × List Eff :=
  match st.freeTag with
  | none => (st, [])
  | some tag =>
    let job := (st.jobSlot k).job
    let grad := kind = .put && p.mode = .linear && p.frame && p.index.isNone && inWindow p.va.toNat
    let (ptr, tail) := match p.target with
      | .tile _ _ => (0, none)
      | .ring n =>
        if kind = .put then ((st.ring n.toNat).head, none)
        else (st.ringEnd n.toNat, some (n.toNat, cdiv (porterLen kind p) (st.ringCfg n.toNat).slotBytes))
    let rows := byRows kind p
    let runs := if rows then [] else st.porterRuns p ptr
    let blocks : List PBlock := if grad then
        (List.range (p.len / 4160)).map fun j => ⟨p.va.toNat + 4160 * j, 0, 0, none, false, false, 0, false, 0#512, false⟩
      else runBlocks runs tr
    let x : Transfer := ⟨kind, k, job, (st.slotSt k).step, (st.subq k .pt).lastPc, t, w.common, runs, blocks, tail, 0, [], [], false,
      false, false, p.commit && kind != PtKind.put, grad, none⟩
    if rows then (st.readIndex t tag x p ptr, []) else (st.setTag tag x).requestMore sn t tag

/-- A GET, PUT or GATHER word (R256, R258); `tr` translates block addresses (cause, physical address). -/
def porterSpec (st : Stall) (sn k t : Nat) (w : CWord) (kind : PtKind) (p : Porter) (tr : Nat → Nat × Nat) : Spec :=
  let bad := porterBad kind p
  let full := match p.target with
    | .ring n => kind != PtKind.put && decide ((st.ring n.toNat).free (st.ringCfg n.toNat).size
        < cdiv (porterLen kind p) (st.ringCfg n.toNat).slotBytes)
    | _ => false
  { ownerBad := match p.target with | .ring n => !st.ringOwned n.toNat (st.jobSlot k).job | _ => false
    regs := if bad then [] else porterRegs st kind p
    stampOf := []
    pre := if bad then some (.fault (flt 0x4302 (p.va.toNat % 2 ^ 32))) else (porterOdd kind p).map scaleFault
    late := if full then some (.fault (flt 0x4303 (p.va.toNat % 2 ^ 32))) else none
    d := 1
    run := fun st => st.porterRun sn k t w kind p tr }

/-- A field of an AHEAD word out of range (R260). -/
def aheadBad (a : Ahead) : Bool :=
  a.va.toNat % 64 != 0 || decide (a.run < 64) || decide (16384 < a.run) || a.run % 64 != 0 || a.stride % 64 != 0
    || a.runs = 0 || decide (1024 < a.runs)

/-- An AHEAD word (R260): it completes at its issue tick and holds no tag. -/
def aheadSpec (st : Stall) (sn k t : Nat) (w : CWord) (a : Ahead) : Spec :=
  { ownerBad := false
    regs := []
    stampOf := []
    pre := if aheadBad a then some (.fault (flt 0x4302 (a.va.toNat % 2 ^ 32))) else none
    late := none
    d := 1
    run := fun st' => (st'.fly k .pt t { w with common := { w.common with sig := { w.common.sig with kind := 0#3 } } },
      [.ahead t sn (st.jobSlot k).job a]) }

/-! ### Why a consumer waited (R265) -/

/-- Is the object of a wait what a transfer signals, or its ring target? -/
def Transfer.feeds (x : Transfer) (w : Wait) : Bool :=
  let s := x.common.sig
  match w.kind.toNat with
  | 1 => (s.kind = 1#3 || s.kind = 2#3) && s.index = w.index
  | 2 => (s.kind = 1#3 || s.kind = 2#3) && s.index = w.index
  | 3 => s.kind = 3#3 && s.index = w.index
  | 4 => (match x.tail with | some (r, _) => r = w.index.toNat | none => false)
  | 5 => (match x.tail with | some (r, _) => r = w.index.toNat | none => false)
  | _ => false

/-- Is a word a BULK without a chit (R216)? -/
def Stall.noChit (st : Stall) (k : Nat) (ctx : JobCtx) (w : CWord) : Bool :=
  match w.op with
  | .bulk s => match st.account k ((placeOf ctx.place s.pitch.toNat s.stall.toNat).getD 0) s.ring.toNat with
    | some (_, a) => a.count = 0
    | none => true
  | _ => false

/-- The cause counter that a slipped wait is charged to (R265). -/
def Stall.chargeOf (st : Stall) (k : Nat) (ctx : JobCtx) (w : CWord) : Option Nat :=
  let job := (st.jobSlot k).job
  let wt := w.common.wait
  if wt.feed = 1#2 then
    match argmin (fun q : Nat × Transfer => q.2.issue) (st.tags.filter fun q => q.2.job = job && q.2.feeds wt) with
    | none => some 0x468
    | some (tag, x) =>
      if st.steal.any fun s => s.tag = some tag then some 0x460
      else if x.blocks.any fun b => b.requested && !b.landed && decide (2 ^ 40 ≤ b.pa) then some 0x448
      else some 0x440
  else if st.noChit k ctx w then some 0x458
  else if wt.feed = 2#2 then
    let r := wt.index.toNat % 16
    let busy := (wt.kind = 4#3 || wt.kind = 5#3) && st.steal.any fun s =>
      s.tag.isNone && (hdrOf s.hdr).kind = 0 && (hdrOf s.hdr).ring = r
    some (if busy then 0x460 else 0x450)
  else none

end Sys2Proof.Machine
end

