-- ==== Sys2Proof/Machine/Stores.lean ====
section
/-! DEFINITION. The stores' background work: stealer grants (R184, R187), scrubs and handovers (R188, R189), retention
(R195), the background tester (R197, R198), and what a commit of the STALL page changes at a round boundary (R88,
R190, R192). -/
namespace Sys2Proof.Machine

/-! ### Rows of a bank (R177, R178) -/

/-- Rows of a bank (R177). -/
def bankRows (b : Nat) : Nat := if b < 64 then 128 else 64

/-- Store word address of a data row of a bank (R178). -/
def rowAddr (b row : Nat) : Nat :=
  let p := b % 32 / 2
  if b < 64 then (p * 8 + row / 16) * 32 + 2 * (row % 16) + b % 2 else (p * 2 + row / 32) * 64 + 2 * (row % 32) + b % 2

/-- Row of a store word in its bank (R178). -/
def rowOf (store addr : Nat) : Nat :=
  if store < 2 then addr / 32 % 8 * 16 + addr % 32 / 2 else addr / 64 % 2 * 32 + addr % 64 / 2

/-- Row of a place in its bank; sidecar rows are numbered after the data rows (R180). -/
def Place.rowNo : Place → Nat
  | .word s a => rowOf s a
  | .side _ n => 128 + n % 8 / 2
  | _ => 0

/-- A bank index and a row as an event's aux packs them (R202, log entry 19). -/
def bankRow (b row : Nat) : Nat := b + 2 ^ 7 * row

/-! ### Accrued counters -/

/-- Banks in retention. -/
def Stall.asleep (st : Stall) : Nat := (List.range 128).countP fun b => !(st.bank b).awake

/-- Rows that the scrub of a bank has zeroed before tick `t`, one per tick (R188). -/
def Bank.zeroed (x : Bank) (b t : Nat) : Nat :=
  match x.scrubEnd with
  | some e => min (bankRows b) (t + bankRows b - (e + 1))
  | none => 0

/-- SCRUB_ROWS counts the rows zeroed before tick `t` (R201). -/
def Stall.accrueScrub (st : Stall) (t b : Nat) : Stall :=
  let x := st.bank b
  let n := x.zeroed b t
  if n ≤ x.scrubbed then st else (st.setBank b { x with scrubbed := n }).bump 0x748 (n - x.scrubbed)

/-- Rota entries of a job on the four engines. -/
def Stall.rotaShare (st : Stall) (j : Nat) : Nat :=
  (List.range 64).foldl (fun a w =>
    let v := st.reg (0x300 + 4 * w)
    a + (List.range 4).countP fun b => bits v (8 * b + 6) (8 * b) = j) 0

/-- The job of a bank as its owner says; 64 for none. -/
def Bank.jobOf (x : Bank) : Nat := if 0x40 ≤ x.owner.toNat ∧ x.owner.toNat < 0x80 then x.owner.toNat - 0x40 else noJob

/-- Static ticks of `dt` ticks (R384): each bank's to its owner, and the rest by owned rota entries. Banks in retention without
an owner and entries without a job are what remains of the device. -/
def Stall.spendStatic (st : Stall) (dt : Nat) : Stall :=
  let st := st.banks.foldl (fun (a : Stall) q =>
    if q.2.awake then a.spend q.2.jobOf workKind.awake dt
    else if q.2.jobOf = noJob then a else a.spend q.2.jobOf workKind.retained dt) st
  (List.range 8).foldl (fun (a : Stall) k =>
    if (a.jobSlot k).valid then a.spend (a.jobSlot k).job workKind.rota (a.rotaShare (a.jobSlot k).job * dt) else a) st

/-- Bring the counters that grow with time up to tick `t`: RETENTION_BANK_TICKS, SCRUB_ROWS and STEAL_WAIT_TICKS (R201). -/
def Stall.accrue (st : Stall) (t : Nat) : Stall :=
  let st := st.spendStatic (t - st.retFrom)
  let st := { st.bump 0x760 (st.asleep * (t - st.retFrom)) with retFrom := max t st.retFrom }
  let st := (st.banks.filter fun q => q.2.scrubEnd.isSome).foldl (fun s q => s.accrueScrub t q.1) st
  if st.steal.isEmpty then st
  else { st.bump 0x738 (t - st.stealFrom) with stealFrom := max t st.stealFrom }

/-- Wake or put to sleep bank `b` at tick `t`. -/
def Stall.setAwake (st : Stall) (t b : Nat) (v : Bool) : Stall :=
  let st := st.accrue t
  st.setBank b { st.bank b with awake := v, sleepAt := none }

/-- Is a region of the background tester open in a bank (R197)? -/
def Stall.regionIn (st : Stall) (b : Nat) : Bool := st.regions.any fun q => q.2.bank = b

/-- A bank enters retention; a write of its owner that waits for it wakes it (R195). -/
def Stall.sleepNow (st : Stall) (t b : Nat) : Stall := (st.setAwake t b false).wakeWanted t b

/-- A bank enters retention, or waits for the restore of its open region (R195). -/
def Stall.toSleep (st : Stall) (t b : Nat) : Stall :=
  if st.regionIn b then st.setBank b { st.bank b with sleepAt := some t } else st.sleepNow t b

/-! ### Stealers (R184, R186, R187) -/

/-- The port that a stealer word needs: the write port of its bank, its read port, or its sidecar's (R177, R180). -/
def Steal.port (s : Steal) : Nat :=
  s.bank + match s.place with
    | .side _ _ => 256
    | _ => if s.read then 128 else 0

/-- The stealer word that a port is granted to: inbound exchange and porter alternate by bank (R184). -/
def Stall.nextSteal (st : Stall) (p : Nat) : Option (Nat × Steal) :=
  let ex := lfind (fun s : Steal => s.port = p && s.tag.isNone) st.steal 0
  let pt := lfind (fun s : Steal => s.port = p && s.tag.isSome) st.steal 0
  match ex, pt with
  | some e, some q => if (st.bank (p % 128)).lastEx then some q else some e
  | some e, none => some e
  | none, q => q

/-- Does a bank serve no stealer: under scrub, or in retention (R184, R195)? -/
def Stall.shut (st : Stall) (b : Nat) : Bool := !(st.bank b).awake || (st.bank b).scrubEnd.isSome

/-- Owner whose words a bank takes (R187); under a scrub, or a wake before it, the one that the handover names (R188). -/
def Stall.taker (st : Stall) (b : Nat) : BitVec 8 :=
  let x := st.bank b
  if x.scrubEnd.isSome || (x.wakeEnd.isSome && x.owner = 0#8) then st.ownerEntry b else x.owner

/-- Is a port idle at tick `t`: no engine and no stealer has it (R177, R184)? -/
def Stall.idlePort (st : Stall) (t p : Nat) : Bool :=
  !(st.claims.any fun c => c.tick = t && c.port = p) && !st.used.contains (t, p)

/-- Slots by which words and transfers issued before tick `t` have yet to advance ring `n`'s tail. -/
def Stall.tailBefore (st : Stall) (n t : Nat) : Nat :=
  (({ st with
    flight := st.flight.filter fun f => decide (f.issue < t), tags := st.tags.filter fun q => decide (q.2.issue < t) } : Stall)).pendingTail n

/-- Would the tail advance that a stealer word's transfer or message makes, after those that come before it, overrun its ring
(R193)? Its bytes are not written then. -/
def Stall.overruns (st : Stall) (s : Steal) : Bool :=
  match s.tag with
  | some tag => match sget st.tags tag with
    | some x => match x.tail with
      | some (r, n) => st.pastEnd r (st.tailBefore r x.issue + n)
      | none => false
    | none => false
  | none =>
    let h := hdrOf s.hdr
    h.kind = 0 && match st.inbound.find? fun m => m.hdr = s.hdr with
      | some m =>
        let g := st.ring h.ring
        st.pastEnd h.ring ((m.slotIx.getD 0 + 2 * 65536 - (g.tail + g.held) % 65536) % 65536 + 1)
      | none => st.pastEnd h.ring 1

/-- A message notes the store word that it is about to write (R217, R236). -/
def Stall.noteWrote (st : Stall) (s : Steal) : Stall :=
  if s.tag.isSome then st
  else match lfind (fun m : Inbound => m.hdr = s.hdr && m.waiting != 0) st.inbound 0 with
    | none => st
    | some (j, m) => { st with inbound := lset st.inbound j { m with
        wrote := (s.place.id, st.stored (s.place.id / 4096) (s.place.id % 4096)) :: m.wrote } }

/-- A stealer word has landed or been dropped: its transfer or message counts it, and a message whose last word this was lands
(R217, R257). -/
def Stall.stealDone (st : Stall) (t : Nat) (s : Steal) : Stall :=
  match s.tag with
  | some tag => match sget st.tags tag with
    | some x => st.setTag tag { x with waiting := x.waiting - 1 }
    | none => st
  | none => match lfind (fun m : Inbound => m.hdr = s.hdr && m.waiting != 0) st.inbound 0 with
    | none => st
    | some (j, m) =>
      if m.last && m.waiting = 1 then ({ st with inbound := ldel st.inbound j }).land t m
      else { st with inbound := lset st.inbound j { m with waiting := m.waiting - 1 } }

/-- A stealer word has moved: STEAL_WORDS counts it, and a store word access is charged to its job (R201, R384). -/
def Stall.stealMoved (st : Stall) (s : Steal) : Stall := (st.bump 0x730 1).spend s.job workKind.store 1

/-- A PUT's source word is read (R184); a row in error is met (R181, R182). -/
def Stall.stealRead (st : Stall) (t : Nat) (s : Steal) : Stall :=
  match s.tag.bind (sget st.tags ·) with
  | none => st
  | some x =>
    let st := (st.setTag (s.tag.getD 0) { x with
      reads := sset x.reads s.place.id (st.placeData s.place), waiting := x.waiting - 1 }).stealMoved s
    if (sget st.errs s.place.id).isSome then st.once t (.readErr s.place.id) else st

/-- A stealer word is granted its port at tick `t`: it lands or is read, or, where the bank is not its job's, is dropped
(R184, R187). -/
def Stall.takeSteal (st : Stall) (t i : Nat) (s : Steal) : Stall :=
  let st := st.accrue t
  let mine := st.taker s.bank = ownJob s.job
  let st := { st with steal := ldel st.steal i, used := (t, s.port) :: st.used }.setBank s.bank
    { st.bank s.bank with lastEx := s.tag.isNone }
  if s.read then (if mine then st.stealRead t s else st)
  else if !mine then (st.bump 0x740 1).stealDone t s
  else if st.overruns s then st.stealDone t s
  else
    let mask := match s.tag.bind (sget st.tags ·) with
      | some x => x.cover s.place.id
      | none => 2 ^ 512 - 1
    (((st.noteWrote s).putPlace s.place mask s.data s.poison).stealMoved s).stealDone t s

/-- A port of a bank serves a waiting stealer word if it is idle; a bank that is shut drops a word of another job, and its
own job's words wait (R184, R187). -/
def Stall.servePort (st : Stall) (t p : Nat) : Stall :=
  let b := p % 128
  if st.shut b then
    match lfind (fun s : Steal => s.port = p && decide (st.taker b ≠ ownJob s.job)) st.steal 0 with
    | some (i, s) => st.takeSteal t i s
    | none => st
  else if !st.idlePort t p then st
  else match st.nextSteal p with
    | some (i, s) => st.takeSteal t i s
    | none => st

/-- Key of a row of a bank: of a data row, or of a sidecar row, numbered after the data rows (R177, R178, R180). -/
def rowKey (b row : Nat) : Nat :=
  let r := row % (if b < 64 then 132 else 64)
  if r < bankRows b then b / 32 * 4096 + rowAddr b r else sideKey (b / 32) (b % 32 / 2 * 8 + 2 * (r - bankRows b) + b % 2)

/-- An upset leaves errors in rows of a bank, correctable or not (R181, log entry 64); the reads of them that issued words have
still to make meet them. -/
def Stall.upset (st : Stall) (t b : Nat) (l : List (Nat × Bool)) : Stall :=
  l.foldl (fun (s : Stall) q =>
    let key := rowKey b q.1
    (s.claims.filter fun c => c.read && c.key = key && decide (t ≤ c.tick)).foldl (fun s c => s.once c.tick (.readErr key))
      { s with errs := sset s.errs key q.2 }) st

/-- The ports of bank `b` that are idle at tick `t` serve waiting stealer words: write port, read port and sidecar port
(R177, R180, R184). -/
def Stall.stealGrant (st : Stall) (t b : Nat) (upsets : List (Nat × Bool)) : Stall :=
  [b, 128 + b, 256 + b].foldl (fun s p => s.servePort t p) (st.upset t b upsets)

/-- A porter word has waited 165,000 ticks (R186). -/
def Stall.starve (st : Stall) (sn t tag : Nat) : Stall × List Eff :=
  match sget st.tags tag with
  | none => (st, [])
  | some x =>
    match st.steal.find? fun s => s.tag = some tag && decide (s.since + 165000 ≤ t) with
    | none => (st, [])
    | some s =>
      if x.starved then (st, [])
      else (st.setTag tag { x with starved := true }, [.ev (st.ev sn t 0x2201 0 x.job (bankRow s.bank s.place.rowNo))])

/-! ### Scrubs and retention (R188, R189, R195, R199) -/

/-- Bank of a row by its key. -/
def keyBank (key : Nat) : Nat :=
  if key < 2 ^ 20 then bankOf (key / 4096) (key % 4096) else sideBank ((key - 2 ^ 20) / 128) ((key - 2 ^ 20) % 128)

/-- Is a key's row in bank `b`? -/
def keyInBank (b key : Nat) : Bool := keyBank key = b

/-- Row of a bank by its key; sidecar rows are numbered after the data rows (R180). -/
def keyRow (key : Nat) : Nat :=
  if key < 2 ^ 20 then rowOf (key / 4096) (key % 4096) else (Place.side ((key - 2 ^ 20) / 128) ((key - 2 ^ 20) % 128)).rowNo

/-- Port by which a row is written. -/
def keyPort (key : Nat) : Nat := if key < 2 ^ 20 then keyBank key else 256 + keyBank key

/-- Tile slots of a bank's pair. -/
def pairKeys (b : Nat) : List Nat :=
  let s := b / 32
  let p := b % 32 / 2
  if s < 2 then (List.range 8).map fun i => s * 128 + p * 8 + i else (List.range 2).map fun i => s * 128 + p * 2 + i

/-- Is the retain bit of bank `b` in force (R200)? -/
def Stall.retained (st : Stall) (b : Nat) : Bool := bit (st.reg (0x1E0 + 4 * (b / 32))) (b % 32)

/-- A ring's pointers return to 0 and its held slots are dropped (R189, R192). -/
def Stall.clearRing (st : Stall) (n : Nat) : Stall :=
  let g := st.ring n
  st.setRing n { g with head := 0, tail := 0, held := 0, heldStep := 0, incs := [] }

/-- The scrub of a bank starts at tick `t`; an open region of it is abandoned without restore (R188, R199). -/
def Stall.startScrub (st : Stall) (t b : Nat) : Stall :=
  let st := { st with regions := st.regions.filter fun q => q.2.bank != b }
  st.setBank b { st.bank b with
    owner := 0#8, stealWoken := false, sleepAt := none, scrubbed := 0, wakeEnd := none, scrubEnd := some (t + bankRows b - 1) }

/-- The end of a bank's scrub (R188, R189): rows, stamps, status words and spanning rings are zeroed, the handover
takes effect to the owner named now, and the bank sleeps in the next tick where R195 says. -/
def Stall.scrubDone (st : Stall) (t b : Nat) : Stall :=
  match (st.bank b).scrubEnd with
  | none => st
  | some e =>
    if t < e then st
    else
      let keys := pairKeys b
      let spans := (List.range 16).filter fun n =>
        let c := st.ringCfg n
        c.valid && c.size != 0 && c.banks.contains b
      let st := (st.accrueScrub (e + 1) b).accrue (e + 1)
      let st := { st with
        words := st.words.filter fun q => !keyInBank b q.1
        errs := st.errs.filter fun q => !keyInBank b q.1
        side := st.side.filter fun q => (Place.side (q.1 / 128) (q.1 % 128)).bank != b
        stamps := st.stamps.filter fun q => !keys.contains q.1
        tstatus := st.tstatus.filter fun q => !keys.contains q.1
        tshown := st.tshown.filter fun q => !keys.contains q.1 }
      let st := spans.foldl Stall.clearRing st
      let own := st.ownerEntry b
      let st := st.setBank b { st.bank b with owner := own, scrubEnd := none, scrubbed := 0, stealWoken := false }
      if own = 0#8 || st.retained b then st.at_ (e + 1) (.sleep b) else st

/-- The end of a bank's wake (R195): awake, and its pending scrub starts (R188). -/
def Stall.wakeDone (st : Stall) (t b : Nat) : Stall :=
  match (st.bank b).wakeEnd with
  | none => st
  | some e =>
    if t < e then st
    else
      let st := (st.setAwake t b true).bump 0x768 1
      if (st.bank b).owner = 0#8 then st.startScrub t b else st.setBank b { st.bank b with wakeEnd := none }

/-- Does a write of the bank's owner wait for it? -/
def Stall.wanted (st : Stall) (b : Nat) : Bool :=
  st.steal.any fun s => s.bank = b && !s.read && decide ((st.bank b).owner = ownJob s.job)

/-- Bank `b` at boundary `B` when a commit takes effect; `old` is the entry before (R188, R195). A retain bit in force also
ends a wake under way, unless a write of the owner waits for it. -/
def Stall.bankCommit (st : Stall) (B b : Nat) (old : BitVec 8) : Stall :=
  let x := st.bank b
  let pending := x.scrubEnd.isSome || (x.wakeEnd.isSome && x.owner = 0#8)
  if st.ownerEntry b ≠ old && !pending then
    if x.awake then st.startScrub B b
    else st.setBank b { x with owner := 0#8, stealWoken := false, wakeEnd := some (x.wakeEnd.getD (B + 8192)) }
  else if pending then st
  else if st.retained b then
    if x.awake then (st.setBank b { x with stealWoken := false }).toSleep B b
    else if st.wanted b then st else st.setBank b { x with stealWoken := false, wakeEnd := none }
  else if x.owner ≠ 0#8 && !x.awake && x.wakeEnd.isNone then st.setBank b { x with wakeEnd := some (B + 8192) }
  else st.setBank b { x with sleepAt := none }

/-! ### The commit of a STALL page (R88, R190, R192) -/

/-- Owner of a foot row under ranges in force (R88). -/
def footOwner (as : List FootAlloc) (r : Nat) : Option Nat :=
  (as.find? fun a => decide (32 * a.first ≤ r) && decide (r < 32 * a.last + 32)).map (·.job)

/-- Rows whose owner changes are to be cleared, one row per tick from `B` (R88, R92). -/
def Stall.footCommit (st : Stall) (B : Nat) (old : List FootAlloc) : Stall :=
  let new := st.foots
  let ch := (List.range 256).filter fun r => footOwner old r != footOwner new r
  if ch.isEmpty then st
  else
    { st with array := { st.array with clearing := (ch.zipIdx).foldl (fun l q => sset l q.1 (B + q.2)) st.array.clearing } }

/-- Clear the flags of a range. -/
def Stall.zeroFlags (st : Stall) (base n : Nat) : Stall :=
  (List.range n).foldl (fun s i => s.clearFlag (base + i)) st

/-- Zero the tallies of a range and their wrapped bits (R190, R213). -/
def Stall.zeroTallies (st : Stall) (base n : Nat) : Stall :=
  (List.range n).foldl (fun (s : Stall) i =>
    { s with tallies := sdel s.tallies (base + i), wrapped := s.wrapped &&& ~~~(BitVec.ofNat 64 (2 ^ (base + i))) }) st

/-- Zero the objects of a range. -/
def Stall.zeroRes (st : Stall) (r : JobRes) : Stall :=
  (st.zeroFlags r.flagBase r.flagCount).zeroTallies r.tallyBase r.tallyCount

/-- Is an act one of a job's, by its slot, its range or its rings (R190)? -/
def Act.ofJob (k job : Nat) (r : JobRes) : Act → Bool
  | .setFlag i => decide (r.flagBase ≤ i) && decide (i < r.flagBase + r.flagCount)
  | .clearFlag i => decide (r.flagBase ≤ i) && decide (i < r.flagBase + r.flagCount)
  | .addTally i _ _ => decide (r.tallyBase ≤ i) && decide (i < r.tallyBase + r.tallyCount)
  | .popRing _ _ j _ _ _ => j = job
  | .pushRing _ _ j _ => j = job
  | .packRing _ j => j = job
  | .grant s _ _ _ _ => s = k
  | .bulkDone _ _ j => j = job
  | .resolve _ _ => false

/-- Signals and arrivals of the boundary tick for a job that loses its slot are dropped (R190). -/
def Stall.dropActs (st : Stall) (k job : Nat) (r : JobRes) : Stall :=
  { st with acts := st.acts.filter fun a => !a.ofJob k job r }

/-- Slots whose entry names a different job or becomes invalid: their ranges are zeroed (R190). -/
def Stall.slotCommit (st : Stall) (k : Nat) (old : JobSlot) (oldRes : JobRes) : Stall :=
  let new := st.jobSlot k
  let res := st.jobRes k
  if new.job ≠ old.job || new.valid != old.valid then
    { ((st.dropActs k old.job oldRes).zeroRes oldRes).zeroRes res with slots := sdel st.slots k }
  else if res ≠ oldRes && res = .none then (st.dropActs k old.job oldRes).zeroRes oldRes
  else st

/-- A commit of the STALL page takes effect at boundary `B` (R464). -/
def Stall.commitPage (st : Stall) (sn B : Nat) : Stall :=
  let owners := (List.range 128).map st.ownerEntry
  let rings := (List.range 16).map st.ringCfg
  let slots := (List.range 8).map st.jobSlot
  let ress := (List.range 8).map st.jobRes
  let foots := st.foots
  let st := { st with page := st.page.apply .stall sn }
  let st := (List.range 16).foldl (fun s n =>
    if some (s.ringCfg n) = rings[n]? then s else { s with rings := sdel s.rings n }) st
  let st := (List.range 8).foldl (fun s k =>
    s.slotCommit k (slots.getD k ⟨0, false, false, 0⟩) (ress.getD k .none)) st
  let st := st.footCommit B foots
  (List.range 128).foldl (fun s b => s.bankCommit B b (owners.getD b 0#8)) st

/-! ### Errors of rows and the background tester (R181, R182, R197, R198) -/

/-- An event of a stall about a row of a bank, against the job that owns the bank (R202). -/
def Stall.rowEv (st : Stall) (sn t b row code sev : Nat) : Ev :=
  let own := (st.bank b).owner.toNat
  ⟨code, sev, if own / 64 = 1 then some (own % 64) else none, pageId .stall sn, 0, t, BitVec.ofNat 64 (bankRow b row)⟩

/-- A read finds a corrected error (R181), or an uncorrectable one (R182), which counts as a strike (R407). -/
def Stall.foundErr (st : Stall) (sn t b row : Nat) (uncorr : Bool) : Stall × List Eff :=
  let e := st.rowEv sn t b row 0x2101 0
  if uncorr then (st.bump 0x728 1, [.ev e, .strike sn 0x2101 e.job]) else (st.bump 0x720 1, [])

/-- An engine or a stealer read a row that holds an error: it is counted, a corrected data row is queued for the tester (R181),
and an uncorrectable one takes its poison bit at the bank's next idle write cycle (R182). -/
def Stall.readErr (st : Stall) (sn t key : Nat) : Stall × List Eff :=
  match sget st.errs key with
  | none => (st, [])
  | some u =>
    let r := st.foundErr sn t (keyBank key) (keyRow key) u
    (if u then r.1.once (t + 2) (.mark key)
     else if st.testQ.contains key || decide (2 ^ 20 ≤ key) then r.1
     else { r.1 with testQ := r.1.testQ ++ [key] }, r.2)

/-- A row that an uncorrectable error has struck takes its poison bit if its write port was idle in the tick before `t`, else it
waits for the next (R182). -/
def Stall.markRow (st : Stall) (t key : Nat) : Stall :=
  if (sget st.errs key).isNone then st
  else if !st.idlePort (t - 1) (keyPort key) then st.at_ (t + 1) (.mark key)
  else if key < 2 ^ 20 then st.putWord (key / 4096) (key % 4096) (st.word (key / 4096) (key % 4096)).1 true
  else st.putSide ((key - 2 ^ 20) / 128) (key % 128) (st.sidecar ((key - 2 ^ 20) / 128) (key % 128)) true

/-- Rows per region of the tester. -/
def regionRows : Nat := 8

/-- What the tester finds in the rows of a region: errors of its reads, as (row, uncorrectable), and rows that fail. -/
def regionFinds (errs : List (Nat × Bool)) (fails : List Nat) : List RowFind :=
  (List.range regionRows).map fun i => ⟨i, errs.contains (i, false), errs.contains (i, true), fails.contains i⟩

/-- May the tester open a region in a bank (R199)? -/
def Stall.testable (st : Stall) (b : Nat) : Bool := (st.bank b).awake && (st.bank b).scrubEnd.isNone

/-- The next region of a store: that of the first queued row, else the next of an awake bank in bank and row order from the
tester's position (R197); the answer is bank, first row, and the position after it. -/
def Stall.nextRegion (st : Stall) (store : Nat) : Option (Nat × Nat × Nat) :=
  let per := bankRows (store * 32) / regionRows
  let pos := sgetD st.testAt store 0
  match st.testQ.find? fun k => k / 4096 = store && st.testable (bankOf store (k % 4096)) with
  | some k => some (bankOf store (k % 4096), rowOf store (k % 4096) / regionRows * regionRows, pos)
  | none =>
    (((List.range (32 * per)).map fun i => (pos + i) % (32 * per)).find? fun q => st.testable (store * 32 + q / per)).map
      fun q => (store * 32 + q / per, q % per * regionRows, (q + 1) % (32 * per))

/-- The tester reads a row into its save buffer, which serves it poisoned after an uncorrectable error (R182, R197). -/
def Stall.saveRow (st : Stall) (sn t b row : Nat) (corrected uncorr : Bool) : Stall × List Eff :=
  let s := b / 32
  let a := rowAddr b row
  let err := sget st.errs (s * 4096 + a)
  let u := uncorr || err = some true
  let st := if u then st.putWord s a (st.word s a).1 true else { st with errs := sdel st.errs (s * 4096 + a) }
  if u then st.foundErr sn t b row true
  else if corrected || err = some false then st.foundErr sn t b row false else (st, [])

/-- A region is opened at tick `t` (R197): the tester may use the idle cycles of its bank from then on. -/
def Stall.testRegion (st : Stall) (t store : Nat) (finds : List RowFind) : Stall :=
  let cfg := st.reg 0x5F0
  if !bit cfg 0 || decide (3 < store) || (sget st.regions store).isSome || decide (t < sgetD st.testAt (8 + store) 0) then st
  else match st.nextRegion store with
  | none => st
  | some (b, first, pos) => { st with
      testAt := sput 0 st.testAt store pos, regions := sset st.regions store ⟨b, first, finds, 0, t⟩
      testQ := st.testQ.filter fun k => !(k / 4096 = store && bankOf store (k % 4096) = b
        && rowOf store (k % 4096) / regionRows * regionRows = first) }

/-- Accesses that the tester makes to a region: 8 reads into the save buffer, 80 of March C-, 8 writes back (R197). -/
def regionAccesses : Nat := 96

/-- Is access `i` of the tester a write? March C- writes 0 to every row, then goes through the rows four times with a read and a
write of each, then reads every row (R196, R197). -/
def testerWrites (i : Nat) : Bool :=
  if i < 8 then false else if i < 16 then true else if i < 80 then i % 2 = 1 else decide (88 ≤ i)

/-- A row that failed its test is mapped to a free spare row of its bank, or is left in service with its word poisoned (R198). -/
def Stall.repairRow (st : Stall) (sn t b row : Nat) : Stall × List Eff :=
  let x := st.bank b
  let a := rowAddr b row
  if x.spares.length < 4 then ((st.setBank b { x with spares := x.spares ++ [row] }).bump 0x758 1, [])
  else ({ st.putWord (b / 32) a (st.word (b / 32) a).1 true with exhausted := true }, [.ev (st.rowEv sn t b row 0x2102 3)])

/-- The restore of a store's open region ends at tick `t` (R197, R198): failing rows are repaired, the region is counted with the
words moved, the tester rests, and a bank due for retention enters it. -/
def Stall.restore (st : Stall) (sn t store : Nat) : Stall × List Eff :=
  match sget st.regions store with
  | none => (st, [])
  | some g =>
    let st := { st with regions := sdel st.regions store }
    let r := (g.finds.filter (·.fails)).foldl (fun (acc : Stall × List Eff) f =>
      let q := acc.1.repairRow sn t g.bank (g.first + f.row % regionRows); (q.1, acc.2 ++ q.2)) (st, [])
    let st := (r.1.bump 0x750 1).bump 0x730 (2 * regionRows)
    let st := { st with testAt := sput 0 st.testAt (8 + store) (t + 4096 * bits (st.reg 0x5F0) 15 8) }
    (if (st.bank g.bank).sleepAt.isSome then st.sleepNow t g.bank else st, r.2)

/-- The tester's access of tick `u` to a store's open region, where the port is idle and no stealer waits for it (R184, R197): a
row is read into the save buffer, tested, or written back; the last access restores the region. A stealer word that waits has
waited since it came, and takes every tick up to `now`. -/
def Stall.testTick (st : Stall) (sn now u store : Nat) : Stall × List Eff :=
  match sget st.regions store with
  | none => (st, [])
  | some g =>
    let p := g.bank + (if testerWrites g.done then 0 else 128)
    let next (n at_ : Nat) : Stall := { st with regions := sset st.regions store { g with done := n, at_ := at_ } }
    if st.steal.any fun s => s.port = p && decide (s.since ≤ u) then (next g.done now, [])
    else if !st.idlePort u p then (next g.done (u + 1), [])
    else
      let st := next (g.done + 1) (u + 1)
      if g.done < regionRows then
        let f := g.finds.find? fun f => f.row % regionRows = g.done
        st.saveRow sn u g.bank (g.first + g.done) (f.elim false (·.corrected)) (f.elim false (·.uncorr))
      else if g.done + 1 = regionAccesses then st.restore sn u store
      else (st, [])

/-- The tester's accesses to a store before tick `now`; `fuel` bounds the ticks. -/
def Stall.testTo (sn now store : Nat) : Nat → Stall → Stall × List Eff
  | 0, st => (st, [])
  | fuel + 1, st => match sget st.regions store with
    | none => (st, [])
    | some g =>
      if now ≤ g.at_ then (st, [])
      else
        let a := st.testTick sn now g.at_ store
        let b := a.1.testTo sn now store fuel
        (b.1, a.2 ++ b.2)

/-- The tester takes the cycles before tick `now` that engines and stealers left it (R184, R197). -/
def Stall.testAll (st : Stall) (sn now : Nat) : Stall × List Eff :=
  (List.range 4).foldl (fun (acc : Stall × List Eff) store =>
    let r := acc.1.testTo sn now store (regionAccesses + acc.1.claims.length + acc.1.used.length)
    (r.1, acc.2 ++ r.2)) (st, [])

/-! ### What is due in a tick (R120, R185, R217) -/

/-- A word that loses a bank clash faults in the tick of the clash (R185); the accesses that it had still to make are dropped. -/
def Stall.clashLost (st : Stall) (sn t : Nat) (x : Access) : Stall × List Eff :=
  let job := (st.jobSlot x.slot).job
  let at_ : Nat × Nat :=
    if x.key < 2 ^ 20 then (x.key / 4096, x.key % 4096 / slotWords (x.key / 4096)) else ((x.key - 2 ^ 20) / 128, x.key % 128)
  let st := { st with claims := st.claims.filter fun c => !(c.sameWord x && decide (t ≤ c.tick)) }
  (((st.record (wordFault x.eng job x.issue x.pc ⟨0x2202, at_.1, at_.2, 0, 0⟩)).setSubq x.slot x.eng
      { st.subq x.slot x.eng with stopped := true }),
   [.ev (st.ev sn t 0x2202 2 job (2 ^ 32 * (at_.1 + 8 * at_.2)))])

/-- A bank clash at a port (R185): the word issued earliest keeps it, of two issued in one tick that of the earlier engine (R120),
and the others fault. -/
def Stall.clash (st : Stall) (sn t port : Nat) : Stall × List Eff :=
  let l := st.claims.filter fun c => c.tick = t && c.port = port
  match argmin (fun c : Access => c.issue * 4 + c.eng.num) l with
  | none => (st, [])
  | some w => l.foldl (fun (acc : Stall × List Eff) x =>
      if x.sameWord w || !(acc.1.claims.contains x) then acc
      else let r := acc.1.clashLost sn t x; (r.1, acc.2 ++ r.2)) (st, [])

/-- What is due happens at tick `t`. -/
def Stall.doDue (st : Stall) (sn t : Nat) : Due → Stall × List Eff
  | .showStat key => ({ st with tshown := sput 0#32 st.tshown key (st.tstat key) }, [])
  | .clash port => st.clash sn t port
  | .readErr key => st.readErr sn t key
  | .mark key => (st.markRow t key, [])
  | .flit b => (st.nextFlit t b, [])
  | .sleep b => (if st.shut b || (st.bank b).wakeEnd.isSome then st else st.toSleep t b, [])

/-- Tick `u` of a stall: the end of the tick before, the array, and what is due. -/
def Stall.runTick (st : Stall) (sn u : Nat) : Stall × List Eff :=
  let a := st.endTick sn u
  let b := if a.1.array.next = some u then a.1.arrayTick sn u else (a.1, [])
  let due := b.1.agenda.filter fun q => decide (q.1 ≤ u)
  due.foldl (fun (acc : Stall × List Eff) q => let r := acc.1.doDue sn q.1 q.2; (r.1, acc.2 ++ r.2))
    ({ b.1 with agenda := b.1.agenda.filter fun q => !decide (q.1 ≤ u) }, a.2 ++ b.2)

/-- The next tick in which something happens in a stall by itself. -/
def Stall.nextTick (st : Stall) : Option Nat := argmin id (st.array.next.toList ++ st.agenda.map (·.1))

/-- The ticks up to `now` in which something happens, in order; `fuel` bounds them. -/
def Stall.runTo (sn now : Nat) : Nat → Stall → Stall × List Eff
  | 0, st => (st, [])
  | fuel + 1, st => match st.nextTick with
    | none => (st, [])
    | some u =>
      if now < u then (st, [])
      else
        let a := st.runTick sn u
        let b := a.1.runTo sn now fuel
        (b.1, a.2 ++ b.2)

/-- Store word accesses made are charged to the jobs of their words (R384); a sidecar's are none. -/
def Stall.spendAccesses (st : Stall) (l : List Access) : Stall :=
  l.foldl (fun (a : Stall) x => if x.port < 256 then a.spend (a.jobSlot x.slot).job workKind.store 1 else a) st

/-- A stall is brought up to tick `now`: the array, what was due, the ends of the ticks passed (R120), and the tester's cycles
before it; ports used before are forgotten. -/
def Stall.settle (st : Stall) (sn now : Nat) : Stall × List Eff :=
  let a := Stall.runTo sn now (4 * (st.array.left + st.agenda.length + st.claims.length + st.used.length)) st
  let b := a.1.endTick sn now
  let c := b.1.testAll sn now
  (({ c.1 with
    claims := c.1.claims.filter fun x => decide (now ≤ x.tick), used := c.1.used.filter fun q => decide (now ≤ q.1) }).spendAccesses
      (c.1.claims.filter fun x => decide (x.tick < now)), a.2 ++ b.2 ++ c.2)

end Sys2Proof.Machine
end

