-- ==== Sys2Proof/Machine/StepCtl.lean ====
section
/-! DEFINITION. Starting and ending a step on a stall (R129, R130, R223), what a round boundary does to a stall (R36,
R126, R130, R302), arrivals of words (R111, R124), completion of words (R116, R154 to R156, R398), and the restores of
R194, R227 and R404. -/
namespace Sys2Proof.Machine

/-- Words in flight and transfers of a slot: the operations that have not completed (R130). -/
def Stall.opsOpen (st : Stall) (k : Nat) : Bool :=
  st.flight.any (fun f => f.slot = k) || st.tags.any fun q => q.2.slot = k

/-- Is a slot's step running or draining? -/
def Stall.slotBusy (st : Stall) (k : Nat) : Bool := (st.slotSt k).running || (st.slotSt k).draining

/-- Does the job have a step running or draining on the stall (R194)? -/
def Stall.jobBusy (st : Stall) (j : Nat) : Bool :=
  (List.range 8).any fun k => (st.jobSlot k).job = j && st.slotBusy k

/-- Drop the chits, outstanding counts, landings, streams and recorded alive values of a job (R223). -/
def Stall.clearChits (st : Stall) (k : Nat) : Stall :=
  let job := (st.jobSlot k).job
  let r := st.jobRes k
  let st := (List.range 16).foldl (fun s n =>
    if (s.ringCfg n).job = job then
      let g := s.ring n
      s.setRing n { g with outstanding := 0, landing := [] }
    else s) st
  { st with alive := st.alive.filter fun q =>
      !(if q.1 < 16 then (st.ringCfg q.1).job = job
        else if q.1 < 1024 then decide (64 + r.tallyBase ≤ q.1) && decide (q.1 < 64 + r.tallyBase + r.tallyCount)
        else (q.1 - 1024) / 32768 = k) }

/-- Is a go refused (R129)? -/
def Stall.goRefused (st : Stall) (t k start : Nat) : Bool :=
  start % 64 != 0 || decide (start < t + 4096) || !(st.jobSlot k).valid || (st.slotSt k).running

/-- A sub-queue at a go (R129): its base is set and its failed-check count cleared; the words that the fetchers have filled it
with stay (R446). -/
def SubQ.begun (q : SubQ) (start : Nat) : SubQ :=
  { q with base := start, fails := 0, stopped := false, ended := false, pc := q.ords.headD q.next, lastPc := 0, lastTick := 0 }

/-- A go for slot `k` at tick `t` with STEP_START `start` and step number `step` (R129, R220, R223). A go that is accepted drops
an abort of the slot that still waits for its boundary (DESIGN CHOICE, log entry 72). -/
def Stall.go (st : Stall) (t k start step : Nat) : Stall :=
  let s := st.slotSt k
  if st.goRefused t k start then st.setSlot k { s with refused := true }
  else
    let st := st.clearChits k
    st.setSlot k { SlotSt.empty with
      running := true, draining := s.draining, step := step, feed := s.feed
      q := ⟨s.q.mx.begun start, s.q.vx.begun start, s.q.pt.begun start, s.q.ex.begun start⟩ }

/-- An abort for slot `k` takes effect at the next round boundary; with go also set the write is ignored (R130, R134). -/
def Stall.abort (st : Stall) (k : Nat) : Stall := st.setSlot k { st.slotSt k with abortReq := true }

/-- The abort takes effect (R130): every word of the slot is discarded, with what its fetchers hold. -/
def Stall.abortNow (st : Stall) (k : Nat) : Stall :=
  let s := st.slotSt k
  if !s.abortReq then st
  else
    let clear (q : SubQ) : SubQ := { q with words := [], ords := [], next := 0, pc := 0, stopped := false, ended := false, lastOff := none }
    st.setSlot k { s with
      abortReq := false, running := false, draining := st.opsOpen k, feed := .all []
      q := ⟨clear s.q.mx, clear s.q.vx, clear s.q.pt, clear s.q.ex⟩ }

/-- The last operation of a slot's step has completed (R130). -/
def Stall.drainEnd (st : Stall) (k : Nat) : Stall :=
  let s := st.slotSt k
  if st.opsOpen k then st
  else if s.draining then st.setSlot k { s with draining := false }
  else if s.running && s.q.mx.ended && s.q.vx.ended && s.q.pt.ended && s.q.ex.ended then
    st.setSlot k { s with running := false }
  else st

/-- A round in which the slot's job may not issue: every base moves by one round (R36, R126). -/
def Stall.skipRound (st : Stall) (k : Nat) : Stall :=
  let s := st.slotSt k
  let mv (q : SubQ) : SubQ := { q with base := q.base + 4096 }
  st.setSlot k { s with q := ⟨mv s.q.mx, mv s.q.vx, mv s.q.pt, mv s.q.ex⟩ }

/-- Rings that a PROV_RESOLVE entry (job, step, commit) resolves (R302, R308). -/
def Stall.provRings (st : Stall) (job step : Nat) : List Nat :=
  (List.range 16).filter fun n =>
    let c := st.ringCfg n
    c.valid && c.prov && c.job = job && (st.ring n).held != 0 && (st.ring n).heldStep % 65536 = step % 65536

/-- A provisional ring resolves at boundary `B`; its slots are counted on the die's page (R302, R307). -/
def Stall.resolveProv (st : Stall) (sn B : Nat) (r : Nat × Nat × Bool) : Stall × List Eff :=
  (st.provRings r.1 r.2.1).foldl (fun (a : Stall × List Eff) n =>
    (a.1.later B (.resolve n r.2.2),
     a.2 ++ [.count (pageNo .cdie (sn / 128)) (if r.2.2 then 0x60 else 0x68) (a.1.ring n).held])) (st, [])

/-- What a round boundary does to a stall: its page's commit, suspended and masked rounds, aborts, and resolutions of
provisional rings in force. -/
def Stall.boundary (st : Stall) (sn B : Nat) (masked : Bool) (res : List (Nat × Nat × Bool)) : Stall × List Eff :=
  let st := if st.page.commit then (st.accrue B).commitPage sn B else st
  let st := { st with page := st.page.takeLate }
  let st := (List.range 8).foldl (fun s k =>
    let s := if (s.jobSlot k).valid && (masked || (s.jobSlot k).suspended) then s.skipRound k else s
    s.abortNow k) st
  res.foldl (fun (a : Stall × List Eff) r => let b := a.1.resolveProv sn B r; (b.1, a.2 ++ b.2)) (st, [])

/-! ### Arrival of words (R111, R124) -/

/-- The sub-queue with one word more, which takes the stream's next ordinal; behind a STEP_END the next step's stream begins
(R109). -/
def SubQ.put (q : SubQ) (w : CWord) : SubQ :=
  let last := w.op = .stepEnd
  { q with
    words := q.words ++ [w], ords := q.ords ++ [q.next], next := if last then 0 else q.next + 1
    pc := if q.words.isEmpty then q.next else q.pc, lastOff := if last then none else some w.common.offset.toNat }

/-- Does the next word that arrives belong to the step that runs? -/
def SubQ.current (q : SubQ) : Bool := !q.ended && !q.words.any fun w => w.op = .stepEnd

/-- A word arrives in the sub-queue of slot `k` on engine `e` at tick `t` (R111, R124). A word of a step that has had no go yet has
no due tick, and cannot have missed it. A word for a sub-queue that a fault or WAIT_TIMEOUT has stopped is dropped unchecked
(DESIGN CHOICE, log entry 72). -/
def Stall.arrive (st : Stall) (sn t k : Nat) (e : Eng) (w : CWord) : Stall × List Eff :=
  let q := st.subq k e
  let off := w.common.offset.toNat
  let due := q.base + off
  let job := (st.jobSlot k).job
  let bad (code aux : Nat) : Stall × List Eff :=
    ((st.record ⟨true, code, e.num, job, 0, 0, due, t, q.next, BitVec.ofNat 32 aux⟩).setSubq k e
        { q with stopped := true }, [.ev (st.ev sn t code 2 job q.next)])
  if q.stopped then (st, [])
  else if (match q.lastOff with | some l => decide (off ≤ l) | none => false) then bad 0x1303 0
  else if Common.reserved w.common || (match w.op.engine with | some x => x != e | none => false) then bad 0x1305 0
  else if (st.slotSt k).running && q.current && decide (due < t) then bad 0x1302 (st.rotaEntry e (due % 4096 / 64))
  else (st.setSubq k e (q.put w), [])

/-- A word of the stream that the fetcher does not deliver (R399): the ordinals count it (R109). -/
def Stall.passOver (st : Stall) (k : Nat) (e : Eng) : Stall :=
  let q := st.subq k e
  st.setSubq k e { q with next := q.next + 1, pc := if q.words.isEmpty then q.next + 1 else q.pc }

/-- Set what the fetcher of an engine's stream holds. -/
def Stall.setFeed (st : Stall) (k : Nat) (e : Eng) (l : List (Option CWord)) : Stall :=
  let s := st.slotSt k
  st.setSlot k { s with feed := s.feed.set e l }

/-- The fetcher fills a sub-queue up to its 64 words from what it holds, in stream order (R109, R446). -/
def Stall.fillFrom (sn t k : Nat) (e : Eng) : List (Option CWord) → Stall → Stall × List Eff
  | [], st => (st.setFeed k e [], [])
  | none :: r, st => (st.passOver k e).fillFrom sn t k e r
  | some w :: r, st =>
    if 64 ≤ (st.subq k e).words.length then (st.setFeed k e (some w :: r), [])
    else
      let b := st.arrive sn t k e w
      let c := b.1.fillFrom sn t k e r
      (c.1, b.2 ++ c.2)

/-- A sub-queue that has room is filled. -/
def Stall.fill (st : Stall) (sn t k : Nat) (e : Eng) : Stall × List Eff := st.fillFrom sn t k e ((st.slotSt k).feed.get e)

/-! ### Completion (R116, R117, R154 to R156, R398) -/

/-- The word of engine `e` in flight that completes first. -/
def Stall.nextDone (st : Stall) (e : Eng) : Option Flight :=
  argmin (fun f => f.tick) (st.flight.filter fun f => f.eng = e)

/-- A word completes at its completion tick: ring advances, findings, signal and pop; a slot that has passed to another job
takes nothing of it (R190). -/
def Stall.wordDone (st : Stall) (sn : Nat) (ctx : JobCtx) (f : Flight) : Stall × List Eff :=
  let c := f.tick
  let job := f.job
  let st := { st with flight := st.flight.erase f }
  if !(st.jobSlot f.slot).valid || (st.jobSlot f.slot).job ≠ job then (st, [])
  else
  let st := st.laters c (f.heads.map (fun q => Act.popRing q.1 q.2 job f.eng.num f.pc f.issue)
    ++ f.tails.map fun q => Act.packRing q job)
  let pl : List Eff := match f.plaus with
    | some a => [.ev (st.ev sn c 0x7101 0 job a), .count (pageNo .cdie (sn / 128)) 0x70 1]
    | none => []
  let sp : Stall × List Eff := match f.sparse with
    | some x =>
      let key := x / 256
      (((st.record ⟨true, 0x1201, f.eng.num, job, key / 128, key % 128, f.issue, 0, f.pc, BitVec.ofNat 32 (x % 8)⟩).bump
        0x6F8 (x % 256 / 8)), [.ev (st.ev sn c 0x1201 0 job (x % 8))])
    | none => (st, [])
  let r := sp.1.complete sn f.slot f.step c f.issue f.pc f.eng ctx f.common
  (r.1, pl ++ sp.2 ++ r.2)

/-! ### Restores (R194, R227, R404) -/

/-- A Clerk write of RING_PTRn (R194). -/
def Stall.writeRingPtr (st : Stall) (n : Nat) (v : W32) : Stall :=
  if st.jobBusy (st.ringCfg n).job then st.bump 0x770 1
  else st.setRing n { st.ring n with head := bits v.toNat 15 0, tail := bits v.toNat 31 16 }

/-- The slot and unit that CHECK_SEL selects (R227). -/
def Stall.checkSel (st : Stall) : Nat × Bool := (bits (st.reg 0x10C) 2 0, bit (st.reg 0x10C) 3)

/-- The running value that CHECK_VAL reads. -/
def Stall.checkVal (st : Stall) : W32 :=
  let s := st.slotSt st.checkSel.1
  if st.checkSel.2 then s.recvRv else s.sendRv

/-- A write of CHECK_VAL (R227). -/
def Stall.writeCheck (st : Stall) (v : W32) : Stall :=
  let k := st.checkSel.1
  let s := st.slotSt k
  if st.slotBusy k then st
  else if st.checkSel.2 then st.setSlot k { s with recvRv := v } else st.setSlot k { s with sendRv := v }

/-- RERUN_ARM for a slot: flags, tallies, rings, foot range and stationary sets of its job (R404). -/
def Stall.rerunArm (st : Stall) (k : Nat) : Stall :=
  if !(st.jobSlot k).valid || st.slotBusy k then st
  else
    let job := (st.jobSlot k).job
    let st := st.zeroRes (st.jobRes k)
    let st := (List.range 16).foldl (fun s n => if (s.ringCfg n).job = job then s.clearRing n else s) st
    let mine (r : Nat) : Bool := match st.footOf job with
      | some a => decide (32 * a.first ≤ r) && decide (r < 32 * a.last + 32)
      | none => false
    let keep (s : Option StatSet) : Option StatSet := match s with
      | some x => if x.job = job then none else some x
      | none => none
    let a := st.array
    { st with array := { a with
        active := keep a.active, shadow := keep a.shadow
        foot := a.foot.filter fun q => !mine q.1
        groups := a.groups.filter fun q => !mine (32 * q.1) } }

end Sys2Proof.Machine
end

