-- ==== Sys2Proof/Machine/Device.lean ====
section
/-! DEFINITION. Operations over the whole device that every family uses: presence (R2, R3), pages and counters, bell
time (R26, log entry 1), the event log and the trace port (R390 to R393, R484, R485). -/
namespace Sys2Proof.Machine

/-! ### Parts and pages -/

/-- Rows of a compute die that are not fused (R2). -/
def State.rows (s : State) : Nat := 8 - s.fuses.grade

/-- Is a stall present (R2)? -/
def State.stallPresent (s : State) (n : Nat) : Bool := decide (n < 1536) && decide (n % 128 / 16 < s.rows)

/-- Is an aisle port present (R3)? -/
def State.portPresent (s : State) (p : Nat) : Bool := decide (p < 12) && !(s.fuses.grade = 2 && p % 3 = 2)

/-- A stall. -/
def State.stall (s : State) (n : Nat) : Stall := sgetD s.stalls n .empty

/-- Put a stall back. -/
def State.setStall (s : State) (n : Nat) (st : Stall) : State := { s with stalls := sset s.stalls n st }

/-- A register page by its page number. -/
def State.page (s : State) (n : Nat) : Page :=
  if 0x1000 ≤ n && n < 0x1600 then (s.stall (n - 0x1000)).page else sgetD s.pages n .empty

/-- Put a page back. -/
def State.setPage (s : State) (n : Nat) (p : Page) : State :=
  if 0x1000 ≤ n && n < 0x1600 then s.setStall (n - 0x1000) { s.stall (n - 0x1000) with page := p }
  else { s with pages := sset s.pages n p }

/-- Add to a counter of a page (R415). -/
def State.count (s : State) (page off n : Nat) : State :=
  if n = 0 then s else s.setPage page ((s.page page).bump off n)

/-- Does a register still hold 0 because the opening inspection has not ended: REQ_CLASS, until it is first written (R14,
R233, R240)? -/
def State.unready (s : State) (p : PageTy) (off : Nat) (l : List (Nat × W32)) : Bool :=
  p = .arb && (off = 0x140 || off = 0x144) && !s.boot.inspected && (sget l off).isNone

/-- The stored word of a register (R14, R463). -/
def State.regWord (s : State) (p : PageTy) (i off : Nat) : W32 :=
  let pg := s.page (pageNo p i)
  if s.unready p off pg.live then 0#32 else pg.word p i off

/-- The shadow word of a register (R14, R463). -/
def State.shadowReg (s : State) (p : PageTy) (i off : Nat) : W32 :=
  let pg := s.page (pageNo p i)
  if s.unready p off pg.shadow then 0#32 else pg.shadowWord p i off

/-- The live word of a register that stores one. -/
def State.live (s : State) (p : PageTy) (i off : Nat) : Nat := (s.regWord p i off).toNat

/-- Is the present tick a round boundary that is still to be taken: do writes belong to the next (R464)? -/
def State.atBoundary (s : State) : Bool := decide (s.bell.nextRound ≤ s.bell.now)

/-- Write the shadow of a register (R463). -/
def State.shadow (s : State) (p : PageTy) (i off v : Nat) : State :=
  s.setPage (pageNo p i) ((s.page (pageNo p i)).writeShadow p i off (BitVec.ofNat 32 v) s.atBoundary)

/-- Write the shadows of consecutive registers. -/
def State.shadows (s : State) (p : PageTy) (i off : Nat) (vs : List Nat) : State :=
  (vs.zipIdx).foldl (fun s q => s.shadow p i (off + 4 * q.2) q.1) s

/-- Request a commit of a page (R464). -/
def State.requestCommit (s : State) (p : PageTy) (i : Nat) : State :=
  s.setPage (pageNo p i) ((s.page (pageNo p i)).request s.atBoundary)

/-- The shadow word of a register that the writes so far leave. -/
def State.shadowOf (s : State) (p : PageTy) (i off : Nat) : Nat :=
  let pg := s.page (pageNo p i)
  if s.unready p off pg.shadow && (sget pg.lateShadow off).isNone then 0 else (pg.shadowNext p i off).toNat

/-- A job. -/
def State.job (s : State) (j : Nat) : Option Job := sget s.jobs j

/-- Put a job back. -/
def State.setJob (s : State) (j : Nat) (v : Job) : State := { s with jobs := sset s.jobs j v }

/-- A hub. -/
def State.hub (s : State) (h : Nat) : Hub := sgetD s.hubs h .empty

/-- Put a hub back. -/
def State.setHub (s : State) (h : Nat) (v : Hub) : State := { s with hubs := sset s.hubs h v }

/-- An aisle port. -/
def State.aisle (s : State) (p : Nat) : Aisle := sgetD s.aisles p .empty

/-- Put an aisle port back. -/
def State.setAisle (s : State) (p : Nat) (v : Aisle) : State := { s with aisles := sset s.aisles p v }

/-- A LemefLink half-port. -/
def State.half (s : State) (h : Nat) : Half := sgetD s.halves h .empty

/-- Put a half-port back. -/
def State.setHalf (s : State) (h : Nat) (v : Half) : State := { s with halves := sset s.halves h v }

/-- A ledger. -/
def State.ledger (s : State) (j : Nat) : Ledger := sgetD s.ledgers j .empty

/-- Put a ledger back. -/
def State.setLedger (s : State) (j : Nat) (v : Ledger) : State := { s with ledgers := sset s.ledgers j v }

/-- What leaves the device, newest last. -/
def State.emit (s : State) (o : Out) : State := { s with out := s.out ++ [o] }

/-! ### Bell time (R26, R41) -/

/-- Do the clocks run: power, no reset, no thermal trip, and the bell counts (R43, R481)? -/
def State.clocked (s : State) : Bool :=
  s.pins.vio && s.pins.pwrGood && s.pins.resetN && !s.pins.trip && s.bell.state != 0

/-- What the clocked logic cannot change: pins driven from outside and the straps sampled at reset, all but `last_trip`
(R474, R481); the fuses, which are blown once and whose rollback counter only grows (R451); and the queue of commands. -/
def State.within (s s' : State) : State :=
  { s' with
    pins := { s.pins with lastTrip := s'.pins.lastTrip }
    fuses := { s.fuses with rollback := max s.fuses.rollback s'.fuses.rollback }
    pending := s.pending }

/-- A command acts only while the clocks run (R26, R478, R481): else the state stays as it is. -/
def State.on (s s' : State) : State := if s.clocked then s.within s' else s

/-- What the Clerk's firmware does waits while the primary Clerk restarts (R413). -/
def State.onClerk (s s' : State) : State := if s.clocked && s.clerk.serving then s.within s' else s

/-- Bell time reaches tick `t`, wrapping after 2^64 (R26); a tick that is not later moves nothing (log entry 1).
HOLDOVER_TICKS counts (R41). -/
def State.advance (s : State) (t : Nat) : State :=
  if !s.clocked || decide (t ≤ s.bell.now) then s
  else
    let n := t - s.bell.now
    let s := { s with bell := { s.bell with now := t % 2 ^ 64 } }
    if s.bell.state = 4 then s.count (pageNo .bell 0) 0x60 n else s

/-! ### Arbiter cycles (R229, R231) -/

/-- Cycles per tick of an instance, as a fraction (R229). -/
def arbRate (a : Nat) : Nat × Nat :=
  if a < 1536 then (1, 1) else if a < 1560 then (625, 528) else if a < 1584 then (125, 96)
  else if a < 1600 then (16, 33) else if a < 1604 then (1, 2) else if a < 1616 then (1, 4) else (1, 3)

/-- First cycle that begins at or after tick `t`. -/
def firstCycle (a t : Nat) : Nat := cdiv (t * (arbRate a).1) (arbRate a).2

/-- The cycle of an instance that bell time lies in. -/
def State.arbNow (s : State) (a : Nat) : Nat := s.bell.now * (arbRate a).1 / (arbRate a).2

/-- A link replay occupies an output for `n` cycles (R231). -/
def State.occupy (s : State) (a output n : Nat) : State :=
  let o := sgetD s.arbs (a * 128 + output) .empty
  { s with arbs := sset s.arbs (a * 128 + output) { o with busyTo := max o.busyTo (s.arbNow a + 1) + n } }

/-- The transfer that holds an arbiter output. -/
def State.holder (s : State) (a output : Nat) : Option Holder := (sgetD s.arbs (a * 128 + output) .empty).hold

/-- An output whose link is gone is held by nothing. -/
def State.freeOutput (s : State) (a output : Nat) : State :=
  match sget s.arbs (a * 128 + output) with
  | some o => { s with arbs := sset s.arbs (a * 128 + output) { o with hold := none } }
  | none => s

/-! ### The trace port (R484, R485) -/

/-- Quarter bits of line time that a record takes on the port: six blocks of 66 bits. -/
def traceCost : Nat := 6 * 66 * 4

/-- Send a 40-byte trace record of a type with 32 body bytes, or drop it where 64 KiB wait (R484). The four lanes carry
125 quarter bits per tick (log entry 44). -/
def State.traceRec (s : State) (ty : Nat) (body : List Byte) : State :=
  if !bit (s.live .trace 0 0x100) 0 then s
  else
    let t := s.bell.now
    let wait := s.trace.backlog - 125 * (t - s.trace.at_)
    let q := s.trace.seq
    let s := { s with trace := { s.trace with seq := (q + 1) % 2 ^ 32, backlog := wait, at_ := t } }
    if wait / traceCost * 40 + 40 > 65536 then s.count (pageNo .trace 0) 0x48 1
    else
      let s := { s with trace := { s.trace with backlog := wait + traceCost } }
      (s.count (pageNo .trace 0) 0x40 1).emit
        (.trace t (q % 4) (leBytes 4 ty ++ leBytes 4 q ++ (body ++ List.replicate 32 0#8).take 32))

/-! ### The event log (R390 to R393) -/

/-- The 32 bytes of an event record (R392). -/
def EvRec.bytes (r : EvRec) : List Byte :=
  leBytes 2 r.ev.code ++ leBytes 1 (r.ev.sev % 8 + 8 * b2n r.ev.job.isSome) ++ leBytes 1 (r.ev.job.getD 0 % 64)
    ++ leBytes 4 r.ev.source.toNat ++ leBytes 8 r.ev.tick ++ leBytes 4 r.seq ++ leBytes 4 r.ev.step
    ++ leBytes 8 r.ev.aux.toNat

/-- Page number of the block that a PAGE_ID names (R460). -/
def pageOfId (w : W32) : Nat :=
  match allPageTys.find? fun p => p.code = bits w.toNat 15 0 with
  | some p => pageNo p (bits w.toNat 31 16)
  | none => 0

/-- An event is recorded (R392, R393, R462, R469, R470); what follows from its severity is `State.raise`'s. -/
def State.record (s : State) (e : Ev) : State :=
  let r : EvRec := ⟨e, s.events.next, false⟩
  let recs := s.events.recs ++ [r]
  let lost := decide (256 < recs.length) && match recs with | o :: _ => !o.posted | [] => false
  let s := { s with
    events := ⟨(s.events.next + 1) % 2 ^ 32, if 256 < recs.length then recs.drop 1 else recs, some r,
      if e.sev = 4 && s.events.fatal.isNone then some r else s.events.fatal⟩
    rings := { s.rings with lost := (s.rings.lost + b2n lost) % 2 ^ 32 } }
  let s := s.count (pageNo .fault 0) (0x40 + 8 * min e.sev 4) 1
  let s := if lost then s.count (pageNo .fault 0) 0x68 1 else s
  let pg := pageOfId e.source
  let p := s.page pg
  let s := s.setPage pg { p with pendingEv := p.pendingEv ||| BitVec.ofNat 5 (2 ^ e.sev) }
  let f := s.live .trace 0 0x104
  if bit f (e.code / 4096) && decide (bits f 20 18 ≤ e.sev) then s.traceRec 0 r.bytes else s

/-- An event of the Clerk or of a block at the present tick. -/
def State.mkEv (s : State) (code sev : Nat) (job : Option Nat) (p : PageTy) (i step aux : Nat) : Ev :=
  ⟨code, sev, job, pageId p i, step, s.bell.now, BitVec.ofNat 64 aux⟩

/-- The Clerk core and hub that is primary (R20). -/
def State.primary (s : State) : Nat := s.clerk.primary

end Sys2Proof.Machine
end

