-- ==== Sys2Proof/Machine/Links.lean ====
section
/-! DEFINITION. LemefLink slots (R426 to R430, R433), the lines that the device writes into companion memory, the
companion's rings (R435 to R437, R441), and the ledgers' charges (R383). -/
namespace Sys2Proof.Machine

/-! ### Slots (R427, R428) -/

/-- The fields of a slot. -/
structure Slot where
  data : List Byte
  ty : Nat
  pool : Nat
  tag : Nat
  addr : Nat
  mask : W64
  seq : Nat
  ack : Nat
  ackValid : Bool
  nak : Bool
  crPool : Nat
  crCount : Nat
  status : Nat
  deriving DecidableEq, Repr

/-- The 92 bytes that crc covers. -/
def Slot.low (x : Slot) : List Byte :=
  (x.data ++ List.replicate 64 0#8).take 64 ++ leBytes 4 (x.ty % 16 + 16 * (x.pool % 8) + 256 * (x.tag % 4096))
    ++ leBytes 8 (x.addr % 2 ^ 52 / 64 * 64) ++ leBytes 8 x.mask.toNat
    ++ leBytes 4 (x.seq % 4096 + 2 ^ 12 * (x.ack % 4096) + 2 ^ 24 * b2n x.ackValid + 2 ^ 25 * b2n x.nak)
    ++ leBytes 4 (x.crPool % 8 + 256 * (x.crCount % 256) + 2 ^ 16 * (x.status % 256))

/-- The 96 bytes of a slot. -/
def Slot.bytes (x : Slot) : List Byte := x.low ++ leBytes 4 (check32 x.low).toNat

/-- The fields of a received slot. -/
def slotOf (b : List Byte) : Slot :=
  let w1 := leAt b 64 4
  let w3 := leAt b 84 4
  let w4 := leAt b 88 4
  ⟨b.take 64, bits w1 3 0, bits w1 6 4, bits w1 19 8, leAt b 68 8 % 2 ^ 52 / 64 * 64, BitVec.ofNat 64 (leAt b 76 8),
   bits w3 11 0, bits w3 23 12, bit w3 24, bit w3 25, bits w4 2 0, bits w4 15 8, bits w4 23 16⟩

/-- Does crc pass (R427)? -/
def slotOk (b : List Byte) : Bool := b.length = 96 && (check32 (b.take 92)).toNat = leAt b 92 4

/-- Is a slot type sequenced (R428)? -/
def slotSequenced (ty : Nat) : Bool := decide (1 ≤ ty) && decide (ty ≤ 7)

/-- Slots of a half-port's receive buffer by pool (R430). -/
def slotSplit : List Nat := [64, 128, 128, 64, 128]

/-- Page number and index of the counters of a half-port: halves 0 and 1 are LEMEF0's (R426). -/
def lemefPage (h : Nat) : Nat := pageNo .lemef (h / 2)

/-- Credits that a half-port returns in its next slot: the lowest pool that has any (R340). -/
def oweHead : List Nat → Nat → Nat × Nat
  | [], _ => (0, 0)
  | 0 :: r, i => oweHead r (i + 1)
  | n :: _, i => (i, min n 255)

/-- A slot leaves half-port `h`: acknowledgement, the NAK that is still to be sent and credits ride on it. -/
def State.putSlot (s : State) (t h : Nat) (x : Slot) : State :=
  let f := s.half h
  let c := oweHead f.owed 0
  let x := { x with
    ack := (f.rxSeq + 4095) % 4096, ackValid := f.acked, nak := f.nakOwed, crPool := c.1, crCount := c.2 }
  let f := { f with owed := lmod f.owed c.1 (· - c.2), nakOwed := false }
  let f := if slotSequenced x.ty then
      { f with replay := f.replay ++ [⟨x.seq, 1, x.bytes⟩], ackAt := if f.replay.isEmpty then t else f.ackAt } else f
  (s.setHalf h f).emit (.slot t h x.bytes)

/-- Did a hub's Clerk core pass the opening inspection and has it not failed? -/
def State.clerkUp (s : State) (h : Nat) : Bool := s.clerk.cores.getD h 0 != 0 && s.clerk.cores.getD h 0 != 4

/-- Is the line cache there: H0 has not failed the opening inspection, nor gone out of service since (R433, R434)? -/
def State.lineCache (s : State) : Bool := !s.boot.inspected || s.clerkUp 0

/-- The half-port that carries traffic meant for `h`: itself, the other of its port, then the other port (R429). -/
def State.liveHalf (s : State) (h : Nat) : Nat :=
  ([h, h / 2 * 2 + (1 - h % 2), (h + 2) % 4, (h / 2 * 2 + (1 - h % 2) + 2) % 4].find? fun x => (s.half x).state = 2).getD h

/-- Does a slot ask for a response: RD, RD_SHARED or WR (R428)? -/
def slotAsks (ty : Nat) : Bool := ty = 1 || ty = 2 || ty = 4

/-- A slot is queued for a half-port, a request with the next tag of the half that carries it. It leaves by a grant of the port's
arbiter (R231, R426). -/
def State.sendSlot (s : State) (h : Nat) (q : SlotReq) : State :=
  let h := s.liveHalf h
  let f := s.half h
  s.setHalf h { f with
    queue := f.queue ++ [if slotAsks q.ty then { q with tag := f.tag } else q]
    tag := if slotAsks q.ty then (f.tag + 1) % 4096 else f.tag }

/-- An unsequenced slot that carries an acknowledgement, a NAK or credits. -/
def State.idleSlot (s : State) (t h : Nat) : State := s.putSlot t h ⟨[], 0, 0, 0, 0, 0#64, 0, 0, false, false, 0, 0, 0⟩

/-- The receive buffer gives a slot's place back to the companion (R430). -/
def State.oweSlot (s : State) (h pool : Nat) : State :=
  let f := s.half h
  s.setHalf h { f with owed := lmod f.owed pool (· + 1) }

/-! ### A half-port's slots and its arbiter (R229, R231, R426) -/

/-- ARB instance of a half-port's transmitter; its output is `h % 2` (R426). -/
def lemefArb (h : Nat) : Nat := 1616 + h / 2

/-- Requester that a slot belongs to (R229): the line cache (2), responses to companion reads and writes (3), stream fetches (1),
or completions, events and the Clerk's other traffic (0). -/
def SlotReq.requester (q : SlotReq) : Nat :=
  if q.ty = 2 || q.ty = 7 then 2 else if q.ty = 3 || q.ty = 5 then 3 else if 1 ≤ q.pool && q.pool ≤ 3 then 1 else 0

/-- The first slot of a requester that is at the head of its pool's queue and has a credit (R430, R381); `seen` are the pools
whose heads have been passed. -/
def readySlot (credits : List Nat) (r : Nat) : List SlotReq → List Nat → Nat → Option (Nat × SlotReq)
  | [], _, _ => none
  | q :: l, seen, i =>
    if !seen.contains q.pool && q.requester = r && credits.getD q.pool 0 != 0 then some (i, q)
    else readySlot credits r l (q.pool :: seen) (i + 1)

/-- The requests at the transmitter of a half-port that is UP. -/
def State.halfReqs (s : State) (h : Nat) : List ArbReq :=
  let f := s.half h
  if f.state != 2 then []
  else (List.range 4).filterMap fun r => (readySlot f.credits r f.queue [] 0).map fun q => ⟨r, .other, 1, q.2.job, false⟩

/-- The slot of the requester that holds a half-port's transmitter leaves on its credit. -/
def State.halfBeat (s : State) (t h i : Nat) (q : SlotReq) : State :=
  let f := s.half h
  let s := s.setHalf h { f with
    queue := ldel f.queue i, credits := lmod f.credits q.pool (· - 1), txSeq := (f.txSeq + 1) % 4096
    asked := if slotAsks q.ty then f.asked ++ [q] else f.asked }
  (s.putSlot t h ⟨q.data, q.ty, q.pool, q.tag, q.addr, q.mask, f.txSeq, 0, false, false, 0, 0, q.status⟩).count (lemefPage h) 0x40 1

/-- A NAK whose slot has not come 1,024 slots, 3,072 ticks, later is sent again (R338, R429). -/
def Half.renak (f : Half) (t : Nat) : Half :=
  match f.nakAt with
  | some u => if u + 3072 ≤ t then { f with nakAt := some t, nakOwed := true } else f
  | none => f

/-- A transfer slot of a half-port that is UP (R338, R428): the holder's slot leaves, or an IDLE slot; in a `gap` neither. Whether a
slot of the holder left is told. -/
def State.halfSlot (s : State) (t h : Nat) (hold : Option Holder) (gap : Bool) : State × Bool :=
  if (s.half h).state != 2 then (s, false)
  else
    let s := s.setHalf h ((s.half h).renak t)
    let f := s.half h
    if gap then (s, false)
    else match hold.bind fun x => if f.replay.length < 256 then readySlot f.credits x.req f.queue [] 0 else none with
      | some (i, q) => (s.halfBeat t h i q, true)
      | none => (s.idleSlot t h, false)

/-- A SYSTEM request of the Clerk of hub `hub` leaves through that hub's half-port, or where its traffic has moved (R426,
R429): a slot type, a line address and its data. -/
def State.request (s : State) (hub ty addr : Nat) (data : List Byte) : State :=
  s.sendSlot hub ⟨ty, 0, 0, addr, if ty = 4 then BitVec.allOnes 64 else 0#64, data, 0, none⟩

/-- A full line is written into companion memory by the primary Clerk (R433, R436). -/
def State.writeCompanion (s : State) (addr : Nat) (data : List Byte) : State := s.request s.primary 4 addr data

/-- Several lines from an address. -/
def State.writeLines (s : State) (addr : Nat) (data : List Byte) : State :=
  (List.range (cdiv data.length 64)).foldl (fun s i => s.writeCompanion (addr + 64 * i) ((data.drop (64 * i)).take 64)) s

/-! ### The companion's structures (R435, R454, R456) -/

/-- A 64-bit register of the LEMEF0 page. -/
def State.lemefReg (s : State) (off : Nat) : Nat :=
  s.live .lemef 0 off + 2 ^ 32 * s.live .lemef 0 (off + 4)

/-- Log2 sizes of the submission, completion and event rings. -/
def State.ringLogs (s : State) : Nat × Nat × Nat :=
  let w := s.live .lemef 0 0x138
  (bits w 3 0, bits w 7 4, bits w 11 8)

/-- Are the rings served: enabled and firmware running (R437, R447, R448)? -/
def State.ringsOn (s : State) : Bool := bit (s.live .lemef 0 0x13C) 0 && decide (1 ≤ s.boot.dev) && s.clerk.serving

/-- The 64 bytes of the status line (R435). -/
def State.statusLine (s : State) : List Byte :=
  let r := s.rings
  leBytes 8 r.sqHead ++ leBytes 8 r.cqTail ++ leBytes 8 r.eqTail ++ leBytes 8 r.heartbeat ++ leBytes 8 s.bell.now
    ++ leBytes 1 s.boot.dev ++ leBytes 1 (min 255 s.clerk.restarts) ++ leBytes 1 s.primary ++ [0#8] ++ leBytes 4 r.lost
    ++ List.replicate 16 0#8

/-- The status line is written (R436). -/
def State.writeStatus (s : State) : State :=
  { s with rings := { s.rings with toldLost := s.rings.lost } }.writeCompanion (s.lemefReg 0x130) s.statusLine

/-- The other record of a 32-byte record's line. -/
def lineMate (l : List (Nat × List Byte)) (i : Nat) : List Byte :=
  sgetD l (if i % 2 = 0 then i + 1 else i - 1) (List.replicate 32 0#8)

/-- The line of entry `i` of a ring of 32-byte records (R436). -/
def lineWith (l : List (Nat × List Byte)) (i : Nat) (r : List Byte) : List Byte :=
  if i % 2 = 0 then r ++ lineMate l i else lineMate l i ++ r

/-- Event records are posted in sequence order while the event ring has room (R393, R436); `fuel` bounds them. -/
def State.postEvents (s : State) : Nat → State
  | 0 => s
  | fuel + 1 =>
    let size := 2 ^ s.ringLogs.2.2
    if !s.ringsOn || size ≤ s.rings.eqTail - s.rings.eqHead then s
    else match lfind (fun r : EvRec => !r.posted) s.events.recs 0 with
      | none => s
      | some (i, r) =>
        let ix := s.rings.eqTail % size
        let line := lineWith s.rings.eq ix r.bytes
        let s := { s with
          events := { s.events with recs := lset s.events.recs i { r with posted := true } }
          rings := { s.rings with eqTail := s.rings.eqTail + 1, eq := sset s.rings.eq ix r.bytes } }
        ((s.writeCompanion (s.lemefReg 0x120 + ix / 2 * 64) line).postEvents fuel)

/-- Records are posted, and the status line follows when its counts changed: eq_tail or the events lost (R436). -/
def State.post (s : State) : State :=
  let u := s.postEvents 256
  if u.ringsOn && (u.rings.eqTail != s.rings.eqTail || u.rings.lost != u.rings.toldLost) then u.writeStatus else u

/-- The chargeable events of R384 outside the stalls, by what a ledger counter is charged: blocks of 64 bytes, flits of 88 or
of 256 bytes, update cycles of 256 lanes. -/
def energyEvents (off n : Nat) : Option (Nat × Nat) :=
  if off = 0x70 ∨ off = 0x78 then some (workKind.block, n / 64)
  else if off = 0x88 then some (workKind.flit, n / 88)
  else if off = 0x90 then some (workKind.flit, n / 256)
  else if off = 0x68 then some (workKind.lane, 256 * n)
  else none

/-- A charge's events are noted for the energy interval (R384). -/
def State.noteEnergy (s : State) (j off n : Nat) : State :=
  match energyEvents off n with
  | some (k, m) => s.setLedger j { s.ledger j with events := sset (s.ledger j).events k (sgetD (s.ledger j).events k 0 + m) }
  | none => s

/-- Charge a ledger counter of an open job (R383); one that saturates raises LEDGER_SAT once for the job (R386). -/
def State.charge (s : State) (j off n : Nat) : State :=
  if (s.ledger j).state != 1 then s
  else
    let s := (s.noteEnergy j off n).count (pageNo .ledger j) off n
    let l := s.ledger j
    if l.satRaised || (s.page (pageNo .ledger j)).counter off != BitVec.allOnes 64 then s
    else ((s.setLedger j { l with satRaised := true }).record
      ⟨0x6105, 0, some j, pageId .ledger j, 0, s.bell.now, (s.page (pageNo .ledger j)).word .ledger j 0x110 |>.setWidth 64⟩).post

/-- The 32 bytes of a completion (R441). -/
def completionBytes (d : List Byte) (status cause job rate attempts orig result phase : Nat) : List Byte :=
  (d.drop 8).take 8 ++ d.take 1 ++ leBytes 1 status ++ leBytes 1 job ++ leBytes 1 (phase % 2 + 2 * (rate % 8) + 16 * min 15 attempts)
    ++ leBytes 2 cause ++ leBytes 1 orig ++ [0#8] ++ (d.drop 16).take 8 ++ leBytes 8 result

/-- A completion record, which knows its phase, is written as a full line, then the status line (R436). -/
def State.putCompletion (s : State) (record : Nat → List Byte) : State :=
  let c := s.ringLogs.2.1
  let n := s.rings.cqTail
  let ix := n % 2 ^ c
  let r := record (n / 2 ^ c)
  let line := lineWith s.rings.cq ix r
  let s := { s with rings := { s.rings with cqTail := n + 1, cq := sset s.rings.cq ix r } }
  (s.writeCompanion (s.lemefReg 0x118 + ix / 2 * 64) line).writeStatus

/-- The opcodes that name an open job (R439). -/
def jobOpcodes : List Nat := [0x02, 0x03, 0x04, 0x05, 0x06, 0x08, 0x09, 0x30]

/-- Does an opcode name a job? -/
def jobOpcode (op : Nat) : Bool := jobOpcodes.contains op

/-- The completion of a command (R441), charged to the job that it names or opened (R383; one that completes INVALID names none,
log entry 76). -/
def State.writeCompletion (s : State) (d : List Byte) (status cause job rate attempts orig result : Nat) : State :=
  let op := leAt d 0 1
  let s := (s.putCompletion (completionBytes d status cause job rate attempts orig result)).count (pageNo .clerk 0) 0x48 1
  if status != 7 && (jobOpcode op || (op = 1 && status = 0)) then s.charge (job % 64) 0x98 64 else s

/-- Has the completion ring a free entry beside those reserved (R436)? -/
def State.cqRoom (s : State) : Bool := decide (s.rings.cqTail + s.clerk.taken.length - s.rings.cqHead < 2 ^ s.ringLogs.2.1)

end Sys2Proof.Machine
end

