-- ==== Sys2Proof/Machine/Memory.lean ====
section
/-! DEFINITION. Memory (R243 to R249, R252, R253, R264), group records (R314, R315), commit units and the frame map
(R298, R311). -/
namespace Sys2Proof.Machine

/-! ### Bytes and blocks -/

/-- First physical address of the hall stores (R244). -/
def hallBase : Nat := 2 ^ 40

/-- Stack of a physical address (R244). -/
def stackOf (pa : Nat) : Nat := pa / 2 ^ 36

/-- Channel and pseudo-channel of its stack that a memory block lies on (R245): for the block index `q`, channel q[5:1] XOR
q[19:15], pseudo-channel q[0]. -/
def hbmChannel (pa : Nat) : Nat × Nat :=
  let q := bits pa 35 6
  (bits q 5 1 ^^^ bits q 19 15, bits q 0 0)

/-- Is a physical address in a hole (R244)? -/
def State.hole (s : State) (pa : Nat) : Bool :=
  if pa < hallBase then s.outStacks.contains (stackOf pa) || (s.fuses.grade = 2 && decide (48 * 2 ^ 30 ≤ pa % 2 ^ 36))
  else decide (hallBase + 12 * 2 ^ 25 ≤ pa)

/-- A byte of memory: an unlisted byte reads 0 (log entry 4). -/
def memRead (m : List Host.Cell) (a : Nat) : Byte := sgetD m a 0#8

/-- A byte is written; 0 is not listed. -/
def memWrite (m : List Host.Cell) (a : Nat) (b : Byte) : List Host.Cell := sput 0#8 m a b

/-- Bytes from an address. -/
def memBytes (m : List Host.Cell) (a n : Nat) : List Byte := (List.range n).map fun i => memRead m (a + i)

/-- Consecutive bytes are written from an address. -/
def memPut : List Host.Cell → Nat → List Byte → List Host.Cell
  | m, _, [] => m
  | m, a, b :: r => memPut (memWrite m a b) (a + 1) r

/-- The bytes of a range become 0. -/
def memZero (m : List Host.Cell) (a n : Nat) : List Host.Cell :=
  m.filter fun c => !(decide (a ≤ c.1) && decide (c.1 < a + n))

/-- The 64 bytes of the block at a physical address. -/
def State.line (s : State) (pa : Nat) : Line := bytesLine (memBytes s.mem (pa / 64 * 64) 64)

/-- Is a block stored poisoned (R246), or a hall-store word poisoned (R264)? -/
def State.marked (s : State) (pa : Nat) : Bool := sgetD s.marks (pa / 64) 0 = 1

/-- HBM page of a physical address in a stack. -/
def hbmPage (pa : Nat) : Nat := pageNo .hbm (stackOf pa)

/-- Count on the stack's HBM page (R270); hall stores have none. -/
def State.countHbm (s : State) (pa off n : Nat) : State := if pa < hallBase then s.count (hbmPage pa) off n else s

/-- A block is read: counted, and once more where it holds the poison mark (R270). -/
def State.countRead (s : State) (pa : Nat) : State := (s.countHbm pa 0x40 1).countHbm pa 0x60 (b2n (s.marked pa))

/-- The failed tries of a block's write are counted; the answer tells whether the eighth failed, so that nothing is written
(R248). -/
def State.writeFails (s : State) (pa n : Nat) : State × Bool :=
  if n < 8 then (s.countHbm pa 0x70 n, false) else ((s.countHbm pa 0x70 7).countHbm pa 0x78 1, true)

/-- A whole block is written with a new check, or with the poison mark (R246, R248). -/
def State.putLine (s : State) (pa : Nat) (d : Line) (poison : Bool) : State :=
  let a := pa / 64 * 64
  ({ s with mem := memPut s.mem a (lineBytes d), marks := sput 0 s.marks (a / 64) (b2n poison) }).countHbm a 0x48 1

/-- Bytes of a block are written as read, merge and write; the poison mark stays (R249, R432). -/
def State.mergeLine (s : State) (pa mask d : Nat) (poison : Bool) : State :=
  if mask = 2 ^ 512 - 1 then s.putLine pa (BitVec.ofNat 512 d) poison
  else
    let old := (s.line pa).toNat
    let m := BitVec.ofNat 512 mask
    (s.countRead pa).putLine pa ((BitVec.ofNat 512 old &&& ~~~m) ||| (BitVec.ofNat 512 d &&& m)) (poison || s.marked pa)

/-- Bytes of a range as the memory blocks they lie in take them: address and bytes of each part. -/
def blockParts (a : Nat) (l : List Byte) : List (Nat × List Byte) :=
  let first := min l.length ((64 - a % 64) % 64)
  (if first = 0 then [] else [(a, l.take first)])
    ++ (List.range (cdiv (l.length - first) 64)).map fun i => (a + first + 64 * i, (l.drop (first + 64 * i)).take 64)

/-- Bytes within one memory block are written, as read, merge and write where they are not the whole of it (R249). -/
def State.putPart (s : State) (a : Nat) (b : List Byte) : State :=
  let o := a % 64
  s.mergeLine a ((2 ^ (8 * b.length) - 1) * 2 ^ (8 * o)) (leAt b 0 b.length * 2 ^ (8 * o)) false

/-- Bytes from an address that may cross blocks, written by the Clerk (R243, R270). -/
def State.putBytes (s : State) (a : Nat) (l : List Byte) : State :=
  (blockParts a l).foldl (fun s q => s.putPart q.1 q.2) s

/-- `n` bytes from a block address are zero-filled with clean checks (R255, R270). -/
def State.zeroFill (s : State) (pa n : Nat) : State :=
  ({ s with
    mem := memZero s.mem pa n
    marks := s.marks.filter fun c => !(decide (pa / 64 ≤ c.1) && decide (c.1 < pa / 64 + n / 64)) }).countHbm pa 0x48 (n / 64)

/-! ### Translation (R252, R253) -/

/-- Hub that serves a stall's die (R6). -/
def hubOf (sn : Nat) : Nat := sn / 128 / 3

/-- XLATE_ROOT of a job on a hub (R269): L1 table address, if valid. -/
def State.xlateRoot (s : State) (h j : Nat) : Option Nat :=
  let lo := s.live .hdie h (0x100 + 8 * j)
  let hi := s.live .hdie h (0x104 + 8 * j)
  if bit lo 0 then some ((lo + 2 ^ 32 * hi) % 2 ^ 41 / 2 ^ 14 * 2 ^ 14) else none

/-- A walk of both levels (R252): page address and write, if mapped. -/
def State.walk (s : State) (h j va : Nat) : Option (Nat × Bool) :=
  match s.xlateRoot h j with
  | none => none
  | some l1 =>
    let e1 := leAt (memBytes s.mem (l1 + 8 * bits va 43 33) 8) 0 8
    if !bit e1 0 then none
    else
      let e2 := leAt (memBytes s.mem (bits e1 40 15 * 2 ^ 15 + 8 * bits va 32 21) 8) 0 8
      if !bit e2 0 then none else some (bits e2 40 21 * 2 ^ 21, bit e2 1)

/-- The entry of a translation cache. -/
def Hub.cached (hb : Hub) (j va : Nat) : Option XlateEnt :=
  hb.cache.find? fun e => e.job = j && e.vpn = bits va 43 21

/-- Page address and write of a virtual address: from the cache, else by a walk (R253). -/
def State.pageAt (s : State) (h j va : Nat) : Option (Nat × Bool) :=
  if 2 ^ 44 ≤ va then none
  else match (s.hub h).cached j va with
    | some e => some (e.pa, e.write)
    | none => s.walk h j va

/-- Translation of a demand access: cause of a page fault (0 none, 1 UNMAPPED, 2 READONLY, 3 HOLE) and physical address
(R254, R317). -/
def State.translate (s : State) (sn j : Nat) (wr : Bool) (va : Nat) : Nat × Nat :=
  if inWindow va then (3, 0)
  else match s.pageAt (hubOf sn) j va with
    | none => (1, 0)
    | some (pa, w) =>
      if wr && !w then (2, 0)
      else if s.hole (pa + va % 2 ^ 21) then (3, 0) else (0, pa + va % 2 ^ 21)

/-- Addresses of the table entries that a walk reads: both levels, or the first where it ends the walk (R252). -/
def State.walkReads (s : State) (h j va : Nat) : List Nat :=
  match s.xlateRoot h j with
  | none => []
  | some l1 =>
    let a := l1 + 8 * bits va 43 33
    let e1 := leAt (memBytes s.mem a 8) 0 8
    a :: (if bit e1 0 then [bits e1 40 15 * 2 ^ 15 + 8 * bits va 32 21] else [])

/-- A translated request uses its cache entry, or walks after a miss and fills it (R253, R268, R270). -/
def State.useXlate (s : State) (h j va : Nat) : State :=
  let hb := s.hub h
  match hb.cached j va with
  | some e => (s.setHub h { hb with cache := e :: hb.cache.erase e }).count (pageNo .hdie h) 0x40 1
  | none =>
    let s := (s.walkReads h j va).foldl (fun s a => (s.countRead a).charge j 0x70 64) (s.count (pageNo .hdie h) 0x48 1)
    match s.walk h j va with
    | none => s
    | some (pa, w) => s.setHub h { s.hub h with cache := (⟨j, bits va 43 21, pa, w⟩ :: hb.cache).take 8192 }

/-! ### Group records (R314, R315) -/

/-- A field of a group record. -/
def recField (r : List Byte) (word hi lo : Nat) : Nat := bits (leAt r (4 * word) 8) hi lo

/-- The fields of a group record. -/
structure Group where
  job : Nat
  valid : Bool
  factored : Bool
  mBf : Bool
  vBf : Bool
  keepM : Bool
  exch : Nat
  shard : Bool
  wcFmt : Nat
  wcScale : Nat
  wcSafe : Bool
  wcSr : Bool
  stSr : Bool
  freeze : Nat
  warmExp : Bool
  decay : Nat
  devices : Nat
  rank : Nat
  owner : Nat
  topk : Nat
  etaPeak : W32
  etaMin : W32
  beta1 : W32
  beta2 : W32
  eps : W32
  lambda : W32
  gscale : W32
  eps1 : W32
  warm : Nat
  period : Nat
  mult : W32
  first : Nat
  count : Nat
  rowsB : Nat
  colsB : Nat
  vaMaster : Nat
  vaM : Nat
  vaV : Nat
  vaResid : Nat
  vaWc : Nat
  vaWcs : Nat
  deriving DecidableEq, Repr

/-- A group record's fields (R314). -/
def groupOf (r : List Byte) : Group :=
  let f := recField r
  let w (i : Nat) : W32 := BitVec.ofNat 32 (f i 31 0)
  ⟨f 0 5 0, f 0 6 6 = 1, f 0 7 7 = 1, f 0 8 8 = 1, f 0 9 9 = 1, f 0 10 10 = 1, f 0 12 11, f 0 13 13 = 1, f 0 17 14,
   f 0 19 18, f 0 20 20 = 1, f 0 21 21 = 1, f 0 22 22 = 1, f 0 24 23, f 0 25 25 = 1, f 0 27 26,
   f 1 6 0, f 1 13 8, f 1 21 16, f 1 30 24, w 2, w 3, w 4, w 5, w 6, w 7, w 8, w 9, f 10 31 0, f 11 31 0, w 12,
   f 13 31 0, f 14 31 0, f 15 15 0, f 15 31 16, f 16 43 0, f 18 43 0, f 20 43 0, f 22 43 0, f 24 43 0, f 26 43 0⟩

/-- Format of the working copy. -/
def Group.fmt (g : Group) : Fmt := (Fmt.ofCode (BitVec.ofNat 4 g.wcFmt)).getD .bf16

/-- The planes of a group as (address, bytes per tensor block), in the order of R315. -/
def Group.planes (g : Group) : List (Nat × Nat) :=
  [(g.vaMaster, 4096)]
    ++ (if g.factored && !g.keepM then [] else [(g.vaM, if g.mBf then 2048 else 4096)])
    ++ (if g.factored then [] else [(g.vaV, if g.vBf then 2048 else 4096)])
    ++ (if g.exch = 1 || g.exch = 2 then [(g.vaResid, 2048)] else [])
    ++ [(g.vaWc, blockBytes g.fmt)] ++ (if g.fmt.scaled then [(g.vaWcs, 32)] else [])

/-- Bytes of a FACTORED group's statistics plane (R323). -/
def Group.statBytes (g : Group) : Nat := (32 * g.rowsB + 32 * g.colsB + 1) * 4

/-- Does this device hold a group's master, moments and statistics (R321)? -/
def Group.holds (g : Group) : Bool := !g.shard || g.rank = g.owner

/-- The planes of a group that this device holds (R315, R321). -/
def Group.held (g : Group) : List (Nat × Nat) :=
  if g.holds then g.planes
  else (if g.exch = 1 || g.exch = 2 then [(g.vaResid, 2048)] else [])
    ++ [(g.vaWc, blockBytes g.fmt)] ++ (if g.fmt.scaled then [(g.vaWcs, 32)] else [])

/-- The statistics plane of a FACTORED group where this device holds it (R321, R323): address and bytes. -/
def Group.statPlane (g : Group) : Option (Nat × Nat) := if g.factored && g.holds then some (g.vaV, g.statBytes) else none

/-- Tensor block of a group whose state at this device a virtual address belongs to; the statistics plane counts as block `count`
(log entry 30). -/
def Group.blockAt (g : Group) (va : Nat) : Option Nat :=
  match g.held.find? fun p => decide (p.1 ≤ va) && decide (va < p.1 + g.count * p.2) with
  | some p => some ((va - p.1) / p.2)
  | none => match g.statPlane with
    | some p => if decide (p.1 ≤ va) && decide (va < p.1 + p.2) then some g.count else none
    | none => none

/-- Physical address of the group table (R314, R334). -/
def State.groupBase (s : State) : Nat := (s.live .sched 0 0x100 + 2 ^ 32 * s.live .sched 0 0x104) % 2 ^ 41 / 128 * 128

/-- The group table's record of a group in memory (R314). -/
def State.groupRecord (s : State) (g : Nat) : List Byte := memBytes s.mem (s.groupBase + 128 * g) 128

/-- Is a group's record read (R334)? -/
def State.groupValid (s : State) (g : Nat) : Bool :=
  bit (s.live .sched 0 0x108 + 2 ^ 32 * s.live .sched 0 0x10C) g

/-- The groups of a job's load image. -/
def Job.groups (jb : Job) : List (Nat × Group) :=
  match jb.image with | some im => im.groups.map fun q => (q.1, groupOf q.2) | none => []

/-! ### The unit of a tensor block (R310, R321) -/

/-- Physical address of a virtual address of a job. -/
def State.unitPa (s : State) (j va : Nat) : Nat :=
  match s.walk 0 j va with | some (pa, _) => pa + va % 2 ^ 21 | none => 0

/-- Hub whose unit serves a tensor block (R310). -/
def State.unitOf (s : State) (g : Group) (k : Nat) : Nat :=
  let p : Nat × Nat := if g.holds then (g.vaMaster, 4096) else (g.vaWc, blockBytes g.fmt)
  stackOf (s.unitPa g.job (p.1 + k * p.2)) / 4 % 4

/-! ### Commit units and frames (R298, R299, R311) -/

/-- The commit unit of a job that holds a virtual address, and its hub. -/
def State.unitAt (s : State) (j va : Nat) : Option (Nat × CommitUnit) :=
  ((List.range 4).filterMap fun h =>
    ((s.hub h).units.find? fun u => u.job = j && decide (u.va ≤ va) && decide (va < u.va + u.pages * 2 ^ 21)).map
      fun u => (h, u)).head?

/-- The tensor block of a valid group, by group and index, that a virtual address of a job belongs to (R311). -/
def State.tensorAt (s : State) (j va : Nat) : Option (Nat × Nat) :=
  match s.job j with
  | some jb => ((jb.groups.filter (·.2.valid)).filterMap fun q => (q.2.blockAt va).map fun k => (q.1, k)).head?
  | none => none

/-- Key of a tensor block in a frame map. -/
def frameKey (g k : Nat) : Nat := g * 2 ^ 32 + k

/-- The frame map's entry: committed frame and pending step. -/
def Hub.frame (hb : Hub) (g k : Nat) : Bool × Option Nat := sgetD hb.frames (frameKey g k) (false, none)

/-- Does a range of addresses, with its length, meet a commit unit? -/
def CommitUnit.meets (u : CommitUnit) (r : Nat × Nat) : Bool := decide (u.va < r.1 + r.2) && decide (r.1 < u.va + u.pages * 2 ^ 21)

/-- Does tensor block `k` of a group have a plane in a commit unit? The statistics plane counts as block `count`. -/
def Group.inUnit (g : Group) (u : CommitUnit) (k : Nat) : Bool :=
  (if k = g.count then g.statPlane.toList else g.held.map fun p => (p.1 + k * p.2, p.2)).any u.meets

/-- The earliest step for which a block of a commit unit is pending. -/
def Hub.pendingOf (hb : Hub) (groups : List (Nat × Group)) (u : CommitUnit) : Option Nat :=
  argmin id (hb.frames.filterMap fun (q : Nat × (Bool × Option Nat)) =>
    match q.2.2, groups.find? (fun g => g.1 = q.1 / 2 ^ 32) with
    | some n, some g => if g.2.inUnit u (q.1 % 2 ^ 32) then some n else none
    | _, _ => none)

/-- Physical address that serves a virtual address translated to `pa`: the committed frame, or the other one for an
update-unit write (R311). -/
def State.framePa (s : State) (j va pa : Nat) (upd : Bool) : Nat :=
  match s.unitAt j va, s.tensorAt j va with
  | some (h, u), some (g, k) =>
    if ((s.hub h).frame g k).1 != upd then u.frame1 + (va - u.va) else pa
  | _, _ => pa

/-- Physical addresses of the blocks that a read of a job's block is served from: one, or one for each 32-byte entry (R249,
R311). -/
def State.servedFrom (s : State) (j va pa : Nat) : List Nat :=
  if hallBase ≤ pa then [pa]
  else
    let a := s.framePa j va pa false
    let b := s.framePa j (va + 32) (pa + 32) false
    if b = a + 32 then [a] else [a, b]

/-- The memory block that a read of a job's block returns, each 32-byte entry from the frame that serves it (R249,
R311). -/
def State.served (s : State) (j va pa : Nat) : Line × Bool :=
  if hallBase ≤ pa then (s.line pa, s.marked pa)
  else
    let a := s.framePa j va pa false
    let b := s.framePa j (va + 32) (pa + 32) false
    let lo := (s.line a).toNat % 2 ^ 256
    let hi := (s.line b).toNat / 2 ^ 256
    (BitVec.ofNat 512 (lo + 2 ^ 256 * hi), s.marked a || s.marked b)

/-- Is a block of a transfer with commit set held for an unresolved step (R299)? `p` is the step consumed before. -/
def State.heldFor (s : State) (j va p : Nat) : Option Nat :=
  if p = 0 then none
  else match s.unitAt j va with
    | some (h, u) => if u.resolved < p then some h else none
    | none => none

/-- A block that a PUT or a LemefLink write touches in part or whole goes to the committed frame of each entry (R311). -/
def State.putServed (s : State) (j va pa mask d : Nat) (poison : Bool) : State :=
  if hallBase ≤ pa then s.mergeLine pa mask d poison
  else
    let a := s.framePa j va pa false
    let b := s.framePa j (va + 32) (pa + 32) false
    if b = a + 32 then s.mergeLine a mask d poison
    else
      let lo := 2 ^ 256 - 1
      let s := if mask &&& lo = 0 then s else s.mergeLine a (mask &&& lo) d poison
      if mask / 2 ^ 256 = 0 then s else s.mergeLine b (mask / 2 ^ 256 * 2 ^ 256) d poison

end Sys2Proof.Machine
end

