-- ==== Sys2Proof/Machine/AisleLink.lean ====
section
/-! DEFINITION. Aisle flits to the bit (R336, R337), credits, reservations and transmission (R231, R338, R340, R381), and
routes (R341, R342, R344). -/
namespace Sys2Proof.Machine

/-! ### Flits -/

/-- The fields of an aisle flit. -/
structure Flit where
  ty : Nat
  first : Bool
  last : Bool
  pool : Nat
  crCount : Nat
  seq : Nat
  ack : Nat
  ackValid : Bool
  nak : Bool
  crPool : Nat
  payload : List Byte
  deriving DecidableEq, Repr

/-- The 252 bytes that crc covers. -/
def Flit.low (f : Flit) : List Byte :=
  leBytes 4 (f.ty % 16 + 2 ^ 4 * b2n f.first + 2 ^ 5 * b2n f.last + 2 ^ 6 * (f.pool % 8) + 2 ^ 16 * (f.payload.length % 256)
      + 2 ^ 24 * (f.crCount % 256))
    ++ leBytes 4 (f.seq % 4096 + 2 ^ 12 * (f.ack % 4096) + 2 ^ 24 * b2n f.ackValid + 2 ^ 25 * b2n f.nak
      + 2 ^ 26 * (f.crPool % 8))
    ++ (f.payload ++ List.replicate 244 0#8).take 244

/-- The 256 bytes of a flit. -/
def Flit.bytes (f : Flit) : List Byte := f.low ++ leBytes 4 (check32 f.low).toNat

/-- The fields of a received flit. -/
def flitOf (b : List Byte) : Flit :=
  let w0 := leAt b 0 4
  let w1 := leAt b 4 4
  ⟨bits w0 3 0, bit w0 4, bit w0 5, bits w0 8 6, bits w0 31 24, bits w1 11 0, bits w1 23 12, bit w1 24, bit w1 25,
   bits w1 28 26, (b.drop 8).take (min (bits w0 23 16) 244)⟩

/-- Is a flit type sequenced (R337)? -/
def flitSequenced (ty : Nat) : Bool := decide (1 ≤ ty) && decide (ty ≤ 4)

/-- Does crc pass, with no reserved type or pool (R337, R340)? -/
def flitOk (b : List Byte) : Bool :=
  b.length = 256 && (check32 (b.take 252)).toNat = leAt b 252 4 && decide ((flitOf b).ty ≤ 6) && decide ((flitOf b).pool ≤ 4)

/-- A flit with only its type. -/
def Flit.plain (ty : Nat) (payload : List Byte) : Flit := ⟨ty, false, false, 0, 0, 0, 0, false, false, 0, payload⟩

/-- Flits that a message of `n` bytes takes (R341). -/
def bodyFlits (n : Nat) : Nat := max 1 (cdiv n 244)

/-- Receive flits of a port by pool, as CREDIT_SPLIT gives them (R340, R362). -/
def State.creditSplit (s : State) (p : Nat) : List Nat :=
  let a := s.live .aisle p 0x10C
  let b := s.live .aisle p 0x110
  let l := [bits a 9 0, bits a 19 10, bits a 29 20, bits b 9 0, bits b 19 10]
  if 768 < l.sum then [64, 256, 192, 128, 128] else l

/-! ### Transmission (R338, R340, R381) -/

/-- KiB of contributions in an ingress store (R320). -/
def Hub.ingressUsed (hb : Hub) : Nat := cdiv ((hb.ingress.filter fun c => c.fmt != 0).map fun c => c.data.length).sum 1024

/-- Is the ingress store of an update unit full (R320)? -/
def State.ingressFull (s : State) : Bool := (List.range 4).any fun h => decide (24 * 1024 ≤ (s.hub h).ingressUsed)

/-- The credits that a port's next flit returns, with their pool: while an ingress store is full those of pool 4 wait (R340). -/
def State.creditDue (s : State) (p : Nat) : Nat × Nat :=
  oweHead (if s.ingressFull then lset (s.aisle p).owed 4 0 else (s.aisle p).owed) 0

/-- A flit leaves a port with its acknowledgement, the NAK that is still to be sent and a credit return; a sequenced one takes
the next number and a place in the replay buffer. -/
def State.putFlit (s : State) (t p : Nat) (f : Flit) : State :=
  let a := s.aisle p
  let c := s.creditDue p
  let f := { f with
    ack := (a.rxSeq + 4095) % 4096, ackValid := a.acked, nak := a.nakOwed, crPool := c.1, crCount := c.2
    seq := if flitSequenced f.ty then a.txSeq else 0 }
  let a := { a with owed := lmod a.owed c.1 (· - c.2), nakOwed := false }
  let a := if flitSequenced f.ty then
      { a with
        txSeq := (a.txSeq + 1) % 4096, replay := a.replay ++ [⟨f.seq, 1, f.bytes⟩]
        ackAt := if a.replay.isEmpty then t else a.ackAt }
    else a
  let s := (s.setAisle p a).emit (.flit t p f.bytes)
  let pg := pageNo .aisle p
  if flitSequenced f.ty then s.count pg 0x40 1 else if f.ty = 0 then s.count pg 0x50 1 else s

/-- An IDLE flit, which carries acknowledgement, NAK and credits only. -/
def State.idleFlit (s : State) (t p : Nat) : State := s.putFlit t p (.plain 0 [])

/-- The message at the head of each requester's queue (R229, R381). -/
def queueHeads : List AisleMsg → List Nat → List AisleMsg
  | [], _ => []
  | m :: r, seen => if seen.contains m.req then queueHeads r seen else m :: queueHeads r (m.req :: seen)

/-- Flits of a message. -/
def AisleMsg.flits (m : AisleMsg) : Nat := bodyFlits m.body.length

/-- The messages at the heads of their queues reserve credits of their pools, in queue order, as far as they are at hand and the
messages need them (R381); the one whose transfer holds the transmitter has its own. -/
def Aisle.reserve (a : Aisle) (holder : Option Nat) : Aisle :=
  (queueHeads a.queue []).foldl (fun a m =>
    if some m.req = holder then a
    else
      let has := sgetD a.reserved m.req 0
      let n := min (m.flits - has) (a.credits.getD m.pool 0)
      { a with credits := lmod a.credits m.pool (· - n), reserved := sput 0 a.reserved m.req (has + n) }) a

/-- ARB instance of a port's transmitter (R229). -/
def aisleArb (p : Nat) : Nat := 1604 + p

/-- Credits that have come or a message that has reached the head of its queue let messages reserve (R381). -/
def State.reserveAisle (s : State) (p : Nat) : State :=
  s.setAisle p ((s.aisle p).reserve ((s.holder (aisleArb p) 0).map (·.req)))

/-- A message is queued at a port. It leaves by grants of the port's arbiter (R231). -/
def State.queueAisle (s : State) (p : Nat) (m : AisleMsg) : State :=
  let a := s.aisle p
  (s.setAisle p { a with queue := a.queue ++ [m] }).reserveAisle p

/-- The requests at the transmitter of a port that is UP: the head messages that hold a credit for every flit (R340, R381). -/
def State.aisleReqs (s : State) (p : Nat) : List ArbReq :=
  let a := s.aisle p
  if a.state != 3 then []
  else (queueHeads a.queue []).filterMap fun m =>
    if m.flits ≤ sgetD a.reserved m.req 0 then some ⟨m.req, .other, m.flits, m.job, false⟩ else none

/-- The next flit of the message whose transfer holds a port's transmitter leaves on its credit, and is charged to the job
(R231, R340, R383). -/
def State.aisleBeat (s : State) (t p : Nat) (h : Holder) : State :=
  let a := s.aisle p
  match lfind (fun m : AisleMsg => m.req = h.req) a.queue 0 with
  | none => s
  | some (i, m) =>
    let last := h.moved + 1 = m.flits
    let a := { a with reserved := sput 0 a.reserved m.req (sgetD a.reserved m.req 0 - 1) }
    let s := s.setAisle p (if last then { a with queue := ldel a.queue i }.reserve none else a)
    let s := match m.job with | some j => s.charge j 0x90 256 | none => s
    s.putFlit t p ⟨m.ty, h.moved = 0, last && !m.cut, m.pool, 0, 0, 0, false, false, 0, (m.body.drop (244 * h.moved)).take 244⟩

/-- Credits of a pool that messages have reserved: the transmitter still holds them (R362, R381). -/
def Aisle.held (a : Aisle) (pool : Nat) : Nat :=
  ((queueHeads a.queue []).map fun m => if m.pool = pool then sgetD a.reserved m.req 0 else 0).sum

/-- Does a message at a port wait for credits (R362)? -/
def Aisle.starved (a : Aisle) (holder : Option Nat) : Bool :=
  (queueHeads a.queue []).any fun m => some m.req != holder && decide (sgetD a.reserved m.req 0 < m.flits)

/-- A flit slot of a port that is UP (R337, R338, R362): the holder's next flit leaves, or an IDLE flit; in a `gap`, which a mark or
an IDENT takes, neither. Whether a flit of the holder left is told. -/
def State.aisleSlot (s : State) (t p : Nat) (hold : Option Holder) (gap : Bool) : State × Bool :=
  let a := s.aisle p
  if a.state != 3 then (s, false)
  else
    let s := s.count (pageNo .aisle p) 0x88 (b2n (a.starved (hold.map (·.req))))
    match hold with
    | some h => if gap then (s, false) else if a.replay.length < 512 then (s.aisleBeat t p h, true) else (s.idleFlit t p, false)
    | none => (if gap then s else s.idleFlit t p, false)

/-! ### Link identity (R348) -/

/-- An IDENT flit in the slot that starts at tick `x`. -/
def State.sendIdent (s : State) (x p : Nat) : State :=
  let a := s.aisle p
  let turn := if a.identTx = 0 then 0 else x - a.identRx
  s.putFlit x p (.plain 6 (leBytes 8 x ++ leBytes 8 a.identTx ++ leBytes 4 turn ++ leBytes 1 s.pins.pos.toNat ++ leBytes 1 p
    ++ leBytes 1 (b2n s.pins.twin + 2 * b2n (bit (s.live .aisle p 0x104) 2)) ++ [0#8] ++ leBytes 8 s.fuses.serial.toNat))

/-- A port whose lanes are locked sends sixteen IDENTs, one per 64 slots; those whose slots have started by tick `t`, or start
next, leave (log entry 37). -/
def State.dueIdents (s : State) (t p : Nat) : Nat → State
  | 0 => s
  | fuel + 1 =>
    let a := s.aisle p
    let x := a.lockAt + 256 * a.identsOut
    if a.state < 2 || a.state = 4 || 16 ≤ a.identsOut || t + 4 ≤ x then s
    else ((s.setAisle p { a with identsOut := a.identsOut + 1 }).sendIdent x p).dueIdents t p fuel

/-! ### Routes (R341, R342) -/

/-- The fields of a route word. -/
structure RouteWord where
  dst : Nat
  src : Nat
  hops : Nat
  alt : Bool
  deriving DecidableEq, Repr

/-- The eight bytes of a route word. -/
def RouteWord.bytes (r : RouteWord) : List Byte :=
  leBytes 8 (r.dst % 64 + 2 ^ 8 * (r.src % 64) + 2 ^ 16 * (r.hops % 8) + 2 ^ 24 * b2n r.alt)

/-- The route word of a message body. -/
def routeOf (b : List Byte) : RouteWord :=
  let w := leAt b 0 8
  ⟨bits w 5 0, bits w 13 8, bits w 18 16, bit w 24⟩

/-- A ROUTE entry (R363): primary, alternate, valid, local, hops. The Clerk writes the same on every hub. -/
def State.route (s : State) (pos : Nat) : Nat × Nat × Bool × Bool × Nat :=
  let w := s.live .hdie 0 (0x400 + 4 * pos)
  (bits w 3 0, bits w 7 4, bit w 8, bit w 9, bits w 12 10)

/-- Is a port present and UP? -/
def State.portUp (s : State) (p : Nat) : Bool := s.portPresent p && (s.aisle p).state = 3

/-- Is a port configured as a twin port, which carries CLERK and IDENT flits only (R356, R362)? -/
def State.twinPort (s : State) (p : Nat) : Bool := bit (s.live .aisle p 0x104) 2

/-- The port toward a position for a message type (R342): the first of the entry's ports that is UP, else the first; without
a valid entry, or where the type may use neither port (R356), there is none. -/
def State.portTo (s : State) (pos ty : Nat) (alt : Bool) : Option Nat :=
  let r := s.route pos
  let l := if alt && s.portUp r.2.1 then [r.2.1, r.1] else [r.1, r.2.1]
  let l := l.filter fun p => r.2.2.1 && (ty = 4 || !s.twinPort p)
  (l.find? s.portUp).or l.head?

/-- Requester and pool numbers of a message type (R229, R340); `cls` is the class of an exchange message's job. -/
def aisleReq (ty cls : Nat) : Nat × Nat :=
  if ty = 1 then (cls % 4, if cls % 4 = 0 then 3 else cls % 4) else if ty = 4 then (5, 0) else (4, 4)

/-- A message to another position is sent by its route, or dropped where there is none. -/
def State.sendAisle (s : State) (pos ty cls : Nat) (alt : Bool) (job : Option Nat) (body : List Byte) : State :=
  match s.portTo pos ty alt with
  | none => s
  | some p =>
    let rq := aisleReq ty cls
    s.queueAisle p ⟨rq.1, rq.2, ty, job, RouteWord.bytes ⟨pos, s.pins.pos.toNat, 0, alt⟩ ++ body, false⟩

/-- An exchange message to a stall of another device (R344); alt is bit 0 of dst_stall (R342). -/
def State.sendRemote (s : State) (pos : Nat) (hdr : BitVec 128) (words : List Line) (crc status : W32) : State :=
  let h := hdrOf hdr
  let cls := match s.job h.job with | some j => j.cls | none => 3
  s.sendAisle pos 1 cls (h.dst % 2 = 1) (some h.job)
    (leBytes 16 hdr.toNat ++ words.flatMap lineBytes ++ leBytes 4 crc.toNat ++ leBytes 4 status.toNat)

/-- A CLERK message (R355). -/
def State.sendClerk (s : State) (pos ty job step : Nat) (body : List Byte) : State :=
  s.sendAisle pos 4 0 false (some job) (leBytes 8 (ty % 256 + 2 ^ 8 * (job % 64) + 2 ^ 16 * (step % 2 ^ 48)) ++ body)

end Sys2Proof.Machine
end

