-- ==== Sys2Proof/Machine/Twins.lean ====
section
/-! DEFINITION. What the Clerk does for a job before any event acts on it: the job's stalls and rotas (R372, R376), suspension
(R126, R379), and the seals of twins (R355 to R358). -/
namespace Sys2Proof.Machine

/-! ### A job's stalls and rotas -/

/-- Physical stalls of a job on this device. -/
def Job.stalls (jb : Job) : List Nat := (jb.place.map fun q => q.2.2).filter fun n => !remoteStall n

/-- Square positions of the other devices that hold pitches of a job. -/
def Job.peers (jb : Job) : List Nat :=
  (jb.place.filter fun q => remoteStall q.2.2).foldl (fun l q =>
    if l.contains (remotePos q.2.2) then l else l ++ [remotePos q.2.2]) []

/-- Pitches of a job that lie on a stall. -/
def Job.pitchesOn (jb : Job) (sn : Nat) : List Nat := (jb.place.filter fun q => q.2.2 = sn).map (·.1)

/-- Rota position of slot `i` of a mask at phase φ (R370). -/
def rotaPos (phase i : Nat) : Nat := (i + phase) % 64

/-- A mask rotated left by the phase (R372). -/
def need (mask phase : Nat) : Nat := ((List.range 64).map fun i => b2n (bit mask i) * 2 ^ rotaPos phase i).sum

/-- A word of four rota entries with the positions of `mask` given to `v`. -/
def rotaWord (old mask w v : Nat) : Nat :=
  ((List.range 4).map fun b => (if bit mask (4 * w + b) then v else bits old (8 * b + 7) (8 * b)) * 256 ^ b).sum

/-- Shadow writes that give the positions of four masks (one for each engine) to `v` on a stall. -/
def State.giveRota (s : State) (sn v : Nat) (masks : List Nat) : State :=
  (List.range 4).foldl (fun s e => (List.range 16).foldl (fun s w =>
    let o := 0x300 + 0x40 * e + 4 * w
    if bits (masks.getD e 0) (4 * w + 3) (4 * w) = 0 then s
    else s.shadow .stall sn o (rotaWord (s.shadowOf .stall sn o) (masks.getD e 0) w v)) s) s

/-- Positions that a job's pitch on a stall needs, for each engine (R372). -/
def Job.needs (jb : Job) (sn : Nat) : List Nat :=
  (List.range 4).map fun e =>
    (jb.pitchesOn sn).foldl (fun m p => m ||| need ((jb.adm[p]?.map fun a => a.masks.getD e 0).getD 0) jb.phase) 0

/-- JOB_SLOT's suspended bit of a job on its stalls, with the rotas of R126, in one COMMIT of each STALL page. -/
def State.suspendSlots (s : State) (j : Nat) (susp : Bool) : State :=
  match s.job j with
  | none => s
  | some jb => jb.stalls.foldl (fun s sn =>
      match (s.stall sn).slotOf j with
      | none => s
      | some k =>
        let o := 0x400 + 4 * k
        let w := s.shadowOf .stall sn o
        let s := s.shadow .stall sn o (w % 128 + 2 ^ 7 * b2n susp + w / 256 * 256)
        let s := if jb.cls = 3 then s else s.giveRota sn (if susp then 0x7F else j) (jb.needs sn)
        s.requestCommit .stall sn) s

/-! ### Suspension (R126, R379) -/

/-- A job is suspended from the next round boundary on, by a command or by pre-emption (R126, R379). -/
def State.suspendJob (s : State) (j : Nat) (pre : Bool) : State :=
  match s.job j with
  | none => s
  | some jb =>
    let jb' := { jb with preempted := jb.preempted || pre, byCommand := jb.byCommand || !pre }
    if jb.suspended then s.setJob j jb'
    else (s.setJob j { jb' with suspended := true, suspAt := some s.bell.nextRound, revoked := false }).suspendSlots j true

/-- The types of the CLERK messages by which position 0 has the devices of its side suspend a job (R358) and go on without the
partner (R359): firmware traffic, whose types R355 leaves open (log entry 38). -/
def suspendType : Nat := 0x80 + 2 * (Config.clerkTypes % 64)

/-- The second of them. -/
def soloType : Nat := suspendType + 1

/-- Position 0 tells the other devices of its side that hold pitches of a job. -/
def State.tellSide (s : State) (j ty : Nat) : State :=
  match s.job j with
  | some jb => jb.peers.foldl (fun s p => s.sendClerk p ty j 0 []) s
  | none => s

/-- A device carries on with a job without its partner (R359). -/
def State.setSolo (s : State) (j : Nat) : State :=
  match s.job j with
  | none => s
  | some jb => match jb.twin with
    | some w => s.setJob j { jb with twin := some { w with solo := true } }
    | none => s

/-! ### Seals (R355, R357, R358) -/

/-- Eight-byte state and seal of a SEAL body (R355). -/
def sealBody (st : Nat) (v : W64) : List Byte := leBytes 8 (st % 256) ++ leBytes 8 v.toNat

/-- The SEAL_TABLE of a step from the seals position 0 holds. -/
def TwinSt.table (w : TwinSt) (step : Nat) : List Byte :=
  (List.range 64).flatMap fun p => match w.seals.find? fun x => x.1 = step && x.2.1 = p with
    | some x => sealBody x.2.2.1 x.2.2.2
    | none => sealBody 0 0#64

/-- Positions at which two tables differ, as a mask. -/
def tableDiff (a b : List Byte) : Nat :=
  ((List.range 64).map fun p => b2n ((a.drop (16 * p)).take 16 != (b.drop (16 * p)).take 16) * 2 ^ p).sum

/-- Did any device of a side run the step of a table: a SEAL whose byte 0 is not 0 (R357)? -/
def tableRan (b : List Byte) : Bool := (List.range 64).any fun p => b.getD (16 * p) 0#8 != 0#8

/-- Both tables of a step are at hand: they are compared, unless neither side ran it (R357); under SUSPEND a difference suspends
the job on every device of the side (R358). -/
def State.compareSeals (s : State) (j step : Nat) : State :=
  match s.job j with
  | none => s
  | some jb => match jb.twin with
    | none => s
    | some w =>
      if w.solo || !(w.doneAt.any fun q => q.1 = step) then s
      else match w.partner.find? fun q => q.1 = step with
        | none => s
        | some (_, tb) =>
          let d := tableDiff (w.table step) tb
          let ran := tableRan (w.table step) || tableRan tb
          let w' := { w with
            seals := w.seals.filter fun x => x.1 != step
            doneAt := w.doneAt.filter fun q => q.1 != step
            partner := w.partner.filter fun q => q.1 != step
            lastStep := if ran then step else w.lastStep, mismatch := w.mismatch || d != 0 }
          let s := s.setJob j { jb with twin := some w' }
          if d = 0 then s
          else
            let s := (s.record (s.mkEv 0x7201 0 (some j) .clerk 0 (step % 2 ^ 32) d)).post
            if w.policy = 1 then (s.suspendJob j false).tellSide j suspendType else s

/-- The completion record that carries a SEAL_TABLE (R357): the spec gives it no layout, so all but its phase bit is a free value
(log entry 38). -/
def tableRecord (ix phase : Nat) : List Byte :=
  let b := (lineBytes (Config.freeLine ix)).take 32
  b.take 11 ++ [(b.getD 11 0#8 &&& 0xFE#8) ||| BitVec.ofNat 8 (phase % 2)] ++ b.drop 12

/-- A SEAL_TABLE goes to the partner side's position 0: over the twin port, or posted as a completion record that the companion
carries (R356, R357). -/
def State.sendTable (s : State) (j path step : Nat) (table : List Byte) : State :=
  if path < 12 then
    s.queueAisle path ⟨5, 0, 4, some j, RouteWord.bytes ⟨0, s.pins.pos.toNat, 0, false⟩
      ++ leBytes 8 (3 + 2 ^ 8 * j + 2 ^ 16 * (step % 2 ^ 48)) ++ table, false⟩
  else if s.ringsOn && s.cqRoom then { s.putCompletion (tableRecord s.freeIx) with freeIx := s.freeIx + 1 }
  else s

/-- Position 0 takes a device's SEAL; a full table goes to the partner side (R357). -/
def State.takeSeal (s : State) (t j step pos st : Nat) (v : W64) : State :=
  match s.job j with
  | none => s
  | some jb => match jb.twin with
    | none => s
    | some w =>
      let w := { w with seals := (w.seals.filter fun x => !(x.1 = step && x.2.1 = pos)) ++ [(step, pos, st, v)] }
      let all := (s.pins.pos.toNat :: jb.peers).all fun p => w.seals.any fun x => x.1 = step && x.2.1 = p
      if !all || w.doneAt.any (fun q => q.1 = step) then s.setJob j { jb with twin := some w }
      else
        let s := s.setJob j { jb with twin := some { w with doneAt := w.doneAt ++ [(step, t)] } }
        (s.sendTable j w.path step (w.table step)).compareSeals j step

/-- A device's SEAL of one step goes to position 0 of its side. -/
def State.sendSeal (s : State) (t j n st : Nat) (v : W64) : State :=
  if s.pins.pos = 0#6 then s.takeSeal t j n 0 st v else s.sendClerk 0 2 j (n % 2 ^ 48) (sealBody st v)

/-- The device's seal of a job: the sum of its four hubs' committed seals (R331). -/
def State.deviceSeal (s : State) (j : Nat) : W64 :=
  ((List.range 4).map fun h => (sgetD (s.hub h).seals j ⟨[], 0, 0#64⟩).value).foldl (· + ·) 0#64

/-- The SEALs that a resolution sends: every multiple of N after the step resolved before it, up to it (R357). -/
def State.sealsOf (s : State) (t j before n : Nat) (commit : Bool) : State :=
  match (s.job j).bind (·.twin) with
  | none => s
  | some w =>
    if w.solo || w.interval = 0 then s
    else
      let lo := (if before = 0 then n - 1 else before) / w.interval
      (List.range (n / w.interval - lo)).foldl (fun s i =>
        let m := (lo + 1 + i) * w.interval
        if m = n then s.sendSeal t j m (if commit then 1 else 2) (if commit then s.deviceSeal j else 0#64)
        else s.sendSeal t j m 0 0#64) s

end Sys2Proof.Machine
end

