-- ==== Sys2Proof/Machine/Clerk.lean ====
section
/-! DEFINITION. What the Clerk does on events and for every command: completions (R436, R441, R444), flags of a step
(R291, R292), failing a job, aborting a step, strikes, resets and fences (R391, R402 to R411), discarding a step (R296,
R302, R313), and the effects that stalls leave behind (R261 to R263, R299, R383, R484). -/
namespace Sys2Proof.Machine

/-! ### Completions (R436, R441, R443, R444) -/

/-- Bytes of a descriptor as a number. -/
def descField (d : List Byte) (o n : Nat) : Nat := leAt d o n

/-- The taken command with a sequence number that is no repeat. -/
def State.takenBy (s : State) (seq : Nat) : Option Taken := s.clerk.taken.find? fun x => x.seq = seq && !x.dup

/-- Repeats of a completed command complete with its result (R444). -/
def State.finishDups (s : State) (seq status result : Nat) : State :=
  (s.clerk.taken.filter fun x => x.dup && x.seq = seq).foldl (fun s x =>
    ({ s with clerk := { s.clerk with taken := s.clerk.taken.erase x } }).writeCompletion x.desc 6 0x6202
      (descField x.desc 2 1) 0 0 status result) s

/-- What the Clerk is to do waits until it serves again (R413). -/
def State.await (s : State) (a : ClerkAct) : State := { s with clerk := { s.clerk with waiting := s.clerk.waiting ++ [a] } }

/-- The primary Clerk refreshes its watchdog (R413, R471). -/
def State.refreshed (s : State) : State :=
  { s with clerk := { s.clerk with refresh := s.bell.now } }.count (pageNo .clerk 0) 0x68 1

/-- A taken command completes: its entry is written, its result kept, and repeats that wait for it complete. -/
def State.finish (s : State) (seq status cause result rate attempts : Nat) (job : Option Nat) : State :=
  if !s.clerk.serving then s.await (.finish seq status cause result rate attempts job)
  else match s.takenBy seq with
  | none => s
  | some x =>
    let s := { s with clerk := { s.clerk with
      taken := s.clerk.taken.erase x
      results := (s.clerk.results ++ [(⟨seq, status, BitVec.ofNat 64 result⟩ : Result)]).drop (s.clerk.results.length + 1 - 4096)
      selfq := s.clerk.selfq.filter fun q => q != seq } }
    let j := job.getD (descField x.desc 2 1 % 64)
    let s := match s.job j with
      | some jb => s.setJob j { jb with lastSeq := seq }
      | none => s
    (s.writeCompletion x.desc status cause (job.getD (descField x.desc 2 1)) rate attempts 0 result).finishDups seq status
      result

/-! ### Jobs and their stalls -/

/-- May a pitch be moved (R378)? -/
def Job.movable (jb : Job) (p : Nat) : Bool := ((jb.adm[p]?).map (·.movable)).getD false

/-- The run that ABORTs have given a step not yet accepted (R353). -/
def Job.runBefore (jb : Job) (n : Nat) : Nat :=
  ((jb.runs.find? fun (q : Nat × Nat) => q.1 % 65536 = n % 65536).map (·.2)).getD 0

/-- Does the job have pitches on other devices? -/
def Job.spans (jb : Job) : Bool := decide (1 < jb.devices) || jb.adm.any (·.remote)

/-- Jobs that are open: their ledger is OPEN. -/
def State.openJobs (s : State) : List Nat := s.jobs.filterMap fun (q : Nat × Job) => if 1 ≤ q.2.state && q.2.state ≤ 5 then some q.1 else none

/-- Is any stall of a job running or draining for it (R403)? -/
def State.jobActive (s : State) (j : Nat) : Bool :=
  match s.job j with
  | some jb => jb.stalls.any fun sn => (s.stall sn).jobBusy j
  | none => false

/-- The guard lead of a job (R292, R343). -/
def Job.lead (jb : Job) : Nat := if jb.spans then 2048 + 2048 * cdiv (192 + 352 * jb.hops) 2048 else 2048

/-- An abort is written on every stall of a job that runs a step of it (R130, R403). -/
def State.abortStalls (s : State) (j : Nat) : State :=
  match s.job j with
  | none => s
  | some jb => jb.stalls.foldl (fun s sn =>
      let st := s.stall sn
      match st.slotOf j with
      | some k => if st.slotBusy k then s.setStall sn (st.abort k) else s
      | none => s) s

/-! ### Discarding a step (R296, R302, R305, R313) -/

/-- What a step of a job left on a hub beside its frames is dropped. -/
def Hub.dropStep (hb : Hub) (j n : Nat) (groups : List (Nat × Group)) : Hub :=
  let mine (g : Nat) : Bool := groups.any fun q => q.1 = g
  { hb with
    ingress := hb.ingress.filter fun c => !(c.job = j && c.step % 65536 = n % 65536)
    drained := hb.drained.filter fun c => !(mine c.1 && c.2.2 = n)
    resent := hb.resent.filter fun c => !(mine c.1 && c.2.2 = n)
    await := hb.await.filter fun c => !(mine c.1 && c.2.2 = n)
    acc := hb.acc.filter fun a => !(mine a.group && a.step = n)
    seals := hb.seals.map fun (q : Nat × SealSt) => if q.1 = j then (q.1, { q.2 with pend := q.2.pend.filter fun x => x.1 != n }) else q }

/-- The commit units of a job record a resolution, and the steps that are still pending in them (R298). -/
def Hub.resolveUnits (hb : Hub) (j n tick : Nat) (groups : List (Nat × Group)) (final discarded : Bool) : Hub :=
  { hb with units := hb.units.map fun u => if u.job != j then u
      else
        let u := { u with pending := hb.pendingOf groups u }
        if final then { u with resolved := max u.resolved n, tick := tick, discarded := discarded } else u }

/-- A hub discards a step of a job (R313); `final` records the resolution in the commit units (R298). -/
def Hub.discard (hb : Hub) (j n tick : Nat) (groups : List (Nat × Group)) (final : Bool) : Hub :=
  (({ hb with frames := hb.frames.map fun (q : Nat × (Bool × Option Nat)) =>
      if groups.any (fun g => g.1 = q.1 / 2 ^ 32) && q.2.2 = some n then (q.1, (q.2.1, none)) else q }).dropStep j n
    groups).resolveUnits j n tick groups final true

/-- A hub commits a step of a job (R312): pending frames become committed, and its seal becomes the last committed. -/
def Hub.commitStep (hb : Hub) (j n tick : Nat) (groups : List (Nat × Group)) : Hub :=
  let old : SealSt := sgetD hb.seals j ⟨[], 0, 0#64⟩
  let v := ((old.pend.find? fun x => x.1 = n).map (·.2)).getD 0#64
  (({ hb with
    frames := hb.frames.map fun (q : Nat × (Bool × Option Nat)) =>
      if groups.any (fun g => g.1 = q.1 / 2 ^ 32) && q.2.2 = some n then (q.1, (!q.2.1, none)) else q
    seals := sset hb.seals j { old with step := n, value := v } }).dropStep j n groups).resolveUnits j n tick groups true false

/-- Commit units of a job on a hub. -/
def Hub.unitsOf (hb : Hub) (j : Nat) : Nat := hb.units.countP fun u => u.job = j

/-- A provisional ring of a stall is discarded at once; its slots are counted on the die's page (R302, R307). -/
def State.dropRing (s : State) (sn r : Nat) : State :=
  let st := s.stall sn
  (s.setStall sn (st.resolveRing sn s.bell.now r false).1).count (pageNo .cdie (sn / 128)) 0x68 (st.ring r).held

/-- At a step end of a job, by its close or without one, the hubs free its run-ahead blocks and its fetch-directory bits
(R261, R263). -/
def State.freeAhead (s : State) (j : Nat) : State :=
  (List.range 4).foldl (fun s h =>
    let hb := s.hub h
    let n := hb.ahead.countP fun a => a.job = j
    let dir := (hb.dir.map fun d => { d with jobs := d.jobs.filter (· != j), raised := d.raised.filter (· != j) }).filter
      fun d => !d.jobs.isEmpty
    let s := s.setHub h { hb with ahead := hb.ahead.filter fun a => a.job != j, dir := dir }
    if n = 0 then s else s.count (pageNo .hdie h) 0x68 n) s

/-- What the fetchers of a job still have to bring for step `n` is no longer awaited (R446). -/
def State.dropFetches (s : State) (j n : Nat) : State :=
  match s.job j with
  | some jb => s.setJob j { jb with fetched := jb.fetched.filter fun q => q.2.step != n }
  | none => s

/-- A step is resolved internally as discarded (R305): hubs, provisional rings and what was fetched for it, at once;
`final` where no rerun follows, and a twin's SEAL tells of it (R357). -/
def State.discardStep (s : State) (j n : Nat) (final : Bool) : State :=
  match s.job j with
  | none => s
  | some jb =>
    let s := (List.range 4).foldl (fun s h =>
      (s.setHub h ((s.hub h).discard j n s.bell.now jb.groups final)).count (pageNo .hdie h) 0x98
        (if final then (s.hub h).unitsOf j else 0)) s
    let s := jb.stalls.foldl (fun s sn => ((s.stall sn).provRings j n).foldl (fun s r => s.dropRing sn r) s) s
    let s := if final then (s.setJob j { jb with resolved := max jb.resolved n, resolvedAt := s.bell.now, resolution := 2 }).sealsOf
        s.bell.now j jb.resolved n false
      else s
    (s.freeAhead j).dropFetches j n

/-! ### Failing, aborting, fencing -/

/-- Attempts of a step made: started ones, but for those that an abort left uncounted (R403, R405, R441). -/
def StepSt.made (x : StepSt) : Nat := x.attempt + b2n (x.start != 0) - x.uncounted

/-- Does a step resolve at its guard tick whatever is aborted: armed, or past `g - Λ` (R294, R305)? -/
def Job.firm (jb : Job) (now : Nat) (x : StepSt) : Bool :=
  x.armed.isSome || (x.abort.isNone && match x.due with
    | some g => decide (g < now + jb.lead)
    | none => false)

/-- ABORT goes to every other device of a job for a step, with its next run (R353). -/
def State.tellAbort (s : State) (j : Nat) (jb : Job) (x : StepSt) : State :=
  jb.peers.foldl (fun s p => s.sendClerk p 4 j (x.n % 2 ^ 48) (leBytes 4 ((x.run + 1) % 16))) s

/-- The job fails (R391): its running steps are aborted on every device, steps that are to resolve stay, the others are dropped
and their STEP_RUNs complete FAILED with the code. -/
def State.failNow (s : State) (j code : Nat) : State :=
  match s.job j with
  | none => s
  | some jb =>
    if jb.state = 5 || jb.state = 6 || jb.state = 0 then s
    else
      let gone := jb.steps.filter fun x => !jb.firm s.bell.now x
      let s := s.setJob j { jb with state := 5, failure := code, steps := jb.steps.filter (jb.firm s.bell.now) }
      let s := s.abortStalls j
      let s := (gone.filter fun x => x.start != 0).foldl (fun s x => s.tellAbort j jb x) s
      gone.foldl (fun s x => (s.discardStep j x.n true).finish x.seq 1 code 0 jb.rate x.made (some j)) s

/-- The Clerk fails a job, once it serves (R391, R413). -/
def State.failJob (s : State) (j code : Nat) : State := if s.clerk.serving then s.failNow j code else s.await (.fail j code)

/-- Has a step started that an abort takes now (R305)? -/
def Job.abortable (jb : Job) (now : Nat) (x : StepSt) : Bool := !jb.firm now x && x.start != 0

/-- A step is aborted; `counts` tells whether the abort counts as an attempt (R405). -/
def Job.aborted (jb : Job) (now cause : Nat) (counts : Bool) (x : StepSt) : StepSt :=
  if jb.abortable now x && x.abort.isNone then { x with abort := some cause, uncounted := x.uncounted + b2n (!counts) } else x

/-- Would a further attempt of a step exceed rerun_limit (R405)? -/
def State.outOfReruns (s : State) (jb : Job) (x : StepSt) : Bool :=
  jb.abortable s.bell.now x && x.abort.isNone && decide (bits (s.live .policy 0 0x100) 3 0 < x.attempt + 1 - x.uncounted)

/-- A cause of R402 aborts the job's unarmed steps, which are to be rerun; a job with an unmovable pitch fails (R404), and
one past rerun_limit fails with RERUN_LIMIT (R405). -/
def State.abortSteps (s : State) (j cause : Nat) (counts : Bool := true) : State :=
  if !s.clerk.serving then s.await (.abort j cause counts)
  else match s.job j with
  | none => s
  | some jb =>
    if jb.state = 5 || jb.state = 6 || !jb.steps.any (jb.abortable s.bell.now) then s
    else if jb.adm.any fun p => !p.remote && !p.movable then s.failJob j cause
    else if counts && jb.steps.any (s.outOfReruns jb) then
      let n := ((jb.steps.find? (s.outOfReruns jb)).map (·.n)).getD 0
      ((s.record (s.mkEv 0x6305 2 (some j) .clerk 0 (n % 2 ^ 32) cause)).failJob j 0x6305).post
    else (s.setJob j { jb with state := 3, steps := jb.steps.map (jb.aborted s.bell.now cause counts) }).abortStalls j

/-- Jobs with a slot on a stall. -/
def Stall.jobsOn (st : Stall) : List Nat :=
  (List.range 8).filterMap fun k => if (st.jobSlot k).valid then some (st.jobSlot k).job else none

/-- What a fence or a reset does to the jobs of a stall: one with an unmovable pitch there fails, the others' steps are
aborted (R378, R408, R409); `counts` tells whose abort counts as an attempt. -/
def State.jobsLose (s : State) (sn abortCause failCause : Nat) (counts : Nat → Bool) : State :=
  (s.stall sn).jobsOn.foldl (fun s j =>
    match s.job j with
    | none => s
    | some jb =>
      if (jb.pitchesOn sn).any fun p => !jb.movable p then s.failJob j failCause
      else if jb.steps.isEmpty then s else s.abortSteps j abortCause (counts j)) s

/-- Jobs whose stalls have left running and draining since a state take the present tick (R223). -/
def State.noteQuiet (s old : State) : State :=
  s.openJobs.foldl (fun s j => match s.job j with
    | some jb => if old.jobActive j && !s.jobActive j then s.setJob j { jb with quietAt := s.bell.now } else s
    | none => s) s

/-- A stall is fenced (R409): steps aborted, operations discarded, banks released, slots cleared, and the fence map set;
STALL_FENCED records the cause. -/
def State.fence (s : State) (sn cause : Nat) : State :=
  if !s.clerk.serving then s.await (.fence sn cause)
  else if s.clerk.fences.contains sn || !s.stallPresent sn then s
  else
    let s := { s with clerk := { s.clerk with
      fences := s.clerk.fences ++ [sn], rebank := s.clerk.rebank.filter fun q => q.1 != sn } }
    let s := s.jobsLose sn 0x6501 0x6401 fun _ => true
    let st := s.stall sn
    let stop (v : SlotSt) : SlotSt := { v with running := false, draining := false, abortReq := false }
    let st := { st with
      fenced := true, flight := [], tags := [], steal := [], inbound := [], acts := [], claims := []
      array := { st.array with runs := [], load := none }
      agenda := st.agenda.filter fun q => match q.2 with
        | .showStat _ | .mark _ | .sleep _ => true
        | .clash _ | .readErr _ | .flit _ => false
      slots := st.slots.map fun (q : Nat × SlotSt) => (q.1, stop q.2) }
    let s' := (((s.setStall sn st).shadows .stall sn 0x160 (List.replicate 32 0)).shadows .stall sn 0x400
      (List.replicate 8 0)).requestCommit .stall sn
    ((s'.noteQuiet s).record ⟨0x6501, 3, none, pageId .stall sn, 0, s.bell.now, BitVec.ofNat 64 cause⟩).post

/-- A stall is reset after a strike that a job's failure gave (R405, R408): steps aborted, its banks handed to no owner now and to their owners again later. -/
def State.resetStall (s : State) (sn : Nat) (job : Option Nat) : State :=
  let st := s.stall sn
  let owners := (List.range 32).map fun i => st.reg (0x160 + 4 * i)
  let s := (s.record ⟨0x6502, 0, none, pageId .stall sn, 0, s.bell.now, 0#64⟩).post
  let s := s.jobsLose sn 0x6502 0x6502 fun j => job = some j
  let s := (s.shadows .stall sn 0x160 (List.replicate 32 0)).requestCommit .stall sn
  { s with
    clerk := { s.clerk with rebank := s.clerk.rebank ++ [(sn, (s.bell.now / 4096 + 2) * 4096, owners)] } }

/-- Strikes of a stall in the last 3,600 s (R407). -/
def State.strikeCount (s : State) (sn : Nat) : Nat :=
  s.clerk.strikes.countP fun (q : Nat × Nat) => q.1 = sn && decide (s.bell.now < q.2 + 11880000000)

/-- A strike (R407 to R409): at two the stall is reset, at three it is fenced. -/
def State.strike (s : State) (sn cause : Nat) (job : Option Nat) : State :=
  if !s.clerk.serving then s.await (.strike sn cause job)
  else
  let s := { s with clerk := { s.clerk with strikes := s.clerk.strikes ++ [(sn, s.bell.now)] } }
  let n := s.strikeCount sn
  if n = 2 then s.resetStall sn job else if 3 ≤ n then s.fence sn cause else s

/-- What waited for the Clerk to serve is done (R413). -/
def State.clerkAct (s : State) : ClerkAct → State
  | .fail j c => s.failJob j c
  | .abort j c n => s.abortSteps j c n
  | .fence sn c => s.fence sn c
  | .strike sn c j => s.strike sn c j
  | .finish q st c r rate n j => s.finish q st c r rate n j

/-- DEVICE_FATAL (R391): every open job fails and the device is STOPPED, whether the Clerk serves or none remains (R413). -/
def State.stopDevice (s : State) (code : Nat) : State :=
  let s := s.openJobs.foldl (fun s j => s.failNow j code) s
  { s with boot := { s.boot with dev := 3 } }

/-! ### Raising an event (R291, R391, R402) -/

/-- The flag of a step's flag word that an event sets (R291). -/
def flagBit (code : Nat) : Nat :=
  match code with
  | 0x1101 => 1 | 0x1102 => 2 | 0x7101 => 4 | 0x7102 => 8 | 0x7301 => 16 | 0x4202 => 32 | 0x3103 => 64 | 0x3102 => 64
  | _ => 0

/-- Does a step's flag word still take a flag raised at `tick` (R292)? -/
def Job.inWindow (jb : Job) (tick : Nat) (x : StepSt) : Bool :=
  !x.sent && x.start != 0 && decide (x.start ≤ tick) && match x.due with
    | some g => decide (tick + jb.lead ≤ g)
    | none => true

/-- A flag is raised against a job (R292): into every unresolved step whose window holds the tick; between an aborted
attempt and its rerun it is dropped; else it is carried into the next step. -/
def State.flagJob (s : State) (j f tick : Nat) : State :=
  match s.job j with
  | none => s
  | some jb =>
    if f = 0 then s
    else if jb.steps.any (jb.inWindow tick) then
      s.setJob j { jb with steps := jb.steps.map fun x => if jb.inWindow tick x then { x with flags := x.flags ||| f } else x }
    else if jb.steps.any fun x => x.abort.isSome || (x.attempt != 0 && decide (tick < x.start)) then s
    else match lfind (fun x : StepSt => x.start = 0 || decide (tick < x.start)) jb.steps 0 with
      | some (i, x) => s.setJob j { jb with steps := lset jb.steps i { x with carried := x.carried ||| f } }
      | none => s.setJob j { jb with carried := jb.carried ||| f }

/-- Codes that abort the job's step to rerun it (R402). -/
def abortCode (code : Nat) : Bool := code = 0x3202 || code = 0x4301 || code = 0x4103 || code = 0x6303

/-- An event is raised: recorded, its flag set, acted on by its severity, and posted (R291, R391, R393, R402). -/
def State.raise (s : State) (e : Ev) : State :=
  let s := s.record e
  let s := match e.job with
    | some j => s.flagJob j (flagBit e.code) e.tick
    | none => s
  let s := match e.sev, e.job with
    | 2, some j => s.failJob j e.code
    | 3, _ => if bits e.source.toNat 15 0 = 0x42 then s.fence (bits e.source.toNat 31 16) e.code else s
    | 4, _ => s.stopDevice e.code
    | _, some j => if abortCode e.code then s.abortSteps j e.code else s
    | _, none => s
  s.post

/-! ### What stalls leave behind -/

/-- Is a word traced (R484)? -/
def State.traced (s : State) (sn job : Nat) : Bool :=
  let w := s.live .trace 0 0x108
  bit (s.live .trace 0 0x104) 16 && decide (bits w 10 0 ≤ sn) && decide (sn ≤ bits w 26 16)
    && bit (s.live .trace 0 0x110 + 2 ^ 32 * s.live .trace 0 0x114) job

/-- Tick at which MX is done with the word issued at `t` (R383): a pass's array-free tick, a load's end. -/
def Stall.mxEnd (st : Stall) (t : Nat) : Nat :=
  max (match st.array.pass with | some p => if p.start = t then p.free else t | none => t)
    (match st.array.load with | some l => if l.start = t then t + l.len else t | none => t)

/-- Ticks charged for an issue (R383): on MX, time already charged on the stall counts once. -/
def State.chargeIssue (s : State) (t sn eng job d : Nat) : State :=
  if eng = 0 then
    let l := s.ledger job
    let till := sgetD l.mxTill sn 0
    let e := max (t + d) ((s.stall sn).mxEnd t)
    (s.setLedger job { l with mxTill := sset l.mxTill sn (max till e) }).charge job 0x40 (e - max t till)
  else s.charge job (0x40 + 8 * eng) d

/-- Page of the fetch directory that a block is recorded in: hub of its stack (R263). -/
def State.noteFetch (s : State) (j pa : Nat) : State :=
  if hallBase ≤ pa then s
  else
    let h := stackOf pa / 4
    let hb := s.hub h
    let pg := pa / 2 ^ 21
    match lfind (fun d : DirEnt => d.page = pg) hb.dir 0 with
    | some (i, d) => if d.jobs.contains j then s else s.setHub h { hb with dir := lset hb.dir i { d with jobs := d.jobs ++ [j] } }
    | none => if 4096 ≤ hb.dir.length then s.count (pageNo .hdie h) 0x80 1
        else s.setHub h { hb with dir := hb.dir ++ [⟨pg, [j], []⟩] }

/-- The hub takes one requested block of a transfer (R253, R261, R263, R299): one that it holds is served from memory after the
hold, not from the run-ahead buffer. -/
def State.takeRead (s : State) (sn tag q : Nat) : State :=
  let h := hubOf sn
  match sget (s.stall sn).tags tag with
  | none => s
  | some x => match x.blocks[q]? with
    | none => s
    | some b =>
      if x.grad then s
      else
        let s := s.useXlate h x.job b.va
        if x.kind = .put then s
        else
          let s := s.noteFetch x.job b.pa
          let p := ((s.job x.job).map (·.prev)).getD 0
          let wait := if x.commit then s.heldFor x.job b.va p else none
          let hb := s.hub h
          match wait, lfind (fun a : AheadBlk => a.job = x.job && a.pa = b.pa) hb.ahead 0 with
          | some u, _ => s.count (pageNo .hdie u) 0x88 1
          | none, none => s
          | none, some (i, a) =>
            let s := (s.setHub h { hb with ahead := ldel hb.ahead i }).count (pageNo .hdie h)
              (if a.arrived.isSome then 0x58 else 0x60) 1
            let st := s.stall sn
            s.setStall sn (st.setTag tag { x with blocks := lset x.blocks q { b with snap := a.arrived } })

/-- A job's run-ahead share in blocks (R261): quotas above 16 MiB are served in job order. -/
def State.aheadShare (s : State) (h j : Nat) : Nat :=
  let quota (i : Nat) : Nat := bits (s.live .hdie h (0x310 + 4 * (i / 4))) (8 * (i % 4) + 7) (8 * (i % 4))
  let before := ((List.range j).map quota).sum
  min (quota j) (256 - before) * 1024

/-- One block of an AHEAD word: fetched, or dropped with a cause (R260 to R262): 1 BOUND, 2 UNMAPPED, 3 HALL, 4 FULL. -/
def State.aheadOne (s : State) (h j va limit : Nat) : State × Option Nat :=
  let drop (s : State) (c : Nat) : State × Option Nat := (s.count (pageNo .hdie h) 0x70 1, some c)
  if limit ≤ va then drop s 1
  else if inWindow va || 2 ^ 44 ≤ va then drop s 2
  else
    let pg := s.pageAt h j va
    let s := s.useXlate h j va
    let pa := ((pg.map (·.1)).getD 0) + va % 2 ^ 21
    if pg.isNone || s.hole pa then drop s 2
    else if hallBase ≤ pa then drop s 3
    else
      let hb := s.hub h
      let mine := hb.ahead.countP fun a => a.job = j
      let add (s : State) : State × Option Nat :=
        let hb := s.hub h
        (((s.setHub h { hb with ahead := hb.ahead ++ [⟨j, pa, va, none⟩] }).count (pageNo .hdie h) 0x50 1).noteFetch j pa, none)
      if mine < s.aheadShare h j then add s
      else match lfind (fun a : AheadBlk => a.job = j && a.arrived.isSome) hb.ahead 0 with
        | some (i, _) => if s.aheadShare h j = 0 then drop s 4
            else add ((s.setHub h { hb with ahead := ldel hb.ahead i }).count (pageNo .hdie h) 0x68 1)
        | none => drop s 4

/-- An AHEAD word at its hub (R260 to R262). -/
def State.aheadWord (s : State) (t sn j : Nat) (a : Ahead) : State :=
  let h := hubOf sn
  let vas := (List.range a.runs).flatMap fun i => (List.range (a.run / 64)).map fun o => a.va.toNat + i * a.stride + 64 * o
  let r := vas.foldl (fun (acc : State × Option (Nat × Nat)) va =>
    let q := acc.1.aheadOne h j va a.limit.toNat
    (q.1, match acc.2, q.2 with | none, some c => some (c, va) | x, _ => x)) (s, none)
  match r.2 with
  | none => r.1
  | some (c, va) => r.1.raise ⟨0x4201, 0, some j, pageId .hdie h, (s.stall sn).stepOf j, t, BitVec.ofNat 64 (c + 2 ^ 8 * va)⟩

/-- One effect that a stall leaves behind. -/
def State.effect (s : State) : Eff → State
  | .ev e => s.raise e
  | .count p o n => s.count p o n
  | .emit o =>
    let s := match o with
      | .msg _ _ h fs => s.charge (hdrOf h).job 0x88 (88 * fs.length)
      | _ => s
    s.emit o
  | .issued t sn eng job pc d =>
    let s := s.chargeIssue t sn eng job d
    if s.traced sn job then
      s.traceRec 1 (leBytes 8 t ++ leBytes 2 sn ++ leBytes 1 eng ++ leBytes 1 job ++ leBytes 4 pc)
    else s
  | .reads sn tag qs => qs.foldl (fun s q => s.takeRead sn tag q) s
  | .lookup sn job va => if inWindow va || 2 ^ 44 ≤ va then s else s.useXlate (hubOf sn) job va
  | .ahead t sn job a => s.aheadWord t sn job a
  | .strike sn c j => s.strike sn c j
  | .remote _ pos h ws crc st =>
    (s.charge (hdrOf h).job 0x88 (88 * flits ws.length)).sendRemote pos h ws crc st

/-- Several effects in order. -/
def State.effects (s : State) (l : List Eff) : State := l.foldl State.effect s

/-- A stall is touched at tick `t`: acts of earlier ticks take effect (R120), then `f` runs. -/
def State.onStall (s : State) (t sn : Nat) (f : Stall → Stall × List Eff) : State :=
  let a := (s.stall sn).settle sn t
  let b := f a.1
  (s.setStall sn b.1).effects (a.2 ++ b.2)

/-- A stall is touched and nothing more. -/
def State.touch (s : State) (t sn : Nat) : State := s.onStall t sn fun st => (st, [])

/-- What the stalls know of the job of a slot. -/
def State.ctx (s : State) (sn k : Nat) : JobCtx :=
  match s.job ((s.stall sn).jobSlot k).job with
  | some jb => ⟨jb.seed, ((s.stall sn).slotSt k).step, jb.prev, jb.place⟩
  | none => .empty

end Sys2Proof.Machine
end

