-- ==== Sys2Proof/Machine/Jobs.lean ====
section
/-! DEFINITION. Pre-emption of jobs (R372, R379), their resumption (R126, R379), and the twin's end (R359). -/
namespace Sys2Proof.Machine

/-- Positions that two jobs need on a stall meet on some engine (R372). -/
def needsMeet (a b : List Nat) : Bool := (a.zip b).any fun q => q.1 &&& q.2 != 0

/-- A job is pre-empted, with JOB_PREEMPTED (R379, R387). -/
def State.preempt (s : State) (j : Nat) : State :=
  match s.job j with
  | none => s
  | some jb =>
    if jb.preempted then s
    else (s.suspendJob j true).raise (s.mkEv 0x6402 0 (some j) .clerk 0 0 jb.tenant.toNat)

/-- The COMMIT of a class 1 or 2 job pre-empts the class 3 jobs whose positions it needs (R372, R379). -/
def State.preemptFor (s : State) (j : Nat) : State :=
  match s.job j with
  | none => s
  | some jb =>
    if jb.cls = 3 then s
    else s.openJobs.foldl (fun s k =>
      match s.job k with
      | none => s
      | some o =>
        if k != j && o.cls = 3 && jb.stalls.any fun sn => o.stalls.contains sn && needsMeet (jb.needs sn) (o.needs sn) then
          s.preempt k else s) s

/-- A JOB_SUSPEND or a pre-emption of a job ends; the job resumes at the next round boundary unless the other holds
(R126, R379, R445). -/
def State.resumeJob (s : State) (j : Nat) (pre : Bool) : State :=
  match s.job j with
  | none => s
  | some jb =>
    let jb := { jb with preempted := jb.preempted && !pre, byCommand := jb.byCommand && pre }
    if !jb.suspended || jb.preempted || jb.byCommand then s.setJob j jb
    else ((s.setJob j { jb with suspended := false, suspAt := none, revoked := false }).suspendSlots j false).preemptFor j

/-- Position 0 declares the partner of a twin lost: the job carries on alone on every device of the side (R359). -/
def State.twinSolo (s : State) (j : Nat) : State :=
  match s.job j with
  | none => s
  | some jb => match jb.twin with
    | none => s
    | some w =>
      if w.solo then s
      else ((s.setSolo j).tellSide j soloType).raise (s.mkEv 0x7202 1 (some j) .clerk 0 (w.lastStep % 2 ^ 32) 0)

end Sys2Proof.Machine
end

