-- ==== Sys2Proof/Machine/Square.lean ====
section
/-! DEFINITION. Routes of a square: over a torus, over the cabling found by IDENT, and around a lost port (R349, R360, R440). -/
namespace Sys2Proof.Machine

/-- Ports of a direction: 0 X+, 1 X−, 2 Y+, 3 Y−, 4 Z+, 5 Z−. -/
def torusPorts : List (Nat × Nat) := [(0, 9), (4, 10), (1, 2), (6, 8), (3, 5), (7, 11)]

/-- Direction and distance from coordinate `a` to `b` in a ring of `n`, the shorter way round; the positive way of a tie
(log entry 52). -/
def ringWay (n a b : Nat) : Nat × Nat :=
  let up := (b + n - a % n) % n
  if up ≤ n - up then (0, up) else (1, n - up)

/-- Coordinate `i` of a position (R349). -/
def coordOf (p i : Nat) : Nat := p / 4 ^ i % 4

/-- A ROUTE word: primary, alternate, hops, valid (R363). -/
def routeWord (a b hops : Nat) : Nat := a + 2 ^ 4 * b + 2 ^ 8 + 2 ^ 10 * min hops 7

/-- A ROUTE word over present ports: none where neither of the pair is. -/
def State.pairWord (s : State) (q : Nat × Nat) (hops : Nat) : Nat :=
  match s.portPresent q.1, s.portPresent q.2 with
  | true, true => routeWord q.1 q.2 hops
  | true, false => routeWord q.1 q.1 hops
  | false, true => routeWord q.2 q.2 hops
  | false, false => 0

/-- The ROUTE word of a position in a torus of the given dimensions: X, then Y, then Z. -/
def State.torusRoute (s : State) (dims : List Nat) (p : Nat) : Nat :=
  let me := s.pins.pos.toNat
  let ways := (List.range 3).map fun i => ringWay (dims.getD i 1) (coordOf me i) (coordOf p i)
  let inside (q : Nat) : Bool := (List.range 3).all fun i => decide (coordOf q i < dims.getD i 1)
  let hops := (ways.map (·.2)).sum
  if p = me then 2 ^ 8 + 2 ^ 9
  else if !inside p || !inside me then 0
  else match (ways.zipIdx).find? fun (q : (Nat × Nat) × Nat) => q.1.2 != 0 with
    | some (w, i) => s.pairWord (torusPorts.getD (2 * i + w.1) (0, 9)) hops
    | none => 0

/-- Ports cabled straight to a position, by IDENT, twin ports apart. -/
def State.portsTo (s : State) (p : Nat) : List Nat :=
  (List.range 12).filter fun q => s.portPresent q && (s.aisle q).peerValid && (s.aisle q).peerPos = p && !bit (s.live .aisle q 0x104) 2

/-- The ROUTE word of a position over the cabling found by IDENT: the neighbours (log entry 52). -/
def State.cabledRoute (s : State) (p : Nat) : Nat :=
  if p = s.pins.pos.toNat then 2 ^ 8 + 2 ^ 9
  else match s.portsTo p with
    | a :: b :: _ => routeWord a b 1
    | [a] => routeWord a a 1
    | [] => 0

/-! ### Routes around a lost port (R360) -/

/-- The position after `a` on the way to `b` in a torus of the given dimensions: X, then Y, then Z. -/
def torusNext (dims : List Nat) (a b : Nat) : Nat :=
  match (List.range 3).find? fun i => coordOf a i != coordOf b i with
  | none => a
  | some i =>
    let n := dims.getD i 1
    let x := coordOf a i
    a - x * 4 ^ i + (if (ringWay n x (coordOf b i)).1 = 0 then (x + 1) % n else (x + n - 1) % n) * 4 ^ i

/-- The positions entered on the way from `a` to `b`. -/
def torusWay (dims : List Nat) (a b : Nat) : Nat → List Nat
  | 0 => []
  | fuel + 1 => if a = b then [] else torusNext dims a b :: torusWay dims (torusNext dims a b) b fuel

/-- The dimensions of the torus that the last SET_POLICY named, if it named one (R440). -/
def State.torusDims (s : State) : Option (List Nat) :=
  let n := leAt s.clerk.policy 3 1
  if bit (leAt s.clerk.policy 0 1) 3 then some [bits n 1 0 + 1, bits n 3 2 + 1, bits n 5 4 + 1] else none

/-- Links to position `q` by way of the neighbour at a port: the neighbour's own way, where it does not come back here; without a
torus the neighbour alone (log entry 52). -/
def State.hopsBy (s : State) (p q : Nat) : Option Nat :=
  let a := s.aisle p
  if !s.portUp p || s.twinPort p || !a.peerValid then none
  else if a.peerPos = q then some 1
  else match s.torusDims with
    | none => none
    | some dims =>
      let way := torusWay dims a.peerPos q 12
      if way.contains s.pins.pos.toNat || way.getLast? != some q then none else some (1 + way.length)

/-- The ROUTE word of a position over the ports that are UP: the shortest way, by two ports where two are as short (R360). -/
def State.reroute (s : State) (q : Nat) : Nat :=
  let ways := (List.range 12).filterMap fun p => (s.hopsBy p q).map fun n => (p, n)
  match argmin (·.2) ways with
  | none => 0
  | some (a, n) => match ways.find? fun w => w.1 != a && w.2 = n with
    | some (b, _) => routeWord a b n
    | none => routeWord a a n

end Sys2Proof.Machine
end

