-- ==== Sys2Proof/Machine/Aisle.lean ====
section
/-! DEFINITION. Commands of the aisle ports (R335 to R342, R348, R360, R381) and of the CLERK messages for seals and aborts
(R353, R355, R357 to R359). -/
namespace Sys2Proof.Machine

/-! ### Losing a port (R339, R360) -/

/-- A link event: it records the port, the peer position and the cause (R361). -/
def State.linkEv (s : State) (t code sev : Nat) (job : Option Nat) (p cause : Nat) : Ev :=
  ⟨code, sev, job, pageId .aisle p, 0, t, BitVec.ofNat 64 (p + 2 ^ 4 * (s.aisle p).peerPos + 2 ^ 10 * cause)⟩

/-- A ROUTE entry without a port; the device's own entry names none. -/
def routeWithout (w p : Nat) : Nat :=
  let a := bits w 3 0
  let b := bits w 7 4
  let rest := w / 256 * 256
  if bit w 9 then w
  else if a = p && b = p then w - 2 ^ 8 * bits w 8 8
  else if a = p then b + 16 * b + rest
  else if b = p then a + 16 * a + rest
  else w

/-- A ROUTE entry once a port is lost: without it, over another path where that leaves none (R360). -/
def State.routeAround (s : State) (w p q : Nat) : Nat :=
  let v := routeWithout w p
  if bit w 8 && !bit v 8 then s.reroute q else v

/-- The Clerk removes a port from every route, on every hub, and writes the new entries (R360). -/
def State.unroute (s : State) (p : Nat) : State :=
  (List.range 4).foldl (fun s h => (List.range 64).foldl (fun s q =>
    let o := 0x400 + 4 * q
    let w := s.live .hdie h o
    let v := s.routeAround w p q
    if v = w then s
    else s.setPage (pageNo .hdie h) ((s.page (pageNo .hdie h)).writeRW .hdie h o (BitVec.ofNat 32 v))) s) s

/-- Does a job's traffic cross a port (R360)? -/
def State.crosses (s : State) (jb : Job) (p : Nat) : Bool :=
  jb.peers.any fun q => let r := s.route q; r.2.2.1 && (r.1 = p || r.2.1 = p)

/-- Has every route of a job a path of at most its hop limit (R360)? -/
def State.reachable (s : State) (jb : Job) : Bool :=
  jb.peers.all fun q => let r := s.route q; r.2.2.1 && decide (r.2.2.2.2 ≤ jb.hops)

/-- The first `n` flits of an exchange message that has arrived at a port enter the mesh from the port's hub (R344); they are charged
to the job (R383). -/
def State.enterMesh (s : State) (t p n : Nat) (b : List Byte) : State :=
  let h : BitVec 128 := BitVec.ofNat 128 (leAt b 8 16)
  let x := hdrOf h
  let w := (b.length - 32) / 64
  let cls := ((s.job x.job).map (·.cls)).getD 3
  let fs := (flitBytes h (bytesLines w (b.drop 24)) (BitVec.ofNat 32 (leAt b (24 + 64 * w) 4)) (BitVec.ofNat 32 (leAt b (28 + 64 * w) 4))).take n
  (s.charge x.job 0x88 (88 * fs.length)).emit (.msg t (routeBetween (1536 + p / 3) x.dst x.kind cls) h fs)

/-- Is a position this device's (R342, R363)? -/
def State.isHere (s : State) (pos : Nat) : Bool := pos = s.pins.pos.toNat || (s.route pos).2.2.2.1

/-- Does a message that has arrived stay on its way: fewer than seven links crossed, and a valid entry for its position
(R342)? -/
def State.keeps (s : State) (w : RouteWord) : Bool := w.hops != 7 && (s.route w.dst).2.2.1

/-- A message that arrived at a port goes on to another device (R342); `cut` tells that its last flit was lost. -/
def State.relay (s : State) (p ty pool : Nat) (cut : Bool) (n : Nat) (b : List Byte) (job : Nat) : State :=
  let w := routeOf b
  match s.portTo w.dst ty w.alt with
  | none => s.count (pageNo .aisle p) 0x98 1
  | some q => (s.count (pageNo .aisle p) 0x90 n).queueAisle q
      ⟨(aisleReq ty pool).1, pool, ty, some job, RouteWord.bytes { w with hops := w.hops + 1 } ++ b.drop 8, cut⟩

/-- An exchange message whose flits have stopped arriving at a port (R339): what has come of it goes on without its last flit, to
the stall, which completes it by R225, or to the next device (log entry 68). -/
def State.passPart (s : State) (t p : Nat) : State :=
  let a := s.aisle p
  let b := a.part
  let w := routeOf b
  let h := hdrOf (BitVec.ofNat 128 (leAt b 8 16))
  if a.partTy != 1 || a.partFlits = 0 || b.length < 24 || !s.keeps w then s
  else if s.isHere w.dst then
    let got := min ((b.length - 24) / 64) (h.len - 1)
    if got = 0 then s else s.enterMesh t p got ((b ++ List.replicate (32 + 64 * h.len) 0#8).take (32 + 64 * h.len))
  else s.relay p 1 a.partPool true a.partFlits b h.job

/-- A port goes LOST (R339): the device raises LINK_LOST and the Clerk acts by R360. -/
def State.loseAisle (s : State) (t p cause : Nat) : State :=
  let a := s.aisle p
  let s := (if a.state = 3 then s.passPart t p else s).freeOutput (aisleArb p) 0
  let s := s.setAisle p { s.aisle p with
    state := 4, replay := [], credits := [0, 0, 0, 0, 0], owed := [0, 0, 0, 0, 0], reserved := [], part := [], partFlits := 0
    nakAt := none, nakOwed := false }
  let s := s.raise (s.linkEv t 0x5102 1 none p cause)
  let w := s.shadowOf .aisle p 0x104
  let s := (s.shadow .aisle p 0x104 (w % 8 + 8 + w / 16 * 16)).requestCommit .aisle p
  let users := s.openJobs.filter fun j => match s.job j with | some jb => s.crosses jb p | none => false
  let s := s.unroute p
  s.openJobs.foldl (fun s j =>
    match s.job j with
    | none => s
    | some jb =>
      let s := if s.pins.pos = 0#6 && (match jb.twin with | some w => decide (w.path = p) | none => false) then s.twinSolo j else s
      if a.peerValid && jb.peers.contains a.peerPos then s.raise (s.linkEv t 0x5102 2 (some j) p cause)
      else if !users.contains j then s
      else if s.reachable jb then s.abortSteps j 0x5102
      else s.raise (s.linkEv t 0x5102 2 (some j) p cause)) s

/-- Has a port's link its lanes locked: IDENT, UP, MISWIRED or FENCED (R339, R362)? -/
def Aisle.locked (a : Aisle) : Bool := a.state = 2 || a.state = 3 || a.state = 5 || a.state = 6

/-- AISLE_LANE_LOCK_LOSS (R339). -/
def execAisleLaneLockLoss (t p lane : Nat) (s : State) : Host.Outcome State Fault Refusal :=
  let s := s.advance t
  let a := s.aisle p
  let s' := s.setAisle p { a with lanes := a.lanes - 2 ^ (lane % 8) * b2n (bit a.lanes (lane % 8)) }
  .next (s.on (if !s.portPresent p then s
    else if a.locked then s'.loseAisle t p 1 else s'))

/-- AISLE_LINK_TIMEOUT (R339): 16 sends of one flit, or 330,000 ticks without ack progress or without a good flit. -/
def execAisleLinkTimeout (t p : Nat) (s : State) : Host.Outcome State Fault Refusal :=
  let s := s.advance t
  let a := s.aisle p
  let cause := if a.replay.any fun f => decide (16 ≤ f.tries) then 2
    else if !a.replay.isEmpty && decide (a.ackAt + 330000 ≤ t) then 3
    else if a.goodAt + 330000 ≤ t then 4 else 0
  .next (s.on (if !a.locked || cause = 0 then s else s.loseAisle t p cause))

/-! ### Replay (R338, R339) -/

/-- The flits held for replay are sent again in order, which occupies the transmitter (R231); the first replay of a millisecond
raises LINK_RETRY. -/
def State.replayPort (s : State) (t p : Nat) : State :=
  let a := s.aisle p
  if a.replay.isEmpty || (a.replay.any fun f => decide (16 ≤ f.tries)) then s
  else
    let again := a.replay.map fun f => { f with tries := f.tries + 1 }
    let first := a.retryMs != some (t / 3300000)
    let s := s.setAisle p { a with replay := again, retryMs := some (t / 3300000), nakOwed := false }
    let s := (again.zipIdx).foldl (fun s f =>
      let x := flitOf f.1.bytes
      let x := { x with
        ack := (a.rxSeq + 4095) % 4096, ackValid := a.acked, nak := a.nakOwed && f.2 = 0, crPool := 0, crCount := 0 }
      s.emit (.flit t p x.bytes)) s
    let s := (s.count (pageNo .aisle p) 0x58 again.length).occupy (1604 + p) 0 again.length
    if first then s.raise (s.linkEv t 0x5101 0 none p 0) else s

/-- AISLE_ACK_TIMEOUT (R338): unacknowledged flits and no ack progress for 1,024 slots, nor a replay for want of it. -/
def execAisleAckTimeout (t p : Nat) (s : State) : Host.Outcome State Fault Refusal :=
  let s := s.advance t
  let a := s.aisle p
  .next (s.on (if a.state = 3 && !a.replay.isEmpty && decide (max a.ackAt a.retryAt + 4096 ≤ t) then
    (s.setAisle p { a with retryAt := t }).replayPort t p else s))

/-- AISLE_NAK_REPEAT (R338): the next flit carries the NAK again. -/
def execAisleNakRepeat (t p : Nat) (s : State) : Host.Outcome State Fault Refusal :=
  let s := s.advance t
  let a := s.aisle p
  .next (s.on (match a.nakAt with
    | some u => if a.state = 3 && decide (u + 4096 ≤ t) then s.setAisle p { a with nakAt := some t, nakOwed := true } else s
    | none => s))

/-! ### Receiving flits and messages (R338, R340 to R342) -/

/-- What ack and credits of a received flit do at the transmitter. -/
def Aisle.takeAck (a : Aisle) (t : Nat) (f : Flit) : Aisle :=
  let a := match (if f.ackValid then lfind (fun x : TxFlit => x.seq = f.ack) a.replay 0 else none) with
    | some (i, _) => { a with replay := a.replay.drop (i + 1), ackAt := t }
    | none => a
  { a with credits := lmod a.credits f.crPool (· + f.crCount), goodAt := t }

/-- An accepted sequenced flit joins its message. -/
def Aisle.join (a : Aisle) (f : Flit) : Aisle :=
  let body := if f.first then f.payload else a.part ++ f.payload
  let n := if f.first then 1 else a.partFlits + 1
  let a := { a with rxSeq := (a.rxSeq + 1) % 4096, acked := true, nakAt := none, nakOwed := false }
  if f.last then { a with part := [], partFlits := 0, inbox := a.inbox ++ [⟨f.ty, f.pool, n, body⟩] }
  else { a with part := body, partFlits := n, partTy := f.ty, partPool := f.pool }

/-- A message begins while another is unfinished at a port: the flits of that one leave the buffer (R340). Where it begins anew it
was revoked (R236); an exchange message that does not was cut off on its way (R339). -/
def State.endPart (s : State) (t p : Nat) (f : Flit) : State :=
  let a := s.aisle p
  if !f.first || a.partFlits = 0 then s
  else
    let s := if a.part.take f.payload.length = f.payload then s else s.passPart t p
    let a := s.aisle p
    s.setAisle p { a with owed := lmod a.owed a.partPool (· + a.partFlits), part := [], partFlits := 0 }

/-- A flit that is discarded: NAK goes with the next flit, once until the expected flit arrives. -/
def State.nakAisle (s : State) (t p : Nat) : State :=
  let a := s.aisle p
  if a.nakAt.isSome then s else s.setAisle p { a with nakAt := some t, nakOwed := true }

/-- AISLE_FLIT_RECEIVE (R338); a locked port that is not UP only notes a good flit and counts a bad one (R339, R362). -/
def execAisleFlitReceive (t p : Nat) (b : List Byte) (s : State) : Host.Outcome State Fault Refusal :=
  let s := s.advance t
  let a := s.aisle p
  .next (s.on (if a.state != 3 then
      (if !a.locked then s else if flitOk b then s.setAisle p { a with goodAt := t } else s.count (pageNo .aisle p) 0x60 1)
    else if !flitOk b then (s.count (pageNo .aisle p) 0x60 1).nakAisle t p
    else
      let f := flitOf b
      let s := s.setAisle p (a.takeAck t f)
      let s := if f.nak then s.replayPort t p else s
      let s := if !flitSequenced f.ty then s
        else if f.seq = a.rxSeq then
          let s := s.endPart t p f
          (s.setAisle p ((s.aisle p).join f)).count (pageNo .aisle p) 0x48 1
        else s.nakAisle t p
      s.reserveAisle p))

/-- Job that a message names: exchange header, GRAD header or CLERK header after the route word. -/
def mailJob (m : Mail) : Nat := if m.ty = 1 then bits (leAt m.body 8 16) 21 16 else if m.ty = 4 then bits (leAt m.body 8 8) 13 8 else bits (leAt m.body 8 4) 5 0

/-- A message leaves a port's receive buffer and its credits are owed (R340). -/
def State.oweMail (s : State) (p : Nat) (m : Mail) : State :=
  let a := s.aisle p
  s.setAisle p { a with owed := lmod a.owed m.pool (· + m.flits) }

/-- Is a message a CLERK message of a type (R355)? -/
def clerkMail (ty : Nat) (m : Mail) : Bool := m.ty = 4 && leAt m.body 8 1 = ty

/-- Does a device discard a CLERK message: a type that is not public and that its firmware does not send (R355)? -/
def clerkForeign (m : Mail) : Bool :=
  let ty := leAt m.body 8 1
  m.ty = 4 && (ty = 0 || decide (4 < ty)) && !(decide (0x80 ≤ ty) && (ty = suspendType || ty = soloType))

/-- What a CLERK message of position 0 has a device of its side do: suspend the job (R358), or go on without the partner (R359). -/
def State.sideWord (s : State) (m : Mail) : State :=
  let j := mailJob m
  if (routeOf m.body).src != 0 then s
  else if leAt m.body 8 1 = suspendType then s.suspendJob j false
  else s.setSolo j

/-- A message for this device is delivered: an exchange message to the mesh, another to its unit or the Clerk. A GRAD or WCOPY
message keeps its credits until the unit takes it (R340). -/
def State.deliverMail (s : State) (t p : Nat) (m : Mail) : State :=
  if m.ty = 1 then (s.oweMail p m).enterMesh t p 64 m.body
  else if clerkForeign m then s.oweMail p m
  else if m.ty = 4 && 0x80 ≤ leAt m.body 8 1 then (s.oweMail p m).sideWord m
  else
    let s := s.setAisle p { s.aisle p with local_ := (s.aisle p).local_ ++ [m] }
    if m.pool = 4 then s else s.oweMail p m

/-- A message for another device is forwarded, one link further on; without a port to take it is dropped (R342). -/
def State.relayMail (s : State) (p : Nat) (m : Mail) : State :=
  (s.oweMail p m).relay p m.ty m.pool false m.flits m.body (mailJob m)

/-- Must a message wait for the Clerk, which restarts (R413)? -/
def State.awaitsClerk (s : State) (m : Mail) : Bool :=
  !s.clerk.serving && m.ty = 4 && decide (0x80 ≤ leAt m.body 8 1) && !clerkForeign m && s.isHere (routeOf m.body).dst

/-- AISLE_MESSAGE_RECEIVE (R342): the oldest message received is delivered here, forwarded, or dropped. -/
def execAisleMessageReceive (t p : Nat) (s : State) : Host.Outcome State Fault Refusal :=
  let s := s.advance t
  let a := s.aisle p
  .next (s.on (match a.inbox with
    | [] => s
    | m :: r =>
      let u := s
      let s := s.setAisle p { a with inbox := r }
      if u.awaitsClerk m then u
      else if !s.keeps (routeOf m.body) then (s.oweMail p m).count (pageNo .aisle p) 0x98 1
      else if s.isHere (routeOf m.body).dst then s.deliverMail t p m
      else s.relayMail p m))

/-- The first delivered message at a port that satisfies a test; it is taken. -/
def State.takeLocal (s : State) (p : Nat) (f : Mail → Bool) : Option (Mail × State) :=
  let a := s.aisle p
  match lfind f a.local_ 0 with
  | some (i, m) => some (m, s.setAisle p { a with local_ := ldel a.local_ i })
  | none => none

/-- Step of a CLERK message. -/
def clerkStep (m : Mail) : Nat := leAt m.body 10 6

/-! ### Training (R339, R348) -/

/-- Retraining of a port (R339): one that is enabled starts again from TRAINING (R362). -/
def State.retrainAisle (s : State) (p : Nat) : State :=
  let a := s.aisle p
  if !s.portPresent p || !bit (s.live .aisle p 0x104) 0 then s
  else (s.setAisle p { Aisle.empty with state := 1, queue := a.queue, inbox := a.inbox, local_ := a.local_ }).freeOutput (aisleArb p) 0

/-- AISLE_LANES_LOCKED (R348): lanes and codewords lock, and IDENT flits go out, the first in the next slot to start. -/
def execAisleLanesLocked (t p : Nat) (s : State) : Host.Outcome State Fault Refusal :=
  let s := s.advance t
  let a := s.aisle p
  .next (s.on (if a.state != 1 || !s.portPresent p then s
    else (s.setAisle p { a with
      state := 2, lanes := 255, idents := [], identTx := 0, identRx := 0, lockAt := cdiv t 4 * 4, identsOut := 0, goodAt := t
      partFlits := 0 }).dueIdents t p 16))

/-- A port enters UP: no credits held, its own split to return (R340); a fenced port carries no traffic. -/
def State.enterUp (s : State) (t p : Nat) : State :=
  let a := s.aisle p
  if bit (s.live .aisle p 0x104) 3 then s.setAisle p { a with state := 6 }
  else
    s.setAisle p { a with
      state := 3, txSeq := 0, rxSeq := 0, acked := false, replay := [], credits := [0, 0, 0, 0, 0]
      owed := s.creditSplit p, reserved := [], ackAt := t, goodAt := t, nakAt := none, nakOwed := false, part := [], partFlits := 0 }

/-- One-way latency from the results of a port's IDENTs, each doubled: their mean to the nearest tick, as LINK_LATENCY holds
it (R348, R362). -/
def latencyOf (l : List Int) : Nat :=
  if l.isEmpty then 0 else ((l.sum + l.length) / (2 * (l.length : Int))).toNat % 4096

/-- What an IDENT that arrives at `t` tells its port: the peer, and one result of the latency, twice (R348). -/
def Aisle.takeIdent (a : Aisle) (t : Nat) (y : List Byte) : Aisle :=
  { a with
    identTx := leAt y 0 8, identRx := t, peerPos := leAt y 20 1 % 64, peerPort := leAt y 21 1 % 16
    peerSide := bit (leAt y 22 1) 0, peerValid := true, goodAt := t
    idents := a.idents ++ [(t : Int) - leAt y 8 8 - leAt y 16 4] }

/-- IDENT_RECEIVE (R348): the sixteenth takes the port to UP, or to MISWIRED; the port's own IDENTs go on by their slots. -/
def execIdentReceive (t p : Nat) (b : List Byte) (s : State) : Host.Outcome State Fault Refusal :=
  let s := s.advance t
  .next (s.on (if (s.aisle p).state != 2 then s
    else if !flitOk b then s.count (pageNo .aisle p) 0x60 1
    else if (flitOf b).ty != 6 then s
    else
      let s := s.dueIdents t p 16
      let a := (s.aisle p).takeIdent t (flitOf b).payload
      if a.idents.length < 16 then s.setAisle p a
      else
        let s := s.setAisle p { a with latency := latencyOf a.idents }
        let c := s.live .aisle p 0x104
        if bit c 14 && bits c 9 4 != a.peerPos then
          let s := s.setAisle p { s.aisle p with state := 5 }
          s.raise (s.linkEv t 0x5103 1 none p 0)
        else s.enterUp t p))

/-! ### Credits of a suspended job (R381) -/

/-- Is a job suspended? -/
def State.isSuspended (s : State) : Option Nat → Bool
  | some j => ((s.job j).map (·.suspended)).getD false
  | none => false

/-- Has a job been suspended for 330,000 ticks (R381)? -/
def State.longSuspended (s : State) (t : Nat) : Option Nat → Bool
  | some j => match s.job j with
    | some jb => jb.suspended && (match jb.suspAt with | some u => decide (u + 330000 ≤ t) | none => false)
    | none => false
  | none => false

/-- A queue after a revocation (R381): the entries of a job go, in their order, behind every entry of the same sender whose
job is not suspended. -/
def requeue {α : Type} (mine same still : α → Bool) (l : List α) : List α :=
  let rest := l.filter fun x => !mine x
  (rest.filter fun x => !(same x && still x)) ++ l.filter mine ++ rest.filter fun x => same x && still x

/-- CREDIT_REVOKED, once per job and suspension (R381, R387). -/
def State.revokedEv (s : State) (t : Nat) (job : Option Nat) (source : W32) : State :=
  match job with
  | none => s
  | some j => match s.job j with
    | none => s
    | some jb =>
      if jb.revoked then s
      else (s.setJob j { jb with revoked := true }).raise ⟨0x6104, 0, some j, source, 0, t, jb.tenant.setWidth 64⟩

/-- A revocation at an aisle port: the head message of a job suspended so long that has not started gives its reservation back. -/
def State.revokeAisle (s : State) (t p : Nat) : State :=
  let a := s.aisle p
  let head (m : AisleMsg) (i : Nat) : Bool := !(a.queue.take i).any fun o => o.req = m.req
  let busy := (s.holder (aisleArb p) 0).map (·.req)
  match (a.queue.zipIdx).find? fun q => head q.1 q.2 && some q.1.req != busy && s.longSuspended t q.1.job with
  | none => s
  | some (m, _) =>
    let queue := requeue (fun x => x.req = m.req && x.job = m.job) (fun x => x.req = m.req) (fun x => s.isSuspended x.job) a.queue
    let credits := lmod a.credits m.pool (· + sgetD a.reserved m.req 0)
    (((s.setAisle p { a with queue, credits, reserved := sdel a.reserved m.req }).count (pageNo .aisle p) 0xA0 1).revokedEv t m.job
      (pageId .aisle p)).reserveAisle p

/-- A revocation at a LemefLink half-port, on the stream fetches of pools 1 to 3 (R430). -/
def State.revokeHalf (s : State) (t h : Nat) : State :=
  let f := s.half h
  let head (q : SlotReq) (i : Nat) : Bool := !(f.queue.take i).any fun o => o.pool = q.pool
  let busy := (s.holder (lemefArb h) (h % 2)).map (·.req)
  match (f.queue.zipIdx).find? fun q => 1 ≤ q.1.pool && q.1.pool ≤ 3 && head q.1 q.2 && some q.1.requester != busy
      && s.longSuspended t q.1.job with
  | none => s
  | some (m, _) =>
    let queue := requeue (fun x => x.pool = m.pool && x.job = m.job) (fun x => x.pool = m.pool) (fun x => s.isSuspended x.job) f.queue
    ((s.setHalf h { f with queue }).count (lemefPage h) 0x78 1).revokedEv t m.job (pageId .lemef (h / 2))

/-- CREDIT_REVOKE (R381, R430): the head message of a job suspended for 330,000 ticks has not started, at an aisle port (0 to
11) or a LemefLink half-port (12 to 15). -/
def execCreditRevoke (t p : Nat) (s : State) : Host.Outcome State Fault Refusal :=
  let s := s.advance t
  .next (s.on (if p < 12 then s.revokeAisle t p else s.revokeHalf t (p - 12)))

/-! ### Seals and twins (R355, R357 to R359) -/

/-- SEAL_RECEIVE (R357): a SEAL delivered at a port. -/
def execSealReceive (t p : Nat) (s : State) : Host.Outcome State Fault Refusal :=
  let s := s.advance t
  .next (s.onClerk (match s.takeLocal p (clerkMail 2) with
    | none => s
    | some (m, s) =>
      if s.pins.pos != 0#6 then s
      else s.takeSeal t (mailJob m) (clerkStep m) (routeOf m.body).src (leAt m.body 16 1) (BitVec.ofNat 64 (leAt m.body 24 8))))

/-- The SEAL_TABLE that has come over a twin port is taken: its 64 SEAL bodies (R355). -/
def State.takeTable (s : State) (p j step : Nat) : Option (List Byte × State) :=
  (s.takeLocal p fun m => clerkMail 3 m && mailJob m = j && clerkStep m = step).map fun q => ((q.1.body.drop 16).take 1024, q.2)

/-- The partner's table of a step: it comes over the twin port, or is carried by the companion, which gives its bytes (R357). -/
def State.partnerTable (s : State) (w : TwinSt) (j step : Nat) (table : List Byte) : Option (List Byte × State) :=
  if w.path < 12 then s.takeTable w.path j step else some (table, s)

/-- SEAL_TABLE_RECEIVE (R357): the partner side's table has come to position 0, as a message over the twin port or carried by the
companion, which gives its bytes. -/
def execSealTableReceive (t j step : Nat) (table : List Byte) (s : State) : Host.Outcome State Fault Refusal :=
  let s := s.advance t
  .next (s.onClerk (match s.job j with
    | none => s
    | some jb => match jb.twin with
      | none => s
      | some w => match s.partnerTable w j step table with
        | none => s
        | some (tb, s) =>
          if s.pins.pos != 0#6 || w.solo || w.interval = 0 || step % w.interval != 0 then s
          else
            (s.setJob j { jb with twin := some { w with
              partner := (w.partner.filter fun q => q.1 != step) ++ [(step, tb)] } }).compareSeals j step))

/-- SEAL_TABLE_TIMEOUT (R359): position 0 declares the partner lost, and its side's other devices learn of it. -/
def execSealTableTimeout (t j : Nat) (s : State) : Host.Outcome State Fault Refusal :=
  let s := s.advance t
  .next (s.onClerk (match s.job j with
    | none => s
    | some jb => match jb.twin with
      | none => s
      | some w =>
        if s.pins.pos = 0#6 && w.doneAt.any fun q => decide (q.2 + w.timeout * 3300000 ≤ t) then s.twinSolo j else s))

/-! ### ABORT (R353) -/

/-- Is a message's step the job's unresolved step or the one after it (R353)? -/
def Job.stepExpected (jb : Job) (low : Nat) : Bool :=
  let last := match jb.steps.getLast? with | some x => x.n | none => jb.consumed
  jb.steps.any (fun x => x.n % 65536 = low) || (last + 1) % 65536 = low

/-- Ingress entries of a job's step are cleared on every hub. -/
def State.clearIngress (s : State) (j step : Nat) : State :=
  (List.range 4).foldl (fun s h =>
    let hb := s.hub h
    s.setHub h { hb with ingress := hb.ingress.filter fun c => !(c.job = j && c.step % 65536 = step % 65536) }) s

/-- A job's step counts its run up: an accepted one, or the next, whose contributions may have come before it (R353). -/
def Job.countRun (jb : Job) (step : Nat) : Job :=
  if jb.steps.any fun x => x.n % 2 ^ 48 = step then
    { jb with steps := jb.steps.map fun x => if x.n % 2 ^ 48 = step then { x with run := (x.run + 1) % 16 } else x }
  else if jb.stepExpected (step % 65536) then { jb with runs := [(step, (jb.runBefore step + 1) % 16)] }
  else jb

/-- ABORT_RECEIVE (R353, R402): a peer aborted the step; its ingress entries go and the run counts up. -/
def execAbortReceive (t p : Nat) (s : State) : Host.Outcome State Fault Refusal :=
  let s := s.advance t
  .next (s.onClerk (match s.takeLocal p (clerkMail 4) with
    | none => s
    | some (m, s) =>
      let j := mailJob m
      let step := clerkStep m
      match s.job j with
      | none => s
      | some jb =>
        let s := (s.clearIngress j step).setJob j (jb.countRun step)
        if jb.steps.any fun x => x.n % 2 ^ 48 = step then s.abortSteps j 0 else s))

end Sys2Proof.Machine
end

