-- ==== Sys2Proof/Machine/Arbiter.lean ====
section
/-! DEFINITION. The common arbiter (R229 to R242). An output is numbered as ARB_SEL numbers it, a control channel 64
above; cycles are numbered from bell tick 0 (log entry 24). -/
namespace Sys2Proof.Machine

/-- Round that holds a cycle for the rota: the last whose boundary a cycle at or before `y` follows. -/
def arbRound (a y : Nat) : Nat :=
  let r := y * (arbRate a).2 / (arbRate a).1 / 4096
  if firstCycle a ((r + 1) * 4096) ≤ y then r + 1 else r

/-- Position of a cycle (R232). -/
def arbPosition (a y : Nat) : Nat := (y - firstCycle a (arbRound a y * 4096)) % 64

/-- Compute die, column neighbour and hub side of a mesh stall's router: does it have requester `r` (R204, R229, R230)? -/
def meshHas (rows a r : Nat) : Bool :=
  let c := a / 128
  let row := a % 128 / 16
  let slot := a % 16
  let west := c / 3 = c / 4
  if r = 0 then true
  else if r < 17 then r - 1 != slot
  else if r < 25 then r - 17 != row && decide (r - 17 < rows)
  else if r = 25 then (row = 0 && c % 4 != 0) || (row = 7 && c % 4 != 3)
  else r = 26 && slot = (if west then 0 else 15)

/-- Does instance `a` have requester `r` (R229, R230)? -/
def State.arbHas (s : State) (a r : Nat) : Bool :=
  if a < 1536 then meshHas s.rows a r
  else if a < 1560 then decide (r < 4) else if a < 1584 then decide (r < 8) else if a < 1600 then decide (r < 6)
  else if a < 1604 then decide (r < 8) && (decide (r < 3) || decide (5 < r) || s.portPresent (3 * (a - 1600) + r - 3))
  else if a < 1616 then decide (r < 6) else decide (r < 4)

/-- Is an ARB page present (R230)? -/
def State.arbPresent (s : State) (a : Nat) : Bool :=
  if a < 1536 then s.stallPresent a
  else if a < 1560 then
    let c := (a - 1536) / 2
    if a % 2 = 0 then c % 4 != 3 else c % 4 != 0
  else if a < 1604 then true
  else if a < 1616 then s.portPresent (a - 1604) else decide (a < 1618)

/-- The outputs of an instance (R229): a mesh router's ports, each with a data and a control channel (64 above), the channels
of a bridge or of a stack, the two halves of a LemefLink port (R426), or the one output. -/
def State.arbOutput (s : State) (a o : Nat) : Bool :=
  if a < 1536 then s.arbHas a (o % 64) && decide (o < 128)
  else if a < 1584 then decide (o < 8) else if a < 1600 then decide (o < 32) else if a < 1616 then o = 0 else decide (o < 2)

/-- Is a transfer of a requester a locked sequence (R229)? Exchange messages are, and the coherent line transactions of a
LemefLink's line cache. -/
def arbLocked (a r : Nat) : Bool :=
  decide (a < 1560) || ((decide (a < 1584) || (decide (1604 ≤ a) && decide (a < 1616))) && decide (r < 4))
    || (decide (1616 ≤ a) && r = 2)

/-- A grant of a route with the bridge channel that carries the traffic of its own: the live one that has taken it over (R225). -/
def State.carried (s : State) (g : Nat × Nat × Nat) : Nat × Nat × Nat :=
  if 1536 ≤ g.1 && g.1 < 1584 then (g.1, s.carrier (arbChan g.1 g.2.1) % 8, g.2.2) else g

/-- Can a transfer be presented to this output (R203, R204, R225, R229, R245)? An exchange message is on the outputs of its route, on
the channel that carries it, under the port or class that it arrives by; a block access is at the channel of its stack that its
address names. -/
def State.arbFits (s : State) (a output : Nat) (r : ArbReq) : Bool :=
  if a < 1560 || (decide (a < 1584) && decide (r.req < 4)) then
    match r.carries with
    | .message src dst kind cls => ((routeBetween src dst kind cls).grants.map s.carried).contains (a, output, r.req)
    | _ => false
  else if 1584 ≤ a && a < 1600 then
    match r.carries with
    | .block pa => 1584 + stackOf pa = a && (hbmChannel pa).1 = output
    | _ => false
  else true

/-- The requests of an output: those of a link's transmitter are the messages and slots that wait there; a block access of a stack is
one beat (R229). -/
def State.requests (s : State) (a output : Nat) (reqs : List ArbReq) : List ArbReq :=
  if 1616 ≤ a then s.halfReqs (2 * (a - 1616) + output)
  else if 1604 ≤ a then s.aisleReqs (a - 1604)
  else (reqs.filter (s.arbFits a output)).map fun r => if 1584 ≤ a && a < 1600 then { r with beats := 1 } else r

/-- A register of an ARB page as the decision for cycle `y` reads it: a COMMIT acts from the first cycle that begins at or
after its round boundary, though that cycle is decided in the one before (R239). -/
def State.arbReg (s : State) (a y off : Nat) : Nat :=
  let pg := s.page (pageNo .arb a)
  if decide (firstCycle a s.bell.nextRound ≤ y) && pg.commit then ((pg.apply .arb a).word .arb a off).toNat
  else s.live .arb a off

/-- What a rota entry gives a cycle to (R232). -/
inductive Entry where
  | req (r : Nat)
  | cls (c : Nat)
  | free
  deriving DecidableEq, Repr

/-- The entry at a position, as cycle `y` reads it; one that names an absent requester is FREE (R230, R232). -/
def State.arbEntry (s : State) (a y pos : Nat) : Entry :=
  let w := s.arbReg a y (0x100 + 4 * (pos / 4))
  let v := bits w (8 * (pos % 4) + 6) (8 * (pos % 4))
  if v < 64 then (if s.arbHas a v then .req v else .free) else if v < 68 then .cls (v - 64) else .free

/-- Class of a requester in cycle `y` (R233). -/
def State.reqClass (s : State) (a y r : Nat) : Nat :=
  bits (s.arbReg a y (0x140 + 4 * (r / 16))) (2 * (r % 16) + 1) (2 * (r % 16))

/-- Does a requester own cycle `y` with entry `e` (R233)? -/
def State.owns (s : State) (a y r : Nat) : Entry → Bool
  | .req q => q = r
  | .cls c => s.reqClass a y r = c
  | .free => false

/-- Round-robin choice from requesters of one class (R237). -/
def rrPick (ptr : Nat) (l : List ArbReq) : Option ArbReq :=
  match argmin (fun r : ArbReq => r.req) (l.filter fun r => decide (ptr ≤ r.req)) with
  | some r => some r
  | none => argmin (fun r : ArbReq => r.req) l

/-- A loss of requester `r` decided for cycle `y` (R237). -/
def ArbOut.lose (o : ArbOut) (y r : Nat) (backoff : Bool) : ArbOut :=
  let k := sgetD o.losses r 0 + 1
  { o with
    losses := sput 0 o.losses r k
    off := sput 0 o.off r (y + if backoff then min (2 ^ min (k - 1) 10) 1024 else 0) }

/-- May a background grant start a transfer (R234)? -/
def State.lockFits (s : State) (a y : Nat) (r : ArbReq) : Bool :=
  !arbLocked a r.req || (List.range (min r.beats 64)).all fun i =>
    match s.arbEntry a y ((arbPosition a y + i) % 64) with
    | .free => true
    | .req q => q = r.req
    | .cls _ => false

/-- The holder moves its beat of the cycle in which the decision is taken. -/
def ArbOut.beat (o : ArbOut) : ArbOut :=
  match o.hold with
  | none => o
  | some h =>
    if h.left ≤ 1 then { o with hold := none }
    else { o with hold := some { h with left := h.left - 1, moved := h.moved + 1, cycles := h.cycles + b2n h.locked } }

/-- A locked holder holds the output a cycle longer (R235). -/
def Holder.stay (h : Holder) : Holder := { h with cycles := h.cycles + b2n h.locked }

/-- A cycle in which the holder moves no beat. -/
def ArbOut.wait (o : ArbOut) : ArbOut := { o with hold := o.hold.map Holder.stay }

/-- A grant to a transfer: pointer and losses (R237; back-off in force goes on), a phantom where the requester withdraws (R238). The
counters that rise are answered as (offset, amount). -/
def ArbOut.grant (o : ArbOut) (a cls : Nat) (w : ArbReq) (rota : Bool) : ArbOut × List (Nat × Nat) :=
  let o := { o with rr := sput 0 o.rr cls (w.req + 1) }
  if w.withdraws then ({ o with hold := none }, [(0x60, 1), (0x80, 1)])
  else
    ({ o with
      hold := some ⟨w.req, w.beats, 0, arbLocked a w.req, 0, rota, w.job, w.carries⟩
      losses := sput 0 o.losses w.req 0 }, [(0x40, 1), (0x48, b2n rota)])

/-- A lock that has lasted 64 cycles is cut (R235): the output after it, and the lock. -/
def ArbOut.cut (o : ArbOut) : ArbOut × Option Holder :=
  match o.hold with
  | some h => if h.locked && decide (64 ≤ h.cycles) then ({ o with hold := some { h with locked := false } }, some h) else (o, none)
  | none => (o, none)

/-- The decision of R237 for cycle `y` once the holder has moved and a lock of 64 cycles has been cut: the output and the
counters that rise. -/
def State.arbDecide (s : State) (a y : Nat) (reqs : List ArbReq) (o : ArbOut) : ArbOut × List (Nat × Nat) :=
  let e := s.arbEntry a y (arbPosition a y)
  let backoff := bit (s.arbReg a y 0x148) 0
  let reqs := reqs.filter fun r => s.arbHas a r.req
  let own := reqs.filter fun r => s.owns a y r.req e
  let keep (h : Holder) : ArbOut := { o with hold := some { h with rota := s.owns a y h.req e } }
  match o.hold with
  | some h =>
    if h.locked then
      (keep h, if own.any fun r => r.req != h.req then [(0x70, 1)] else [])
    else if s.owns a y h.req e then (keep h, [])
    else
      let w := match e with
        | .cls c => rrPick (sgetD o.rr c 0) own
        | _ => own.head?
      match w with
      | none => (keep h, [])
      | some w =>
        let o := ({ o with hold := none }.lose y h.req backoff)
        let g := o.grant a (s.reqClass a y w.req) w true
        (g.1, [(0x50, 1), (0x58, h.moved), (0x78, 1)] ++ g.2)
  | none =>
    let w := match e with
      | .cls c => rrPick (sgetD o.rr c 0) own
      | _ => own.head?
    match w with
    | some w =>
      o.grant a (s.reqClass a y w.req) w true
    | none =>
      let cs := reqs.filter fun r => decide (sgetD o.off r.req 0 ≤ y - 1) && s.lockFits a y r
      match argmin id (cs.map fun r => s.reqClass a y r.req) with
      | none => (o, [(0x80, 1)])
      | some c => match rrPick (sgetD o.rr c 0) (cs.filter fun r => s.reqClass a y r.req = c) with
        | none => (o, [(0x80, 1)])
        | some w =>
          let others := cs.filter fun r => r.req != w.req
          let o := others.foldl (fun o r => o.lose y r.req backoff) o
          let g := o.grant a c w false
          (g.1, (0x78, others.length) :: g.2)

/-- A cut lock is counted and reported (R235, R242); its record packs the ARB index, the output and the requester. -/
def State.lockCut (s : State) (a output : Nat) : Option Holder → State
  | none => s
  | some h => (s.count (pageNo .arb a) 0x68 1).raise
      (s.mkEv 0x3301 0 h.job .arb a 0 (a + 2 ^ 16 * output + 2 ^ 23 * h.req))

/-- The beat of the cycle in which a decision is taken: at a link's transmitter the holder's next flit or slot leaves, or an IDLE one
(R231); elsewhere the holder moves it unless the cycle carries none. Whether it moved is told. -/
def State.arbBeat (s : State) (t a output : Nat) (hold : Option Holder) (gap : Bool) : State × Bool :=
  if 1616 ≤ a then s.halfSlot t (2 * (a - 1616) + output) hold gap
  else if 1604 ≤ a then s.aisleSlot t (a - 1604) hold gap
  else (s, !gap)

/-- The holder of an output has been revoked (R236): its transfer restarts, and nothing of it takes effect downstream. A message of an
aisle port reserves its credits afresh, and a stall discards what it has of a message. -/
def State.revoked (s : State) (t a : Nat) (h : Holder) : State :=
  if 1604 ≤ a then (if a < 1616 then s.reserveAisle (a - 1604) else s)
  else match h.carries with
    | .message src dst kind _ => if dst < 1536 then s.onStall t dst fun st => (st.revoked src kind h.job, []) else s
    | _ => s

/-- The holder that a decision revoked. -/
def revokedHolder (o : ArbOut) (counts : List (Nat × Nat)) : Option Holder :=
  if counts.any fun q => q.1 = 0x50 then o.hold else none

/-- ARB_CYCLE_DECISION (R237, R238): the decision for cycle `y` of an output, taken in the cycle before it from the requests as
they stand there. While a link replay occupies the output no decision is made and no beat moves, and a lock's cycles count on
(R231, R235); the same holds of a lock in a cycle that carries no beat, a `gap` (R235, log entry 24). A cycle of a holder with no
beat is idle (R241). -/
def execArbCycleDecision (t a output y : Nat) (reqs : List ArbReq) (gap : Bool) (s : State) : Host.Outcome State Fault Refusal :=
  let s := s.advance t
  let key := a * 128 + output
  let pg := pageNo .arb a
  let o := sgetD s.arbs key .empty
  .next (s.on (if !s.arbPresent a || !s.arbOutput a output then s
    else if y < o.busyTo then
      let c := ({ o.wait with cycle := y } : ArbOut).cut
      ({ s with arbs := sset s.arbs key c.1 }.count pg 0x88 1).lockCut a output c.2
    else
      let b := s.arbBeat t a output o.hold gap
      let c := ({ (if b.2 then o.beat else o.wait) with cycle := y } : ArbOut).cut
      let r := b.1.arbDecide a y (b.1.requests a output reqs) c.1
      let s := { b.1 with arbs := sset b.1.arbs key r.1 }
      let s := (((0x80, b2n (o.hold.isSome && !b.2)) :: r.2).foldl (fun s q => if q.2 = 0 then s else s.count pg q.1 q.2) s)
      let s := s.lockCut a output c.2
      match revokedHolder c.1 r.2 with
      | some h => s.revoked t a h
      | none => s))

end Sys2Proof.Machine
end

