-- ==== Sys2Proof/Machine/Arrivals.lean ====
section
/-! DEFINITION. Commands of the stores (R184, R188, R195, R197) and of messages that reach a stall (R217, R225). -/
namespace Sys2Proof.Machine

/-- Transfers by ordinal whose index words have been read begin with their rows, translated now (R253, R256). -/
def State.beginIndexed (s : State) (t sn : Nat) : State :=
  ((s.stall sn).tags.filter fun q => q.2.rowsOf.isSome && q.2.waiting = 0).foldl (fun s q =>
    s.onStall t sn fun st => st.beginRows sn t q.1 (s.translate sn q.2.job (q.2.kind = .put))) s

/-- STEALER_PORT_GRANT (R184, R187): the ports of a bank that are idle serve waiting stealer words; rows
of the bank that an upset has hit meanwhile come with it (R181, log entry 64). -/
def execStealerPortGrant (t sn : Nat) (b : BankGrant) (s : State) : Host.Outcome State Fault Refusal :=
  .next (s.on (((s.advance t).onStall t sn fun st => (st.stealGrant t b.bank b.upsets, [])).beginIndexed t sn))

/-- SCRUB_COMPLETE (R188, R189). -/
def execScrubComplete (t sn b : Nat) (s : State) : Host.Outcome State Fault Refusal :=
  .next (s.on ((s.advance t).onStall t sn fun st => (st.scrubDone t b, [])))

/-- BANK_WAKE_COMPLETE (R195). -/
def execBankWakeComplete (t sn b : Nat) (s : State) : Host.Outcome State Fault Refusal :=
  .next (s.on ((s.advance t).onStall t sn fun st => (st.wakeDone t b, [])))

/-- STORE_TEST_REGION (R197, R198): the errors that the reads of the region find come with it, as (row, uncorrectable), and its
rows that fail their test. -/
def execStoreTestRegion (t sn store : Nat) (errs : List (Nat × Bool)) (fails : List Nat) (s : State) :
    Host.Outcome State Fault Refusal :=
  .next (s.on ((s.advance t).onStall t sn fun st => (st.testRegion t store (regionFinds errs fails), [])))

/-- MSG_FLIT0_ARRIVAL (R217, R221, R222); the payload words and the ticks after flit 0 at which they arrive come with it, but
for a word that the last flit brings itself. -/
def execMsgFlit0Arrival (t sn : Nat) (msg : MsgStart) (s : State) :
    Host.Outcome State Fault Refusal :=
  .next (s.on ((s.advance t).onStall t sn fun st => st.flit0 sn t msg.hdr msg.words))

/-- MSG_LAST_FLIT_ARRIVAL (R217, R218), with the payload word of the last flit where flit 0 did not name it. -/
def execMsgLastFlitArrival (t sn : Nat) (hdr : BitVec 128) (word : Option Line) (crc status : W32) (s : State) :
    Host.Outcome State Fault Refusal :=
  .next (s.on ((s.advance t).onStall t sn fun st => st.lastFlit sn t hdr word crc status))

/-- MSG_TRUNCATION_TIMEOUT (R225), of the message with a header of which `received` payload words have come. -/
def execMsgTruncationTimeout (t sn : Nat) (hdr : BitVec 128) (received : Nat) (s : State) : Host.Outcome State Fault Refusal :=
  .next (s.on ((s.advance t).onStall t sn fun st => st.truncate sn t hdr received))

end Sys2Proof.Machine
end

