-- ==== Sys2Proof/Machine/Schedule.lean ====
section
/-! DEFINITION. The schedule engine (R328 to R330): records and freeze rows as sampled at a step's start tick, and η, c1
and c2 in IEEE 754 binary64. -/
namespace Sys2Proof.Machine

/-! ### Binary64 (R330) -/

/-- A value rounded once to binary64. -/
def r64 : Num → Num
  | .fin d =>
    if d.man ≠ 0 && decide (d.log2 < -1100) then .fin ⟨d.neg, 0, -1074⟩
    else
      let e := roundTo 53 (-1074) d
      if e.man ≠ 0 && decide (1023 < e.log2) then .inf d.neg else .fin e
  | x => x

/-- Binary64 sum. -/
def add64 (a b : Num) : Num := r64 (a.add b)

/-- Binary64 difference. -/
def sub64 (a b : Num) : Num := r64 (a.add b.negate)

/-- Binary64 product. -/
def mul64 (a b : Num) : Num := r64 (a.mul b)

/-- Binary64 quotient. -/
def div64 (a b : Num) : Num :=
  match a, b with
  | .nan x, _ => .nan (quiet x)
  | _, .nan y => .nan (quiet y)
  | .inf _, .inf _ => .nan qnan
  | .inf n, .fin d => .inf (n != d.neg)
  | .fin d, .inf n => .fin ⟨d.neg != n, 0, 0⟩
  | .fin x, .fin y =>
    if y.man = 0 then (if x.man = 0 then .nan qnan else .inf (x.neg != y.neg)) else r64 (.fin (divSticky 53 x y))

/-- Binary64 square root. -/
def sqrt64 : Num → Num
  | .nan x => .nan (quiet x)
  | .inf n => if n then .nan qnan else .inf false
  | .fin d => if d.man = 0 then .fin d else if d.neg then .nan qnan else r64 (.fin (sqrtSticky 53 d))

/-- A natural number in binary64. -/
def nat64 (n : Nat) : Num := r64 (.fin ⟨false, n, 0⟩)

/-- A power, correctly rounded: exact for powers of two and up to the 64th, by enclosure above. -/
def pow64 (b : Num) (n : Nat) : Num :=
  match b with
  | .nan x => .nan (quiet x)
  | .inf g => .inf (g && decide (n % 2 = 1))
  | .fin d =>
    let neg := d.neg && decide (n % 2 = 1)
    if d.man = 0 then .fin ⟨neg, 0, 0⟩
    else if d.isPow2 then r64 (.fin ⟨neg, 1, d.log2 * (n : Int)⟩)
    else if n ≤ 64 then r64 (.fin ⟨neg, d.man ^ n, d.exp * (n : Int)⟩)
    else r64 (.fin { exp2Fix ((n : Int) * log2Fix { d with neg := false }) with neg := neg })

/-- `2^x`, correctly rounded. -/
def pow2of64 : Num → Num
  | .nan x => .nan (quiet x)
  | .inf n => if n then .fin ⟨false, 0, 0⟩ else .inf false
  | .fin d =>
    let f := d.fix
    if f % oneFix = 0 then r64 (.fin ⟨false, 1, f / oneFix⟩) else r64 (.fin (exp2Fix f))

/-- `n` terms of the cosine series from term `k`, for a fixed-point argument's square. -/
def cosTerms : Nat → Nat → Int → Int → Int
  | 0, _, _, _ => 0
  | n + 1, k, term, zz => term + cosTerms n (k + 2) (-(mulFix term zz) / ((k + 1) * (k + 2) : Nat)) zz

/-- The cosine, correctly rounded, of a value from 0 to π. -/
def cos64 : Num → Num
  | .fin d => if d.man = 0 then nat64 1 else r64 (.fin (fixDy (cosTerms 120 0 oneFix (mulFix d.fix d.fix))))
  | _ => .nan qnan

/-- π in binary64. -/
def pi64 : Num := .fin ⟨false, 0x1921FB54442D18, -51⟩

/-! ### η, c1 and c2 (R330) -/

/-- Largest whole number not above a value of sign plus. -/
def Dy.floorNat (d : Dy) : Nat := if d.neg then 0 else if d.exp ≥ 0 then d.man <<< d.exp.toNat else d.man >>> (-d.exp).toNat

/-- The restarts of the decay: position and period after them; `fuel` bounds their number. -/
def restarts (mult : Num) : Nat → Nat → Nat → Nat × Nat
  | 0, s, P => (s, P)
  | fuel + 1, s, P =>
    if s < P then (s, P)
    else match mul64 (nat64 P) mult with
      | .fin d =>
        let q := d.floorNat
        if q = 0 then (min (s - P) (P - 1), P) else if q = P then (s % P, P) else restarts mult fuel (s - P) q
      | _ => (s - P, 2 ^ 1023)

/-- η after the warm-up at position `s`. -/
def Group.decayed (g : Group) (s : Nat) : Num :=
  let peak := num32 g.etaPeak
  let low := num32 g.etaMin
  let mult := num32 g.mult
  let none' := feq g.mult 0#32
  if g.decay = 0 || g.period = 0 then peak
  else if none' && decide (g.period ≤ s) then low
  else
    let r := if none' then (s, g.period) else restarts mult (s + 1) s g.period
    let x := nat64 r.1
    let p := nat64 r.2
    if g.decay = 1 then
      add64 low (div64 (mul64 (sub64 peak low) (add64 (nat64 1) (cos64 (div64 (mul64 pi64 x) p)))) (nat64 2))
    else if g.decay = 2 then sub64 peak (div64 (mul64 (sub64 peak low) x) p)
    else
      let y := mul64 peak (sqrt64 (div64 p (add64 p x)))
      if numBelow y low then low else y

/-- η for counter value `t1`, in FP32. -/
def Group.eta (g : Group) (t1 : Nat) : W32 :=
  let peak := num32 g.etaPeak
  let w := nat64 g.warm
  (if t1 ≤ g.warm then
    if g.warmExp then
      mul64 peak (sub64 (nat64 1) (pow2of64 (div64 (mul64 (.fin ⟨true, 8, 0⟩) (nat64 t1)) w)))
    else div64 (mul64 peak (nat64 t1)) w
  else g.decayed (t1 - g.warm - 1)).to32

/-- `1 / (1 - beta^t1)`, in FP32. -/
def biasCorrection (beta : W32) (t1 : Nat) : W32 := (div64 (nat64 1) (sub64 (nat64 1) (pow64 (num32 beta) t1))).to32

/-! ### Sampling at the start tick (R314, R328, R330) -/

/-- The rows of a group that FREEZE entries name, as (first, count). -/
def State.freezeRows (s : State) (g : Nat) : List (Nat × Nat) :=
  (List.range 16).filterMap fun f =>
    let a := s.live .sched 0 (0x200 + 8 * f)
    let b := s.live .sched 0 (0x204 + 8 * f)
    if bit a 6 && bits a 5 0 = g then some (bits b 15 0, bits b 31 16) else none

/-- The counter value `t'` that a step of a group uses (R329). -/
def State.stepNext (s : State) (g : Nat) : W64 := sgetD s.sched.steps g 0#64 + 1#64

/-- The engine reads the records of a job's groups, two memory blocks each (R270, R314). -/
def State.readRecords (s : State) (j : Nat) : State :=
  (List.range 64).foldl (fun s g =>
    if s.groupValid g && (groupOf (s.groupRecord g)).job = j then
      (s.countRead (s.groupBase + 128 * g)).countRead (s.groupBase + 128 * g + 64)
    else s) s

/-- A group of a job as sampled for step `n`. -/
def State.sampleGroup (s : State) (j n g : Nat) : Option GroupCur :=
  let r := s.groupRecord g
  let gr := groupOf r
  if !s.groupValid g || gr.job ≠ j || !gr.valid then none
  else
    let t1 := (s.stepNext g).toNat
    some ⟨j, n, r, gr.eta t1, biasCorrection gr.beta1 t1, biasCorrection gr.beta2 t1, s.freezeRows g⟩

/-- Is a tensor block frozen (R328)? -/
def GroupCur.frozenBlock (c : GroupCur) (k : Nat) : Bool :=
  let g := groupOf c.record
  g.freeze = 1 || (g.freeze = 2 && c.frozen.any fun q => decide (q.1 ≤ k / g.colsB) && decide (k / g.colsB < q.1 + q.2))

/-- The first block from `k` on that is not frozen, or the block count. -/
def GroupCur.nextLive (c : GroupCur) (k : Nat) : Nat :=
  let n := (groupOf c.record).count
  ((List.range (n - k)).find? fun i => !c.frozenBlock (k + i)).elim n (k + ·)

/-- The sampled group of a job's step that holds a tensor block of its gradient space, and the block's index. -/
def State.groupHolding (s : State) (j n o : Nat) : Option (Nat × GroupCur × Nat) :=
  (s.sched.cur.find? fun (q : Nat × GroupCur) =>
    let g := groupOf q.2.record
    q.2.job = j && q.2.step = n && decide (g.first ≤ o) && decide (o < g.first + g.count)).map fun q =>
      (q.1, q.2, o - (groupOf q.2.record).first)

/-- A group that a job leaves serves no job (64); GRP_ETA, GRP_C1 and GRP_C2 keep the values of its last step (R334). -/
def GroupCur.leave (c : GroupCur) (j : Nat) : GroupCur := if c.job = j then { c with job := 64 } else c

/-- SCHEDULE_COMPUTE (R330): the start tick of a job's step; the groups are sampled and their outputs computed. -/
def State.computeSchedule (s : State) (j n : Nat) : State :=
  let cur := (List.range 64).foldl (fun (l : List (Nat × GroupCur)) g =>
    match s.sampleGroup j n g with
    | some c => sset l g c
    | none => match sget l g with
      | some c => sset l g (c.leave j)
      | none => l) s.sched.cur
  let s := { s.readRecords j with sched := { s.sched with cur := cur } }
  let fact := cur.filter fun (q : Nat × GroupCur) => q.2.job = j && q.2.step = n && (groupOf q.2.record).factored
  (List.range 4).foldl (fun s h =>
    let hb := s.hub h
    s.setHub h { hb with
      ordinals := hb.ordinals.filter fun q => q.1 / 64 != j
      acc := (hb.acc.filter fun a => !(fact.any fun q => q.1 = a.group)) ++
        fact.map fun q => ⟨q.1, n, q.2.nextLive 0, [], [], [], []⟩ }) s

/-- The sampled groups of a job's step that are not wholly frozen, each with the counter value `t'` that the step uses: its commit
gives it to the counter (R312, R329). -/
def State.liveGroups (s : State) (j n : Nat) : List (Nat × W64) :=
  (s.sched.cur.filter fun (q : Nat × GroupCur) =>
    q.2.job = j && q.2.step = n && (groupOf q.2.record).freeze ≠ 1).map fun q => (q.1, s.stepNext q.1)

/-- The counters of groups become the values that a committed step used (R312, R329). -/
def State.advanceGroups (s : State) (gs : List (Nat × W64)) : State :=
  { s with sched := { s.sched with steps := gs.foldl (fun l q => sset l q.1 q.2) s.sched.steps } }

/-- SCHEDULE_COMPUTE (R330). -/
def execScheduleCompute (j : Nat) (s : State) : Host.Outcome State Fault Refusal :=
  .next (s.on (match s.job j with
    | none => s
    | some jb => match jb.steps.find? fun x => x.start != 0 && !x.sched && x.abort.isNone with
      | none => s
      | some x =>
        let s := (s.advance x.start).computeSchedule j x.n
        s.setJob j { jb with steps := jb.steps.map fun y =>
          if y.n = x.n then { y with sched := true, groups := s.liveGroups j x.n } else y }))

end Sys2Proof.Machine
end

