-- ==== Sys2Proof/Machine/Transfers.lean ====
section
/-! DEFINITION. The memory side of porter transfers: arrival of blocks and re-reads (R246, R247, R299), writes (R248,
R249), completion (R257, R258), the ends of R254, R259 and R407, starvation (R186) and run-ahead (R260, R261). -/
namespace Sys2Proof.Machine

/-! ### The path of a block (R18, R19) -/

/-- Joins that a block of physical address `pa` passes on its way to compute die `c`. -/
def blockPath (c pa : Nat) : List Nat :=
  if hallBase ≤ pa then chainPath c ((pa - hallBase) / 2 ^ 25)
  else
    let h := stackOf pa / 4
    let d := max (3 * h) (min c (3 * h + 2))
    d :: chainPath c d

/-- Where a block of a transfer goes: its physical address, or for a frame of a window PUT the first stack of the hub whose
unit takes it, the serving hub's where it lies in no valid group (R317, R318). -/
def State.blockPa (s : State) (sn : Nat) (x : Transfer) (b : PBlock) : Nat :=
  if !x.grad then b.pa
  else
    let h := match s.groupHolding x.job ((s.stall sn).stepOf x.job) ((b.va - gradWindow) / 4160) with
      | some (_, c, k) => s.unitOf (groupOf c.record) k
      | none => hubOf sn
    4 * h * 2 ^ 36

/-- Joins of a transfer's blocks that have not landed. -/
def State.joinsOf (s : State) (sn : Nat) (x : Transfer) : List Nat :=
  (x.blocks.filter fun b => b.requested && !b.landed).flatMap fun b => blockPath (sn / 128) (s.blockPa sn x b)

/-- Page of the stack or of the die whose hall store holds a physical address. -/
def memPageId (pa : Nat) : W32 :=
  if pa < hallBase then pageId .hbm (stackOf pa) else pageId .cdie ((pa - hallBase) / 2 ^ 25)

/-- An event of memory for a transfer's job: it names the stack or hall store and the physical address (R266). -/
def State.memEv (s : State) (t code sev sn job pa : Nat) : Ev :=
  ⟨code, sev, some job, memPageId pa, (s.stall sn).stepOf job, t, BitVec.ofNat 64 pa⟩

/-! ### Reads (R246, R247, R299) -/

/-- A job is charged for memory blocks read or written (R383). -/
def State.chargeBlock (s : State) (j pa off : Nat) : State := s.charge j (if pa < hallBase then off else 0x80) 64

/-- What a delivered block is taken as (R247): accepted, with its poison, or a mismatch. -/
def blockVerdict (b : Block) (pa : Nat) : Option Bool :=
  let e := blockCheck b.data pa
  if b.uncorr then none else if b.check = e then some false else if b.check = e ^^^ 0xFFFFFFFF#32 then some true else none

/-- A block is accepted by its transfer (R247). -/
def State.accept (s : State) (t sn tag q : Nat) (d : Line) (poison : Bool) : State :=
  s.onStall t sn fun st => st.acceptBlock sn t tag q d poison

/-- A mismatch (R247): a further read while fewer than two were made, else the block is poisoned. -/
def State.mismatch (s : State) (t sn tag q : Nat) (x : Transfer) (b : PBlock) (d : Line) : State :=
  let st := s.stall sn
  if b.rereads < 2 then
    let s := s.setStall sn (st.setTag tag { x with
      resent := true, blocks := lset x.blocks q { b with rereads := b.rereads + 1, snap := none } })
    let pa := s.framePa x.job b.va b.pa false
    let s := s.countHbm pa 0x50 1
    if x.resent then s else s.raise (s.memEv t 0x4101 0 sn x.job pa)
  else
    let pa := s.framePa x.job b.va b.pa false
    let s := (s.countHbm pa 0x68 1).accept t sn tag q d true
    s.raise (s.memEv t 0x4102 0 sn x.job pa)

/-- A block that passes is accepted, and counted on the stack of its address where it is poisoned and where a re-read
brought it. -/
def State.pass (s : State) (t sn tag q pa : Nat) (b : PBlock) (d : Line) (poison : Bool) : State :=
  let s := s.countHbm pa 0x60 (b2n poison)
  let s := s.countHbm pa 0x58 (b2n (b.rereads != 0))
  s.accept t sn tag q d poison

/-- A block that memory or the run-ahead buffer delivers to a stall; `none` stands for the block as it was stored. -/
def State.deliver (s : State) (t sn tag q : Nat) (x : Transfer) (b : PBlock) (blk : Option Block) : State :=
  let at_ := s.servedFrom x.job b.va b.pa
  let pa := at_.headD b.pa
  let s := if b.snap.isSome then s
    else (at_.foldl (fun s a => (s.countHbm a 0x40 1).chargeBlock x.job a 0x70) s).countHbm pa 0x80
      (b2n ((blk.map (·.corrected)).getD false))
  match blk with
  | none => let d := b.snap.getD (s.served x.job b.va b.pa); s.pass t sn tag q pa b d.1 d.2
  | some k =>
    if hallBase ≤ b.pa then
      let s := s.accept t sn tag q k.data k.uncorr
      if k.uncorr then s.raise (s.memEv t 0x4104 0 sn x.job b.pa) else s
    else match blockVerdict k pa with
      | some p => s.pass t sn tag q pa b k.data p
      | none => s.mismatch t sn tag q x b k.data

/-- Does a commit word of the transfer still hold the block back (R299)? -/
def State.holds (s : State) (x : Transfer) (b : PBlock) : Bool :=
  x.commit && (s.heldFor x.job b.va (((s.job x.job).map (·.prev)).getD 0)).isSome

/-- HBM_BLOCK_ARRIVAL (R247): block `q` of the transfer that holds a tag arrives, or the response is discarded (R259). -/
def execHbmBlockArrival (t sn tag q : Nat) (delivered : Option Block) (s : State) : Host.Outcome State Fault Refusal :=
  let s := s.on ((s.advance t).touch t sn)
  .next (s.on (match sget (s.stall sn).tags tag with
    | none => s
    | some x => match x.blocks[q]? with
      | none => s
      | some b =>
        if x.kind = .put || !b.requested || b.landed || s.holds x b then s else s.deliver t sn tag q x b delivered))

/-! ### Writes (R248, R249) -/

/-- A block of a PUT reaches memory; partly written blocks are read and merged (R249). -/
def State.writeBlock (s : State) (sn : Nat) (x : Transfer) (b : PBlock) : State :=
  let w := (s.stall sn).putData x b.va
  let s := (s.putServed x.job b.va b.pa w.1 w.2.1 w.2.2).chargeBlock x.job b.pa 0x78
  if w.1 = 2 ^ 512 - 1 || hallBase ≤ b.pa then s else s.chargeBlock x.job b.pa 0x70

/-- A transfer ends without finishing (R259). -/
def State.dropTag (s : State) (sn tag : Nat) : State :=
  let r := (s.stall sn).dropTransfer tag s.freeIx
  { s.setStall sn r.1 with freeIx := s.freeIx + r.2 }

/-- HBM_BLOCK_WRITE (R248): block `q` of a PUT, once its source words are read (R257), is written after `fails` failed tries,
or fails all eight. -/
def execHbmBlockWrite (t sn tag q fails : Nat) (s : State) : Host.Outcome State Fault Refusal :=
  let s := s.on ((s.advance t).touch t sn)
  .next (s.on (match sget (s.stall sn).tags tag with
    | none => s
    | some x => match x.blocks[q]? with
      | none => s
      | some b =>
        let pa := s.framePa x.job b.va b.pa false
        if x.kind ≠ .put || x.grad || !b.requested || b.landed || !x.sourced b.va then s
        else if 8 ≤ fails && decide (b.pa < hallBase) then
          let s := (s.writeFails pa 8).1.dropTag sn tag
          s.raise (s.memEv t 0x4103 1 sn x.job pa)
        else
          let s := (s.writeFails pa (min fails 7)).1.writeBlock sn x b
          s.onStall t sn fun st =>
            (st.setTag tag { x with blocks := lset x.blocks q { b with landed := true } }).requestMore sn t tag))

/-! ### Completion and the ends without it (R186, R254, R257, R259) -/

/-- PORTER_TRANSFER_COMPLETE (R257, R258). -/
def execPorterTransferComplete (t sn tag : Nat) (s : State) : Host.Outcome State Fault Refusal :=
  let s := s.on ((s.advance t).touch t sn)
  .next (s.on (match sget (s.stall sn).tags tag with
    | none => s
    | some x => s.onStall t sn fun st => st.porterDone sn t tag (s.ctx sn x.slot)))

/-- Start tick of the attempt that a job's step runs on a stall. -/
def State.attemptStart (s : State) (sn j : Nat) : Nat :=
  match s.job j with
  | some jb => ((jb.steps.find? fun x => x.n = (s.stall sn).stepOf j).map (·.start)).getD 0
  | none => 0

/-- Does an HBM or bridge event of the attempt name the transfer's path (R407)? -/
def State.pathNamed (s : State) (sn : Nat) (x : Transfer) : Bool :=
  let from' := s.attemptStart sn x.job
  let joins := x.blocks.flatMap fun b => blockPath (sn / 128) (s.blockPa sn x b)
  let lost := if x.grad then [] else x.blocks.map fun b => stackOf (s.framePa x.job b.va b.pa false)
  s.events.recs.any fun r =>
    decide (from' ≤ r.ev.tick) &&
      ((r.ev.code / 256 = 0x41 && lost.contains (stackOf r.ev.aux.toNat))
        || (r.ev.code / 256 = 0x34 && joins.contains (r.ev.aux.toNat % 256)))

/-- PORTER_TAG_TIMEOUT (R259, R407): 165,000 ticks after the issue of a transfer that no page fault stopped. -/
def execPorterTagTimeout (sn tag : Nat) (s : State) : Host.Outcome State Fault Refusal :=
  .next (s.on (match sget (s.stall sn).tags tag with
    | none => s
    | some x =>
      if x.faulted then s
      else
        let t := x.issue + 165000
        let s := s.on ((s.advance t).touch t sn)
        let named := s.pathNamed sn x
        let s := (s.dropTag sn tag).raise ((s.stall sn).ev sn t 0x4301 0 x.job (((x.blocks.head?).map (·.va)).getD 0))
        if named then s else s.strike sn 0x4301 (some x.job)))

/-- PAGE_FAULT_TAG_RELEASE (R254). -/
def execPageFaultTagRelease (t sn tag : Nat) (s : State) : Host.Outcome State Fault Refusal :=
  let s := s.on ((s.advance t).touch t sn)
  .next (s.on (match sget (s.stall sn).tags tag with
    | none => s
    | some x => if x.faulted && (x.inFlight = 0 || decide (x.issue + 165000 ≤ t)) then s.dropTag sn tag else s))

/-- PORTER_STARVE_TIMER (R186). -/
def execPorterStarveTimer (t sn tag : Nat) (s : State) : Host.Outcome State Fault Refusal :=
  .next (s.on ((s.advance t).onStall t sn fun st => st.starve sn t tag))

/-! ### Run-ahead (R260, R261) -/

/-- The job's oldest arrived block leaves a run-ahead buffer that holds more than its share. -/
def State.aheadEvict (s : State) (h j : Nat) : State :=
  let hb := s.hub h
  if (hb.ahead.countP fun a => a.job = j) ≤ s.aheadShare h j then s
  else match lfind (fun a : AheadBlk => a.job = j && a.arrived.isSome) hb.ahead 0 with
    | some (i, _) => (s.setHub h { hb with ahead := ldel hb.ahead i }).count (pageNo .hdie h) 0x68 1
    | none => s

/-- AHEAD_BLOCK_ARRIVAL (R261): a block in flight arrives as a snapshot of memory (R263). -/
def execAheadBlockArrival (t h j : Nat) (blk : AheadIn) (s : State) : Host.Outcome State Fault Refusal :=
  let s := s.advance t
  .next (s.on (match lfind (fun a : AheadBlk => a.job = j && a.pa = blk.pa && a.arrived.isNone) (s.hub h).ahead 0 with
    | none => s
    | some (i, a) =>
      let hb := s.hub h
      let d := s.served j a.va blk.pa
      let ps := s.servedFrom j a.va blk.pa
      let s := s.setHub h { hb with ahead := lset hb.ahead i { a with arrived := some d } }
      ((ps.foldl (fun s p => (s.countRead p).chargeBlock j p 0x70) s).countHbm (ps.headD blk.pa) 0x80
        (b2n blk.corrected)).aheadEvict h j))

end Sys2Proof.Machine
end

