-- ==== Sys2Proof/Machine/Bridge.lean ====
section
/-! DEFINITION. Receiving and replay on bridge channels (R224, R225), what a lost bridge ends (R259, R410), and their status (R228). Joins 0
to 11 are the hub bridges of C00 to C11, 12 to 20 the die bridges below C00, C01, C02, C04, C05, C06, C08, C09 and C10;
a directed channel is (join × 2 + direction) × 8 + channel. -/
namespace Sys2Proof.Machine

/-- Page and counter of replayed flits at the receiving die, where that is a compute die (R224, R228). -/
def retryCtr (c : Nat) : Option (Nat × Nat) :=
  let j := c / 16
  let d := c % 16 / 8
  let u := joinDie j
  if j < 12 then (if d = 1 then some (pageNo .cdie u, 0x50) else none)
  else if d = 0 then some (pageNo .cdie (u + 1), 0x40) else some (pageNo .cdie u, 0x48)

/-- The 16-bit link check over a flit and its sequence byte (R224). -/
def linkCheck (f : List Byte) (seq : Nat) : Nat := (check16 (f ++ leBytes 1 seq)).toNat

/-- What the sender puts on a channel next: a replayed flit, a flit handed over from a channel taken down, or `flit`; and
whether it is replayed (R224, R225). -/
def Channel.transmit (c : Channel) (flit : List Byte) : Channel × Bool :=
  let fresh (c : Channel) (f : List Byte) : Channel :=
    { c with txSeq := (c.txSeq + 1) % 256, buf := (c.buf ++ [(c.txSeq, f)]).drop (c.buf.length + 1 - 64) }
  match c.replay with
  | _ :: r => ({ c with replay := r }, true)
  | [] => match c.moved with
    | f :: r => (fresh { c with moved := r } f, true)
    | [] => (fresh c flit, false)

/-- BRIDGE_FLIT_RECEIVE (R224): a flit crosses its channel, or the live one that carries its
traffic (R225), and is checked as received. -/
def execBridgeFlitReceive (t c : Nat) (flit : List Byte) (rx : RxFlit) (s : State) : Host.Outcome State Fault Refusal :=
  let s := s.advance t
  let c := s.carrier c
  let ch := s.chan c
  .next (s.on (if !ch.live then s
    else
      let r := ch.transmit flit
      let ch := r.1
      let s := if r.2 then (match retryCtr c with | some q => s.count q.1 q.2 1 | none => s) else s
      let seq := rx.seq % 256
      if rx.check % 65536 = linkCheck rx.bytes seq && seq = ch.rxSeq then
        let fails := if ch.failSeq = seq then 0 else ch.fails
        s.setChan c { ch with rxSeq := (seq + 1) % 256, nak := false, fails := fails }
      else if ch.nak then s.setChan c ch
      else (s.setChan c { ch with nak := true }).emit (.bridgeNak t c ch.rxSeq)))

/-- Flits that a channel has sent and its receiver has not taken, with those still to be handed over. -/
def Channel.unsent (c : Channel) : List (List Byte) :=
  ((c.buf.filter fun q => (q.1 + 256 - c.rxSeq) % 256 < (c.txSeq + 256 - c.rxSeq) % 256).map (·.2)) ++ c.moved

/-- A channel of a bridge is taken down; its flits are replayed on the next live channel, whose output they occupy (R225,
R231). -/
def State.takeDown (s : State) (j i : Nat) : State :=
  let next := s.nextLive j i
  (List.range 2).foldl (fun s d =>
    let c := 16 * j + 8 * d + i
    let old := s.chan c
    let s := s.setChan c .empty
    match next with
    | some k =>
      let n := s.chan (16 * j + 8 * d + k)
      (s.setChan (16 * j + 8 * d + k) { n with moved := n.moved ++ old.unsent }).occupy (chanArb c) k
        (replayCycles c old.unsent.length)
    | none => s) s

/-- Transfers with traffic on a lost bridge are ended, and their steps aborted (R259). -/
def State.loseTransfers (s : State) (j : Nat) : State :=
  s.stalls.foldl (fun s q =>
    q.2.tags.foldl (fun s x =>
      if (s.joinsOf q.1 x.2).contains j then (s.dropTag q.1 x.1).abortSteps x.2.job 0x3402 else s) s) s

/-- Present stalls of the dies from `a` up to `b`. -/
def State.stallsOf (s : State) (a b : Nat) : List Nat :=
  (List.range (128 * b)).filter fun n => decide (128 * a ≤ n) && s.stallPresent n

/-- The stalls that a lost bridge fences (R410): the side of the break with fewer present stalls, the higher dies of a
tie, and the die of a hub bridge. -/
def State.brokenBy (s : State) (j : Nat) : List Nat :=
  let u := joinDie j
  let side (i : Nat) : List Nat :=
    let lo := s.stallsOf 0 (i + 1)
    let hi := s.stallsOf (i + 1) 12
    if lo.length < hi.length then lo else hi
  if 12 ≤ j then side u
  else
    let own := s.stallsOf u (u + 1)
    let more := if u = 3 || u = 7 then side u else if u = 4 || u = 8 then side (u - 1) else []
    own ++ more.filter fun n => !own.contains n

/-- A bridge is down (R225, R259, R410). -/
def State.bridgeDown (s : State) (j : Nat) : State :=
  let s := s.raise (s.mkEv 0x3402 1 none .cdie (joinDie j) 0 j)
  let s := s.loseTransfers j
  let s := s.raise (s.mkEv 0x6508 1 none .clerk 0 0 j)
  (s.brokenBy j).foldl (fun s n => s.fence n 0x6508) s

/-- CHANNEL_DOWN, and BRIDGE_DOWN where it was the last live channel (R225). -/
def State.channelDown (s : State) (j i : Nat) : State :=
  let s := s.takeDown j i
  let s := s.raise (s.mkEv 0x3401 1 none .cdie (joinDie j) 0 (j + 256 * i))
  if s.liveMask j = 0 then s.bridgeDown j else s

/-- BRIDGE_NAK_RECEIVE (R224, R225): go-back-N from the flit named; the sixteenth failed try of one flit takes the channel
down. -/
def execBridgeNakReceive (t c seq : Nat) (s : State) : Host.Outcome State Fault Refusal :=
  let s := s.advance t
  let ch := s.chan c
  .next (s.on (if !ch.live || !(ch.buf.any fun q => q.1 = seq) then s
    else
      let fails := if ch.failSeq = seq then ch.fails + 1 else 1
      let from' := (ch.buf.dropWhile fun q => q.1 != seq).map (·.1)
      let s := (s.setChan c { ch with replay := from', nak := false, failSeq := seq, fails := fails }).occupy (chanArb c) (c % 8)
        (replayCycles c from'.length)
      if fails < 16 then s else s.channelDown (c / 16) (c % 8)))

/-- BRIDGE_CHANNEL_RETRAIN (R225): a channel that is down returns to the live set. -/
def execBridgeChannelRetrain (t c : Nat) (s : State) : Host.Outcome State Fault Refusal :=
  let s := s.advance t
  let up (s : State) (d : Nat) : State :=
    let k := c / 16 * 16 + 8 * d + c % 8
    if (s.chan k).live then s else s.setChan k { Channel.empty with live := true }
  .next (s.on (if s.boot.inspected then up (up s 0) 1 else s))

end Sys2Proof.Machine
end

