-- ==== Sys2Proof/Machine/RegRead.lean ====
section
/-! DEFINITION. What a read of the register window returns (R12 to R15, R459 to R471 and the register tables of every
chapter): the stored fields, the fields that show the machine's state, and the latches of R15. -/
namespace Sys2Proof.Machine

/-- A mask with bit `i` set where `f i` holds, over `n` bits. -/
def maskOf (n : Nat) (f : Nat → Bool) : Nat := ((List.range n).map fun i => b2n (f i) * 2 ^ i).sum

/-- The low or high word of a 64-bit value at offset `o` of a register at `base`. -/
def halfOf (v base o : Nat) : Nat := if o = base then v % 2 ^ 32 else v / 2 ^ 32 % 2 ^ 32

/-- 32-bit word `i` of bytes. -/
def wordOf (l : List Byte) (i : Nat) : Nat := leAt l (4 * i) 4

/-! ### Presence and status (R461, R462) -/

/-- Is a page present (R461)? -/
def State.pagePresent (s : State) : PageTy → Nat → Bool
  | .stall, i => s.stallPresent i
  | .aisle, i => s.portPresent i
  | .arb, i => s.arbPresent i
  | _, _ => true

/-- Is a stack in service (R243)? -/
def State.stackUp (s : State) (m : Nat) : Bool := s.boot.inspected && !s.outStacks.contains m

/-- BLOCK_STATUS (R462): in_service and fenced (log entry 26). -/
def State.blockStatus (s : State) (p : PageTy) (i : Nat) : Nat :=
  let of (up out : Bool) : Nat := b2n up + 2 * b2n out
  match p with
  | .device => 1 | .policy => 1 | .fault => 1 | .clerk => 1 | .sched => 1 | .ledger => 1
  | .stall => of (s.boot.inspected && !(s.stall i).fenced) (s.stall i).fenced
  | .aisle => of (s.boot.inspected && (s.aisle i).state = 3) ((s.aisle i).state = 4 || (s.aisle i).state = 6)
  | .hbm => of (s.stackUp i) (s.outStacks.contains i)
  | .lemef =>
    let a := (s.half (2 * i)).state
    let b := (s.half (2 * i + 1)).state
    of (s.boot.inspected && (a = 2 || b = 2)) (a = 3 && b = 3)
  | _ => b2n s.boot.inspected

/-! ### The pages' own fields -/

/-- FAULT_N asserted: STOPPED or a thermal trip (R391, R473). -/
def State.faultN (s : State) : Bool := s.boot.dev = 3 || s.pins.trip

/-- Does a page hold a pending event that it alerts on (R462)? -/
def Page.alerts (pg : Page) (p : PageTy) (i : Nat) : Bool :=
  pg.pendingEv.toNat &&& (pg.word p i 0x01C).toNat != 0

/-- ALERT_N asserted (R462). -/
def State.alertN (s : State) : Bool :=
  (s.pages.any fun (q : Nat × Page) => match findPage allPageTys q.1 with
    | some (p, i) => q.2.alerts p i
    | none => false)
  || s.stalls.any fun (q : Nat × Stall) => q.2.page.alerts .stall q.1

/-- DEVICE page (R467). -/
def State.deviceWord (s : State) (o : Nat) : Nat :=
  if o = 0x100 then s.boot.dev + 4 * s.fuses.grade + 16 * (if s.boot.inspected then s.primary else 0) + 64 * s.bell.state
  else if o = 0x104 then 192 * s.rows + 2 ^ 16 * maskOf 12 s.portPresent
  else if o = 0x108 then maskOf 16 s.stackUp
  else if 0x200 ≤ o && o < 0x2C0 then maskOf 32 fun b => s.clerk.fences.contains ((o - 0x200) * 8 + b)
  else if 0x300 ≤ o && o < 0x3C0 then maskOf 32 fun b => !s.stallPresent ((o - 0x300) * 8 + b)
  else 0

/-- BELL page (R48). -/
def State.bellWord (s : State) (o : Nat) : Nat :=
  let b := s.bell
  if o = 0x100 || o = 0x104 then halfOf b.now 0x100 o
  else if o = 0x108 then b.state + 8 * b2n (bit (s.live .bell 0 0x110) 8) + 16 * b2n b.onBackup + 32 * b2n b.acqRefused
      + 2 ^ 8 * b.kApplied
  else if o = 0x118 then ((max (min b.lastErr 127) (-127)) % 256).toNat + 2 ^ 8 * min b.maxAbs 255
  else if o = 0x130 then b.kLocal + 2 ^ 8 * b.kSquare + 2 ^ 16 * b.kApplied
  else 0

/-- A 32-byte record's word. -/
def recWord (r : Option EvRec) (i : Nat) : Nat := match r with | some e => wordOf e.bytes i | none => 0

/-- FAULT page (R469). -/
def State.faultWord (s : State) (o : Nat) : Nat :=
  if 0x100 ≤ o && o < 0x120 then recWord s.events.last ((o - 0x100) / 4)
  else if 0x120 ≤ o && o < 0x140 then recWord s.events.fatal ((o - 0x120) / 4)
  else if o = 0x140 then b2n s.faultN + 2 * b2n s.alertN
  else 0

/-- POWER page (R490). -/
def State.powerWord (s : State) (o : Nat) : Nat :=
  if o = 0x108 then s.bell.kLocal + 2 ^ 6 * b2n (s.bell.kLocal != 0) + 2 ^ 7 * b2n s.power.critical
      + 2 ^ 8 * b2n s.pins.lastTrip
  else if o = 0x10C then min s.power.watts 8191 + 2 ^ 16 * min (s.power.tmax.getD 0) 255
  else 0

/-- SECURITY page (R457). -/
def State.securityWord (s : State) (o : Nat) : Nat :=
  let f := s.fuses
  if o = 0x100 || o = 0x104 then halfOf f.serial.toNat 0x100 o
  else if o = 0x108 || o = 0x10C then halfOf f.rollback 0x108 o
  else if o = 0x110 then f.grade
  else if o = 0x114 then match s.boot.image with | some m => m.version.toNat | none => 0
  else if o = 0x118 then match s.boot.image with | some m => m.svn % 128 | none => 0
  else if 0x140 ≤ o && o < 0x180 then wordOf f.keyHash ((o - 0x140) / 4)
  else if 0x180 ≤ o && o < 0x1C0 then match s.boot.image with | some m => wordOf m.digest ((o - 0x180) / 4) | none => 0
  else 0

/-- CLERK page (R471). -/
def State.clerkWord (s : State) (o : Nat) : Nat :=
  let c := s.clerk
  if o = 0x100 then ((List.range 4).map fun h => c.cores.getD h 0 % 8 * 16 ^ h).sum
  else if o = 0x104 then min c.restarts 255
  else if o = 0x108 || o = 0x10C then halfOf c.refresh 0x108 o
  else 0

/-- LEMEF page (R455, R456). -/
def State.lemefWord (s : State) (n o : Nat) : Nat :=
  if o = 0x100 then (s.half (2 * n)).state + 8 * (s.half (2 * n + 1)).state
  else if n = 0 && o = 0x13C then 2 * b2n (!s.clerk.taken.isEmpty)
  else if n = 0 && o = 0x150 then s.boot.phase + 2 ^ 8 * s.boot.reject
  else 0

/-- AISLE page (R362). -/
def State.aisleWord (s : State) (n o : Nat) : Nat :=
  let a := s.aisle n
  let c (i : Nat) : Nat := min (a.credits.getD i 0 + a.held i) 1023
  if o = 0x100 then a.state + 2 ^ 8 * a.lanes + 2 ^ 16 * a.peerPos + 2 ^ 22 * a.peerPort + 2 ^ 26 * b2n a.peerValid
  else if o = 0x108 then min a.latency 4095
  else if o = 0x114 then c 0 + 2 ^ 10 * c 1 + 2 ^ 20 * c 2
  else if o = 0x118 then c 3 + 2 ^ 10 * c 4
  else 0

/-- The commit unit that COMMIT_SEL selects on a hub (R309). -/
def State.selectedUnit (s : State) (h : Nat) : Option CommitUnit :=
  let w := s.live .hdie h 0x380
  (s.hub h).units.find? fun u => u.job = bits w 5 0 && u.num = bits w 17 8

/-- HDIE page (R269, R309, R363). -/
def State.hdieWord (s : State) (h o : Nat) : Nat :=
  if o = 0x350 then (s.hub h).dir.length
  else if o = 0x504 then match (s.job (bits (s.live .hdie h 0x500) 5 0)).bind (·.twin) with
    | some w => 1 + 2 * b2n s.pins.twin + 4 * b2n w.solo + 8 * b2n w.mismatch + 2 ^ 16 * (w.lastStep % 65536)
    | none => 2 * b2n s.pins.twin
  else match s.selectedUnit h with
    | none => 0
    | some u =>
      if o = 0x388 || o = 0x38C then halfOf u.resolved 0x388 o
      else if o = 0x390 || o = 0x394 then halfOf u.tick 0x390 o
      else if o = 0x398 then 1 + 2 * b2n u.pending.isSome + 4 * b2n u.discarded + 2 ^ 16 * (u.pending.getD 0 % 65536)
      else 0

/-- UPDATE page (R333). -/
def State.updateWord (s : State) (h o : Nat) : Nat :=
  let hb := s.hub h
  let x : SealSt := sgetD hb.seals (bits (s.live .update h 0x104) 5 0) ⟨[], 0, 0#64⟩
  if o = 0x100 then b2n (!hb.ingress.isEmpty || !hb.await.isEmpty) + 2 ^ 16 * min hb.ingressUsed 65535
  else if o = 0x108 || o = 0x10C then halfOf x.step 0x108 o
  else if o = 0x110 || o = 0x114 then halfOf x.value.toNat 0x110 o
  else if o = 0x118 || o = 0x11C then halfOf (((x.pend.head?).map (·.2)).getD 0#64).toNat 0x118 o
  else 0

/-- SCHED page (R334). -/
def State.schedWord (s : State) (o : Nat) : Nat :=
  let g := bits (s.live .sched 0 0x110) 5 0
  let cur := sget s.sched.cur g
  if o = 0x118 || o = 0x11C then halfOf (sgetD s.sched.steps g 0#64).toNat 0x118 o
  else match cur with
    | none => 0
    | some c => if o = 0x120 then c.eta.toNat else if o = 0x124 then c.c1.toNat else if o = 0x128 then c.c2.toNat else 0

/-- HBM page (R270): YT2-1152 has 24 Gb core dies. -/
def State.hbmWord (s : State) (m o : Nat) : Nat :=
  if o = 0x100 then b2n (s.stackUp m) + 2 * b2n (s.boot.inspected && s.fuses.grade = 2) else 0

/-- LEDGER page (R388). -/
def State.ledgerWord (s : State) (j o : Nat) : Nat :=
  let l := s.ledger j
  if o = 0x104 then l.state + 4 * b2n l.satRaised + 8 * b2n l.snapDone + 16 * b2n l.unrec
      + 32 * b2n (((s.job j).map (·.suspended)).getD false) + 64 * l.cls
  else if 0x140 ≤ o && o < 0x1C8 then halfOf (sgetD l.snaps (o / 8 * 8 - 0x100) 0#64).toNat (o / 8 * 8) o
  else if o = 0x118 || o = 0x11C then halfOf l.snapTick 0x118 o
  else if o = 0x120 || o = 0x124 then halfOf l.openTick 0x120 o
  else 0

/-- CDIE page (R228, R307). -/
def State.cdieWord (s : State) (c o : Nat) : Nat :=
  if o = 0x100 then
    (if c % 4 = 0 then 0 else s.liveMask (12 + (c - 1) / 4 * 3 + (c - 1) % 4))
      + 2 ^ 8 * (if c % 4 = 3 then 0 else s.liveMask (12 + c / 4 * 3 + c % 4)) + 2 ^ 16 * s.liveMask c
  else if o = 0x128 then
    let w := s.live .cdie c 0x124
    let g := (s.stall (128 * c + bits w 14 8)).ring (bits w 3 0)
    g.held + 2 ^ 16 * (g.heldStep % 65536)
  else 0

/-- ARB page (R240). -/
def State.arbWord (s : State) (a o : Nat) : Nat :=
  let w := s.live .arb a 0x14C
  let x := sgetD s.arbs (a * 128 + bits w 5 0 + (if a < 1536 then 64 * bits w 6 6 else 0)) .empty
  let r := bits w 12 8
  if o = 0x150 then
    (match x.hold with
      | some h => h.req + 2 ^ 5 + 2 ^ 6 * b2n h.rota + 2 ^ 7 * b2n h.locked
          + 2 ^ 8 * (if h.locked then min (h.cycles + 1) 64 else 0)
      | none => 0) + 2 ^ 16 * arbPosition a (s.arbNow a)
  else if o = 0x154 then min (sgetD x.off r 0 - s.arbNow a) 2047 + 2 ^ 16 * min (sgetD x.losses r 0) 15
  else 0

/-- REPAIR_STATUS (R200). -/
def Stall.repairWord (st : Stall) : Nat :=
  let n := (st.banks.map fun (q : Nat × Bank) => q.2.spares.length).sum
  let m := st.banks.foldl (fun (a : Nat × Nat) (q : Nat × Bank) => if a.2 < q.2.spares.length then (q.1, q.2.spares.length) else a) (0, 0)
  n + 2 ^ 10 * m.2 + 2 ^ 16 * m.1 + 2 ^ 23 * b2n st.exhausted

/-- A bank waking for, or undergoing, a scrub (R200). -/
def Bank.scrubbing (b : Bank) : Bool := b.scrubEnd.isSome || (b.wakeEnd.isSome && b.owner = 0#8)

/-- MX_STATUS (R91). -/
def Stall.mxWord (st : Stall) (now : Nat) : Nat :=
  let a := st.array
  let busy := match a.pass with | some p => decide (p.start ≤ now) && decide (now < p.free) | none => false
  let of (x : Option StatSet) : Nat × Bool := match x with | some v => (v.job, true) | none => (0, false)
  st.satTile % 32 + 2 ^ 5 * b2n st.satSeen + 2 ^ 6 * b2n busy + 2 ^ 7 * b2n a.shadow.isSome
    + 2 ^ 8 * (of a.active).1 + 2 ^ 14 * b2n (of a.active).2 + 2 ^ 16 * (of a.shadow).1 + 2 ^ 22 * b2n (of a.shadow).2

/-- CHIT_VAL (R227). -/
def Stall.chitWord (st : Stall) : Nat :=
  let w := st.reg 0x11C
  match (st.slotSt (bits w 2 0)).accounts[bits w 5 3]? with
  | some a => a.granter + 2 ^ 11 + 2 ^ 12 * a.ring + 2 ^ 16 * min a.count 8191 + 2 ^ 29 * a.k
  | none => 0

/-- The engine fault registers (R134). -/
def FaultRec.regWord (f : FaultRec) (o : Nat) : Nat :=
  if o = 0x680 then f.code + 2 ^ 16 * f.engine + 2 ^ 18 * f.job + 2 ^ 24 * b2n f.valid
  else if o = 0x684 then f.store + 2 ^ 4 * f.slot
  else if o = 0x688 || o = 0x68C then halfOf f.tick 0x688 o
  else if o = 0x690 || o = 0x694 then halfOf f.stamp 0x690 o
  else if o = 0x698 then f.word % 2 ^ 32
  else if o = 0x69C then f.aux.toNat
  else 0

/-- Flags and tallies as the registers show them in tick `now`: their values at the end of the tick before (R120, R134). -/
def Stall.shownFlags (st : Stall) (now : Nat) : W32 × List (Nat × Nat) :=
  match st.seen with
  | some (t, f, l) => if t = now then (f, l) else (st.flags, st.tallies)
  | none => (st.flags, st.tallies)

/-- STALL page (R91, R108, R134, R200, R227, R267). -/
def Stall.pageWord (st : Stall) (now o : Nat) : Nat :=
  if o = 0x100 then st.mxWord now
  else if o = 0x110 then st.checkVal.toNat
  else if o = 0x114 || o = 0x118 then halfOf st.wrapped.toNat 0x114 o
  else if 0x1F0 ≤ o && o < 0x200 then maskOf 32 fun b => (st.bank ((o - 0x1F0) * 8 + b)).awake
  else if 0x200 ≤ o && o < 0x300 then (sgetD st.tshown (256 + (o - 0x200) / 4 % 32 + 128 * ((o - 0x200) / 128)) 0#32).toNat
  else if 0x480 ≤ o && o < 0x580 then
    halfOf (((st.slotSt ((o - 0x480) / 32)).q.get ([Eng.mx, .vx, .pt, .ex].getD ((o - 0x480) / 8 % 4) .mx)).base) (o / 8 * 8) o
  else if o = 0x58C then maskOf 8 (fun k => (st.slotSt k).running) + 2 ^ 8 * maskOf 8 (fun k => (st.slotSt k).refused)
      + 2 ^ 16 * maskOf 8 fun k => (st.slotSt k).draining
  else if o = 0x590 then (st.shownFlags now).1.toNat
  else if o = 0x594 then maskOf 8 fun i => (sget st.tags i).isSome
  else if 0x5A0 ≤ o && o < 0x5B0 then maskOf 32 fun b => (st.bank ((o - 0x5A0) * 8 + b)).scrubbing
  else if 0x5B0 ≤ o && o < 0x5F0 then
    let g := st.ring ((o - 0x5B0) / 4)
    g.head % 65536 + 2 ^ 16 * (g.tail % 65536)
  else if o = 0x5F4 then st.repairWord
  else if o = 0x5F8 then maskOf 16 st.ringValid
  else if o = 0x5FC then st.chitWord
  else if 0x600 ≤ o && o < 0x680 then
    let l := (st.shownFlags now).2
    sgetD l ((o - 0x600) / 2) 0 + 2 ^ 16 * sgetD l ((o - 0x600) / 2 + 1) 0
  else if 0x680 ≤ o && o < 0x6A0 then st.fault.regWord o
  else 0

/-- The fields of a block register that show the machine's state. -/
def State.roWord (s : State) (p : PageTy) (i o : Nat) : Nat :=
  match p with
  | .device => s.deviceWord o
  | .bell => s.bellWord o
  | .policy => if o = 0x10C then s.clerk.kFloor % 64 + 2 ^ 6 * b2n s.clerk.kHeld else 0
  | .fault => s.faultWord o
  | .trace => 0
  | .power => s.powerWord o
  | .security => s.securityWord o
  | .clerk => s.clerkWord o
  | .lemef => s.lemefWord i o
  | .aisle => s.aisleWord i o
  | .hdie => s.hdieWord i o
  | .update => s.updateWord i o
  | .sched => s.schedWord o
  | .hbm => s.hbmWord i o
  | .ledger => s.ledgerWord i o
  | .cdie => s.cdieWord i o
  | .arb => s.arbWord i o
  | .stall => (s.stall i).pageWord s.bell.now o

/-- Registers whose RW fields are kept elsewhere in the machine. -/
def keptElsewhere (p : PageTy) (o : Nat) : Bool :=
  match p with
  | .stall => o = 0x110 || (decide (0x5B0 ≤ o) && decide (o < 0x5F0))
  | .sched => o = 0x118 || o = 0x11C
  | _ => false

/-- The common registers (R462). -/
def State.commonWord (s : State) (p : PageTy) (i o : Nat) : Nat :=
  let pg := s.page (pageNo p i)
  if o = 0x000 then (pageId p i).toNat
  else if o = 0x004 then 0x100
  else if o = 0x008 then s.blockStatus p i
  else if o = 0x014 then b2n pg.commit + 2 * b2n pg.dirty
  else if o = 0x018 then pg.pendingEv.toNat
  else if o = 0x01C then (pg.word p i o).toNat
  else if o = 0x020 then pg.sat.toNat
  else 0

/-- A counter that grows with time is brought up to now before it is read (R201). -/
def State.accrueAt (s : State) (p : PageTy) (i : Nat) : State :=
  match p with
  | .stall => let s := s.touch s.bell.now i; s.setStall i ((s.stall i).accrue s.bell.now)
  | _ => s

/-- The live value of the word at an aligned address (R12, R13, R459, R461, R463). -/
def State.liveWord (s : State) (addr : Nat) : W32 :=
  match pageOf addr with
  | none => 0#32
  | some (p, i) =>
    let o := addr % 0x1000
    let pg := s.page (pageNo p i)
    if !s.pagePresent p i then 0xFFFFFFFF#32
    else if o < 0x40 then BitVec.ofNat 32 (s.commonWord p i o)
    else if 0x800 ≤ o then s.shadowReg p i (o - 0x800)
    else if p.counters.contains (o / 8 * 8) then BitVec.ofNat 32 (halfOf (pg.counter (o / 8 * 8)).toNat (o / 8 * 8) o)
    else
      let stored : W32 := match p.row i o with
        | some r => if keptElsewhere p o then 0#32 else s.regWord p i o &&& BitVec.ofNat 32 (r.rw ||| r.rws)
        | none => 0#32
      stored ||| BitVec.ofNat 32 (s.roWord p i o)

/-! ### Latches (R15, R469) and fields cleared by a read (R12) -/

/-- Words that a read of the low word at `addr` latches: the high word, or seven words of an event record. -/
def latchCount (addr : Nat) : Nat :=
  match pageOf addr with
  | none => 0
  | some (p, i) =>
    let o := addr % 0x1000
    if p = .fault && (o = 0x100 || o = 0x120) then 7
    else if p.counters.contains o || (p.wide i).contains o then 1 else 0

/-- The value an agent's latch gives a word, if it holds it. -/
def State.latched (s : State) (agent addr : Nat) : Option W32 :=
  match sget s.latches agent with
  | some (low, ws) => if low < addr then ws[(addr - low) / 4 - 1]? else none
  | none => none

/-- What a read of a word does beside answering it: it latches, and clears RC fields. -/
def State.readEffect (s : State) (agent addr : Nat) : State :=
  let n := latchCount addr
  let s := if n = 0 then s
    else { s with latches := sset s.latches agent (addr, (List.range n).map fun i => s.liveWord (addr + 4 * (i + 1))) }
  if addr = 0x1118 then { s with bell := { s.bell with maxAbs := 0 } } else s

/-- A 4-byte read by an agent: the value, and the state after it. -/
def State.readWord (s : State) (agent addr : Nat) : W32 × State :=
  let s := match pageOf addr with | some (p, i) => s.accrueAt p i | none => s
  ((s.latched agent addr).getD (s.liveWord addr), s.readEffect agent addr)

/-- The answer of a 4-byte read leaves for its agent. -/
def State.answerRead (s : State) (agent addr : Nat) : State :=
  let r := s.readWord agent addr
  r.2.emit (.read s.bell.now agent addr (r.1.setWidth 64))

/-- LOW_WORD_READ (R15): a 4-byte read of the low word of a 64-bit register latches its high word for the agent. -/
def execLowWordRead (t agent addr : Nat) (s : State) : Host.Outcome State Fault Refusal :=
  .next (s.on ((s.advance t).answerRead agent addr))

/-- RC_FIELD_READ (R12, R466): a read of a register with an RC field answers it and clears the field. -/
def execRcFieldRead (t agent addr : Nat) (s : State) : Host.Outcome State Fault Refusal :=
  .next (s.on ((s.advance t).answerRead agent addr))

end Sys2Proof.Machine
end

