-- ==== Sys2Proof/Machine/Bell.lean ====
section
/-! DEFINITION. The bell (R26 to R28, R38 to R47), bell marks and mask reports (R345 to R347), and the power controller
(R44 to R46, R479, R489). -/
namespace Sys2Proof.Machine

/-! ### Configuration in force -/

/-- This device is the bell master. -/
def State.isMaster (s : State) : Bool := bit (s.live .bell 0 0x110) 8

/-- SQUARE mask scope (R46). -/
def State.squareScope (s : State) : Bool := bit (s.live .bell 0 0x110) 9

/-- A source field: none, the pin (0) or an aisle port (port + 1); an absent port is none (R40). -/
def State.sourceOf (s : State) (v : Nat) : Option Nat :=
  if v = 1 then some 0 else if 2 ≤ v && v ≤ 13 && s.portPresent (v - 2) then some (v - 1) else none

/-- The pulse source in use (R39, R40). -/
def State.source (s : State) : Option Nat :=
  let w := s.live .bell 0 0x110
  s.sourceOf (if s.bell.onBackup then bits w 7 4 else bits w 3 0)

/-- Does a port carry marks: it is UP and no twin port (R345, R356)? -/
def State.carriesMarks (s : State) (p : Nat) : Bool := s.portUp p && !s.twinPort p

/-- Port of the primary source, if it is a port that is UP (R347). -/
def State.primaryPort (s : State) : Option Nat :=
  match s.sourceOf (bits (s.live .bell 0 0x110) 3 0) with
  | some (p + 1) => if s.carriesMarks p then some p else none
  | _ => none

/-- Ports enabled for marks (R345). -/
def State.markPorts (s : State) : List Nat :=
  (List.range 12).filter fun p => s.carriesMarks p && bit (s.live .aisle p 0x104) 1

/-- SYNC_ERROR.last_err for an error: two's complement, saturated at ±127 (R48). -/
def errByte (e : Int) : Nat := ((max (min e 127) (-127)) % 256).toNat

/-! ### Marks (R346) -/

/-- A MARK flit on a port. -/
def State.sendMark (s : State) (t p subtype epoch kLocal kSquare rep : Nat) : State :=
  let m := s.isMaster
  let w := epoch % 2 ^ 44 + 2 ^ 44 * subtype + 2 ^ 48 * (if m then 0 else s.bell.depth % 8) + 2 ^ 52 * s.pins.pos.toNat
    + 2 ^ 58 * (if m then s.pins.pos.toNat else s.bell.masterPos % 64)
  (s.putFlit t p (.plain 5 (leBytes 8 w ++ leBytes 4 (kLocal % 64 + 2 ^ 8 * (kSquare % 64) + 2 ^ 16 * (rep % 64))))).count
    (pageNo .aisle p) 0x78 1

/-- The fields of a mark's words: epoch, depth, source and master positions. -/
def markOf (w : W64) : Nat × Nat × Nat × Nat := (bits w.toNat 43 0, bits w.toNat 50 48, bits w.toNat 57 52, bits w.toNat 63 58)

/-! ### k in force (R44 to R46) -/

/-- k_applied takes a value; POWER_CAP_ACTIVE where it leaves 0 (R44). -/
def State.setK (s : State) (k : Nat) : State :=
  let old := s.bell.kApplied
  let s := { s with bell := { s.bell with kApplied := k } }
  if old = 0 && k != 0 then s.raise (s.mkEv 0x9101 0 none .power 0 0 k) else s

/-- A KDOWN's value comes into force at the sync boundary it names (R46, R347). -/
def State.takeSquare (s : State) (b : Nat) : State :=
  match s.bell.kDown with
  | some (e, k) => if e * 2 ^ 20 ≤ b then { s with bell := { s.bell with kSquare := k, kDown := none } } else s
  | none => s

/-- k_applied at round boundary `b`: at a frame boundary whose update is still to come, LOCAL scope takes k_local; at a
sync boundary SQUARE scope takes k_square (R46). -/
def State.applyK (s : State) (b : Nat) : State :=
  let s := if b % 2 ^ 20 = 0 then s.takeSquare b else s
  if s.squareScope then (if b % 2 ^ 20 = 0 then s.setK s.bell.kSquare else s)
  else if s.bell.nextFrame = b then s.setK s.bell.kLocal else s

/-! ### The power controller (R479, R489, R490) -/

/-- Largest k the power policy allows: the bound of R479. -/
def State.kBound (s : State) (junction : Nat) : Nat :=
  if 105 < junction then 56 else max (min (bits (s.live .policy 0 0x104) 5 0) 56) s.clerk.kFloor

/-- Energy of a frame joins the rail counters, in whole microjoules (R490). -/
def State.railEnergy (s : State) (l : List Nat) : State :=
  (List.range 7).foldl (fun s i =>
    let x := s.power.rails.getD i 0 + l.getD i 0
    ({ s with power := { s.power with rails := lset s.power.rails i (x % 1000000) } }).count (pageNo .power 0) (0x40 + 8 * i)
      (x / 1000000)) s

/-- k_local by the rule of R479, from the mean power and the limit on one scale. -/
def nextK (k mean limit temp throttle bound : Nat) (hot : Bool) : Nat :=
  let above := decide (limit < mean) || decide (throttle < temp) || hot
  let k := if above then min (k + 4) bound
    else if decide (mean * 100 < 95 * limit) && decide (temp + 3 < throttle) then k - 1 else k
  min k bound

/-- Whole frames in 2^n ms (log entry 78). -/
def framesIn (n : Nat) : Nat := 2 ^ n * 3300000 / 262144

/-- The energy of the last frames that lie in 2^n ms, on the scale of `frameLimit`: 33 times its picojoules. -/
def Power.windowEnergy (p : Power) (n : Nat) : Nat := 33 * (p.frames.take (framesIn n)).sum

/-- The energy of those frames at `w` watts, on the same scale: a watt is 10,000 / 33 pJ a tick. -/
def Power.frameLimit (p : Power) (n w : Nat) : Nat := w * 10000 * 262144 * (p.frames.take (framesIn n)).length

/-- Mean power over the last millisecond in W. -/
def Power.lastMs (p : Power) : Nat := p.windowEnergy 0 / (10000 * 262144 * max 1 (p.frames.take (framesIn 0)).length)

/-- The energy of a frame joins what is measured: 128 ms of frames are kept, and the energy since the last reconciliation is
without what that one took of this frame (R384). -/
def Power.measure (p : Power) (pj : Nat) : Power :=
  { p with frames := (pj :: p.frames).take (framesIn 7), energy := p.energy + (pj - p.taken), taken := 0 }

/-- Limit in W and throttle threshold in degrees, as applied (R490). -/
def State.powerLimits (s : State) : Nat × Nat :=
  (min (max (bits (s.live .power 0 0x100) 12 0) 1000) 4000, min (max (bits (s.live .power 0 0x104) 15 8) 85) 105)

/-- What the power controller remembers of a frame whose energy has been measured, with k_local `k`, its bound, and whether P
exceeded the limit (R489). -/
def Power.frame (p : Power) (m : PowerMeas) (above : Bool) (thr k bound : Nat) : Power :=
  { p with
    watts := p.lastMs, tmax := some m.junction, dies := m.dies
    capRun := if above && decide (k = bound) then p.capRun + 1 else 0
    critical := decide (105 < m.junction)
    throttled := decide (thr < m.junction) || decide (90 < m.stack) || (p.throttled && !decide (m.junction + 3 < thr)) }

/-- The events of a frame, from what the controller remembered before it (R489). -/
def State.powerEvents (s : State) (old : Power) (m : PowerMeas) : State :=
  let s := if s.power.capRun = 10 then s.raise (s.mkEv 0x9103 1 none .power 0 0 s.power.watts) else s
  let s := if s.power.throttled && !old.throttled then s.raise (s.mkEv 0x9201 0 none .power 0 0 m.junction) else s
  if s.power.critical && !old.critical then s.raise (s.mkEv 0x9202 1 none .power 0 0 m.junction) else s

/-- What a frame leaves in the power controller, and the next k_local (R479): P is the mean over the frames of the last
2^window_log2 ms. -/
def State.nextPower (s : State) (m : PowerMeas) : Power × Nat :=
  let lim := s.powerLimits
  let bound := s.kBound m.junction
  let p := s.power.measure m.rails.sum
  let win := bits (s.live .power 0 0x104) 2 0
  let mean := p.windowEnergy win
  let limit := p.frameLimit win lim.1
  let k := nextK s.bell.kLocal mean limit m.junction lim.2 bound (decide (90 < m.stack))
  (p.frame m (decide (limit < mean)) lim.2 k bound, k)

/-- The power controller's work at the frame boundary `f` (R46, R479). -/
def State.powerFrame (s : State) (f : Nat) (m : PowerMeas) : State :=
  let s := (s.advance f).applyK f
  let r := s.nextPower m
  let old := s.power
  let s := { s with power := r.1, bell := { s.bell with nextFrame := f + 262144, kLocal := r.2 } }.railEnergy m.rails
  (if r.2 = 0 then s else s.count (pageNo .power 0) 0x78 1).powerEvents old m

/-- POWER_FRAME_UPDATE (R46, R479, R489). -/
def execPowerFrameUpdate (m : PowerMeas) (s : State) : Host.Outcome State Fault Refusal :=
  .next (s.on (if s.clocked then s.powerFrame s.bell.nextFrame m else s))

/-! ### Starting, pulses and marks -/

/-- The boundaries to come after the bell takes a value. -/
def Bell.reboundary (b : Bell) : Bell :=
  { b with
    nextRound := (b.now / 4096 + 1) * 4096, nextFrame := (b.now / 262144 + 1) * 262144
    nextSync := (b.now / 2 ^ 20 + 1) * 2 ^ 20, nextMid := (b.now + 2 ^ 19) / 2 ^ 20 * 2 ^ 20 + 2 ^ 19
    expected := (b.now / 2 ^ 20 + 1) * 2 ^ 20 }

/-- PLL_LOCK (R26, R43): the bell starts, and with it the LemefLink half-ports train (R448, log entry 74). -/
def execPllLock (s : State) : Host.Outcome State Fault Refusal :=
  .next (if s.bell.state != 0 || !(s.pins.vio && s.pins.pwrGood && s.pins.resetN) || s.pins.trip then s
    else (List.range 4).foldl (fun s h => s.setHalf h { s.half h with state := 1 })
      { s with bell := Bell.reboundary { s.bell with state := 1, now := 0 } })

/-- SYNC_PERIOD_BOUNDARY (R38, R345): the pulse, the TIME marks and the trace's bell record. -/
def execSyncPeriodBoundary (s : State) : Host.Outcome State Fault Refusal :=
  .next (s.on (if !s.clocked then s
    else
      let b := s.bell.nextSync
      let s := (s.advance b).applyK b
      let s := { s with bell := { s.bell with nextSync := b + 2 ^ 20 } }
      let square := s.bell.state = 2
      let s := if s.isMaster || (square && bit (s.live .bell 0 0x110) 10) then s.emit (.pulse b) else s
      let k := match s.bell.kDown with | some (_, k) => k | none => s.bell.kSquare
      let s := if s.isMaster || square then s.markPorts.foldl (fun s p => s.sendMark b p 0 (b / 2 ^ 20) 0 k 0) s else s
      if bit (s.live .trace 0 0x104) 17 then
        s.traceRec 2 (leBytes 8 b ++ leBytes 1 s.bell.state ++ leBytes 1 (errByte s.bell.lastErr) ++ leBytes 1 s.bell.kApplied)
      else s))

/-- Every open job with pitches on other devices fails with a bell event's code (R39, R41). -/
def State.failSpanning (s : State) (code : Nat) : State :=
  s.openJobs.foldl (fun s j => if ((s.job j).map Job.spans).getD false then s.failJob j code else s) s

/-- The error of a pulse at compensated tick `tp`: its distance from a multiple of 2^20, signed (R39). -/
def pulseErr (tp : Int) : Int := (tp + 2 ^ 19) % 2 ^ 20 - 2 ^ 19

/-- A pending acquisition completes (R42): the bell takes `value` as its count at compensated tick `tp`. It ends a use of the
backup source, and acts in HOLDOVER as in any state (DESIGN CHOICE, log entry 58). -/
def State.acquireBell (s : State) (tp : Int) (value : Nat) : State :=
  let gone := ((s.bell.now : Int) - tp).toNat
  let s := { s with bell := Bell.reboundary { s.bell with
    now := (value + gone) % 2 ^ 64, state := 2, acqPending := false, missed := 0, onBackup := false } }
  let next := (s.bell.now / 3300000 + 1) * 3300000
  let s := { s with power := { s.power with nextRec := next, nextBeat := next } }
  let s := s.raise (s.mkEv 0xA204 0 none .bell 0 0 0)
  match s.clerk.acquiring with
  | some (seq, _) => { s with clerk := { s.clerk with acquiring := none } }.finish seq 0 0 0 0 0 none
  | none => s

/-- A pulse is checked (R39); `wrong` marks a TIME mark of another epoch (R345). SYNC_ERROR takes e of every checked pulse
(R48; beside R39's table this is the model's choice, log entry 57). -/
def State.checkPulse (s : State) (tp : Int) (wrong : Bool) : State :=
  let e := pulseErr tp
  let n := e.natAbs
  let s := s.count (pageNo .bell 0) 0x40 1
  let s := { s with bell := { s.bell with
    lastErr := e, maxAbs := max s.bell.maxAbs n, missed := 0
    expected := ((tp + 2 ^ 19) / 2 ^ 20 * 2 ^ 20 + 2 ^ 20).toNat } }
  if 8 < n || wrong then
    ({ s with bell := { s.bell with state := 3 } }.raise (s.mkEv 0xA202 1 none .bell 0 0 (errByte e))).failSpanning 0xA202
  else if 2 ≤ n then s.count (pageNo .bell 0) 0x50 1 else s

/-- An acquisition is refused while a job is open (R42). -/
def State.refuseAcquire (s : State) : State :=
  { s with bell := { s.bell with acqRefused := true } }.raise (s.mkEv 0xA205 0 none .bell 0 0 0)

/-- A compensated pulse (R39, R42): it completes a pending acquisition with `value`, which a job opened since refuses, and is
checked in state SQUARE. -/
def State.takePulse (s : State) (tp : Int) (value : Nat) (wrong : Bool) : State :=
  if s.bell.acqPending && s.openJobs.isEmpty then s.acquireBell tp value
  else
    let s := if s.bell.acqPending then { s with bell := { s.bell with acqPending := false } }.refuseAcquire else s
    if s.bell.state = 2 then s.checkPulse tp wrong else s

/-- BELLSYNC_PULSE_CHECK (R39, R42): a pulse on BELLSYNC_IN, the source in use, compensated by SYNC_DELAY. In state SQUARE an edge
outside the window of R40 is ignored (R483; log entry 58). -/
def execBellsyncPulseCheck (t : Nat) (s : State) : Host.Outcome State Fault Refusal :=
  let s := s.advance t
  let tp : Int := (t : Int) - bits (s.live .bell 0 0x114) 11 0
  .next (s.on (if !s.clocked || s.source != some 0 || (s.bell.state = 2 && decide (64 < (pulseErr tp).natAbs)) then s
    else s.takePulse tp
      (s.live .bell 0 0x120 / 2 ^ 20 * 2 ^ 20 + 2 ^ 32 * s.live .bell 0 0x124) false))

/-- TIME_MARK_RECEIVE (R345, R346): a TIME mark whose last byte arrives at `t`. -/
def execTimeMarkReceive (t p : Nat) (w0 : W64) (_w1 : W32) (s : State) : Host.Outcome State Fault Refusal :=
  let s := s.advance t
  let m := markOf w0
  .next (s.on (if !s.clocked || !s.carriesMarks p then s
    else
      let s := s.count (pageNo .aisle p) 0x80 1
      if m.2.1 = 7 then s
      else
        let s := if s.sourceOf (bits (s.live .bell 0 0x110) 3 0) = some (p + 1) then
            { s with bell := { s.bell with depth := m.2.1 + 1, masterPos := m.2.2.2 } } else s
        if s.source != some (p + 1) then s
        else
          let tp : Int := (t : Int) - (s.aisle p).latency
          s.takePulse tp (m.1 * 2 ^ 20) (decide (((tp + 2 ^ 19) / 2 ^ 20) % 2 ^ 44 ≠ (m.1 : Int)))))

/-- SYNC_WINDOW_EXPIRY (R40): no pulse came within 64 ticks of its expected tick, counted on the compensated pulse; a source
of None misses none, and the backup stays in use until an acquisition (DESIGN CHOICE, log entry 58). -/
def execSyncWindowExpiry (s : State) : Host.Outcome State Fault Refusal :=
  .next (s.on (if !s.clocked || s.bell.state != 2 || s.source.isNone then s
    else
      let e := s.bell.expected
      let s := s.advance (e + 65)
      let n := s.bell.missed + 1
      let s := { s with bell := { s.bell with expected := e + 2 ^ 20, missed := if n = 3 then 0 else n } }
      let s := s.count (pageNo .bell 0) 0x48 1
      if n != 3 then s
      else
        let s := s.raise (s.mkEv 0xA201 1 none .bell 0 0 0)
        if s.bell.onBackup then s
        else { s with bell := { s.bell with onBackup := true } }.raise (s.mkEv 0xA203 0 none .bell 0 0 0)))

/-- BELLREF_LOSS (R41): no edge of BELLREF for 64 ticks. -/
def execBellrefLoss (t : Nat) (s : State) : Host.Outcome State Fault Refusal :=
  let s := s.advance t
  .next (s.on (if !s.clocked || s.bell.state = 4 then s
    else
      let s := { s with bell := { s.bell with state := 4 } }
      (s.raise (s.mkEv 0xA101 1 none .bell 0 0 0)).failSpanning 0xA101))

/-- Does the device belong to a square: it is the bell master or has a primary source (R41)? -/
def State.inSquare (s : State) : Bool := s.isMaster || (s.sourceOf (bits (s.live .bell 0 0x110) 3 0)).isSome

/-- Bell state once SYNC_CONFIG has changed (R43): a locked device that is in no square is LOCAL, and one that is put in a
square and not yet acquired UNSYNCED. -/
def State.squareState (s : State) : State :=
  if s.inSquare then (if s.bell.state = 1 then { s with bell := { s.bell with state := 3 } } else s)
  else if s.bell.state = 2 || s.bell.state = 3 then { s with bell := { s.bell with state := 1 } }
  else s

/-- PLL_RELOCK (R41): BELLREF has been stable for 1 ms. -/
def execPllRelock (t : Nat) (s : State) : Host.Outcome State Fault Refusal :=
  let s := s.advance t
  .next (s.on (if s.bell.state != 4 then s else { s with bell := { s.bell with state := if s.inSquare then 3 else 1 } }))

/-- A write of ACQUIRE (R42): refused while a job is open. -/
def State.acquire (s : State) (v : W32) : State :=
  if !v.getLsbD 0 then s
  else if s.openJobs.isEmpty then { s with bell := { s.bell with acqPending := true, acqRefused := false } }
  else s.refuseAcquire

/-- ACQUIRE (R42): a write of ACQUIRE by the Clerk, which state CLOSED refuses (R447). -/
def execAcquire (t : Nat) (v : W32) (s : State) : Host.Outcome State Fault Refusal :=
  let s := s.advance t
  .next (s.on (if s.boot.dev = 0 then s else s.acquire v))

/-! ### Mask reports (R347) -/

/-- KUP_REPORT (R347): k_local has changed, or the bell reads 0x4_0000 in its sync period. -/
def execKupReport (t : Nat) (s : State) : Host.Outcome State Fault Refusal :=
  let s := s.advance t
  .next (s.on (if !s.clocked || !s.squareScope || s.isMaster || (s.bell.kLocal = s.bell.kSent && t % 2 ^ 20 != 0x40000) then s
    else match s.primaryPort with
      | none => s
      | some p =>
        let s := { s with bell := { s.bell with kSent := s.bell.kLocal } }
        s.sendMark t p 1 0 s.bell.kLocal 0 s.pins.pos.toNat))

/-- KUP_RECEIVE (R347): relayed on the primary source port, or recorded by the bell master. -/
def execKupReceive (t p : Nat) (_w0 : W64) (w1 : W32) (s : State) : Host.Outcome State Fault Refusal :=
  let s := s.advance t
  let k := bits w1.toNat 5 0
  let rep := bits w1.toNat 21 16
  .next (s.on (if !s.clocked || !s.carriesMarks p then s
    else
      let s := s.count (pageNo .aisle p) 0x80 1
      if s.isMaster then { s with bell := { s.bell with kTable := sset s.bell.kTable rep k } }
      else match s.primaryPort with
        | none => s
        | some q => s.sendMark t q 1 0 k 0 rep))

/-- KMASTER_INTAKE (R347): at the midpoint of a sync period the bell master takes in the reports. -/
def execKmasterIntake (s : State) : Host.Outcome State Fault Refusal :=
  .next (s.on (if !s.clocked then s
    else
      let m := s.bell.nextMid
      let s := s.advance m
      let s := { s with bell := { s.bell with nextMid := m + 2 ^ 20 } }
      if !s.isMaster || !s.squareScope then s
      else
        let k := s.bell.kTable.foldl (fun a (q : Nat × Nat) => max a q.2) s.bell.kLocal
        if k = s.bell.kSquare then s
        else
          let e := m / 2 ^ 20 + 1
          let s := { s with bell := { s.bell with kDown := some (e, k) } }
          s.markPorts.foldl (fun s p => s.sendMark m p 2 e 0 k 0) s))

/-- KDOWN_RECEIVE (R347): relayed on the mark ports, and k_square is scheduled. -/
def execKdownReceive (t p : Nat) (w0 : W64) (w1 : W32) (s : State) : Host.Outcome State Fault Refusal :=
  let s := s.advance t
  let e := (markOf w0).1
  let k := bits w1.toNat 13 8
  .next (s.on (if !s.clocked || !s.carriesMarks p then s
    else
      let s := s.count (pageNo .aisle p) 0x80 1
      if s.isMaster then s
      else
        let s := { s with bell := { s.bell with kDown := some (e, k) } }
        s.markPorts.foldl (fun s q => s.sendMark t q 2 e 0 k 0) s))

end Sys2Proof.Machine
end

