-- ==== Sys2Proof/Machine/Sha.lean ====
section
/-! DEFINITION. SHA-512, MGF1 and the verification of RSASSA-PSS that R449, R452 and R453 name (RFC 8017; the hash itself is
FIPS 180-4, PRESUMED, log entry 47). -/
namespace Sys2Proof.Machine

/-! ### SHA-512 -/

/-- The largest `r` with `r ^ k ≤ x`, its `n` undecided bits taken from the top. -/
def rootBits (k x : Nat) : Nat → Nat → Nat
  | 0, r => r
  | n + 1, r => rootBits k x n (if (r + 2 ^ n) ^ k ≤ x then r + 2 ^ n else r)

/-- The first 64 bits of the fraction of the `k`-th root of a prime below 512. -/
def rootFraction (k p : Nat) : W64 := BitVec.ofNat 64 (rootBits k (p * 2 ^ (64 * k)) 70 0)

/-- The eighty primes up to 409. -/
def shaPrimes : List Nat := (List.range 410).filter fun p => decide (2 ≤ p) && (List.range p).all fun d => decide (d < 2) || p % d != 0

/-- The round constants: cube roots of the first eighty primes. -/
def shaK : List W64 := shaPrimes.map (rootFraction 3)

/-- The initial hash value: square roots of the first eight primes. -/
def shaInit : List W64 := (shaPrimes.take 8).map (rootFraction 2)

/-- The exclusive or of a word's right rotations by the amounts of a list. -/
def rotations (x : W64) (l : List Nat) : W64 := l.foldl (fun a n => a ^^^ x.rotateRight n) 0#64

/-- The next word of the message schedule from those before it, the latest first. -/
def shaNext (before : List W64) : W64 :=
  let back (i : Nat) : W64 := before.getD (i - 1) 0#64
  back 16 + back 7 + (rotations (back 15) [1, 8] ^^^ (back 15).ushiftRight 7)
    + (rotations (back 2) [19, 61] ^^^ (back 2).ushiftRight 6)

/-- The message schedule, extended by `n` words; the latest word stands first. -/
def shaExpand (n : Nat) (l : List W64) : List W64 := n.repeat (fun ws => shaNext ws :: ws) l

/-- Bit by bit, the second word where the first has a 1 and the third elsewhere. -/
def shaChoose (x y z : W64) : W64 := z ^^^ (x &&& (y ^^^ z))

/-- Bit by bit, what at least two of three words hold. -/
def shaMajority (x y z : W64) : W64 := (x &&& (y ||| z)) ||| (y &&& z)

/-- One round on the eight working variables, with the sum of its round constant and its schedule word. -/
def shaRound : List W64 → W64 → List W64
  | [a, b, c, d, e, f, g, h], kw =>
    let mixed := h + rotations e [14, 18, 41] + shaChoose e f g + kw
    [mixed + (rotations a [28, 34, 39] + shaMajority a b c), a, b, c, d + mixed, e, f, g]
  | v, _ => v

/-- A big-endian number from bytes. -/
def beNat (l : List Byte) : Nat := l.foldl (fun a b => a * 256 + b.toNat) 0

/-- `n` bytes of a number, most significant first. -/
def beBytes (n x : Nat) : List Byte := (leBytes n x).reverse

/-- One block of 128 bytes. -/
def shaBlock (h : List W64) (blk : List Byte) : List W64 :=
  let m := (List.range 16).map fun i => BitVec.ofNat 64 (beNat ((blk.drop (8 * i)).take 8))
  let sums := List.zipWith (· + ·) shaK (shaExpand 64 m.reverse).reverse
  List.zipWith (· + ·) h (sums.foldl shaRound h)

/-- Blocks of 128 bytes, first to last. -/
def shaBlocks : Nat → List W64 → List Byte → List W64
  | 0, h, _ => h
  | n + 1, h, l => shaBlocks n (shaBlock h (l.take 128)) (l.drop 128)

/-- The padded message: a bit 1, zeros, and the length in bits in 16 bytes. -/
def shaPad (l : List Byte) : List Byte :=
  l ++ [0x80#8] ++ List.replicate ((239 - l.length % 128) % 128) 0#8 ++ beBytes 16 (8 * l.length)

/-- The 64 bytes of SHA-512. -/
def sha512 (l : List Byte) : List Byte :=
  let p := shaPad l
  (shaBlocks (p.length / 128) shaInit p).flatMap fun w => beBytes 8 w.toNat

/-! ### RSASSA-PSS -/

/-- MGF1 with SHA-512. -/
def mgf1 (seed : List Byte) (n : Nat) : List Byte :=
  ((List.range (cdiv n 64)).flatMap fun i => sha512 (seed ++ beBytes 4 i)).take n

/-- `b ^ e mod n` over the low `k` bits of `e`. -/
def powMod (n : Nat) : Nat → Nat → Nat → Nat → Nat
  | 0, _, _, acc => acc
  | k + 1, b, e, acc => powMod n k (b * b % n) (e / 2) (if e % 2 = 1 then acc * b % n else acc)

/-- Length in bits of a number below 2^4096. -/
def bitLen (n : Nat) : Nat := (List.range 4096).countP fun i => n / 2 ^ i != 0

/-- EMSA-PSS verification of an encoded message of `bits` bits, with a salt of 64 bytes. -/
def pssOk (hash em : List Byte) (bits : Nat) : Bool :=
  let len := cdiv bits 8
  let top := 8 * len - bits
  let n := len - 65
  let db := em.take n
  let h := (em.drop n).take 64
  if len < 130 || em.length != len then false
  else
    let x := ((db.zip (mgf1 h n)).map fun q => q.1 ^^^ q.2).zipIdx.map fun q =>
      if q.2 = 0 then q.1 &&& BitVec.ofNat 8 (2 ^ (8 - top) - 1) else q.1
    let salt := x.drop (n - 64)
    em.drop (len - 1) = [0xBC#8] && decide ((db.headD 0#8).toNat < 2 ^ (8 - top))
      && (x.take (n - 65)).all (fun b => b = 0#8) && (x.drop (n - 65)).take 1 = [0x01#8]
      && sha512 (List.replicate 8 0#8 ++ hash ++ salt) = h

/-- RSASSA-PSS verification of a message with modulus, exponent and signature as numbers (R449). -/
def pssVerify (n e sig : Nat) (msg : List Byte) : Bool :=
  let bits := bitLen n - 1
  let m := powMod n 32 sig e 1
  decide (sig < n) && decide (m < 256 ^ cdiv bits 8) && pssOk (sha512 msg) (beBytes (cdiv bits 8) m) bits

end Sys2Proof.Machine
end

