-- ==== Sys2Proof/Machine/Placement.lean ====
section
/-! DEFINITION. Placement (R368 to R370, R372): the fit of a pitch on a stall, whether a placement is valid, and the search for the
best valid one. -/
namespace Sys2Proof.Machine

/-! ### The fit of a pitch on a stall (R368, R372) -/

/-- The first start of a run of `n` that no run in use meets. -/
def freeRun (used : List (Nat × Nat)) (n total : Nat) : Option Nat :=
  if n = 0 then some 0
  else (List.range (total + 1 - n)).find? fun b => used.all fun (u : Nat × Nat) => u.2 = 0 || decide (b + n ≤ u.1) || decide (u.1 + u.2 ≤ b)

/-- Slots of a stall that the Clerk has given to jobs. -/
def State.slotsUsed (s : State) (sn : Nat) : List Nat := (List.range 8).filter fun k => bit (s.shadowOf .stall sn (0x400 + 4 * k)) 6

/-- Runs of flags, of tallies and of foot groups in use on a stall. -/
def State.runsUsed (s : State) (sn : Nat) : List (Nat × Nat) × List (Nat × Nat) × List (Nat × Nat) :=
  let us := s.slotsUsed sn
  let res := us.map fun k => jobResOf (s.shadowOf .stall sn (0x420 + 4 * k))
  let foot := us.filterMap fun k =>
    let w := s.shadowOf .stall sn (0x120 + 4 * k)
    if bit w 6 then some (bits w 10 8, bits w 14 12 + 1 - bits w 10 8) else none
  (res.map fun r => (r.flagBase, r.flagCount), res.map fun r => (r.tallyBase, r.tallyCount), foot)

/-- Where a pitch fits on a stall: job slot, first flag, first tally, first foot group (R109, R368). -/
def State.roomFor (s : State) (sn : Nat) (a : PitchAdm) : Option (Nat × Nat × Nat × Nat) :=
  let us := s.slotsUsed sn
  let r := s.runsUsed sn
  match (List.range 8).find? fun k => !us.contains k, freeRun r.1 a.flags 32, freeRun r.2.1 a.tallies 64, freeRun r.2.2 a.groups 8 with
  | some k, some f, some t, some g => some (k, f, t, g)
  | _, _, _, _ => none

/-- Open jobs with a pitch on a stall. -/
def State.jobsAt (s : State) (sn : Nat) : List Job :=
  (s.openJobs.filterMap s.job).filter fun jb => jb.stalls.contains sn

/-- May a pitch be placed on a stall at phase φ (R368, R372)? -/
def State.fits (s : State) (phase : Nat) (a : PitchAdm) (sn : Nat) : Bool :=
  let others := s.jobsAt sn
  let mine := a.masks.map fun m => need m phase
  s.stallPresent sn && !s.clerk.fences.contains sn && (s.roomFor sn a).isSome && others.all fun o =>
    (o.pitchesOn sn).all (fun p => match o.adm[p]? with
      | some b => a.banks &&& b.banks = 0 && a.rings &&& b.rings = 0
      | none => true)
    && (o.cls = 3 || !needsMeet mine (o.needs sn))

/-- Hall-store pages of 2 MiB that a pitch declares on each of its dies (R264, R368). -/
def PitchAdm.hallPages (a : PitchAdm) : Nat := cdiv a.hall 32

/-- Hall-store pages declared on a die by the pitches placed there. -/
def State.hallDeclared (s : State) (die : Nat) : Nat :=
  ((s.openJobs.filterMap s.job).map fun jb =>
    ((jb.adm.zipIdx).map fun q =>
      if jb.place.any fun x => x.1 = q.2 && !remoteStall x.2.2 && x.2.2 / 128 = die then q.1.hallPages else 0).sum).sum

/-- Hall-store pages that the jobs to come may still declare on each compute die (R264, R368). -/
def State.hallLeft (s : State) : List Nat := (List.range 12).map fun d => 16 - s.hallDeclared d

/-- Is a placement valid at a phase (R368)? -/
def State.placeValid (s : State) (adm : List PitchAdm) (phase : Nat) (place : List (Nat × Nat × Nat)) : Bool :=
  let here := place.filter fun q => !remoteStall q.2.2
  let of (p : Nat) : List (Nat × Nat × Nat) := here.filter fun q => q.1 = p
  decide ((here.map fun q => q.2.2).Nodup) && place.all (fun q => decide (q.1 < adm.length))
  && (adm.zipIdx).all (fun q =>
    let l := of q.2
    if q.1.remote then l.isEmpty
    else decide (l.length = q.1.stalls) && (List.range q.1.stalls).all (fun i => l.any fun x => x.2.1 = i)
      && l.all (fun x => s.fits phase q.1 x.2.2)
      && (q.1.span = 1 || l.all fun x => l.all fun y => x.2.2 / 128 = y.2.2 / 128))
  && (List.range 12).all fun d =>
    let add := ((adm.zipIdx).map fun q => if (of q.2).any (fun x => x.2.2 / 128 = d) then q.1.hallPages else 0).sum
    add = 0 || decide (s.hallDeclared d + add ≤ 16)

/-! ### What is to be placed -/

/-- What a pitch asks of a placement: its number, logical stalls still to be placed and the next of them, whether all lie on one
die, hall pages on each die that it uses, the dies that it uses so far, and by die the stalls on which it may go. -/
structure Ask where
  p : Nat
  n : Nat
  next : Nat
  oneDie : Bool
  hall : Nat
  dies : List Nat
  fit : List (List Nat)
  deriving DecidableEq, Repr

/-- Pitches of this device that are to go on stalls at a phase, none on the stalls `taken`. -/
def State.asks (s : State) (phase : Nat) (taken : List Nat) (l : List (PitchAdm × Nat)) : List Ask :=
  (l.filter fun q => !q.1.remote).map fun q =>
    ⟨q.2, q.1.stalls, 0, q.1.span = 0, q.1.hallPages, [], (List.range 12).map fun d =>
      ((List.range 128).map (128 * d + ·)).filter fun sn => !taken.contains sn && s.fits phase q.1 sn⟩

/-- Stalls of a die on which it may go. -/
def Ask.on (a : Ask) (d : Nat) : List Nat := a.fit.getD d []

/-- May it use a die with the hall store that is left there? -/
def Ask.opens (a : Ask) (left : List Nat) (d : Nat) : Bool := a.dies.contains d || decide (a.hall ≤ left.getD d 0)

/-- The hall store that is left once it uses more dies. -/
def Ask.spend (a : Ask) (left ds : List Nat) : List Nat :=
  ds.foldl (fun l d => if a.dies.contains d then l else lset l d (l.getD d 0 - a.hall)) left

/-- A stall is taken by another. -/
def Ask.without (a : Ask) (sn : Nat) : Ask := { a with fit := a.fit.map fun l => l.filter fun x => x != sn }

/-- It takes a stall for its next logical stall. -/
def Ask.take (a : Ask) (sn : Nat) : Ask :=
  let d := sn / 128
  let b := a.without sn
  { b with
    n := a.n - 1, next := a.next + 1, dies := if a.dies.contains d then a.dies else a.dies ++ [d]
    fit := if a.oneDie then (b.fit.zipIdx).map fun q => if q.2 = d then q.1 else [] else b.fit }

/-! ### The lowest stalls, one pitch after another -/

/-- Pitches go, one after another, on the lowest stalls of the dies `ds` that they may go on; none where one finds too few. Where
all find enough, no valid placement on these dies has lower stalls. -/
def lowest (ds : List Nat) : List Ask → List Nat → List Nat → Option (List (Nat × Nat × Nat))
  | [], _, _ => some []
  | a :: r, left, taken =>
    let at_ (d : Nat) : List Nat := if a.opens left d then (a.on d).filter fun x => !taken.contains x else []
    let found := if a.oneDie then ((ds.map at_).find? fun l => decide (a.n ≤ l.length)).getD [] else ds.flatMap at_
    if found.length < a.n then none
    else
      let sns := found.take a.n
      (lowest ds r (a.spend left (ds.filter fun d => sns.any fun sn => sn / 128 = d)) (taken ++ sns)).map fun l =>
        (sns.zipIdx).map (fun q => (a.p, a.next + q.2, q.1)) ++ l

/-! ### Whether a placement is there -/

/-- Logical stall `u` gets a stall, `seen` apart, by moving others on: `m` holds the stalls given so far (R368). -/
def giveStall (may : List (List Nat)) : Nat → Nat → List Nat → List (Nat × Nat) → Option (List (Nat × Nat)) × List Nat
  | 0, _, seen, _ => (none, seen)
  | fuel + 1, u, seen, m => (may.getD u []).foldl (fun r sn =>
      if r.1.isSome || r.2.contains sn then r
      else
        let give (m : List (Nat × Nat)) : List (Nat × Nat) := (sn, u) :: m.filter fun q => q.1 != sn
        match sget m sn with
        | none => (some (give m), sn :: r.2)
        | some v =>
          let x := giveStall may fuel v (sn :: r.2) m
          (x.1.map give, x.2)) (none, seen)

/-- Can every logical stall have a stall of its own, of those that it may go on? -/
def allGiven (may : List (List Nat)) : Bool :=
  ((List.range may.length).foldl (fun (o : Option (List (Nat × Nat))) u =>
    o.bind fun m => (giveStall may (may.length + 1) u [] m).1) (some [])).isSome

/-- The sublists of a list. -/
def sublists : List Nat → List (List Nat)
  | [] => [[]]
  | d :: r => sublists r ++ (sublists r).map (d :: ·)

/-- The sublists of a length, the first elements first. -/
def choose : Nat → List Nat → List (List Nat)
  | 0, _ => [[]]
  | _ + 1, [] => []
  | k + 1, d :: r => (choose k r).map (d :: ·) ++ choose (k + 1) r

/-- Sets of dies that a pitch may use, of the dies `ds`. -/
def Ask.ways (a : Ask) (ds left : List Nat) : List (List Nat) :=
  let ds := ds.filter (a.opens left)
  if a.n = 0 then [[]]
  else if a.oneDie then (ds.filter fun d => decide (a.n ≤ (a.on d).length)).map fun d => [d]
  else (if a.hall = 0 then [ds] else sublists ds).filter fun w => decide (a.n ≤ (w.flatMap a.on).length)

/-- Is there a placement on the dies `ds`: a choice of dies for every pitch by which each logical stall finds a stall? -/
def placeable (ds : List Nat) : List Ask → List Nat → List (List Nat) → Bool
  | [], _, may => allGiven may
  | a :: r, left, may => (a.ways ds left).any fun w =>
      placeable ds r (a.spend left w) (may ++ List.replicate a.n (w.flatMap a.on))

/-- The placement with the lowest stalls on the dies `ds`, logical stall after logical stall; `fuel` bounds them. -/
def pickStalls (ds : List Nat) : Nat → List Ask → List Nat → Option (List (Nat × Nat × Nat))
  | _, [], _ => some []
  | 0, _, _ => none
  | fuel + 1, a :: r, left =>
    if a.n = 0 then pickStalls ds fuel r left
    else
      let next (sn : Nat) : List Ask := a.take sn :: r.map fun b => b.without sn
      let spent (sn : Nat) : List Nat := a.spend left [sn / 128]
      match ((ds.filter (a.opens left)).flatMap a.on).find? fun sn => placeable ds (next sn) (spent sn) [] with
      | none => none
      | some sn => (pickStalls ds fuel (next sn) (spent sn)).map fun l => (a.p, a.next, sn) :: l

/-- The placement with the lowest stalls on the dies `ds`, if there is one (R368, R369). -/
def planOn (asks : List Ask) (left ds : List Nat) : Option (List (Nat × Nat × Nat)) :=
  let n := (asks.map Ask.n).sum
  if 128 * ds.length < n then none
  else match lowest ds asks left [] with
    | some l => some l
    | none => if placeable ds asks left [] then pickStalls ds (n + asks.length) asks left else none

/-! ### The best placement (R369) -/

/-- Compute dies that a placement uses. -/
def placeDies (place : List (Nat × Nat × Nat)) : List Nat :=
  (List.range 12).filter fun d => place.any fun q => !remoteStall q.2.2 && q.2.2 / 128 = d

/-- Power of dies in W, as averaged over the last 10 ms. -/
def State.diesPower (s : State) (ds : List Nat) : Nat := (ds.map fun d => s.power.dies.getD d 0).sum

/-- Hub whose stacks hold most of a job's pages, the lowest of several; none where it has none there (R369, log entry 31). -/
def Job.homeHub (jb : Job) : Option Nat :=
  let n (h : Nat) : Nat := jb.maps.countP fun m => decide (m.pa < 2 ^ 40) && m.pa / 2 ^ 36 / 4 = h
  ((List.range 4).find? fun h => n h != 0 && (List.range 4).all fun g => decide (n g ≤ n h))

/-- How a set of dies stands in preferences 2 and 3: dies that the home hub does not serve, and power; less is better. -/
def State.diesRank (s : State) (home : Option Nat) (ds : List Nat) : Nat × Nat :=
  (match home with | some h => ds.countP fun d => d / 3 != h | none => 0, s.diesPower ds)

/-- Is a rank before another? -/
def rankBefore (a b : Nat × Nat) : Bool := decide (a.1 < b.1) || (a.1 = b.1 && decide (a.2 < b.2))

/-- Sets of dies in the order of their ranks, those of one rank as they stand. -/
def byRank (rank : List Nat → Nat × Nat) (l : List (List Nat)) : List (List Nat) :=
  l.foldl (fun acc x => acc.takeWhile (fun y => !rankBefore (rank x) (rank y)) ++ x :: acc.dropWhile fun y => !rankBefore (rank x) (rank y)) []

/-- Is a list of stalls lower than another? -/
def stallsBefore : List Nat → List Nat → Bool
  | a :: r, b :: q => decide (a < b) || (a = b && stallsBefore r q)
  | _, _ => false

/-- The first placement of sets of dies in the order of their ranks, of one rank that with the lowest stalls; where every set is of
one die (`single`) and they rise, that is the first. -/
def firstPlan (plan : List Nat → Option (List (Nat × Nat × Nat))) (rank : List Nat → Nat × Nat) (single : Bool) :
    List (List Nat) → Option (List (Nat × Nat × Nat))
  | [] => none
  | ds :: r => match plan ds with
    | none => firstPlan plan rank single r
    | some a =>
      if single then some a
      else some ((r.takeWhile fun e => rank e = rank ds).foldl (fun a e => match plan e with
        | some b => if stallsBefore (b.map fun q => q.2.2) (a.map fun q => q.2.2) then b else a
        | none => a) a)

/-- The best placement beside stalls on the dies `base` (R369): fewest dies in all, then dies of the home hub, then lowest power,
then lowest stalls. -/
def State.bestPlace (s : State) (asks : List Ask) (base : List Nat) (home : Option Nat) : Option (List (Nat × Nat × Nat)) :=
  let others := (List.range 12).filter fun d => !base.contains d
  let left := s.hallLeft
  (List.range (others.length + 1)).findSome? fun k =>
    let sets := (choose k others).flatMap fun n => (sublists base).map fun b => (List.range 12).filter fun d => n.contains d || b.contains d
    firstPlan (planOn asks left) (s.diesRank home) (base.isEmpty && decide (k ≤ 1)) (byRank (s.diesRank home) sets)

/-- Are two placements of a job that is being opened equal in preferences 1 to 3 (R369)? -/
def State.alike (s : State) (a b : List (Nat × Nat × Nat)) : Bool :=
  (placeDies a).length = (placeDies b).length && s.diesPower (placeDies a) = s.diesPower (placeDies b)

/-- The placement of a job's pitches on this device at a phase, if there is one (R369). One that the Clerk offers is taken where it is
valid and equal to the best in preferences 1 to 3 (R400; log entry 31). -/
def State.search (s : State) (adm : List PitchAdm) (phase : Nat) (offer : List (Nat × Nat × Nat)) : Option (List (Nat × Nat × Nat)) :=
  (s.bestPlace (s.asks phase [] adm.zipIdx) [] none).map fun l =>
    if s.placeValid adm phase offer && s.alike offer l then offer else l

end Sys2Proof.Machine
end

