-- ==== Sys2Proof/Machine/Admission.lean ====
section
/-! DEFINITION. Admission (R365 to R377): the admission record, the choice of phase and placement, the time test, the bandwidth
test, and the registers the Clerk writes for a placement. -/
namespace Sys2Proof.Machine

/-! ### The admission record (R366) -/

/-- The fields of an admission record. -/
structure AdmRecord where
  cls : Nat
  length : Nat
  deadline : Nat
  period : Nat
  hops : Nat
  devices : Nat
  pitches : List PitchAdm
  deriving DecidableEq, Repr

/-- A bank mask with both banks of every W or A pair it names (R187, R200). -/
def pairBanks (m : Nat) : Nat :=
  ((List.range 128).map fun b => b2n (bit m b || (decide (b < 64) && bit m (if b % 2 = 0 then b + 1 else b - 1))) * 2 ^ b).sum

/-- A pitch entry. -/
def pitchAdmOf (e : List Byte) : PitchAdm where
  stalls := leAt e 0 2
  span := leAt e 2 1
  movable := bit (leAt e 3 1) 0
  remote := bit (leAt e 3 1) 1
  masks := [leAt e 4 8, leAt e 12 8, leAt e 20 8, leAt e 28 8]
  banks := pairBanks (leAt e 36 16)
  rings := leAt e 52 2
  flags := leAt e 54 1
  tallies := leAt e 55 1
  groups := leAt e 56 1
  beats := leAt e 58 2
  blocks := leAt e 60 2
  hall := leAt e 62 2

/-- Is a pitch entry laid out as R366 says? -/
def pitchEntryOk (e : List Byte) : Bool :=
  let f := leAt e 3 1
  decide (f < 4) && if bit f 1 then (e.drop 4).all (· = 0#8)
    else decide (leAt e 2 1 < 2) && leAt e 57 1 = 0 && decide (1 ≤ leAt e 0 2) && decide (leAt e 0 2 ≤ 1536)

/-- An admission record, if it is laid out as R366 says. -/
def admOf (r : List Byte) : Option AdmRecord :=
  let n := leAt r 3 1
  let entry (i : Nat) : List Byte := (r.drop (64 + 64 * i)).take 64
  let cls := leAt r 2 1
  if decide (r.length = 64 + 64 * n) && leAt r 0 2 = 1 && decide (1 ≤ cls) && decide (cls ≤ 3) && decide (1 ≤ n)
      && decide (n ≤ 240) && decide (1 ≤ leAt r 25 1) && decide (leAt r 25 1 ≤ 64) && ((r.drop 26).take 38).all (· = 0#8)
      && (cls = 1 || (leAt r 8 8 = 0 && leAt r 16 8 = 0)) && (List.range n).all fun i => pitchEntryOk (entry i) then
    some ⟨cls, leAt r 4 4, leAt r 8 8, leAt r 16 8, leAt r 24 1, leAt r 25 1, (List.range n).map fun i => pitchAdmOf (entry i)⟩
  else none

/-! ### The choice of phase and placement (R370, R371) -/

/-- Does a route over a port that is UP lead to every device of a placement (R375)? -/
def State.farUp (s : State) (place : List (Nat × Nat × Nat)) : Bool :=
  place.all fun q =>
    let e := s.route (remotePos q.2.2)
    !remoteStall q.2.2 || (e.2.2.1 && (e.2.2.2.1 || s.portUp e.1 || s.portUp e.2.1))

/-- The phase and placement that a job gets: the lowest phase at which a placement is valid, and the best one there (R369, R370).
A job on several devices takes the phase on which their Clerks have agreed, 64 or above where they found none (R371), and the
entries of the other devices as offered. -/
def State.choosePlace (s : State) (r : AdmRecord) (phase : Nat) (place : List (Nat × Nat × Nat)) :
    Option (Nat × List (Nat × Nat × Nat)) :=
  let here := place.filter fun q => !remoteStall q.2.2
  let far := place.filter fun q => remoteStall q.2.2
  if 1 < r.devices then
    if phase < 64 && s.farUp far then (s.search r.pitches phase here).map fun l => (phase, l ++ far) else none
  else (List.range 64).findSome? fun q => (s.search r.pitches q here).map fun l => (q, l)

/-! ### The tests of R373 to R375 -/

/-- k_max as applied (R468). -/
def State.kMax (s : State) : Nat := min (bits (s.live .policy 0 0x104) 5 0) 56

/-- E of R373: rounds that L unmasked rounds can take. -/
def maskedRounds (l k : Nat) : Nat := l + k * (l / (64 - k) + 2)

/-- The time test of R373, with `extra` rounds added to E (R378). -/
def timeTest (l d p k extra : Nat) : Bool :=
  decide ((maskedRounds l k + extra + 2) * 4096 ≤ d) && decide (d ≤ p) && decide (1 ≤ l)

/-- The outputs of the chain that a stall's traffic crosses toward the dies of its job, as ARB instance and channel (R19, R204): it
keeps the channel of its first bridge. -/
def chainOutputs (sn : Nat) (dies : List Nat) : List (Nat × Nat) :=
  let c := sn / 128
  let hi := dies.foldl max c
  let lo := dies.foldl min c
  let ch (hub : Bool) : Nat := if hub then sn % 128 / 16 else sn % 16 / 2
  ((List.range (hi - c)).flatMap fun i =>
    let k := c + i
    let x := ch (c % 4 = 3)
    if k % 4 = 3 then [(1560 + 2 * k, x), (1561 + 2 * (k + 1), x)] else [(1536 + 2 * k, x)])
  ++ (List.range (c - lo)).flatMap fun i =>
    let k := c - i
    let x := ch (c % 4 = 0)
    if k % 4 = 0 then [(1560 + 2 * k, x), (1561 + 2 * (k - 1), x)] else [(1537 + 2 * k, x)]

/-- The bridge outputs that a stall's traffic crosses: those of the chain, and its own hub bridge in both directions, for the
memory traffic by the channel of its row. -/
def stallOutputs (sn : Nat) (dies : List Nat) : List (Nat × Nat) :=
  let c := sn / 128
  let row := sn % 128 / 16
  let own := [(1560 + 2 * c, row), (1561 + 2 * c, row)]
  own ++ (chainOutputs sn dies).filter fun o => !own.contains o

/-- The stacks in service of the hub that serves a stall. -/
def State.stallStacks (s : State) (sn : Nat) : List Nat :=
  ((List.range 4).map fun i => 4 * (sn / 128 / 3) + i).filter fun m => !s.outStacks.contains m

/-- Class-1 traffic that a placement puts on outputs: ARB instance, channel, and beats or blocks per round (R374, log entry 32). -/
def State.crossings (s : State) (adm : List PitchAdm) (place : List (Nat × Nat × Nat)) : List (Nat × Nat × Nat) :=
  let here := place.filter fun q => !remoteStall q.2.2
  let dies := placeDies place
  here.flatMap fun q => match adm[q.1]? with
    | none => []
    | some a =>
      (if a.beats = 0 then [] else (stallOutputs q.2.2 dies).map fun o => (o.1, o.2, a.beats))
        ++ if a.blocks = 0 then [] else (s.stallStacks q.2.2).map fun m => (1584 + m, 0, a.blocks)

/-- Is there a stack in service for every stall that reads or writes memory blocks? -/
def State.stacksServe (s : State) (adm : List PitchAdm) (place : List (Nat × Nat × Nat)) : Bool :=
  place.all fun q => remoteStall q.2.2 || match adm[q.1]? with
    | some a => a.blocks = 0 || !(s.stallStacks q.2.2).isEmpty
    | none => true

/-- Instances that carry class-1 entries: bridges and stack queues. -/
def rotaOutputs : List Nat := (List.range 64).map (1536 + ·)

/-- Beats or accesses that one class-1 entry gives an output in a round (R229, R374). -/
def entryShare (o : Nat) : Nat := 4096 * (arbRate o).1 / (arbRate o).2 / 64

/-- Class-1 entries that an instance needs for the traffic that crosses its outputs: what its busiest one needs. -/
def entriesNeeded (traffic : List (Nat × Nat × Nat)) (o : Nat) : Nat :=
  let mine := traffic.filter fun q => q.1 = o
  if mine.isEmpty then 0
  else cdiv (((List.range 8).map fun ch => ((mine.filter fun q => q.2.1 = ch).map fun q => q.2.2).sum).foldl max 0) (entryShare o)

/-- L_max of R377: entries of one owner lie no nearer to another's. -/
def lMax (o : Nat) : Nat := if o < 1560 then 32 else if o < 1584 then 16 else 1

/-- Rota positions of an instance that class 1 has or may have: its own and the FREE ones that R377's spacing leaves it. -/
def State.classOneSpots (s : State) (o : Nat) : List Nat :=
  let v (i : Nat) : Nat := bits (s.shadowOf .arb o (0x100 + 4 * (i / 4))) (8 * (i % 4) + 7) (8 * (i % 4))
  let others := (List.range 64).filter fun i => v i != 0x41 && v i != 0x7F
  (List.range 64).filter fun i => !others.contains i
    && others.all fun j => decide (lMax o ≤ (i + 64 - j) % 64) && decide (lMax o ≤ (j + 64 - i) % 64)

/-- The class-1 traffic of the DEADLINE jobs that are open. -/
def State.deadlineTraffic (s : State) : List (Nat × Nat × Nat) :=
  ((s.openJobs.filterMap s.job).filter fun jb => jb.cls = 1).flatMap fun jb => s.crossings jb.adm jb.place

/-- Does a DEADLINE job's traffic fit beside the admitted ones (R374)? -/
def State.bandwidthFits (s : State) (adm : List PitchAdm) (place : List (Nat × Nat × Nat)) : Bool :=
  let mine := s.crossings adm place
  let all := mine ++ s.deadlineTraffic
  s.stacksServe adm place
    && rotaOutputs.all fun o => !(mine.any fun q => q.1 = o) || decide (entriesNeeded all o ≤ (s.classOneSpots o).length)

/-- A rota word whose class-1 entries are those at `spots`. -/
def arbRotaWord (old w : Nat) (spots : List Nat) : Nat :=
  ((List.range 4).map fun b =>
    let v := bits old (8 * b + 7) (8 * b)
    (if spots.contains (4 * w + b) then 0x41 else if v = 0x41 then 0x7F else v) * 256 ^ b).sum

/-- The rotas of bridges and stacks follow the DEADLINE jobs that are open (R374, R377). -/
def State.writeArbRotas (s : State) : State :=
  let all := s.deadlineTraffic
  rotaOutputs.foldl (fun s o =>
    if !s.arbPresent o then s
    else
      let spots := (s.classOneSpots o).take (entriesNeeded all o)
      let words := (List.range 16).filter fun w =>
        arbRotaWord (s.shadowOf .arb o (0x100 + 4 * w)) w spots != s.shadowOf .arb o (0x100 + 4 * w)
      if words.isEmpty then s
      else (words.foldl (fun s w =>
        s.shadow .arb o (0x100 + 4 * w) (arbRotaWord (s.shadowOf .arb o (0x100 + 4 * w)) w spots)) s).requestCommit .arb o) s

/-- Does a placement need an aisle port that this device lacks: a route to one of its devices names absent ports only (R375)? -/
def State.portsAbsent (s : State) (place : List (Nat × Nat × Nat)) : Bool :=
  place.any fun q =>
    let e := s.route (remotePos q.2.2)
    remoteStall q.2.2 && e.2.2.1 && !e.2.2.2.1 && !s.portPresent e.1 && !s.portPresent e.2.1

/-- Would a record be refused on an empty device of the grade (R375)? -/
def State.neverFits (s : State) (r : AdmRecord) (place : List (Nat × Nat × Nat)) : Bool :=
  (decide (1 < r.devices) && (s.bell.state != 2 || s.portsAbsent place))
  || ({ s with jobs := [], stalls := [], clerk := { s.clerk with fences := [] } }.search r.pitches 0 []).isNone

/-! ### Registers of a placement (R376) -/

/-- Write the shadow of a stall's register where it differs. -/
def State.setShadow (s : State) (sn o v : Nat) : State :=
  if s.shadowOf .stall sn o = v then s else s.shadow .stall sn o v

/-- The BANK_OWNER entries of the banks of a mask get an owner. -/
def State.setOwners (s : State) (sn mask v : Nat) : State :=
  (List.range 32).foldl (fun s i =>
    let o := 0x160 + 4 * i
    let w := s.shadowOf .stall sn o
    s.setShadow sn o (((List.range 4).map fun b =>
      (if bit mask (4 * i + b) then v else bits w (8 * b + 7) (8 * b)) * 256 ^ b).sum)) s

/-- The ring configurations that a job's image gives a pitch (R191, R376). -/
def State.setRings (s : State) (sn j p : Nat) (im : LoadImage) : State :=
  match im.pitches.find? fun u => u.pitch = p with
  | none => s
  | some u => u.cfg.foldl (fun s (q : Nat × Nat × Nat) =>
      (s.setShadow sn (0x780 + 8 * q.1) (q.2.1 % 16 + 2 ^ 4 * j + q.2.1 / 2 ^ 10 % 8 * 2 ^ 10)).setShadow sn (0x784 + 8 * q.1)
        (q.2.2 % 2 ^ 25)) s

/-- A pitch of a job takes a stall: slot, ranges, foot groups, banks, rota, and the rings and FOOT_ACC word of its image, in the
shadow until the one COMMIT (R376). -/
def State.takeStall (s : State) (j : Nat) (jb : Job) (p sn : Nat) : State :=
  match jb.adm[p]? with
  | none => s
  | some a => match s.roomFor sn a with
    | none => s
    | some (k, f, t, g) =>
      let s := s.setShadow sn (0x400 + 4 * k) (j + 2 ^ 6 + 2 ^ 7 * b2n jb.suspended + 2 ^ 8 * jb.cls)
      let s := s.setShadow sn (0x420 + 4 * k) (f + 2 ^ 8 * a.flags + 2 ^ 16 * t + 2 ^ 24 * a.tallies)
      let s := if a.groups = 0 then s
        else s.setShadow sn (0x120 + 4 * k) (j + 2 ^ 6 + 2 ^ 8 * g + 2 ^ 12 * (g + a.groups - 1))
      let s := s.setOwners sn a.banks (0x40 + j)
      let s := if jb.cls = 3 || jb.suspended then s else s.giveRota sn j (a.masks.map fun m => need m jb.phase)
      match jb.image with
      | some im => (s.setShadow sn (0x140 + 4 * k) (im.acc % 256)).setRings sn j p im
      | none => s

/-- A job leaves a stall: everything R376 gave it there goes, in one COMMIT. -/
def State.leaveStall (s : State) (j sn : Nat) : State :=
  let ks := (s.slotsUsed sn).filter fun k => bits (s.shadowOf .stall sn (0x400 + 4 * k)) 5 0 = j
  let s := ks.foldl (fun s k => (((s.setShadow sn (0x400 + 4 * k) 0).setShadow sn (0x420 + 4 * k) 0).setShadow sn
    (0x120 + 4 * k) 0).setShadow sn (0x140 + 4 * k) 16) s
  let byte (w v n : Nat) : Nat := ((List.range 4).map fun b =>
    (if bits w (8 * b + 7) (8 * b) = v then n else bits w (8 * b + 7) (8 * b)) * 256 ^ b).sum
  let s := (List.range 32).foldl (fun s i =>
    s.setShadow sn (0x160 + 4 * i) (byte (s.shadowOf .stall sn (0x160 + 4 * i)) (0x40 + j) 0)) s
  let s := (List.range 64).foldl (fun s i =>
    s.setShadow sn (0x300 + 4 * i) (byte (s.shadowOf .stall sn (0x300 + 4 * i)) j 0x7F)) s
  let s := (List.range 16).foldl (fun s n =>
    let w := s.shadowOf .stall sn (0x780 + 8 * n)
    if bit w 2 && bits w 9 4 = j then (s.setShadow sn (0x780 + 8 * n) 0).setShadow sn (0x784 + 8 * n) 0 else s) s
  s.requestCommit .stall sn

/-- Every local stall of a placement is taken. -/
def State.placeJob (s : State) (j : Nat) : State :=
  match s.job j with
  | none => s
  | some jb => (jb.place.filter fun q => !remoteStall q.2.2).foldl (fun s q => s.takeStall j jb q.1 q.2.2) s

/-- The one COMMIT of stalls that a job has taken (R376), which pre-empts the class 3 jobs in its way (R379); the job's first go is
two rounds after the boundary that takes it. -/
def State.commitStalls (s : State) (j : Nat) (sns : List Nat) : State :=
  match s.job j with
  | none => s
  | some jb =>
    let s := s.setJob j { jb with commitAt := s.bell.nextRound }
    (sns.foldl (fun s sn => s.requestCommit .stall sn) s).preemptFor j

end Sys2Proof.Machine
end

