-- ==== Sys2Proof/Machine/Guard.lean ====
section
/-! DEFINITION. The end of a provisional step (R291 to R296, R308): its close, the flag words of its devices, and the
arming of its resolution. -/
namespace Sys2Proof.Machine

/-- Change one step of a job. -/
def Job.updStep (jb : Job) (n : Nat) (f : StepSt → StepSt) : Job :=
  { jb with steps := jb.steps.map fun x => if x.n = n then f x else x }

/-- GUARD_LATE, at most once for a step (R293, R306). -/
def State.guardLate (s : State) (j n : Nat) : State :=
  match s.job j with
  | none => s
  | some jb =>
    if jb.steps.any fun x => x.n = n && !x.late then
      (s.setJob j (jb.updStep n fun x => { x with late := true })).raise (s.mkEv 0x6301 0 (some j) .clerk 0 (n % 2 ^ 32) 0)
    else s

/-- The guard tick that R293 chooses for the latest close tick, and whether it is later than planned. -/
def Job.guardTick (jb : Job) (x : StepSt) (close : Nat) : Nat × Bool :=
  let earliest := upTo 4096 (close + jb.lead)
  if x.gr = 0 then (earliest, false)
  else
    let planned := upTo 4096 (x.start + x.gr * 4096)
    (max planned earliest, decide (x.start + x.gr * 4096 < earliest))

/-- The latest close tick of a step, by the words in hand (R293). -/
def StepSt.lastClose (x : StepSt) : Nat := x.peers.foldl (fun a q => max a q.2.2) (x.closed.getD 0)

/-- Are the words of all the other devices in hand (R295)? -/
def Job.allWords (jb : Job) (x : StepSt) : Bool := jb.peers.all fun p => x.peers.any fun q => q.1 = p

/-- With every word in hand at tick `t` the guard tick is chosen; a word after `g - 512` defers it (R293, R295). -/
def State.chooseGuard (s : State) (t j n : Nat) : State :=
  match s.job j with
  | none => s
  | some jb => match jb.steps.find? fun x => x.n = n with
    | none => s
    | some x =>
      if x.closed.isNone || !jb.allWords x || x.due.isSome then s
      else
        let g := jb.guardTick x x.lastClose
        let late := !jb.peers.isEmpty && decide (g.1 < t + 512)
        let due := if late then max g.1 (upTo 4096 (t + 1024)) else g.1
        let s := s.setJob j (jb.updStep n fun x => { x with due := some due, deferred := late })
        if g.2 || late then s.guardLate j n else s

/-! ### Closing (R220, R292) -/

/-- Have the update units finished the step's updates (R292)? -/
def State.updatesDone (s : State) (j n : Nat) : Bool :=
  (List.range 4).all fun h =>
    let hb := s.hub h
    !(hb.ingress.any fun c => c.job = j && c.step % 65536 = n % 65536)
      && !(hb.await.any fun q => q.2.2 = n && match sget s.sched.cur q.1 with | some c => decide (c.job = j) | none => false)

/-- Running values of a job's slots that a fold has touched, with their stalls: send, then receive (R220); `far` are those of
the job's other devices, as their Clerks report them. -/
def State.foldValues (s : State) (j : Nat) (jb : Job) (far : List (Nat × W32) × List (Nat × W32)) :
    List (Nat × W32) × List (Nat × W32) :=
  let vs := jb.stalls.filterMap fun sn => ((s.stall sn).slotOf j).map fun k => (sn, (s.stall sn).slotSt k)
  let far := if jb.peers.isEmpty then ([], []) else far
  let used (l : List (Nat × W32)) := l.filter fun q => q.2 != 0xFFFFFFFF#32
  (used (vs.map (fun q => (q.1, q.2.sendRv)) ++ far.1), used (vs.map (fun q => (q.1, q.2.recvRv)) ++ far.2))

/-- The first stall of a list whose value is more often in it than in another. -/
def unmatched (a b : List (Nat × W32)) : Option Nat :=
  (a.find? fun q => decide (b.countP (fun r => r.2 = q.2) < a.countP (fun r => r.2 = q.2))).map (·.1)

/-- The failure of a job's stream check (R220): a value sent that no stall received, or the reverse, as the stalls that an event
names (R226, log entry 46). -/
def State.streamFault (s : State) (j : Nat) (jb : Job) (far : List (Nat × W32) × List (Nat × W32)) : Option Nat :=
  let v := s.foldValues j jb far
  match jb.streamCheck, unmatched v.1 v.2, unmatched v.2 v.1 with
  | false, _, _ | true, none, none => none
  | true, a, b => some (msgAux (a.getD 0) (b.getD 0) 0 0 0)

/-- A job's oldest running step closes at tick `t`. -/
def State.closeStep (s : State) (t j : Nat) (jb : Job) (x : StepSt) (far : List (Nat × W32) × List (Nat × W32)) : State :=
  match s.streamFault j jb far with
  | some aux => s.raise (s.mkEv 0x3106 2 (some j) .clerk 0 (x.n % 2 ^ 32) aux)
  | none =>
    (((s.setJob j { jb.updStep x.n (fun x => { x with closed := some t }) with lastClose := t }).freeAhead j).chooseGuard t j
      x.n)

/-- STEP_CLOSE (R292); running values of the job's other devices come with it (R220). -/
def execStepClose (t : Nat) (je : JobEnd) (s : State) : Host.Outcome State Fault Refusal :=
  let s := s.advance t
  .next (s.on (match s.job je.job with
    | none => s
    | some jb => match jb.steps.find? fun x => x.closed.isNone with
      | none => s
      | some x =>
        if !x.sched || x.abort.isSome || s.jobActive je.job || !s.updatesDone je.job x.n then s
        else s.closeStep t je.job jb x (je.sends, je.recvs)))

/-! ### Flag words (R294, R295) -/

/-- A device's flag word for a step (R292). -/
def StepSt.word (x : StepSt) : Nat := x.flags ||| x.carried

/-- FLAG_WORD_SEND (R295): at `g - Λ` by this device's close, or at its close tick if later. -/
def execFlagWordSend (j : Nat) (s : State) : Host.Outcome State Fault Refusal :=
  .next (s.onClerk (match s.job j with
    | none => s
    | some jb => match jb.steps.find? fun x => x.closed.isSome && !x.sent && x.abort.isNone with
      | none => s
      | some x =>
        let close := x.closed.getD 0
        let t := max ((jb.guardTick x close).1 - jb.lead) close
        let s := s.advance t
        let s := s.setJob j (jb.updStep x.n fun x => { x with sent := true })
        jb.peers.foldl (fun s p => s.sendClerk p 1 j x.n (leBytes 2 x.word ++ leBytes 2 0 ++ leBytes 8 close)) s))

/-- FLAG_WORD_RECEIVE (R295): the oldest FLAG_WORD delivered at a port. -/
def execFlagWordReceive (t p : Nat) (s : State) : Host.Outcome State Fault Refusal :=
  let s := s.advance t
  .next (s.onClerk (match s.takeLocal p (clerkMail 1) with
    | none => s
    | some (m, s) =>
      let j := mailJob m
      match s.job j with
      | none => s
      | some jb => match jb.steps.find? fun x => x.n % 2 ^ 48 = clerkStep m with
        | none => s
        | some x =>
          let src := (routeOf m.body).src
          let w := (src, leAt m.body 16 2, leAt m.body 20 8)
          (s.setJob j (jb.updStep x.n fun x => { x with peers := (x.peers.filter fun q => q.1 != src) ++ [w] })).chooseGuard
            t j x.n))

/-- GUARD_PEER_DEADLINE (R295): at `g - 512`, with words still missing, the resolution is deferred. -/
def execGuardPeerDeadline (j : Nat) (s : State) : Host.Outcome State Fault Refusal :=
  .next (s.on (match s.job j with
    | none => s
    | some jb => match jb.steps.find? fun x => x.closed.isSome && x.due.isNone && !x.deferred with
      | none => s
      | some x =>
        let s := s.advance ((jb.guardTick x x.lastClose).1 - 512)
        if jb.allWords x then s else s.setJob j (jb.updStep x.n fun x => { x with deferred := true })))

/-! ### Arming (R294, R308) -/

/-- Pages that take a resolution: every hub's COMMIT_CTRL and every compute die's PROV_RESOLVE, as page type, instance
and first offset. -/
def resolvePages : List (PageTy × Nat × Nat) :=
  (List.range 4).map (fun h => (.hdie, h, 0x360)) ++ (List.range 12).map fun d => (.cdie, d, 0x104)

/-- The first entry that is free on every page. -/
def State.freeResolve (s : State) : Option Nat :=
  (List.range 8).find? fun i => resolvePages.all fun q => bits (s.shadowOf q.1 q.2.1 (q.2.2 + 4 * i)) 7 6 = 0

/-- The resolution of a step is written into entry `i` everywhere and committed. -/
def State.writeResolve (s : State) (i j n : Nat) (commit : Bool) : State :=
  resolvePages.foldl (fun s q =>
    (s.shadow q.1 q.2.1 (q.2.2 + 4 * i) (j % 64 + 2 ^ 6 * (if commit then 1 else 2) + 2 ^ 8 * (n % 65536))).requestCommit q.1
      q.2.1) s

/-- The guard tick of a step moves to a later boundary, with GUARD_LATE. -/
def State.postponeGuard (s : State) (j n g : Nat) : State :=
  match s.job j with
  | none => s
  | some jb => (s.setJob j (jb.updStep n fun x => { x with due := some g })).guardLate j n

/-- The decision of R294: commit where no flag of the guard mask is raised on any device. -/
def StepSt.commits (x : StepSt) : Bool := (x.peers.foldl (fun a q => a ||| q.2.1) x.word) &&& x.guard = 0

/-- A step whose guard tick is `g` is armed at tick `t`, or its guard moves on (R293, R294, R308). -/
def State.armStep (s : State) (j : Nat) (x : StepSt) (g : Nat) : State :=
  match s.freeResolve, s.job j with
  | some i, some jb =>
    (s.setJob j (jb.updStep x.n fun y => { y with armed := some (g, x.commits) })).writeResolve i j x.n x.commits
  | _, _ => s.postponeGuard j x.n (g + 4096)

/-- GUARD_ARM (R294): `delay` rounds later where the arming cannot reach every hub and die before the chosen boundary. -/
def execGuardArm (t j delay : Nat) (s : State) : Host.Outcome State Fault Refusal :=
  let s := s.advance t
  .next (s.onClerk (match s.job j with
    | none => s
    | some jb => match jb.steps.find? fun x => x.armed.isNone with
      | none => s
      | some x => match x.due with
        | none => s
        | some g =>
          if x.abort.isSome || decide (t + jb.lead < g) then s
          else
            let reach := if t < g then g else (t / 4096 + 1) * 4096
            if delay != 0 then s.postponeGuard j x.n (reach + 4096 * delay)
            else
              let s := if reach = g then s else s.postponeGuard j x.n reach
              if t + 4096 < reach then s else s.armStep j x reach))

end Sys2Proof.Machine
end

