-- ==== Sys2Proof/Machine/Boundary.lean ====
section
/-! DEFINITION. ROUND_BOUNDARY (R28, R36, R44, R45, R126, R296, R298, R302, R308, R312, R313, R383, R464): what takes effect
together at a multiple of 4,096 ticks. -/
namespace Sys2Proof.Machine

/-! ### Resolutions in force (R307 to R309) -/

/-- An entry of PROV_RESOLVE or COMMIT_CTRL in force: job, low 16 bits of the step, and whether it commits. -/
def resolveEntry (w : Nat) : Option (Nat × Nat × Bool) :=
  match bits w 7 6 with
  | 1 => some (bits w 5 0, bits w 23 8, true)
  | 2 => some (bits w 5 0, bits w 23 8, false)
  | _ => none

/-- The entries in force on a page. -/
def Page.resolves (pg : Page) (p : PageTy) (i o : Nat) : List (Nat × Nat × Bool) :=
  (List.range 8).filterMap fun k => resolveEntry (pg.word p i (o + 4 * k)).toNat

/-- The action fields of the live and the shadow copies of every entry that applies become 0 (R308); reserved action 3 is none and
stays. -/
def Page.clearActions (pg : Page) (o : Nat) : Page :=
  let f (l : List (Nat × W32)) : List (Nat × W32) := l.map fun (q : Nat × W32) =>
    if o ≤ q.1 && q.1 < o + 32 && (resolveEntry (sgetD pg.live q.1 0#32).toNat).isSome then (q.1, q.2 &&& 0xFFFFFF3F#32) else q
  { pg with live := f pg.live, shadow := f pg.shadow }

/-- Full number of a step of a job from its low 16 bits; the bits themselves where no step of the job has them. -/
def State.stepNumber (s : State) (j low : Nat) : Nat :=
  match s.job j with
  | some jb => ((jb.steps.find? fun x => x.n % 65536 = low).map (·.n)).getD low
  | none => low

/-- A hub applies one entry of COMMIT_CTRL at boundary `B` (R298, R309, R312, R313). -/
def State.resolveHub (s : State) (B h : Nat) (r : Nat × Nat × Bool) : State :=
  let groups := ((s.job r.1).map Job.groups).getD []
  let n := s.stepNumber r.1 r.2.1
  let hb := s.hub h
  let s := s.setHub h (if r.2.2 then hb.commitStep r.1 n B groups else hb.discard r.1 n B groups true)
  s.count (pageNo .hdie h) (if r.2.2 then 0x90 else 0x98) (hb.unitsOf r.1)

/-- A hub applies its entries, and their actions clear. -/
def State.hubBoundary (s : State) (B h : Nat) : State :=
  let pg := s.page (pageNo .hdie h)
  let l := pg.resolves .hdie h 0x360
  if l.isEmpty then s
  else
    let s := l.foldl (fun s r => s.resolveHub B h r) s
    s.setPage (pageNo .hdie h) ((s.page (pageNo .hdie h)).clearActions 0x360)

/-! ### A step is resolved (R296) -/

/-- State of a job by its unresolved steps (R422): RERUNNING, RUNNING or IDLE. -/
def Job.settled (jb : Job) : Job :=
  if jb.state = 0 || 5 ≤ jb.state then jb
  else { jb with state :=
    if jb.steps.isEmpty then 1 else if jb.steps.any fun x => x.abort.isSome || x.attempt != 0 then 3 else 2 }

/-- An armed step of a job resolves at boundary `B`. -/
def State.resolveStep (s : State) (B j : Nat) (x : StepSt) (commit : Bool) : State :=
  match s.job j with
  | none => s
  | some jb =>
    let s := s.setJob j (Job.settled { jb with
      steps := jb.steps.filter fun y => y.n != x.n, resolved := max jb.resolved x.n, resolvedAt := B
      resolution := if commit then 1 else 2 })
    let s := if commit then (s.advanceGroups x.groups).charge j 0xA8 1
      else (s.charge j 0xB0 1).raise (s.mkEv 0x6302 0 (some j) .clerk 0 (x.n % 2 ^ 32)
        (x.peers.foldl (fun a q => a ||| q.2.1) x.word))
    let s := s.sealsOf B j jb.resolved x.n commit
    s.finish x.seq (if commit then 0 else 4) (if commit then 0 else 0x6302) (x.closed.getD 0) jb.rate x.made (some j)

/-- Every step armed for `B` resolves. -/
def State.resolveSteps (s : State) (B : Nat) : State :=
  s.jobs.foldl (fun s (q : Nat × Job) => q.2.steps.foldl (fun s x =>
    match x.armed with
    | some (g, c) => if g ≤ B then s.resolveStep B q.1 x c else s
    | none => s) s) s

/-! ### Commits with an effect beside the page's own -/

/-- A committed LINK_CONFIG (R362): enable and fence; a LOST port waits for RETRAIN (R339). -/
def State.linkConfig (s : State) (B p : Nat) : State :=
  let c := s.live .aisle p 0x104
  let a := s.aisle p
  if !s.portPresent p || !s.boot.inspected || a.state = 4 then s
  else if !bit c 0 then
    (s.setAisle p { Aisle.empty with queue := a.queue, inbox := a.inbox, local_ := a.local_ }).freeOutput (aisleArb p) 0
  else if a.state = 0 then s.setAisle p { a with state := 1 }
  else if a.state = 3 && bit c 3 then (s.setAisle p { a with state := 6 }).freeOutput (aisleArb p) 0
  else if a.state = 6 && !bit c 3 then s.enterUp B p
  else s

/-- A committed POLICY page: kmax_held (R468). -/
def State.policyCommit (s : State) : State :=
  { s with clerk := { s.clerk with kHeld := decide (min (bits (s.live .policy 0 0x104) 5 0) 56 < s.clerk.kFloor) } }

/-- A committed BELL page brings the master position of a SET_POLICY (R440). -/
def State.takeMaster (s : State) : State :=
  match s.bell.masterNext with
  | some (p, false) => { s with bell := { s.bell with masterPos := p, masterNext := none } }
  | _ => s

/-- A committed page that is no STALL page takes effect (R464). -/
def State.commitOne (s : State) (B n : Nat) : State :=
  match findPage allPageTys n with
  | none => s
  | some (p, i) =>
    let was := bit (s.live .trace 0 0x100) 0
    let s := s.setPage n ((s.page n).apply p i)
    match p with
    | .aisle => s.linkConfig B i
    | .policy => s.policyCommit
    | .bell => s.takeMaster.squareState
    | .trace => if !was && bit (s.live .trace 0 0x100) 0 then { s with trace := { s.trace with seq := 0 } } else s
    | _ => s

/-- Every page with a pending COMMIT takes it, STALL pages apart, and then what reached it in the boundary's tick (R464). -/
def State.commitPages (s : State) (B : Nat) : State :=
  let s := (s.pages.filter fun (q : Nat × Page) => q.2.commit).foldl (fun s q => s.commitOne B q.1) s
  { s with
    pages := s.pages.map fun (q : Nat × Page) => (q.1, q.2.takeLate)
    bell := { s.bell with masterNext := s.bell.masterNext.map fun q => (q.1, false) } }

/-! ### Stalls -/

/-- The stream fetchers stop filling the sub-queues of a stall whose slots an abort empties at this boundary (R130). -/
def State.stopFetches (s : State) (sn : Nat) : State :=
  let st := s.stall sn
  (List.range 8).foldl (fun s k =>
    if !(st.slotSt k).abortReq then s
    else match s.job (st.jobSlot k).job with
      | some jb => s.setJob (st.jobSlot k).job { jb with fetched := jb.fetched.filter fun q => q.1 / 4 != sn }
      | none => s) s

/-- Every stall at boundary `B`, with its die's entries of PROV_RESOLVE; the entries' actions clear. -/
def State.stallBoundaries (s : State) (B : Nat) (masked : Bool) : State :=
  let res (d : Nat) : List (Nat × Nat × Bool) := (s.page (pageNo .cdie d)).resolves .cdie d 0x104
  let all := (List.range 12).map res
  let s := s.stalls.foldl (fun s (q : Nat × Stall) =>
    (s.stopFetches q.1).onStall B q.1 fun st => st.boundary q.1 B masked (all.getD (q.1 / 128) [])) s
  (List.range 12).foldl (fun s d =>
    if (all.getD d []).isEmpty then s
    else s.setPage (pageNo .cdie d) ((s.page (pageNo .cdie d)).clearActions 0x104)) s

/-- Rota entries that jobs own on a stall, over its engines, and the owners that are not suspended there (R383). -/
def Stall.owned (st : Stall) (j : Nat) : Nat :=
  let susp := match st.slotOf j with | some k => (st.jobSlot k).suspended | none => false
  if susp then 0
  else st.rotaShare j

/-- RESERVED_TICKS of the round that starts (R383). -/
def State.chargeReserved (s : State) (masked : Bool) : State :=
  if masked then s
  else s.openJobs.foldl (fun s j =>
    match s.job j with
    | some jb =>
      let n := (jb.stalls.map fun sn => (s.stall sn).owned j).sum
      if n = 0 then s else s.charge j 0x60 (64 * n)
    | none => s) s

/-- Banks of a reset stall go back to their owners, and its slots are armed (R408). -/
def State.rebankOne (s : State) (sn : Nat) (owners : List Nat) : State :=
  let st := s.stall sn
  ((s.setStall sn ((List.range 8).foldl (fun st k => st.rerunArm k) st)).shadows .stall sn 0x160 owners).requestCommit .stall sn

/-- Every reset stall whose banks are due. -/
def State.rebank (s : State) (B : Nat) : State :=
  let due (q : Nat × Nat × List Nat) : Bool := decide (q.2.1 ≤ B)
  let l := s.clerk.rebank.filter due
  l.foldl (fun s q => s.rebankOne q.1 q.2.2)
    { s with clerk := { s.clerk with rebank := s.clerk.rebank.filter fun q => !due q } }

/-! ### The boundary -/

/-- A SET_POLICY that is to acquire writes ACQUIRE once its COMMIT has taken effect (R42, R440). -/
def State.startAcquire (s : State) : State :=
  if s.clerk.acquiring.isSome && !s.bell.acqPending then
    { s with bell := { s.bell with acqPending := true, acqRefused := false } }
  else s

/-- What takes effect at round boundary `B`. `k_applied` is formed by the SYNC_CONFIG in force before the boundary's commits
(DESIGN CHOICE, log entry 58). -/
def State.roundAt (s : State) (B : Nat) : State :=
  let s := (s.advance B).applyK B
  let masked := decide (bitrev6 (B / 4096 % 64) < s.bell.kApplied)
  let s := { s with bell := { s.bell with masked := masked, nextRound := B + 4096 } }
  let s := s.count (pageNo .bell 0) 0x58 (b2n masked)
  let s := ((s.commitPages B).stallBoundaries B masked).noteQuiet s
  let s := (List.range 4).foldl (fun s h => s.hubBoundary B h) s
  (((s.resolveSteps B).rebank B).chargeReserved masked).startAcquire

/-- ROUND_BOUNDARY (R28). -/
def execRoundBoundary (s : State) : Host.Outcome State Fault Refusal :=
  .next (s.on (if s.clocked then s.roundAt s.bell.nextRound else s))

end Sys2Proof.Machine
end

