-- ==== Sys2Proof/Machine/Fetch.lean ====
section
/-! DEFINITION. The stream fetchers of the hubs (R20, R430, R446) and the line cache on H0 (R20, R433, R434). -/
namespace Sys2Proof.Machine

/-- Lines that the 8 MiB line cache holds (R20). -/
def cacheLines : Nat := 131072

/-- A line enters the line cache, without data while it is asked for; a full cache drops the line that it took first (log entry
67). -/
def State.cacheLine (s : State) (a : Nat) (d : Option (List Byte)) : State :=
  let rest := s.rings.lines.filter fun x => x.1 != a
  { s with rings := { s.rings with lines := (rest ++ [(a, d)]).drop (rest.length + 1 - cacheLines) } }

/-- A line leaves the line cache. -/
def State.dropLine (s : State) (a : Nat) : State := { s with rings := { s.rings with lines := s.rings.lines.filter fun x => x.1 != a } }

/-- The data of a line that the line cache holds. -/
def State.cached (s : State) (a : Nat) : Option (List Byte) := (sget s.rings.lines a).bind id

/-- Is a job's image held in the line cache (R434, R446)? -/
def State.caches (s : State) (jb : Job) : Bool := jb.cacheable && s.lineCache

/-- A line of a stream is asked for through half-port `h` in the job's class pool, unless the line cache holds it; a line of
a cacheable image is read as shared, to be cached (R430, R433, R446). A line fetched is charged to the job (R383). -/
def State.fetchLine (s : State) (h j : Nat) (jb : Job) (a : Nat) : State :=
  if s.caches jb && (s.cached a).isSome then s
  else
    let s := (s.sendSlot h ⟨if s.caches jb then 2 else 1, jb.cls, 0, a, 0#64, [], 0, some j⟩).charge j 0x98 64
    if s.caches jb then s.cacheLine a none else s

/-- Addresses of the lines of chunk `c` of a stream that starts at `base`. -/
def chunkLines (base c : Nat) : List Nat := (List.range 64).map fun i => base + 4096 * c + 64 * i

/-- The stream of a job for an engine of a stall: its address, where the image has one. -/
def Job.streamAt (jb : Job) (sn e : Nat) : Option Nat :=
  match jb.image, placeAt jb.place sn with
  | some im, some (p, l) => (im.streams.find? fun (q : Nat × Nat × Nat × Nat) => q.1 = p && q.2.1 = l && q.2.2.1 = e).map (·.2.2.2)
  | _, _ => none

/-- The fetcher of a stall's hub asks for chunk `c` of the job's stream of an engine, for step `n`. -/
def State.fetchChunk (s : State) (j sn e n c : Nat) (failed : Bool) : State :=
  match s.job j with
  | none => s
  | some jb => match jb.streamAt sn e with
    | none => s
    | some base =>
      let held := if s.caches jb then (chunkLines base c).filterMap fun a => (s.cached a).map fun d => (a, d) else []
      (chunkLines base c).foldl (fun s a => s.fetchLine (hubOf sn) j jb a)
        (s.setJob j { jb with fetched := sset jb.fetched (sn * 4 + e) ⟨n, c, true, failed, held⟩ })

/-- The bytes of an awaited chunk: `raw` as it was read, and the lines that came from the line cache (R433). -/
def Fetch.bytes (f : Fetch) (base : Nat) (raw : List Byte) : List Byte :=
  ((chunkLines base f.chunk).zipIdx).flatMap fun q => (sget f.held q.1).getD ((raw.drop (64 * q.2)).take 64)

/-- The lines of a chunk that were asked for take their data in the line cache, but for those that an INVAL has dropped since. -/
def State.fillLines (s : State) (base c : Nat) (bytes : List Byte) : State :=
  ((chunkLines base c).zipIdx).foldl (fun s q =>
    if sget s.rings.lines q.1 = some none then s.cacheLine q.1 (some ((bytes.drop (64 * q.2)).take 64)) else s) s

/-- Do a stall's sub-queue of a job and its fetcher hold no word? -/
def Stall.noWords (st : Stall) (j : Nat) (e : Eng) : Bool :=
  match st.slotOf j with
  | some k => ((st.slotSt k).q.get e).words.isEmpty && ((st.slotSt k).feed.get e).isEmpty
  | none => true

/-- The fetchers of a job begin with step `n` (R446): a fetcher at work goes on to it in its turn, and one whose sub-queue is empty
begins with the first step that has not started; at a go (`only`), an empty sub-queue alone is filled. -/
def State.fetchStreams (s : State) (j n : Nat) (only : Bool) : State :=
  match s.job j with
  | none => s
  | some jb =>
    let first := if only then n else ((jb.steps.find? fun x => x.start = 0).map (·.n)).getD n
    jb.stalls.foldl (fun s sn => [Eng.mx, .vx, .pt, .ex].foldl (fun s e =>
      let none' := (s.stall sn).noWords j e
      match (s.job j).bind fun jb => sget jb.fetched (sn * 4 + e.num) with
      | some _ => s
      | none => if none' then s.fetchChunk j sn e.num first 0 false else if only then s else s.fetchChunk j sn e.num n 0 false) s) s

/-- The step whose stream a fetcher takes after that of step `n`: the next one accepted. -/
def Job.nextStream (jb : Job) (n : Nat) : Option Nat := (jb.steps.find? fun x => decide (n < x.n)).map (·.n)

/-- The fetcher has delivered a chunk: it goes on to the next, or past a STEP_END to the next step's stream (R446, log entry 67). -/
def Job.chunkDone (jb : Job) (key : Nat) (f : Fetch) (ended : Bool) : Job :=
  if !ended then { jb with fetched := sset jb.fetched key ⟨f.step, f.chunk + 1, false, false, []⟩ }
  else match jb.nextStream f.step with
    | some m => { jb with fetched := sset jb.fetched key ⟨m, 0, false, false, []⟩ }
    | none => { jb with fetched := sdel jb.fetched key }

/-- A fetcher asks for its next chunk once its sub-queue has room and it holds nothing (R446). -/
def State.fetchOn (s : State) (sn k : Nat) (e : Eng) : State :=
  let st := s.stall sn
  let j := (st.jobSlot k).job
  match (s.job j).bind fun jb => sget jb.fetched (sn * 4 + e.num) with
  | none => s
  | some f =>
    if f.asked || !((st.slotSt k).feed.get e).isEmpty || decide (64 ≤ (st.subq k e).words.length) then s
    else s.fetchChunk j sn e.num f.step f.chunk false

/-- A sub-queue of a stall is filled, and its fetcher asks for more (R109, R446). -/
def State.refill (s : State) (t sn k : Nat) (e : Eng) : State := (s.onStall t sn fun st => st.fill sn t k e).fetchOn sn k e

/-- A chunk that fails its check is fetched once more, past the line cache (R446). -/
def State.fetchAgain (s : State) (j sn e : Nat) (f : Fetch) : State :=
  match s.job j with
  | none => s
  | some jb => match jb.streamAt sn e with
    | none => s
    | some base => ((chunkLines base f.chunk).foldl (fun s a => s.dropLine a) s).fetchChunk j sn e f.step f.chunk true

end Sys2Proof.Machine
end

