-- ==== Sys2Proof/Machine/Registers.lean ====
section
/-! DEFINITION. Writes of the register window (R12, R13, R459, R461 to R466) and what the registers with an effect of
their own do: STEP_CTRL, RING_PTR, CHECK_VAL, RERUN_ARM, XLATE_INVAL, COMMIT, GRP_STEP, LEDGER_CTRL, RETRAIN, ACQUIRE,
BOOT_GO and the ring registers. -/
namespace Sys2Proof.Machine

/-! ### Who may write (R432, R447, R465) -/

/-- The offset that a write to an offset reaches: a shadow offset is its live register's (R463). -/
def liveOffset (o : Nat) : Nat := if 0x800 ≤ o then o - 0x800 else o

/-- Registers that belong to the companion (R465). -/
def companionRegister (p : PageTy) (i o : Nat) : Bool :=
  let l := liveOffset o
  match p with
  | .policy => l = 0x100 || l = 0x104 || l = 0x108 || o = 0x10C || o = 0x010 || o = 0x018
  | .power => l = 0x100 || l = 0x104 || o = 0x108 || o = 0x010 || o = 0x018
  | .trace => l = 0x100 || l = 0x104 || l = 0x108 || l = 0x110 || l = 0x114 || o = 0x010 || o = 0x018
  | .lemef => i = 0 && decide (0x110 ≤ o) && decide (o ≤ 0x14C)
  | .ledger => o = 0x100 || o = 0x108 || o = 0x10C
  | _ => false

/-- The boot registers, the only ones writable in state CLOSED (R447). -/
def bootRegister (p : PageTy) (i o : Nat) : Bool := p = .lemef && i = 0 && decide (0x140 ≤ o) && decide (o ≤ 0x14C)

/-- May an agent write a register: half-ports 4 to 7 for the companion, Clerk cores 0 to 3 (R465, R466)? -/
def State.mayWrite (s : State) (agent : Nat) (p : PageTy) (i o : Nat) : Bool :=
  if s.boot.dev = 0 then decide (4 ≤ agent) && bootRegister p i o
  else companionRegister p i o = decide (4 ≤ agent)

/-! ### Stalls -/

/-- Step number that a go of a slot starts: the step of its job whose start tick is STEP_START (R223). -/
def State.goStep (s : State) (j start : Nat) : Nat :=
  match s.job j with
  | some jb => match jb.steps.find? fun x => x.start = start with
    | some x => x.n
    | none => jb.consumed
  | none => 0

/-- A write of STEP_CTRL (R129, R130, R134). -/
def State.writeStepCtrl (s : State) (t sn : Nat) (v : W32) : State :=
  let k := bits v.toNat 2 0
  let start := (s.stall sn).reg 0x580 + 2 ^ 32 * (s.stall sn).reg 0x584
  let n := s.goStep ((s.stall sn).jobSlot k).job start
  s.onStall t sn fun st =>
    (if v.getLsbD 8 && v.getLsbD 9 then st
     else if v.getLsbD 8 then st.go t k start n
     else if v.getLsbD 9 then st.abort k else st, [])

/-- The registers of a STALL page that are kept elsewhere or act. -/
def State.writeStall (s : State) (t sn o : Nat) (v : W32) : State :=
  let on (f : Stall → Stall) : State := s.onStall t sn fun st => (f st, [])
  if o = 0x100 then on fun st => if v.getLsbD 5 then { st with satSeen := false } else st
  else if o = 0x110 then on fun st => st.writeCheck v
  else if o = 0x588 then s.writeStepCtrl t sn v
  else if 0x5B0 ≤ o && o < 0x5F0 then on fun st => st.writeRingPtr ((o - 0x5B0) / 4) v
  else if o = 0x680 then on fun st => if v.getLsbD 24 then { st with fault := { st.fault with valid := false } } else st
  else s

/-! ### Dies, hubs and the schedule engine -/

/-- A write of CDIE.RERUN_ARM (R404). -/
def State.writeRerunArm (s : State) (t d : Nat) (v : W32) : State :=
  let sn := 128 * d + bits v.toNat 6 0
  if v.getLsbD 12 && s.stallPresent sn then s.onStall t sn fun st => (st.rerunArm (bits v.toNat 10 8), []) else s

/-- A write of XLATE_INVAL (R253, R269). -/
def State.writeXlateInval (s : State) (h : Nat) (v : W32) : State :=
  let w := v.toNat
  if !v.getLsbD 31 then s
  else
    let hb := s.hub h
    s.setHub h { hb with
      cache := hb.cache.filter fun e => !(e.job = bits w 5 0 && (bit w 6 || e.vpn = bits w 30 8)) }

/-- A write of GRP_STEP (R329, R334); a record whose GROUP_VALID bit is clear names no job. -/
def State.writeGrpStep (s : State) (v : W64) : State :=
  let g := bits (s.live .sched 0 0x110) 5 0
  if s.groupValid g && s.jobActive (groupOf (s.groupRecord g)).job then s
  else { s with sched := { s.sched with steps := sset s.sched.steps g v } }

/-- One half of GRP_STEP. -/
def State.writeGrpHalf (s : State) (o : Nat) (v : W32) : State :=
  let old := (sgetD s.sched.steps (bits (s.live .sched 0 0x110) 5 0) 0#64).toNat
  s.writeGrpStep (BitVec.ofNat 64 (if o = 0x118 then old / 2 ^ 32 * 2 ^ 32 + v.toNat else old % 2 ^ 32 + 2 ^ 32 * v.toNat))

/-! ### Ledgers (R365, R385) -/

/-- A write of LEDGER_CTRL: a snapshot is asked for; a CLOSED page is freed and with it the job number. -/
def State.writeLedger (s : State) (j : Nat) (v : W32) : State :=
  let l := s.ledger j
  let s := if v.getLsbD 0 then s.setLedger j { l with snapPend := true, snapDone := false } else s
  if v.getLsbD 1 && l.state = 2 then
    { (s.setPage (pageNo .ledger j) .empty).setLedger j .empty with jobs := sdel s.jobs j }
  else s

/-! ### The companion's rings and boot (R437, R448, R456) -/

/-- A write of RING_CTRL: an enable zeroes the counts, posts what waits and writes the status line (R436, R437). -/
def State.writeRingCtrl (s : State) (v : W32) : State :=
  let pg := pageNo .lemef 0
  let s' := s.setPage pg ((s.page pg).writeRW .lemef 0 0x13C v)
  if v.getLsbD 0 then
    let s' := { s' with rings := { s'.rings with
      sqHead := 0, cqTail := 0, cqHead := 0, eqTail := 0, eqHead := 0, cq := [], eq := [] } }.postEvents 256
    if s'.ringsOn then s'.writeStatus else s'
  else if s.clerk.taken.isEmpty then s' else s

/-- The boot ROM asks for the lines of the image through the half-port of LEMEF0 of the hub that boots (R434, R448). -/
def State.readImage (s : State) : State :=
  (List.range (cdiv (s.live .lemef 0 0x148) 64)).foldl (fun (s : State) i =>
    s.request s.boot.hub 1 (s.lemefReg 0x140 + 64 * i) []) s

/-- Are the sizes of a RING_SIZES word in their ranges (R435)? -/
def ringSizesOk (v : Nat) : Bool :=
  decide (4 ≤ bits v 3 0) && decide (bits v 3 0 ≤ 12) && decide (5 ≤ bits v 7 4) && decide (bits v 7 4 ≤ 14)
    && decide (5 ≤ bits v 11 8) && decide (bits v 11 8 ≤ 14)

/-- A write of a register of LEMEF0. -/
def State.writeLemef (s : State) (o : Nat) (v : W32) : State :=
  let pg := pageNo .lemef 0
  let s' := s.setPage pg ((s.page pg).writeRW .lemef 0 o v)
  if o = 0x14C then
    if v.getLsbD 0 && s.boot.phase = 1 then { s with boot := { s.boot with phase := 2 } }.readImage else s
  else if o = 0x13C then s.writeRingCtrl v
  else if 0x140 ≤ o then s'
  else if bit (s.live .lemef 0 0x13C) 0 then s
  else if o = 0x138 && !ringSizesOk v.toNat then s
  else s'

/-! ### A write -/

/-- A write of a common register (R462, R464). -/
def State.writeCommon (s : State) (pg : Nat) (p : PageTy) (i o : Nat) (v : W32) : State :=
  let x := s.page pg
  if o = 0x010 then if v.getLsbD 0 then s.setPage pg (x.request s.atBoundary) else s
  else if o = 0x018 then s.setPage pg { x with pendingEv := x.pendingEv &&& ~~~(v.setWidth 5) }
  else if o = 0x01C then s.setPage pg (x.writeRW p i o v)
  else if o = 0x020 then s.setPage pg { x with sat := x.sat &&& ~~~v }
  else s

/-- A write of a block register at its live offset. -/
def State.writeBlockReg (s : State) (t : Nat) (p : PageTy) (i o : Nat) (v : W32) : State :=
  let pg := pageNo p i
  let plain := s.setPage pg (((s.page pg).writeRW p i o v).writeShadow p i o v s.atBoundary)
  match p with
  | .stall => if o = 0x100 || o = 0x110 || o = 0x588 || (decide (0x5B0 ≤ o) && decide (o < 0x5F0)) || o = 0x680
      then s.writeStall t i o v else plain
  | .cdie => if o = 0x130 then s.writeRerunArm t i v else plain
  | .hdie => if o = 0x300 then s.writeXlateInval i v else plain
  | .sched => if o = 0x118 || o = 0x11C then s.writeGrpHalf o v else plain
  | .aisle => if o = 0x11C then (if v.getLsbD 0 then s.retrainAisle i else s) else plain
  | .bell => if o = 0x128 then s.acquire v else plain
  | .power => if o = 0x108 then (if v.getLsbD 8 then { s with pins := { s.pins with lastTrip := false } } else s) else plain
  | .ledger => if o = 0x100 then s.writeLedger i v else plain
  | .lemef => if i = 0 then s.writeLemef o v else plain
  | _ => plain

/-- A write that is accepted takes effect. -/
def State.applyWrite (s : State) (t : Nat) (p : PageTy) (i o : Nat) (v : W32) : State :=
  if o < 0x40 then s.writeCommon (pageNo p i) p i o v
  else if 0x800 ≤ o then s.setPage (pageNo p i) ((s.page (pageNo p i)).writeShadow p i (o - 0x800) v s.atBoundary)
  else s.writeBlockReg t p i o v

/-- Is a write refused (R432, R459, R461)? -/
def State.writeRefused (s : State) (agent addr : Nat) : Bool :=
  match pageOf addr with
  | none => true
  | some (p, i) => !s.pagePresent p i || !s.mayWrite agent p i (addr % 0x1000)

/-- A 4-byte write by an agent at tick `t`; a companion's refused write also counts in ACCESS_REFUSED. -/
def State.writeReg (s : State) (t agent addr : Nat) (v : W32) : State :=
  let refuse (s : State) : State := if 4 ≤ agent then s.count (lemefPage (agent - 4)) 0x68 1 else s
  match pageOf addr with
  | none => refuse (s.count (pageNo .device 0) 0x48 1)
  | some (p, i) =>
    if !s.pagePresent p i then refuse (s.count (pageNo .device 0) 0x40 1)
    else if !s.mayWrite agent p i (addr % 0x1000) then refuse s
    else s.applyWrite t p i (addr % 0x1000) v

/-- Address of a register. -/
def regAddr (p : PageTy) (i o : Nat) : Nat := pageNo p i * 0x1000 + o

/-! ### The commands -/

/-- STEP_CTRL_GO (R129): a write of STEP_CTRL by the Clerk. -/
def execStepCtrlGo (t sn : Nat) (v : W32) (s : State) : Host.Outcome State Fault Refusal :=
  let s := s.advance t
  .next (s.on (s.writeReg t s.primary (regAddr .stall sn 0x588) (v ||| 0x100#32)))

/-- STEP_CTRL_ABORT (R130): a write of STEP_CTRL by the Clerk; with go also set it is ignored. -/
def execStepCtrlAbort (t sn : Nat) (v : W32) (s : State) : Host.Outcome State Fault Refusal :=
  let s := s.advance t
  .next (s.on (s.writeReg t s.primary (regAddr .stall sn 0x588) (v ||| 0x200#32)))

/-- RING_PTR_WRITE (R194). -/
def execRingPtrWrite (t sn r : Nat) (v : W32) (s : State) : Host.Outcome State Fault Refusal :=
  let s := s.advance t
  .next (s.on (s.writeReg t s.primary (regAddr .stall sn (0x5B0 + 4 * r)) v))

/-- CHECK_VAL_WRITE (R227). -/
def execCheckValWrite (t sn : Nat) (v : W32) (s : State) : Host.Outcome State Fault Refusal :=
  let s := s.advance t
  .next (s.on (s.writeReg t s.primary (regAddr .stall sn 0x110) v))

/-- RERUN_ARM (R404). -/
def execRerunArm (t d : Nat) (v : W32) (s : State) : Host.Outcome State Fault Refusal :=
  let s := s.advance t
  .next (s.on (s.writeReg t s.primary (regAddr .cdie d 0x130) v))

/-- XLATE_INVAL (R253). -/
def execXlateInval (t h : Nat) (v : W32) (s : State) : Host.Outcome State Fault Refusal :=
  let s := s.advance t
  .next (s.on (s.writeReg t s.primary (regAddr .hdie h 0x300) v))

/-- COMMIT (R464): a write of a page's COMMIT register. -/
def execCommit (t agent page : Nat) (v : W32) (s : State) : Host.Outcome State Fault Refusal :=
  let s := s.advance t
  .next (s.on (s.writeReg t agent (page * 0x1000 + 0x010) v))

/-- GRP_STEP_WRITE (R329, R334): a write of both words of GRP_STEP. -/
def execGrpStepWrite (t : Nat) (v : W64) (s : State) : Host.Outcome State Fault Refusal :=
  let s := s.advance t
  .next (s.on (if s.boot.dev = 0 then s else s.writeGrpStep v))

/-- LEDGER_SNAP (R385). -/
def execLedgerSnap (t agent j : Nat) (s : State) : Host.Outcome State Fault Refusal :=
  let s := s.advance t
  .next (s.on (s.writeReg t agent (regAddr .ledger j 0x100) 1#32))

/-- LEDGER_RELEASE (R365, R385). -/
def execLedgerRelease (t agent j : Nat) (s : State) : Host.Outcome State Fault Refusal :=
  let s := s.advance t
  .next (s.on (s.writeReg t agent (regAddr .ledger j 0x100) 2#32))

/-- AISLE_RETRAIN (R339, R362): a write of RETRAIN by the Clerk. -/
def execAisleRetrain (t p : Nat) (v : W32) (s : State) : Host.Outcome State Fault Refusal :=
  let s := s.advance t
  .next (s.on (s.writeReg t s.primary (regAddr .aisle p 0x11C) v))

/-- BOOT_GO (R448): outside WAIT_IMAGE it is ignored. -/
def execBootGo (t agent : Nat) (v : W32) (s : State) : Host.Outcome State Fault Refusal :=
  let s := s.advance t
  .next (s.on (s.writeReg t agent (regAddr .lemef 0 0x14C) v))

/-- RING_CTRL_ENABLE (R437). -/
def execRingCtrlEnable (t agent : Nat) (v : W32) (s : State) : Host.Outcome State Fault Refusal :=
  let s := s.advance t
  .next (s.on (s.writeReg t agent (regAddr .lemef 0 0x13C) v))

/-- REGISTER_WRITE (R12, R463, R465). -/
def execRegisterWrite (t agent addr : Nat) (v : W32) (s : State) : Host.Outcome State Fault Refusal :=
  let s := s.advance t
  .next (s.on (s.writeReg t agent addr v))

end Sys2Proof.Machine
end

