-- ==== Sys2Proof/Machine/Commands.lean ====
section
/-! DEFINITION. Taking descriptors from the submission ring (R434 to R436, R442, R444) and running taken commands in their
order (R438, R439, R442, R443). -/
namespace Sys2Proof.Machine

/-! ### Descriptors (R438, R439) -/

/-- Opcode of a descriptor. -/
def descOp (d : List Byte) : Nat := descField d 0 1

/-- Job byte of a descriptor. -/
def descJob (d : List Byte) : Nat := descField d 2 1

/-- Sequence number of a descriptor. -/
def descSeq (d : List Byte) : Nat := descField d 8 8

/-- The opcodes that name no job. -/
def plainOpcodes : List Nat := [0x01, 0x10, 0x11, 0x12, 0x20, 0x7E, 0x7F]

/-- The commands that act on taking (R443). -/
def urgentOpcodes : List Nat := [0x05, 0x06, 0x08, 0x09]

/-- Body bytes that an opcode uses, as runs of first byte and length. -/
def bodyRuns (op : Nat) : List (Nat × Nat) :=
  match op with
  | 0x01 => [(32, 3), (36, 28)]
  | 0x02 => [(32, 21)]
  | 0x03 => [(32, 22)]
  | 0x04 => [(32, 10), (44, 4)]
  | 0x05 => [(32, 8)]
  | 0x10 => [(32, 1), (34, 2)]
  | 0x11 => [(32, 2)]
  | 0x12 => [(32, 2)]
  | 0x20 => [(32, 32)]
  | 0x30 => [(32, 6)]
  | 0x7E => [(32, 9), (48, 40)]
  | 0x7F => [(32, 12)]
  | _ => []

/-- Are the bytes that no field of the command uses all 0? -/
def unusedZero (d : List Byte) : Bool :=
  let used (i : Nat) : Bool :=
    decide (i < 3) || (decide (8 ≤ i) && decide (i < 24)) || decide (124 ≤ i)
      || (bodyRuns (descOp d)).any fun r => decide (r.1 ≤ i) && decide (i < r.1 + r.2)
  (d.zipIdx).all fun q => used q.2 || q.1 = 0#8

/-- The body of a JOB_MAP: its flags and the fields that only a hall mapping uses (R264, R317, R439). -/
def mapBodyOk (d : List Byte) : Bool :=
  let f := descField d 48 1
  let va := descField d 32 8
  let n := descField d 40 8
  decide (f < 16) && (bit f 3 || (descField d 49 1 = 0 && descField d 52 2 = 0)) && !(bit f 3 && bit f 1)
    && va % 2 ^ 21 = 0 && n % 2 ^ 21 = 0 && decide (va + n ≤ gradWindow)

/-- The body of a TWIN_BIND (R356). -/
def twinBodyOk (d : List Byte) : Bool :=
  let path := descField d 35 1
  decide (descField d 34 1 < 2) && (decide (path < 12) || path = 15) && (descField d 32 2 = 0 || descField d 36 2 != 0)

/-- The body of a SET_POLICY: its reserved bits (R440). -/
def policyBodyOk (d : List Byte) : Bool :=
  decide (descField d 32 1 < 16) && decide (descField d 33 1 < 64) && decide (descField d 35 1 < 64)
    && decide (descField d 36 2 < 4096) && decide (descField d 38 2 < 4096)
    && (List.range 12).all fun i => decide (descField d (40 + 2 * i) 2 < 2048)

/-- Do the fields of a command hold defined values (R399, R439, R442)? -/
def bodyOk (d : List Byte) : Bool :=
  match descOp d with
  | 0x01 => decide (descField d 33 1 ≤ 5) && decide (descField d 34 1 < 2)
  | 0x02 => decide (descField d 52 1 < 2)
  | 0x03 => mapBodyOk d
  | 0x10 => decide (descField d 32 1 ≤ 2)
  | 0x20 => policyBodyOk d
  | 0x30 => twinBodyOk d
  | 0x7E => decide (descField d 40 1 < 2)
  | _ => true

/-- Is a descriptor well formed (R438, R439, R442, R444)? -/
def descOk (d : List Byte) : Bool :=
  d.length = 128 && (check32 (d.take 124)).toNat = leAt d 124 4 && (jobOpcode (descOp d) || plainOpcodes.contains (descOp d))
    && decide (descField d 1 1 < 4) && (!bit (descField d 1 1) 0 || descOp d = 0x10)
    && (if jobOpcode (descOp d) then decide (descJob d < 64) else descJob d = 0)
    && descSeq d != 0 && unusedZero d && bodyOk d

/-! ### Taking (R436, R442, R444) -/

/-- A descriptor whose sequence number is not above H (R444). -/
def State.takeRepeat (s : State) (d : List Byte) : State :=
  let q := descSeq d
  let s := s.raise (s.mkEv 0x6202 0 none .clerk 0 0 (q % 2 ^ 64))
  if (s.takenBy q).isSome then
    { s with clerk := { s.clerk with taken := s.clerk.taken ++ [⟨d, q, false, true⟩] } }
  else match s.clerk.results.find? fun r => r.seq = q with
    | some r => s.writeCompletion d 6 0x6202 (descJob d) 0 0 r.status r.result.toNat
    | none => s.writeCompletion d 6 0x6202 (descJob d) 0 0 0xFF 0

/-- One descriptor is taken; a malformed one completes INVALID (R442). -/
def State.takeOne (s : State) (d : List Byte) : State :=
  let s := { s with rings := { s.rings with sqHead := s.rings.sqHead + 1 } }
  let s := s.count (pageNo .clerk 0) 0x40 1
  if !descOk d then (s.raise (s.mkEv 0x6203 0 none .clerk 0 0 (descSeq d % 2 ^ 64))).writeCompletion d 7 0x6203 (descJob d) 0 0 0 0
  else if descSeq d ≤ s.clerk.high then s.takeRepeat d
  else { s with clerk := { s.clerk with high := descSeq d, taken := s.clerk.taken ++ [⟨d, descSeq d, false, false⟩] } }

/-- Descriptors are taken in order while the doorline names more and a completion entry can be reserved (R436). -/
def State.takeDescs (s : State) (tail : Nat) : List (List Byte) → State
  | [] => s
  | d :: r =>
    let room := s.cqRoom
    if s.rings.sqHead < tail && room then
      let a := s.lemefReg 0x110 + 128 * (s.rings.sqHead % 2 ^ s.ringLogs.1)
      (((s.request s.primary 1 a []).request s.primary 1 (a + 64) []).takeOne d).takeDescs tail r
    else s

/-- The Clerk reads the doorline, from the line cache where it holds it, and takes what it names, then posts what the event
ring has room for (R433, R434, R436); `door` is the line in companion memory. -/
def State.readDoor (s : State) (door : List Byte) (descs : List (List Byte)) : State :=
  if !s.ringsOn then s
  else
    let head := s.rings.sqHead
    let a := s.lemefReg 0x128
    let held := if s.lineCache then s.cached a else none
    let s := if held.isSome then s
      else if s.lineCache then (s.request 0 2 a []).cacheLine a (some door) else s.request s.primary 1 a []
    let door := held.getD door
    let s := { s with rings := { s.rings with cqHead := leAt door 8 8, eqHead := leAt door 16 8 } }
    let s := s.takeDescs (leAt door 0 8) descs
    if s.rings.sqHead = head then s.post else (s.writeStatus).post

/-- The INVAL of a line that waits at a half-port is taken: its tag and pool. -/
def State.takeInval (s : State) (h a : Nat) : (Nat × Nat) × State :=
  let f := s.half h
  match lfind (fun b => (slotOf b).ty = 6 && (slotOf b).addr = a) f.inbox 0 with
  | some (i, b) => (((slotOf b).tag, (slotOf b).pool), (s.setHalf h { f with inbox := ldel f.inbox i }).oweSlot h (slotOf b).pool)
  | none => ((0, 0), s)

/-- DOORLINE_INVAL (R433, R436): an INVAL of the doorline drops the line, is acknowledged, and wakes the Clerk. -/
def execDoorlineInval (t h : Nat) (door : List Byte) (descs : List (List Byte)) (s : State) : Host.Outcome State Fault Refusal :=
  let s := s.advance t
  .next (s.on (if !s.lineCache || (s.half h).state != 2 then s
    else
      let a := s.lemefReg 0x128
      let q := s.takeInval h a
      let s := q.2.count (lemefPage h) 0x70 1
      let s := (s.dropLine a).sendSlot h ⟨7, q.1.2, q.1.1, a, 0#64, [], 0, none⟩
      s.readDoor door descs))

/-- The primary Clerk's firmware refreshes its watchdog as it polls (R413, R471; log entry 51). -/
def State.refreshDog (s : State) : State :=
  if s.boot.dev = 0 || !s.clerk.serving then s else s.refreshed

/-- DOORLINE_POLL (R434, R436): without the line cache, and at every heartbeat, the Clerk reads the doorline; with
its firmware at work its watchdog is refreshed. -/
def execDoorlinePoll (t : Nat) (door : List Byte) (descs : List (List Byte)) (s : State) : Host.Outcome State Fault Refusal :=
  .next (s.on (((s.advance t).refreshDog).readDoor door descs))

/-! ### The order of commands (R438, R443) -/

/-- Is the step of a started STEP_RUN closed (R304)? -/
def State.stepClosed (s : State) (x : Taken) : Bool :=
  match s.job (descJob x.desc) with
  | some jb => jb.steps.any fun y => y.seq = x.seq && y.closed.isSome && y.abort.isNone
  | none => false

/-- May a taken command start (R438, R443)? -/
def State.mayStart (s : State) (x : Taken) : Bool :=
  let earlier := s.clerk.taken.takeWhile fun y => y != x
  let op := descOp x.desc
  if bit (descField x.desc 1 1) 1 && !earlier.isEmpty then false
  else if urgentOpcodes.contains op then true
  else if jobOpcode op then
    match earlier.filter fun y => !y.dup && jobOpcode (descOp y.desc) && descJob y.desc = descJob x.desc with
    | [] => true
    | [y] => op = 0x04 && descOp y.desc = 0x04 && s.stepClosed y
    | _ => false
  else earlier.all fun y => y.dup || jobOpcode (descOp y.desc) || s.clerk.selfq.contains y.seq

/-- A refused JOB_OPEN counts in REFUSALS (R471). -/
def State.countRefusal (s : State) (op : Nat) : State := if op = 0x01 then s.count (pageNo .clerk 0) 0x58 1 else s

/-- A taken command of opcode `op` runs `f` where it may start and its device state and job allow (R442, R443). -/
def State.runCommand (s : State) (t seq op : Nat) (f : State → Taken → State) : State :=
  let s := s.advance t
  match s.takenBy seq with
  | none => s
  | some x =>
    let j := descJob x.desc
    if descOp x.desc != op || !s.clerk.serving || s.boot.dev = 0 || !s.mayStart x then s
    else if s.boot.dev != 2 && op != 0x7E && op != 0x7F then
      ((s.raise (s.mkEv 0x6204 0 none .clerk 0 0 (seq % 2 ^ 64))).countRefusal op).finish seq 2 0x6204 0 0 0 none
    else if !jobOpcode op then f s x
    else if !s.openJobs.contains j then s.finish seq 2 0x6201 0 0 0 none
    else match s.job j with
      | some jb => if jb.state = 5 && op != 0x06 then s.finish seq 2 jb.failure 0 0 0 none else f s x
      | none => s

/-- A taken command is marked as started. -/
def State.markStarted (s : State) (seq : Nat) : State :=
  { s with clerk := { s.clerk with taken := s.clerk.taken.map fun y => if y.seq = seq && !y.dup then { y with started := true } else y } }

/-- REFUSED or FAILED with a cause and nothing else. -/
def State.refuse (s : State) (seq cause : Nat) : State := s.finish seq 2 cause 0 0 0 none

end Sys2Proof.Machine
end

