-- ==== Sys2Proof/Machine/Gradient.lean ====
section
/-! DEFINITION. Gradients on their way to an update unit: binary16 and the compressed formats (R326, R350, R351), the
unit's memory (R311, R315, R327), frames and egress (R317 to R319), and GRAD and WCOPY messages (R352 to R354). -/
namespace Sys2Proof.Machine

/-! ### binary16 and compressed blocks (R326, R350, R351) -/

/-- A binary16 pattern widened exactly. -/
def half32 (x : Nat) : W32 :=
  match unpackIeee 5 10 (x % 65536) with
  | some d => f32 d
  | none => if x % 1024 = 0 then inf32 (bit x 15) else qnan

/-- An FP32 value rounded to binary16, at most 65,504 in magnitude. -/
def toHalf (x : W32) : Nat :=
  match num32 x with
  | .fin d =>
    let e := roundTo 11 (-24) d
    if Dy.magLt ⟨false, 65504, 0⟩ e then b2n d.neg * 32768 + 0x7BFF else packIeee 5 10 e
  | .inf n => b2n n * 32768 + 0x7BFF
  | .nan _ => 0x7E00

/-- Does the magnitude exceed 65,504 (R326)? -/
def halfSat (x : W32) : Bool := match num32 x with | .fin d => Dy.magLt ⟨false, 65504, 0⟩ d | _ => true

/-- A SIGN block of 256 values. -/
def signBlock (xs : List W32) : List Byte :=
  let sum := xs.foldl (fun a x => fadd a (fabs x)) 0#32
  leBytes 32 ((xs.zipIdx).foldl (fun a q => a + b2n (q.1.getLsbD 31) * 2 ^ q.2) 0) ++ leBytes 2 (toHalf (fmul sum 0x3B800000#32))

/-- The 256 values that a SIGN block gives. -/
def unSign (b : List Byte) : List W32 :=
  let s := half32 (leAt b 32 2)
  let m := leAt b 0 32
  (List.range 256).map fun i => if bit m i then fneg s else s

/-- The indices a TOPK block lists: the `k` of largest magnitude, ties to the lower index. -/
def topk (xs : List W32) (k : Nat) : List Nat :=
  let mags := xs.map fun x => (fabs x).toNat
  (List.range 256).filter fun i =>
    let m := mags.getD i 0
    decide (((mags.zipIdx).countP fun q => decide (m < q.1) || (q.1 = m && decide (q.2 < i))) < k)

/-- A TOPK block. -/
def topkBlock (xs : List W32) (k : Nat) : List Byte :=
  (topk xs k).flatMap fun i => leBytes 1 i ++ leBytes 2 (toHalf (xs.getD i 0#32))

/-- The 256 values that a TOPK block of `k` entries gives. -/
def unTopk (b : List Byte) (k : Nat) : List W32 :=
  let es := (List.range k).map fun j => (leAt b (3 * j) 1, leAt b (3 * j + 1) 2)
  (List.range 256).map fun i => match es.find? fun e => e.1 = i with
    | some e => half32 e.2
    | none => 0#32

/-- Bytes of a compressed block. -/
def Group.compBytes (g : Group) : Nat := if g.exch = 1 then 34 else 3 * g.topk

/-- The four compressed blocks of a tensor block. -/
def Group.compress (g : Group) (xs : List W32) : List Byte :=
  (List.range 4).flatMap fun q =>
    let b := (xs.drop (256 * q)).take 256
    if g.exch = 1 then signBlock b else topkBlock b g.topk

/-- The 1,024 values that four compressed blocks give. -/
def Group.expand (g : Group) (l : List Byte) : List W32 :=
  (List.range 4).flatMap fun q =>
    let b := (l.drop (q * g.compBytes)).take g.compBytes
    if g.exch = 1 then unSign b else unTopk b g.topk

/-- FP32 values of bytes. -/
def bytesF32 (n : Nat) (l : List Byte) : List W32 := (List.range n).map fun i => BitVec.ofNat 32 (leAt l (4 * i) 4)

/-! ### The unit's memory (R311, R315, R327) -/

/-- Step for which a tensor block is pending. -/
def State.pendingFor (s : State) (h g k : Nat) : Option Nat := ((s.hub h).frame g k).2

/-- What reading state has found so far: the machine, bytes, poison, and whether BLOCK_RESEND was raised. -/
structure StateRead where
  s : State
  bytes : List Byte
  poison : Bool
  resent : Bool
  deriving DecidableEq, Repr

/-- An event of memory in an update. -/
def State.unitEv (s : State) (code j n pa : Nat) : Ev := ⟨code, 0, some j, memPageId pa, n % 2 ^ 32, s.bell.now, BitVec.ofNat 64 pa⟩

/-- The tries at one memory block of state: the deliveries at hand, then the block as stored; `left` re-reads remain
(R247, R327). -/
def tryBlock (s : State) (j n pa : Nat) (resent again : Bool) : Nat → List Block → State × Line × Bool × Bool
  | left, bs =>
    let s := ((s.countHbm pa 0x40 1).chargeBlock j pa 0x70).countHbm pa 0x80 (b2n (((bs.head?).map (·.corrected)).getD false))
    let d := ((bs.head?).map (·.data)).getD (s.line pa)
    let verdict := match bs with | b :: _ => blockVerdict b pa | [] => some (s.marked pa)
    match verdict, left with
    | some p, _ => ((s.countHbm pa 0x60 (b2n p)).countHbm pa 0x58 (b2n again), d, p, resent)
    | none, 0 => ((s.countHbm pa 0x68 1).raise (s.unitEv 0x4102 j n pa), d, true, resent)
    | none, left + 1 =>
      let s := s.countHbm pa 0x50 1
      let s := if resent then s else s.raise (s.unitEv 0x4101 j n pa)
      tryBlock s j n pa true true left (bs.drop 1)

/-- The unit reads `len` bytes of a job's state from a block-aligned address, in committed frames. -/
def StateRead.plane (r : StateRead) (j n va len : Nat) (reads : List (Nat × Block)) : StateRead :=
  (List.range (cdiv len 64)).foldl (fun r i =>
    let a := va + 64 * i
    let pa := r.s.framePa j a (r.s.unitPa j a) false / 64 * 64
    let x := tryBlock r.s j n pa r.resent false 2 ((reads.filter fun q => q.1 = pa).map (·.2))
    ⟨x.1, r.bytes ++ lineBytes x.2.1, r.poison || x.2.2.1, x.2.2.2⟩) r

/-- A write of the unit that the link fails eight times (R248). -/
def State.unitWriteFail (s : State) (j n pa : Nat) : State := s.raise { s.unitEv 0x4103 j n pa with sev := 1 }

/-- The unit writes bytes of a tensor block's plane for a step: into the other frame, whole memory blocks or by read,
merge and write (R249, R311); `fails` are the failed tries of writes by physical block address (R248). -/
def State.unitWrite (s : State) (j n va : Nat) (l : List Byte) (fails : List (Nat × Nat)) : State :=
  (blockParts va l).foldl (fun s q =>
    let pa := s.framePa j q.1 (s.unitPa j q.1) true
    let w := s.writeFails pa (sgetD fails (pa / 64 * 64) 0)
    if w.2 then w.1.unitWriteFail j n pa else (w.1.putPart pa q.2).chargeBlock j pa 0x78) s

/-- A tensor block with planes written in commit units becomes pending for a step, and so does each of those units (R298,
R311); `rs` are the ranges written. -/
def State.setPending (s : State) (j h g k n : Nat) (rs : List (Nat × Nat)) : State :=
  let hb := s.hub h
  let hit (u : CommitUnit) : Bool := u.job = j && rs.any u.meets
  if !hb.units.any hit then s
  else s.setHub h { hb with
    frames := sset hb.frames (frameKey g k) ((hb.frame g k).1, some n)
    units := hb.units.map fun v => if hit v && v.pending.isNone then { v with pending := some n } else v }

/-- Reading a tensor block's state begins; a re-read in the step may have come before (R327). -/
def State.startRead (s : State) (h gi k n : Nat) : StateRead := ⟨s, [], false, (s.hub h).resent.contains (gi, k, n)⟩

/-- Reading has ended; that BLOCK_RESEND was raised for the tensor block is kept for the step. -/
def StateRead.done (r : StateRead) (h gi k n : Nat) : State :=
  let hb := r.s.hub h
  if !r.resent || hb.resent.contains (gi, k, n) then r.s else r.s.setHub h { hb with resent := hb.resent ++ [(gi, k, n)] }

/-! ### Refusal (R327) and messages (R342, R352, R354) -/

/-- An event of the update unit: job, step, group and k (R332). -/
def State.updEv (s : State) (code h j n g k : Nat) : Ev :=
  ⟨code, 0, some j, pageId .update h, n % 2 ^ 32, s.bell.now, BitVec.ofNat 64 (g + 2 ^ 6 * k)⟩

/-- A tensor block that is pending for a step keeps its committed frame at the step's resolution (R327; log entry 30). -/
def Hub.keepFrame (hb : Hub) (g k n : Nat) : Hub :=
  if (hb.frame g k).2 = some n then { hb with frames := sset hb.frames (frameKey g k) ((hb.frame g k).1, none) } else hb

/-- A tensor block is refused: it keeps its committed frame (R327). -/
def State.refuseBlock (s : State) (h j n g k : Nat) : State :=
  ((s.setHub h ((s.hub h).keepFrame g k n)).count (pageNo .update h) 0x48 1).raise (s.updEv 0x7301 h j n g k)

/-- Positions of a job's devices in ascending order: rank r is the r-th (log entry 27). -/
def State.ranks (s : State) (jb : Job) : List Nat :=
  let all := s.pins.pos.toNat :: jb.peers
  (List.range 64).filter all.contains

/-- The run of a step: attempts of a job that spans devices, from 0 (R352, R353). -/
def Job.runOf (jb : Job) (n : Nat) : Nat :=
  match jb.steps.find? fun x => x.n % 65536 = n % 65536 with
  | some x => x.run
  | none => jb.runBefore n

/-- Header, blocks and check value of a GRAD or WCOPY message of one tensor block. -/
def gradBody (job g rank fmt run k n topk : Nat) (poison : Bool) (blocks : List Byte) : List Byte :=
  let b := leBytes 4 (job % 64 + 2 ^ 8 * g + 2 ^ 16 * (rank % 64) + 2 ^ 24 * (fmt % 16) + 2 ^ 28 * (run % 16))
    ++ leBytes 4 k ++ leBytes 4 (n % 65536 + 2 ^ 16 * 1 + 2 ^ 24 * ((topk + 63) % 64)) ++ leBytes 8 (b2n poison)
    ++ leBytes 4 0 ++ blocks
  b ++ leBytes 4 (check32 b).toNat

/-- A unit sends a message to a position; `alt` is the parity of its ordinal for that destination in the step. -/
def State.sendUnit (s : State) (h j pos ty : Nat) (body : List Byte) : State :=
  let hb := s.hub h
  let key := j * 64 + pos
  let o := sgetD hb.ordinals key 0
  (s.setHub h { hb with ordinals := sset hb.ordinals key (o + 1) }).sendAisle pos ty 0 (o % 2 = 1) (some j) body

/-! ### Frames of the gradient window and egress (R317 to R319) -/

/-- A frame of a drain: its 4,096 bytes, and its mark by R317 (poison, or nan or inf of the status word). -/
def Stall.frameData (st : Stall) (x : Transfer) (va : Nat) : List Byte × Bool :=
  let ls := (List.range 65).map fun i => st.putData x (va + 64 * i)
  let status := ((ls.getD 64 (0, 0, false)).2.1) % 2 ^ 32
  ((ls.take 64).flatMap fun l => leBytes 64 l.2.1, ls.any (·.2.2) || bit status 2 || bit status 3)

/-- A contribution enters a unit's ingress. -/
def State.contribute (s : State) (h : Nat) (c : Contribution) : State :=
  let hb := s.hub h
  s.setHub h { hb with ingress := hb.ingress ++ [c] }

/-- The egress of a local gradient under SIGN or TOPK (R319, R352): residual, compression, messages and the own copy. -/
def State.egress (s : State) (h j n gi k : Nat) (c : GroupCur) (data : List Byte) (mark : Bool) (reads : List (Nat × Block))
    (fails : List (Nat × Nat)) : State :=
  let g := groupOf c.record
  let r := (s.startRead h gi k n).plane j n (g.vaResid + 2048 * k) 2048 reads
  let s := (r.done h gi k n).count (pageNo .update h) 0x70 2048
  let xs := ((bytesF32 1024 data).zipIdx).map fun q => fadd q.1 (half32 (leAt r.bytes (2 * q.2) 2))
  let bad := mark || r.poison || xs.any nonFinite
  let body := if bad then List.replicate (4 * g.compBytes) 0#8 else g.compress xs
  let s := if bad then s
    else
      let es := (xs.zip (g.expand body)).map fun q => fsub q.1 q.2
      let s := (s.unitWrite j n (g.vaResid + 2048 * k) (es.flatMap fun e => leBytes 2 (toHalf e)) fails).setPending j h gi k n
        [(g.vaResid + 2048 * k, 2048)]
      (s.count (pageNo .update h) 0x88 (es.countP halfSat)).count (pageNo .update h) 0x78 2048
  match s.job j with
  | none => s
  | some jb =>
    let ranks := s.ranks jb
    let dests := if g.shard then (if g.holds then [] else [g.owner]) else (List.range g.devices).filter (· != g.rank)
    let s := dests.foldl (fun s r => match ranks[r]? with
      | some p => (s.sendUnit h j p 2 (gradBody j gi g.rank g.exch (jb.runOf n) k n g.topk bad body)).count
          (pageNo .update h) 0x60 body.length
      | none => s) s
    if g.holds then s.contribute h ⟨j, gi, k, n, g.rank, g.exch, body, bad⟩
    else
      let hb := s.hub h
      let s := s.setHub h { hb with await := hb.await ++ [(gi, k, n)] }
      if bad then s.refuseBlock h j n gi k else s

/-- A frame reaches the unit of its tensor block (R317 to R319, R328). -/
def State.takeFrame (s : State) (j n gi k : Nat) (c : GroupCur) (data : List Byte) (mark : Bool) (reads : List (Nat × Block))
    (fails : List (Nat × Nat)) : State :=
  let g := groupOf c.record
  let h := s.unitOf g k
  let s := s.count (pageNo .update h) 0x58 4160
  let hb := s.hub h
  if c.frozenBlock k then s.count (pageNo .update h) 0x50 1
  else if hb.drained.contains (gi, k, n) then s.raise (s.updEv 0x7302 h j n gi k)
  else
    let s := s.setHub h { hb with drained := hb.drained ++ [(gi, k, n)] }
    if g.exch = 1 || g.exch = 2 then s.egress h j n gi k c data mark reads fails
    else s.contribute h ⟨j, gi, k, n, g.rank, 0, data, mark⟩

/-- A frame of a block in no valid group is discarded by the hub that serves the draining die (R318). -/
def State.orphan (s : State) (h j n o : Nat) : State :=
  ((s.count (pageNo .update h) 0x58 4160).count (pageNo .update h) 0x90 1).raise (s.updEv 0x7303 h j n 0 o)

/-- Must a frame's residual write wait for an earlier step (R311)? -/
def State.frameWaits (s : State) (n gi k : Nat) (c : GroupCur) : Bool :=
  let g := groupOf c.record
  (g.exch = 1 || g.exch = 2) && !c.frozenBlock k && match s.pendingFor (s.unitOf g k) gi k with
    | some m => m != n
    | none => false

/-- A frame of a drain is acknowledged. -/
def State.ackFrame (s : State) (t sn tag frame : Nat) : State :=
  s.onStall t sn fun st => match sget st.tags tag with
    | some x => (st.setTag tag { x with blocks := lmod x.blocks frame fun b => { b with landed := true } }).requestMore sn t tag
    | none => (st, [])

/-- GRADIENT_FRAME_ARRIVAL (R317, R318), once the frame's source words are read (R257), with the deliveries and failed writes
of the residual's blocks. -/
def execGradientFrameArrival (t sn tag : Nat) (frame : FrameIn) (s : State) : Host.Outcome State Fault Refusal :=
  let s := s.on ((s.advance t).touch t sn)
  .next (s.on (match sget (s.stall sn).tags tag with
    | none => s
    | some x => match x.blocks[frame.block]? with
      | none => s
      | some b =>
        if !x.grad || !b.requested || b.landed || !x.sourced b.va then s
        else
          let n := (s.stall sn).stepOf x.job
          let o := (b.va - gradWindow) / 4160
          let d := (s.stall sn).frameData x b.va
          match s.groupHolding x.job n o with
          | none => (s.orphan (hubOf sn) x.job n o).ackFrame t sn tag frame.block
          | some (gi, c, k) =>
            if s.frameWaits n gi k c then s
            else (s.takeFrame x.job n gi k c d.1 d.2 frame.mem.reads frame.mem.fails).ackFrame t sn tag frame.block))

/-! ### GRAD and WCOPY messages (R352 to R354) -/

/-- The header fields of a GRAD or WCOPY message. -/
structure GradHdr where
  job : Nat
  group : Nat
  rank : Nat
  fmt : Nat
  run : Nat
  k : Nat
  step : Nat
  count : Nat
  topk : Nat
  poison : Nat
  deriving DecidableEq, Repr

/-- The header of a message body after its route word. -/
def gradHdr (b : List Byte) : GradHdr :=
  let w0 := leAt b 8 4
  let w2 := leAt b 16 4
  ⟨bits w0 5 0, bits w0 13 8, bits w0 21 16, bits w0 27 24, bits w0 31 28, leAt b 12 4, bits w2 15 0, bits w2 22 16,
   bits w2 29 24 + 1, leAt b 20 8⟩

/-- Does a message's check value pass? -/
def gradOk (b : List Byte) : Bool :=
  let body := (b.drop 8).take (b.length - 12)
  decide (36 ≤ b.length) && (check32 body).toNat = leAt b (b.length - 4) 4

/-- Full step number of a message's low 16 bits. -/
def Job.fullStep (jb : Job) (low : Nat) : Nat :=
  match jb.steps.find? fun x => x.n % 65536 = low with
  | some x => x.n
  | none => (match jb.steps.getLast? with | some x => x.n | none => jb.consumed) + 1

/-- A contribution of a peer enters the ingress store, unless its key is held (R353). -/
def State.ingest (s : State) (h : Nat) (c : Contribution) : State :=
  let hb := s.hub h
  if hb.ingress.any fun x => x.job = c.job && x.group = c.group && x.k = c.k && x.step % 65536 = c.step % 65536 && x.rank = c.rank then
    s.setHub h { hb with gradDups := satAdd64 hb.gradDups 1 }
  else (s.contribute h c).count (pageNo .update h) 0x68 c.data.length

/-- Hub that serves an aisle port (R20). -/
def portHub (p : Nat) : Nat := p / 3 % 4

/-- Have the ingress stores of the hubs that hold the state of `n` tensor blocks from `k` on room for a contribution to each
(R320)? -/
def State.ingressRoom (s : State) (g : Group) (k n : Nat) : Bool :=
  (List.range 4).all fun h =>
    let mine := (List.range n).countP fun i => s.unitOf g (k + i) = h
    mine = 0 || decide ((s.hub h).ingressUsed + cdiv (mine * (4 * g.compBytes)) 1024 ≤ 24 * 1024)

/-- GRAD_MESSAGE_RECEIVE (R320, R340, R353): the oldest GRAD message delivered at a port; a full ingress store holds it. -/
def execGradMessageReceive (t p : Nat) (s : State) : Host.Outcome State Fault Refusal :=
  let s := s.advance t
  .next (s.on (match s.takeLocal p (fun m => m.ty = 2) with
    | none => s
    | some (m, u) =>
      let hd := gradHdr m.body
      let ph := portHub p
      let drop (f : Hub → Hub) : State := (u.setHub ph (f (u.hub ph))).oweMail p m
      if !gradOk m.body then drop fun hb => { hb with gradFails := satAdd64 hb.gradFails 1 }
      else match s.job hd.job with
        | none => drop fun hb => { hb with gradDrops := satAdd64 hb.gradDrops 1 }
        | some jb => match jb.groups.find? fun q => q.1 = hd.group with
          | none => drop fun hb => { hb with gradDrops := satAdd64 hb.gradDrops 1 }
          | some (_, g) =>
            if !jb.stepExpected hd.step || jb.runOf hd.step != hd.run then
              drop fun hb => { hb with gradDrops := satAdd64 hb.gradDrops 1 }
            else
              let n := 4 * g.compBytes
              if !s.ingressRoom g hd.k hd.count then s
              else
                let u := (List.range hd.count).foldl (fun u i =>
                  u.ingest (u.unitOf g (hd.k + i)) ⟨hd.job, hd.group, hd.k + i, jb.fullStep hd.step, hd.rank, hd.fmt,
                    (m.body.drop (32 + i * n)).take n, bit hd.poison i⟩) u
                u.oweMail p m))

/-- One tensor block of a WCOPY message: its pending frame is written, or the block is refused (R354). -/
def State.takeWcopy (s : State) (j n gi k : Nat) (g : Group) (bad : Bool) (l : List Byte) (fails : List (Nat × Nat)) : State :=
  let h := s.unitOf g k
  let hb := s.hub h
  let s := s.setHub h { hb with await := hb.await.filter fun q => q != (gi, k, n) }
  if bad then (s.setHub h ((s.hub h).keepFrame gi k n)).raise (s.updEv 0x7301 h j n gi k)
  else
    let sz := blockBytes g.fmt
    let s := s.unitWrite j n (g.vaWc + sz * k) (l.take sz) fails
    let s := if g.fmt.scaled then s.unitWrite j n (g.vaWcs + 32 * k) ((l.drop sz).take 32) fails else s
    let s := s.setPending j h gi k n ((g.vaWc + sz * k, sz) :: if g.fmt.scaled then [(g.vaWcs + 32 * k, 32)] else [])
    s.count (pageNo .update h) 0x78 (sz + if g.fmt.scaled then 32 else 0)

/-- WCOPY_MESSAGE_RECEIVE (R311, R321, R354): the oldest WCOPY message delivered at a port; a block still pending for an
earlier step holds it. -/
def execWcopyMessageReceive (t : Nat) (p : PortWrites) (s : State) : Host.Outcome State Fault Refusal :=
  let s := s.advance t
  .next (s.on (match s.takeLocal p.port (fun m => m.ty = 3) with
    | none => s
    | some (m, u) =>
      let hd := gradHdr m.body
      let ok := gradOk m.body
      match s.job hd.job with
      | none => u.oweMail p.port m
      | some jb => match jb.groups.find? fun q => q.1 = hd.group with
        | none => u.oweMail p.port m
        | some (_, g) =>
          let n := jb.fullStep hd.step
          let ks := (List.range hd.count).map (hd.k + ·)
          if ok && (!jb.stepExpected hd.step || jb.runOf hd.step != hd.run) then u.oweMail p.port m
          else if ok && ks.any fun k => match s.pendingFor (s.unitOf g k) hd.group k with
              | some x => x != n
              | none => false
          then s
          else
            let sz := blockBytes g.fmt + if g.fmt.scaled then 32 else 0
            let u := (List.range hd.count).foldl (fun u i =>
              u.takeWcopy hd.job n hd.group (hd.k + i) g (!ok || bit hd.poison i) ((m.body.drop (32 + i * sz)).take sz) p.fails) u
            u.oweMail p.port m))

end Sys2Proof.Machine
end

