-- ==== Sys2Proof/Machine/JobCommands.lean ====
section
/-! DEFINITION. JOB_OPEN, JOB_LOAD, JOB_MAP, JOB_SUSPEND and JOB_RESUME (R255, R264, R311, R314, R364 to R375, R379, R399,
R439, R443, R445). -/
namespace Sys2Proof.Machine

/-! ### JOB_OPEN (R364 to R376) -/

/-- A JOB_OPEN that cannot be admitted: the refusal's event, count and completion (R375). -/
def State.reject (s : State) (seq code tenant result : Nat) : State :=
  ((s.raise (s.mkEv code 0 none .clerk 0 0 tenant)).countRefusal 0x01).finish seq 2 code result 0 0 none

/-- The largest k_max at which an open DEADLINE job was admitted (R468). -/
def State.refloor (s : State) : State :=
  let f := ((s.openJobs.filterMap s.job).filter fun jb => jb.cls = 1).foldl (fun a jb => max a jb.kmax) 0
  { s with clerk := { s.clerk with kFloor := f } }

/-- The lowest job number with no job and a released LEDGER page (R365). -/
def State.freeJob (s : State) : Option Nat := (List.range 64).find? fun j => (s.job j).isNone && (s.ledger j).state = 0

/-- A job as JOB_OPEN makes it. -/
def jobOf (d : List Byte) (r : AdmRecord) (phase : Nat) (place : List (Nat × Nat × Nat)) (now kmax : Nat) : Job where
  state := 1
  cls := r.cls
  phase := phase
  tenant := BitVec.ofNat 32 (descField d 36 4)
  seed := BitVec.ofNat 64 (descField d 40 8)
  rate := descField d 33 1
  streamCheck := bit (descField d 34 1) 0
  watchdog := descField d 60 4
  length := r.length
  deadline := r.deadline
  period := r.period
  hops := r.hops
  devices := r.devices
  adm := r.pitches
  place := place
  image := none
  maps := []
  consumed := 0
  prev := 0
  resolved := 0
  resolvedAt := 0
  resolution := 0
  steps := []
  carried := 0
  lastClose := 0
  suspended := false
  preempted := false
  byCommand := false
  suspAt := none
  revoked := false
  failure := 0
  lastSeq := 0
  openTick := now
  twin := none
  starts := []
  kmax := kmax
  quietAt := 0
  asked := descField d 33 1
  cacheable := false
  fetched := []
  runs := []
  commitAt := 0

/-- An admitted job is opened and placed; what it takes on its stalls is committed with its image (R365, R376, R388; log entry
79). -/
def State.takeJob (s : State) (seq j : Nat) (d : List Byte) (r : AdmRecord) (phase : Nat) (place : List (Nat × Nat × Nat)) :
    State :=
  let now := s.bell.now
  let s := s.setJob j (jobOf d r phase place now s.kMax)
  let s := s.setLedger j { Ledger.empty with state := 1, cls := r.cls, openTick := now }
  let pg := pageNo .ledger j
  let s := s.setPage pg ((s.page pg).writeRW .ledger j 0x110 (BitVec.ofNat 32 (descField d 36 4)))
  let s := (((s.placeJob j).writeArbRotas).refloor).count (pageNo .clerk 0) 0x50 1
  s.finish seq 0 0 (j + 256 * phase) 0 0 (some j)

/-- The tests of R364, R365 and R375 in order, then admission. -/
def State.openJob (s : State) (seq : Nat) (d record : List Byte) (phase : Nat) (place : List (Nat × Nat × Nat)) : State :=
  let cls := descField d 32 1
  let ten := descField d 36 4
  if cls = 0 || 3 < cls then (s.countRefusal 0x01).finish seq 2 0 0 0 0 none
  else match admOf record with
    | none => (s.countRefusal 0x01).finish seq 2 0x6203 0 0 0 none
    | some r =>
      if r.cls != cls || record.length != descField d 56 4 then (s.countRefusal 0x01).finish seq 2 0x6203 0 0 0 none
      else if s.neverFits r place then s.reject seq 0x6201 ten (if 1 < r.devices then s.bell.state else 0)
      else match s.freeJob with
        | none => s.reject seq 0x6103 ten 0
        | some j =>
          if cls = 1 && !timeTest r.length r.deadline r.period s.kMax 0 then s.reject seq 0x6101 ten 0
          else match s.choosePlace r phase place with
            | none => s.reject seq (if cls = 1 then 0x6101 else 0x6103) ten 0
            | some (ph, pl) =>
              if cls = 1 && !s.bandwidthFits r.pitches pl then s.reject seq 0x6101 ten 0 else s.takeJob seq j d r ph pl

/-- JOB_OPEN (R375): `record` is the admission record in companion memory; phase and placement are those the Clerk prefers
(R369, R371). -/
def execJobOpen (t seq : Nat) (record : List Byte) (phase : Nat) (place : List (Nat × Nat × Nat)) (s : State) :
    Host.Outcome State Fault Refusal :=
  .next (s.on (s.runCommand t seq 0x01 fun s x => s.openJob seq x.desc record phase place))

/-! ### Memory that the Clerk gives out (R243, R244, R252, R264) -/

/-- Number of the 2 MiB page of a physical address. -/
def pageIx (pa : Nat) : Nat := pa / 2 ^ 21

/-- Is a page mapped into a job or in a unit's frame 1? -/
def State.pageOfJobs (s : State) (p : Nat) : Bool :=
  (s.jobs.any fun (q : Nat × Job) => q.2.maps.any fun m => pageIx m.pa = p)
    || (List.range 4).any fun h => (s.hub h).units.any fun u => decide (pageIx u.frame1 ≤ p) && decide (p < pageIx u.frame1 + u.pages)

/-- Is a page the Clerk's own: translation tables or the group table? -/
def State.pageOfClerk (s : State) (p : Nat) : Bool :=
  (s.clerk.tables.any fun (q : Nat × Nat) => pageIx q.2 = p) || pageIx s.groupBase = p

/-- Is a page there and given to nothing? -/
def State.pageFree (s : State) (p : Nat) : Bool := !s.hole (p * 2 ^ 21) && !s.pageOfJobs p && !s.pageOfClerk p

/-- The first `n` pages from `p` on that are free; `fuel` bounds the search. -/
def pickPages (free : Nat → Bool) : Nat → Nat → Nat → List Nat
  | 0, _, _ => []
  | _, _, 0 => []
  | fuel + 1, p, n + 1 => if free p then p * 2 ^ 21 :: pickPages free fuel (p + 1) n else pickPages free fuel (p + 1) (n + 1)

/-- The first run of `n` free pages from `p` on, of which `got` have been found. -/
def pickRun (free : Nat → Bool) (n : Nat) : Nat → Nat → Nat → Option Nat
  | 0, _, _ => none
  | fuel + 1, p, got =>
    if n = got then some ((p - n) * 2 ^ 21)
    else if free p then pickRun free n fuel (p + 1) (got + 1) else pickRun free n fuel (p + 1) 0

/-- HBM pages of every stack window. -/
def hbmPages : Nat := 524288

/-- Physical pages for a mapping: those offered where they serve, else the lowest that do. -/
def State.choosePages (s : State) (fits : Nat → Bool) (n : Nat) (offered : List Nat) : Option (List Nat) :=
  let ok (p : Nat) : Bool := fits p && s.pageFree p
  if offered.length = n && decide offered.Nodup && offered.all (fun a => a % 2 ^ 21 = 0 && ok (pageIx a)) then some offered
  else
    let l := pickPages ok (hbmPages + 192) 0 n
    if l.length = n then some l else none

/-! ### Translation tables (R252, R253, R269) -/

/-- May a 32 KiB slot take a table: free, in HBM, in a page of tables or a free page that is not `kept`? -/
def State.slotFits (s : State) (kept : List Nat) (a : Nat) : Bool :=
  a % 2 ^ 15 = 0 && decide (a < hallBase) && !s.hole a && !(s.clerk.tables.any fun (q : Nat × Nat) => q.2 = a)
    && ((s.pageFree (pageIx a) && !kept.contains (pageIx a)) || s.clerk.tables.any fun (q : Nat × Nat) => pageIx q.2 = pageIx a)

/-- A slot for a table: the one offered where it serves, else the first beside other tables, else the lowest free page that
is not `kept`. -/
def State.chooseSlot (s : State) (kept : List Nat) (offered : Option Nat) : Option Nat :=
  let beside := ((s.clerk.tables.flatMap fun (q : Nat × Nat) => (List.range 64).map fun i => pageIx q.2 * 2 ^ 21 + i * 2 ^ 15).find?
    (s.slotFits kept)).or (pickPages (fun p => s.pageFree p && !kept.contains p) hbmPages 0 1).head?
  match offered with
  | some a => if s.slotFits kept a then some a else beside
  | none => beside

/-- Pages become the Clerk's own, so that no job is their last owner (R255). -/
def State.clerkOwns (s : State) (pas : List Nat) : State :=
  { s with clerk := { s.clerk with lastOwner := pas.foldl (fun l a => sset l (pageIx a) 64) s.clerk.lastOwner } }

/-- A table of zeros for a job, the slots offered for the tables to come, and its address. -/
def State.newTable (s : State) (kept : List Nat) (j : Nat) (offered : List Nat) : Option (State × List Nat × Nat) :=
  (s.chooseSlot kept offered.head?).map fun a =>
    let s := (s.zeroFill a (2 ^ 15)).clerkOwns [a]
    ({ s with clerk := { s.clerk with tables := s.clerk.tables ++ [(j, a)] } }, offered.drop 1, a)

/-- XLATE_ROOT of a job takes a value on all four hubs (R269). -/
def State.setRoot (s : State) (j v : Nat) : State :=
  (List.range 4).foldl (fun s h =>
    let pg := pageNo .hdie h
    s.setPage pg (((s.page pg).writeRW .hdie h (0x100 + 8 * j) (BitVec.ofNat 32 v)).writeRW .hdie h (0x104 + 8 * j)
      (BitVec.ofNat 32 (v / 2 ^ 32)))) s

/-- The L1 table of a job, made where there is none. -/
def State.rootTable (s : State) (kept : List Nat) (j : Nat) (offered : List Nat) : Option (State × List Nat × Nat) :=
  match s.xlateRoot 0 j with
  | some a => some (s, offered, a)
  | none => (s.newTable kept j offered).map fun r => (r.1.setRoot j (r.2.2 + 1), r.2.1, r.2.2)

/-- Address of the L2 table that covers an address of a job, if its L1 entry is valid. -/
def State.l2Table (s : State) (j va : Nat) : Option Nat :=
  match s.xlateRoot 0 j with
  | none => none
  | some l1 =>
    let e := leAt (memBytes s.mem (l1 + 8 * bits va 43 33) 8) 0 8
    if bit e 0 then some (bits e 40 15 * 2 ^ 15) else none

/-- Both levels for an address of a job, made where there are none. -/
def State.needTables (s : State) (kept : List Nat) (j va : Nat) (offered : List Nat) : Option (State × List Nat) :=
  (s.rootTable kept j offered).bind fun r =>
    match r.1.l2Table j va with
    | some _ => some (r.1, r.2.1)
    | none => (r.1.newTable kept j r.2.1).map fun x => (x.1.putBytes (r.2.2 + 8 * bits va 43 33) (leBytes 8 (x.2.2 + 1)), x.2.1)

/-- The L2 entry of a page of a job takes a value. -/
def State.setEntry (s : State) (j va v : Nat) : State :=
  match s.l2Table j va with
  | some a => s.putBytes (a + 8 * bits va 32 21) (leBytes 8 v)
  | none => s

/-- XLATE_INVAL for every page of a job on all four hubs (R253). -/
def State.invalidateJob (s : State) (j : Nat) : State :=
  (List.range 4).foldl (fun s h => s.writeXlateInval h (BitVec.ofNat 32 (j + 2 ^ 6 + 2 ^ 31))) s

/-- A physical page is made ready for a job: zero-filled unless the job was its last owner (R255, R383). -/
def State.ownPage (s : State) (j pa : Nat) : State :=
  if sget s.clerk.lastOwner (pageIx pa) = some j then s
  else
    let s := s.zeroFill pa (2 ^ 21)
    let s := if pa < hallBase then s.charge j 0x78 (2 ^ 21) else s
    { s with clerk := { s.clerk with lastOwner := sset s.clerk.lastOwner (pageIx pa) j } }

/-! ### JOB_MAP (R255, R264, R311, R439) -/

/-- A page of a job is mapped. -/
def State.mapPage (s : State) (j : Nat) (m : MapEnt) : State :=
  let s := (s.ownPage j m.pa).setEntry j m.va (m.pa + 1 + 2 * b2n m.write)
  match s.job j with
  | some jb => s.setJob j { jb with maps := jb.maps ++ [m] }
  | none => s

/-- Pages of a job in a range are unmapped. -/
def State.unmapRange (s : State) (j va n : Nat) : State :=
  match s.job j with
  | none => s
  | some jb =>
    let gone (m : MapEnt) : Bool := decide (va ≤ m.va) && decide (m.va < va + n)
    let s := (jb.maps.filter gone).foldl (fun s m => s.setEntry j m.va 0) s
    s.setJob j { jb with maps := jb.maps.filter fun m => !gone m }

/-- Address ranges of a group's planes. -/
def Group.ranges (g : Group) : List (Nat × Nat) :=
  (g.held.map fun p => (p.1, p.2 * g.count)) ++ g.statPlane.toList

/-- Address ranges that an image needs mapped: its commit units and the planes of its valid groups (R311). -/
def imageRanges (im : LoadImage) : List (Nat × Nat) :=
  (im.units.map fun u => (u.2.1, u.2.2 * 2 ^ 21))
    ++ im.groups.flatMap fun q => if (groupOf q.2).valid then (groupOf q.2).ranges else []

/-- Does a range of addresses meet pages that the loaded image needs (R311)? -/
def Job.pins (jb : Job) (va n : Nat) : Bool :=
  match jb.image with
  | none => false
  | some im => (imageRanges im).any fun r => r.2 != 0 && decide (r.1 / 2 ^ 21 * 2 ^ 21 < va + n) && decide (va < r.1 + r.2)

/-- Which pages may serve a JOB_MAP: HBM of the stack mask, or the hall store of a die. -/
def mapFits (mask : Nat) (die : Option Nat) (p : Nat) : Bool :=
  match die with
  | none => decide (p < hbmPages) && (mask = 0 || bit mask (p / 32768))
  | some c => decide (hbmPages + 16 * c ≤ p) && decide (p < hbmPages + 16 * c + 16)

/-- A range of a job is mapped to physical pages, with tables as needed; none where pages or tables are wanting. -/
def State.mapRange (s : State) (j va : Nat) (write comp : Bool) (hall : Option (Nat × Nat)) (fits : Nat → Bool) (n : Nat)
    (pages tables : List Nat) : Option State :=
  let s := s.unmapRange j va (n * 2 ^ 21)
  (s.choosePages fits n pages).bind fun pas =>
    ((pas.zipIdx).foldl (fun (o : Option (State × List Nat)) q => o.bind fun r =>
      (r.1.needTables (pas.map pageIx) j (va + q.2 * 2 ^ 21) r.2).map fun x =>
        (x.1.mapPage j ⟨va + q.2 * 2 ^ 21, q.1, write, comp, hall⟩, x.2)) (some (s, tables))).map (·.1)

/-- Pages of a pitch mapped in the hall store of a die. -/
def Job.hallMapped (jb : Job) (pitch die : Nat) : Nat :=
  jb.maps.countP fun m => match m.hall with
    | some (p, _) => p = pitch && decide (hallBase ≤ m.pa) && (m.pa - hallBase) / 2 ^ 25 = die
    | none => false

/-- The completion of a JOB_MAP whose mapping was tried (R264). -/
def State.mapped (s : State) (seq j : Nat) : Option State → State
  | some s' => (s'.invalidateJob j).finish seq 0 0 0 0 0 none
  | none => s.refuse seq 0x6103

/-- A JOB_MAP of an open job. -/
def State.jobMap (s : State) (seq j : Nat) (jb : Job) (d : List Byte) (pages tables : List Nat) : State :=
  let va := descField d 32 8
  let n := descField d 40 8
  let f := descField d 48 1
  let pitch := descField d 49 1
  let log := descField d 52 2
  if jb.pins va n then s.refuse seq 0x4203
  else if bit f 2 then ((s.unmapRange j va n).invalidateJob j).finish seq 0 0 0 0 0 none
  else if !bit f 3 then
    s.mapped seq j (s.mapRange j va (bit f 0) (bit f 1) none (mapFits (descField d 50 2) none) (n / 2 ^ 21) pages tables)
  else match placeOf jb.place pitch log with
    | none => s.refuse seq 0
    | some sn =>
      let die := sn / 128
      let most := ((jb.adm[pitch]?).map (·.hallPages)).getD 0
      if remoteStall sn then s.refuse seq 0
      else if most < ({ jb with maps := jb.maps.filter fun m => !(decide (va ≤ m.va) && decide (m.va < va + n)) }).hallMapped pitch die
          + n / 2 ^ 21 then s.refuse seq 0x6103
      else s.mapped seq j
        (s.mapRange j va (bit f 0) false (some (pitch, log)) (mapFits 0 (some die)) (n / 2 ^ 21) pages tables)

/-- JOB_MAP (R255): `pages` and `tables` are the physical pages and table slots that the Clerk prefers. -/
def execJobMap (t seq : Nat) (pages tables : List Nat) (s : State) : Host.Outcome State Fault Refusal :=
  .next (s.on (s.runCommand t seq 0x03 fun s x =>
    match s.job (descJob x.desc) with
    | some jb => s.jobMap seq (descJob x.desc) jb x.desc pages tables
    | none => s))

/-! ### JOB_LOAD (R298, R311, R314, R367, R399, R446) -/

/-- A group record's check (R314). -/
def recordOk (r : List Byte) : Bool :=
  let g := groupOf r
  let f := recField r
  let mult := g.mult.toNat
  r.length = 128 && f 0 31 28 = 0 && f 1 7 7 = 0 && f 1 15 14 = 0 && f 1 23 22 = 0 && f 1 31 31 = 0
    && (List.range 6).all (fun i => f (17 + 2 * i) 31 12 = 0) && (r.drop 112).all (· = 0#8)
    && g.exch != 3 && decide (1 ≤ g.wcFmt) && decide (g.wcFmt ≤ 6) && g.wcScale != 3 && g.freeze != 3
    && decide (1 ≤ g.devices) && decide (g.devices ≤ 64) && decide (g.rank < g.devices)
    && (!g.shard || decide (g.owner < g.devices))
    && (g.exch != 2 || (decide (1 ≤ g.topk) && decide (g.topk ≤ 64)))
    && (mult = 0 || (decide (0x3F800000 ≤ mult) && decide (mult ≤ 0x7F800000))) && g.rowsB * g.colsB = g.count

/-- Do the valid groups of an image cover disjoint ranges of tensor blocks (R314)? -/
def groupsDisjoint (l : List (Nat × List Byte)) : Bool :=
  let gs := l.filter fun q => (groupOf q.2).valid
  gs.all fun a => gs.all fun b => a.1 = b.1 || decide ((groupOf a.2).first + (groupOf a.2).count ≤ (groupOf b.2).first)
    || decide ((groupOf b.2).first + (groupOf b.2).count ≤ (groupOf a.2).first)

/-- Does a pitch's use lie inside its record entry (R367)? -/
def useInside (u : PitchUse) (a : PitchAdm) : Bool :=
  let sub (x y : Nat) : Bool := x &&& y = x
  !a.remote && (List.range 4).all (fun e => sub (u.masks.getD e 0) (a.masks.getD e 0)) && sub (pairBanks u.banks) a.banks
    && sub u.rings a.rings && decide (u.flags ≤ a.flags) && decide (u.tallies ≤ a.tallies) && decide (u.groups ≤ a.groups)
    && u.cfg.all fun (q : Nat × Nat × Nat) => bit a.rings q.1

/-- The pitch that refuses an image (R367). -/
def badPitch (im : LoadImage) (jb : Job) : Option Nat :=
  let listed (p : Nat) : Bool := decide (p < 0xF0) && decide (p < jb.adm.length)
  match im.pitches.find? fun u => !(listed u.pitch && match jb.adm[u.pitch]? with | some a => useInside u a | none => false) with
  | some u => some u.pitch
  | none => (im.streams.find? fun (q : Nat × Nat × Nat × Nat) => !(im.pitches.any fun u => u.pitch = q.1)).map (·.1)

/-- Physical address of a job's virtual address by its mappings. -/
def Job.paOf (jb : Job) (va : Nat) : Option Nat :=
  (jb.maps.find? fun m => m.va = va / 2 ^ 21 * 2 ^ 21).map fun m => m.pa + va % 2 ^ 21

/-- Hub of a job's virtual address that is mapped to HBM. -/
def Job.hubAt (jb : Job) (va : Nat) : Option Nat :=
  match jb.paOf va with
  | some pa => if pa < hallBase then some (stackOf pa / 4) else none
  | none => none

/-- Is every page of a range mapped to HBM? -/
def Job.rangeMapped (jb : Job) (r : Nat × Nat) : Bool :=
  r.2 = 0 || (List.range ((r.1 + r.2 - 1) / 2 ^ 21 + 1 - r.1 / 2 ^ 21)).all fun i => (jb.hubAt ((r.1 / 2 ^ 21 + i) * 2 ^ 21)).isSome

/-- Do the pages of a range lie on one hub? -/
def Job.oneHub (jb : Job) (r : Nat × Nat) : Bool :=
  r.2 = 0 || (List.range ((r.1 + r.2 - 1) / 2 ^ 21 + 1 - r.1 / 2 ^ 21)).all fun i =>
    jb.hubAt ((r.1 / 2 ^ 21 + i) * 2 ^ 21) = jb.hubAt r.1

/-- Do the planes of a tensor block lie on one hub (R314)? -/
def Job.blockOneHub (jb : Job) (g : Group) (k : Nat) : Bool :=
  match g.held with
  | [] => true
  | p :: r => (p :: r).all fun q => jb.oneHub (q.1 + k * q.2, q.2) && jb.hubAt (q.1 + k * q.2) = jb.hubAt (p.1 + k * p.2)

/-- Tensor blocks of an image's valid groups that lie on a hub (R311). -/
def Job.blocksOn (jb : Job) (im : LoadImage) (h : Nat) : Nat :=
  (im.groups.map fun q =>
    let g := groupOf q.2
    match g.valid, g.held with
    | true, p :: _ => (List.range g.count).countP fun k => jb.hubAt (p.1 + k * p.2) = some h
    | _, _ => 0).sum

/-- Is there room in the frame maps for an image beside those of the other jobs (R311)? -/
def State.frameRoom (s : State) (j : Nat) (jb : Job) (im : LoadImage) : Bool :=
  (List.range 4).all fun h => decide (jb.blocksOn im h + ((s.jobs.filter fun (q : Nat × Job) => q.1 != j).map fun q =>
    match q.2.image with | some o => q.2.blocksOn o h | none => 0).sum ≤ 2 ^ 24)

/-- GROUP_VALID's shadow: the groups that are valid once a COMMIT under way takes effect (R314). -/
def State.groupShadow (s : State) : Nat := s.shadowOf .sched 0 0x108 + 2 ^ 32 * s.shadowOf .sched 0 0x10C

/-- Why an image is refused: cause and result; none where it is not (R311, R314, R367). -/
def State.loadError (s : State) (j : Nat) (jb : Job) (d raw : List Byte) (im : LoadImage) : Option (Nat × Nat) :=
  let nums := im.groups.map (·.1)
  if raw.length != descField d 40 8 || (check32 raw).toNat != descField d 48 4 then some (0, 0)
  else match badPitch im jb with
    | some p => some (0, p)
    | none =>
      if decide (1024 < im.units.length) || !decide (im.units.map (·.1)).Nodup || im.units.any (fun u => u.2.1 % 2 ^ 21 != 0 || u.2.2 = 0)
          || !decide nums.Nodup || nums.any (fun g => decide (64 ≤ g)) || im.groups.any (fun q => !recordOk q.2)
          || !groupsDisjoint im.groups
          || nums.any (fun g => bit s.groupShadow g && (groupOf (s.groupRecord g)).job != j) then some (0, 0)
      else if (imageRanges im).any fun r => !jb.rangeMapped r then some (0x4203, 0)
      else if im.units.any (fun u => !jb.oneHub (u.2.1, u.2.2 * 2 ^ 21))
          || im.groups.any (fun q => (groupOf q.2).valid && (List.range (groupOf q.2).count).any fun k => !jb.blockOneHub (groupOf q.2) k)
          || !s.frameRoom j jb im then some (0, 0)
      else none

/-- A unit of an image gets its frame 1: what it had, the run offered, or the lowest run of free pages of its hub (R311). -/
def State.unitFrame (s : State) (j : Nat) (jb : Job) (old : List CommitUnit) (u : Nat × Nat × Nat) (offered : Option Nat) :
    Option State :=
  let h := (jb.hubAt u.2.1).getD 0
  let free (p : Nat) : Bool := s.pageFree p && p / 131072 = h
  let run (a : Nat) : Bool := a % 2 ^ 21 = 0 && (List.range u.2.2).all fun i => free (pageIx a + i)
  let add (c : CommitUnit) : State := s.setHub h { s.hub h with units := (s.hub h).units ++ [c] }
  match old.find? fun c => c.num = u.1 && c.va = u.2.1 && c.pages = u.2.2 with
  | some c => some (add c)
  | none =>
    let base := match offered with | some a => if run a then some a else none | none => none
    (base.or (pickRun free u.2.2 hbmPages 0 0)).map fun a =>
      (add ⟨j, u.1, u.2.1, u.2.2, a, if jb.resolution = 0 then 0 else jb.resolved, jb.resolvedAt, none, jb.resolution = 2⟩).clerkOwns
        ((List.range u.2.2).map fun i => a + i * 2 ^ 21)

/-- The commit units of an image replace those of the job; none where frames are wanting. -/
def State.loadUnits (s : State) (j : Nat) (jb : Job) (im : LoadImage) (frames : List Nat) : Option State :=
  let old := (List.range 4).flatMap fun h => (s.hub h).units.filter fun u => u.job = j
  let s := (List.range 4).foldl (fun s h => s.setHub h { s.hub h with units := (s.hub h).units.filter fun u => u.job != j }) s
  (im.units.zipIdx).foldl (fun (o : Option State) q => o.bind fun s => s.unitFrame j jb old q.1 frames[q.2]?) (some s)

/-- A record with its job field set. -/
def ownRecord (j : Nat) (r : List Byte) : List Byte := leBytes 1 (leAt r 0 1 / 64 * 64 + j % 64) ++ r.drop 1

/-- GROUP_VALID's shadow takes a set of groups, with a COMMIT (R314). -/
def State.setGroupValid (s : State) (v : Nat) : State :=
  ((s.shadow .sched 0 0x108 (v % 2 ^ 32)).shadow .sched 0 0x10C (v / 2 ^ 32)).requestCommit .sched 0

/-- Groups of an image that another has with the same record. -/
def sameGroups (a : Option LoadImage) (b : LoadImage) : List Nat :=
  match a with
  | some a => (b.groups.filter fun q => a.groups.contains q).map (·.1)
  | none => []

/-- The records of an image are written, its new groups start at step 0 (R329), and the frame map holds what they share
with the image before. -/
def State.loadGroups (s : State) (j : Nat) (jb : Job) (im : LoadImage) : State :=
  let old := jb.groups.map (·.1)
  let kept := sameGroups jb.image im
  let nums := im.groups.map (·.1)
  let s := im.groups.foldl (fun s q => s.putBytes (s.groupBase + 128 * q.1) (ownRecord j q.2)) s
  let v := (List.range 64).foldl (fun a g =>
    let on := if nums.contains g then (im.groups.any fun q => q.1 = g && (groupOf q.2).valid)
      else bit s.groupShadow g && !old.contains g
    a + b2n on * 2 ^ g) 0
  let s := s.setGroupValid v
  let s := { s with sched := { s.sched with
    steps := nums.foldl (fun l g => if old.contains g then l else sset l g 0#64) s.sched.steps } }
  (List.range 4).foldl (fun s h => s.setHub h { s.hub h with
    frames := (s.hub h).frames.filter fun (q : Nat × (Bool × Option Nat)) =>
      let g := q.1 / 2 ^ 32
      kept.contains g || !(old.contains g || nums.contains g) }) s

/-- The stalls of a job get the rings and the FOOT_ACC word of its image, in one COMMIT each with what its placement gave it there
(R99, R191, R376). -/
def State.loadStalls (s : State) (j : Nat) (jb : Job) (im : LoadImage) : State :=
  (jb.place.filter fun q => !remoteStall q.2.2).foldl (fun s q =>
    let ks := (s.slotsUsed q.2.2).filter fun k => bits (s.shadowOf .stall q.2.2 (0x400 + 4 * k)) 5 0 = j
    let s := ks.foldl (fun s k => s.setShadow q.2.2 (0x140 + 4 * k) (im.acc % 256)) s
    s.setRings q.2.2 j q.1 im) s

/-- A JOB_LOAD of an open job. -/
def State.jobLoad (s : State) (seq j : Nat) (jb : Job) (d raw : List Byte) (im : LoadImage) (frames : List Nat) : State :=
  match s.loadError j jb d raw im with
  | some (c, r) => s.finish seq 2 c r 0 0 none
  | none => match s.loadUnits j jb im frames with
    | none => s.refuse seq 0x6103
    | some s =>
      let s := (s.loadGroups j jb im).loadStalls j jb im
      let s := s.setJob j { jb with image := some im, rate := min jb.asked im.rate, cacheable := bit (descField d 52 1) 0 }
      (s.commitStalls j jb.stalls).finish seq 0 0 0 0 0 none

/-- JOB_LOAD (R367): `raw` is the image in companion memory, `image` what the Clerk reads in it, `frames` the frames it
prefers. -/
def execJobLoad (t seq : Nat) (raw : List Byte) (image : LoadImage) (frames : List Nat) (s : State) :
    Host.Outcome State Fault Refusal :=
  .next (s.on (s.runCommand t seq 0x02 fun s x =>
    match s.job (descJob x.desc) with
    | some jb => s.jobLoad seq (descJob x.desc) jb x.desc raw image frames
    | none => s))

/-! ### JOB_SUSPEND and JOB_RESUME (R126, R379, R445) -/

/-- JOB_SUSPEND (R379). -/
def execJobSuspend (t seq : Nat) (s : State) : Host.Outcome State Fault Refusal :=
  .next (s.on (s.runCommand t seq 0x08 fun s x => (s.suspendJob (descJob x.desc) false).finish seq 0 0 0 0 0 none))

/-- JOB_RESUME (R379): a job that is pre-empted stays suspended. -/
def execJobResume (t seq : Nat) (s : State) : Host.Outcome State Fault Refusal :=
  .next (s.on (s.runCommand t seq 0x09 fun s x => (s.resumeJob (descJob x.desc) false).finish seq 0 0 0 0 0 none))

end Sys2Proof.Machine
end

