-- ==== Sys2Proof/Machine/Steps.lean ====
section
/-! DEFINITION. Starting, aborting and rerunning steps (R129, R223, R304, R305, R402 to R405), re-placement (R378), closing
a job (R445), and the Clerk's timers for jobs and ledgers (R379, R382, R384, R385). -/
namespace Sys2Proof.Machine

/-! ### The go of a step (R33, R129, R195, R223, R376) -/

/-- The settle interval of a job (R223). -/
def Job.settleTicks (jb : Job) : Nat := if jb.spans then 208 + 352 * jb.hops + 1024 else 160

/-- May a job's step start on a stall: no COMMIT under way, its slot valid and idle, its banks awake and handed over, or in the
scrub that hands them over before the step starts (R188, R195, R376)? -/
def State.stallReady (s : State) (j : Nat) (jb : Job) (sn : Nat) : Bool :=
  let st := s.stall sn
  !st.page.commit && !st.page.lateCommit && !s.clerk.fences.contains sn
    && (match st.slotOf j with | some k => !st.slotBusy k | none => false)
    && (jb.pitchesOn sn).all fun p => match jb.adm[p]? with
      | some a => (List.range 128).all fun b => !bit a.banks b || st.bankOwned b j
          || ((st.bank b).scrubEnd.isSome && st.ownerEntry b = ownJob j)
      | none => true

/-- The start tick of a go at `t` (R33, R129): for one device the first valid tick, else the tick agreed on. -/
def Job.startTick (jb : Job) (t : Nat) (agreed : Option Nat) : Option Nat :=
  let r := 64 * jb.phase
  if jb.spans then
    match agreed with
    | some a => if t + 4096 ≤ a && a % 4096 = r then some a else none
    | none => none
  else some (upTo 4096 (t + 4096 - r) + r)

/-- May step `n` start at a tick: starts whose numbers agree in the low two bits lie more than 330,000 ticks apart on
several devices (R223)? -/
def Job.startsApart (jb : Job) (n start : Nat) : Bool :=
  !jb.spans || jb.starts.all fun (q : Nat × Nat) => q.1 = n || q.1 % 4 != n % 4 || decide (q.2 + 330000 < start)

/-- The step consumed before step `n` of a job (R299). -/
def Job.before (jb : Job) (n : Nat) : Nat :=
  match (jb.steps.takeWhile fun x => x.n != n).getLast? with
  | some x => x.n
  | none => if jb.resolution = 0 then 0 else jb.resolved

/-- STEP_START and a go on one stall of a job (R129). -/
def State.writeGo (s : State) (t j sn start : Nat) : State :=
  match (s.stall sn).slotOf j with
  | none => s
  | some k =>
    let pg := pageNo .stall sn
    let s := s.setPage pg (((s.page pg).writeRW .stall sn 0x580 (BitVec.ofNat 32 start)).writeRW .stall sn 0x584
      (BitVec.ofNat 32 (start / 2 ^ 32)))
    s.writeReg t s.primary (regAddr .stall sn 0x588) (BitVec.ofNat 32 (k + 0x100))

/-- Was the last go of a job's slot refused on some stall (R129)? -/
def State.goFailed (s : State) (j : Nat) (jb : Job) : Bool :=
  jb.stalls.any fun sn => match (s.stall sn).slotOf j with
    | some k => ((s.stall sn).slotSt k).refused
    | none => true

/-- A step of a job ends with no resolution: discarded internally for good, its STEP_RUN completed (R305, R445). -/
def State.endStep (s : State) (j n status cause : Nat) : State :=
  match s.job j with
  | none => s
  | some jb => match jb.steps.find? fun (x : StepSt) => x.n = n with
    | none => s
    | some x =>
      let before := jb.resolved
      let s := s.setJob j (Job.settled { jb with steps := jb.steps.filter fun (y : StepSt) => y.n != n })
      let s := (s.discardStep j n true).sealsOf s.bell.now j before n false
      s.finish x.seq status cause 0 jb.rate x.made (some j)

/-- The go of a step on every stall of its job; a refusal fails the STEP_RUN (R129). -/
def State.go (s : State) (t j n start : Nat) : State :=
  match s.job j with
  | none => s
  | some jb =>
    let kept := jb.starts.filter fun (q : Nat × Nat) => q.1 != n
    let begun : Job := jb.updStep n fun x => { x with start := start, abort := none }
    let jb : Job := { begun with prev := jb.before n, starts := (kept ++ [(n, start)]).drop (kept.length - 7) }
    let s := s.setJob j jb.settled
    let s := (jb.stalls.foldl (fun (s : State) sn => s.writeGo t j sn start) s).fetchStreams j n true
    if s.goFailed j jb then (s.abortStalls j).endStep j n 1 0 else s

/-- May the next step of a job start at `t`: settled, two rounds after the COMMIT of its placement, and every stall ready (R195,
R223, R376)? -/
def State.jobReady (s : State) (t j : Nat) (jb : Job) : Bool :=
  decide (jb.commitAt + 8192 ≤ t || jb.commitAt = 0) && (jb.quietAt = 0 || decide (jb.quietAt + jb.settleTicks ≤ t)) && jb.stalls.all fun sn => s.stallReady j jb sn

/-- The tick at which a step of a job may start by a go at `t`, if it may. -/
def State.goTick (s : State) (t j n : Nat) (jb : Job) (agreed : Option Nat) : Option Nat :=
  if !s.jobReady t j jb then none
  else match jb.startTick t agreed with
    | some a => if jb.startsApart n a then some a else none
    | none => none

/-! ### STEP_RUN (R291, R304, R373) -/

/-- A STEP_RUN is accepted: its step is consumed, the stream fetchers begin (R446), and it awaits its go. -/
def State.acceptStep (s : State) (t seq j : Nat) (jb : Job) (d : List Byte) : State :=
  let n := descField d 32 8
  let guard := descField d 40 2
  let fresh := jb.steps.isEmpty && jb.resolution = 0
  if guard / 128 != 0 || (decide (n ≤ jb.consumed) && !fresh) || jb.image.isNone then s.refuse seq 0
  else
    let x : StepSt := ⟨n, seq, guard, descField d 44 4, 0, 0, 0, jb.runBefore n, max t jb.lastClose, false, [], none, 0, jb.carried, [],
      false, none, none, false, false, none, false⟩
    ((s.setJob j (Job.settled { jb with consumed := n, carried := 0, steps := jb.steps ++ [x], runs := [] })).fetchStreams j n false).markStarted
      seq

/-- The step of a STEP_RUN that was accepted starts where it may (R129, R223). -/
def State.startStep (s : State) (t seq j : Nat) (agreed : Option Nat) : State :=
  match s.job j with
  | none => s
  | some jb => match jb.steps.find? fun (x : StepSt) => x.seq = seq && x.start = 0 && x.abort.isNone with
    | none => s
    | some x => match s.goTick t j x.n jb agreed with
      | some a => s.go t j x.n a
      | none => s

/-- STEP_RUN (R291): accepted, and started by a go as soon as the job is ready; `agreed` is the start tick on which the
Clerks of a job on several devices agree. -/
def execStepRun (t seq : Nat) (agreed : Option Nat) (s : State) : Host.Outcome State Fault Refusal :=
  .next (s.on (s.runCommand t seq 0x04 fun s x =>
    let j := descJob x.desc
    match s.job j with
    | none => s
    | some jb => (if x.started then s else s.acceptStep t seq j jb x.desc).startStep t seq j agreed))

/-! ### Aborts (R305, R353, R403, R445) -/

/-- ABORT to every device of a job for a step, with its next run; the run counts up (R353). -/
def State.sendAborts (s : State) (j n : Nat) : State :=
  match s.job j with
  | none => s
  | some jb => match jb.steps.find? fun (x : StepSt) => x.n = n with
    | none => s
    | some x =>
      if jb.peers.isEmpty then s
      else (s.setJob j (jb.updStep n fun y => { y with run := (y.run + 1) % 16 })).tellAbort j jb x

/-- Is a JOB_CLOSE of a job under way? -/
def State.closing (s : State) (j : Nat) : Bool :=
  s.clerk.taken.any fun y => y.started && descOp y.desc = 0x06 && descJob y.desc = j

/-- Is a STEP_ABORT of a job's step under way? -/
def State.abortingStep (s : State) (j n : Nat) : Bool :=
  s.clerk.taken.any fun y => y.started && descOp y.desc = 0x05 && descJob y.desc = j && descField y.desc 32 8 = n

/-- The end of a STEP_ABORT whose stalls have drained (R403, R445). -/
def State.stepAborted (s : State) (seq j n : Nat) : State :=
  if s.jobActive j then s
  else
    let gone := match s.job j with
      | some jb => (jb.steps.filter fun (x : StepSt) => jb.abortable s.bell.now x && x.abort.isSome).map StepSt.n
      | none => []
    let s := gone.foldl (fun (s : State) m => s.sendAborts j m) s
    (s.endStep j n 5 0).finish seq 0 0 0 0 0 none

/-- A STEP_ABORT (R445). -/
def State.stepAbort (s : State) (t seq j : Nat) (jb : Job) (x : Taken) : State :=
  let n := descField x.desc 32 8
  let waits (y : Taken) : Bool := !y.dup && !y.started && descOp y.desc = 0x04 && descJob y.desc = j && descField y.desc 32 8 = n
  match s.clerk.taken.find? waits, jb.steps.find? fun (y : StepSt) => y.n = n with
  | some y, _ => (s.finish y.seq 5 0 0 0 0 (some j)).finish seq 0 0 0 0 0 none
  | none, none => s.finish seq 0 0 1 0 0 none
  | none, some st =>
    if x.started then s.stepAborted seq j n
    else if st.armed.isSome || (match st.due with | some g => decide (g < t + jb.lead) | none => false) then s.finish seq 0 0 1 0 0 none
    else if !jb.abortable t st then (s.endStep j n 5 0).finish seq 0 0 0 0 0 none
    else
      let s := s.setJob j { jb with steps := jb.steps.map (jb.aborted t 0 true) }
      ((s.abortStalls j).markStarted seq).stepAborted seq j n

/-- STEP_ABORT (R445): it completes once the stalls have drained. -/
def execStepAbort (t seq : Nat) (s : State) : Host.Outcome State Fault Refusal :=
  .next (s.on (s.runCommand t seq 0x05 fun s x =>
    match s.job (descJob x.desc) with
    | some jb => s.stepAbort t seq (descJob x.desc) jb x
    | none => s))

/-! ### JOB_CLOSE (R190, R314, R385, R445) -/

/-- The Clerk's and the schedule's notes of a job are dropped. -/
def State.forgetJob (s : State) (j : Nat) : State :=
  { s with
    clerk := { s.clerk with
      tables := s.clerk.tables.filter fun (q : Nat × Nat) => q.1 != j
      lastOwner := s.clerk.lastOwner.filter fun (q : Nat × Nat) => q.2 != j }
    sched := { s.sched with cur := s.sched.cur.map fun (q : Nat × GroupCur) => (q.1, q.2.leave j) } }

/-- An update unit without a job whose groups are `mine`. -/
def Hub.without (hb : Hub) (j : Nat) (mine : List Nat) : Hub :=
  { hb with
    units := hb.units.filter fun u => u.job != j
    frames := hb.frames.filter fun (q : Nat × (Bool × Option Nat)) => !mine.contains (q.1 / 2 ^ 32)
    ingress := hb.ingress.filter fun c => c.job != j
    acc := hb.acc.filter fun a => !mine.contains a.group
    seals := hb.seals.filter fun (q : Nat × SealSt) => q.1 != j
    ordinals := hb.ordinals.filter fun (q : Nat × Nat) => q.1 / 64 != j }

/-- A job's memory is given back: tables, mappings, frames, records and what the hubs hold for it. -/
def State.releaseMemory (s : State) (j : Nat) (jb : Job) : State :=
  let mine := jb.groups.map (·.1)
  let s := ((s.setRoot j 0).invalidateJob j).forgetJob j
  let s := if mine.isEmpty then s
    else s.setGroupValid ((List.range 64).foldl (fun a g => a + b2n (bit s.groupShadow g && !mine.contains g) * 2 ^ g) 0)
  ((List.range 4).foldl (fun s h => s.setHub h ((s.hub h).without j mine)) s).freeAhead j

/-- The stalls and memory of a job are released, and its ledger is CLOSED (R385, R445). -/
def State.closeJob (s : State) (j : Nat) (jb : Job) : State :=
  let s := jb.stalls.foldl (fun (s : State) sn => s.leaveStall j sn) s
  let s := s.releaseMemory j jb
  let s := s.setLedger j { s.ledger j with state := 2 }
  ((s.setJob j { jb with state := 6, place := [], image := none, maps := [], twin := none, suspended := false, preempted := false
    }).writeArbRotas).refloor

/-- The end of a JOB_CLOSE: its stalls have drained and no resolution is to come; ABORT goes out for the steps that it
aborted (R305, R353, R445). -/
def State.jobClosed (s : State) (seq j : Nat) : State :=
  match s.job j with
  | none => s
  | some jb =>
    if s.jobActive j || jb.steps.any (jb.firm s.bell.now) then s
    else
      let s := jb.steps.foldl (fun (s : State) (x : StepSt) =>
        (if x.abort.isSome then s.sendAborts j x.n else s).endStep j x.n 5 0) s
      match s.job j with
      | some jb => (s.closeJob j jb).finish seq 0 0 0 0 0 none
      | none => s

/-- A JOB_CLOSE begins: waiting commands of the job end ABORTED and its steps are aborted. -/
def State.jobClose (s : State) (seq j : Nat) (x : Taken) : State :=
  if x.started then s.jobClosed seq j
  else
    let earlier := s.clerk.taken.takeWhile fun y => y != x
    let waiting := earlier.filter fun y =>
      !y.dup && jobOpcode (descOp y.desc) && descJob y.desc = j && !(y.started && descOp y.desc = 0x04)
    let s := waiting.foldl (fun (s : State) (y : Taken) => s.finish y.seq 5 0 0 0 0 (some j)) s
    let s := match s.job j with
      | some jb => s.setJob j { jb with steps := jb.steps.map (jb.aborted s.bell.now 0 true) }
      | none => s
    ((s.abortStalls j).markStarted seq).jobClosed seq j

/-- JOB_CLOSE (R445): it completes once the job's stalls have drained and its armed steps have resolved. -/
def execJobClose (t seq : Nat) (s : State) : Host.Outcome State Fault Refusal :=
  .next (s.on (s.runCommand t seq 0x06 fun s x => s.jobClose seq (descJob x.desc) x))

/-! ### Re-placement (R378) -/

/-- Code of a move's reason in PITCH_MOVED, in the order of R378. -/
def moveCode : MoveWhy → Nat
  | .power => 0 | .temperature => 0 | .contention => 1 | .admission => 2 | .fence => 3

/-- May a pitch go on the stalls offered, beside those `taken` by the job's others? -/
def State.offerFits (s : State) (phase : Nat) (a : PitchAdm) (taken sns : List Nat) : Bool :=
  sns.length = a.stalls && decide sns.Nodup && sns.all (fun sn => !taken.contains sn && s.fits phase a sn
      && decide (s.hallDeclared (sn / 128) + a.hallPages ≤ 16))
    && (a.span = 1 || sns.all fun x => sns.all fun y => x / 128 = y / 128)

/-- Hall pages of a moved pitch are mapped to zero-filled pages of their new dies (R264, R378); none where a hall store has
no room. -/
def State.moveHalls (s : State) (j p : Nat) (halls : List Nat) : Option State :=
  match s.job j with
  | none => some s
  | some jb =>
    let moved (m : MapEnt) : Option Nat := match m.hall with
      | some (q, l) => if q = p then
          (match placeOf jb.place p l with
            | some sn => if (m.pa - hallBase) / 2 ^ 25 = sn / 128 then none else some (sn / 128)
            | none => none)
        else none
      | none => none
    ((jb.maps.filter fun m => (moved m).isSome).foldl (fun (o : Option (State × List Nat)) m => o.bind fun r =>
      match moved m with
      | none => some r
      | some die =>
        let s := r.1.unmapRange j m.va (2 ^ 21)
        (s.choosePages (mapFits 0 (some die)) 1 (r.2.take 1)).bind fun pas =>
          match pas with
          | pa :: _ => some ((s.zeroFill pa (2 ^ 21)).mapPage j { m with pa := pa }, r.2.drop 1)
          | [] => none) (some (s, halls))).map fun r => r.1.invalidateJob j

/-- A pitch of a job leaves its stalls for others at a phase: those offered where they serve, else the best (R369). -/
def State.movePitch (s : State) (j p phase : Nat) (why : MoveWhy) (sns halls : List Nat) : Option State :=
  match s.job j with
  | none => none
  | some jb => match jb.adm[p]? with
    | none => none
    | some a =>
      let old := (jb.place.filter fun (q : Nat × Nat × Nat) => q.1 = p).map fun q => q.2.2
      let rest := jb.place.filter fun (q : Nat × Nat × Nat) => q.1 != p
      let again := if phase = jb.phase then [] else rest.filter fun (q : Nat × Nat × Nat) => !remoteStall q.2.2
      let s := (old ++ again.map fun q => q.2.2).foldl (fun s sn => s.leaveStall j sn) s
      let kept := if phase = jb.phase then rest else []
      let s1 := s.setJob j { jb with place := kept, phase := phase }
      if !(again.all fun q => match jb.adm[q.1]? with | some b => s1.fits phase b q.2.2 | none => false) then none
      else
        let taken := rest.map fun q => q.2.2
        let s2 := s1.setJob j { jb with place := rest, phase := phase }
        let plan := if s2.offerFits phase a taken sns then some ((sns.zipIdx).map fun q => (p, q.2, q.1))
          else s2.bestPlace (s2.asks phase taken [(a, p)]) (placeDies rest) jb.homeHub
        plan.bind fun new =>
          let jb2 : Job := { jb with place := rest ++ new, phase := phase }
          let s2 := s2.setJob j jb2
          let s3 := (new ++ again).foldl (fun s q => s.takeStall j jb2 q.1 q.2.2) s2
          (s3.moveHalls j p halls).map fun s =>
            let s := (s.commitStalls j ((new ++ again).map fun q => q.2.2)).writeArbRotas
            let s := (s.charge j 0xC0 1).count (pageNo .clerk 0) 0x60 1
            let new := (new.head?.map fun q => q.2.2).getD 0
            s.raise (s.mkEv 0x6401 0 (some j) .clerk 0 0
              (jb.tenant.toNat + 2 ^ 32 * p + 2 ^ 40 * moveCode why + 2 ^ 42 * (old.head?.getD 0) + 2 ^ 53 * new))

/-- Does a pitch of a job lie on a fenced stall? -/
def State.pitchFenced (s : State) (jb : Job) (p : Nat) : Bool :=
  jb.place.any fun (q : Nat × Nat × Nat) => q.1 = p && s.clerk.fences.contains q.2.2

/-- May the Clerk move a pitch for a reason now (R378, R468)? -/
def State.mayMove (s : State) (j p : Nat) (jb : Job) (why : MoveWhy) : Bool :=
  let fenced := s.pitchFenced jb p
  jb.movable p && jb.state != 5 && !s.jobActive j && jb.steps.all (fun x => x.closed.isSome || x.start = 0)
    && (match why with
      | .fence => fenced
      | .admission => true
      | _ => bit (s.live .policy 0 0x108) 0)
    && (jb.cls != 1 || timeTest jb.length jb.deadline jb.period s.kMax 3
      || jb.stalls.any fun sn => s.clerk.fences.contains sn)

/-- Does the Clerk abort the step of a pre-empted job, to rerun it elsewhere with a new phase (R379)? -/
def State.leavesPreempted (s : State) (j : Nat) (jb : Job) (why : MoveWhy) : Bool :=
  jb.preempted && why = .admission && s.jobActive j && jb.steps.any fun x => jb.abortable s.bell.now x && x.abort.isNone

/-- PITCH_MOVE (R378): a move keeps the phase unless it makes room for an admission; a fenced pitch with no placement
fails its job. A running step of a pre-empted job that is to move is aborted first (R379, log entry 79). -/
def execPitchMove (t j p : Nat) (why : MoveWhy) (stalls halls : List Nat) (phase : Nat) (s : State) :
    Host.Outcome State Fault Refusal :=
  let s := s.advance t
  .next (s.onClerk (match s.job j with
    | none => s
    | some jb =>
      if s.leavesPreempted j jb why then s.abortSteps j 0x6402
      else if !s.mayMove j p jb why then s
      else
        let ph := if why = .admission && !jb.spans then phase % 64 else jb.phase
        match s.movePitch j p ph why stalls halls with
        | some s => s
        | none => if why = .fence then s.failJob j 0x6103 else s))

/-! ### Reruns (R305, R403 to R405) -/

/-- A discarded attempt of a step gives way to the next, which awaits its go. -/
def StepSt.again (x : StepSt) : StepSt :=
  { x with
    start := 0, attempt := x.attempt + 1, sched := false, groups := [], closed := none, flags := 0, peers := [], sent := false
    due := none, armed := none, deferred := false }

/-- Pitches on fenced stalls move; none where one has no placement (R305, R378). -/
def State.moveFenced (s : State) (j : Nat) (moves : List (Nat × List Nat × List Nat)) : Option State :=
  match s.job j with
  | none => some s
  | some jb => (List.range jb.adm.length).foldl (fun (o : Option State) p => o.bind fun s =>
      if !s.pitchFenced jb p then some s
      else
        let m := ((moves.find? fun (q : Nat × List Nat × List Nat) => q.1 = p).map (·.2)).getD ([], [])
        s.movePitch j p jb.phase .fence m.1 m.2) (some s)

/-- Steps 2 to 4 of R403 once the stalls have drained: ABORT, internal discard, and re-placement. -/
def State.restoreSteps (s : State) (j : Nat) (moves : List (Nat × List Nat × List Nat)) : State :=
  match s.job j with
  | none => s
  | some jb =>
    let gone := jb.steps.filter fun (x : StepSt) => jb.abortable s.bell.now x && x.abort.isSome
    if gone.isEmpty then s
    else
      let s := gone.foldl (fun (s : State) (x : StepSt) => if x.abort = some 0 then s else s.sendAborts j x.n) s
      let s := gone.foldl (fun (s : State) (x : StepSt) => s.discardStep j x.n false) s
      let s := match s.job j with
        | some jb => s.setJob j (Job.settled { jb with
            steps := jb.steps.map fun (x : StepSt) => if jb.abortable s.bell.now x && x.abort.isSome then x.again else x })
        | none => s
      match s.moveFenced j moves with
      | some s => s
      | none => s.failJob j 0x6103

/-- RERUN_ARM on every stall of a job (R404). -/
def State.armStalls (s : State) (t j : Nat) : State :=
  match s.job j with
  | none => s
  | some jb => jb.stalls.foldl (fun (s : State) sn => match (s.stall sn).slotOf j with
      | some k => s.writeReg t s.primary (regAddr .cdie (sn / 128) 0x130) (BitVec.ofNat 32 (sn % 128 + 2 ^ 8 * k + 2 ^ 12))
      | none => s) s

/-- The rerun of a job's oldest unresolved step starts where it may, with STEP_ABORTED (R403). -/
def State.rerunStep (s : State) (t j : Nat) (agreed : Option Nat) : State :=
  match s.job j with
  | none => s
  | some jb => match jb.steps.head? with
    | none => s
    | some x => match x.abort with
      | none => s
      | some cause =>
        if x.start != 0 then s
        else match s.goTick t j x.n jb agreed with
          | none => s
          | some a =>
            let s := (s.armStalls t j).go t j x.n a
            s.raise (s.mkEv 0x6304 0 (some j) .clerk 0 (x.n % 2 ^ 32) (cause % 65536 + 2 ^ 16 * (x.made % 256)))

/-- STEP_RERUN_GO (R403): `moves` are the stalls and hall pages preferred for pitches on fenced stalls. -/
def execStepRerunGo (t j : Nat) (moves : List (Nat × List Nat × List Nat)) (agreed : Option Nat) (s : State) :
    Host.Outcome State Fault Refusal :=
  let s := s.advance t
  .next (s.onClerk (match s.job j with
    | none => s
    | some jb =>
      if s.jobActive j || jb.state = 5 || s.closing j || jb.steps.any fun x => s.abortingStep j x.n then s
      else (s.restoreSteps j moves).rerunStep t j agreed))

/-- STEP_WATCHDOG_EXPIRY (R402). -/
def execStepWatchdogExpiry (t j : Nat) (s : State) : Host.Outcome State Fault Refusal :=
  let s := s.advance t
  .next (s.onClerk (match s.job j with
    | none => s
    | some jb => match jb.steps.find? fun (x : StepSt) => x.start != 0 && x.closed.isNone && x.abort.isNone with
      | none => s
      | some x =>
        if jb.watchdog = 0 || decide (t < x.start + jb.watchdog * 3300000) then s
        else s.raise (s.mkEv 0x6303 0 (some j) .clerk 0 (x.n % 2 ^ 32) 0)))

/-! ### Deadlines and pre-emption (R379, R382) -/

/-- DEADLINE_TIMER (R382): at its release plus D a DEADLINE step has not closed. -/
def execDeadlineTimer (j : Nat) (s : State) : Host.Outcome State Fault Refusal :=
  .next (s.onClerk (match s.job j with
    | none => s
    | some jb =>
      let late (x : StepSt) : Bool := !x.missed && match x.closed with
        | some c => decide (x.release + jb.deadline < c)
        | none => true
      match jb.steps.find? late with
      | none => s
      | some x =>
        if jb.cls != 1 then s
        else
          let s := s.advance (x.release + jb.deadline)
          let s := s.setJob j (jb.updStep x.n fun y => { y with missed := true })
          (s.charge j 0xB8 1).raise (s.mkEv 0x6102 0 (some j) .clerk 0 (x.n % 2 ^ 32) jb.tenant.toNat)))

/-- Are all positions of a job FREE on every stall at the coming round boundary, at which the Clerk's committed rotas take
effect (R379, R464)? -/
def State.positionsFree (s : State) (jb : Job) : Bool :=
  jb.stalls.all fun sn => ([Eng.mx, .vx, .pt, .ex]).all fun e =>
    (List.range 64).all fun i => !bit ((jb.needs sn).getD e.num 0) i
      || bit (s.shadowOf .stall sn (0x300 + 0x40 * e.num + 4 * (i / 4))) (8 * (i % 4) + 6)

/-- PREEMPT_RESUME (R379). -/
def execPreemptResume (t j : Nat) (s : State) : Host.Outcome State Fault Refusal :=
  let s := s.advance t
  .next (s.onClerk (match s.job j with
    | some jb => if jb.preempted && s.positionsFree jb then s.resumeJob j true else s
    | none => s))

end Sys2Proof.Machine
end

