-- ==== Sys2Proof/Machine/Inspect.lean ====
section
/-! DEFINITION. What the opening inspection and SELFTEST do with their findings (R196, R225, R243, R409, R410, R417, R418),
and the fence map of SUMMARY and of attestation (R421, R453). -/
namespace Sys2Proof.Machine

/-! ### Stall tests (R196, R417) -/

/-- A stall after its store and array stages: every row tested and scrubbed, every bank without an owner and in retention. -/
def Stall.tested (st : Stall) (now : Nat) : Stall :=
  { st.accrue now with
    words := [], side := [], stamps := [], tstatus := [], tshown := [], banks := [], rings := [], array := .empty
    errs := [], testQ := [], regions := [], exhausted := false }

/-- The failing rows of a bank that the store stage has mapped to its spare rows, at most four (R196). -/
def State.mapSpares (s : State) (sn b : Nat) (rows : List Nat) : State :=
  let st := s.stall sn
  s.setStall sn (st.setBank b { st.bank b with spares := rows.take 4 })

/-- A stall event of the inspection. -/
def State.stallEv (s : State) (code sn aux : Nat) : Ev := ⟨code, 3, none, pageId .stall sn, 0, s.bell.now, BitVec.ofNat 64 aux⟩

/-- The stall stages over stalls in scope; each failure raises its event and fences. A die whose hall store fails is
fenced whole, with no event code of its own (log entry 49). -/
def State.testStalls (s : State) (scope : List Nat) (f : Inspection) : State :=
  let s := { s with stalls := s.stalls.map fun (q : Nat × Stall) =>
    if scope.contains q.1 then (q.1, q.2.tested s.bell.now) else q }
  let s := (f.spares.filter fun (q : Nat × Nat × List Nat) => scope.contains q.1).foldl
    (fun (s : State) (q : Nat × Nat × List Nat) => s.mapSpares q.1 q.2.1 q.2.2) s
  let s := (f.repair.filter fun (q : Nat × Nat × Nat) => scope.contains q.1).foldl (fun (s : State) (q : Nat × Nat × Nat) =>
    (s.setStall q.1 { s.stall q.1 with exhausted := true }).raise (s.stallEv 0x2102 q.1 (bankRow q.2.1 q.2.2))) s
  let s := (f.scan.filter scope.contains).foldl (fun (s : State) sn => s.raise (s.stallEv 0x6509 sn 0)) s
  let dies := (f.halls.filter fun c => scope.any fun sn => sn / 128 = c)
  dies.foldl (fun (s : State) c => (s.stallsOf c (c + 1)).foldl (fun (s : State) sn => s.fence sn 0) s) s

/-! ### Bridges and stacks (R225, R243, R417) -/

/-- Every channel trains; one that did not is down in both directions. -/
def State.trainBridges (s : State) (failed : List Nat) : State :=
  let live (c : Nat) : Bool := !failed.contains (c / 16 * 8 + c % 8)
  let s := { s with chans := (List.range 336).map fun c => (c, { Channel.empty with live := live c }) }
  let s := failed.foldl (fun (s : State) c => s.raise (s.mkEv 0x3401 1 none .cdie (joinDie (c / 8)) 0 (c / 8 + 256 * (c % 8)))) s
  ((List.range 21).filter fun j => s.liveMask j = 0).foldl (fun (s : State) j => s.bridgeDown j) s

/-- Stacks that did not train are taken out of service. -/
def State.trainStacks (s : State) (failed : List Nat) : State :=
  (failed.filter fun m => !s.outStacks.contains m).foldl (fun (s : State) m =>
    { s with outStacks := s.outStacks ++ [m] }.raise (s.mkEv 0x4105 1 none .hbm m 0 (m * 2 ^ 36))) s

/-- The whole device is tested: stalls, bridges and stacks, and memory is left zero-filled (R418). -/
def State.testDevice (s : State) (f : Inspection) : State :=
  let s := { s with mem := [], marks := [], clerk := { s.clerk with lastOwner := [] } }
  ((s.testStalls (s.stallsOf 0 12) f).trainBridges f.channels).trainStacks f.downStacks

/-! ### SELFTEST (R411, R418) -/

/-- Is a stall unowned: no bank with an owner, no valid JOB_SLOT entry, and nothing given to a job by a COMMIT to come? -/
def State.unowned (s : State) (sn : Nat) : Bool :=
  let st := s.stall sn
  (List.range 128).all (fun b => (st.bank b).owner = 0#8 && st.ownerEntry b = 0#8)
    && (List.range 8).all (fun k => !(st.jobSlot k).valid) && (s.slotsUsed sn).isEmpty

/-- Present stalls in the scope of a SELFTEST. -/
def State.testScope (s : State) (d : List Byte) : List Nat :=
  let n := descField d 34 2
  match descField d 32 1 with
  | 0 => s.stallsOf 0 12
  | 1 => if n < 12 then s.stallsOf n (n + 1) else []
  | _ => if s.stallPresent n then [n] else []

/-- Does the condition of a SELFTEST hold? -/
def State.testReady (s : State) (d : List Byte) : Bool :=
  if descField d 32 1 = 0 then s.openJobs.isEmpty else (s.testScope d).all s.unowned

/-- A SELFTEST runs and completes OK; what it finds is fenced. -/
def State.selftest (s : State) (seq : Nat) (d : List Byte) (f : Inspection) : State :=
  (if descField d 32 1 = 0 then s.testDevice f else s.testStalls (s.testScope d) f).finish seq 0 0 0 0 0 none

/-- A SELFTEST as it starts: refused, run at once, queued, or BUSY (R418, R445). -/
def State.startTest (s : State) (seq : Nat) (d : List Byte) (f : Inspection) : State :=
  if (s.testScope d).isEmpty then s.refuse seq 0x6201
  else if s.testReady d then s.selftest seq d f
  else if bit (descField d 1 1) 0 && decide (s.clerk.selfq.length < 4) then
    { s with clerk := { s.clerk with selfq := s.clerk.selfq ++ [seq] } }.markStarted seq
  else s.finish seq 3 0 0 0 0 none

/-- SELFTEST (R418). -/
def execSelftest (t seq : Nat) (f : Inspection) (s : State) : Host.Outcome State Fault Refusal :=
  .next (s.on (s.runCommand t seq 0x10 fun s x => if s.clerk.selfq.contains seq then s else s.startTest seq x.desc f))

/-- SELFTEST_QUEUED_START (R418): a queued SELFTEST whose condition holds. -/
def execSelftestQueuedStart (t seq : Nat) (f : Inspection) (s : State) : Host.Outcome State Fault Refusal :=
  .next (s.on (s.runCommand t seq 0x10 fun s x =>
    if s.clerk.selfq.contains seq && s.testReady x.desc then s.selftest seq x.desc f else s))

/-! ### Fencing by command (R411) -/

/-- FENCE_STALL (R411, R445). -/
def execFenceStall (t seq : Nat) (s : State) : Host.Outcome State Fault Refusal :=
  .next (s.on (s.runCommand t seq 0x11 fun s x =>
    let sn := descField x.desc 32 2
    if !s.stallPresent sn then s.refuse seq 0x6201 else ((s.fence sn 0).post).finish seq 0 0 0 0 0 none))

/-- A fenced stall that passes its tests serves again. -/
def State.unfence (s : State) (sn : Nat) : State :=
  let s := s.setStall sn { s.stall sn with fenced := false }
  let s := { s with clerk := { s.clerk with
    fences := s.clerk.fences.filter fun n => n != sn
    strikes := s.clerk.strikes.filter fun (q : Nat × Nat) => q.1 != sn } }
  s.raise ⟨0x6503, 0, none, pageId .stall sn, 0, s.bell.now, 0#64⟩

/-- Does a stall pass its tests: no failing row left unmapped, no scan failure, and its die's hall store sound (R417)? -/
def stallPasses (f : Inspection) (sn : Nat) : Bool :=
  f.repair.all (fun (q : Nat × Nat × Nat) => q.1 != sn) && !f.scan.contains sn && !f.halls.contains (sn / 128)

/-- UNFENCE_STALL (R411, R445): the stall tests find `f`, and what they find is raised. A stall that is not fenced is not
tested: the command fails (log entry 50). -/
def execUnfenceStall (t seq : Nat) (f : Inspection) (s : State) : Host.Outcome State Fault Refusal :=
  .next (s.on (s.runCommand t seq 0x12 fun s x =>
    let sn := descField x.desc 32 2
    if !s.stallPresent sn then s.refuse seq 0x6201
    else if !s.clerk.fences.contains sn then s.finish seq 1 0 0 0 0 none
    else
      let s := s.testStalls [sn] f
      if stallPasses f sn then (s.unfence sn).finish seq 0 0 0 0 0 none else s.finish seq 1 0 0 0 0 none))

/-! ### The fence map (R421) -/

/-- A bitmap of `n` bytes. -/
def bitmap (n : Nat) (f : Nat → Bool) : List Byte := (List.range n).map fun i => BitVec.ofNat 8 (maskOf 8 fun b => f (8 * i + b))

/-- Is a port fenced or LOST? -/
def State.portOut (s : State) (p : Nat) : Bool :=
  s.portPresent p && ((s.aisle p).state = 4 || (s.aisle p).state = 6 || bit (s.live .aisle p 0x104) 3)

/-- The 512 bytes of the fence map. -/
def State.fenceMap (s : State) : List Byte :=
  bitmap 192 s.clerk.fences.contains ++ bitmap 192 (fun n => !s.stallPresent n) ++ bitmap 2 s.outStacks.contains
    ++ bitmap 2 (fun p => decide (p < 12) && s.portOut p) ++ bitmap 2 (fun p => decide (p < 12) && !s.portPresent p)
    ++ (List.range 9).map (fun j => BitVec.ofNat 8 (s.liveMask (12 + j)))
    ++ (List.range 12).map (fun j => BitVec.ofNat 8 (s.liveMask j)) ++ List.replicate 101 0#8

end Sys2Proof.Machine
end

