-- ==== Sys2Proof/Machine/Service.lean ====
section
/-! DEFINITION. Commands that name no job's step: SET_POLICY (R349, R440), TWIN_BIND (R356), ECHO with attestation (R452,
R453), SUMMARY (R419 to R423), and the counter snapshots of the trace port (R470, R485). -/
namespace Sys2Proof.Machine

/-! ### SET_POLICY (R440) -/

/-- The ROUTE words that a SET_POLICY body asks for, by its dimensions or over the cabling found by IDENT (R349, R440). -/
def State.policyRoute (s : State) (d : List Byte) (p : Nat) : Nat :=
  let f := descField d 32 1
  let n := descField d 35 1
  if bit f 3 then s.torusRoute [bits n 1 0 + 1, bits n 3 2 + 1, bits n 5 4 + 1] p
  else s.cabledRoute p

/-- The ROUTE entries are written on every hub, and the HDIE pages committed. -/
def State.writeRoutes (s : State) (d : List Byte) : State :=
  let ws := (List.range 64).map fun p => s.policyRoute d p
  (List.range 4).foldl (fun (s : State) h =>
    (s.setPage (pageNo .hdie h) ((ws.zipIdx).foldl (fun (x : Page) (q : Nat × Nat) =>
      x.writeRW .hdie h (0x400 + 4 * q.2) (BitVec.ofNat 32 q.1)) (s.page (pageNo .hdie h)))).requestCommit .hdie h) s

/-- mark_out and the expected peer of every present port. -/
def State.writePorts (s : State) (d : List Byte) : State :=
  let marks := descField d 36 2
  ((List.range 12).filter s.portPresent).foldl (fun (s : State) p =>
    let e := descField d (40 + 2 * p) 2
    let w := s.shadowOf .aisle p 0x104
    let keep := bits w 0 0 + 4 * bits w 3 2
    (s.shadow .aisle p 0x104 (keep + 2 * b2n (bit marks p) + 2 ^ 4 * bits e 5 0 + 2 ^ 10 * bits e 9 6 + 2 ^ 14 * bits e 10 10)).requestCommit
      .aisle p) s

/-- Sources, master, mask scope and pin delay. -/
def State.writeSync (s : State) (d : List Byte) : State :=
  let f := descField d 32 1
  let out := bits (s.shadowOf .bell 0 0x110) 10 10
  let s := s.shadow .bell 0 0x110 (descField d 34 1 + 2 ^ 8 * bits f 1 1 + 2 ^ 9 * bits f 2 2 + 2 ^ 10 * out)
  let s := (s.shadow .bell 0 0x114 (descField d 38 2)).requestCommit .bell 0
  { s with bell := { s.bell with masterNext := some (descField d 33 1, s.atBoundary) } }

/-- A SET_POLICY body is applied and kept for the configuration measurement (R453). -/
def State.applyPolicy (s : State) (d : List Byte) : State :=
  let s := { s with clerk := { s.clerk with policy := (d.drop 32).take 92 } }
  ((s.writeSync d).writePorts d).writeRoutes d

/-- A SET_POLICY as it starts. -/
def State.setPolicy (s : State) (seq : Nat) (d : List Byte) : State :=
  let acq := bit (descField d 32 1) 0 && s.bell.state != 2
  if s.openJobs.any fun j => ((s.job j).map Job.spans).getD false then s.refuse seq 0
  else if acq && !s.openJobs.isEmpty then (s.raise (s.mkEv 0xA205 0 none .bell 0 0 0)).refuse seq 0xA205
  else
    let s := s.applyPolicy d
    if acq then
      { s with clerk := { s.clerk with acquiring := some (seq, s.bell.nextRound + 4 * 2 ^ 20) } }.markStarted seq
    else s.finish seq 0 0 0 0 0 none

/-- SET_POLICY (R440): with acquisition it completes at BELL_ACQUIRED. -/
def execSetPolicy (t seq : Nat) (s : State) : Host.Outcome State Fault Refusal :=
  .next (s.on (s.runCommand t seq 0x20 fun s x => if x.started then s else s.setPolicy seq x.desc))

/-- SET_POLICY_SYNC_TIMEOUT (R440): four sync periods without BELL_ACQUIRED. -/
def execSetPolicySyncTimeout (t : Nat) (s : State) : Host.Outcome State Fault Refusal :=
  let s := s.advance t
  .next (s.onClerk (match s.clerk.acquiring with
    | some (seq, limit) =>
      if t < limit then s
      else ({ s with clerk := { s.clerk with acquiring := none }, bell := { s.bell with acqPending := false } }).finish seq 1 0xA201
        0 0 0 none
    | none => s))

/-! ### TWIN_BIND (R356) -/

/-- A TWIN_BIND: an absent path port or a partner of the same side is refused; an interval of 0 unbinds. -/
def State.twinBind (s : State) (seq j : Nat) (jb : Job) (d : List Byte) : State :=
  let path := descField d 35 1
  let n := descField d 32 2
  let same := decide (path < 12) && (s.aisle path).peerValid && (s.aisle path).peerSide = s.pins.twin
  if path < 12 && !s.portPresent path then s.refuse seq 0x6201
  else if !jb.steps.isEmpty || s.jobActive j then s
  else if n != 0 && (same || decide (path < 12) && !s.twinPort path) then s.refuse seq 0x6201
  else
    let w : TwinSt := ⟨n, descField d 34 1, path, descField d 36 2, false, false, 0, [], [], []⟩
    (s.setJob j { jb with twin := if n = 0 then none else some w }).finish seq 0 0 0 0 0 none

/-- TWIN_BIND (R356, R445). -/
def execTwinBind (t seq : Nat) (s : State) : Host.Outcome State Fault Refusal :=
  .next (s.on (s.runCommand t seq 0x30 fun s x =>
    match s.job (descJob x.desc) with
    | some jb => s.twinBind seq (descJob x.desc) jb x.desc
    | none => s))

/-! ### ECHO and attestation (R452, R453) -/

/-- The configuration measurement. -/
def State.configDigest (s : State) : List Byte :=
  sha512 (s.fenceMap ++ (List.range 448).flatMap (fun i => leBytes 4 (s.liveWord (regAddr .policy 0 (0x100 + 4 * i))).toNat)
    ++ s.clerk.policy)

/-- Bytes 0 to 1,023 of an attestation report. -/
def State.reportBody (s : State) (nonce : List Byte) : List Byte :=
  [0x59#8, 0x54#8, 0x32#8, 0x41#8] ++ leBytes 2 1 ++ leBytes 2 1536 ++ leBytes 8 s.fuses.serial.toNat ++ leBytes 8 s.bell.now
    ++ (nonce ++ List.replicate 32 0#8).take 32
    ++ (match s.boot.image with | some m => m.digest | none => List.replicate 64 0#8) ++ s.configDigest
    ++ leBytes 8 s.fuses.rollback ++ leBytes 1 s.fuses.grade ++ leBytes 1 s.boot.dev ++ List.replicate 318 0#8
    ++ leBytes 512 Config.identityModulus

/-- The 1,536 bytes of an attestation report. -/
def State.report (s : State) (nonce : List Byte) : List Byte :=
  let b := s.reportBody nonce
  b ++ leBytes 512 (Config.identitySign b)

/-- An ECHO: its data come back; with attest set a report is written first. -/
def State.echo (s : State) (seq : Nat) (d : List Byte) : State :=
  let data := descField d 32 8
  if !bit (descField d 40 1) 0 then s.finish seq 0 0 data 0 0 none
  else if !s.clerkUp 0 then s.refuse seq 0x6201
  else (s.writeLines (descField d 48 8) (s.report ((d.drop 56).take 32))).finish seq 0 0 data 0 0 none

/-- ECHO (R452). -/
def execEcho (t seq : Nat) (s : State) : Host.Outcome State Fault Refusal :=
  .next (s.on (s.runCommand t seq 0x7E fun s x => s.echo seq x.desc))

/-! ### SUMMARY (R419 to R423) -/

/-- The header. -/
def State.sumHeader (s : State) (len entries : Nat) : List Byte :=
  let m := s.boot.image
  ([0x59#8, 0x53#8, 0x55#8, 0x4D#8] ++ leBytes 2 1 ++ leBytes 2 256 ++ leBytes 4 len ++ leBytes 1 s.boot.dev
    ++ leBytes 1 s.bell.state ++ leBytes 1 s.primary ++ leBytes 1 (min s.clerk.restarts 255) ++ leBytes 8 s.bell.now
    ++ leBytes 8 s.fuses.serial.toNat ++ leBytes 4 (192 * s.rows)
    ++ leBytes 4 (match m with | some x => x.version.toNat | none => 0) ++ leBytes 8 s.fuses.rollback
    ++ (match m with | some x => x.digest | none => List.replicate 64 0#8)
    ++ leBytes 4 (match s.events.last with | some r => r.seq | none => 0) ++ leBytes 4 s.events.recs.length ++ leBytes 4 entries
    ++ leBytes 8 (s.clerk.results.foldl (fun a r => max a r.seq) 0) ++ List.replicate 256 0#8).take 256

/-- A job's state as R422 codes it. -/
def Job.sumState (jb : Job) : Nat := if jb.suspended && 1 ≤ jb.state && jb.state ≤ 3 then 4 else jb.state

/-- A job entry. -/
def State.sumJob (s : State) (j : Nat) : List Byte :=
  match s.job j with
  | none => leBytes 1 j ++ List.replicate 63 0#8
  | some jb =>
    leBytes 1 j ++ leBytes 1 jb.sumState ++ leBytes 1 jb.cls ++ leBytes 1 jb.phase ++ leBytes 4 jb.tenant.toNat
      ++ leBytes 8 jb.lastSeq ++ leBytes 8 jb.consumed ++ leBytes 8 jb.resolved ++ leBytes 8 jb.resolvedAt
      ++ leBytes 1 jb.resolution ++ leBytes 1 (match jb.steps with | x :: _ => x.attempt | [] => 0)
      ++ leBytes 2 (if jb.state = 5 then jb.failure else 0) ++ leBytes 2 jb.stalls.length ++ leBytes 1 jb.rate ++ [0#8]
      ++ leBytes 8 jb.openTick ++ List.replicate 8 0#8

/-- An event record in SUMMARY: bit 7 of byte 2 tells that it is not yet posted. -/
def EvRec.sumBytes (r : EvRec) : List Byte :=
  (r.bytes.zipIdx).map fun (q : Byte × Nat) => if q.2 = 2 && !r.posted then q.1 ||| 0x80#8 else q.1

/-- The bytes of a counter entry. -/
def entryBytes (addr count sum : Nat) : List Byte := leBytes 4 addr ++ leBytes 4 count ++ leBytes 8 (min sum (2 ^ 64 - 1))

/-- A counter summed over the 128 pages of a compute die. -/
def State.dieSum (s : State) (p : PageTy) (c o : Nat) : Nat :=
  ((List.range 128).map fun i =>
    let n := 128 * c + i
    if !s.pagePresent p n then 0
    else if p = .stall then (((s.stall n).accrue s.bell.now).page.counter o).toNat
    else ((s.page (pageNo p n)).counter o).toNat).sum

/-- Entries of a page type that is summed per die. -/
def State.dieEntries (s : State) (p : PageTy) : List (List Byte) :=
  (List.range 12).flatMap fun c => p.counters.map fun o => entryBytes (regAddr p (128 * c) o) 128 (s.dieSum p c o)

/-- Entries of instances `a` up to `b` of a page type, one page each. -/
def State.pageEntries (s : State) (p : PageTy) (a b : Nat) : List (List Byte) :=
  ((List.range b).filter fun i => decide (a ≤ i) && s.pagePresent p i).flatMap fun i =>
    p.counters.map fun o => entryBytes (regAddr p i o) 1 ((s.page (pageNo p i)).counter o).toNat

/-- The counter entries, in ascending address of their first page (R423, log entry 53). -/
def State.counterEntries (s : State) : List (List Byte) :=
  ([PageTy.device, .bell, .policy, .fault, .trace, .power, .security, .clerk, .lemef, .aisle, .hdie, .update, .sched, .hbm,
    .ledger, .cdie].flatMap fun p => s.pageEntries p 0 p.span.2)
    ++ s.dieEntries .arb ++ s.pageEntries .arb 1536 1618 ++ s.dieEntries .stall

/-- The SUMMARY record. -/
def State.sumRecord (s : State) : List Byte :=
  let es := s.counterEntries
  s.sumHeader (0x3300 + 16 * es.length) es.length ++ s.fenceMap ++ (List.range 64).flatMap s.sumJob
    ++ (s.events.recs.flatMap EvRec.sumBytes ++ List.replicate 8192 0#8).take 8192 ++ es.flatten

/-- A SUMMARY: the snapshot is taken at the round boundary to come; a buffer shorter than the record fails (R445). -/
def State.summary (s : State) (seq : Nat) (d : List Byte) : State :=
  let s := s.advance s.bell.nextRound
  let r := s.sumRecord
  if descField d 40 4 < r.length then (s.raise (s.mkEv 0x6203 0 none .clerk 0 0 (seq % 2 ^ 64))).finish seq 1 0x6203 0 0 0 none
  else (s.writeLines (descField d 32 8) r).finish seq 0 0 r.length 0 0 none

/-- SUMMARY (R419). -/
def execSummary (t seq : Nat) (s : State) : Host.Outcome State Fault Refusal :=
  .next (s.on (s.runCommand t seq 0x7F fun s x => s.summary seq x.desc))

/-! ### Counter snapshots on the trace port (R470, R485) -/

/-- Tick of a snapshot: the frame boundary now or to come whose number is a multiple of 2^snap_log2. -/
def State.snapTick (s : State) : Nat := upTo (262144 * 2 ^ bits (s.live .trace 0 0x100) 11 8) (max 1 s.bell.now)

/-- TRACE_COUNTER_SNAPSHOT (R485): every entry of R423 goes out as one COUNTER record. -/
def execTraceCounterSnapshot (s : State) : Host.Outcome State Fault Refusal :=
  .next (s.on (let w := s.live .trace 0 0x100
    if !bit w 0 || bits w 11 8 = 0 then s
    else
      let s := s.advance s.snapTick
      s.counterEntries.foldl (fun (s : State) e => s.traceRec 3 (e ++ leBytes 8 s.bell.now)) s))

end Sys2Proof.Machine
end

