-- ==== Sys2Proof/Machine/Lemef.lean ====
section
/-! DEFINITION. LemefLink half-ports (R338 to R340 as R429 and R430 apply them), companion accesses (R431 to R433), and the
loss of the companion (R414). -/
namespace Sys2Proof.Machine

/-! ### Receiving slots (R427 to R430) -/

/-- What ack and credits of a received slot do at the transmitter. -/
def Half.takeAck (f : Half) (t : Nat) (x : Slot) : Half :=
  let f := match (if x.ackValid then lfind (fun q : TxFlit => q.seq = x.ack) f.replay 0 else none) with
    | some (i, _) => { f with replay := f.replay.drop (i + 1), ackAt := t }
    | none => f
  { f with credits := lmod f.credits x.crPool (· + x.crCount), goodAt := t }

/-- A slot that is discarded: NAK goes with the next slot, once until the expected slot arrives. -/
def State.nakHalf (s : State) (t h : Nat) : State :=
  let f := s.half h
  if f.nakAt.isSome then s else s.setHalf h { f with nakAt := some t, nakOwed := true }

/-- A slot to be sent again, as it was asked for. -/
def slotAgain (b : List Byte) : SlotReq :=
  let x := slotOf b
  ⟨x.ty, x.pool, x.tag, x.addr, x.mask, x.data, x.status, none⟩

/-- What a half-port that is lost still has to send: the requests whose responses have not come, the responses that are not
acknowledged, and what waits. -/
def Half.unsent (f : Half) : List SlotReq :=
  f.asked ++ (f.replay.map fun (q : TxFlit) => slotAgain q.bytes).filter (fun q => !slotAsks q.ty) ++ f.queue

/-- A half-port goes LOST (R429): LEMEF_DOWN is raised, and what it has still to send moves to the half that carries its traffic,
where requests in flight are issued again. -/
def State.loseHalf (s : State) (h : Nat) : State :=
  let f := s.half h
  let s := (s.setHalf h { f with
    state := 3, replay := [], queue := [], asked := [], credits := [0, 0, 0, 0, 0], owed := [0, 0, 0, 0, 0], nakAt := none
    nakOwed := false }).freeOutput (lemefArb h) (h % 2)
  let s := f.unsent.foldl (fun (s : State) q => s.sendSlot h q) s
  s.raise (s.mkEv 0x5201 1 none .lemef (h / 2) 0 h)

/-- The slots held for replay are sent again in order; a slot that has been sent 16 times loses the half (R339, R429). -/
def State.replayHalf (s : State) (t h : Nat) : State :=
  let f := s.half h
  if f.replay.isEmpty then s
  else if f.replay.any fun q => decide (16 ≤ q.tries) then s.loseHalf h
  else
    let again := f.replay.map fun (q : TxFlit) => { q with tries := q.tries + 1 }
    let s := s.setHalf h { f with replay := again, nakOwed := false }
    let s := (again.zipIdx).foldl (fun (s : State) q =>
      s.emit (.slot t h ({ slotOf q.1.bytes with
        ack := (f.rxSeq + 4095) % 4096, ackValid := f.acked, nak := f.nakOwed && q.2 = 0, crPool := 0, crCount := 0 } : Slot).bytes)) s
    (s.count (lemefPage h) 0x50 again.length).occupy (lemefArb h) (h % 2) again.length

/-- An accepted slot: a request of the companion waits, a response answers its request and is taken at once. -/
def State.acceptSlot (s : State) (h : Nat) (x : Slot) (b : List Byte) : State :=
  let f := s.half h
  let wait := slotAsks x.ty || x.ty = 6
  let answered (q : SlotReq) : Bool := !wait && q.tag = x.tag
  let s := s.setHalf h { f with
    rxSeq := (f.rxSeq + 1) % 4096, acked := true, nakAt := none, nakOwed := false, asked := f.asked.filter fun q => !answered q
    inbox := if wait then f.inbox ++ [b] else f.inbox }
  let s := s.count (lemefPage h) 0x48 1
  if wait then s else s.oweSlot h x.pool

/-- A half-port enters UP: no credits held, its own split to return (R340, R430). -/
def State.enterHalf (s : State) (t h : Nat) : State :=
  let f := s.half h
  s.setHalf h { f with
    state := 2, txSeq := 0, rxSeq := 0, acked := false, replay := [], credits := [0, 0, 0, 0, 0], owed := slotSplit, ackAt := t
    goodAt := t, nakAt := none, nakOwed := false }

/-- A half-port that is being retrained is UP with the first good slot that it receives (R429, log entry 74). -/
def State.slotLock (s : State) (t h : Nat) (b : List Byte) : State :=
  if (s.half h).state = 1 && s.boot.trained && slotOk b then s.enterHalf t h else s

/-- LEMEF_SLOT_RECEIVE (R428, R429): a slot of a reserved type or pool counts as one that fails its crc. -/
def execLemefSlotReceive (t h : Nat) (b : List Byte) (s : State) : Host.Outcome State Fault Refusal :=
  let s := s.advance t
  let x := slotOf b
  .next (s.on (let s := s.slotLock t h b
    let f := s.half h
    if f.state != 2 then s
    else if !slotOk b || 7 < x.ty || (slotSequenced x.ty && 4 < x.pool) then (s.count (lemefPage h) 0x58 1).nakHalf t h
    else
      let s := s.setHalf h (f.takeAck t x)
      let s := if x.nak then s.replayHalf t h else s
      if (s.half h).state != 2 || !slotSequenced x.ty then s
      else if x.seq = f.rxSeq then s.acceptSlot h x b
      else s.nakHalf t h))

/-- LEMEF_ACK_TIMEOUT (R338, R429): unacknowledged slots and no ack progress for 1,024 slots, 3,072 ticks, nor a replay for
want of it. -/
def execLemefAckTimeout (t h : Nat) (s : State) : Host.Outcome State Fault Refusal :=
  let s := s.advance t
  let f := s.half h
  .next (s.on (if f.state = 2 && !f.replay.isEmpty && decide (max f.ackAt f.retryAt + 3072 ≤ t) then
    (s.setHalf h { f with retryAt := t }).replayHalf t h else s))

/-! ### Losing and training half-ports (R429, R448) -/

/-- LEMEF_HALF_LOST (R429). -/
def execLemefHalfLost (t h : Nat) (s : State) : Host.Outcome State Fault Refusal :=
  let s := s.advance t
  .next (s.on (if (s.half h).state != 2 then s else s.loseHalf h))

/-- LEMEF_RETRAIN (R429): a half that is not UP trains again. -/
def execLemefRetrain (t h : Nat) (s : State) : Host.Outcome State Fault Refusal :=
  let s := s.advance t
  let f := s.half h
  .next (s.on (if f.state = 2 || !s.boot.trained then s else s.setHalf h { f with state := 1 }))

/-- LEMEF_TRAINED (R448): both halves of both ports have trained, and the boot ROM waits for an image. -/
def execLemefTrained (s : State) : Host.Outcome State Fault Refusal :=
  .next (s.on (if s.boot.phase != 0 || s.boot.dev != 0 then s
    else
      let s := (List.range 4).foldl (fun (s : State) h => s.enterHalf s.bell.now h) s
      { s with boot := { s.boot with phase := 1, trained := true } }))

/-- COMPANION_LOSS_TIMEOUT (R414). -/
def execCompanionLossTimeout (t : Nat) (s : State) : Host.Outcome State Fault Refusal :=
  let s := s.advance t
  .next (s.on (if s.boot.dev = 0 || s.boot.dev = 3 then s
    else
      let s := s.raise (s.mkEv 0x6507 1 none .lemef 0 0 0)
      s.openJobs.foldl (fun (s : State) j => s.failJob j 0x6507) s))

/-! ### Companion accesses (R431, R432) -/

/-- The oldest slot of the given types in a half-port's buffer is taken; its place goes back. -/
def State.takeSlot (s : State) (h : Nat) (tys : List Nat) : Option (Slot × State) :=
  let f := s.half h
  match lfind (fun b => tys.contains (slotOf b).ty) f.inbox 0 with
  | some (i, b) => some (slotOf b, (s.setHalf h { f with inbox := ldel f.inbox i }).oweSlot h (slotOf b).pool)
  | none => none

/-- A response leaves in the pool of its request. -/
def State.respond (s : State) (h ty status : Nat) (x : Slot) (data : List Byte) : State :=
  s.sendSlot h ⟨ty, x.pool, x.tag, x.addr, 0#64, data, status, none⟩

/-- The open job and its mapping that give the companion access to an HBM line (R432). -/
def State.companionPage (s : State) (a : Nat) : Option (Nat × MapEnt) :=
  (s.openJobs.filterMap fun j => match s.job j with
    | some jb => (jb.maps.find? fun m => m.comp && m.pa / 2 ^ 21 = a / 2 ^ 21).map fun m => (j, m)
    | none => none).head?

/-- The HBM line that a companion access reaches, with its job and virtual address; none where it is refused. -/
def State.companionLine (s : State) (a : Nat) : Option (Nat × Nat) :=
  if hallBase ≤ a || s.hole a then none else (s.companionPage a).map fun q => (q.1, q.2.va + a % 2 ^ 21)

/-- First device address of the register window (R431). -/
def windowBase : Nat := 2 ^ 41

/-- Is a device address in the register window? -/
def inRegWindow (a : Nat) : Bool := decide (windowBase ≤ a) && decide (a < windowBase + 2 ^ 26)

/-- A refused access. -/
def State.refuseAccess (s : State) (h ty : Nat) (x : Slot) : State :=
  (s.count (lemefPage h) 0x68 1).respond h ty 1 x []

/-- The sixteen words of a line of the register window, low word first. -/
def State.readWindow (s : State) (agent a : Nat) : List Byte × State :=
  (List.range 16).foldl (fun (r : List Byte × State) i =>
    let q := r.2.readWord agent (a + 4 * i)
    (r.1 ++ leBytes 4 q.1.toNat, q.2)) ([], s)

/-- A read of an HBM line: data as stored, POISONED where the block is poisoned or still fails its check after the
re-reads of R247. -/
def State.readHbm (s : State) (h j va a : Nat) (x : Slot) (rd : ReadTry) : State :=
  let r := s.served j va a
  let pas := s.servedFrom j va a
  let pa := pas.headD a
  let bad := rd.bad
  let s := (pas.foldl (fun (s : State) p => s.countHbm p 0x40 1) s).countHbm pa 0x60 (b2n (r.2 && !bad))
  let s := s.countHbm pa 0x80 (b2n rd.corrected)
  let s := if bad then ((s.countHbm pa 0x40 2).countHbm pa 0x50 2).countHbm pa 0x68 1 else s
  (s.charge j 0x98 64).respond h 3 (if r.2 || bad then 2 else 0) x (lineBytes r.1)

/-- COMPANION_READ (R431, R432), with what the read of an HBM line meets. -/
def execCompanionRead (t h : Nat) (rd : ReadTry) (s : State) : Host.Outcome State Fault Refusal :=
  let s := s.advance t
  .next (s.on (match s.takeSlot h [1, 2] with
    | none => s
    | some (x, s) =>
      if inRegWindow x.addr then
        let r := s.readWindow (4 + h) (x.addr - windowBase)
        r.2.respond h 3 0 x r.1
      else match s.companionLine x.addr with
        | some (j, va) => s.readHbm h j va x.addr x rd
        | none => s.refuseAccess h 3 x))

/-- A mask of bytes as a mask of bits. -/
def byteMask (m : W64) : Nat := ((List.range 64).map fun i => b2n (m.getLsbD i) * (255 * 256 ^ i)).sum

/-- A LemefLink write meets the fetch directory (R263): STALE_COLLISIONS, and PREFETCH_STALE once per page and step. -/
def State.staleWrite (s : State) (a : Nat) : State :=
  let h := stackOf a / 4
  let hb := s.hub h
  match lfind (fun d : DirEnt => d.page = a / 2 ^ 21 && !d.jobs.isEmpty) hb.dir 0 with
  | none => s
  | some (i, d) =>
    let s := (s.setHub h { hb with dir := lset hb.dir i { d with raised := d.jobs } }).count (pageNo .hdie h) 0x78 1
    (d.jobs.filter fun j => !d.raised.contains j).foldl (fun (s : State) j =>
      s.raise (s.mkEv 0x4202 0 (some j) .hdie h (((s.job j).map (·.consumed)).getD 0 % 2 ^ 32) d.page)) s

/-- A write of an HBM line after `fails` failed tries: a full line stores a clean check, a partial one is read, merged and
written (R432), and one that fails all eight writes nothing (R248; it is acknowledged, and aborts no step, log entry 66). -/
def State.writeHbm (s : State) (h j va a : Nat) (x : Slot) (tries : MergeTries) : State :=
  let m := byteMask x.mask
  let pa := s.framePa j va a false
  let part := x.mask != BitVec.allOnes 64
  let s := if x.mask = 0#64 then s
    else
      let bad := tries.read.bad && part
      let s := if bad then ((s.countHbm pa 0x40 2).countHbm pa 0x50 2).countHbm pa 0x68 1 else s
      let s := s.countHbm pa 0x80 (b2n (tries.read.corrected && part))
      let w := s.writeFails pa tries.fails
      if w.2 then w.1.raise (w.1.mkEv 0x4103 1 none .hbm (stackOf pa) 0 pa)
      else (w.1.putServed j va a m (leAt x.data 0 64) bad).staleWrite a
  (s.charge j 0x98 64).respond h 5 0 x []

/-- Words of the register window that a slot's mask names, as (address, value). -/
def slotWrites (x : Slot) : List (Nat × W32) :=
  (List.range 16).filterMap fun i =>
    if bits x.mask.toNat (4 * i + 3) (4 * i) = 0 then none
    else some (x.addr - windowBase + 4 * i, BitVec.ofNat 32 (leAt x.data (4 * i) 4))

/-- Does a mask write part of a word? -/
def partWord (m : W64) : Bool :=
  (List.range 16).any fun i => let n := bits m.toNat (4 * i + 3) (4 * i); n != 0 && n != 15

/-- A refused write: one to an absent or unassigned page is counted on the DEVICE page (R459, R461). -/
def State.countRefused (s : State) (addr : Nat) : State :=
  match pageOf addr with
  | none => s.count (pageNo .device 0) 0x48 1
  | some (p, i) => if s.pagePresent p i then s else s.count (pageNo .device 0) 0x40 1

/-- A write of a line of the register window: with any word refused it changes nothing, and a refused line is one write (R459,
R461, log entry 54). -/
def State.writeWindow (s : State) (t h : Nat) (x : Slot) : State :=
  let ws := slotWrites x
  let absent := match pageOf (x.addr - windowBase) with
    | none => true
    | some (p, i) => !s.pagePresent p i
  if ws.isEmpty then s.respond h 5 0 x []
  else if absent then (s.countRefused (x.addr - windowBase)).refuseAccess h 5 x
  else if partWord x.mask || ws.any (fun (w : Nat × W32) => s.writeRefused (4 + h) w.1) then s.refuseAccess h 5 x
  else (ws.foldl (fun (s : State) w => s.writeReg t (4 + h) w.1 w.2) s).respond h 5 0 x []

/-- COMPANION_WRITE (R248, R431, R432). -/
def execCompanionWrite (t h : Nat) (tries : MergeTries) (s : State) : Host.Outcome State Fault Refusal :=
  let s := s.advance t
  .next (s.on (match s.takeSlot h [4] with
    | none => s
    | some (x, s) =>
      if inRegWindow x.addr then s.writeWindow t h x
      else match s.companionLine x.addr with
        | some (j, va) => s.writeHbm h j va x.addr x tries
        | none => s.refuseAccess h 5 x))

/-- Does an INVAL at the head of a half-port's buffer name the doorline that the device holds: does DOORLINE_INVAL take it (R436)? -/
def State.doorInval (s : State) (x : Slot) : Bool := s.lineCache && s.ringsOn && x.addr = s.lemefReg 0x128

/-- INVAL (R433): the line is dropped where it is held, and INVAL_ACK goes back. One of the doorline is left to DOORLINE_INVAL,
since it wakes the Clerk (R436). -/
def execInval (t h : Nat) (s : State) : Host.Outcome State Fault Refusal :=
  let s := s.advance t
  .next (s.on (match s.takeSlot h [6] with
    | none => s
    | some (x, u) =>
      if s.doorInval x then s
      else ((u.count (lemefPage h) 0x70 1).dropLine x.addr).respond h 7 0 x []))

end Sys2Proof.Machine
end

