-- ==== Sys2Proof/Machine/Timers.lean ====
section
/-! DEFINITION. Timers of the device and of the Clerk: hung engines (R406), the Clerk's watchdog and its restart (R413), and
the heartbeat (R435, R436). -/
namespace Sys2Proof.Machine

/-- ENGINE_BUSY_EXPIRY (R406): a word has not completed 1,048,576 ticks past the busy-until tick set at issue. The event
concerns the job and the step of the engine's oldest word. -/
def execEngineBusyExpiry (t sn : Nat) (e : Eng) (s : State) : Host.Outcome State Fault Refusal :=
  let s := s.advance t
  let st := s.stall sn
  .next (s.on (match st.flight.find? fun f => f.eng = e with
    | some f =>
      if (st.busy.get e).till + 1048576 ≤ t then s.raise (st.ev sn s.bell.now 0x6506 3 (st.jobSlot f.slot).job e.num) else s
    | none => s))

/-- The next-numbered hub after `h` whose Clerk core passed the opening inspection and is standby (R413). -/
def State.nextClerk (s : State) (h : Nat) : Option Nat :=
  (List.range 4).find? fun k => decide (h < k) && s.clerk.cores.getD k 0 = 1

/-- The primary's second restart within 1 s: the next Clerk becomes primary, or none remains and CLERK_LOST stops the
device (R413). -/
def State.nextPrimary (s : State) (h : Nat) : State :=
  let c := s.clerk
  match s.nextClerk h with
  | some k => { s with clerk := { c with cores := lset (lset c.cores h 4) k 2, primary := k, recent := [] } }
  | none => { s with clerk := { c with cores := lset c.cores h 4 } }.raise (s.mkEv 0x6505 4 none .clerk 0 0 h)

/-- CLERK_WATCHDOG_EXPIRY (R413): 10 ms without a refresh restart the primary's core. -/
def execClerkWatchdogExpiry (t h : Nat) (s : State) : Host.Outcome State Fault Refusal :=
  let s := s.advance t
  .next (s.on (if s.boot.dev = 0 || h != s.primary || !s.clerk.serving || decide (s.bell.now < s.clerk.refresh + 33000000) then s
    else
      let c := s.clerk
      let recent := (c.recent.filter fun u => decide (s.bell.now < u + 3300000000)) ++ [s.bell.now]
      let s := { s with clerk := { c with
        cores := lset c.cores h 3, restarts := c.restarts + 1, recent := recent, serving := false } }
      let s := s.raise (s.mkEv 0x6504 1 none .clerk 0 0 h)
      if 2 ≤ recent.length then s.nextPrimary h else s))

/-- CLERK_RESUMES_SERVICE (R413): the restarted Clerk serves again, does what has waited for it, and posts. -/
def execClerkResumesService (t : Nat) (s : State) : Host.Outcome State Fault Refusal :=
  let s := s.advance t
  .next (s.on (if s.clerk.serving || s.clerk.cores.getD s.primary 0 = 4 then s
    else
      let acts := s.clerk.waiting
      let s := { s with clerk := { s.clerk with cores := lset s.clerk.cores s.primary 2, serving := true, waiting := [] } }
      (acts.foldl State.clerkAct s.refreshed).post))

/-- STATUS_HEARTBEAT (R436): at its millisecond in state RUNNING the heartbeat advances and the status line is written. -/
def execStatusHeartbeat (s : State) : Host.Outcome State Fault Refusal :=
  .next (s.on (let b := s.power.nextBeat
    let s := s.advance b
    let s := { s with power := { s.power with nextBeat := b + 3300000 } }
    if s.boot.dev != 2 || !bit (s.live .lemef 0 0x13C) 0 then s
    else { s with rings := { s.rings with heartbeat := s.rings.heartbeat + 1 } }.writeStatus))

end Sys2Proof.Machine
end

