-- ==== Sys2Proof/Machine/Boot.lean ====
section
/-! DEFINITION. Pins, reset and power (R473, R474, R477, R478, R481, R488), boot and its checks (R447 to R451), the opening
inspection's end (R417), SMBus (R487) and the test access port (R486). -/
namespace Sys2Proof.Machine

/-! ### Reset and power -/

/-- Everything outside the always-on domain goes back to its reset; what has left the device stays so. -/
def State.restart (s : State) : State :=
  { State.reset with pins := s.pins, fuses := s.fuses, out := s.out, freeIx := s.freeIx, pending := s.pending }

/-- RESET_N is released and takes effect: the straps are sampled, and the boot ROM starts in state CLOSED (R447, R474). -/
def State.release (s : State) : State :=
  { s with pins := { s.pins with releasePending := false, pos := s.pins.posPin, twin := s.pins.twinPin, tap := .bypass } }

/-- RESET_N_RELEASE (R448, R474, R478): `heldUs` is how long RESET_N was low, in microseconds; below 10 it has no defined
effect. While PWR_GOOD is low the release waits. -/
def execResetNRelease (heldUs : Nat) (s : State) : Host.Outcome State Fault Refusal :=
  if heldUs < 10 then .fault .shortResetPulse
  else .next (if !s.pins.vio || s.pins.resetN then s
    else
      let s := { s with pins := { s.pins with resetN := true } }
      if s.pins.pwrGood then s.release else { s with pins := { s.pins with releasePending := true } })

/-- RESET_N_ASSERT (R478, R488): the device is held in reset. -/
def execResetNAssert (s : State) : Host.Outcome State Fault Refusal :=
  .next (if !s.pins.vio then s
    else { s with pins := { s.pins with resetN := false, releasePending := false } }.restart)

/-- PWR_GOOD_FALL (R478, R481): all state outside the VIO domain is lost, and a thermal trip's pin is released. -/
def execPwrGoodFall (s : State) : Host.Outcome State Fault Refusal :=
  .next (if !s.pins.vio then s
    else { s with pins := { s.pins with pwrGood := false, trip := false, tap := .bypass } }.restart)

/-- PWR_GOOD_RISE (R477, R478): a release of RESET_N that waits takes effect. -/
def execPwrGoodRise (s : State) : Host.Outcome State Fault Refusal :=
  .next (if !s.pins.vio then s
    else
      let s := { s with pins := { s.pins with pwrGood := true } }
      if s.pins.releasePending then s.release else s)

/-- VIO_RISE (R477, R481): the always-on domain starts, last_trip reading 0, RESET_N and PWR_GOOD held low. -/
def execVioRise (s : State) : Host.Outcome State Fault Refusal :=
  .next (if s.pins.vio then s
    else { s with pins := { s.pins with vio := true, lastTrip := false } })

/-- VIO_FALL (R481, R488): all state is lost, last_trip included. -/
def execVioFall (s : State) : Host.Outcome State Fault Refusal :=
  .next ({ s with pins := { s.pins with
    vio := false, pwrGood := false, resetN := false, releasePending := false, trip := false, lastTrip := false
    tap := .bypass } }.restart)

/-- THERMTRIP (R481): every clock but those of the VIO domain stops, and last_trip is set. -/
def execThermtrip (s : State) : Host.Outcome State Fault Refusal :=
  .next (if s.pins.vio then { s with pins := { s.pins with trip := true, lastTrip := true } } else s)

/-! ### Boot (R434, R448 to R451) -/

/-- BOOT_TAKEOVER (R434): H0 has not reached WAIT_IMAGE; the boot ROM of H1 takes its place, the other halves trained. -/
def execBootTakeover (s : State) : Host.Outcome State Fault Refusal :=
  .next (s.on (if s.boot.phase != 0 || s.boot.dev != 0 || s.boot.hub != 0 then s
    else
      let s := [1, 2, 3].foldl (fun (s : State) h => s.enterHalf s.bell.now h) s
      { s with boot := { s.boot with hub := 1, phase := 1, trained := true }, clerk := { s.clerk with primary := 1 } }))

/-- Check 1 of R450: length and a whole read. -/
def imageLengthOk (len : Nat) (b : List Byte) (complete : Bool) : Bool :=
  complete && decide (len ≤ 2 ^ 24) && b.length = len && len = 1792 + leAt b 12 4 && leAt b 12 4 % 64 = 0

/-- Check 2: magic, version, header size and reserved fields. -/
def imageHeaderOk (b : List Byte) : Bool :=
  b.take 4 = [0x59#8, 0x54#8, 0x32#8, 0x46#8] && leAt b 4 2 = 1 && leAt b 6 2 = 256 && decide (leAt b 16 8 ≤ 64)
    && decide (leAt b 24 1 < 2) && decide (leAt b 25 1 < 8) && ((b.drop 26).take 230).all (fun x => x = 0#8)
    && ((b.drop 772).take 508).all fun x => x = 0#8

/-- Check 4: the signature over header, key block and body (R449). -/
def imageSignatureOk (b : List Byte) : Bool :=
  let n := b.length - 512
  pssVerify (leAt b 256 512) (leAt b 768 4) (leAt b n 512) (b.take n)

/-- The checks of R450 in order: the cause of the first that fails, or 0. -/
def imageCause (fu : Fuses) (len : Nat) (b : List Byte) (complete : Bool) : Nat :=
  if !imageLengthOk len b complete then 1
  else if !imageHeaderOk b then 2
  else if sha512 ((b.drop 256).take 1024) != fu.keyHash then 3
  else if !imageSignatureOk b then 4
  else if leAt b 16 8 < fu.rollback then 5
  else if !bit (leAt b 25 1) fu.grade then 6
  else 0

/-- The firmware starts: OPENING, and the aisle ports begin to train (R417, R447, R448). -/
def State.startImage (s : State) (b : List Byte) : State :=
  let m : FwImage := ⟨BitVec.ofNat 32 (leAt b 8 4), leAt b 16 8, bit (leAt b 24 1) 0, sha512 b⟩
  let s := { s with
    boot := { s.boot with image := some m, phase := 4, dev := 1 } }.refreshed
  ((List.range 12).filter s.portPresent).foldl (fun (s : State) p => s.setAisle p { s.aisle p with state := 1 }) s

/-- The checks of an image that has been read end (R448, R450): it is started or rejected; a rejection is recorded, to be posted
once an image starts. -/
def State.verifyImage (s : State) : State :=
  match s.boot.buffer with
  | none => s
  | some (b, complete) =>
    let s := { s with boot := { s.boot with buffer := none } }
    if s.boot.dev != 0 then s
    else match imageCause s.fuses (s.live .lemef 0 0x148) b complete with
    | 0 => s.startImage b
    | c => { s with boot := { s.boot with phase := 1, reject := c } }.record (s.mkEv 0x8101 0 none .security 0 0 c)

/-- IMAGE_FETCH_COMPLETE (R448, R450): `bytes` is what was read of the image, `complete` whether no line was refused or poisoned.
The phase is VERIFY while the checks run, until the next tick without a command (log entry 77). -/
def execImageFetchComplete (b : List Byte) (complete : Bool) (s : State) : Host.Outcome State Fault Refusal :=
  .next (s.on (if s.boot.phase != 2 || s.boot.dev != 0 then s
    else { s with boot := { s.boot with phase := 3, buffer := some (b, complete) } }))

/-! ### The opening inspection's end (R14, R20, R417, R451) -/

/-- The Clerks that passed: the lowest is primary, the others standby (R20, R471). -/
def State.chooseClerk (s : State) (passed : List Nat) : State :=
  let first := (List.range 4).find? passed.contains
  let core (h : Nat) : Nat := if first = some h then 2 else if passed.contains h then 1 else 0
  let s := { s with clerk := { s.clerk with
    cores := (List.range 4).map core, primary := first.getD s.clerk.primary } }
  if first.isSome then s.refreshed else s.raise (s.mkEv 0x6505 4 none .clerk 0 0 0)

/-- The group table goes to the lowest page of the lowest stack in service (R314, R334). -/
def State.placeTable (s : State) : State :=
  let base := (((List.range 16).find? fun m => !s.outStacks.contains m).getD 0) * 2 ^ 36
  let n := pageNo .sched 0
  let pg := ((s.page n).writeShadow .sched 0 0x100 (BitVec.ofNat 32 base) false).writeShadow .sched 0 0x104 (BitVec.ofNat 32 (base / 2 ^ 32)) false
  s.setPage n (pg.apply .sched 0)

/-- The rollback counter advances where the image asks (R451). -/
def State.advanceFuse (s : State) : State :=
  match s.boot.image with
  | none => s
  | some m =>
    if m.commitSvn && decide (s.fuses.rollback < m.svn) then
      { s with fuses := { s.fuses with rollback := m.svn } }.raise (s.mkEv 0x8102 0 none .security 0 0 m.svn)
    else s

/-- OPENING_INSPECTION_DONE (R417, R447, R448). -/
def execOpeningInspectionDone (f : Inspection) (s : State) : Host.Outcome State Fault Refusal :=
  .next (s.on (let s := s.verifyImage
    if s.boot.dev != 1 then s
    else
      let s := { s with boot := { s.boot with inspected := true } }
      let s := ((s.testDevice f).chooseClerk f.clerks).placeTable
      if s.boot.dev = 3 then s
      else
        let s := s.advanceFuse
        let beat := (s.bell.now / 3300000 + 1) * 3300000
        { s with
          boot := { s.boot with dev := 2 }
          power := { s.power with nextRec := beat, nextBeat := beat } }))

/-! ### SMBus and the test access port (R486, R487) -/

/-- What SMBus answers to a command (R487; what is not known, log entry 80). -/
def State.smbusValue (s : State) (cmd : Nat) : Nat :=
  let down := !s.pins.pwrGood || !s.pins.resetN
  match cmd with
  | 0x00 => if down then 0xFF else s.boot.dev
  | 0x01 => match s.power.tmax with
    | some x => if down then 0xFF else min x 255
    | none => 0xFF
  | 0x02 => if down then 0 else s.power.watts % 65536
  | 0x04 => b2n s.pins.lastTrip + 2 * b2n s.faultN + 4 * b2n s.alertN + 8 * b2n (s.bell.kLocal != 0)
  | 0x05 => s.fuses.grade + 4 * s.pins.pos.toNat
  | _ => 0

/-- SMBUS_READ (R487): Read Byte answers the low byte. -/
def execSmbusRead (cmd : BitVec 8) (word : Bool) (s : State) : Host.Outcome State Fault Refusal :=
  .next (if s.pins.vio then s.emit (.smbus (s.smbusValue cmd.toNat % (if word then 65536 else 256))) else s)

/-- The instruction that the test port executes: an opcode it does not implement selects the bypass register. -/
def tapDoes : TapInstr → TapInstr
  | .other _ => .bypass
  | i => i

/-- Does an instruction drive the lands from the boundary register? -/
def tapDrives : TapInstr → Bool
  | .extest | .extestPulse | .extestTrain => true
  | .bypass | .samplePreload | .other _ => false

/-- A register that captured `cap` shifts: the bits out of it, and what it holds then. -/
def tapShift (cap din : List Bool) : List Bool × List Bool := ((cap ++ din).take din.length, (cap ++ din).drop din.length)

/-- A scan of the register that an instruction selects (IEEE 1149.1, log entry 75): bypass captures 0, the boundary register the
levels of the lands. -/
def State.scan (s : State) (i : TapInstr) (din : List Bool) : State :=
  if i = .bypass then
    let r := tapShift [false] din
    { s with pins := { s.pins with tap := i, bypass := r.2.headD false } }.emit (.tap false r.1 none)
  else
    let r := tapShift (Config.freeLands s.freeIx) din
    { s with pins := { s.pins with tap := i, boundary := r.2 }, freeIx := s.freeIx + 1 }.emit
      (.tap true r.1 (if tapDrives i then some r.2 else none))

/-- TAP_INSTRUCTION (R486): only while PWR_GOOD is high and RESET_N low; no instruction reaches anything else. -/
def execTapInstruction (x : TapScan) (s : State) : Host.Outcome State Fault Refusal :=
  .next (if s.pins.vio && s.pins.pwrGood && !s.pins.resetN then s.scan (tapDoes x.instr) x.din else s)

end Sys2Proof.Machine
end

