-- ==== Sys2Proof/Machine/Energy.lean ====
section
/-! DEFINITION. Energy and the ledgers' reconciliation tick (R384, R385): what the chargeable events of an interval cost, how the
measured energy is divided, and the snapshots. -/
namespace Sys2Proof.Machine

/-! ### Ledgers (R384, R385) -/

/-- Charges in µJ of `m` µJ over estimates: floors, then 1 µJ to each of the largest fractions, earlier entries first
(R384). -/
def apportion (m : Nat) (es : List Nat) : List Nat :=
  let sum := es.sum
  let floors := es.map fun e => m * e / sum
  let rest := m - floors.sum
  let fr := es.map fun e => m * e % sum
  (floors.zipIdx).map fun q =>
    let f := fr.getD q.2 0
    q.1 + b2n (decide ((fr.zipIdx).countP (fun x => decide (f < x.1) || (x.1 = f && decide (x.2 < q.2))) < rest))

/-- Snapshots asked for are taken (R385). -/
def State.takeSnaps (s : State) : State :=
  s.ledgers.foldl (fun s (q : Nat × Ledger) =>
    if !q.2.snapPend then s
    else
      let pg := s.page (pageNo .ledger q.1)
      s.setLedger q.1 { s.ledger q.1 with
        snapPend := false, snapDone := true, snapTick := s.bell.now
        snaps := PageTy.ledger.counters.map fun o => (o, pg.counter o) }) s

/-- The entries of an interval are charged, jobs first and idle last. -/
def State.chargeEnergy (s : State) (js cs : List Nat) : State :=
  ((js.zip cs).foldl (fun s q => s.charge q.1 0xA0 q.2) s).count (pageNo .sched 0) 0x48 (cs.getD js.length 0)

/-- An interval with a measurement of `pj` picojoules; how it is charged where every estimate is 0 the spec does not state, so that
the charges are free values (log entry 69). -/
def State.reconcile (s : State) (js es : List Nat) (pj : Nat) : State :=
  let all := pj + s.power.rest
  let m := all / 1000000
  let s := { s with power := { s.power with rest := all % 1000000, unrec := false } }
  let zero := decide (es.sum = 0)
  let s := s.chargeEnergy js (if zero then (List.range es.length).map fun i => Config.freeCharge (s.freeIx + i) else apportion m es)
  let s := { s with freeIx := s.freeIx + if zero then es.length else 0 }
  (s.count (pageNo .sched 0) 0x40 m).count (pageNo .sched 0) 0x50 1

/-- An interval without a measurement. -/
def State.unreconciled (s : State) (js es : List Nat) : State :=
  let s := s.chargeEnergy js (es.map fun e => e / 1000000)
  let s := js.foldl (fun s j => s.setLedger j { s.ledger j with unrec := true }) s
  let s := s.count (pageNo .sched 0) 0x58 1
  if s.power.unrec then s
  else { s with power := { s.power with unrec := true } }.raise (s.mkEv 0x9102 1 none .sched 0 0 0)

/-- What `coef` makes of events noted under `job * 32 + kind`, for one job: dynamic energy, ticks of banks awake and of banks in
retention, and ticks of rota entries. -/
structure Spent where
  dyn : Nat
  awake : Nat
  ret : Nat
  rota : Nat
  deriving DecidableEq, Repr

/-- Nothing spent. -/
def Spent.none : Spent := ⟨0, 0, 0, 0⟩

/-- One count more. -/
def Spent.add (x : Spent) (coef : List (Nat × Nat)) (kind n : Nat) : Spent :=
  if kind = workKind.awake then { x with awake := x.awake + n }
  else if kind = workKind.retained then { x with ret := x.ret + n }
  else if kind = workKind.rota then { x with rota := x.rota + n }
  else { x with dyn := x.dyn + sgetD coef kind 0 * n }

/-- What a job has spent in the interval: on the stalls, and by its ledger's events. -/
def State.spent (s : State) (coef : List (Nat × Nat)) (j : Nat) : Spent :=
  let x := s.stalls.foldl (fun (x : Spent) q => q.2.work.foldl (fun (x : Spent) w =>
    if w.1 / 32 = j then x.add coef (w.1 % 32) w.2 else x) x) .none
  (s.ledger j).events.foldl (fun (x : Spent) w => x.add coef w.1 w.2) x

/-- The estimate of a job, in pJ (R384): a stall's rest is divided by its 256 rota entries. -/
def Spent.energy (x : Spent) (k : StaticCoef) : Nat := x.dyn + k.awake * x.awake + k.retained * x.ret + k.rest * x.rota / 256

/-- The estimate of idle, in pJ (R384): of the static energy of every stall of the device what no job has, for an interval of
`n` ticks. -/
def State.idleEnergy (s : State) (k : StaticCoef) (n : Nat) (jobs : List Spent) : Nat :=
  let stalls := (List.range 1536).countP s.stallPresent
  let free := s.spent [] noJob
  let awake := (jobs.map (·.awake)).sum
  let ret := (jobs.map (·.ret)).sum
  let rota := (jobs.map (·.rota)).sum
  k.awake * free.awake + k.retained * (stalls * 128 * n - awake - ret - free.awake) + k.rest * (stalls * n - rota / 256)

/-- A new energy interval: nothing noted. -/
def State.clearWork (s : State) : State :=
  { s with
    stalls := s.stalls.map fun (q : Nat × Stall) => (q.1, { q.2 with work := [] })
    ledgers := s.ledgers.map fun (q : Nat × Ledger) => (q.1, { q.2 with events := [] }) }

/-- The estimates of the open jobs, then of idle (R384), for an interval of `n` ticks. -/
def State.estimates (s : State) (coef : List (Nat × Nat)) (k : StaticCoef) (n : Nat) : List Nat :=
  let jobs := s.openJobs.map (s.spent coef)
  jobs.map (·.energy k) ++ [s.idleEnergy k n jobs]

/-- LEDGER_RECONCILE (R384, R385): the rails' energy in the part of the frame under way in picojoules, where the measurement is
available, and the coefficients of the device's calibration, in pJ for each kind of event and per tick (log entry 41). What the
rails took in the interval's frames has been measured at their boundaries (R479). -/
def execLedgerReconcile (measured : Option Nat) (coef : List (Nat × Nat)) (static : StaticCoef) (s : State) :
    Host.Outcome State Fault Refusal :=
  .next (s.on (if !s.clocked || s.boot.dev = 0 then s
    else
      let t := s.power.nextRec
      let s := s.advance t
      let s := s.stalls.foldl (fun s q => s.accrueAt .stall q.1) s
      let s := { s with power := { s.power with nextRec := t + 3300000 } }
      let js := s.openJobs
      let es := s.estimates coef static 3300000
      let s := s.clearWork
      let s := match measured with
        | some pj => ({ s with power := { s.power with energy := 0, taken := pj } }).reconcile js es (s.power.energy + pj)
        | none => ({ s with power := { s.power with energy := 0, taken := 0 } }).unreconciled js es
      s.takeSnaps))

end Sys2Proof.Machine
end

