-- ==== Sys2Proof/Machine/Stream.lean ====
section
/-! DEFINITION. Control streams (R109, R111, R124, R399, R446), the words of the four engines at their due ticks (R34,
R35, R110, R124), and the completion of words (R116). -/
namespace Sys2Proof.Machine

/-! ### Arrival of a chunk (R399, R446) -/

/-- The check of a 4 KiB chunk (R446). -/
def chunkOk (raw : List Byte) : Bool :=
  raw.length = 4096 && (check32 (raw.take 4092)).toNat = leAt raw 4092 4

/-- Threshold of an inspection rate (R399). -/
def rateThreshold (rate : Nat) : Nat :=
  match rate with | 1 => 256 | 2 => 1024 | 3 => 4096 | 4 => 16384 | 5 => 65536 | _ => 0

/-- Is an inspection unit selected (R399)? -/
def Job.selects (jb : Job) (pitch logical step unit : Nat) : Bool :=
  decide (r16 jb.seed (0xF10000 + pitch * 256) step (logical * 2 ^ 24 + unit) < rateThreshold jb.rate)

/-- The pitch and logical stall whose units the words of a stall name: the one that it inspects, where it is a witness (R399,
R400). -/
def Job.inspected (jb : Job) (p l : Nat) : Nat × Nat :=
  (jb.image.bind fun im => (im.inspects.find? fun q => q.1 = p && q.2.1 = l).map fun q => q.2.2).getD (p, l)

/-- Does the stream fetcher deliver a word (R400)? -/
def Job.delivers (jb : Job) (sn step : Nat) (w : CWord) : Bool :=
  match w.common.inspect with
  | none => true
  | some u => match placeAt jb.place sn with
    | some (p, l) => jb.selects (jb.inspected p l).1 (jb.inspected p l).2 step u
    | none => false

/-- The words of a chunk up to its STEP_END. -/
def uptoEnd : List CWord → List CWord
  | [] => []
  | w :: r => if w.op = .stepEnd then [w] else w :: uptoEnd r

/-- A fetcher takes a chunk's words, those of inspection units that are not selected as places only (R399, R400). -/
def Stall.takeChunk (st : Stall) (k : Nat) (e : Eng) (go : CWord → Bool) (words : List CWord) : Stall :=
  st.setFeed k e ((st.slotSt k).feed.get e ++ words.map fun w => if go w then some w else none)

/-- STREAM_CHUNK_ARRIVAL (R446): the chunk that the fetcher of an engine's stream awaits arrives. -/
def execStreamChunkArrival (t sn k : Nat) (e : Eng) (raw : List Byte) (words : List CWord) (s : State) :
    Host.Outcome State Fault Refusal :=
  let s := s.advance t
  let j := ((s.stall sn).jobSlot k).job
  .next (s.on (match s.job j with
    | none => s
    | some jb =>
      let key := sn * 4 + e.num
      match sget jb.fetched key with
      | none => s
      | some f =>
        let base := (jb.streamAt sn e.num).getD 0
        let bytes := f.bytes base raw
        if !f.asked then s
        else if !chunkOk bytes then
          if f.failed then
            s.raise ⟨0x6205, 2, some j, pageId .stall sn, (s.stall sn).stepOf j, t, BitVec.ofNat 64 (sn + 2 ^ 16 * e.num)⟩
          else s.fetchAgain j sn e.num f
        else
          let s := if s.caches jb then s.fillLines base f.chunk bytes else s
          let ws := uptoEnd words
          let s := s.setJob j (jb.chunkDone key f (ws.any fun w => w.op = .stepEnd))
          (s.onStall t sn fun st => (st.takeChunk k e (jb.delivers sn f.step) ws, [])).refill t sn k e))

/-! ### Words at their due tick (R34, R35, R124) -/

/-- A word that falls due in a masked round waits for the same tick of the next, and nothing counts it (R36, R44, log entry
62). -/
def Stall.holdOver (st : Stall) (k : Nat) (e : Eng) : Stall :=
  st.setSubq k e { st.subq k e with base := (st.subq k e).base + 4096 }

/-- The checks and effect of a porter word, translated at its issue (R253, R256). -/
def portWord (sn k : Nat) (kind : PtKind) (p : Porter) (s : State) (st : Stall) (w : CWord) (t : Nat) : Spec :=
  porterSpec st sn k t w kind p (s.translate sn (st.jobSlot k).job (kind = .put))

/-- The checks and effect of any word (R110). -/
def State.specOf (s : State) (st : Stall) (sn k : Nat) (e : Eng) (w : CWord) (t : Nat) : Spec :=
  match w.op with
  | .ldw l => ldwSpec st sn k t w l
  | .mma m => mmaSpec st sn k t w m
  | .vop v => vxSpec sn k t w (vopWord v)
  | .vred r a b d => vxSpec sn k t w (vredWord r a b d)
  | .vnormStat r x a b d => vxSpec sn k t w (vnormStatWord r x a b d)
  | .vnormApply a b d g h x => vxSpec sn k t w (vnormApplyWord a b d g h x)
  | .vsmaxStat a c p b d => sfnSpec sn k t w (vsmaxStatWord a c p b d)
  | .vsmaxApply a c b d x => sfnSpec sn k t w (vsmaxApplyWord a c b d x)
  | .vsfn f a b => sfnSpec sn k t w (vsfnWord f a b)
  | .pack p => packSpec st sn k t (s.ctx sn k) w p
  | .unpack u => unpackSpec st k t w u
  | .groupidx r c d => groupidxSpec st sn k t w r c d
  | .get p => portWord sn k .get p s st w t
  | .put p => portWord sn k .put p s st w t
  | .gather p => portWord sn k .gather p s st w t
  | .ahead a => aheadSpec st sn k t w a
  | .send x => sendSpec st sn k t (s.ctx sn k) w x false
  | .bulk x => sendSpec st sn k t (s.ctx sn k) w x true
  | .grant g => grantSpec st sn k t (s.ctx sn k) w g
  | .checkcmp a r b => checkcmpSpec st sn k t w a r b
  | .waitw => plainSpec st k e t w
  | .stepEnd => plainSpec st k e t w

/-- A word meets its due tick, and its sub-queue is filled again (R124, R446). -/
def State.meet (s : State) (sn k : Nat) (e : Eng) (t : Nat) (w : CWord) (sp : Spec) : State :=
  (if s.bell.masked then s.onStall t sn fun st => (st.holdOver k e, [])
  else s.onStall t sn fun st => st.due sn k e (s.ctx sn k) t w (st.chargeOf k (s.ctx sn k) w) sp).refill t sn k e

/-- The words that fall due in tick `t` on the engines before `e`, in the order MX, VX, PT, EX, meet it first (R120). -/
def State.earlier (s : State) (sn : Nat) (e : Eng) (t : Nat) : State :=
  ([Eng.mx, .vx, .pt].filter fun x => decide (x.num < e.num)).foldl (fun s x => (List.range 8).foldl (fun s k =>
    match (s.stall sn).head k x with
    | none => s
    | some (w, due) => if due = t then s.meet sn k x t w (s.specOf (s.stall sn) sn k x w t) else s) s) s

/-- The head word of a sub-queue meets its due tick, after those of the same tick on earlier engines; `spec` answers the checks
and effect of its class, or none where the word is of another class. A word that arrived late and fell due in a suspended round is
issued at its due tick, past as it is (DESIGN CHOICE, log entry 62). -/
def State.issue (s : State) (sn k : Nat) (e : Eng) (spec : State → Stall → CWord → Nat → Option Spec) : State :=
  if 8 ≤ k then s
  else match (s.stall sn).head k e with
  | none => s
  | some (w, due) =>
    if (spec s (s.stall sn) w due).isNone then s
    else
      let s' := ((s.advance due).touch due sn).earlier sn e due
      match (s'.stall sn).head k e with
      | none => s'
      | some _ => match spec s' (s'.stall sn) w due with
        | none => s'
        | some sp => s'.meet sn k e due w sp

/-- LDW (R70, R86). -/
def execLdw (sn k : Nat) (s : State) : Host.Outcome State Fault Refusal :=
  .next (s.on (s.issue sn k .mx fun _ st w t => match w.op with | .ldw l => some (ldwSpec st sn k t w l) | _ => none))

/-- MMA (R72, R86). -/
def execMma (sn k : Nat) (s : State) : Host.Outcome State Fault Refusal :=
  .next (s.on (s.issue sn k .mx fun _ st w t => match w.op with | .mma m => some (mmaSpec st sn k t w m) | _ => none))

/-- VOP (R138, R139). -/
def execVop (sn k : Nat) (s : State) : Host.Outcome State Fault Refusal :=
  .next (s.on (s.issue sn k .vx fun _ _ w t => match w.op with | .vop v => some (vxSpec sn k t w (vopWord v)) | _ => none))

/-- VRED (R139, R140). -/
def execVred (sn k : Nat) (s : State) : Host.Outcome State Fault Refusal :=
  .next (s.on (s.issue sn k .vx fun _ _ w t => match w.op with
    | .vred r a b d => some (vxSpec sn k t w (vredWord r a b d)) | _ => none))

/-- VNORM.STAT (R141). -/
def execVnormStat (sn k : Nat) (s : State) : Host.Outcome State Fault Refusal :=
  .next (s.on (s.issue sn k .vx fun _ _ w t => match w.op with
    | .vnormStat r e a b d => some (vxSpec sn k t w (vnormStatWord r e a b d)) | _ => none))

/-- VNORM.APPLY (R141). -/
def execVnormApply (sn k : Nat) (s : State) : Host.Outcome State Fault Refusal :=
  .next (s.on (s.issue sn k .vx fun _ _ w t => match w.op with
    | .vnormApply a b d g h x => some (vxSpec sn k t w (vnormApplyWord a b d g h x)) | _ => none))

/-- VSMAX.STAT (R142). -/
def execVsmaxStat (sn k : Nat) (s : State) : Host.Outcome State Fault Refusal :=
  .next (s.on (s.issue sn k .vx fun _ _ w t => match w.op with
    | .vsmaxStat a c p b d => some (sfnSpec sn k t w (vsmaxStatWord a c p b d)) | _ => none))

/-- VSMAX.APPLY (R142). -/
def execVsmaxApply (sn k : Nat) (s : State) : Host.Outcome State Fault Refusal :=
  .next (s.on (s.issue sn k .vx fun _ _ w t => match w.op with
    | .vsmaxApply a c b d x => some (sfnSpec sn k t w (vsmaxApplyWord a c b d x)) | _ => none))

/-- VSFN (R143). -/
def execVsfn (sn k : Nat) (s : State) : Host.Outcome State Fault Refusal :=
  .next (s.on (s.issue sn k .vx fun _ _ w t => match w.op with
    | .vsfn f a b => some (sfnSpec sn k t w (vsfnWord f a b)) | _ => none))

/-- PACK (R146 to R154). -/
def execPack (sn k : Nat) (s : State) : Host.Outcome State Fault Refusal :=
  .next (s.on (s.issue sn k .vx fun s st w t => match w.op with
    | .pack p => some (packSpec st sn k t (s.ctx sn k) w p) | _ => none))

/-- UNPACK (R155, R156, R163). -/
def execUnpack (sn k : Nat) (s : State) : Host.Outcome State Fault Refusal :=
  .next (s.on (s.issue sn k .vx fun _ st w t => match w.op with | .unpack u => some (unpackSpec st k t w u) | _ => none))

/-- GROUPIDX (R157). -/
def execGroupidx (sn k : Nat) (s : State) : Host.Outcome State Fault Refusal :=
  .next (s.on (s.issue sn k .vx fun _ st w t => match w.op with
    | .groupidx r c d => some (groupidxSpec st sn k t w r c d) | _ => none))

/-- GET (R256). -/
def execGet (sn k : Nat) (s : State) : Host.Outcome State Fault Refusal :=
  .next (s.on (s.issue sn k .pt fun s st w t => match w.op with | .get p => some (portWord sn k .get p s st w t) | _ => none))

/-- PUT (R256). -/
def execPut (sn k : Nat) (s : State) : Host.Outcome State Fault Refusal :=
  .next (s.on (s.issue sn k .pt fun s st w t => match w.op with | .put p => some (portWord sn k .put p s st w t) | _ => none))

/-- GATHER (R256). -/
def execGather (sn k : Nat) (s : State) : Host.Outcome State Fault Refusal :=
  .next (s.on (s.issue sn k .pt fun s st w t => match w.op with
    | .gather p => some (portWord sn k .gather p s st w t) | _ => none))

/-- AHEAD (R260). -/
def execAhead (sn k : Nat) (s : State) : Host.Outcome State Fault Refusal :=
  .next (s.on (s.issue sn k .pt fun _ st w t => match w.op with | .ahead a => some (aheadSpec st sn k t w a) | _ => none))

/-- SEND (R211). -/
def execSend (sn k : Nat) (s : State) : Host.Outcome State Fault Refusal :=
  .next (s.on (s.issue sn k .ex fun s st w t => match w.op with
    | .send x => some (sendSpec st sn k t (s.ctx sn k) w x false) | _ => none))

/-- BULK (R211, R216). -/
def execBulk (sn k : Nat) (s : State) : Host.Outcome State Fault Refusal :=
  .next (s.on (s.issue sn k .ex fun s st w t => match w.op with
    | .bulk x => some (sendSpec st sn k t (s.ctx sn k) w x true) | _ => none))

/-- GRANT (R211, R215). -/
def execGrant (sn k : Nat) (s : State) : Host.Outcome State Fault Refusal :=
  .next (s.on (s.issue sn k .ex fun s st w t => match w.op with
    | .grant g => some (grantSpec st sn k t (s.ctx sn k) w g) | _ => none))

/-- CHECKCMP (R400). -/
def execCheckcmp (sn k : Nat) (s : State) : Host.Outcome State Fault Refusal :=
  .next (s.on (s.issue sn k .ex fun _ st w t => match w.op with
    | .checkcmp a r b => some (checkcmpSpec st sn k t w a r b) | _ => none))

/-- WAITW (R110). -/
def execWaitw (sn k : Nat) (e : Eng) (s : State) : Host.Outcome State Fault Refusal :=
  .next (s.on (s.issue sn k e fun _ st w t => if w.op = .waitw then some (plainSpec st k e t w) else none))

/-- STEP_END (R110, R130). -/
def execStepEnd (sn k : Nat) (e : Eng) (s : State) : Host.Outcome State Fault Refusal :=
  .next (s.on (s.issue sn k e fun _ st w t => if w.op = .stepEnd then some (plainSpec st k e t w) else none))

/-! ### Completion (R116, R117) -/

/-- WORD_COMPLETION (R116): the word of an engine in flight that completes first, at its completion tick. -/
def execWordCompletion (sn : Nat) (e : Eng) (s : State) : Host.Outcome State Fault Refusal :=
  .next (s.on (match (s.stall sn).nextDone e with
    | none => s
    | some f =>
      let s := s.advance f.tick
      s.onStall f.tick sn fun st => st.wordDone sn (s.ctx sn f.slot) f))

/-- STEP_DRAIN_END (R130): the last operation of a slot's step has completed. -/
def execStepDrainEnd (t sn k : Nat) (s : State) : Host.Outcome State Fault Refusal :=
  let s := s.advance t
  .next (s.on ((s.onStall t sn fun st => (st.drainEnd k, [])).noteQuiet s))

end Sys2Proof.Machine
end

