-- ==== Sys2Proof/Machine/Update.lean ====
section
/-! DEFINITION. The update unit's work on one tensor block (R320 to R327, R331). -/
namespace Sys2Proof.Machine

/-! ### Summation (R320) -/

/-- The values that a contribution gives. -/
def Contribution.values (c : Contribution) (g : Group) : List W32 :=
  if c.fmt = 0 then bytesF32 1024 c.data else g.expand c.data

/-- The summed gradient: ranks ascending, left to right, then scaled. -/
def gradSum (g : Group) (cs : List Contribution) : List W32 :=
  let sum : List W32 := match cs.map fun (c : Contribution) => c.values g with
    | [] => []
    | x :: r => r.foldl (fun (a y : List W32) => (a.zip y).map fun q => fadd q.1 q.2) x
  sum.map fun x => fmul x g.gscale

/-- The contributions of a tensor block, in rank order, once all are held (R320, R321). -/
def State.contributions (s : State) (h j n gi k : Nat) (g : Group) : Option (List Contribution) :=
  let mine := (s.hub h).ingress.filter fun c => c.job = j && c.group = gi && c.k = k && c.step = n
  if g.exch = 1 || g.exch = 2 then
    let l := (List.range g.devices).filterMap fun r => mine.find? fun c => c.rank = r
    if l.length = g.devices then some l else none
  else match mine with
    | c :: _ => some [c]
    | [] => none

/-! ### The rules (R322, R323) -/

/-- What the rules take from the schedule engine and the record. -/
structure Coef where
  eta : W32
  c1 : W32
  c2 : W32
  ob1 : W32
  ob2 : W32
  g : Group
  deriving DecidableEq, Repr

/-- The coefficients of a sampled group. -/
def GroupCur.coef (c : GroupCur) : Coef :=
  let g := groupOf c.record
  ⟨c.eta, if g.factored && !g.keepM then one32 else c.c1, c.c2, fsub one32 g.beta1, fsub one32 g.beta2, g⟩

/-- One element's new moments and master weight, and whether it refuses the block. -/
structure ElemOut where
  m : W32
  v : W32
  w : W32
  bad : Bool
  deriving DecidableEq, Repr

/-- The common end of both rules: u from the corrected moments, then the weight. -/
def Coef.finish (k : Coef) (x w m1 v1 : W32) (more : Bool) : ElemOut :=
  let u := fdiv (fmul m1 k.c1) (fadd (fsqrt (fmul v1 k.c2)) k.g.eps)
  let w1 := ffma (fneg k.eta) (ffma k.g.lambda w u) w
  ⟨m1, v1, w1, more || [x, m1, v1, u, w1].any nonFinite⟩

/-- MAIN (R322). -/
def Coef.main (k : Coef) (x w m v : W32) : ElemOut :=
  k.finish x w (ffma k.g.beta1 m (fmul k.ob1 x)) (ffma k.g.beta2 v (fmul k.ob2 (fmul x x))) false

/-- `q` of FACTORED (R323). -/
def Coef.q (k : Coef) (x : W32) : W32 := ffma x x k.g.eps1

/-- FACTORED (R323), with `sr[i]`, `sc[j]` and `rinv`. -/
def Coef.factored (k : Coef) (x w m sri scj rinv : W32) : ElemOut :=
  let vr := fmul (fmul sri scj) rinv
  k.finish x w (if k.g.keepM then ffma k.g.beta1 m (fmul k.ob1 x) else x) (ffma k.g.beta2 vr (fmul k.ob2 (k.q x)))
    (nonFinite vr)

/-! ### Narrowing (R325, R326) -/

/-- The draws of a tensor of the update unit (R65, R325): `u` for tensor `x` of group `gi`. -/
def updRound (sr : Bool) (seed : W64) (n gi x k e : Nat) : Rounding :=
  if sr then .sr (r16 seed (0xF0 * 65536 + x * 256 + gi) (n % 2 ^ 32) (k * 1024 + e)) else .rne

/-- The bytes of a moment plane. -/
def momentBytes (bf sr : Bool) (seed : W64) (n gi x k : Nat) (vs : List W32) : List Byte :=
  if bf then (vs.zipIdx).flatMap fun q => leBytes 2 (Fmt.encode32 .bf16 (updRound sr seed n gi x k q.2) false q.1)
  else vs.flatMap fun v => leBytes 4 v.toNat

/-- The values of a moment plane's bytes. -/
def momentOf (bf : Bool) (l : List Byte) (e : Nat) : W32 :=
  if bf then BitVec.ofNat 32 (leAt l (2 * e) 2 * 65536) else BitVec.ofNat 32 (leAt l (4 * e) 4)

/-- A tensor block's working copy: element bytes, the 32 scale bytes, and elements saturated (R325). -/
structure WorkCopy where
  elems : List Byte
  scales : List Nat
  sat : Nat
  deriving DecidableEq, Repr

/-- Does a value saturate under a scale (R61)? -/
def Fmt.saturates (f : Fmt) (m : Rounding) (c : Nat) (x : W32) : Bool :=
  match num32 x with
  | .fin d => f.maxFinite.magLt (f.roundMag m { d with exp := d.exp - ((c : Int) - 127) })
  | _ => false

/-- The working copy of new master values. -/
def Group.workCopy (g : Group) (seed : W64) (n gi k : Nat) (ws : List W32) : WorkCopy :=
  let f := g.fmt
  let rd (e : Nat) : Rounding := updRound g.wcSr seed n gi 0 k e
  let pack (cs : List Nat) : List Byte :=
    (List.range (1024 / f.perWord)).flatMap fun i => lineBytes (codesLine f ((cs.drop (f.perWord * i)).take f.perWord))
  if !f.scaled then ⟨pack ((ws.zipIdx).map fun q => f.encode32 (rd q.2) false q.1), [], 0⟩
  else
    let lineOf (x : Nat) : List W32 :=
      if g.wcScale = 0 then (ws.drop (32 * x)).take 32
      else if g.wcScale = 1 then (List.range 32).map fun i => ws.getD (32 * i + x) 0#32
      else ws
    let scales : List Nat := if g.wcScale = 2 then List.replicate 32 (f.chooseScale g.wcSafe ws)
      else (List.range 32).map fun x => f.chooseScale g.wcSafe (lineOf x)
    let at' (e : Nat) : Nat := scales.getD (if g.wcScale = 1 then e % 32 else e / 32) 0
    ⟨pack ((ws.zipIdx).map fun q => f.encodeScaled (rd q.2) (at' q.2) q.1), scales,
      (ws.zipIdx).countP fun q => f.saturates (rd q.2) (at' q.2) q.1⟩

/-! ### FACTORED statistics (R323, R324) -/

/-- The accumulators of a FACTORED group on a hub. -/
def Hub.factAcc (hb : Hub) (gi : Nat) : Option FactAcc := hb.acc.find? fun a => a.group = gi

/-- Put the accumulators of a group back. -/
def State.setFact (s : State) (h : Nat) (a : FactAcc) : State :=
  let hb := s.hub h
  s.setHub h { hb with acc := hb.acc.map fun b => if b.group = a.group then a else b }

/-- The statistics plane is read once per step, block by block, with the first tensor block that the unit admits. -/
def State.readStats (s : State) (h j n gi k : Nat) (g : Group) (a : FactAcc) (reads : List (Nat × Block)) : State :=
  if !a.stats.isEmpty then s
  else
    let r := (List.range (cdiv g.statBytes 64)).foldl (fun (acc : StateRead × List Nat) i =>
      let r := { acc.1 with poison := false }.plane j n (g.vaV + 64 * i) 64 reads
      (r, if r.poison then acc.2 ++ [i] else acc.2)) (s.startRead h gi k n, [])
    ((r.1.done h gi k n).count (pageNo .update h) 0x70 g.statBytes).setFact h { a with stats := r.1.bytes.take g.statBytes, bad := r.2 }

/-- Entry `i` of the statistics plane: sr, then sc, then rmean. -/
def FactAcc.stat (a : FactAcc) (i : Nat) : W32 := BitVec.ofNat 32 (leAt a.stats (4 * i) 4)

/-- `1 / rmean`, or 0 (R323). -/
def FactAcc.rinv (a : FactAcc) (g : Group) : W32 :=
  let r := a.stat (32 * g.rowsB + 32 * g.colsB)
  if feq r 0#32 then 0#32 else fdiv one32 r

/-- Does a tensor block read a poisoned block of the statistics? -/
def FactAcc.poisoned (a : FactAcc) (g : Group) (k : Nat) : Bool :=
  let rows := 2 * (k / g.colsB)
  let cols := 2 * g.rowsB + 2 * (k % g.colsB)
  [rows, rows + 1, cols, cols + 1, 2 * g.rowsB + 2 * g.colsB].any a.bad.contains

/-- Elements of a block enter SR and SC in ascending order. -/
def FactAcc.enter (a : FactAcc) (co : Coef) (k : Nat) (xs : List W32) : FactAcc :=
  let r := (xs.zipIdx).foldl (fun (p : List (Nat × W32) × List (Nat × W32)) q =>
    let i := 32 * (k / co.g.colsB) + q.2 / 32
    let j := 32 * (k % co.g.colsB) + q.2 % 32
    let v := co.q q.1
    (sset p.1 i (fadd (sgetD p.1 i 0#32) v), sset p.2 j (fadd (sgetD p.2 j 0#32) v))) (a.sr, a.sc)
  { a with sr := r.1, sc := r.2 }

/-- The new statistics after a group's last tensor block. -/
def FactAcc.newStats (a : FactAcc) (co : Coef) : List W32 :=
  let nr := 32 * co.g.rowsB
  let nc := 32 * co.g.colsB
  let next (old sum inv : W32) : W32 := ffma co.g.beta2 old (fmul co.ob2 (fmul sum inv))
  let sr := (List.range nr).map fun i => next (a.stat i) (sgetD a.sr i 0#32) (fdiv one32 (fnat nc))
  let sc := (List.range nc).map fun i => next (a.stat (nr + i)) (sgetD a.sc i 0#32) (fdiv one32 (fnat nr))
  sr ++ sc ++ [fmul (sr.foldl fadd 0#32) (fdiv one32 (fnat nr))]

/-- A FACTORED group has dealt with block `k`: the next block is admitted, or the new statistics are written. -/
def State.factNext (s : State) (h j n gi k : Nat) (c : GroupCur) (a : FactAcc) (fails : List (Nat × Nat)) : State :=
  let g := groupOf c.record
  let nx := c.nextLive (k + 1)
  let s := s.setFact h { a with next := nx }
  if nx < g.count then s
  else
    let s := (s.unitWrite j n g.vaV ((a.newStats c.coef).flatMap fun x => leBytes 4 x.toNat) fails).count (pageNo .update h) 0x78
      g.statBytes
    let s := { s with marks := a.bad.foldl (fun m i =>
      let va := g.vaV + 64 * i
      sset m (s.framePa j va (s.unitPa j va) true / 64) 1) s.marks }
    s.setPending j h gi g.count n [(g.vaV, g.statBytes)]

/-! ### One tensor block -/

/-- The owner of a sharded group sends its working copy, or the poison of a refused block, to every other device (R321,
R354). -/
def State.sendWcopy (s : State) (h j n gi k : Nat) (g : Group) (poison : Bool) (l : List Byte) : State :=
  if !g.shard then s
  else match s.job j with
    | none => s
    | some jb =>
      let ranks := s.ranks jb
      ((List.range g.devices).filter (· != g.rank)).foldl (fun s r => match ranks[r]? with
        | some p => s.sendUnit h j p 3 (gradBody j gi g.rank g.wcFmt (jb.runOf n) k n 1 poison l)
        | none => s) s

/-- The digest of an updated block joins the hub's running seal of the step (R331). -/
def State.addSeal (s : State) (h j n gi k : Nat) (w : List Byte) : State :=
  let d := check64 (leBytes 4 gi ++ leBytes 4 k ++ w)
  let hb := s.hub h
  let x : SealSt := sgetD hb.seals j ⟨[], 0, 0#64⟩
  let pend := if x.pend.any fun q => q.1 = n then x.pend.map fun (q : Nat × W64) => if q.1 = n then (n, q.2 + d) else q
    else x.pend ++ [(n, d)]
  s.setHub h { hb with seals := sset hb.seals j { x with pend := pend } }

/-- The planes of a tensor block that its update reads: master and moments (R316). -/
def Group.readBytes (g : Group) : Nat :=
  4096 + (if g.factored && !g.keepM then 0 else if g.mBf then 2048 else 4096)
    + (if g.factored then 0 else if g.vBf then 2048 else 4096)

/-- The elements of a tensor block under the group's rule. -/
def updateElems (co : Coef) (a : Option FactAcc) (k : Nat) (xs : List W32) (w m v : List Byte) : List ElemOut :=
  let g := co.g
  let rinv := (a.map fun a => a.rinv g).getD 0#32
  (xs.zipIdx).map fun q =>
    let e := q.2
    let w0 := momentOf false w e
    match a with
    | some a => co.factored q.1 w0 (if g.keepM then momentOf g.mBf m e else 0#32) (a.stat (32 * (k / g.colsB) + e / 32))
        (a.stat (32 * g.rowsB + 32 * (k % g.colsB) + e % 32)) rinv
    | none => co.main q.1 w0 (momentOf g.mBf m e) (momentOf g.vBf v e)

/-- The planes of an updated block are written provisionally (R316, R322, R323, R325). -/
def State.writeUpdate (s : State) (h j n gi k : Nat) (g : Group) (seed : W64) (es : List ElemOut) (fails : List (Nat × Nat)) :
    State :=
  let w := es.flatMap fun e => leBytes 4 e.w.toNat
  let wc := g.workCopy seed n gi k (es.map (·.w))
  let mb := if g.mBf then 2048 else 4096
  let vb := if g.vBf then 2048 else 4096
  let sc := wc.scales.map fun x => (BitVec.ofNat 8 x : Byte)
  let planes : List (Nat × List Byte) := [(g.vaMaster + 4096 * k, w)]
    ++ (if g.factored && !g.keepM then [] else [(g.vaM + mb * k, momentBytes g.mBf g.stSr seed n gi 1 k (es.map (·.m)))])
    ++ (if g.factored then [] else [(g.vaV + vb * k, momentBytes g.vBf g.stSr seed n gi 2 k (es.map (·.v)))])
    ++ [(g.vaWc + blockBytes g.fmt * k, wc.elems)] ++ (if sc.isEmpty then [] else [(g.vaWcs + 32 * k, sc)])
  let s := planes.foldl (fun s p => s.unitWrite j n p.1 p.2 fails) s
  let s := (s.setPending j h gi k n (planes.map fun p => (p.1, p.2.length))).addSeal h j n gi k w
  let pg := pageNo .update h
  let s := ((s.count pg 0x40 1).count pg 0x78 (g.readBytes + wc.elems.length + sc.length)).count pg 0x80 wc.sat
  s.sendWcopy h j n gi k g false (wc.elems ++ sc)

/-- A tensor block whose contributions are all held is updated or refused (R320 to R327). -/
def State.updateBlock (s : State) (h j n gi k : Nat) (c : GroupCur) (cs : List Contribution) (reads : List (Nat × Block))
    (fails : List (Nat × Nat)) : State :=
  let g := groupOf c.record
  let co := c.coef
  let seed := ((s.job j).map (·.seed)).getD 0#64
  let hb := s.hub h
  let s := s.setHub h { hb with
    ingress := hb.ingress.filter fun x => !(x.job = j && x.group = gi && x.k = k && x.step = n) }
  let s := s.charge j 0x68 4
  let s := match (if g.factored then hb.factAcc gi else none) with | some a => s.readStats h j n gi k g a reads | none => s
  let a := if g.factored then (s.hub h).factAcc gi else none
  let r0 := (s.startRead h gi k n).plane j n (g.vaMaster + 4096 * k) 4096 reads
  let r1 := if g.factored && !g.keepM then { r0 with bytes := [] }
    else { r0 with bytes := [] }.plane j n (g.vaM + (if g.mBf then 2048 else 4096) * k) (if g.mBf then 2048 else 4096) reads
  let r2 := if g.factored then { r1 with bytes := [] }
    else { r1 with bytes := [] }.plane j n (g.vaV + (if g.vBf then 2048 else 4096) * k) (if g.vBf then 2048 else 4096) reads
  let s := (r2.done h gi k n).count (pageNo .update h) 0x70 g.readBytes
  let xs := if cs.any (·.poison) then [] else gradSum g cs
  let es := updateElems co a k xs r0.bytes r1.bytes r2.bytes
  let bad := cs.any (·.poison) || r2.poison || es.any (·.bad)
    || (match a with | some a => a.poisoned g k | none => false)
  let s := if bad then
      (s.refuseBlock h j n gi k).sendWcopy h j n gi k g true
        (List.replicate (blockBytes g.fmt + if g.fmt.scaled then 32 else 0) 0#8)
    else s.writeUpdate h j n gi k g seed es fails
  match a with
  | some a => s.factNext h j n gi k c (if bad then a else a.enter co k xs) fails
  | none => s

/-- TENSOR_BLOCK_UPDATE (R320 to R327): tensor block `k` of a group, with the deliveries of state blocks that differ
from what is stored, by physical address, in order, and the failed tries of writes (R248). -/
def execTensorBlockUpdate (t gi k : Nat) (mem : UnitMem) (s : State) : Host.Outcome State Fault Refusal :=
  let s := s.advance t
  .next (s.on (match sget s.sched.cur gi with
    | none => s
    | some c =>
      let g := groupOf c.record
      let h := s.unitOf g k
      let waits := match s.pendingFor h gi k with | some m => m != c.step | none => false
      let turn := !g.factored || (match (s.hub h).factAcc gi with | some a => decide (a.next = k) | none => false)
      if !g.holds || decide (g.count ≤ k) || c.frozenBlock k || waits || !turn then s
      else match s.contributions h c.job c.step gi k g with
        | none => s
        | some cs => s.updateBlock h c.job c.step gi k c cs mem.reads mem.fails))

end Sys2Proof.Machine
end

