-- ==== Sys2Proof/Machine/Dispatch.lean ====
section
/-! DEFINITION. One arm for each constructor of `Instr`: a direct call of its meaning. -/
namespace Sys2Proof.Machine

/-- The effect of a command on everything but the queue. -/
def exec (i : Instr) (s : State) : Host.Outcome State Fault Refusal :=
  match i with
  | .pllLock => Sys2Proof.Machine.execPllLock s
  | .roundBoundary => Sys2Proof.Machine.execRoundBoundary s
  | .powerFrameUpdate m => Sys2Proof.Machine.execPowerFrameUpdate m s
  | .syncPeriodBoundary => Sys2Proof.Machine.execSyncPeriodBoundary s
  | .bellsyncPulseCheck t => Sys2Proof.Machine.execBellsyncPulseCheck t s
  | .timeMarkReceive t port w0 w1 => Sys2Proof.Machine.execTimeMarkReceive t port w0 w1 s
  | .syncWindowExpiry => Sys2Proof.Machine.execSyncWindowExpiry s
  | .bellrefLoss t => Sys2Proof.Machine.execBellrefLoss t s
  | .pllRelock t => Sys2Proof.Machine.execPllRelock t s
  | .acquire t v => Sys2Proof.Machine.execAcquire t v s
  | .kupReport t => Sys2Proof.Machine.execKupReport t s
  | .kupReceive t port w0 w1 => Sys2Proof.Machine.execKupReceive t port w0 w1 s
  | .kmasterIntake => Sys2Proof.Machine.execKmasterIntake s
  | .kdownReceive t port w0 w1 => Sys2Proof.Machine.execKdownReceive t port w0 w1 s
  | .streamChunkArrival t stall slot eng raw words => Sys2Proof.Machine.execStreamChunkArrival t stall slot eng raw words s
  | .ldw stall slot => Sys2Proof.Machine.execLdw stall slot s
  | .mma stall slot => Sys2Proof.Machine.execMma stall slot s
  | .vop stall slot => Sys2Proof.Machine.execVop stall slot s
  | .vred stall slot => Sys2Proof.Machine.execVred stall slot s
  | .vnormStat stall slot => Sys2Proof.Machine.execVnormStat stall slot s
  | .vnormApply stall slot => Sys2Proof.Machine.execVnormApply stall slot s
  | .vsmaxStat stall slot => Sys2Proof.Machine.execVsmaxStat stall slot s
  | .vsmaxApply stall slot => Sys2Proof.Machine.execVsmaxApply stall slot s
  | .vsfn stall slot => Sys2Proof.Machine.execVsfn stall slot s
  | .pack stall slot => Sys2Proof.Machine.execPack stall slot s
  | .unpack stall slot => Sys2Proof.Machine.execUnpack stall slot s
  | .groupidx stall slot => Sys2Proof.Machine.execGroupidx stall slot s
  | .get stall slot => Sys2Proof.Machine.execGet stall slot s
  | .put stall slot => Sys2Proof.Machine.execPut stall slot s
  | .gather stall slot => Sys2Proof.Machine.execGather stall slot s
  | .ahead stall slot => Sys2Proof.Machine.execAhead stall slot s
  | .send stall slot => Sys2Proof.Machine.execSend stall slot s
  | .bulk stall slot => Sys2Proof.Machine.execBulk stall slot s
  | .grant stall slot => Sys2Proof.Machine.execGrant stall slot s
  | .checkcmp stall slot => Sys2Proof.Machine.execCheckcmp stall slot s
  | .waitw stall slot eng => Sys2Proof.Machine.execWaitw stall slot eng s
  | .stepEnd stall slot eng => Sys2Proof.Machine.execStepEnd stall slot eng s
  | .wordCompletion stall eng => Sys2Proof.Machine.execWordCompletion stall eng s
  | .hbmBlockArrival t stall tag q delivered => Sys2Proof.Machine.execHbmBlockArrival t stall tag q delivered s
  | .porterTransferComplete t stall tag => Sys2Proof.Machine.execPorterTransferComplete t stall tag s
  | .hbmBlockWrite t stall tag q fails => Sys2Proof.Machine.execHbmBlockWrite t stall tag q fails s
  | .porterTagTimeout stall tag => Sys2Proof.Machine.execPorterTagTimeout stall tag s
  | .pageFaultTagRelease t stall tag => Sys2Proof.Machine.execPageFaultTagRelease t stall tag s
  | .porterStarveTimer t stall tag => Sys2Proof.Machine.execPorterStarveTimer t stall tag s
  | .aheadBlockArrival t hub job blk => Sys2Proof.Machine.execAheadBlockArrival t hub job blk s
  | .stealerPortGrant t stall bank => Sys2Proof.Machine.execStealerPortGrant t stall bank s
  | .scrubComplete t stall bank => Sys2Proof.Machine.execScrubComplete t stall bank s
  | .bankWakeComplete t stall bank => Sys2Proof.Machine.execBankWakeComplete t stall bank s
  | .storeTestRegion t stall store errs fails => Sys2Proof.Machine.execStoreTestRegion t stall store errs fails s
  | .msgFlit0Arrival t stall msg => Sys2Proof.Machine.execMsgFlit0Arrival t stall msg s
  | .msgLastFlitArrival t stall hdr word crc status => Sys2Proof.Machine.execMsgLastFlitArrival t stall hdr word crc status s
  | .msgTruncationTimeout t stall hdr received => Sys2Proof.Machine.execMsgTruncationTimeout t stall hdr received s
  | .bridgeFlitReceive t chan flit rx => Sys2Proof.Machine.execBridgeFlitReceive t chan flit rx s
  | .bridgeNakReceive t chan seq => Sys2Proof.Machine.execBridgeNakReceive t chan seq s
  | .arbCycleDecision t arb output cycle reqs gap => Sys2Proof.Machine.execArbCycleDecision t arb output cycle reqs gap s
  | .stepCtrlGo t stall v => Sys2Proof.Machine.execStepCtrlGo t stall v s
  | .stepCtrlAbort t stall v => Sys2Proof.Machine.execStepCtrlAbort t stall v s
  | .stepDrainEnd t stall slot => Sys2Proof.Machine.execStepDrainEnd t stall slot s
  | .ringPtrWrite t stall ring v => Sys2Proof.Machine.execRingPtrWrite t stall ring v s
  | .checkValWrite t stall v => Sys2Proof.Machine.execCheckValWrite t stall v s
  | .rerunArm t die v => Sys2Proof.Machine.execRerunArm t die v s
  | .xlateInval t hub v => Sys2Proof.Machine.execXlateInval t hub v s
  | .commit t agent page v => Sys2Proof.Machine.execCommit t agent page v s
  | .grpStepWrite t v => Sys2Proof.Machine.execGrpStepWrite t v s
  | .ledgerSnap t agent job => Sys2Proof.Machine.execLedgerSnap t agent job s
  | .ledgerRelease t agent job => Sys2Proof.Machine.execLedgerRelease t agent job s
  | .aisleRetrain t port v => Sys2Proof.Machine.execAisleRetrain t port v s
  | .bootGo t agent v => Sys2Proof.Machine.execBootGo t agent v s
  | .ringCtrlEnable t agent v => Sys2Proof.Machine.execRingCtrlEnable t agent v s
  | .registerWrite t agent addr v => Sys2Proof.Machine.execRegisterWrite t agent addr v s
  | .lowWordRead t agent addr => Sys2Proof.Machine.execLowWordRead t agent addr s
  | .rcFieldRead t agent addr => Sys2Proof.Machine.execRcFieldRead t agent addr s
  | .gradientFrameArrival t stall tag frame => Sys2Proof.Machine.execGradientFrameArrival t stall tag frame s
  | .gradMessageReceive t port => Sys2Proof.Machine.execGradMessageReceive t port s
  | .tensorBlockUpdate t group k mem => Sys2Proof.Machine.execTensorBlockUpdate t group k mem s
  | .wcopyMessageReceive t port => Sys2Proof.Machine.execWcopyMessageReceive t port s
  | .scheduleCompute job => Sys2Proof.Machine.execScheduleCompute job s
  | .stepClose t job => Sys2Proof.Machine.execStepClose t job s
  | .flagWordSend job => Sys2Proof.Machine.execFlagWordSend job s
  | .flagWordReceive t port => Sys2Proof.Machine.execFlagWordReceive t port s
  | .guardArm t job delay => Sys2Proof.Machine.execGuardArm t job delay s
  | .guardPeerDeadline job => Sys2Proof.Machine.execGuardPeerDeadline job s
  | .aisleFlitReceive t port bytes => Sys2Proof.Machine.execAisleFlitReceive t port bytes s
  | .aisleMessageReceive t port => Sys2Proof.Machine.execAisleMessageReceive t port s
  | .aisleAckTimeout t port => Sys2Proof.Machine.execAisleAckTimeout t port s
  | .aisleNakRepeat t port => Sys2Proof.Machine.execAisleNakRepeat t port s
  | .aisleLaneLockLoss t port lane => Sys2Proof.Machine.execAisleLaneLockLoss t port lane s
  | .aisleLinkTimeout t port => Sys2Proof.Machine.execAisleLinkTimeout t port s
  | .aisleLanesLocked t port => Sys2Proof.Machine.execAisleLanesLocked t port s
  | .identReceive t port bytes => Sys2Proof.Machine.execIdentReceive t port bytes s
  | .creditRevoke t port => Sys2Proof.Machine.execCreditRevoke t port s
  | .sealReceive t port => Sys2Proof.Machine.execSealReceive t port s
  | .sealTableReceive t job step table => Sys2Proof.Machine.execSealTableReceive t job step table s
  | .sealTableTimeout t job => Sys2Proof.Machine.execSealTableTimeout t job s
  | .abortReceive t port => Sys2Proof.Machine.execAbortReceive t port s
  | .doorlineInval t half door descs => Sys2Proof.Machine.execDoorlineInval t half door descs s
  | .doorlinePoll t door descs => Sys2Proof.Machine.execDoorlinePoll t door descs s
  | .jobOpen t seq record phase place => Sys2Proof.Machine.execJobOpen t seq record phase place s
  | .jobLoad t seq raw image frames => Sys2Proof.Machine.execJobLoad t seq raw image frames s
  | .jobMap t seq pages tables => Sys2Proof.Machine.execJobMap t seq pages tables s
  | .stepRun t seq agreed => Sys2Proof.Machine.execStepRun t seq agreed s
  | .stepAbort t seq => Sys2Proof.Machine.execStepAbort t seq s
  | .jobClose t seq => Sys2Proof.Machine.execJobClose t seq s
  | .jobSuspend t seq => Sys2Proof.Machine.execJobSuspend t seq s
  | .jobResume t seq => Sys2Proof.Machine.execJobResume t seq s
  | .selftest t seq found => Sys2Proof.Machine.execSelftest t seq found s
  | .selftestQueuedStart t seq found => Sys2Proof.Machine.execSelftestQueuedStart t seq found s
  | .fenceStall t seq => Sys2Proof.Machine.execFenceStall t seq s
  | .unfenceStall t seq found => Sys2Proof.Machine.execUnfenceStall t seq found s
  | .setPolicy t seq => Sys2Proof.Machine.execSetPolicy t seq s
  | .twinBind t seq => Sys2Proof.Machine.execTwinBind t seq s
  | .echo t seq => Sys2Proof.Machine.execEcho t seq s
  | .summary t seq => Sys2Proof.Machine.execSummary t seq s
  | .deadlineTimer job => Sys2Proof.Machine.execDeadlineTimer job s
  | .ledgerReconcile measured coef static => Sys2Proof.Machine.execLedgerReconcile measured coef static s
  | .pitchMove t job pitch why stalls halls phase => Sys2Proof.Machine.execPitchMove t job pitch why stalls halls phase s
  | .preemptResume t job => Sys2Proof.Machine.execPreemptResume t job s
  | .stepWatchdogExpiry t job => Sys2Proof.Machine.execStepWatchdogExpiry t job s
  | .stepRerunGo t job moves agreed => Sys2Proof.Machine.execStepRerunGo t job moves agreed s
  | .engineBusyExpiry t stall eng => Sys2Proof.Machine.execEngineBusyExpiry t stall eng s
  | .clerkWatchdogExpiry t hub => Sys2Proof.Machine.execClerkWatchdogExpiry t hub s
  | .companionLossTimeout t => Sys2Proof.Machine.execCompanionLossTimeout t s
  | .statusHeartbeat => Sys2Proof.Machine.execStatusHeartbeat s
  | .companionRead t half read => Sys2Proof.Machine.execCompanionRead t half read s
  | .companionWrite t half tries => Sys2Proof.Machine.execCompanionWrite t half tries s
  | .inval t half => Sys2Proof.Machine.execInval t half s
  | .lemefHalfLost t half => Sys2Proof.Machine.execLemefHalfLost t half s
  | .lemefTrained => Sys2Proof.Machine.execLemefTrained s
  | .resetNRelease heldUs => Sys2Proof.Machine.execResetNRelease heldUs s
  | .resetNAssert => Sys2Proof.Machine.execResetNAssert s
  | .pwrGoodFall => Sys2Proof.Machine.execPwrGoodFall s
  | .pwrGoodRise => Sys2Proof.Machine.execPwrGoodRise s
  | .bootTakeover => Sys2Proof.Machine.execBootTakeover s
  | .imageFetchComplete bytes complete => Sys2Proof.Machine.execImageFetchComplete bytes complete s
  | .openingInspectionDone found => Sys2Proof.Machine.execOpeningInspectionDone found s
  | .thermtrip => Sys2Proof.Machine.execThermtrip s
  | .smbusRead cmd word => Sys2Proof.Machine.execSmbusRead cmd word s
  | .tapInstruction ti => Sys2Proof.Machine.execTapInstruction ti s
  | .traceCounterSnapshot => Sys2Proof.Machine.execTraceCounterSnapshot s
  | .lemefSlotReceive t half bytes => Sys2Proof.Machine.execLemefSlotReceive t half bytes s
  | .lemefAckTimeout t half => Sys2Proof.Machine.execLemefAckTimeout t half s
  | .lemefRetrain t half => Sys2Proof.Machine.execLemefRetrain t half s
  | .bridgeChannelRetrain t chan => Sys2Proof.Machine.execBridgeChannelRetrain t chan s
  | .clerkResumesService t => Sys2Proof.Machine.execClerkResumesService t s
  | .vioRise => Sys2Proof.Machine.execVioRise s
  | .vioFall => Sys2Proof.Machine.execVioFall s
  | .setPolicySyncTimeout t => Sys2Proof.Machine.execSetPolicySyncTimeout t s

end Sys2Proof.Machine
end

