-- ==== Sys2Proof/Machine/Idle.lean ====
section
/-! DEFINITION. What the device does in a tick in which no command waits: the bell counts on, the stalls go on, IDENTs leave,
and the boot ROM's checks of an image end. -/
namespace Sys2Proof.Machine

/-- One tick with no command (log entry 2): the bell counts on, every stall's acts of earlier ticks take effect, IDENTs that
are due leave (R348), and the checks of an image that has been read end (R448, R450; log entry 77). -/
def idleTick (s : State) : State :=
  if !s.clocked then s
  else
    let s := s.advance (s.bell.now + 1)
    let s := s.stalls.foldl (fun s q => s.touch s.bell.now q.1) s
    (s.aisles.foldl (fun s q => s.dueIdents s.bell.now q.1 16) s).verifyImage

end Sys2Proof.Machine
end

