-- ==== Sys2Proof/Safety.lean ====
section
/-! DEFINITION. What counts as a safe run of the block, the parts of its state, and what it means that a command leaves a
part as it was. -/
namespace Sys2Proof.Machine

/-- A step is safe when it answers a next state. -/
def safeStep (s : State) : Prop := ∃ t, step s = .next t

/-- The memory keeps its canonical form: addresses strictly rising and no listed byte equal to what an unlisted one
reads as. -/
def Memory.wf : List Host.Cell → Bool
  | [] => true
  | [(_, b)] => b != 0#8
  | (a, b) :: (c, d) :: r => b != 0#8 && decide (a < c) && Memory.wf ((c, d) :: r)

/-- The device is STOPPED exactly where a DEVICE_FATAL event has been recorded (R391, R447). -/
def State.fatalOk (s : State) : Prop :=
  (s.boot.dev = 3 ↔ s.events.fatal.isSome = true) ∧ ∀ r, s.events.fatal = some r → r.ev.sev = 4

/-- The parts of the state, as State groups them; `time` is bell time and `bell` the rest of the bell. -/
inductive Part where
  | pins | fuses | boot | time | bell | pages | latches | stalls | jobs | hubs | sched | mem | marks | outStacks | chans
  | arbs | aisles | halves | clerk | rings | events | ledgers | power | trace | out | freeIx | pending
  deriving DecidableEq, Repr

/-- A part is the same in two states. -/
def Part.same (p : Part) (s t : State) : Prop :=
  match p with
  | .pins => t.pins = s.pins
  | .fuses => t.fuses = s.fuses
  | .boot => t.boot = s.boot
  | .time => t.bell.now = s.bell.now
  | .bell => { t.bell with now := 0 } = { s.bell with now := 0 }
  | .pages => t.pages = s.pages
  | .latches => t.latches = s.latches
  | .stalls => t.stalls = s.stalls
  | .jobs => t.jobs = s.jobs
  | .hubs => t.hubs = s.hubs
  | .sched => t.sched = s.sched
  | .mem => t.mem = s.mem
  | .marks => t.marks = s.marks
  | .outStacks => t.outStacks = s.outStacks
  | .chans => t.chans = s.chans
  | .arbs => t.arbs = s.arbs
  | .aisles => t.aisles = s.aisles
  | .halves => t.halves = s.halves
  | .clerk => t.clerk = s.clerk
  | .rings => t.rings = s.rings
  | .events => t.events = s.events
  | .ledgers => t.ledgers = s.ledgers
  | .power => t.power = s.power
  | .trace => t.trace = s.trace
  | .out => t.out = s.out
  | .freeIx => t.freeIx = s.freeIx
  | .pending => t.pending = s.pending

/-- Every part outside a list is the same. -/
def Only (w : List Part) (s t : State) : Prop := ∀ p, w.contains p = false → p.same s t

end Sys2Proof.Machine
end

