-- ==== Sys2Proof/Certificates/Slice0/Obligations.lean ====
section
/-! DEFINITION. The statements for the provers. `s.advance t` is the state with bell time at tick `t` (log entry 1); a
command acts only while the clocks run (`State.clocked`). -/
section
open Sys2Proof Sys2Proof.Machine

/-! ### The block as a whole -/

/-- Commands of pins, of the always-on domain and of the PLL, which act without the arithmetic clock (R26, R474, R478, R481,
R486, R487). -/
def actsUnclocked : Instr → Bool
  | .pllLock | .resetNRelease .. | .resetNAssert | .pwrGoodFall | .pwrGoodRise | .vioRise | .vioFall | .thermtrip
  | .smbusRead .. | .tapInstruction .. => true
  | _ => false

/-- The parts that a counter, an event and what follows from its severity may write (R391, R393, R402, R415). -/
def eventParts : List Part :=
  [.boot, .pages, .stalls, .jobs, .hubs, .aisles, .halves, .clerk, .rings, .events, .ledgers, .trace, .out, .freeIx]

/-- The parts that each command may write. Every other part it leaves as it was. -/
def mayWrite : Instr → List Part
  | .pllLock => [.time, .bell, .halves]
  | .roundBoundary => [.time, .bell, .sched, .arbs] ++ eventParts
  | .powerFrameUpdate .. | .bellsyncPulseCheck .. | .timeMarkReceive .. => [.time, .bell, .power] ++ eventParts
  | .syncPeriodBoundary | .syncWindowExpiry | .bellrefLoss .. | .acquire .. | .setPolicy .. =>
    [.time, .bell] ++ eventParts
  | .pllRelock .. => [.time, .bell, .pages, .stalls]
  | .kupReport .. | .kupReceive .. | .kmasterIntake | .kdownReceive .. => [.time, .bell, .pages, .stalls, .aisles, .out]
  | .streamChunkArrival .. | .ldw .. | .mma .. | .vop .. | .vred .. | .vnormStat .. | .vnormApply .. | .vsmaxStat ..
  | .vsmaxApply .. | .vsfn .. | .pack .. | .unpack .. | .groupidx .. | .get .. | .put .. | .gather .. | .ahead ..
  | .send .. | .bulk .. | .grant .. | .checkcmp .. | .waitw .. | .stepEnd .. | .wordCompletion .. | .hbmBlockArrival ..
  | .porterTransferComplete .. | .porterTagTimeout .. | .pageFaultTagRelease .. | .porterStarveTimer ..
  | .stealerPortGrant .. | .scrubComplete .. | .bankWakeComplete .. | .storeTestRegion .. | .msgFlit0Arrival ..
  | .msgLastFlitArrival .. | .msgTruncationTimeout .. | .stepDrainEnd .. | .stepClose .. | .flagWordReceive ..
  | .guardArm .. | .identReceive .. | .creditRevoke .. | .sealTableTimeout .. | .doorlineInval .. | .doorlinePoll ..
  | .jobOpen .. | .stepAbort .. | .jobSuspend .. | .jobResume .. | .fenceStall .. | .unfenceStall .. | .twinBind ..
  | .echo .. | .summary .. | .deadlineTimer .. | .preemptResume .. | .stepWatchdogExpiry .. | .engineBusyExpiry ..
  | .clerkWatchdogExpiry .. | .companionLossTimeout .. => [.time] ++ eventParts
  | .hbmBlockWrite .. | .gradientFrameArrival .. | .tensorBlockUpdate .. | .wcopyMessageReceive .. | .jobMap ..
  | .pitchMove .. => [.time, .mem, .marks] ++ eventParts
  | .aheadBlockArrival .. => [.time, .pages, .stalls, .hubs, .halves, .rings, .events, .ledgers, .trace, .out]
  | .bridgeFlitReceive .. => [.time, .pages, .stalls, .chans, .out]
  | .bridgeNakReceive .. => [.time, .chans, .arbs] ++ eventParts
  | .arbCycleDecision .. | .aisleFlitReceive .. | .aisleAckTimeout .. | .aisleLaneLockLoss .. | .aisleLinkTimeout ..
  | .lemefHalfLost .. | .lemefSlotReceive .. | .lemefAckTimeout .. => [.time, .arbs] ++ eventParts
  | .stepCtrlGo .. | .stepCtrlAbort .. | .ringPtrWrite .. | .checkValWrite .. | .rerunArm .. | .xlateInval ..
  | .commit .. | .ledgerSnap .. | .ledgerRelease .. | .aisleRetrain .. | .bootGo .. | .ringCtrlEnable ..
  | .registerWrite .. | .stepRun .. => [.pins, .time, .bell, .sched, .arbs] ++ eventParts
  | .grpStepWrite .. => [.time, .pages, .stalls, .sched]
  | .lowWordRead .. | .rcFieldRead .. | .companionRead .. => [.time, .bell, .latches] ++ eventParts
  | .gradMessageReceive .. => [.time, .pages, .stalls, .hubs, .aisles, .out]
  | .scheduleCompute .. => [.time, .pages, .stalls, .jobs, .hubs, .sched]
  | .flagWordSend .. => [.time, .pages, .stalls, .jobs, .aisles, .rings, .events, .ledgers, .trace, .out]
  | .guardPeerDeadline .. => [.time, .pages, .stalls, .jobs]
  | .aisleMessageReceive .. =>
    [.time, .pages, .stalls, .jobs, .aisles, .halves, .rings, .events, .ledgers, .trace, .out]
  | .aisleNakRepeat .. => [.time, .pages, .stalls, .aisles]
  | .aisleLanesLocked .. => [.time, .pages, .stalls, .aisles, .out]
  | .sealReceive .. =>
    [.time, .pages, .stalls, .jobs, .aisles, .halves, .rings, .events, .ledgers, .trace, .out, .freeIx]
  | .sealTableReceive .. => [.time, .pages, .stalls, .jobs, .aisles, .halves, .rings, .events, .trace, .out]
  | .abortReceive .. | .clerkResumesService .. =>
    [.time, .pages, .stalls, .jobs, .hubs, .aisles, .halves, .clerk, .rings, .events, .ledgers, .trace, .out,
      .freeIx]
  | .jobLoad .. => [.time, .sched, .mem, .marks] ++ eventParts
  | .jobClose .. => [.time, .sched] ++ eventParts
  | .selftest .. | .selftestQueuedStart .. => [.time, .mem, .marks, .outStacks, .chans] ++ eventParts
  | .ledgerReconcile .. => [.time, .power] ++ eventParts
  | .stepRerunGo .. | .companionWrite .. => [.pins, .time, .bell, .sched, .mem, .marks, .arbs] ++ eventParts
  | .statusHeartbeat => [.time, .pages, .stalls, .halves, .rings, .power, .out]
  | .inval .. => [.time, .pages, .stalls, .halves, .rings]
  | .lemefTrained => [.boot, .pages, .stalls, .halves, .out]
  | .resetNRelease .. | .pwrGoodRise | .thermtrip | .vioRise => [.pins]
  | .resetNAssert | .pwrGoodFall | .vioFall =>
    [.pins, .boot, .time, .bell, .pages, .latches, .stalls, .jobs, .hubs, .sched, .mem, .marks, .outStacks, .chans,
      .arbs, .aisles, .halves, .clerk, .rings, .events, .ledgers, .power, .trace]
  | .bootTakeover => [.boot, .pages, .stalls, .halves, .clerk, .out]
  | .imageFetchComplete .. => [.boot]
  | .openingInspectionDone .. => [.fuses, .mem, .marks, .outStacks, .chans, .power] ++ eventParts
  | .smbusRead .. => [.out]
  | .tapInstruction .. => [.pins, .out, .freeIx]
  | .traceCounterSnapshot => [.time, .pages, .stalls, .trace, .out]
  | .lemefRetrain .. => [.time, .pages, .stalls, .halves]
  | .bridgeChannelRetrain .. => [.time, .pages, .stalls, .chans]
  | .setPolicySyncTimeout .. =>
    [.time, .bell, .pages, .stalls, .jobs, .halves, .clerk, .rings, .events, .ledgers, .trace, .out]

/-- A step runs the command in front of the queue on the state with the queue's rest. -/
def Obligations.StepRunsFrontCommand : Prop :=
  ∀ (s : State) (c : Instr) (q : List Instr), step { s with pending := c :: q } = exec c { s with pending := q }

/-- With no command waiting a step lets one tick pass (DESIGN CHOICE, log entry 2): bell time counts on by one, as R26 has
it on every tick, and with the clocks stopped nothing changes. -/
def Obligations.EmptyQueuePassesOneTick : Prop :=
  ∀ s : State, s.pending = [] →
    (s.clocked = false → step s = .next s) ∧
    (s.clocked = true → ∃ t, step s = .next t ∧ t.bell.now = (s.bell.now + 1) % 2 ^ 64 ∧ Only ([.time] ++ eventParts) s t)

/-- After reset: state CLOSED in phase TRAINING (R447, R448), the bell COLD at tick 0 (R26, R43), no job, no event recorded, the
rings not enabled, nothing waiting. That no memory is listed and every port and half-port starts in state 0 is the model's
choice (log entries 4, 3). -/
def Obligations.ResetStartsClosedAndCold : Prop :=
  State.reset.boot.dev = 0 ∧ State.reset.boot.phase = 0 ∧ State.reset.boot.image = none ∧ State.reset.bell.state = 0 ∧
  State.reset.bell.now = 0 ∧ (∀ j, State.reset.job j = none) ∧ State.reset.mem = [] ∧ State.reset.events.recs = [] ∧
  (∀ h, (State.reset.half h).state = 0) ∧ (∀ p, (State.reset.aisle p).state = 0) ∧ State.reset.ringsOn = false ∧
  State.reset.live .lemef 0 0x13C = 0 ∧ State.reset.pending = []

/-- Every command answers a next state, but a release of RESET_N after less than 10 microseconds, which the spec gives no
effect (R478). -/
def Obligations.OnlyShortResetPulseStops : Prop :=
  ∀ (c : Instr) (s : State),
    (∃ t, exec c s = .next t ∧ ∀ us, c = .resetNRelease us → 10 ≤ us) ∨
    (∃ us, c = .resetNRelease us ∧ us < 10 ∧ exec c s = .fault .shortResetPulse)

/-- Every byte outside the `n` bytes from address `a` reads the same in two memories. -/
def sameOutside (a n : Nat) (m m' : List Host.Cell) : Prop :=
  ∀ i, (i < a ∨ a + n ≤ i) → memRead m' i = memRead m i

/-- The physical address that a hub's unit writes an address of a job at: in the frame that is not committed (R311). -/
def unitDest (s : State) (j va : Nat) : Nat := s.framePa j va (s.unitPa j va) true

/-- The planes of an updated tensor block: addresses and bytes of master, moments, working copy and scales (R316, R322, R323,
R325). -/
def updatePlanes (j n gi k : Nat) (g : Group) (seed : W64) (es : List ElemOut) : List (Nat × List Byte) :=
  let wc := g.workCopy seed n gi k (es.map (·.w))
  [(g.vaMaster + 4096 * k, es.flatMap fun e => leBytes 4 e.w.toNat)]
    ++ (if g.factored && !g.keepM then []
      else [(g.vaM + (if g.mBf then 2048 else 4096) * k, momentBytes g.mBf g.stSr seed n gi 1 k (es.map (·.m)))])
    ++ (if g.factored then []
      else [(g.vaV + (if g.vBf then 2048 else 4096) * k, momentBytes g.vBf g.stSr seed n gi 2 k (es.map (·.v)))])
    ++ [(g.vaWc + blockBytes g.fmt * k, wc.elems)]
    ++ (if (wc.scales.map fun x => (BitVec.ofNat 8 x : Byte)).isEmpty then []
      else [(g.vaWcs + 32 * k, wc.scales.map fun x => BitVec.ofNat 8 x)])

/-- A command leaves every part of the state outside its list as it was, the queue among them. Where a command may write
memory, the writes that it is made of change the bytes at the address they compute and no other byte: of a block or a range
that the Clerk writes or zero-fills, of a page table's entry and a new table, of a page taken for a job, of the group records of an
image (R243, R249, R252, R255, R314), and of the planes of an updated tensor block or a received working copy, which go part by
part to the frames that are not committed (R311). A test of the device leaves memory empty, and a test of stalls as it was. -/
def Obligations.CommandsWriteOnlyTheirParts : Prop :=
  (∀ (c : Instr) (s t : State), exec c s = .next t → Only (mayWrite c) s t ∧ t.pending = s.pending) ∧
  (∀ (s : State) (a : Nat) (b : List Byte),
    sameOutside a b.length s.mem (s.putPart a b).mem ∧ sameOutside a b.length s.mem (s.putBytes a b).mem) ∧
  (∀ (s : State) (pa n : Nat), sameOutside pa n s.mem (s.zeroFill pa n).mem ∧
    ∀ i, pa ≤ i → i < pa + n → memRead (s.zeroFill pa n).mem i = 0#8) ∧
  (∀ (s : State) (j va v : Nat),
    (s.l2Table j va = none → s.setEntry j va v = s) ∧
    ∀ a, s.l2Table j va = some a → sameOutside (a + 8 * bits va 32 21) 8 s.mem (s.setEntry j va v).mem) ∧
  (∀ (s u : State) (kept offered rest : List Nat) (j a : Nat), s.newTable kept j offered = some (u, rest, a) →
    sameOutside a (2 ^ 15) s.mem u.mem) ∧
  (∀ (s : State) (j : Nat) (m : MapEnt),
    sameOutside m.pa (2 ^ 21) s.mem (s.ownPage j m.pa).mem ∧
    (s.mapPage j m).mem = ((s.ownPage j m.pa).setEntry j m.va (m.pa + 1 + 2 * b2n m.write)).mem) ∧
  (∀ (s : State) (j va n : Nat) (jb : Job), s.job j = some jb → (s.unmapRange j va n).mem
    = ((jb.maps.filter fun m => decide (va ≤ m.va) && decide (m.va < va + n)).foldl (fun u m => u.setEntry j m.va 0) s).mem) ∧
  (∀ (s : State) (j : Nat) (jb : Job) (im : LoadImage) (frames : List Nat),
    (∀ u, s.loadUnits j jb im frames = some u → u.mem = s.mem) ∧ (s.loadStalls j jb im).mem = s.mem ∧
    ∀ i, (∀ q ∈ im.groups, i < s.groupBase + 128 * q.1 ∨ s.groupBase + 128 * q.1 + (ownRecord j q.2).length ≤ i) →
      memRead (s.loadGroups j jb im).mem i = memRead s.mem i) ∧
  (∀ (s u : State) (j p phase : Nat) (why : MoveWhy) (sns halls : List Nat) (jb : Job), s.job j = some jb →
    (∀ m ∈ jb.maps, m.hall = none) → s.movePitch j p phase why sns halls = some u → u.mem = s.mem) ∧
  (∀ (s : State) (j n va : Nat) (l : List Byte) (fails : List (Nat × Nat)),
    (va % 64 + l.length ≤ 64 →
      sameOutside (unitDest s j va) l.length s.mem (s.unitWrite j n va l fails).mem ∧
      (8 ≤ sgetD fails (unitDest s j va / 64 * 64) 0 → (s.unitWrite j n va l fails).mem = s.mem)) ∧
    s.unitWrite j n va l fails = (blockParts va l).foldl (fun u q => u.unitWrite j n q.1 q.2 fails) s ∧
    ∀ q ∈ blockParts va l, q.1 % 64 + q.2.length ≤ 64) ∧
  (∀ (s : State) (h j n gi k : Nat) (g : Group) (seed : W64) (es : List ElemOut) (fails : List (Nat × Nat)),
    (s.writeUpdate h j n gi k g seed es fails).mem
      = ((updatePlanes j n gi k g seed es).foldl (fun u p => u.unitWrite j n p.1 p.2 fails) s).mem) ∧
  (∀ (s : State) (h j n gi k : Nat) (c : GroupCur) (a : FactAcc) (fails : List (Nat × Nat)),
    let g := groupOf c.record
    let u := s.setFact h { a with next := c.nextLive (k + 1) }
    (s.factNext h j n gi k c a fails).mem = if c.nextLive (k + 1) < g.count then s.mem
      else (u.unitWrite j n g.vaV ((a.newStats c.coef).flatMap fun x => leBytes 4 x.toNat) fails).mem) ∧
  (∀ (s : State) (j n gi k : Nat) (g : Group) (l : List Byte) (fails : List (Nat × Nat)),
    (s.takeWcopy j n gi k g true l fails).mem = s.mem ∧
    let h := s.unitOf g k
    let u := s.setHub h { s.hub h with await := (s.hub h).await.filter fun q => q != (gi, k, n) }
    let v := u.unitWrite j n (g.vaWc + blockBytes g.fmt * k) (l.take (blockBytes g.fmt)) fails
    (s.takeWcopy j n gi k g false l fails).mem = if g.fmt.scaled
      then (v.unitWrite j n (g.vaWcs + 32 * k) ((l.drop (blockBytes g.fmt)).take 32) fails).mem else v.mem) ∧
  ∀ (s : State) (f : Inspection) (scope : List Nat), (s.testDevice f).mem = [] ∧ (s.testStalls scope f).mem = s.mem

/-- While the clocks stand still (no power, reset, a thermal trip, or the bell COLD) every command but those of the pins and
the PLL leaves the whole state as it was. -/
def Obligations.StoppedClocksHoldTheState : Prop :=
  ∀ (c : Instr) (s : State), s.clocked = false → actsUnclocked c = false → exec c s = .next s

/-- Outside its pins, fuses and what has left it, a device without power or in reset is as reset leaves it. -/
def heldInReset (s : State) : Prop :=
  (s.pins.vio && s.pins.pwrGood && s.pins.resetN) = false → s.restart = s

/-- A device that is held in reset, or has lost its power, stays as reset leaves it through every step. -/
def Obligations.HeldInResetStaysReset : Prop :=
  ∀ s t : State, heldInReset s → step s = .next t → heldInReset t

/-- Every step keeps the canonical form of memory. -/
def Obligations.StepKeepsMemoryForm : Prop :=
  ∀ s t : State, Memory.wf s.mem = true → step s = .next t → Memory.wf t.mem = true

/-- Memory after reset has that form. -/
def Obligations.ResetMemoryHasForm : Prop := Memory.wf State.reset.mem = true

/-- No command lowers the rollback counter, and none changes another fuse (R451). -/
def Obligations.FusesOnlyAdvance : Prop :=
  ∀ (c : Instr) (s t : State), exec c s = .next t →
    s.fuses.rollback ≤ t.fuses.rollback ∧ t.fuses.grade = s.fuses.grade ∧ t.fuses.serial = s.fuses.serial ∧
    t.fuses.keyHash = s.fuses.keyHash

/-- The straps are sampled at the release of RESET_N and held until RESET_N is next asserted; a change while RESET_N is high is
ignored (R474). That they keep their values through a reset, up to the next release that takes effect, and that a release
which waits for PWR_GOOD samples them with its rise, is the model's choice (log entry 48), and so is that no command changes what
the board ties them to (log entry 3). -/
def Obligations.StrapsAreHeld : Prop :=
  ∀ (c : Instr) (s t : State), exec c s = .next t →
    t.pins.posPin = s.pins.posPin ∧ t.pins.twinPin = s.pins.twinPin ∧
    ((∀ us, c ≠ .resetNRelease us) → ¬ (c = .pwrGoodRise ∧ s.pins.releasePending = true) →
      t.pins.pos = s.pins.pos ∧ t.pins.twin = s.pins.twin) ∧
    (s.pins.resetN = true → ¬ (c = .pwrGoodRise ∧ s.pins.releasePending = true) →
      t.pins.pos = s.pins.pos ∧ t.pins.twin = s.pins.twin) ∧
    (∀ us, c = .resetNRelease us → s.pins.vio = true → s.pins.pwrGood = true → s.pins.resetN = false →
      t.pins.pos = s.pins.posPin ∧ t.pins.twin = s.pins.twinPin)

/-- A thermal trip stays in force until PWR_GOOD or VIO falls, and no clock runs meanwhile (R481). -/
def Obligations.ThermalTripHolds : Prop :=
  ∀ (c : Instr) (s t : State), s.pins.trip = true → c ≠ .pwrGoodFall → c ≠ .vioFall → exec c s = .next t →
    t.pins.trip = true ∧ t.clocked = false

/-- The device state moves only as R447 lists. In every state `STOPPED` goes with a recorded DEVICE_FATAL event (R391), which
reset has and every step keeps. From such a state a command leaves the device state as it is, or stops a device that was not
stopped with the DEVICE_FATAL event it records; the opening inspection's end leads from OPENING to RUNNING; reset or a loss of
power leads to CLOSED, from any state, and nothing else leaves STOPPED. The firmware of an image that has been read starts, CLOSED
to OPENING, in the next tick without a command, or with the opening inspection's end where that comes first (the model's
choice, log entry 77). -/
def Obligations.DeviceStateMovesAsListed : Prop :=
  let stops (s t : State) : Prop := s.boot.dev ≠ 3 ∧ s.events.fatal = none ∧ t.boot.dev = 3 ∧
    ∃ r, t.events.fatal = some r ∧ r.ev.sev = 4
  State.reset.fatalOk ∧
  (∀ s t : State, s.fatalOk → step s = .next t → t.fatalOk) ∧
  (∀ (c : Instr) (s t : State), s.fatalOk → exec c s = .next t →
    t.boot.dev = s.boot.dev ∨ stops s t ∨
    ((∃ f, c = .openingInspectionDone f) ∧ t.boot.dev = 2 ∧
      (s.boot.dev = 1 ∨ (s.boot.dev = 0 ∧ s.boot.buffer.isSome = true))) ∨
    ((c = .resetNAssert ∨ c = .pwrGoodFall ∨ c = .vioFall) ∧ t.boot.dev = 0)) ∧
  ∀ s t : State, s.fatalOk → s.pending = [] → step s = .next t →
    t.boot.dev = s.boot.dev ∨ stops s t ∨ (s.boot.dev = 0 ∧ s.boot.buffer.isSome = true ∧ t.boot.dev = 1)

/-! ### Pins, power and boot -/

/-- The low-speed pins while VIO is up, whatever the clocks do. A trip stops the clocks and is remembered (R481); a fall of
PWR_GOOD loses all state outside the always-on domain (R478); a release of RESET_N, or a rise of PWR_GOOD that a release waits
for, samples the straps (R474); VIO's rise clears `last_trip` and its fall loses everything (R481). That RESET_N alone puts the
same state back to reset, HBM included, is the model's choice (log entry 48), and that the test port is then in BYPASS is
presumed (log entries 3, 75). Each of the three falls leads from every state to one that is held in reset: the pin is low, and
all outside the pins, the fuses and what has left the device is as reset leaves it. -/
def Obligations.PowerAndResetPins : Prop :=
  (∀ s : State,
    (s.pins.vio = true → ∃ t, exec .resetNAssert s = .next t ∧ t.pins.resetN = false ∧ t.restart = t ∧ heldInReset t) ∧
    (s.pins.vio = true → ∃ t, exec .pwrGoodFall s = .next t ∧ t.pins.pwrGood = false ∧ t.restart = t ∧ heldInReset t) ∧
    ∃ t, exec .vioFall s = .next t ∧ t.pins.vio = false ∧ t.pins.pwrGood = false ∧ t.pins.resetN = false ∧ t.restart = t ∧
      heldInReset t) ∧
  ∀ s : State,
    (s.pins.vio = true →
      exec .thermtrip s = .next { s with pins := { s.pins with trip := true, lastTrip := true } } ∧
      exec .pwrGoodFall s = .next { State.reset with
        pins := { s.pins with pwrGood := false, trip := false, tap := .bypass }, fuses := s.fuses, out := s.out,
        freeIx := s.freeIx, pending := s.pending } ∧
      exec .resetNAssert s = .next { State.reset with
        pins := { s.pins with resetN := false, releasePending := false }, fuses := s.fuses, out := s.out,
        freeIx := s.freeIx, pending := s.pending } ∧
      (s.pins.releasePending = false → exec .pwrGoodRise s = .next { s with pins := { s.pins with pwrGood := true } }) ∧
      (s.pins.releasePending = true → exec .pwrGoodRise s = .next { s with pins := { s.pins with
        pwrGood := true, releasePending := false, pos := s.pins.posPin, twin := s.pins.twinPin, tap := .bypass } }) ∧
      (s.pins.resetN = false → ∀ us, 10 ≤ us →
        (s.pins.pwrGood = true → exec (.resetNRelease us) s = .next { s with pins := { s.pins with
          resetN := true, releasePending := false, pos := s.pins.posPin, twin := s.pins.twinPin, tap := .bypass } }) ∧
        (s.pins.pwrGood = false → exec (.resetNRelease us) s = .next { s with pins := { s.pins with
          resetN := true, releasePending := true } }))) ∧
    (s.pins.vio = false → exec .vioRise s = .next { s with pins := { s.pins with vio := true, lastTrip := false } }) ∧
    exec .vioFall s = .next { State.reset with
      pins := { s.pins with
        vio := false, pwrGood := false, resetN := false, releasePending := false, trip := false, lastTrip := false
        tap := .bypass }
      fuses := s.fuses, out := s.out, freeIx := s.freeIx, pending := s.pending }

/-- SMBus answers whenever VIO is up, by the table of R487; a byte read gives the low byte of a word, and the hottest
junction reads 0xFF until one has been measured (both the model's reading, log entry 80). -/
def Obligations.SmbusAnswersByTable : Prop :=
  ∀ (s : State) (cmd : BitVec 8) (word : Bool), s.pins.vio = true →
    ∃ v, exec (.smbusRead cmd word) s = .next (s.emit (.smbus (v % if word then 65536 else 256))) ∧
      (cmd = 0x00#8 → v = if s.pins.pwrGood && s.pins.resetN then s.boot.dev else 0xFF) ∧
      (cmd = 0x01#8 → (∀ x, s.pins.pwrGood = true → s.pins.resetN = true → s.power.tmax = some x → v = min x 255) ∧
        (s.pins.pwrGood = false ∨ s.pins.resetN = false ∨ s.power.tmax = none → v = 0xFF)) ∧
      (cmd = 0x02#8 → s.pins.pwrGood = true → s.pins.resetN = true → v = s.power.watts % 65536) ∧
      (cmd = 0x04#8 → v = b2n s.pins.lastTrip + 2 * b2n (s.boot.dev = 3 || s.pins.trip) + 4 * b2n s.alertN
        + 8 * b2n (s.bell.kLocal != 0)) ∧
      (cmd = 0x05#8 → v = s.fuses.grade + 4 * s.pins.pos.toNat) ∧
      (cmd ∉ [0x00#8, 0x01#8, 0x02#8, 0x04#8, 0x05#8] → v = 0)

/-- The test access port answers only while PWR_GOOD is high and RESET_N low; an opcode it does not implement selects the
bypass register; no instruction reaches anything else (R486). What its registers capture, shift and drive is IEEE 1149.1
(presumed, log entry 75): bypass captures 0 and shifts one bit late; the boundary register captures the levels of the lands, which
are free, and an EXTEST instruction drives the lands with what has been shifted in. -/
def Obligations.TestPortReachesNothingElse : Prop :=
  ∀ (s : State) (i : TapInstr) (din : List Bool),
    (s.pins.vio = true → s.pins.pwrGood = true → s.pins.resetN = false →
      ∃ j, (∀ n, i = .other n → j = .bypass) ∧ ((∀ n, i ≠ .other n) → j = i) ∧
        (j = .bypass → exec (.tapInstruction ⟨i, din⟩) s = .next { s with
          pins := { s.pins with tap := j, bypass := ((false :: din).drop din.length).headD false }
          out := s.out ++ [.tap false ((false :: din).take din.length) none] }) ∧
        (j ≠ .bypass →
          let all := Config.freeLands s.freeIx ++ din
          let held := all.drop din.length
          exec (.tapInstruction ⟨i, din⟩) s = .next { s with
            pins := { s.pins with tap := j, boundary := held }, freeIx := s.freeIx + 1
            out := s.out ++ [.tap true (all.take din.length)
              (if j ∈ [.extest, .extestPulse, .extestTrain] then some held else none)] })) ∧
    ((s.pins.vio && s.pins.pwrGood && !s.pins.resetN) = false → exec (.tapInstruction ⟨i, din⟩) s = .next s)

/-- PLL lock takes a bell in state COLD to LOCAL at tick 0 (R26, R43), with power and RESET_N high and no trip, and the half-ports
train from then on (log entry 74); at the end of training all four half-ports are UP and the boot ROM waits for an image (R448);
a takeover by H1 leaves half-port 0 out (R434; log entry 3). -/
def Obligations.ClocksAndLinksStart : Prop :=
  (∀ s : State, s.bell.state = 0 → s.pins.vio = true → s.pins.pwrGood = true → s.pins.resetN = true → s.pins.trip = false →
    ∃ t, exec .pllLock s = .next t ∧ Only [.time, .bell, .halves] s t ∧ t.bell.now = 0 ∧ t.bell.state = 1 ∧ t.clocked = true ∧
      ∀ h, h < 4 → (t.half h).state = 1) ∧
  (∀ s : State, s.clocked = true → s.boot.dev = 0 → s.boot.phase = 0 →
    ∃ t, exec .lemefTrained s = .next t ∧ t.boot = { s.boot with phase := 1, trained := true } ∧
      ∀ h, h < 4 → (t.half h).state = 2) ∧
  (∀ s : State, s.clocked = true → s.boot.dev = 0 → s.boot.phase = 0 → s.boot.hub = 0 →
    ∃ t, exec .bootTakeover s = .next t ∧ t.boot = { s.boot with hub := 1, phase := 1, trained := true } ∧
      t.clerk = { s.clerk with primary := 1 } ∧ (t.half 0).state = (s.half 0).state ∧
      ∀ h, 1 ≤ h → h < 4 → (t.half h).state = 2)

/-- BOOT_GO, written by the companion in WAIT_IMAGE, starts the fetch, and the lines of the image are asked for, through LEMEF0's
half-port of the hub that boots (R434, R448); outside WAIT_IMAGE it is ignored (R448), and in state CLOSED a Clerk writes nothing
(R447, R465). -/
def Obligations.BootGoStartsTheFetch : Prop :=
  ∀ (s : State) (t agent : Nat) (v : W32), s.clocked = true → s.boot.dev = 0 →
    (4 ≤ agent → v.getLsbD 0 = true → s.boot.phase = 1 →
      exec (.bootGo t agent v) s = .next ({ s.advance t with boot := { s.boot with phase := 2 } }.readImage)) ∧
    (4 ≤ agent → s.boot.phase ≠ 1 → exec (.bootGo t agent v) s = .next (s.advance t)) ∧
    (agent < 4 → exec (.bootGo t agent v) s = .next (s.advance t)) ∧
    ∀ u : State, u.readImage = (List.range (cdiv (u.live .lemef 0 0x148) 64)).foldl (fun z i =>
      z.request u.boot.hub 1 (u.lemefReg 0x140 + 64 * i) []) u

/-- An image that has been read is in phase VERIFY until its checks end (R448), which they do in the next tick without a command (the
model's choice, log entry 77). The first check of R450 that fails gives the cause; none failing, the firmware starts in OPENING
with the image's version, svn and request to advance the fuses. -/
def Obligations.ImageIsVerifiedOrRejected : Prop :=
  (∀ (s : State) (b : List Byte) (whole : Bool), s.clocked = true → s.boot.dev = 0 → s.boot.phase = 2 →
    exec (.imageFetchComplete b whole) s = .next { s with boot := { s.boot with phase := 3, buffer := some (b, whole) } }) ∧
  (∀ s : State, s.pending = [] → s.clocked = true → s.stalls = [] → s.aisles = [] →
    step s = .next (s.advance (s.bell.now + 1)).verifyImage) ∧
  ∀ (s : State) (b : List Byte) (whole : Bool), s.boot.dev = 0 → s.boot.buffer = some (b, whole) →
    let t := s.verifyImage
    let len := s.live .lemef 0 0x148
    let svn := leAt b 16 8
    let checks : List Bool :=
      [whole && decide (len ≤ 2 ^ 24) && b.length = len && len = 1792 + leAt b 12 4 && leAt b 12 4 % 64 = 0, imageHeaderOk b,
        sha512 ((b.drop 256).take 1024) = s.fuses.keyHash, imageSignatureOk b, decide (s.fuses.rollback ≤ svn),
        bit (leAt b 25 1) s.fuses.grade]
    t.boot.buffer = none ∧
    (checks.all id = true → t.boot.dev = 1 ∧ t.boot.phase = 4 ∧
      t.boot.image = some ⟨BitVec.ofNat 32 (leAt b 8 4), svn, bit (leAt b 24 1) 0, sha512 b⟩) ∧
    (∀ n, n < 6 → (checks.take n).all id = true → checks[n]? = some false →
      t.boot = { s.boot with phase := 1, reject := n + 1, buffer := none } ∧
        ∃ r, t.events.last = some r ∧ r.ev.code = 0x8101 ∧ r.ev.aux = BitVec.ofNat 64 (n + 1))

/-- The opening inspection ends in RUNNING with the lowest Clerk that passed as primary (R20, R417, R448), or in STOPPED where
none passed; an image that asks raises the rollback counter to its svn (R451); memory is left zero-filled. -/
def Obligations.OpeningInspectionEnds : Prop :=
  ∀ (s : State) (f : Inspection), s.clocked = true → s.boot.dev = 1 →
    (∀ h, h < 4 → f.clerks.contains h = true → (∀ g, g < h → f.clerks.contains g = false) →
      ∃ t, exec (.openingInspectionDone f) s = .next t ∧ t.boot.dev = 2 ∧ t.boot.inspected = true ∧ t.clerk.primary = h ∧
        t.mem = [] ∧ t.fuses.rollback = (match s.boot.image with
          | some m => if m.commitSvn then max s.fuses.rollback m.svn else s.fuses.rollback
          | none => s.fuses.rollback)) ∧
    ((∀ h, h < 4 → f.clerks.contains h = false) →
      ∃ t, exec (.openingInspectionDone f) s = .next t ∧ t.boot.dev = 3 ∧ t.boot.inspected = true)

/-! ### The bell -/

/-- At a round boundary the next round starts 4,096 ticks later (R28); its mask compares the round's index in the frame,
bits reversed (R45), with k_applied (R44); k_applied takes k_local at a frame boundary in LOCAL scope, and in SQUARE scope the
value of a KDOWN at the sync boundary it names (R46), by the scope in force before the boundary's commits (the model's
choice, log entry 58). The bell's state changes only with a commit of the BELL page: that a locked device put in a square is
UNSYNCED and one taken out of it LOCAL is read from R43 (log entry 11). -/
def Obligations.RoundBoundaryMasksByK : Prop :=
  ∀ s : State, s.clocked = true →
    let B := s.bell.nextRound
    let commits := ∃ q ∈ s.pages, q.1 = pageNo .bell 0 ∧ q.2.commit = true
    ∃ t, exec .roundBoundary s = .next t ∧
      t.bell.now = (if B ≤ s.bell.now then s.bell.now else B % 2 ^ 64) ∧ t.bell.nextRound = B + 4096 ∧
      t.bell.masked = decide (bitrev6 (B / 4096 % 64) < t.bell.kApplied) ∧
      (s.squareScope = false → t.bell.kApplied = if s.bell.nextFrame = B then s.bell.kLocal else s.bell.kApplied) ∧
      (s.squareScope = true → B % 2 ^ 20 ≠ 0 → t.bell.kApplied = s.bell.kApplied) ∧
      (s.squareScope = true → B % 2 ^ 20 = 0 → t.bell.kApplied = match s.bell.kDown with
        | some (e, k) => if e * 2 ^ 20 ≤ B then k else s.bell.kSquare
        | none => s.bell.kSquare) ∧
      (¬ commits → t.bell.state = s.bell.state) ∧
      (commits → t.bell.state = if t.inSquare then (if s.bell.state = 1 then 3 else s.bell.state)
        else if s.bell.state = 2 ∨ s.bell.state = 3 then 1 else s.bell.state) ∧
      t.bell.kLocal = s.bell.kLocal ∧ t.bell.nextFrame = s.bell.nextFrame ∧
      t.bell.nextSync = s.bell.nextSync ∧ t.bell.nextMid = s.bell.nextMid ∧ t.bell.expected = s.bell.expected

/-- The frame's measurement steps k_local (R479): up by 4 to the bound where a limit is passed, down by 1 where power and
temperature are both below their lower marks, else held; never above the bound. P is the mean over 2^window_log2 ms, formed of the
whole frames that lie in it (the model's choice, log entry 78); a watt is 10,000 / 33 pJ a tick. The next update is a frame
later (R46), and the controller keeps the last millisecond's power and the hottest junction (R489). -/
def Obligations.PowerFrameStepsK : Prop :=
  ∀ (s : State) (m : PowerMeas), s.clocked = true →
    let x := (s.advance s.bell.nextFrame).applyK s.bell.nextFrame
    let limit := x.powerLimits.1
    let thr := x.powerLimits.2
    let bound := x.kBound m.junction
    let k := x.bell.kLocal
    let frames := (m.rails.sum :: x.power.frames).take (2 ^ 7 * 3300000 / 262144)
    let last := fun n => frames.take (2 ^ n * 3300000 / 262144)
    let w := last (bits (x.live .power 0 0x104) 2 0)
    let P := 33 * w.sum
    let L := limit * 10000 * 262144 * w.length
    let above := L < P ∨ thr < m.junction ∨ 90 < m.stack
    ∃ t, exec (.powerFrameUpdate m) s = .next t ∧ t.bell.nextFrame = s.bell.nextFrame + 262144 ∧
      (above → t.bell.kLocal = min (k + 4) bound) ∧
      (¬ above → P * 100 < 95 * L → m.junction + 3 < thr → t.bell.kLocal = min (k - 1) bound) ∧
      (¬ above → ¬ (P * 100 < 95 * L ∧ m.junction + 3 < thr) → t.bell.kLocal = min k bound) ∧
      t.bell.kApplied = x.bell.kApplied ∧ t.power.frames = frames ∧ t.power.tmax = some m.junction ∧
      t.power.watts = 33 * (last 0).sum / (10000 * 262144 * max 1 (last 0).length)

/-- At a sync boundary the next one is 2^20 ticks later (R28); the bell master, and a device in SQUARE with `out_enable`, emits
the pulse of R38, and no other device does; the master and every device in SQUARE send TIME marks on their mark ports
(R345); the bell's trace record follows where its filter asks for it (R484). -/
def Obligations.SyncBoundaryEmitsThePulse : Prop :=
  ∀ s : State, s.clocked = true →
    let b := s.bell.nextSync
    let x := (s.advance b).applyK b
    let y := { x with bell := { x.bell with nextSync := b + 2 ^ 20 } }
    let emits := x.isMaster || (decide (x.bell.state = 2) && bit (x.live .bell 0 0x110) 10)
    let z := if emits then y.emit (.pulse b) else y
    let k := match x.bell.kDown with | some (_, k) => k | none => x.bell.kSquare
    let m := if x.isMaster || decide (x.bell.state = 2) then
      x.markPorts.foldl (fun v p => v.sendMark b p 0 (b / 2 ^ 20) 0 k 0) z else z
    ∃ t, exec .syncPeriodBoundary s = .next t ∧ t.bell = y.bell ∧
      (bit (x.live .trace 0 0x104) 17 = false → t = m) ∧
      (bit (x.live .trace 0 0x104) 17 = true → t = m.traceRec 2
        (leBytes 8 b ++ leBytes 1 x.bell.state ++ leBytes 1 (errByte x.bell.lastErr) ++ leBytes 1 x.bell.kApplied)) ∧
      (emits = true → ∃ l, t.out = x.out ++ .pulse b :: l) ∧
      (emits = false → ∃ l, t.out = x.out ++ l ∧ ∀ e, .pulse e ∉ l)

/-- Mask reports under SQUARE scope (R347). A device that is no bell master sends its k_local on its primary source port
when it changed, or at 0x4_0000 of the period; a relay passes a KUP on there; the master keeps the latest value of each
position, takes the largest in at the midpoint and, where it differs from k_square in force, announces it for the next
sync boundary; a KDOWN is kept for the boundary it names and passed on over every mark port. A port that is not UP, or is a twin
port, brings no report (R345, R356). -/
def Obligations.MaskReportsTravel : Prop :=
  (∀ (s : State) (t : Nat), s.clocked = true →
    let a := s.advance t
    let report := a.squareScope = true ∧ a.isMaster = false ∧ (a.bell.kLocal ≠ a.bell.kSent ∨ t % 2 ^ 20 = 0x40000)
    (report → ∀ p, a.primaryPort = some p → exec (.kupReport t) s = .next
        ({ a with bell := { a.bell with kSent := a.bell.kLocal } }.sendMark t p 1 0 a.bell.kLocal 0 a.pins.pos.toNat)) ∧
    (report → a.primaryPort = none → exec (.kupReport t) s = .next a) ∧
    (¬ report → exec (.kupReport t) s = .next a)) ∧
  (∀ (s : State) (t p : Nat) (w0 : W64) (w1 : W32), s.clocked = true → (s.advance t).carriesMarks p = true →
    let k := bits w1.toNat 5 0
    let rep := bits w1.toNat 21 16
    let a := (s.advance t).count (pageNo .aisle p) 0x80 1
    (a.isMaster = true → exec (.kupReceive t p w0 w1) s
      = .next { a with bell := { a.bell with kTable := sset a.bell.kTable rep k } }) ∧
    (a.isMaster = false → ∀ q, a.primaryPort = some q → exec (.kupReceive t p w0 w1) s
      = .next (a.sendMark t q 1 0 k 0 rep)) ∧
    (a.isMaster = false → a.primaryPort = none → exec (.kupReceive t p w0 w1) s = .next a)) ∧
  (∀ s : State, s.clocked = true →
    let m := s.bell.nextMid
    let a := s.advance m
    let b := { a with bell := { a.bell with nextMid := m + 2 ^ 20 } }
    let k := a.bell.kTable.foldl (fun x (q : Nat × Nat) => max x q.2) a.bell.kLocal
    let announces := a.isMaster = true ∧ a.squareScope = true ∧ k ≠ a.bell.kSquare
    (announces → exec .kmasterIntake s = .next (a.markPorts.foldl (fun v p => v.sendMark m p 2 (m / 2 ^ 20 + 1) 0 k 0)
      { b with bell := { b.bell with kDown := some (m / 2 ^ 20 + 1, k) } })) ∧
    (¬ announces → exec .kmasterIntake s = .next b)) ∧
  (∀ (s : State) (t p : Nat) (w0 : W64) (w1 : W32), s.clocked = true → (s.advance t).carriesMarks p = true →
    let a := (s.advance t).count (pageNo .aisle p) 0x80 1
    let e := bits w0.toNat 43 0
    let k := bits w1.toNat 13 8
    (a.isMaster = false → exec (.kdownReceive t p w0 w1) s = .next (a.markPorts.foldl (fun v q => v.sendMark t q 2 e 0 k 0)
      { a with bell := { a.bell with kDown := some (e, k) } })) ∧
    (a.isMaster = true → exec (.kdownReceive t p w0 w1) s = .next a)) ∧
  (∀ (s : State) (t p : Nat) (w0 : W64) (w1 : W32), s.clocked = true → (s.advance t).carriesMarks p = false →
    exec (.kupReceive t p w0 w1) s = .next (s.advance t) ∧ exec (.kdownReceive t p w0 w1) s = .next (s.advance t))

/-- Pulses and marks (R39, R40, R345). The error is the distance of the compensated tick from the nearest multiple of 2^20; in
SQUARE 0 or 1 changes no state, 2 to 8 counts as drift, above 8 (or a mark of another epoch) leaves the device UNSYNCED,
raises SKEW_EXCEEDED and fails the spanning jobs. A pulse on the pin is compensated by SYNC_DELAY, a TIME mark by its port's
latency; a mark of depth 7 is not used. A window without a pulse counts as missed; the third in a row raises SYNC_LOST and
switches to the backup. SYNC_ERROR takes the error of every checked pulse, a window is counted on the compensated pulse, a
source of None misses none, and the backup stays in use until an acquisition: the model's choices (log entries 57, 58). In SQUARE an
edge on the pin outside the window of 64 ticks about its expected tick is ignored (R483), the nearest multiple of 2^20 being
that tick (log entry 58). -/
def Obligations.PulsesAreChecked : Prop :=
  (∀ tp : Int, -2 ^ 19 ≤ pulseErr tp ∧ pulseErr tp < 2 ^ 19 ∧ (tp - pulseErr tp) % 2 ^ 20 = 0) ∧
  (∀ (s : State) (tp : Int) (wrong : Bool),
    let e := pulseErr tp
    let y := s.count (pageNo .bell 0) 0x40 1
    let c := { y with bell := { y.bell with
      lastErr := e, maxAbs := max y.bell.maxAbs e.natAbs, missed := 0
      expected := ((tp + 2 ^ 19) / 2 ^ 20 * 2 ^ 20 + 2 ^ 20).toNat } }
    (e.natAbs ≤ 1 → wrong = false → s.checkPulse tp wrong = c) ∧
    (2 ≤ e.natAbs → e.natAbs ≤ 8 → wrong = false → s.checkPulse tp wrong = c.count (pageNo .bell 0) 0x50 1) ∧
    (8 < e.natAbs ∨ wrong = true → s.checkPulse tp wrong
      = ({ c with bell := { c.bell with state := 3 } }.raise (c.mkEv 0xA202 1 none .bell 0 0 (errByte e))).failSpanning 0xA202)) ∧
  (∀ (s : State) (t : Nat), s.clocked = true →
    let a := s.advance t
    (a.source ≠ some 0 → exec (.bellsyncPulseCheck t) s = .next a) ∧
    (a.source = some 0 → a.bell.acqPending = false →
      let tp : Int := (t : Int) - bits (a.live .bell 0 0x114) 11 0
      (a.bell.state = 2 → (pulseErr tp).natAbs ≤ 64 → exec (.bellsyncPulseCheck t) s = .next (a.checkPulse tp false)) ∧
      (a.bell.state = 2 → 64 < (pulseErr tp).natAbs → exec (.bellsyncPulseCheck t) s = .next a) ∧
      (a.bell.state ≠ 2 → exec (.bellsyncPulseCheck t) s = .next a))) ∧
  (∀ (s : State) (t p : Nat) (w0 : W64) (w1 : W32), s.clocked = true →
    let a := (s.advance t).count (pageNo .aisle p) 0x80 1
    let primary := a.sourceOf (bits (a.live .bell 0 0x110) 3 0) = some (p + 1)
    let x := if primary then
      { a with bell := { a.bell with depth := bits w0.toNat 50 48 + 1, masterPos := bits w0.toNat 63 58 } } else a
    let tp : Int := (t : Int) - (a.aisle p).latency
    ((s.advance t).carriesMarks p = false → exec (.timeMarkReceive t p w0 w1) s = .next (s.advance t)) ∧
    ((s.advance t).carriesMarks p = true →
      (bits w0.toNat 50 48 = 7 → exec (.timeMarkReceive t p w0 w1) s = .next a) ∧
      (bits w0.toNat 50 48 ≠ 7 → a.source ≠ some (p + 1) → exec (.timeMarkReceive t p w0 w1) s = .next x) ∧
      (bits w0.toNat 50 48 ≠ 7 → a.source = some (p + 1) → a.bell.acqPending = false →
        (a.bell.state = 2 → exec (.timeMarkReceive t p w0 w1) s
          = .next (x.checkPulse tp (decide (((tp + 2 ^ 19) / 2 ^ 20) % 2 ^ 44 ≠ (bits w0.toNat 43 0 : Int))))) ∧
        (a.bell.state ≠ 2 → exec (.timeMarkReceive t p w0 w1) s = .next x)))) ∧
  (∀ s : State, s.clocked = true →
    let a := s.advance (s.bell.expected + 65)
    let n := s.bell.missed + 1
    let x := { a with bell := { a.bell with expected := s.bell.expected + 2 ^ 20, missed := if n = 3 then 0 else n } }.count
      (pageNo .bell 0) 0x48 1
    let y := x.raise (x.mkEv 0xA201 1 none .bell 0 0 0)
    let z := { y with bell := { y.bell with onBackup := true } }
    (s.bell.state ≠ 2 ∨ s.source = none → exec .syncWindowExpiry s = .next s) ∧
    (s.bell.state = 2 → s.source ≠ none →
      (n ≠ 3 → exec .syncWindowExpiry s = .next x) ∧
      (n = 3 → s.bell.onBackup = true → exec .syncWindowExpiry s = .next y) ∧
      (n = 3 → s.bell.onBackup = false → exec .syncWindowExpiry s = .next (z.raise (z.mkEv 0xA203 0 none .bell 0 0 0)))))

/-- Losing and regaining the bell (R41, R42). Loss of BELLREF leads to HOLDOVER and raises BELL_UNLOCK; relock leads to
UNSYNCED in a square, else LOCAL. A write of ACQUIRE, which state CLOSED does not take (R447), waits for the next pulse while
no job is open, else is refused; at the pulse, on the pin or as a TIME mark, the bell takes the loaded value and enters SQUARE, unless
a job has been opened since, which refuses it. That the ticks since the edge are added to the value is read from R42 (log
entry 11); that an acquisition ends the use of the backup source, and acts in HOLDOVER as in any state, is the model's choice (log
entry 58). -/
def Obligations.ReferenceLossAndAcquisition : Prop :=
  (∀ (s : State) (t : Nat), s.clocked = true →
    let a := s.advance t
    let x := { a with bell := { a.bell with state := 4 } }
    (s.bell.state ≠ 4 → exec (.bellrefLoss t) s
      = .next ((x.raise (x.mkEv 0xA101 1 none .bell 0 0 0)).failSpanning 0xA101)) ∧
    (s.bell.state = 4 → exec (.bellrefLoss t) s = .next a ∧
      exec (.pllRelock t) s = .next { a with bell := { a.bell with state := if a.inSquare then 3 else 1 } }) ∧
    (s.bell.state ≠ 4 → exec (.pllRelock t) s = .next a)) ∧
  (∀ (s : State) (t : Nat) (v : W32), s.clocked = true →
    let a := s.advance t
    (s.boot.dev = 0 ∨ v.getLsbD 0 = false → exec (.acquire t v) s = .next a) ∧
    (s.boot.dev ≠ 0 → v.getLsbD 0 = true →
      (a.openJobs = [] → exec (.acquire t v) s
        = .next { a with bell := { a.bell with acqPending := true, acqRefused := false } }) ∧
      (a.openJobs ≠ [] → exec (.acquire t v) s = .next ({ a with bell := { a.bell with acqRefused := true } }.raise
        (a.mkEv 0xA205 0 none .bell 0 0 0))))) ∧
  (∀ (s : State) (t : Nat), s.clocked = true →
    let a := s.advance t
    let d := bits (a.live .bell 0 0x114) 11 0
    a.source = some 0 → a.bell.acqPending = true → (a.bell.state = 2 → (pulseErr ((t : Int) - d)).natAbs ≤ 64) →
    (a.openJobs = [] → a.bell.now = t →
      ∃ u, exec (.bellsyncPulseCheck t) s = .next u ∧ u.bell.state = 2 ∧ u.bell.acqPending = false ∧ u.bell.onBackup = false ∧
        u.bell.now = (a.live .bell 0 0x120 / 2 ^ 20 * 2 ^ 20 + 2 ^ 32 * a.live .bell 0 0x124 + d) % 2 ^ 64) ∧
    (a.openJobs ≠ [] →
      let x := { a with bell := { a.bell with acqPending := false, acqRefused := true } }
      let y := x.raise (x.mkEv 0xA205 0 none .bell 0 0 0)
      exec (.bellsyncPulseCheck t) s = .next (if a.bell.state = 2 then y.checkPulse ((t : Int) - d) false else y))) ∧
  ∀ (s : State) (t p : Nat) (w0 : W64) (w1 : W32), s.clocked = true → (s.advance t).carriesMarks p = true →
    let a := (s.advance t).count (pageNo .aisle p) 0x80 1
    bits w0.toNat 50 48 ≠ 7 → a.source = some (p + 1) → a.bell.acqPending = true → a.openJobs = [] → a.bell.now = t →
    ∃ u, exec (.timeMarkReceive t p w0 w1) s = .next u ∧ u.bell.state = 2 ∧ u.bell.acqPending = false ∧ u.bell.onBackup = false ∧
      u.bell.now = (bits w0.toNat 43 0 * 2 ^ 20 + (a.aisle p).latency) % 2 ^ 64

/-! ### Control words -/

/-- Stall, slot and engine that a word command names. -/
def wordAt : Instr → Option (Nat × Nat × Eng)
  | .ldw n k | .mma n k => some (n, k, .mx)
  | .vop n k | .vred n k | .vnormStat n k | .vnormApply n k | .vsmaxStat n k | .vsmaxApply n k | .vsfn n k | .pack n k
  | .unpack n k | .groupidx n k => some (n, k, .vx)
  | .get n k | .put n k | .gather n k | .ahead n k => some (n, k, .pt)
  | .send n k | .bulk n k | .grant n k | .checkcmp n k => some (n, k, .ex)
  | .waitw n k e | .stepEnd n k e => some (n, k, e)
  | _ => none

/-- The checks and effect that a word's class brings, where the command names the class of the word `w`. -/
def wordSpec (s : State) (st : Stall) (w : CWord) (t : Nat) : Instr → Option Spec
  | .ldw n k => match w.op with | .ldw l => some (ldwSpec st n k t w l) | _ => none
  | .mma n k => match w.op with | .mma m => some (mmaSpec st n k t w m) | _ => none
  | .vop n k => match w.op with | .vop v => some (vxSpec n k t w (vopWord v)) | _ => none
  | .vred n k => match w.op with | .vred r a b d => some (vxSpec n k t w (vredWord r a b d)) | _ => none
  | .vnormStat n k => match w.op with
    | .vnormStat r e a b d => some (vxSpec n k t w (vnormStatWord r e a b d)) | _ => none
  | .vnormApply n k => match w.op with
    | .vnormApply a b d g h x => some (vxSpec n k t w (vnormApplyWord a b d g h x)) | _ => none
  | .vsmaxStat n k => match w.op with
    | .vsmaxStat a c p b d => some (sfnSpec n k t w (vsmaxStatWord a c p b d)) | _ => none
  | .vsmaxApply n k => match w.op with
    | .vsmaxApply a c b d x => some (sfnSpec n k t w (vsmaxApplyWord a c b d x)) | _ => none
  | .vsfn n k => match w.op with | .vsfn f a b => some (sfnSpec n k t w (vsfnWord f a b)) | _ => none
  | .pack n k => match w.op with | .pack p => some (packSpec st n k t (s.ctx n k) w p) | _ => none
  | .unpack _ k => match w.op with | .unpack u => some (unpackSpec st k t w u) | _ => none
  | .groupidx n k => match w.op with | .groupidx r c d => some (groupidxSpec st n k t w r c d) | _ => none
  | .get n k => match w.op with | .get p => some (portWord n k .get p s st w t) | _ => none
  | .put n k => match w.op with | .put p => some (portWord n k .put p s st w t) | _ => none
  | .gather n k => match w.op with | .gather p => some (portWord n k .gather p s st w t) | _ => none
  | .ahead n k => match w.op with | .ahead a => some (aheadSpec st n k t w a) | _ => none
  | .send n k => match w.op with | .send x => some (sendSpec st n k t (s.ctx n k) w x false) | _ => none
  | .bulk n k => match w.op with | .bulk x => some (sendSpec st n k t (s.ctx n k) w x true) | _ => none
  | .grant n k => match w.op with | .grant g => some (grantSpec st n k t (s.ctx n k) w g) | _ => none
  | .checkcmp n k => match w.op with | .checkcmp a r b => some (checkcmpSpec st n k t w a r b) | _ => none
  | .waitw _ k e => if w.op = .waitw then some (plainSpec st k e t w) else none
  | .stepEnd _ k e => if w.op = .stepEnd then some (plainSpec st k e t w) else none
  | _ => none

/-- The job of slot `k` holds the rota slot of tick `t`, or has won it where it is FREE (R33, R34); `st'` remembers the
winner. -/
def holdsSlot (st st' : Stall) (k : Nat) (e : Eng) (t : Nat) : Prop :=
  (st.rota e (t % 4096 / 64) = some (st.jobSlot k).job ∧ st' = st) ∨
    (st.rota e (t % 4096 / 64) = none ∧ st.freeWinner e k t = (st', k))

/-- The slot has poison to report, and the word waits or ends its step (R399). -/
def poisonStops (st : Stall) (k : Nat) (w : CWord) : Prop :=
  (st.slotSt k).poisonDue = true ∧ (w.common.wait.kind ≠ 0#3 ∨ w.op = .stepEnd)

/-- The wait names more slots of a ring than it has (R115). -/
def waitTooLong (st : Stall) (w : Wait) : Prop :=
  (w.kind = 4#3 ∨ w.kind = 5#3) ∧ (st.ringCfg (w.index.toNat % 16)).size < w.value.toNat

/-- The checks of R124 after the wait. -/
def classChecks (st : Stall) (k : Nat) (e : Eng) (t : Nat) (sp : Spec) : Option Verdict :=
  firstOf [sp.pre, st.busyCheck k e t, st.tagCheck e, st.stampCheck t sp.stampOf sp.regs, sp.late]

/-- Every check of R124 passes. -/
def passes (st : Stall) (k : Nat) (e : Eng) (ctx : JobCtx) (t : Nat) (w : CWord) (sp : Spec) : Prop :=
  ¬ poisonStops st k w ∧ st.foreign k ctx w.common = false ∧ sp.ownerBad = false ∧
    st.bankCheck (st.jobSlot k).job sp.regs = none ∧ ¬ waitTooLong st w.common.wait ∧
    st.waitTrue (st.jobRes k) w.common.wait = true ∧ classChecks st k e t sp = none

/-- At its due tick a word of any class whose checks all pass in a slot its job holds is issued (R34, R124), after the words
of the same tick on the engines before its own (R120): the stall, with the acts of earlier ticks in effect, becomes what the issue
leaves, the effects follow, and the sub-queue is filled again (R446). A word that falls due in a masked round waits for the same
tick of the next round (R36, R44; log entry 62). -/
def Obligations.WordsIssueWhenEveryCheckPasses : Prop :=
  ∀ (c : Instr) (s : State) (sn k : Nat) (e : Eng) (w : CWord) (t : Nat) (sp : Spec),
    s.clocked = true → wordAt c = some (sn, k, e) → k < 8 → (s.stall sn).head k e = some (w, t) →
    let a := ((s.advance t).touch t sn).earlier sn e t
    let x := (a.stall sn).settle sn t
    (a.stall sn).head k e ≠ none → wordSpec a (a.stall sn) w t c = some sp →
    (a.bell.masked = true → exec c s = .next ((a.onStall t sn fun st => (st.holdOver k e, [])).refill t sn k e)) ∧
    (a.bell.masked = false → ∀ st', holdsSlot x.1 st' k e t → passes st' k e (a.ctx sn k) t w sp →
      let r := st'.issueWord sn k e t w sp
      exec c s = .next (((a.setStall sn r.1).effects (x.2 ++ r.2)).refill t sn k e))

/-- What the first check of R124 that fails does to a word at its due tick: another job's slot faults, a lost FREE slot slips,
poison to report (R395) and a foreign object fault, the banks decide (R187), an over-long wait faults, a false wait slips or
times out, the class decides. Where poison and the banks stand among the checks is the model's choice (log entry 13). A chit that is
wanting fails the wait as a false condition does (R216). -/
def Obligations.TheFirstFailedCheckDecides : Prop :=
  ∀ (st st' : Stall) (sn k : Nat) (e : Eng) (ctx : JobCtx) (t : Nat) (w : CWord) (ch : Option Nat) (sp : Spec),
    let r := st.due sn k e ctx t w ch sp
    let wt := w.common.wait
    (∀ j, st.rota e (t % 4096 / 64) = some j → j ≠ (st.jobSlot k).job → r = st.faultWord sn k e t ⟨0x1302, 0, 0, 0, j⟩) ∧
    (∀ v, st.rota e (t % 4096 / 64) = none → st.freeWinner e k t = (st', v) → v ≠ k → r = (st'.slip k e [0xD8], [])) ∧
    (holdsSlot st st' k e t →
      (poisonStops st' k w →
        r = (st'.setSlot k { st'.slotSt k with poisonDue := false }).faultWord sn k e t (flt 0x7103 0)) ∧
      (¬ poisonStops st' k w →
        (st'.foreign k ctx w.common = true ∨ sp.ownerBad = true → r = st'.faultWord sn k e t (flt 0x1304 0)) ∧
        (st'.foreign k ctx w.common = false → sp.ownerBad = false →
          (∀ v, st'.bankCheck (st.jobSlot k).job sp.regs = some v → r = st'.judge sn k e t wt v) ∧
          (st'.bankCheck (st.jobSlot k).job sp.regs = none →
            (waitTooLong st' wt → r = st'.faultWord sn k e t (flt 0x1305 0)) ∧
            (¬ waitTooLong st' wt →
              (st'.waitTrue (st'.jobRes k) wt = false →
                r = st'.waitFail sn k e t wt (feedCtr wt.feed :: ch.toList)) ∧
              (st'.waitTrue (st'.jobRes k) wt = true →
                (∀ v, classChecks st' k e t sp = some v → (∀ cs, v ≠ .waitFail cs) → r = st'.judge sn k e t wt v) ∧
                (∀ cs, classChecks st' k e t sp = some (.waitFail cs) → r = st'.waitFail sn k e t wt (cs ++ ch.toList)) ∧
                (classChecks st' k e t sp = none → r = st'.issueWord sn k e t w sp)))))))

/-- A slip moves the sub-queue's base by one round and nothing else of it (R35); a false wait slips until the budget of its
class is used and then stops the sub-queue with WAIT_TIMEOUT (R115); a fault is recorded and stops it (R132). The widths in a
fault event's aux are read from R392 (log entry 19). -/
def Obligations.SlipsWaitsAndFaults : Prop :=
  ∀ (st : Stall) (sn k : Nat) (e : Eng) (t : Nat) (w : Wait) (cs : List Nat) (f : Flt),
    let q := st.subq k e
    (st.slip k e cs).subq k e = { q with base := q.base + 4096 } ∧
    (slipBudget w.tclass.toNat = some q.fails →
      ((st.waitFail sn k e t w cs).1.subq k e).stopped = true ∧
      (st.fault.valid = false → (st.waitFail sn k e t w cs).1.fault = wordFault e (st.jobSlot k).job t q.pc (flt 0x3202 (waitAux w))) ∧
      (st.waitFail sn k e t w cs).2 = [.ev (st.ev sn t 0x3202 0 (st.jobSlot k).job (waitAux w + 2 ^ 32 * q.fails))]) ∧
    (slipBudget w.tclass.toNat ≠ some q.fails →
      (st.waitFail sn k e t w cs).1.subq k e = { q with base := q.base + 4096, fails := q.fails + 1 } ∧
      (st.waitFail sn k e t w cs).2 = []) ∧
    (st.faultWord sn k e t f).1.fault = (if st.fault.valid then st.fault else wordFault e (st.jobSlot k).job t q.pc f) ∧
    (st.faultWord sn k e t f).1.subq k e = { q with stopped := true } ∧
    (st.faultWord sn k e t f).2 =
      [.ev (st.ev sn t f.code 2 (st.jobSlot k).job (f.aux + 2 ^ 32 * (f.store + 8 * f.slot)))]

/-- Entry `c` of row `r` of an FP32 run that starts at a tile register (R137). -/
def entryAt (st : Stall) (tl : Tile) (r c : Nat) : W32 :=
  (lineF32 (st.tword (tileStep tl (c / 32)) (2 * r + c % 32 / 16)).1).getD (c % 16) 0#32

/-- An issued word leaves its sub-queue, its occupancy holds the engine, it counts as issued, and its class acts on a stall
that differs in nothing else but what the wait consumed (R116, R121, R124). -/
def Obligations.IssueTakesTheWord : Prop :=
  ∀ (st : Stall) (sn k : Nat) (e : Eng) (t : Nat) (w : CWord) (sp : Spec),
    let q := st.subq k e
    let r := st.issueWord sn k e t w sp
    ∃ st1, r = ((sp.run st1).1, .issued t sn e.num (st.jobSlot k).job q.pc sp.d :: (sp.run st1).2) ∧
      st1.subq k e = q.issued t ∧ (q.issued t).words = q.words.tail ∧ (q.issued t).fails = 0 ∧ (q.issued t).base = q.base ∧
      (q.issued t).pc = q.ords.tail.headD q.next ∧
      st1.busy.get e = ⟨max (st.busy.get e).till (t + sp.d), k⟩ ∧ st1.words = st.words ∧ st1.stamps = st.stamps ∧
      st1.rings = st.rings ∧ st1.array = st.array ∧ st1.flight = st.flight ∧
      (w.common.wait.consume = false → st1.flags = st.flags ∧ st1.tallies = st.tallies) ∧
      (w.common.wait.consume = true → w.common.wait.kind = 1#3 →
        st1.flags = (st.clearFlag ((st.jobRes k).flagBase + w.common.wait.index.toNat)).flags) ∧
      (w.common.wait.consume = true → w.common.wait.kind = 3#3 →
        let i := (st.jobRes k).tallyBase + w.common.wait.index.toNat
        st.wrapped.getLsbD i = false → st1.tally i = st.tally i - w.common.wait.value.toNat)

/-- Results of the vector engine (R137 to R143). An elementwise word (VOP, VNORM.APPLY, VSMAX.APPLY, VSFN) with valid fields
gives every element of its extent the operation's value and leaves every store word outside its destination tiles; a row
word (VRED, VNORM.STAT, VSMAX.STAT) writes its values as rows of a P tile and nothing else. PACK narrows each element of the
valid extent and stores +0 outside it, with the scales chosen per block, counts the non-zero codes of every word in its record,
and writes its tile, or its ring words at completion; UNPACK writes the tile that a plain or an enumerated payload spells
(R145, R147, R148, R151, R155); GROUPIDX writes the stable order of the words by word_nnz and leaves the head (R157). -/
def Obligations.VectorWordsWriteTheirResults : Prop :=
  (∀ (as : List VArg) (xs : List Tile) (bad : Bool) (dst : Tile) (rate ex : Nat) (val : Stall → Nat → Nat → W32)
      (st : Stall) (R C : Nat),
    let v := mapWord as xs bad dst rate ex val
    v.invalid = false → extentOf as = some (R, C) → C ≤ 32 * storeSlots dst.store.num →
    (∀ r c, r < R → c < C → entryAt (v.run st).1 dst r c = val st r c) ∧
    (∀ n, (∀ j w, j < cdiv C 32 → w < 64 → n ≠ dst.store.num * 4096 + tileIx (tileStep dst j) * 64 + w) →
      sgetD (v.run st).1.words n (0#512, false) = sgetD st.words n (0#512, false))) ∧
  (∀ (src : Run) (prev : Option (Tile × Nat)) (bad : Bool) (dst : Tile) (d nrow rate ex : Nat)
      (val : Stall → Nat → List W32 → List W32) (st : Stall),
    let v := rowWord src prev bad dst d nrow rate ex val
    let row := fun r => (List.range src.cols).map fun c => st.argElem (.run src) r c
    v.invalid = false →
    (∀ i r, i < nrow → r < src.rows → entryAt (v.run st).1 dst (d + i) r = (val st r (row r)).getD i 0#32) ∧
    (∀ n, (∀ i w, i < nrow → w < 2 → n ≠ 2 * 4096 + tileIx dst * 64 + 2 * (d + i) + w) →
      sgetD (v.run st).1.words n (0#512, false) = sgetD st.words n (0#512, false))) ∧
  (∀ (sn k t : Nat) (w : CWord) (v : VxWord) (st : Stall) (tl : Tile), tl ∈ v.dsts →
    t + v.d + v.extra ≤ ((vxSpec sn k t w v).run st).1.stamp (tileKey tl)) ∧
  (∀ (st : Stall) (ctx : JobCtx) (u ord : Nat) (p : Pack) (f : Fmt), Fmt.ofCode p.fmtOut = some f → packBad p = false →
    let q := st.packTile ctx u ord p
    let inside := fun (e : Nat) => inExtent f p.stack p.validK p.validMn e
    (¬ (p.packFmt = 2#4 ∧ p.p2Prune = true) → ∀ e, e < tileElems f → q.codes.getD e 0 =
      let m : Rounding := if p.sr then .sr (r16 ctx.seed u ctx.step (ord + e)) else .rne
      if inside e then
        (if f.scaled then f.encodeScaled m (q.scales.getD (scaleIx p.stack e) 0x7F) (st.packSrc f p e)
        else f.encode32 m p.satMode (st.packSrc f p e))
      else 0) ∧
    (f.scaled = true → ∀ b, b < 32 * f.lanes → q.scales.getD b 0
      = f.chooseScale p.safe ((blockElems p.stack b).filterMap fun e => if inside e then some (st.packSrc f p e) else none)) ∧
    (∀ w, w < 32 → (lineBytes q.record).getD w 0#8
      = BitVec.ofNat 8 ((List.range (tileElems f / 32)).countP fun i =>
          nonZeroCode f (q.codes.getD (tileElems f / 32 * w + i) 0))) ∧
    q.bytes.length % 16 = 0 ∧ leAt q.bytes 14 2 = (check16 (q.bytes.take 14)).toNat) ∧
  (∀ (st : Stall) (sn k t : Nat) (ctx : JobCtx) (w : CWord) (p : Pack) (f : Fmt), Fmt.ofCode p.fmtOut = some f →
    packBad p = false →
    let q := st.packTile ctx (ctx.logical sn) (st.slotSt k).srOrd p
    let r := (st.packRun sn k t ctx w p).1
    let c := t + tileElems f / 64 + 8
    let dn := p.dstRing.toNat
    let n := cdiv q.bytes.length (st.ringCfg dn).slotBytes
    (p.ring = true → r.words = st.words) ∧
    (p.ring = false →
      c ≤ r.stamp (tileKey p.dst) ∧
      (∀ i, i < 32 → r.tword p.dst i = (codesLine f ((q.codes.drop (i * f.perWord)).take f.perWord), q.poison)) ∧
      (f.scaled = true → r.sidecar p.dst.store.num (tileIx p.dst) = bytesLine ((q.scales.map (BitVec.ofNat 8 ·)).take 64)) ∧
      ∀ x, (∀ i, i < 32 → x ≠ p.dst.store.num * 4096 + tileIx p.dst * 32 + i) →
        sgetD r.words x (0#512, false) = sgetD st.words x (0#512, false)) ∧
    ∃ y, r.flight = st.flight ++ [y] ∧ y.eng = .vx ∧ y.slot = k ∧ y.tick = c ∧
      (p.statRing = none → y.tails = if p.ring
        then [⟨dn, st.ringEnd dn, n, bytesLines (cdiv q.bytes.length 64) q.bytes, q.poison⟩] else [])) ∧
  (∀ (st : Stall) (k t : Nat) (w : CWord) (u : Unpack) (h : PackHdr) (n1 : Nat), u.dst.store.num < 2 →
    u.struct = false →
    let n := u.ring.toNat
    let b := st.ringBytes n (st.ring n).head (16 + h.plen)
    let x := readPayload h (b.1.drop 16)
    let r := (st.unpackRun k t w u h n1 none).1
    let c := t + tileElems h.fmt / 64 + 8
    c ≤ r.stamp (tileKey u.dst) ∧
    (∀ i, i < 32 → r.tword u.dst i
      = (codesLine h.fmt ((x.codes.drop (i * h.fmt.perWord)).take h.fmt.perWord), h.poison || b.2 || x.bad != 0)) ∧
    (∀ z, (∀ i, i < 32 → z ≠ u.dst.store.num * 4096 + tileIx u.dst * 32 + i) →
      sgetD r.words z (0#512, false) = sgetD st.words z (0#512, false)) ∧
    ∃ y, r.flight = st.flight ++ [y] ∧ y.tick = c ∧ y.heads = if u.consume then [(n, n1)] else []) ∧
  (∀ (h : PackHdr) (b : List Byte) (e : Nat), e < tileElems h.fmt →
    let d := b.drop (scaleBytes h.fmt)
    let set := fun (i : Nat) => decide (fieldAt (d.drop 32) 1 i = 1)
    (h.pf = 0 → (readPayload h b).codes.getD e 0 = fieldAt d h.fmt.width e) ∧
    (h.pf = 1 → (readPayload h b).codes.getD e 0 = if set e
      then fieldAt (d.drop (32 + tileElems h.fmt / 8)) h.fmt.width ((List.range e).countP set) else 0)) ∧
  ∀ (st v : Stall) (sn k t : Nat) (w : CWord) (ring : BitVec 4) (count : Nat) (dst : Tile), 1 ≤ count → count ≤ 8 → dst.store = .a →
    let n := ring.toNat
    let cfg := v.ringCfg n
    let nnz := fun (o : Nat) =>
      bits (v.word cfg.store (cfg.addr ((v.ring n).head + o / 32) 0)).1.toNat (8 * (o % 32) + 7) (8 * (o % 32))
    let r := ((groupidxSpec st sn k t w ring count dst).run v).1
    let out := fun (i : Nat) => leAt (lineBytes (r.tword dst (i / 32)).1) (2 * (i % 32)) 2
    ((List.range (32 * count)).map out).Perm (List.range (32 * count)) ∧
    (∀ i j, i < j → j < 32 * count → nnz (out i) < nnz (out j) ∨ (nnz (out i) = nnz (out j) ∧ out i < out j)) ∧
    (r.ring n).head = (v.ring n).head ∧ t + 24 ≤ r.stamp (tileKey dst) ∧
    ∀ z, (∀ i, i < count → z ≠ 4096 + tileIx dst * 32 + i) → sgetD r.words z (0#512, false) = sgetD v.words z (0#512, false)

/-- What LDW and MMA words do to the array (R69, R70, R72, R77 to R79, R94, R102, R104, R107, R132, R162, R164). A load reads one
word of its W tile a tick into the shadow set, and a structured one then its meta words, whose positions and scales it places,
or reports SPARSE_META. A pass starts with its set, and its row m enters at tick m of it, is written to the foot at m plus the
shape's offset, and is promoted 8 ticks later. A foot write adds to each unmasked column's sum the lanes' exact sum rounded at
the window's unit and held within 21 bits, combines the specials, and changes no other row. A promotion writes the row's values
into its TP row, empties the foot row and sets the tile's status word. The model's choices: windows take later rows as the store
holds them (log entry 59), what R94 and R97 leave open on specials and masked halves (log entry 60), what another job left in a
foot row is none of a pass's (log entry 73), and the event's aux (log entry 19). -/
def Obligations.MatrixWordsFillTheArray : Prop :=
  (∀ (st : Stall) (sn k t : Nat) (l : Load),
    let word := fun (i : Nat) => st.tword ⟨.w, l.slot % 128 + i / 32⟩ (i % 32)
    let after := fun (n : Nat) => (List.range n).foldl (fun z i => (z.loadTick sn (t + i)).1) (st.load k t l)
    let s := st.newSet (st.jobSlot k).job t ((Fmt.ofCode l.fmt).getD .bf16) l
    let full := { s with
      tile := (List.range 32).map fun i => (word i).1
      poisoned := s.poisoned || (List.range (if l.struct.structured then 64 else 32)).any fun i => (word i).2 }
    (∀ n, (after n).words = st.words ∧ (after n).array.active = st.array.active ∧ (after n).array.foot = st.array.foot) ∧
    (l.struct.structured = false → (after 32).array.shadow = some full) ∧
    (l.struct.structured = true →
      let r := full.placed ((List.range 32).map fun i => (word (32 + i)).1)
      (after 65).array.shadow = some r.1 ∧
      ((after 64).loadTick sn (t + 64)).2 = match r.2 with
        | some i => [.ev ((after 64).ev sn (t + 64) 0x1201 0 (st.jobSlot k).job i)]
        | none => []) ∧
    ∀ (w : CWord) (v : Stall), let u := ((v.load k t l).claim (loadReads k ((v.subq k .mx).lastPc) t l)).loadTick sn t
      (ldwSpec st sn k t w l).run v = (u.1.fly k .mx (t + l.struct.ticks) w, u.2)) ∧
  (∀ (st : Stall) (sn u : Nat), st.array.runs = [] → st.array.clearing = [] → st.arrayTick sn u = st.loadTick sn u) ∧
  (∀ (st : Stall) (sn k t : Nat) (w : Mma) (cw : CWord) (f : Fmt) (set : StatSet),
    let r := (st.pass sn k t w cw f set).1
    (∀ v : Stall, f = (Fmt.ofCode w.fmtA).getD .bf16 → (if w.swap then st.array.shadow else st.array.active) = some set →
      (mmaSpec st sn k t cw w).run v = v.pass sn k t w cw f set) ∧
    r.array.active = (if w.swap then some set else st.array.active) ∧
    (w.swap = true → w.nextW = none → r.array.shadow = none) ∧
    (∃ x ∈ r.array.runs, x.start = t ∧ x.job = (st.jobSlot k).job ∧ x.ctx.set = set ∧ x.ctx.w = w ∧ x.ctx.fa = f) ∧
    (w.promote ≠ 0#2 → ∀ s q, s < w.shape.info.subs → q < cdiv w.m 32 →
      t + (min w.m (32 * q + 32) - 1) + w.shape.info.foot + 8 ≤ r.stamp (tileKey (promTile (w.tpBase.getD s 0) q)))) ∧
  (∀ (st : Stall) (sn i d : Nat) (r : PassRun), st.array.runs[i]? = some r → r.upto = r.start + d →
    let m := r.ctx.w.m
    let foot := r.ctx.w.shape.info.foot
    let x := { r with upto := r.start + d + 1 }
    let v := st.setRun i x
    (d < m → d < foot → let z := v.sampleTick i d x
      st.passTick sn (r.start + d) i = z.enterTick sn i d ((z.array.runs[i]?).getD r)) ∧
    (m ≤ d → foot ≤ d → d < foot + m → (r.ctx.w.promote = 0#2 ∨ d < foot + 8) →
      st.passTick sn (r.start + d) i = (v.footTick i (d - foot) x, [])) ∧
    (m + foot ≤ d → foot + 8 ≤ d → d < foot + 8 + m → r.ctx.w.promote ≠ 0#2 →
      st.passTick sn (r.start + d) i = v.promoteRow sn (r.start + d) x (d - foot - 8))) ∧
  (∀ (a : ArraySt) (r : PassRun) (q : MovRow) (s m : Nat),
    let p := r.ctx
    let f := p.fb s + m
    let row := a.rowFor r f s m
    let c0 := p.w.shape.col0 s
    let out := (a.footWrite r q s m).1
    (∀ g, g ≠ f → sget out.foot g = sget a.foot g) ∧ out.active = a.active ∧ out.shadow = a.shadow ∧ out.groups = a.groups ∧
    ∃ new, sget out.foot f = some new ∧ new.job = row.job ∧ new.extreme = row.extreme ∧
      (row.poison = true → new.poison = true) ∧
      ∀ c, c < 32 → let e := row.ents.getD c ⟨0, false, 0#2, false⟩
        (c < c0 ∨ c0 + p.w.ncount ≤ c → new.ents.getD c ⟨0, false, 0#2, false⟩ = e) ∧
        (c0 ≤ c → c < c0 + p.w.ncount → new.ents.getD c ⟨0, false, 0#2, false⟩ = if p.w.extreme
          then e.extreme (p.w.mode = 4#3) (q.extreme p s (c - c0) (p.w.mode = 4#3))
          else e.accum (q.contr p s (c - c0)) ((a.winOf f row).top (c / 16)))) ∧
  (∀ (p : PassCtx) (q : MovRow) (s n : Nat),
    let col := p.w.shape.col0 s + n
    let lanes := (List.range p.lanes).filterMap fun k =>
      let d := if p.str then p.set.densePos (p.lane0 s + k) col else k
      if p.str && decide (p.w.kcount ≤ d) then none
      else some (laneResult p.w.mode.toNat (q.elem p s d) (p.set.elem (p.lane0 s + k) col))
    let c := q.contr p s n
    c.nan = lanes.any Num.isNan ∧ c.pinf = lanes.contains (.inf false) ∧ c.ninf = lanes.contains (.inf true) ∧
    c.sum = (lanes.filterMap fun x => match x with | .fin d => some d.ex | _ => none).foldl Ex.add ⟨0, 0⟩) ∧
  (∀ (e : FootEnt) (c : Contr) (top : Option Int),
    let r := e.accum c top
    r.used = true ∧ r.spec = BitVec.ofNat 2 (specCombine e.spec.toNat c.spec) ∧
    (c.spec ≠ 0 ∨ top = none → r.s = e.s ∧ r.sat = e.sat) ∧
    ∀ w, c.spec = 0 → top = some w → let v := e.s + c.sum.rneAt (w - 20)
      (v.natAbs ≤ 2097151 → r.s = v ∧ r.sat = e.sat) ∧
      (2097151 < v → r.s = 2097151 ∧ r.sat = true) ∧ (v < -2097151 → r.s = -2097151 ∧ r.sat = true)) ∧
  (∀ (st : Stall) (p : PassRun) (s m : Nat),
    let w := p.ctx.w
    let f := p.ctx.fb s + m
    let row := st.array.rowFor p f s m
    let a := if f % 32 = 0 then st.array.release (f / 32) p.job else st.array
    let tp := promTile (w.tpBase.getD s 0) (m / 32)
    let c0 := w.shape.col0 s
    let r := (st.promoteSub p s m).1
    sget r.array.foot f = none ∧
    (∀ c, c < 32 →
      (c < c0 ∨ c0 + w.ncount ≤ c → entryAt r tp (m % 32) c = entryAt st tp (m % 32) c) ∧
      (c0 ≤ c → c < c0 + w.ncount → entryAt r tp (m % 32) c = (promoteElem (w.promote = 1#2) row.extreme (w.mode = 4#3)
        (entryAt st tp (m % 32) c) ((row.ents.getD c ⟨0, false, 0#2, false⟩).promoted row.extreme
          ((a.winOf f row).top (c / 16)))).1)) ∧
    ∀ n, (∀ h, h < 2 → n ≠ tp.store.num * 4096 + tp.slot * 64 + 2 * (m % 32) + h) →
      sgetD r.words n (0#512, false) = sgetD st.words n (0#512, false)) ∧
  ∀ (st : Stall) (sn u : Nat) (p : PassRun) (m : Nat),
    let add : Bool := decide (p.ctx.w.promote = 1#2)
    let ps := ((List.range p.ctx.w.shape.info.subs).foldl (fun (acc : Stall × List Promo) s =>
      let x := acc.1.promoteSub p s m; (x.1, acc.2 ++ [x.2])) (st, [])).2
    let r := (st.promoteRow sn u p m).1
    (∀ q ∈ ps, r.tstat (tileKey q.tile)
      = BitVec.ofNat 32 (statAfter (st.tstat (tileKey q.tile)).toNat m add (ps.filter fun y => y.tile = q.tile))) ∧
    ∀ q, ps = [q] →
      let old := (st.tstat (tileKey q.tile)).toNat
      let new := statAfter old m add ps
      let was := if m % 32 = 0 && !add then 0 else old
      bit new 0 = true → bit was 0 = false → st.fault.valid = false → r.fault = p.tileFault q.tile 0x1101 new

/-! ### Steps on a stall -/

/-- A go (R129), written by the Clerk to STEP_CTRL: one whose start is no multiple of 64 or less than a round away, or whose slot
is invalid or running, sets `refused` and nothing else; else the base of the slot is STEP_START on all four engines, every
failed-check count is 0 and the slot runs, no other slot changing. The words that the fetchers have filled its sub-queues with
stay (R446). -/
def Obligations.StepsAreStarted : Prop :=
  (∀ (s : State) (t sn : Nat) (v : W32), s.clocked = true → s.boot.dev ≠ 0 → s.primary < 4 → s.stallPresent sn = true →
    v.getLsbD 9 = false →
    let a := s.advance t
    let k := bits v.toNat 2 0
    let start := (a.stall sn).reg 0x580 + 2 ^ 32 * (a.stall sn).reg 0x584
    exec (.stepCtrlGo t sn v) s
      = .next (a.onStall t sn fun st => (st.go t k start (a.goStep ((a.stall sn).jobSlot k).job start), []))) ∧
  (∀ (st : Stall) (t k start n : Nat),
    let bad := start % 64 ≠ 0 ∨ start < t + 4096 ∨ (st.jobSlot k).valid = false ∨ (st.slotSt k).running = true
    (bad → st.go t k start n = st.setSlot k { st.slotSt k with refused := true }) ∧
    (¬ bad →
      let u := st.go t k start n
      (u.slotSt k).running = true ∧ (u.slotSt k).refused = false ∧ (u.slotSt k).step = n ∧
      (∀ e, (u.subq k e).base = start ∧ (u.subq k e).fails = 0 ∧ (u.subq k e).stopped = false ∧ (u.subq k e).ended = false ∧
        (u.subq k e).words = (st.subq k e).words) ∧
      (u.slotSt k).accounts = [] ∧ (u.slotSt k).streams = [] ∧ (u.slotSt k).sendRv = 0#32 ∧ (u.slotSt k).recvRv = 0#32 ∧
      (∀ i, i ≠ k → u.slotSt i = st.slotSt i) ∧ u.words = st.words ∧ u.stamps = st.stamps ∧ u.flags = st.flags ∧
      u.tallies = st.tallies ∧ u.busy = st.busy ∧ u.page = st.page))

/-- Words of a step (R109, R111, R116, R124, R130, R134, R446). A chunk that its fetcher awaits and whose check holds gives its
words to the fetcher, which fills the sub-queue up to 64 words in stream order and asks for the next once there is room (R446;
the order of its requests is the model's, log entry 67); the first chunk that fails is fetched again and the second raises
STREAM_FETCH; a word joins the sub-queue, with the stream's next ordinal, unless it comes late or out of order or is malformed; a word
in flight completes at its tick and leaves the flight; a slot drains when nothing of it is open. An abort is kept for the next
boundary (R130), at which the slot's words and what its fetchers hold are discarded; go and abort written together are ignored
(R134). -/
def Obligations.WordsArriveAndComplete : Prop :=
  (∀ (s : State) (t sn : Nat) (v : W32), s.clocked = true → s.boot.dev ≠ 0 → s.primary < 4 → s.stallPresent sn = true →
    let a := s.advance t
    (v.getLsbD 8 = false → exec (.stepCtrlAbort t sn v) s = .next (a.onStall t sn fun st => (st.abort (bits v.toNat 2 0), []))) ∧
    (v.getLsbD 9 = true → exec (.stepCtrlGo t sn v) s = .next (a.touch t sn)) ∧
    (v.getLsbD 8 = true → exec (.stepCtrlAbort t sn v) s = .next (a.touch t sn))) ∧
  (∀ (st : Stall) (k : Nat),
    (st.abort k).slotSt k = { st.slotSt k with abortReq := true } ∧
    ((st.slotSt k).abortReq = false → st.abortNow k = st) ∧
    ((st.slotSt k).abortReq = true →
      let u := (st.abortNow k).slotSt k
      u.running = false ∧ u.draining = st.opsOpen k ∧ u.abortReq = false ∧ ∀ e : Eng, (u.q.get e).words = [] ∧ u.feed.get e = [])) ∧
  (∀ (s : State) (t sn k : Nat) (e : Eng) (raw : List Byte) (ws : List CWord) (jb : Job), s.clocked = true →
    let a := s.advance t
    let j := ((a.stall sn).jobSlot k).job
    let key := sn * 4 + e.num
    a.job j = some jb →
    (sget jb.fetched key = none → exec (.streamChunkArrival t sn k e raw ws) s = .next a) ∧
    ∀ f, sget jb.fetched key = some f →
      let base := (jb.streamAt sn e.num).getD 0
      let got := f.bytes base raw
      let words := uptoEnd ws
      (f.asked = false → exec (.streamChunkArrival t sn k e raw ws) s = .next a) ∧
      (f.asked = true → chunkOk got = true →
        let u := (if a.caches jb then a.fillLines base f.chunk got else a).setJob j
          (jb.chunkDone key f (words.any fun w => w.op = .stepEnd))
        exec (.streamChunkArrival t sn k e raw ws) s = .next ((u.onStall t sn fun st =>
          (st.takeChunk k e (jb.delivers sn f.step) words, [])).refill t sn k e)) ∧
      (f.asked = true → chunkOk got = false → f.failed = false →
        exec (.streamChunkArrival t sn k e raw ws) s = .next (a.fetchAgain j sn e.num f)) ∧
      (f.asked = true → chunkOk got = false → f.failed = true → exec (.streamChunkArrival t sn k e raw ws) s
        = .next (a.raise ⟨0x6205, 2, some j, pageId .stall sn, (a.stall sn).stepOf j, t,
            BitVec.ofNat 64 (sn + 2 ^ 16 * e.num)⟩))) ∧
  (∀ (st : Stall) (sn t k : Nat) (e : Eng) (go : CWord → Bool) (ws : List CWord),
    (st.takeChunk k e go ws).slotSt k = { st.slotSt k with
      feed := (st.slotSt k).feed.set e ((st.slotSt k).feed.get e ++ ws.map fun w => if go w then some w else none) } ∧
    ((st.subq k e).words.length ≤ 64 → ((st.fill sn t k e).1.subq k e).words.length ≤ 64) ∧
    ((st.slotSt k).feed.get e = [] → (st.fill sn t k e).1.slotSt k = st.slotSt k ∧ (st.fill sn t k e).2 = [])) ∧
  (∀ (st : Stall) (sn t k : Nat) (e : Eng) (w : CWord),
    let q := st.subq k e
    let off := w.common.offset.toNat
    let stops := fun (c : Nat) => (st.arrive sn t k e w).1.subq k e = { q with stopped := true } ∧
      (st.arrive sn t k e w).2 = [Eff.ev (st.ev sn t c 2 (st.jobSlot k).job q.next)]
    let late := (st.slotSt k).running = true ∧ q.current = true ∧ q.base + off < t
    q.stopped = false →
      (∀ l, q.lastOff = some l → off ≤ l → stops 0x1303) ∧
      ((∀ l, q.lastOff = some l → l < off) →
        (Common.reserved w.common = true ∨ (∃ x, w.op.engine = some x ∧ x ≠ e) → stops 0x1305) ∧
        (Common.reserved w.common = false → (∀ x, w.op.engine = some x → x = e) →
          (late → stops 0x1302) ∧
          (¬ late →
            (st.arrive sn t k e w).1.subq k e = q.put w ∧ (q.put w).words = q.words ++ [w] ∧
            (q.put w).ords = q.ords ++ [q.next] ∧ (st.arrive sn t k e w).2 = [] ∧
            (w.op ≠ .stepEnd → (q.put w).next = q.next + 1 ∧ (q.put w).lastOff = some off) ∧
            (w.op = .stepEnd → (q.put w).next = 0 ∧ (q.put w).lastOff = none))))) ∧
  (∀ (s : State) (sn : Nat) (e : Eng), s.clocked = true →
    ((s.stall sn).nextDone e = none → exec (.wordCompletion sn e) s = .next s) ∧
    ∀ f, (s.stall sn).nextDone e = some f →
      let a := s.advance f.tick
      exec (.wordCompletion sn e) s = .next (a.onStall f.tick sn fun st => st.wordDone sn (a.ctx sn f.slot) f)) ∧
  (∀ (st : Stall) (sn : Nat) (ctx : JobCtx) (f : Flight), (st.wordDone sn ctx f).1.flight = st.flight.erase f) ∧
  (∀ (s : State) (t sn k : Nat), s.clocked = true →
    let a := s.advance t
    exec (.stepDrainEnd t sn k) s = .next ((a.onStall t sn fun st => (st.drainEnd k, [])).noteQuiet a)) ∧
  (∀ (st : Stall) (k : Nat), let s := st.slotSt k
    (st.opsOpen k = true → st.drainEnd k = st) ∧
    (st.opsOpen k = false → s.draining = true → (st.drainEnd k).slotSt k = { s with draining := false }) ∧
    (st.opsOpen k = false → s.draining = false → s.running = true →
      (s.q.mx.ended && s.q.vx.ended && s.q.pt.ended && s.q.ex.ended) = true →
      (st.drainEnd k).slotSt k = { s with running := false }))

/-! ### Registers -/

/-- Registers of a page whose write acts beyond the word, so that they have statements of their own; the rest are plain. -/
def actsOnWrite (p : PageTy) (i o : Nat) : Bool :=
  match p with
  | .stall => o = 0x100 || o = 0x110 || o = 0x588 || (decide (0x5B0 ≤ o) && decide (o < 0x5F0)) || o = 0x680
  | .cdie => o = 0x130
  | .hdie => o = 0x300
  | .sched => o = 0x118 || o = 0x11C
  | .aisle => o = 0x11C
  | .bell => o = 0x128
  | .power => o = 0x108
  | .ledger => o = 0x100
  | .lemef => i = 0
  | _ => false

/-- The access codes (R12, R13, R463, R464) on one page: a write reaches the RW bits at once and the RWS bits in the shadow
only, reserved bits are ignored, a commit copies the RWS bits of every shadow word and leaves shadows and every other bit. A
shadow write or a COMMIT that comes in the tick of a boundary (`late`) takes no part in it: it joins the page after the
boundary, for the next. -/
def Obligations.AccessCodesOfAPage : Prop :=
  ∀ (pg : Page) (p : PageTy) (i o : Nat) (v : W32) (r : RegRow), p.row i o = some r →
    let rw := BitVec.ofNat 32 r.rw
    let rws := BitVec.ofNat 32 r.rws
    (pg.writeRW p i o v).word p i o = ((pg.word p i o &&& ~~~rw) ||| (v &&& rw)) ∧
    (pg.writeRW p i o v).shadow = pg.shadow ∧
    (∀ n, n ≠ o → (pg.writeRW p i o v).word p i n = pg.word p i n) ∧
    (∀ late, (pg.writeShadow p i o v late).live = pg.live ∧ (r.rws = 0 → pg.writeShadow p i o v late = pg)) ∧
    (r.rws ≠ 0 → (pg.writeShadow p i o v false).shadowWord p i o = (v &&& rws) ∧ (pg.writeShadow p i o v false).dirty = true) ∧
    (r.rws ≠ 0 →
      let u := pg.writeShadow p i o v true
      u.shadow = pg.shadow ∧ u.dirty = pg.dirty ∧ (u.apply p i).live = (pg.apply p i).live ∧
      (pg.lateShadow = [] → u.takeLate.shadowWord p i o = (v &&& rws) ∧ u.takeLate.dirty = true)) ∧
    (∀ x, sget pg.shadow o = some x → (pg.apply p i).word p i o = ((pg.word p i o &&& ~~~rws) ||| (x &&& rws))) ∧
    (sget pg.shadow o = none → (pg.apply p i).word p i o = pg.word p i o) ∧
    (pg.apply p i).shadow = pg.shadow ∧ (pg.apply p i).commit = false ∧ (pg.apply p i).dirty = false ∧
    (pg.request false).commit = true ∧ (pg.request true).commit = pg.commit ∧ (pg.request true).takeLate.commit = true

/-- A 4-byte write (R12, R432, R447, R459, R461, R463 to R466). A plain register of a present page that the agent may write
takes its RW and RWS bits; a shadow address takes the RWS bits; COMMIT written 1 asks for a commit; a write by the wrong
agent changes nothing but the companion's ACCESS_REFUSED; absent and unassigned addresses count on the DEVICE page. -/
def Obligations.RegisterWritesReachTheirPage : Prop :=
  ∀ (s : State) (t agent addr : Nat) (v : W32), s.clocked = true →
    let a := s.advance t
    let o := addr % 0x1000
    let refused (x : State) : State := if 4 ≤ agent then x.count (lemefPage (agent - 4)) 0x68 1 else x
    (pageOf addr = none → exec (.registerWrite t agent addr v) s = .next (refused (a.count (pageNo .device 0) 0x48 1))) ∧
    (∀ p i, pageOf addr = some (p, i) →
      (a.pagePresent p i = false → exec (.registerWrite t agent addr v) s = .next (refused (a.count (pageNo .device 0) 0x40 1))) ∧
      (a.pagePresent p i = true → a.mayWrite agent p i o = false →
        exec (.registerWrite t agent addr v) s = .next (refused a)) ∧
      (a.pagePresent p i = true → a.mayWrite agent p i o = true →
        let n := pageNo p i
        (0x40 ≤ o → o < 0x800 → actsOnWrite p i o = false → exec (.registerWrite t agent addr v) s
          = .next (a.setPage n (((a.page n).writeRW p i o v).writeShadow p i o v a.atBoundary))) ∧
        (0x800 ≤ o → exec (.registerWrite t agent addr v) s
          = .next (a.setPage n ((a.page n).writeShadow p i (o - 0x800) v a.atBoundary))) ∧
        (o = 0x01C → exec (.registerWrite t agent addr v) s = .next (a.setPage n ((a.page n).writeRW p i o v))) ∧
        (o = 0x010 → v.getLsbD 0 = true →
          exec (.registerWrite t agent addr v) s = .next (a.setPage n ((a.page n).request a.atBoundary)) ∧
          exec (.commit t agent (addr / 0x1000) v) s = .next (a.setPage n ((a.page n).request a.atBoundary)))))

/-- RING_PTRn (R194), written by the primary Clerk: it takes head and tail only while the ring's job has no step running or
draining on the stall; a write at another time changes nothing but RING_PTR_REFUSED, which it raises by 1. -/
def Obligations.RingPointersAreWritten : Prop :=
  ∀ (s : State) (t sn r : Nat) (v : W32), s.clocked = true → s.boot.dev ≠ 0 → s.primary < 4 → s.stallPresent sn = true → r < 16 →
    exec (.ringPtrWrite t sn r v) s = .next ((s.advance t).onStall t sn fun st =>
      let busy := (List.range 8).any fun k =>
        (st.jobSlot k).job = (st.ringCfg r).job && ((st.slotSt k).running || (st.slotSt k).draining)
      (if busy then st.bump 0x770 1
        else st.setRing r { st.ring r with head := bits v.toNat 15 0, tail := bits v.toNat 31 16 }, []))

/-- Registers whose write acts. CHECK_VAL and RERUN_ARM, written by the primary Clerk, wait for the slot (R227, R404), GRP_STEP for
the group's job (R329), which a record that is not valid does not name; XLATE_INVAL drops the named translations (R253); RETRAIN
starts a port again (R339). LEDGER_CTRL and RING_CTRL, written by the companion (R385, R437): snap asks for a snapshot; release
frees a CLOSED page and the job number with it and leaves an OPEN one; a write of `enable` 1 zeroes the counts of the rings, posts
what waits and writes the status line, and of 0 is ignored while a command is open. -/
def Obligations.ActingRegisters : Prop :=
  (∀ (s : State) (t : Nat) (v : W32), s.clocked = true → s.boot.dev ≠ 0 → s.primary < 4 →
    let a := s.advance t
    (∀ sn, s.stallPresent sn = true → exec (.checkValWrite t sn v) s = .next (a.onStall t sn fun st =>
        (if st.slotBusy st.checkSel.1 then st
          else st.setSlot st.checkSel.1 (if st.checkSel.2 then { st.slotSt st.checkSel.1 with recvRv := v }
            else { st.slotSt st.checkSel.1 with sendRv := v }), []))) ∧
    (∀ d, d < 12 → v.getLsbD 12 = true → s.stallPresent (128 * d + bits v.toNat 6 0) = true →
      exec (.rerunArm t d v) s = .next (a.onStall t (128 * d + bits v.toNat 6 0) fun st =>
        (st.rerunArm (bits v.toNat 10 8), []))) ∧
    (∀ h, h < 4 → v.getLsbD 31 = true → exec (.xlateInval t h v) s = .next (a.setHub h { a.hub h with
        cache := (a.hub h).cache.filter fun e => !(e.job = bits v.toNat 5 0 && (bit v.toNat 6 || e.vpn = bits v.toNat 30 8)) })) ∧
    (∀ w : W64, let g := bits (a.live .sched 0 0x110) 5 0
      let busy := a.groupValid g = true ∧ a.jobActive (groupOf (a.groupRecord g)).job = true
      (¬ busy → exec (.grpStepWrite t w) s = .next { a with sched := { a.sched with steps := sset a.sched.steps g w } }) ∧
      (busy → exec (.grpStepWrite t w) s = .next a)) ∧
    (∀ p, s.portPresent p = true →
      (v.getLsbD 0 = true → bit (a.live .aisle p 0x104) 0 = true → ∃ u, exec (.aisleRetrain t p v) s = .next u ∧
        (u.aisle p).state = 1 ∧ (u.aisle p).replay = [] ∧ (u.aisle p).queue = (a.aisle p).queue) ∧
      (v.getLsbD 0 = false ∨ bit (a.live .aisle p 0x104) 0 = false → exec (.aisleRetrain t p v) s = .next a))) ∧
  ∀ (s : State) (t agent : Nat), s.clocked = true → s.boot.dev ≠ 0 → 4 ≤ agent →
    let a := s.advance t
    (∀ j, j < 64 → exec (.ledgerSnap t agent j) s = .next (a.setLedger j { a.ledger j with snapPend := true, snapDone := false })) ∧
    (∀ j, j < 64 → (a.ledger j).state ≠ 2 → exec (.ledgerRelease t agent j) s = .next a) ∧
    (∀ j, j < 64 → (a.ledger j).state = 2 → ∃ u, exec (.ledgerRelease t agent j) s = .next u ∧ u.job j = none ∧
      u.ledger j = .empty ∧ ∀ i, i ≠ j → u.job i = a.job i) ∧
    (∀ v : W32, v.getLsbD 0 = true →
      let pg := pageNo .lemef 0
      let x : State := { a.setPage pg ((a.page pg).writeRW .lemef 0 0x13C v) with rings := { a.rings with
        sqHead := 0, cqTail := 0, cqHead := 0, eqTail := 0, eqHead := 0, cq := [], eq := [] } }
      let u := x.postEvents 256
      exec (.ringCtrlEnable t agent v) s = .next (if u.ringsOn then u.writeStatus else u)) ∧
    (∀ v : W32, v.getLsbD 0 = false → a.clerk.taken ≠ [] → exec (.ringCtrlEnable t agent v) s = .next a) ∧
    (∀ v : W32, v.getLsbD 0 = false → a.clerk.taken = [] → exec (.ringCtrlEnable t agent v) s
      = .next (a.setPage (pageNo .lemef 0) ((a.page (pageNo .lemef 0)).writeRW .lemef 0 0x13C v)))

/-- Reads of the register window (R15, R466). The answer is the agent's latch where it holds the word, else the live word;
reading a low word latches the high word for that agent alone, so that its next read of the high word answers the value of
that instant; reading SYNC_ERROR clears its RC field. -/
def Obligations.ReadsAnswerAndLatch : Prop :=
  ∀ (s : State) (t agent addr : Nat) (c : Instr), s.clocked = true →
    (c = .lowWordRead t agent addr ∨ c = .rcFieldRead t agent addr) →
    let a := s.advance t
    let b := match pageOf addr with | some (p, i) => a.accrueAt p i | none => a
    ∃ u, exec c s = .next u ∧
      u.out = b.out ++ [.read a.bell.now agent addr (((b.latched agent addr).getD (b.liveWord addr)).setWidth 64)] ∧
      (latchCount addr = 1 → u.latched agent (addr + 4) = some (b.liveWord (addr + 4))) ∧
      (∀ g, g ≠ agent → sget u.latches g = sget b.latches g) ∧
      (latchCount addr = 0 → u.latches = b.latches) ∧
      (addr = 0x1118 → u.bell.maxAbs = 0) ∧ (addr ≠ 0x1118 → u.bell = b.bell)

/-! ### LemefLink and the companion -/

/-- The two blocks that the entries of a job's HBM line at `pa` lie in: the committed frames (R311). -/
def lineFrames (s : State) (j va pa : Nat) : Nat × Nat :=
  if hallBase ≤ pa then (pa / 64 * 64, pa / 64 * 64)
  else (s.framePa j va pa false / 64 * 64, s.framePa j (va + 32) (pa + 32) false / 64 * 64)

/-- Companion accesses (R248, R431 to R433). A read of a mapped HBM line answers the line served to the job, POISONED where it is
poisoned or fails its check, and changes no memory; a read of the register window answers sixteen words; an access that
nothing grants is refused, counted and changes no memory. A write of a mapped line changes no byte outside the blocks that
serve it; a full line whose entries lie together stores its data; one whose eight tries fail writes nothing. A write of the
register window takes effect word by word where every word of it is whole and granted, and else changes nothing but the counts of
refused writes (R459, R461; one refused line counts once, log entry 54). INVAL drops the line and is acknowledged, but that of the
doorline waits for the Clerk (R436). With no such request waiting nothing happens. -/
def Obligations.CompanionAccesses : Prop :=
  ∀ (s : State) (t h : Nat) (rd : ReadTry) (tries : MergeTries), s.clocked = true →
    let a := s.advance t
    (a.takeSlot h [1, 2] = none → exec (.companionRead t h rd) s = .next a) ∧
    (a.takeSlot h [4] = none → exec (.companionWrite t h tries) s = .next a) ∧
    (a.takeSlot h [6] = none → exec (.inval t h) s = .next a) ∧
    ∀ (x : Slot) (u : State),
    let w := x.addr - windowBase
    let inRam := fun (j va : Nat) => inRegWindow x.addr = false ∧ u.companionLine x.addr = some (j, va)
    let denied := inRegWindow x.addr = false ∧ u.companionLine x.addr = none
    let absent := ∀ p i, pageOf w = some (p, i) → u.pagePresent p i = false
    let refused := (u.count (lemefPage h) 0x68 1).respond h 5 1 x []
    (a.takeSlot h [1, 2] = some (x, u) →
      (∀ j va, inRam j va → ∃ y : State, exec (.companionRead t h rd) s = .next (y.respond h 3
          (if (u.served j va x.addr).2 || rd.bad then 2 else 0) x (lineBytes (u.served j va x.addr).1)) ∧ y.mem = s.mem) ∧
      (inRegWindow x.addr = true → exec (.companionRead t h rd) s
        = .next (((u.readWindow (4 + h) w).2).respond h 3 0 x (u.readWindow (4 + h) w).1)) ∧
      (denied → exec (.companionRead t h rd) s = .next ((u.count (lemefPage h) 0x68 1).respond h 3 1 x []))) ∧
    (a.takeSlot h [4] = some (x, u) →
      (∀ j va, inRam j va → ∃ v, exec (.companionWrite t h tries) s = .next v ∧
        let f := lineFrames u j va x.addr
        (∀ b, (b < f.1 ∨ f.1 + 64 ≤ b) → (b < f.2 ∨ f.2 + 64 ≤ b) → memRead v.mem b = memRead s.mem b) ∧
        (x.mask = 0#64 ∨ 8 ≤ tries.fails → v.mem = s.mem) ∧
        (x.mask = BitVec.allOnes 64 → tries.fails < 8 →
          (hallBase ≤ x.addr ∨ u.framePa j (va + 32) (x.addr + 32) false = u.framePa j va x.addr false + 32) → ∀ i, i < 64 →
          memRead v.mem (f.1 + i) = (lineBytes (BitVec.ofNat 512 (leAt x.data 0 64))).getD i 0#8)) ∧
      (denied → exec (.companionWrite t h tries) s = .next refused) ∧
      (inRegWindow x.addr = true →
        (slotWrites x = [] → exec (.companionWrite t h tries) s = .next (u.respond h 5 0 x [])) ∧
        (slotWrites x ≠ [] →
          (absent → exec (.companionWrite t h tries) s
            = .next (((u.countRefused w).count (lemefPage h) 0x68 1).respond h 5 1 x [])) ∧
          (¬ absent → (partWord x.mask = true ∨ ∃ q ∈ slotWrites x, u.writeRefused (4 + h) q.1 = true) →
            exec (.companionWrite t h tries) s = .next refused) ∧
          (¬ absent → partWord x.mask = false → (∀ q ∈ slotWrites x, u.writeRefused (4 + h) q.1 = false) →
            exec (.companionWrite t h tries) s = .next (s.within
              (((slotWrites x).foldl (fun z q => z.writeReg t (4 + h) q.1 q.2) u).respond h 5 0 x [])))))) ∧
    (a.takeSlot h [6] = some (x, u) →
      (a.doorInval x = true → exec (.inval t h) s = .next a) ∧
      (a.doorInval x = false → ∃ y : State, exec (.inval t h) s = .next (y.respond h 7 0 x []) ∧
        y.rings.lines = u.rings.lines.filter fun b => b.1 != x.addr))

/-- Half-ports (R338, R339, R414, R427 to R430, R448). A slot that fails its check is counted and not taken; the one that is due is
accepted, another draws a NAK; unacknowledged slots are sent again on a NAK, or 3,072 ticks after the last ack progress or replay
for want of it, and a slot that was sent sixteen times loses the half; a lost half is LOST, hands on the requests that have no
answer, the responses that are not acknowledged and what waits, and raises LEMEF_DOWN; a half that trains again is UP with its
first good slot (the model's choice, log entry 74); loss of the companion is raised and fails every open job. That a replay
restarts the timer is the model's choice (log entry 36). -/
def Obligations.HalfPortsLoseAndRecover : Prop :=
  (∀ (s : State) (t h : Nat), s.clocked = true →
    let a := s.advance t
    let f := a.half h
    (∀ b, let x := slotOf b
      let u := a.slotLock t h b
      let g := u.half h
      let y := if x.nak then (u.setHalf h (g.takeAck t x)).replayHalf t h else u.setHalf h (g.takeAck t x)
      (g.state ≠ 2 → exec (.lemefSlotReceive t h b) s = .next u) ∧
      (g.state = 2 →
        (slotOk b = false ∨ 7 < x.ty ∨ (1 ≤ x.ty ∧ x.ty ≤ 7 ∧ 4 < x.pool) →
          exec (.lemefSlotReceive t h b) s = .next ((u.count (lemefPage h) 0x58 1).nakHalf t h)) ∧
        (slotOk b = true → x.ty = 0 → exec (.lemefSlotReceive t h b) s = .next y) ∧
        (slotOk b = true → 1 ≤ x.ty → x.ty ≤ 7 → x.pool ≤ 4 →
          ((y.half h).state ≠ 2 → exec (.lemefSlotReceive t h b) s = .next y) ∧
          ((y.half h).state = 2 → x.seq = g.rxSeq → exec (.lemefSlotReceive t h b) s = .next (y.acceptSlot h x b)) ∧
          ((y.half h).state = 2 → x.seq ≠ g.rxSeq → exec (.lemefSlotReceive t h b) s = .next (y.nakHalf t h))))) ∧
    (f.state = 2 →
      let x := (a.setHalf h { f with
        state := 3, replay := [], queue := [], asked := [], credits := [0, 0, 0, 0, 0], owed := [0, 0, 0, 0, 0], nakAt := none
        nakOwed := false }).freeOutput (lemefArb h) (h % 2)
      let held := f.asked ++ (f.replay.map fun (q : TxFlit) => slotAgain q.bytes).filter (fun q => !slotAsks q.ty) ++ f.queue
      let y := held.foldl (fun z q => z.sendSlot h q) x
      exec (.lemefHalfLost t h) s = .next (y.raise (y.mkEv 0x5201 1 none .lemef (h / 2) 0 h))) ∧
    (f.state ≠ 2 → exec (.lemefHalfLost t h) s = .next a) ∧
    (f.state ≠ 2 → a.boot.trained = true → exec (.lemefRetrain t h) s = .next (a.setHalf h { f with state := 1 })) ∧
    (f.state = 2 ∨ a.boot.trained = false → exec (.lemefRetrain t h) s = .next a) ∧
    (f.state = 2 → f.replay ≠ [] →
      (max f.ackAt f.retryAt + 3072 ≤ t →
        exec (.lemefAckTimeout t h) s = .next ((a.setHalf h { f with retryAt := t }).replayHalf t h)) ∧
      (t < max f.ackAt f.retryAt + 3072 → exec (.lemefAckTimeout t h) s = .next a)) ∧
    (a.boot.dev = 0 ∨ a.boot.dev = 3 → exec (.companionLossTimeout t) s = .next a) ∧
    (a.boot.dev ≠ 0 → a.boot.dev ≠ 3 →
      let y := a.raise (a.mkEv 0x6507 1 none .lemef 0 0 0)
      exec (.companionLossTimeout t) s = .next (y.openJobs.foldl (fun z j => z.failJob j 0x6507) y))) ∧
  ∀ (s : State) (t h : Nat) (b : List Byte) (x : Slot),
    let f := s.half h
    (f.state = 1 → s.boot.trained = true → slotOk b = true → ((s.slotLock t h b).half h).state = 2) ∧
    (f.state ≠ 1 ∨ s.boot.trained = false ∨ slotOk b = false → s.slotLock t h b = s) ∧
    ((∃ q ∈ f.replay, 16 ≤ q.tries) → s.replayHalf t h = s.loseHalf h) ∧
    (∀ n, f.nakAt = some n → s.nakHalf t h = s) ∧
    (f.nakAt = none → s.nakHalf t h = s.setHalf h { f with nakAt := some t, nakOwed := true }) ∧
    let u := s.acceptSlot h x b
    (u.half h).rxSeq = (f.rxSeq + 1) % 4096 ∧ (u.half h).acked = true ∧
    (x.ty ∈ [1, 2, 4, 6] → (u.half h).inbox = f.inbox ++ [b] ∧ (u.half h).asked = f.asked) ∧
    (x.ty ∈ [3, 5, 7] → (u.half h).inbox = f.inbox ∧ (u.half h).asked = f.asked.filter fun q => q.tag != x.tag)

/-! ### Transfers of the porters -/

/-- Reads of a transfer (R247, R257, R261, R299, R311). A requested block whose check passes is accepted, with the poison it was
written with; a mismatch is requested again while fewer than two re-reads were made, and then is accepted poisoned; a block
that a commit word holds back is not served; one taken from a run-ahead buffer comes as it was held there. Completion waits
until every block has landed and every word is written; it frees the tag and, for a PUT without a ring, does nothing but
count and complete the word. -/
def Obligations.BlocksOfReadsArrive : Prop :=
  ∀ (s : State) (t sn tag q : Nat) (x : Transfer), s.clocked = true →
    let a := (s.advance t).touch t sn
    sget (a.stall sn).tags tag = some x →
    (∀ b (d : Option Block), x.blocks[q]? = some b → x.kind ≠ .put → b.requested = true → b.landed = false →
      (a.holds x b = true → exec (.hbmBlockArrival t sn tag q d) s = .next a) ∧
      (a.holds x b = false → ∀ v, b.snap = some v → d = none → exec (.hbmBlockArrival t sn tag q d) s
        = .next (a.pass t sn tag q ((a.servedFrom x.job b.va b.pa).headD b.pa) b v.1 v.2)) ∧
      (a.holds x b = false → b.snap = none → ∀ k, d = some k → b.pa < hallBase →
        let pa := a.framePa x.job b.va b.pa false
        let u := ((a.servedFrom x.job b.va b.pa).foldl (fun v i => (v.countHbm i 0x40 1).chargeBlock x.job i 0x70) a).countHbm pa
          0x80 (b2n k.corrected)
        let e := blockCheck k.data pa
        (∀ p, k.uncorr = false → k.check = (if p then e ^^^ 0xFFFFFFFF#32 else e) →
          exec (.hbmBlockArrival t sn tag q d) s
            = .next (((u.countHbm pa 0x60 (b2n p)).countHbm pa 0x58 (b2n (b.rereads != 0))).accept t sn tag q k.data p)) ∧
        (k.uncorr = true ∨ (k.check ≠ e ∧ k.check ≠ e ^^^ 0xFFFFFFFF#32) → b.rereads < 2 →
          let y := { x with resent := true, blocks := lset x.blocks q { b with rereads := b.rereads + 1, snap := none } }
          let z := (u.setStall sn ((u.stall sn).setTag tag y)).countHbm pa 0x50 1
          exec (.hbmBlockArrival t sn tag q d) s
            = .next (if x.resent then z else z.raise (z.memEv t 0x4101 0 sn x.job pa))) ∧
        (k.uncorr = true ∨ (k.check ≠ e ∧ k.check ≠ e ^^^ 0xFFFFFFFF#32) → 2 ≤ b.rereads →
          let z := (u.countHbm pa 0x68 1).accept t sn tag q k.data true
          exec (.hbmBlockArrival t sn tag q d) s = .next (z.raise (z.memEv t 0x4102 0 sn x.job pa))))) ∧
    exec (.porterTransferComplete t sn tag) s
      = .next (a.onStall t sn fun st => st.porterDone sn t tag (a.ctx sn x.slot)) ∧
    (∀ (st : Stall) (f : JobCtx), sget st.tags tag = some x →
      (x.finished = false → st.porterDone sn t tag f = (st, [])) ∧
      (x.finished = true → (st.jobSlot x.slot).job ≠ x.job →
        st.porterDone sn t tag f = ({ st with tags := sdel st.tags tag }, [])) ∧
      (x.finished = true → (st.jobSlot x.slot).job = x.job → x.kind = .put → x.tail = none → st.porterDone sn t tag f
        = (({ st with tags := sdel st.tags tag }).bump 0x478 (if x.grad then 0 else (x.runs.map PRun.n).sum)).complete sn x.slot
            x.step t x.issue x.pc .pt f x.common))

/-- Writes and the ends of a transfer (R186, R248, R254, R257, R259, R407). A block of a PUT whose source words have been read is
written; it changes no byte outside the frames that serve it; after the eighth failure nothing is written, the tag is freed
and HBM_WRITE_FAIL is raised. A tag held for 165,000 ticks is freed with PORTER_TIMEOUT, which strikes the stall unless an
event names the path; after a page fault it is freed without an event; a word that waited as long for its bank raises
PORTER_STARVED once. -/
def Obligations.WritesAndEndsOfTransfers : Prop :=
  ∀ (s : State) (t sn tag q : Nat) (x : Transfer), s.clocked = true →
    let a := (s.advance t).touch t sn
    (sget (a.stall sn).tags tag = some x →
      (∀ b n, x.blocks[q]? = some b → x.kind = .put → x.grad = false → b.requested = true → b.landed = false →
        let pa := a.framePa x.job b.va b.pa false
        (x.sourced b.va = false → exec (.hbmBlockWrite t sn tag q n) s = .next a) ∧
        (x.sourced b.va = true → 8 ≤ n → b.pa < hallBase →
          let u := ((a.countHbm pa 0x70 7).countHbm pa 0x78 1).dropTag sn tag
          exec (.hbmBlockWrite t sn tag q n) s = .next (u.raise (u.memEv t 0x4103 1 sn x.job pa)) ∧
          (u.raise (u.memEv t 0x4103 1 sn x.job pa)).mem = s.mem) ∧
        (x.sourced b.va = true → n < 8 → ∃ u, exec (.hbmBlockWrite t sn tag q n) s = .next u ∧
          let y := a.countHbm pa 0x70 n
          let w := (y.stall sn).putData x b.va
          let f := lineFrames y x.job b.va b.pa
          (∀ i, (i < f.1 ∨ f.1 + 64 ≤ i) → (i < f.2 ∨ f.2 + 64 ≤ i) → memRead u.mem i = memRead s.mem i) ∧
          (w.1 = 2 ^ 512 - 1 →
            (hallBase ≤ b.pa ∨ y.framePa x.job (b.va + 32) (b.pa + 32) false = y.framePa x.job b.va b.pa false + 32) → ∀ i, i < 64 →
            memRead u.mem (f.1 + i) = (lineBytes (BitVec.ofNat 512 w.2.1)).getD i 0#8))) ∧
      (x.faulted = true → x.inFlight = 0 ∨ x.issue + 165000 ≤ t →
        exec (.pageFaultTagRelease t sn tag) s = .next (a.dropTag sn tag)) ∧
      (x.faulted = false ∨ (x.inFlight ≠ 0 ∧ t < x.issue + 165000) →
        exec (.pageFaultTagRelease t sn tag) s = .next a)) ∧
    (sget (s.stall sn).tags tag = some x → x.faulted = false → t = x.issue + 165000 →
      let u := (a.dropTag sn tag).raise
        ((a.stall sn).ev sn t 0x4301 0 x.job (((x.blocks.head?).map (·.va)).getD 0))
      exec (.porterTagTimeout sn tag) s = .next (if a.pathNamed sn x then u else u.strike sn 0x4301 (some x.job))) ∧
    exec (.porterStarveTimer t sn tag) s = .next ((s.advance t).onStall t sn fun st => st.starve sn t tag) ∧
    (∀ (st : Stall) (w : Steal), sget st.tags tag = some x →
      (st.steal.find? fun v => v.tag = some tag && decide (v.since + 165000 ≤ t)) = some w →
      st.starve sn t tag = if x.starved then (st, [])
        else (st.setTag tag { x with starved := true }, [.ev (st.ev sn t 0x2201 0 x.job (bankRow w.bank w.place.rowNo))]))

/-- Run-ahead (R261, R270, R311). A block of a job that arrives in a hub's buffer is held there with the data memory serves then,
its reads, its poison and a correction counted; while the job holds more than its share, its oldest arrived block leaves the
buffer and is counted. A block that nothing awaits is not taken. -/
def Obligations.AheadBlocksArrive : Prop :=
  ∀ (s : State) (t h j pa : Nat) (ecc : Bool), s.clocked = true →
    let a := s.advance t
    let hb := a.hub h
    let awaited := lfind (fun x : AheadBlk => x.job = j && x.pa = pa && x.arrived.isNone) hb.ahead 0
    (awaited = none → exec (.aheadBlockArrival t h j ⟨pa, ecc⟩) s = .next a) ∧
    ∀ i b, awaited = some (i, b) →
      let v := a.setHub h { hb with ahead := lset hb.ahead i { b with arrived := some (a.served j b.va pa) } }
      let from_ := a.servedFrom j b.va pa
      let u := (from_.foldl (fun z p => ((z.countHbm p 0x40 1).countHbm p 0x60 (b2n (z.marked p))).chargeBlock j p 0x70) v).countHbm
        (from_.headD pa) 0x80 (b2n ecc)
      exec (.aheadBlockArrival t h j ⟨pa, ecc⟩) s = .next (u.aheadEvict h j) ∧
      ((u.hub h).ahead.countP (fun x => x.job = j) ≤ u.aheadShare h j → u.aheadEvict h j = u) ∧
      (∀ k y, u.aheadShare h j < (u.hub h).ahead.countP (fun x => x.job = j) →
        lfind (fun x : AheadBlk => x.job = j && x.arrived.isSome) (u.hub h).ahead 0 = some (k, y) →
        u.aheadEvict h j = (u.setHub h { u.hub h with ahead := ldel (u.hub h).ahead k }).count (pageNo .hdie h) 0x68 1)

/-! ### Stores and messages -/

/-- The stores' background work (R177, R184, R187, R188, R189, R193, R195, R197). A port that no engine has takes a waiting stealer
word, inbound exchange and porter in turn, the write, the read and the sidecar port of a bank by one grant: a word of the bank's job is
written, unless its ring would be overrun, a porter read answers the word, and another job's word leaves the queue unwritten and adds 1
to ARRIVALS_DROPPED; in a bank that is scrubbed or asleep its own job's words wait. The end of a scrub zeroes every word of the bank and no word of another, hands the bank to the owner named then,
and has it sleep in the next tick where it has none or is retained. A bank that has woken is awake, and its scrub begins
where it has no owner. The tester works only while it is enabled. -/
def Obligations.StoresWorkInBackground : Prop :=
  (∀ (s : State) (t sn b : Nat) (ups es : List (Nat × Bool)) (fl : List Nat), s.clocked = true →
    exec (.stealerPortGrant t sn ⟨b, ups⟩) s
      = .next (((s.advance t).onStall t sn fun st => (st.stealGrant t b ups, [])).beginIndexed t sn) ∧
    exec (.scrubComplete t sn b) s = .next ((s.advance t).onStall t sn fun st => (st.scrubDone t b, [])) ∧
    exec (.bankWakeComplete t sn b) s = .next ((s.advance t).onStall t sn fun st => (st.wakeDone t b, [])) ∧
    exec (.storeTestRegion t sn b es fl) s = .next ((s.advance t).onStall t sn fun st => (st.testRegion t b (regionFinds es fl), []))) ∧
  (∀ (st : Stall) (t b : Nat) (ups : List (Nat × Bool)),
    let x := st.upset t b ups
    st.stealGrant t b ups = ((x.servePort t b).servePort t (128 + b)).servePort t (256 + b) ∧ x.steal = st.steal ∧
    x.words = st.words ∧ x.banks = st.banks ∧ st.upset t b [] = st) ∧
  (∀ (st : Stall) (t p : Nat),
    (st.shut (p % 128) = true → (∀ w ∈ st.steal, w.port = p → st.taker (p % 128) = ownJob w.job) → st.servePort t p = st) ∧
    (st.shut (p % 128) = true → ∀ i w, lfind (fun w : Steal => w.port = p && decide (st.taker (p % 128) ≠ ownJob w.job)) st.steal 0
      = some (i, w) → st.servePort t p = st.takeSteal t i w) ∧
    (st.shut (p % 128) = false → st.idlePort t p = false → st.servePort t p = st) ∧
    (st.shut (p % 128) = false → st.idlePort t p = true → ∀ i w, st.nextSteal p = some (i, w) →
      st.servePort t p = st.takeSteal t i w) ∧
    (∀ e q, lfind (fun w : Steal => w.port = p && w.tag.isNone) st.steal 0 = some e →
      lfind (fun w : Steal => w.port = p && w.tag.isSome) st.steal 0 = some q →
      st.nextSteal p = some (if (st.bank (p % 128)).lastEx then q else e))) ∧
  (∀ (st : Stall) (t i : Nat) (w : Steal),
    let u := st.takeSteal t i w
    u.steal = ldel st.steal i ∧
    (w.read = false → st.taker w.bank ≠ ownJob w.job ∨ st.overruns w = true → u.words = st.words) ∧
    (w.read = false → st.taker w.bank ≠ ownJob w.job → (∀ m ∈ st.inbound, m.last = false) →
      u.page.counter 0x740 = satAdd64 (st.page.counter 0x740) 1) ∧
    (w.read = false → w.tag = none → st.taker w.bank = ownJob w.job → st.overruns w = false → ∀ σ a, w.place = .word σ a →
      u.words = sput (0#512, false) st.words (σ * 4096 + a) (w.data, w.poison)) ∧
    (w.read = true → u.words = st.words ∧ (st.taker w.bank = ownJob w.job → ∀ tag x, w.tag = some tag →
      sget st.tags tag = some x →
      sget u.tags tag = some { x with reads := sset x.reads w.place.id (st.placeData w.place), waiting := x.waiting - 1 }))) ∧
  ∀ (st : Stall) (sn t b : Nat),
    (∀ e, (st.bank b).scrubEnd = some e →
      (t < e → st.scrubDone t b = st) ∧
      (e ≤ t →
        let u := st.scrubDone t b
        (∀ σ a, a < 4096 → bankOf σ a = b → u.word σ a = (0#512, false)) ∧
        (∀ σ a, a < 4096 → bankOf σ a ≠ b → u.word σ a = st.word σ a) ∧
        (u.bank b).owner = st.ownerEntry b ∧ (u.bank b).scrubEnd = none ∧
        (st.ownerEntry b = 0#8 ∨ st.retained b = true → (e + 1, .sleep b) ∈ u.agenda))) ∧
    (st.shut b = false → (st.bank b).wakeEnd = none → st.regionIn b = false →
      (((st.doDue sn t (.sleep b)).1).bank b).awake = false) ∧
    (∀ e, (st.bank b).wakeEnd = some e →
      (t < e → st.wakeDone t b = st) ∧
      (e ≤ t →
        let u := st.wakeDone t b
        (u.bank b).awake = true ∧ (u.bank b).wakeEnd = none ∧
        (u.bank b).scrubEnd = if (st.bank b).owner = 0#8 then some (t + bankRows b - 1) else (st.bank b).scrubEnd)) ∧
    (∀ f, bit (st.reg 0x5F0) 0 = false → st.testRegion t b f = st)

/-- Messages that leave a stall and that reach one (R208, R211, R216 to R218, R221 to R223, R225). A SEND, BULK or GRANT leaves
the tick after its issue, a remote increment the tick after its word's completion with that word's step, numbered in its stream,
checked and with its payload as the store holds it; a BULK uses up one of the chits of its account. Flit 0 with a wrong check, with a field out of range, for
another job's ring or tally, or of another step is dropped, counted and raised, and nothing is written. A repeated alive
count ends the message; the next one is recorded and accepted, as is the first of a stream while the table has room; any other is
accepted, recorded, counted and raised; an untracked message, or one of a stream for which there is no room, is accepted and
counted. A BULK takes one of the slots promised for its ring, the next after those filled and landing, and raises CHIT_MISSING where
none is promised, which ends it. The words of an accepted message arrive flit by flit and wait for their banks; where the last
flit's check fails every word that still waits is poisoned, and 1,024 ticks without a flit give the missing words zero and poisoned. The
layout of the events' aux is read from R226 and R392 (log entry 19). -/
def Obligations.MessagesLeaveAndReachStalls : Prop :=
  (∀ (st : Stall) (sn k t dst : Nat) (w : CWord) (d : Send) (bulk : Bool),
    let x := st.slotSt k
    let n := if bulk then d.len else if d.kind = 1#3 then 1 else 0
    let pay := st.payload d.src d.word n
    let ws := if d.csum && n = 1 then [BitVec.ofNat 512 (st.tileSum d.src).toNat] else pay.map (·.1)
    let stv := n != 0 && bulk && (d.src.store = .p || d.src.store = .g)
    let status := if stv then st.tstat (tileKey d.src) else 0#32
    let h0 := sendHdr d bulk dst (pay.any (·.2)) stv
    let a := x.nextAlive h0.stream.1 dst h0.stream.2
    let h := { h0 with
      src := sn, job := (st.jobSlot k).job, stp := x.step % 4, alive := a.2.1, untracked := a.2.2, len := ws.length }
    let r := st.sendRun sn k t dst w d bulk
    r.1.words = st.words ∧
    (remoteStall dst = false → r.2 = [.emit (.msg (t + 1) (stallRoute sn dst h.kind (st.jobSlot k).cls) h.bits
      (flitBytes h.bits ws (msgCrc h.bits ws status) status))]) ∧
    (remoteStall dst = true → r.2 = [.remote (t + 1) (remotePos dst) h.bits ws (msgCrc h.bits ws status) status]) ∧
    (∀ i c, bulk = true → st.account k dst d.ring.toNat = some (i, c) →
      ((r.1.slotSt k).accounts)[i]? = some { c with count := c.count - 1 })) ∧
  (∀ (st v : Stall) (sn k t dst : Nat) (ctx : JobCtx) (w : CWord) (g : Grant),
    placeOf ctx.place g.pitch.toNat g.stall.toNat = some dst → remoteStall dst = false →
    let a := (v.slotSt k).nextAlive 2 dst g.ring.toNat
    let h := { Hdr.toward 3 dst with
      ring := g.ring.toNat, arg := g.count + 2 ^ 13 * (st.ringCfg g.ring.toNat).k, src := sn, job := (v.jobSlot k).job
      stp := (v.slotSt k).step % 4, alive := a.2.1, untracked := a.2.2, len := 0 }
    let r := (grantSpec st sn k t ctx w g).run v
    (r.1.ring g.ring.toNat).outstanding = (v.ring g.ring.toNat).outstanding + g.count ∧
    r.2 = [.emit (.msg (t + 1) (stallRoute sn dst 3 (v.jobSlot k).cls) h.bits (flitBytes h.bits [] (msgCrc h.bits [] 0#32) 0#32))]) ∧
  (∀ (st : Stall) (sn k step c due pc : Nat) (e : Eng) (ctx : JobCtx) (w : Common) (dst : Nat), w.sig.kind = 4#3 →
    placeOf ctx.place w.sig.pitch.toNat w.sig.stall.toNat = some dst → remoteStall dst = false →
    let a := (st.slotSt k).nextAlive 1 dst w.sig.index.toNat
    let h := { Hdr.toward 2 dst with
      tallyEn := true, tally := w.sig.index.toNat, inc := w.sig.value.toNat, src := sn, job := (st.jobSlot k).job
      stp := step % 4, alive := a.2.1, untracked := a.2.2, len := 0 }
    (st.complete sn k step c due pc e ctx w).2
      = [.emit (.msg (c + 1) (stallRoute sn dst 2 (st.jobSlot k).cls) h.bits (flitBytes h.bits [] (msgCrc h.bits [] 0#32) 0#32))]) ∧
  (∀ (s : SlotSt) (cls dst tgt : Nat),
    let is := fun (x : Stream) => x.kind = cls && x.dst = dst && x.target = tgt
    (∀ i x, lfind is s.streams 0 = some (i, x) → s.nextAlive cls dst tgt
      = ({ s with streams := lset s.streams i { x with next := (x.next + 1) % 256 } }, x.next, false)) ∧
    (lfind is s.streams 0 = none →
      (s.streams.length < 64 → s.nextAlive cls dst tgt = ({ s with streams := s.streams ++ [⟨cls, dst, tgt, 1⟩] }, 0, false)) ∧
      (64 ≤ s.streams.length → s.nextAlive cls dst tgt = (s, 0, true)))) ∧
  (∀ (s : State) (t sn : Nat) (b : BitVec 128) (p : List (Nat × Line)) (l : Option Line) (n : Nat) (x w : W32), s.clocked = true →
    exec (.msgFlit0Arrival t sn ⟨b, p⟩) s = .next ((s.advance t).onStall t sn fun st => st.flit0 sn t b p) ∧
    exec (.msgLastFlitArrival t sn b l x w) s = .next ((s.advance t).onStall t sn fun st => st.lastFlit sn t b l x w) ∧
    exec (.msgTruncationTimeout t sn b n) s = .next ((s.advance t).onStall t sn fun st => st.truncate sn t b n)) ∧
  ∀ (st : Stall) (sn t : Nat) (b : BitVec 128) (p : List (Nat × Line)),
    let h := hdrOf b
    let ev := fun (c : Nat) => [Eff.ev (st.ev sn t c 0 h.job h.aux)]
    (hdrOk b = false → st.flit0 sn t b p = (st.bump 0x6A8 1, ev 0x3101)) ∧
    (hdrOk b = true → h.malformed = true ∨ st.msgForeign sn h = true → st.flit0 sn t b p = (st.bump 0x740 1, ev 0x3105)) ∧
    (hdrOk b = true → h.malformed = false → st.msgForeign sn h = false →
      (h.stp ≠ st.stepOf h.job % 4 → st.flit0 sn t b p = (st.bump 0x740 1, ev 0x3107)) ∧
      (h.stp = st.stepOf h.job % 4 → ∀ go u e, st.aliveCheck sn t h = (go, u, e) →
        (go = false → st.flit0 sn t b p = (u, e)) ∧
        (go = true → h.kind ≠ 0 →
          st.flit0 sn t b p = (u.accepted t b (if h.kind = 1 then some (h.arg % 4096) else none) p, e)) ∧
        (go = true → h.kind = 0 →
          let g := u.ring h.ring
          let ix := (g.tail + g.held + g.landing.length) % 65536
          let inc := (u.msgTally h).map fun i => (i, h.inc, h.aux)
          (g.outstanding = 0 → st.flit0 sn t b p = (u, e ++ [.ev (u.ev sn t 0x3205 2 h.job h.aux)])) ∧
          (g.outstanding ≠ 0 → st.flit0 sn t b p = ((u.setRing h.ring { g with
            outstanding := g.outstanding - 1, landing := g.landing ++ [⟨ix, false, inc, []⟩] }).accepted t b (some ix) p, e))))) ∧
    (let known := sgetD st.alive (st.aliveKey h) []
     let noted : Stall := { st with alive := sset st.alive (st.aliveKey h) (sset known h.src h.alive) }
     (h.untracked = true → st.aliveCheck sn t h = (true, st.bump 0x778 1, [])) ∧
     (h.untracked = false →
       (sget known h.src = none →
         ((if h.stream.1 = 2 then 1 else 8) ≤ known.length → st.aliveCheck sn t h = (true, st.bump 0x778 1, [])) ∧
         (known.length < (if h.stream.1 = 2 then 1 else 8) → st.aliveCheck sn t h = (true, noted, []))) ∧
       ∀ v, sget known h.src = some v →
         (h.alive = v → st.aliveCheck sn t h = (false, st.bump 0x6B0 1, ev 0x3102)) ∧
         (h.alive ≠ v → h.alive = (v + 1) % 256 → st.aliveCheck sn t h = (true, noted, [])) ∧
         (h.alive ≠ v → h.alive ≠ (v + 1) % 256 → st.aliveCheck sn t h = (true, noted.bump 0x6B8 1,
           [.ev (st.ev sn t 0x3103 0 h.job (h.aux + 2 ^ 48 * v + 2 ^ 56 * h.alive))])))) ∧
    (∀ ix, let u := st.accepted t b ix p
      u.inbound = st.inbound ++ [⟨b, t, ix, 0, false, none, [], p.map (·.2), []⟩] ∧ u.words = st.words ∧
      u.agenda = st.agenda ++ p.map fun q => (t + q.1, .flit b)) ∧
    (∀ i m, st.arriving b = some (i, m) →
      (∀ d r, m.coming = d :: r → m.payload.length < h.len → st.nextFlit t b = st.takeWords t i m [(d, h.poison)]) ∧
      (∀ (l : Option Line) x w,
        let z := { m with coming := m.coming ++ l.toList }
        (x = msgCrc b (m.payload ++ z.rest) w → st.lastFlit sn t b l x w
          = (st.finishMsg t i z (z.rest.map fun d => (d, h.poison)) (if h.statusValid then some w else none) false, [])) ∧
        (x ≠ msgCrc b (m.payload ++ z.rest) w → st.lastFlit sn t b l x w
          = ((st.bump 0x6A8 1).finishMsg t i z (z.rest.map fun d => (d, h.poison)) (if h.statusValid then some w else none) true,
              [.ev ((st.bump 0x6A8 1).ev sn t 0x3101 0 h.job h.aux)]))) ∧
      (t < m.since + 1024 → st.truncate sn t b m.payload.length = (st, [])) ∧
      (m.since + 1024 ≤ t → st.truncate sn t b m.payload.length
        = (st.finishMsg t i m (m.rest.map fun _ => (0#512, true)) none false,
            [.ev (st.ev sn t 0x3104 0 h.job h.aux), .count (pageNo .cdie (sn / 128)) 0x58 1])) ∧
      (∀ l status, l ≠ [] → let u := st.finishMsg t i m l status false
        u.words = st.words ∧ ∀ (q : Nat) (d : Line × Bool), l[q]? = some d →
          let at_ := st.msgPlace m (m.payload.length + q)
          ∃ w ∈ u.steal, w.place = .word at_.1 at_.2 ∧ w.data = d.1 ∧ w.poison = d.2) ∧
      (∀ l status, ∀ w ∈ (st.finishMsg t i m l status true).steal, w.hdr = b → w.tag = none → w.poison = true))

/-! ### Bridges and arbiters -/

/-- Bridge channels (R224, R225, R228, R231). The traffic of a channel that is down goes over the next live one of its bridge. On a live
channel a flit that passes the link check with the sequence number due is taken; any other is discarded, and the first of them returns
a NAK naming the number due; a NAK replays from the flit it names, which occupies the channel's output, and the sixteenth for one flit
takes the channel down and raises CHANNEL_DOWN; retraining brings it back and touches no other channel. The model's choices here: no
further NAK while one is outstanding, one failed try for each NAK, both directions of the channel going down together, and where a replay
counts (log entry 28); the aux of CHANNEL_DOWN (log entry 19). -/
def Obligations.BridgesRetryAndFail : Prop :=
  ∀ (s : State) (t c : Nat), s.clocked = true →
    let a := s.advance t
    let ch := a.chan c
    (let k := a.carrier c
     let cc := a.chan k
     (ch.live = true → k = c) ∧
     (cc.live = false → ∀ flit rx, exec (.bridgeFlitReceive t c flit rx) s = .next a) ∧
     (cc.live = true → ∀ flit rx,
       let r := cc.transmit flit
       let u := if r.2 then (match retryCtr k with | some q => a.count q.1 q.2 1 | none => a) else a
       let good := rx.check % 65536 = linkCheck rx.bytes (rx.seq % 256) ∧ rx.seq % 256 = r.1.rxSeq
       (good → exec (.bridgeFlitReceive t c flit rx) s = .next (u.setChan k { r.1 with
         rxSeq := (r.1.rxSeq + 1) % 256, nak := false, fails := if r.1.failSeq = r.1.rxSeq then 0 else r.1.fails })) ∧
       (¬ good → r.1.nak = false → exec (.bridgeFlitReceive t c flit rx) s
         = .next ((u.setChan k { r.1 with nak := true }).emit (.bridgeNak t k r.1.rxSeq))) ∧
       (¬ good → r.1.nak = true → exec (.bridgeFlitReceive t c flit rx) s = .next (u.setChan k r.1)))) ∧
    (∀ q,
      let again := (ch.buf.dropWhile fun x => x.1 != q).map Prod.fst
      let n := if ch.failSeq = q then ch.fails + 1 else 1
      let u := (a.setChan c { ch with replay := again, nak := false, failSeq := q, fails := n }).occupy (chanArb c) (c % 8)
        (replayCycles c again.length)
      let v := u.takeDown (c / 16) (c % 8)
      let w := v.raise (v.mkEv 0x3401 1 none .cdie (joinDie (c / 16)) 0 (c / 16 + 256 * (c % 8)))
      (ch.live = true → (ch.buf.any fun x => x.1 = q) = true →
        (n < 16 → exec (.bridgeNakReceive t c q) s = .next u) ∧
        (16 ≤ n → exec (.bridgeNakReceive t c q) s
          = .next (if w.liveMask (c / 16) = 0 then w.bridgeDown (c / 16) else w))) ∧
      (ch.live = false ∨ (ch.buf.any fun x => x.1 = q) = false → exec (.bridgeNakReceive t c q) s = .next a)) ∧
    (a.boot.inspected = false → exec (.bridgeChannelRetrain t c) s = .next a) ∧
    (a.boot.inspected = true → ∃ u, exec (.bridgeChannelRetrain t c) s = .next u ∧
      ∀ k, if k / 16 = c / 16 ∧ k % 8 = c % 8 then (u.chan k).live = true else u.chan k = a.chan k)

/-- Arbiters (R225, R231, R234 to R237, R241). Requests that cannot be at the output take no part, and those of a link's transmitter are
the messages and slots that wait there. An output that a link replay occupies decides nothing; otherwise the holder moves a beat, but in a
cycle that carries none, which counts as idle; the decision for the cycle is kept and its counters rise, and a holder that it revokes
restarts. A lock younger than 64 cycles stands and its holder keeps the output; an older lock is cut and raises LOCK_OVERRUN; an unlocked
holder gives way to the requester that owns the cycle; without a holder the owner is granted; an output without holder and requests stays
idle. A message queued at an aisle port sends nothing: at a port that is UP the holder's next flit leaves by the port's arbiter, an IDLE
flit where nothing holds it; at a half-port that is UP the holder's slot. The model's choices here: cycles are numbered from bell tick 0,
and the command tells of a cycle without a beat (log entry 24); the aux of LOCK_OVERRUN (log entry 19). -/
def Obligations.ArbitersDecide : Prop :=
  (∀ (s : State) (t n out y : Nat) (l : List ArbReq) (gap : Bool), s.clocked = true →
    let a := s.advance t
    let o := sgetD a.arbs (n * 128 + out) .empty
    o.wait.hold = (o.hold.map fun h => { h with cycles := h.cycles + b2n h.locked }) ∧
    (a.arbPresent n = false ∨ a.arbOutput n out = false → exec (.arbCycleDecision t n out y l gap) s = .next a) ∧
    (a.arbPresent n = true → a.arbOutput n out = true →
      (y < o.busyTo →
        let x : ArbOut := { o.wait with cycle := y }
        exec (.arbCycleDecision t n out y l gap) s
          = .next (({ a with arbs := sset a.arbs (n * 128 + out) x.cut.1 }.count (pageNo .arb n) 0x88 1).lockCut n out x.cut.2)) ∧
      (o.busyTo ≤ y →
        let b := a.arbBeat t n out o.hold gap
        let x : ArbOut := { (if b.2 then o.beat else o.wait) with cycle := y }
        let r := b.1.arbDecide n y (b.1.requests n out l) x.cut.1
        let idle := b2n (o.hold.isSome && !b.2)
        let u := (((0x80, idle) :: r.2).foldl (fun (z : State) (q : Nat × Nat) => if q.2 = 0 then z else z.count (pageNo .arb n) q.1 q.2)
          { b.1 with arbs := sset b.1.arbs (n * 128 + out) r.1 }).lockCut n out x.cut.2
        ((∀ q ∈ r.2, q.1 ≠ 0x50) → exec (.arbCycleDecision t n out y l gap) s = .next u) ∧
        (∀ h m, x.cut.1.hold = some h → (0x50, m) ∈ r.2 → exec (.arbCycleDecision t n out y l gap) s = .next (u.revoked t n h))))) ∧
  (∀ (s : State) (t n out : Nat) (hold : Option Holder) (gap : Bool), n < 1604 →
    s.arbBeat t n out hold gap = (s, !gap) ∧ ∀ l, ∀ r ∈ s.requests n out l, ∃ q ∈ l, q.req = r.req ∧ s.arbFits n out q = true) ∧
  (∀ (s : State) (t p : Nat) (h : Holder) (i : Nat) (m : AisleMsg), p < 12 → (s.aisle p).state = 3 → h.req = m.req →
    lfind (fun x : AisleMsg => x.req = h.req) (s.aisle p).queue 0 = some (i, m) → (s.aisle p).replay.length < 512 →
    (∃ (u : State) (f : Flit) (l : List Out), s.arbBeat t (1604 + p) 0 (some h) false = (u, true) ∧ u.out = s.out ++ l ++ [.flit t p f.bytes] ∧ (m.job = none → l = []) ∧
      f.ty = m.ty ∧ f.pool = m.pool ∧ f.payload = (m.body.drop (244 * h.moved)).take 244 ∧
      f.first = decide (h.moved = 0) ∧ f.last = (decide (h.moved + 1 = m.flits) && !m.cut)) ∧
    (∃ (u : State) (f : Flit), s.arbBeat t (1604 + p) 0 none false = (u, false) ∧ u.out = s.out ++ [.flit t p f.bytes] ∧ f.ty = 0) ∧
    (∀ q, (s.queueAisle p q).out = s.out) ∧
    (∀ out l, ∀ r ∈ s.requests (1604 + p) out l, ∃ q ∈ (s.aisle p).queue, q.req = r.req ∧ q.flits = r.beats ∧
      q.flits ≤ sgetD (s.aisle p).reserved q.req 0)) ∧
  (∀ (s : State) (t p : Nat) (h : Holder) (i : Nat) (q : SlotReq), p < 4 → (s.half p).state = 2 → (s.half p).replay.length < 256 →
    readySlot (s.half p).credits h.req (s.half p).queue [] 0 = some (i, q) →
    (∀ n, (s.half p).nakAt = some n → t < n + 3072) →
    s.arbBeat t (1616 + p / 2) (p % 2) (some h) false = (s.halfBeat t p i q, true) ∧
    ((s.halfBeat t p i q).half p).queue = ldel (s.half p).queue i ∧ (∀ x, (s.sendSlot x q).out = s.out)) ∧
  (∀ (o : ArbOut) (h : Holder), o.hold = some h → h.locked = true →
    (h.cycles < 64 → o.cut = (o, none)) ∧
    (64 ≤ h.cycles → o.cut = ({ o with hold := some { h with locked := false } }, some h))) ∧
  (∀ (s : State) (n out : Nat) (h : Holder), s.lockCut n out (some h)
    = (s.count (pageNo .arb n) 0x68 1).raise (s.mkEv 0x3301 0 h.job .arb n 0 (n + 2 ^ 16 * out + 2 ^ 23 * h.req))) ∧
  ∀ (s : State) (n y : Nat) (l : List ArbReq) (o : ArbOut),
    let e := s.arbEntry n y (arbPosition n y)
    let own := (l.filter fun r => s.arbHas n r.req).filter fun r => s.owns n y r.req e
    let r := s.arbDecide n y l o
    (∀ h, o.hold = some h →
      (h.locked = true → r.1.hold = some { h with rota := s.owns n y h.req e }) ∧
      (h.locked = false → s.owns n y h.req e = true → r.1.hold = some { h with rota := true }) ∧
      (h.locked = false → s.owns n y h.req e = false → ∀ q w, e = .req q → own.head? = some w → w.withdraws = false →
        r.1.hold = some ⟨w.req, w.beats, 0, arbLocked n w.req, 0, true, w.job, w.carries⟩ ∧
          (0x50, 1) ∈ r.2 ∧ (0x58, h.moved) ∈ r.2)) ∧
    (o.hold = none → ∀ q w, e = .req q → own.head? = some w → w.withdraws = false →
      r.1.hold = some ⟨w.req, w.beats, 0, arbLocked n w.req, 0, true, w.job, w.carries⟩ ∧ sgetD r.1.losses w.req 0 = 0 ∧ r.1.off = o.off) ∧
    (o.hold = none → l = [] → r = (o, [(0x80, 1)]))

/-! ### Gradients and updates -/

/-- Gradients, updates and working copies (R317, R318, R320, R322, R323, R324, R327, R353, R354). A frame whose block lies in a group goes
to the unit of its block once its words are read, waiting while the block's residual is pending for an earlier step; a frame of none is
discarded with GRAD_ORPHAN; both are acknowledged. A GRAD message that fails its check, or is of another step or run, is discarded and
counted, and one that is right enters the ingress stores of its blocks' hubs or waits where one is full. A tensor block is updated once
every contribution is held, in a FACTORED group in ascending order only; outside a FACTORED group one with a marked contribution is
refused without a change of memory, and in one it adds nothing to SR and SC. A WCOPY message of a known group that fails its check writes
nothing and refuses its blocks; one that passes waits while a block of it is pending for another step. The rules of MAIN and FACTORED, the sums of SR and SC in ascending order, and the new
statistics after the last block are as R322 and R323 give them. The model's choices here: the event's aux (log entry 19) and the block that
the statistics plane counts as (log entry 30). -/
def Obligations.GradientsReachTheUpdate : Prop :=
  (∀ (s : State) (t sn tag i : Nat) (x : Transfer) (b : PBlock), s.clocked = true →
    let a := (s.advance t).touch t sn
    sget (a.stall sn).tags tag = some x → x.blocks[i]? = some b →
    x.grad = true → b.requested = true → b.landed = false → x.sourced b.va = true → ∀ rd fs,
      let n := (a.stall sn).stepOf x.job
      let o := (b.va - gradWindow) / 4160
      let d := (a.stall sn).frameData x b.va
      (a.groupHolding x.job n o = none →
        let u := (a.count (pageNo .update (hubOf sn)) 0x58 4160).count (pageNo .update (hubOf sn)) 0x90 1
        exec (.gradientFrameArrival t sn tag ⟨i, rd, fs⟩) s
          = .next ((u.raise (a.updEv 0x7303 (hubOf sn) x.job n 0 o)).ackFrame t sn tag i)) ∧
      (∀ g c k, a.groupHolding x.job n o = some (g, c, k) →
        (a.frameWaits n g k c = true → exec (.gradientFrameArrival t sn tag ⟨i, rd, fs⟩) s = .next a) ∧
        (a.frameWaits n g k c = false →
          exec (.gradientFrameArrival t sn tag ⟨i, rd, fs⟩) s = .next ((a.takeFrame x.job n g k c d.1 d.2 rd fs).ackFrame t sn tag i)))) ∧
  (∀ (s : State) (t p : Nat) (fs : List (Nat × Nat)) (m : Mail) (u : State), s.clocked = true →
    let a := s.advance t
    let hd := gradHdr m.body
    let hb := u.hub (portHub p)
    (a.takeLocal p (fun m => m.ty = 2) = some (m, u) →
      (gradOk m.body = false → exec (.gradMessageReceive t p) s
        = .next ((u.setHub (portHub p) { hb with gradFails := satAdd64 hb.gradFails 1 }).oweMail p m)) ∧
      (∀ jb g, gradOk m.body = true → a.job hd.job = some jb → (jb.groups.find? fun q => q.1 = hd.group) = some (hd.group, g) →
        (jb.stepExpected hd.step = false ∨ jb.runOf hd.step ≠ hd.run → exec (.gradMessageReceive t p) s
          = .next ((u.setHub (portHub p) { hb with gradDrops := satAdd64 hb.gradDrops 1 }).oweMail p m)) ∧
        (jb.stepExpected hd.step = true → jb.runOf hd.step = hd.run →
          let n := 4 * g.compBytes
          (a.ingressRoom g hd.k hd.count = false → exec (.gradMessageReceive t p) s = .next a) ∧
          (a.ingressRoom g hd.k hd.count = true → exec (.gradMessageReceive t p) s
            = .next (((List.range hd.count).foldl (fun v i => v.ingest (v.unitOf g (hd.k + i)) ⟨hd.job, hd.group, hd.k + i,
                jb.fullStep hd.step, hd.rank, hd.fmt, (m.body.drop (32 + i * n)).take n, bit hd.poison i⟩) u).oweMail p m))))) ∧
    (a.takeLocal p (fun m => m.ty = 3) = some (m, u) →
      (gradOk m.body = false → ∃ v, exec (.wcopyMessageReceive t ⟨p, fs⟩) s = .next v ∧ v.mem = s.mem) ∧
      (∀ jb g, gradOk m.body = false → a.job hd.job = some jb → (jb.groups.find? fun q => q.1 = hd.group) = some (hd.group, g) →
        ∃ (v : State) (w : Nat → List Byte), exec (.wcopyMessageReceive t ⟨p, fs⟩) s = .next (v.oweMail p m) ∧ v = (List.range hd.count).foldl (fun y i =>
          y.takeWcopy hd.job (jb.fullStep hd.step) hd.group (hd.k + i) g true (w i) fs) u) ∧
      (∀ jb g, gradOk m.body = true → a.job hd.job = some jb → (jb.groups.find? fun q => q.1 = hd.group) = some (hd.group, g) →
        jb.stepExpected hd.step = true → jb.runOf hd.step = hd.run →
        (∀ k x, k < hd.count → a.pendingFor (a.unitOf g (hd.k + k)) hd.group (hd.k + k) = some x → x ≠ jb.fullStep hd.step →
          exec (.wcopyMessageReceive t ⟨p, fs⟩) s = .next a) ∧
        ((∀ k x, k < hd.count → a.pendingFor (a.unitOf g (hd.k + k)) hd.group (hd.k + k) = some x → x = jb.fullStep hd.step) →
          let n := blockBytes g.fmt + if g.fmt.scaled then 32 else 0
          exec (.wcopyMessageReceive t ⟨p, fs⟩) s = .next (((List.range hd.count).foldl (fun v i =>
            v.takeWcopy hd.job (jb.fullStep hd.step) hd.group (hd.k + i) g (bit hd.poison i)
              ((m.body.drop (32 + i * n)).take n) fs) u).oweMail p m))))) ∧
  (∀ (s : State) (t gi k : Nat) (l : List (Nat × Block)) (fs : List (Nat × Nat)) (c : GroupCur), s.clocked = true →
    let a := s.advance t
    let g := groupOf c.record
    let h := a.unitOf g k
    sget a.sched.cur gi = some c → g.holds = true → k < g.count → c.frozenBlock k = false →
    (∀ n, a.pendingFor h gi k = some n → n = c.step) →
      (∀ acc, g.factored = true → (a.hub h).factAcc gi = some acc → acc.next ≠ k → exec (.tensorBlockUpdate t gi k ⟨l, fs⟩) s = .next a) ∧
      (a.contributions h c.job c.step gi k g = none → exec (.tensorBlockUpdate t gi k ⟨l, fs⟩) s = .next a) ∧
      (∀ cs, a.contributions h c.job c.step gi k g = some cs →
        let u := a.updateBlock h c.job c.step gi k c cs l fs
        (g.factored = false → exec (.tensorBlockUpdate t gi k ⟨l, fs⟩) s = .next u ∧
          ((cs.any fun z => z.poison) = true → u.mem = s.mem)) ∧
        (∀ acc, g.factored = true → (a.hub h).factAcc gi = some acc → acc.next = k →
          exec (.tensorBlockUpdate t gi k ⟨l, fs⟩) s = .next u ∧
          ((cs.any fun z => z.poison) = true → ∃ (v : State) (b : FactAcc), u = v.factNext h c.job c.step gi k c b fs ∧ b.sr = acc.sr ∧ b.sc = acc.sc)))) ∧
  (∀ (s : State) (h j n gi k : Nat) (c : GroupCur) (a : FactAcc) (fs : List (Nat × Nat)),
    (c.nextLive (k + 1) < (groupOf c.record).count → s.factNext h j n gi k c a fs = s.setFact h { a with next := c.nextLive (k + 1) })) ∧
  (∀ (s : State) (j n gi k : Nat) (g : Group) (w : List Byte) (fs : List (Nat × Nat)),
    let h := s.unitOf g k
    let u := s.setHub h { s.hub h with await := (s.hub h).await.filter fun q => q != (gi, k, n) }
    s.takeWcopy j n gi k g true w fs = (u.setHub h ((u.hub h).keepFrame gi k n)).raise (u.updEv 0x7301 h j n gi k)) ∧
  (∀ (a : FactAcc) (co : Coef) (k : Nat) (xs : List W32) (x : W32),
    let b := a.enter co k xs
    let i := 32 * (k / co.g.colsB) + xs.length / 32
    let j := 32 * (k % co.g.colsB) + xs.length % 32
    let q := ffma x x co.g.eps1
    a.enter co k [] = a ∧
    a.enter co k (xs ++ [x]) = { b with sr := sset b.sr i (fadd (sgetD b.sr i 0#32) q), sc := sset b.sc j (fadd (sgetD b.sc j 0#32) q) }) ∧
  (∀ (a : FactAcc) (co : Coef),
    let nr := 32 * co.g.rowsB
    let nc := 32 * co.g.colsB
    let z := a.newStats co
    z.length = nr + nc + 1 ∧
    (∀ i, i < nr → z[i]? = some (ffma co.g.beta2 (a.stat i) (fmul co.ob2 (fmul (sgetD a.sr i 0#32) (fdiv one32 (fnat nc)))))) ∧
    (∀ j, j < nc → z[nr + j]? = some (ffma co.g.beta2 (a.stat (nr + j)) (fmul co.ob2 (fmul (sgetD a.sc j 0#32) (fdiv one32 (fnat nr)))))) ∧
    z[nr + nc]? = some (fmul ((z.take nr).foldl fadd 0#32) (fdiv one32 (fnat nr)))) ∧
  (∀ (co : Coef) (x w m sri scj rinv : W32),
    let vr := fmul (fmul sri scj) rinv
    let v1 := ffma co.g.beta2 vr (fmul co.ob2 (ffma x x co.g.eps1))
    let m1 := if co.g.keepM then ffma co.g.beta1 m (fmul co.ob1 x) else x
    let y := fdiv (fmul m1 co.c1) (fadd (fsqrt (fmul v1 co.c2)) co.g.eps)
    let w1 := ffma (fneg co.eta) (ffma co.g.lambda w y) w
    co.factored x w m sri scj rinv = ⟨m1, v1, w1, nonFinite vr || [x, m1, v1, y, w1].any nonFinite⟩) ∧
  ∀ (co : Coef) (x w m v : W32),
    let m1 := ffma co.g.beta1 m (fmul co.ob1 x)
    let v1 := ffma co.g.beta2 v (fmul co.ob2 (fmul x x))
    let y := fdiv (fmul m1 co.c1) (fadd (fsqrt (fmul v1 co.c2)) co.g.eps)
    let w1 := ffma (fneg co.eta) (ffma co.g.lambda w y) w
    co.main x w m v = ⟨m1, v1, w1, [x, m1, v1, y, w1].any nonFinite⟩

/-! ### Provisional steps -/

/-- The end of a provisional step (R292 to R295, R312, R330). The schedule engine samples the groups of a step that has started; a step whose stalls
and updates are done closes, unless the values sent and received by its checked streams differ (which those of other devices are comes with
the command: log entry 46); the flag word goes to every peer at g − Λ or at the close tick; a
peer's word replaces its earlier one and may choose the guard tick; words still missing 512 ticks before it defer the resolution; the
resolution is armed in the round before the guard tick: committed where the words of all devices miss the guard mask. Without a
planned round the guard tick is the first round boundary a lead after the close. An arming that cannot reach every hub and die in time
moves the guard tick to a later boundary, with GUARD_LATE; by how many rounds comes with the command (R294). -/
def Obligations.StepsCloseAndResolve : Prop :=
  (∀ (s : State) (t j : Nat) (jb : Job) (x : StepSt), s.clocked = true →
    let a := s.advance t
    s.job j = some jb →
      ((jb.steps.find? fun y => y.start != 0 && !y.sched && y.abort.isNone) = some x →
        let u := (s.advance x.start).computeSchedule j x.n
        exec (.scheduleCompute j) s = .next (u.setJob j { jb with steps := jb.steps.map fun y =>
          if y.n = x.n then { y with sched := true, groups := u.liveGroups j x.n } else y })) ∧
      ((jb.steps.find? fun y => y.closed.isNone) = some x → x.sched = true → x.abort = none →
        ∀ sends recvs,
        (a.jobActive j = true ∨ a.updatesDone j x.n = false → exec (.stepClose t ⟨j, sends, recvs⟩) s = .next a) ∧
        (a.jobActive j = false → a.updatesDone j x.n = true →
          (∀ aux, a.streamFault j jb (sends, recvs) = some aux → exec (.stepClose t ⟨j, sends, recvs⟩) s
            = .next (a.raise (a.mkEv 0x3106 2 (some j) .clerk 0 (x.n % 2 ^ 32) aux))) ∧
          (a.streamFault j jb (sends, recvs) = none → exec (.stepClose t ⟨j, sends, recvs⟩) s = .next (((a.setJob j
            { jb.updStep x.n (fun y => { y with closed := some t }) with lastClose := t }).freeAhead j).chooseGuard t j x.n)))) ∧
      ((jb.steps.find? fun y => y.closed.isSome && y.due.isNone && !y.deferred) = some x → jb.allWords x = false →
        exec (.guardPeerDeadline j) s
          = .next ((s.advance ((jb.guardTick x x.lastClose).1 - 512)).setJob j
              (jb.updStep x.n fun y => { y with deferred := true }))) ∧
      (s.clerk.serving = true →
        (∀ e, (jb.steps.find? fun y => y.closed.isSome && !y.sent && y.abort.isNone) = some x → x.closed = some e →
          let g := max ((jb.guardTick x e).1 - jb.lead) e
          exec (.flagWordSend j) s = .next (jb.peers.foldl (fun z p => z.sendClerk p 1 j x.n
            (leBytes 2 x.word ++ leBytes 2 0 ++ leBytes 8 e)) ((s.advance g).setJob j (jb.updStep x.n fun y => { y with sent := true })))) ∧
        (∀ p m u, a.takeLocal p (clerkMail 1) = some (m, u) → mailJob m = j →
          (jb.steps.find? fun y => y.n % 2 ^ 48 = clerkStep m) = some x →
          let w := ((routeOf m.body).src, leAt m.body 16 2, leAt m.body 20 8)
          exec (.flagWordReceive t p) s = .next ((u.setJob j (jb.updStep x.n fun y => { y with
            peers := (y.peers.filter fun q => q.1 != w.1) ++ [w] })).chooseGuard t j x.n)) ∧
        (∀ g, (jb.steps.find? fun y => y.armed.isNone) = some x → x.due = some g → x.abort = none →
          (t + jb.lead < g → exec (.guardArm t j 0) s = .next a) ∧
          (g ≤ t + jb.lead → t < g → g ≤ t + 4096 → exec (.guardArm t j 0) s = .next (a.armStep j x g)) ∧
          (∀ d, d ≠ 0 → t + jb.lead < g → exec (.guardArm t j d) s = .next a) ∧
          (∀ d, d ≠ 0 → g ≤ t + jb.lead → exec (.guardArm t j d) s
            = .next (a.postponeGuard j x.n ((if t < g then g else (t / 4096 + 1) * 4096) + 4096 * d)))))) ∧
  (∀ (s : State) (j n g : Nat) (jb : Job), s.job j = some jb →
    s.postponeGuard j n g = (s.setJob j (jb.updStep n fun y => { y with due := some g })).guardLate j n) ∧
  (∀ (s : State) (t j i g : Nat) (jb : Job) (x : StepSt), s.freeResolve = some i → s.job j = some jb →
    (s.armStep j x g = (s.setJob j (jb.updStep x.n fun y => { y with armed := some (g, x.commits) })).writeResolve
      i j x.n x.commits) ∧
    (x.commits = true ↔ (x.peers.foldl (fun a q => a ||| q.2.1) (x.flags ||| x.carried)) &&& x.guard = 0)) ∧
  (∀ (s : State) (j : Nat) (jb : Job) (far : List (Nat × W32) × List (Nat × W32)),
    (jb.streamCheck = false → s.streamFault j jb far = none) ∧
    (jb.streamCheck = true → (s.streamFault j jb far = none ↔ ∀ x : W32,
      (s.foldValues j jb far).1.countP (fun q => q.2 = x) = (s.foldValues j jb far).2.countP (fun q => q.2 = x)))) ∧
  ∀ (jb : Job) (x : StepSt) (e : Nat), x.gr = 0 →
    (jb.guardTick x e).1 % 4096 = 0 ∧ e + jb.lead ≤ (jb.guardTick x e).1 ∧ (jb.guardTick x e).1 < e + jb.lead + 4096

/-! ### Aisle ports -/

/-- Flits and messages of a port (R338 to R340, R342, R355, R358, R359, R362, R381, R413). On an UP port a flit that fails its check is
counted and a NAK asked for; the sequenced flit that is due joins its message and is acknowledged, another asks for a NAK; a NAK asked for
rides on one flit and, while the flit due has not come, again 4,096 ticks later. In another state of a locked link the arrival of a good
flit is noted and a bad one counted. Flits that were not acknowledged for 1,024 slots go again; that this replay restarts the timer is
the model's choice (log entry 36). The oldest message received is dropped where it has crossed seven links or has no valid entry, else
delivered where it is this device's, or sent on one link further; a word of position 0 waits while the Clerk restarts (the words' types
are the model's, log entry 38). The waiting messages of a job suspended for 330,000 ticks move behind those of its requester's running
jobs and give their reservation back, at an aisle port and at a half-port (12 to 15: the model's numbers, log entry 71), unless a grant
of theirs is under way. -/
def Obligations.AisleFlitsAndMessages : Prop :=
  (∀ (s : State) (t p : Nat), s.clocked = true →
    let a := s.advance t
    let l := a.aisle p
    let pg := pageNo .aisle p
    (∀ b, l.state = 3 →
      let f := flitOf b
      (flitOk b = false → exec (.aisleFlitReceive t p b) s = .next ((a.count pg 0x60 1).nakAisle t p)) ∧
      (flitOk b = true →
        let u := if f.nak then (a.setAisle p (l.takeAck t f)).replayPort t p else a.setAisle p (l.takeAck t f)
        let v := u.endPart t p f
        (f.ty = 0 ∨ 4 < f.ty → exec (.aisleFlitReceive t p b) s = .next (u.reserveAisle p)) ∧
        (1 ≤ f.ty → f.ty ≤ 4 → f.seq = l.rxSeq → exec (.aisleFlitReceive t p b) s
          = .next (((v.setAisle p ((v.aisle p).join f)).count pg 0x48 1).reserveAisle p)) ∧
        (1 ≤ f.ty → f.ty ≤ 4 → f.seq ≠ l.rxSeq → exec (.aisleFlitReceive t p b) s = .next ((u.nakAisle t p).reserveAisle p)))) ∧
    (∀ b, l.state ≠ 3 →
      (l.state ∈ [2, 5, 6] → flitOk b = true → exec (.aisleFlitReceive t p b) s = .next (a.setAisle p { l with goodAt := t })) ∧
      (l.state ∈ [2, 5, 6] → flitOk b = false → exec (.aisleFlitReceive t p b) s = .next (a.count pg 0x60 1)) ∧
      (l.state ∉ [2, 5, 6] → exec (.aisleFlitReceive t p b) s = .next a)) ∧
    (l.inbox = [] → exec (.aisleMessageReceive t p) s = .next a) ∧
    (∀ m r, l.inbox = m :: r →
      let u := a.setAisle p { l with inbox := r }
      let v := u.oweMail p m
      let w := routeOf m.body
      let e := u.route w.dst
      let ty := leAt m.body 8 1
      let mine := w.dst = u.pins.pos.toNat ∨ e.2.2.2.1 = true
      let word := ty = suspendType ∨ ty = soloType
      (s.clerk.serving = false → m.ty = 4 → word → mine → exec (.aisleMessageReceive t p) s = .next a) ∧
      (s.clerk.serving = true → w.hops = 7 ∨ e.2.2.1 = false → exec (.aisleMessageReceive t p) s = .next (v.count pg 0x98 1)) ∧
      (w.hops ≠ 7 → e.2.2.1 = true → mine →
        (m.ty = 1 → exec (.aisleMessageReceive t p) s = .next (v.enterMesh t p 64 m.body)) ∧
        (m.ty = 4 → ty = 0 ∨ 4 < ty → ¬ word → exec (.aisleMessageReceive t p) s = .next v) ∧
        (m.ty = 4 → word → s.clerk.serving = true → exec (.aisleMessageReceive t p) s = .next (v.sideWord m)) ∧
        (m.ty = 2 ∨ m.ty = 3 ∨ (m.ty = 4 ∧ 1 ≤ ty ∧ ty ≤ 4) →
          let x := u.setAisle p { u.aisle p with local_ := (u.aisle p).local_ ++ [m] }
          exec (.aisleMessageReceive t p) s = .next (if m.pool = 4 then x else x.oweMail p m))) ∧
      (w.hops ≠ 7 → e.2.2.1 = true → w.dst ≠ u.pins.pos.toNat → e.2.2.2.1 = false →
        (v.portTo w.dst m.ty w.alt = none → exec (.aisleMessageReceive t p) s = .next (v.count pg 0x98 1)) ∧
        (∀ q, v.portTo w.dst m.ty w.alt = some q → exec (.aisleMessageReceive t p) s
          = .next ((v.count pg 0x90 m.flits).queueAisle q ⟨(aisleReq m.ty m.pool).1, m.pool, m.ty, some (mailJob m),
              RouteWord.bytes { w with hops := w.hops + 1 } ++ m.body.drop 8, false⟩)))) ∧
    (l.replay ≠ [] → l.state = 3 →
      (max l.ackAt l.retryAt + 4096 ≤ t →
        exec (.aisleAckTimeout t p) s = .next ((a.setAisle p { l with retryAt := t }).replayPort t p)) ∧
      (t < max l.ackAt l.retryAt + 4096 → exec (.aisleAckTimeout t p) s = .next a)) ∧
    (∀ n, l.nakAt = some n → l.state = 3 → n + 4096 ≤ t →
      exec (.aisleNakRepeat t p) s = .next (a.setAisle p { l with nakAt := some t, nakOwed := true })) ∧
    (∀ n, l.nakAt = some n → t < n + 4096 → exec (.aisleNakRepeat t p) s = .next a) ∧
    (∀ m r, p < 12 → l.queue = m :: r → (a.holder (1604 + p) 0).map Holder.req ≠ some m.req → a.longSuspended t m.job = true →
      let rest := l.queue.filter fun x => !(x.req = m.req && x.job = m.job)
      let behind := fun (x : AisleMsg) => decide (x.req = m.req) && a.isSuspended x.job
      let queue := rest.filter (fun x => !behind x) ++ l.queue.filter (fun x => x.req = m.req && x.job = m.job) ++ rest.filter behind
      exec (.creditRevoke t p) s = .next ((((a.setAisle p { l with
        queue := queue, credits := lmod l.credits m.pool (· + sgetD l.reserved m.req 0), reserved := sdel l.reserved m.req }).count pg
          0xA0 1).revokedEv t m.job (pageId .aisle p)).reserveAisle p)) ∧
    (p < 12 → (∀ m ∈ l.queue, a.longSuspended t m.job = false) → exec (.creditRevoke t p) s = .next a) ∧
    (∀ m r, 12 ≤ p → (a.half (p - 12)).queue = m :: r → 1 ≤ m.pool → m.pool ≤ 3 →
      (a.holder (1616 + (p - 12) / 2) ((p - 12) % 2)).map Holder.req ≠ some m.requester → a.longSuspended t m.job = true →
      let f := a.half (p - 12)
      let rest := f.queue.filter fun x => !(x.pool = m.pool && x.job = m.job)
      let behind := fun (x : SlotReq) => decide (x.pool = m.pool) && a.isSuspended x.job
      let queue := rest.filter (fun x => !behind x) ++ f.queue.filter (fun x => x.pool = m.pool && x.job = m.job)
        ++ rest.filter behind
      exec (.creditRevoke t p) s = .next (((a.setHalf (p - 12) { f with queue := queue }).count (lemefPage (p - 12)) 0x78 1).revokedEv
        t m.job (pageId .lemef ((p - 12) / 2))))) ∧
  (∀ (s : State) (t p : Nat) (f : Flit),
    ((s.aisle p).nakAt = none → s.nakAisle t p = s.setAisle p { s.aisle p with nakAt := some t, nakOwed := true }) ∧
    ((s.aisle p).nakAt ≠ none → s.nakAisle t p = s) ∧
    (∃ g : Flit, (s.putFlit t p f).out = s.out ++ [.flit t p g.bytes] ∧ g.nak = (s.aisle p).nakOwed ∧ g.ty = f.ty ∧
      g.payload = f.payload ∧ g.ackValid = (s.aisle p).acked) ∧
    ((s.putFlit t p f).aisle p).nakOwed = false) ∧
  (∀ (s : State) (m : Mail),
    ((routeOf m.body).src ≠ 0 → s.sideWord m = s) ∧
    ((routeOf m.body).src = 0 → leAt m.body 8 1 = suspendType → s.sideWord m = s.suspendJob (mailJob m) false) ∧
    ((routeOf m.body).src = 0 → leAt m.body 8 1 = soloType → s.sideWord m = s.setSolo (mailJob m))) ∧
  ∀ (s : State) (t j : Nat) (jb : Job) (x : W32), s.job j = some jb →
    (s.longSuspended t (some j) = true ↔ jb.suspended = true ∧ ∃ u, jb.suspAt = some u ∧ u + 330000 ≤ t) ∧
    (jb.revoked = true → s.revokedEv t (some j) x = s) ∧
    (jb.revoked = false → s.revokedEv t (some j) x
      = (s.setJob j { jb with revoked := true }).raise ⟨0x6104, 0, some j, x, 0, t, jb.tenant.setWidth 64⟩)

/-- Training and loss of a port (R339, R348, R360). Lanes that lock start the IDENT exchange: sixteen IDENTs leave, 256 ticks
apart; after the sixteenth received the latency is the mean of their results and the port is UP, or MISWIRED where the peer is
not the one expected. A lane that loses its lock and a link that times out take the port to LOST: a message cut off goes on as far as
it came, the buffers are emptied, LINK_LOST is raised, the fence bit of LINK_CONFIG is set in a COMMIT, the port leaves every ROUTE entry,
and of each open job whose traffic crossed the port, or whose peer it led to, the steps abort where the job is still reachable, else the
job fails; a job bound to its partner over the port goes on alone. When an IDENT leaves among the commands, that a lane lost in TRAINING
loses nothing, and the causes' numbers are the model's choices (log entry 37), as is what becomes of a message cut off (log entry 68) and
which way a new route takes (log entry 52). -/
def Obligations.AislePortsTrainAndFail : Prop :=
  (∀ (s : State) (t p : Nat), s.clocked = true →
    let a := s.advance t
    let l := a.aisle p
    (l.state = 1 → a.portPresent p = true → exec (.aisleLanesLocked t p) s = .next ((a.setAisle p { l with
      state := 2, lanes := 255, idents := [], identTx := 0, identRx := 0, lockAt := cdiv t 4 * 4, identsOut := 0, goodAt := t
      partFlits := 0 }).dueIdents t p 16)) ∧
    (l.state ≠ 1 → exec (.aisleLanesLocked t p) s = .next a) ∧
    (∀ b, l.state ≠ 2 → exec (.identReceive t p b) s = .next a) ∧
    (∀ b, l.state = 2 → flitOk b = false → exec (.identReceive t p b) s = .next (a.count (pageNo .aisle p) 0x60 1)) ∧
    (∀ b, l.state = 2 → flitOk b = true → (flitOf b).ty = 6 →
      let y := (flitOf b).payload
      let v := a.dueIdents t p 16
      let l' := { v.aisle p with
        identTx := leAt y 0 8, identRx := t, peerPos := leAt y 20 1 % 64, peerPort := leAt y 21 1 % 16
        peerSide := bit (leAt y 22 1) 0, peerValid := true, goodAt := t
        idents := (v.aisle p).idents ++ [(t : Int) - leAt y 8 8 - leAt y 16 4] }
      let u := v.setAisle p { l' with latency := latencyOf l'.idents }
      let c := u.live .aisle p 0x104
      (l'.idents.length < 16 → exec (.identReceive t p b) s = .next (v.setAisle p l')) ∧
      (16 ≤ l'.idents.length → bit c 14 = true → bits c 9 4 ≠ l'.peerPos →
        let z := u.setAisle p { u.aisle p with state := 5 }
        exec (.identReceive t p b) s = .next (z.raise (z.linkEv t 0x5103 1 none p 0))) ∧
      (16 ≤ l'.idents.length → bit c 14 = false ∨ bits c 9 4 = l'.peerPos →
        exec (.identReceive t p b) s = .next (u.enterUp t p))) ∧
    (∀ n, a.portPresent p = true →
      let u := a.setAisle p { l with lanes := l.lanes - 2 ^ (n % 8) * b2n (bit l.lanes (n % 8)) }
      exec (.aisleLaneLockLoss t p n) s = .next (if l.state ∈ [2, 3, 5, 6] then u.loseAisle t p 1 else u)) ∧
    (∀ n, a.portPresent p = false → exec (.aisleLaneLockLoss t p n) s = .next a) ∧
    (l.state ∉ [2, 3, 5, 6] → exec (.aisleLinkTimeout t p) s = .next a) ∧
    (l.state ∈ [2, 3, 5, 6] →
      ((l.replay.any fun f => decide (16 ≤ f.tries)) = true → exec (.aisleLinkTimeout t p) s = .next (a.loseAisle t p 2)) ∧
      ((l.replay.any fun f => decide (16 ≤ f.tries)) = false → l.replay ≠ [] → l.ackAt + 330000 ≤ t →
        exec (.aisleLinkTimeout t p) s = .next (a.loseAisle t p 3)) ∧
      (l.replay = [] → l.goodAt + 330000 ≤ t → exec (.aisleLinkTimeout t p) s = .next (a.loseAisle t p 4)) ∧
      (l.replay = [] → t < l.goodAt + 330000 → exec (.aisleLinkTimeout t p) s = .next a))) ∧
  (∀ (s : State) (t p n : Nat), (s.aisle p).state = 2 →
    let x := (s.aisle p).lockAt + 256 * (s.aisle p).identsOut
    ((s.aisle p).identsOut < 16 → x < t + 4 → s.dueIdents t p (n + 1)
      = ((s.setAisle p { s.aisle p with identsOut := (s.aisle p).identsOut + 1 }).sendIdent x p).dueIdents t p n) ∧
    (16 ≤ (s.aisle p).identsOut ∨ t + 4 ≤ x → s.dueIdents t p n = s)) ∧
  (∀ (s : State) (t p c : Nat),
    let u := (if (s.aisle p).state = 3 then s.passPart t p else s).freeOutput (1604 + p) 0
    let v := u.setAisle p { u.aisle p with
      state := 4, replay := [], credits := [0, 0, 0, 0, 0], owed := [0, 0, 0, 0, 0], reserved := [], part := [], partFlits := 0
      nakAt := none, nakOwed := false }
    let w := v.raise (v.linkEv t 0x5102 1 none p c)
    let x := (w.shadow .aisle p 0x104 (w.shadowOf .aisle p 0x104 ||| 8)).requestCommit .aisle p
    let y := x.unroute p
    let one := fun (j : Nat) (jb : Job) (z : State) =>
      let z := if z.pins.pos = 0#6 ∧ (jb.twin.any fun b => b.path = p) = true then z.twinSolo j else z
      if (s.aisle p).peerValid = true ∧ jb.peers.contains (s.aisle p).peerPos = true then z.raise (z.linkEv t 0x5102 2 (some j) p c)
      else if x.crosses jb p = false then z
      else if z.reachable jb = true then z.abortSteps j 0x5102
      else z.raise (z.linkEv t 0x5102 2 (some j) p c)
    s.loseAisle t p c = y.openJobs.foldl (fun z j => match z.job j with
      | none => z
      | some jb => one j jb z) y) ∧
  (∀ (s : State) (p q : Nat), (s.aisle p).state ≠ 3 → q < 64 →
    let r := (s.unroute p).route q
    r.2.2.1 = true → r.2.2.2.1 = false → r.1 ≠ p ∧ r.2.1 ≠ p) ∧
  (∀ (s : State) (t p c : Nat), s.openJobs = [] → (s.aisle p).partFlits = 0 → (s.loseAisle t p c).aisle p = { s.aisle p with
    state := 4, replay := [], credits := [0, 0, 0, 0, 0], owed := [0, 0, 0, 0, 0], reserved := [], part := [], partFlits := 0
    nakAt := none, nakOwed := false }) ∧
  ∀ (s : State) (j : Nat) (jb : Job) (w : TwinSt), s.job j = some jb → jb.twin = some w →
    (w.solo = true → s.twinSolo j = s) ∧
    (w.solo = false → s.twinSolo j = (((s.setJob j { jb with twin := some { w with solo := true } }).tellSide j soloType).raise
      (s.mkEv 0x7202 1 (some j) .clerk 0 (w.lastStep % 2 ^ 32) 0)))

/-! ### Seals and aborts -/

/-- Seals and aborts (R353, R357 to R359). Position 0 keeps the SEAL of each device of its side and, with the last of them,
sends its table and compares it; another position takes none. The partner's table comes over the twin port or with the command, where
the companion carries it. Two tables that differ raise SEAL_MISMATCH once both are at hand and under SUSPEND suspend the job here and on
the side's other devices, which are told; equal tables raise nothing; a step that neither side ran is not compared. At position 0 a
partner's table that is late ends the comparison with TWIN_SOLO, and the side's other devices are told; on those the command does
nothing. A peer's ABORT clears the step's ingress entries and counts its run up, and aborts the job's steps where the step was accepted.
How position 0 tells its side, and when its own table is complete, are the model's choices (log entry 38). -/
def Obligations.SealsAndAborts : Prop :=
  (∀ (s : State) (t p j n : Nat) (l : List Byte) (m : Mail) (u : State) (jb : Job) (w : TwinSt), s.clocked = true →
    let a := s.advance t
    (s.clerk.serving = true →
      (a.takeLocal p (clerkMail 2) = some (m, u) →
        (u.pins.pos = 0#6 → exec (.sealReceive t p) s = .next (u.takeSeal t (mailJob m) (clerkStep m) (routeOf m.body).src
          (leAt m.body 16 1) (BitVec.ofNat 64 (leAt m.body 24 8)))) ∧
        (u.pins.pos ≠ 0#6 → exec (.sealReceive t p) s = .next u)) ∧
      (a.takeLocal p (clerkMail 4) = some (m, u) → u.job (mailJob m) = some jb →
        let v := (u.clearIngress (mailJob m) (clerkStep m)).setJob (mailJob m) (jb.countRun (clerkStep m))
        ((∃ x ∈ jb.steps, x.n % 2 ^ 48 = clerkStep m) → exec (.abortReceive t p) s = .next (v.abortSteps (mailJob m) 0)) ∧
        ((∀ x ∈ jb.steps, x.n % 2 ^ 48 ≠ clerkStep m) → exec (.abortReceive t p) s = .next v)) ∧
      (s.job j = some jb → jb.twin = some w →
        (s.pins.pos ≠ 0#6 → exec (.sealTableTimeout t j) s = .next a) ∧
        (s.pins.pos = 0#6 → (w.doneAt.any fun q => decide (q.2 + w.timeout * 3300000 ≤ t)) = true →
          exec (.sealTableTimeout t j) s = .next (a.twinSolo j)) ∧
        (s.pins.pos = 0#6 → (w.doneAt.any fun q => decide (q.2 + w.timeout * 3300000 ≤ t)) = false →
          exec (.sealTableTimeout t j) s = .next a) ∧
        (∀ k b, (w.path < 12 ∧ a.takeTable w.path j n = some (k, b)) ∨ (12 ≤ w.path ∧ k = l ∧ b = a) →
          (s.pins.pos = 0#6 → w.solo = false → w.interval ≠ 0 → n % w.interval = 0 →
            exec (.sealTableReceive t j n l) s = .next ((b.setJob j { jb with twin := some { w with
              partner := (w.partner.filter fun q => q.1 != n) ++ [(n, k)] } }).compareSeals j n)) ∧
          (s.pins.pos ≠ 0#6 ∨ w.solo = true ∨ w.interval = 0 ∨ n % w.interval ≠ 0 →
            exec (.sealTableReceive t j n l) s = .next b)) ∧
        (w.path < 12 → a.takeTable w.path j n = none → exec (.sealTableReceive t j n l) s = .next a)))) ∧
  (∀ (s : State) (p j n : Nat) (k : List Byte) (b : State), s.takeTable p j n = some (k, b) → ∃ m, s.takeLocal p (fun x =>
    clerkMail 3 x && mailJob x = j && clerkStep x = n) = some (m, b) ∧ k = (m.body.drop 16).take 1024) ∧
  (∀ (s : State) (j ty : Nat) (jb : Job), s.job j = some jb →
    s.tellSide j ty = jb.peers.foldl (fun z q => z.sendClerk q ty j 0 []) s) ∧
  (∀ (jb : Job) (n : Nat),
    ((∃ x ∈ jb.steps, x.n % 2 ^ 48 = n) → jb.countRun n = { jb with
      steps := jb.steps.map fun x => if x.n % 2 ^ 48 = n then { x with run := (x.run + 1) % 16 } else x }) ∧
    ((∀ x ∈ jb.steps, x.n % 2 ^ 48 ≠ n) → jb.stepExpected (n % 65536) = true →
      jb.countRun n = { jb with runs := [(n, (jb.runBefore n + 1) % 16)] })) ∧
  ∀ (s : State) (t j n : Nat) (jb : Job) (w : TwinSt), s.job j = some jb → jb.twin = some w →
    (∀ pos st v,
      let w' := { w with seals := (w.seals.filter fun x => !(x.1 = n && x.2.1 = pos)) ++ [(n, pos, st, v)] }
      let all := (s.pins.pos.toNat :: jb.peers).all fun q => w'.seals.any fun x => x.1 = n && x.2.1 = q
      (all = false ∨ (w.doneAt.any fun q => q.1 = n) = true →
        s.takeSeal t j n pos st v = s.setJob j { jb with twin := some w' }) ∧
      (all = true → (w.doneAt.any fun q => q.1 = n) = false → s.takeSeal t j n pos st v
        = ((s.setJob j { jb with twin := some { w' with doneAt := w.doneAt ++ [(n, t)] } }).sendTable j w.path n
            (w'.table n)).compareSeals j n)) ∧
    (∀ l, w.solo = false → (w.doneAt.any fun q => q.1 = n) = true → (w.partner.find? fun q => q.1 = n) = some (n, l) →
      let d := tableDiff (w.table n) l
      let u := s.setJob j { jb with twin := some { w with
        seals := w.seals.filter fun x => x.1 != n
        doneAt := w.doneAt.filter fun q => q.1 != n
        partner := w.partner.filter fun q => q.1 != n
        lastStep := if (List.range 64).any (fun q => (w.table n).getD (16 * q) 0#8 != 0#8 || l.getD (16 * q) 0#8 != 0#8) then n else w.lastStep
        mismatch := w.mismatch || d != 0 } }
      let v := (u.record (u.mkEv 0x7201 0 (some j) .clerk 0 (n % 2 ^ 32) d)).post
      (d = 0 → s.compareSeals j n = u) ∧
      (d ≠ 0 → w.policy ≠ 1 → s.compareSeals j n = v) ∧
      (d ≠ 0 → w.policy = 1 → s.compareSeals j n = (v.suspendJob j false).tellSide j suspendType))

/-! ### The Clerk and its rings -/

/-- The Clerk's service and its watchdog (R413, R433, R436, R471). An INVAL of the doorline drops it from the line cache, is acknowledged
and has it read again; a poll reads it too, from the line cache where that holds it, and refreshes the watchdog (the refresh is the
model's reading, log entry 51); while the device is RUNNING with rings enabled every millisecond counts the heartbeat up and posts the
status line; a watchdog that was not refreshed for 33,000,000 ticks restarts the primary core with CLERK_RESTART, and a second restart
within a second names the next standby core primary; what the Clerk does about events waits until it serves again and is then done in
order. -/
def Obligations.ClerkServesAndRestarts : Prop :=
  (∀ (s : State) (l : List Byte) (d : List (List Byte)),
    (∀ b, s.lineCache = true → s.cached (s.lemefReg 0x128) = some b → s.readDoor l d = s.readDoor b d) ∧
    (s.ringsOn = false → s.readDoor l d = s) ∧
    (s.boot.dev ≠ 0 → s.clerk.serving = true → s.refreshDog
      = { s with clerk := { s.clerk with refresh := s.bell.now } }.count (pageNo .clerk 0) 0x68 1)) ∧
  (∀ (s : State) (j c n : Nat), s.clerk.serving = false →
    s.failJob j c = { s with clerk := { s.clerk with waiting := s.clerk.waiting ++ [.fail j c] } } ∧
    s.abortSteps j c = { s with clerk := { s.clerk with waiting := s.clerk.waiting ++ [.abort j c true] } } ∧
    s.fence n c = { s with clerk := { s.clerk with waiting := s.clerk.waiting ++ [.fence n c] } }) ∧
  (∀ (s : State) (h k : Nat), s.nextClerk h = some k →
    (s.nextPrimary h).clerk.primary = k ∧ h < k ∧ s.clerk.cores.getD k 0 = 1 ∧ ∀ i, h < i → i < k → s.clerk.cores.getD i 0 ≠ 1) ∧
  ∀ (s : State) (t h : Nat) (l : List Byte) (d : List (List Byte)), s.clocked = true →
    let a := s.advance t
    (a.lineCache = true → (a.half h).state = 2 →
      let x := a.lemefReg 0x128
      let q := a.takeInval h x
      let u := q.2.count (lemefPage h) 0x70 1
      let v := { u with rings := { u.rings with lines := u.rings.lines.filter fun y => y.1 != x } }
      exec (.doorlineInval t h l d) s = .next ((v.sendSlot h ⟨7, q.1.2, q.1.1, x, 0#64, [], 0, none⟩).readDoor l d)) ∧
    (a.lineCache = false ∨ (a.half h).state ≠ 2 → exec (.doorlineInval t h l d) s = .next a) ∧
    exec (.doorlinePoll t l d) s = .next ((a.refreshDog).readDoor l d) ∧
    (let b := s.advance s.power.nextBeat
     let u := { b with power := { b.power with nextBeat := s.power.nextBeat + 3300000 } }
     (u.boot.dev ≠ 2 ∨ bit (u.live .lemef 0 0x13C) 0 = false → exec .statusHeartbeat s = .next u) ∧
     (u.boot.dev = 2 → bit (u.live .lemef 0 0x13C) 0 = true → exec .statusHeartbeat s
       = .next ({ u with rings := { u.rings with heartbeat := u.rings.heartbeat + 1 } }.writeStatus))) ∧
    (a.clerk.serving = false → a.clerk.cores.getD a.primary 0 ≠ 4 →
      let b := { a with clerk := { a.clerk with
        cores := lset a.clerk.cores a.primary 2, serving := true, waiting := [], refresh := a.bell.now } }.count (pageNo .clerk 0) 0x68 1
      exec (.clerkResumesService t) s = .next ((a.clerk.waiting.foldl State.clerkAct b).post)) ∧
    (a.boot.dev ≠ 0 → h = a.primary → a.clerk.serving = true →
      (a.bell.now < a.clerk.refresh + 33000000 → exec (.clerkWatchdogExpiry t h) s = .next a) ∧
      (a.clerk.refresh + 33000000 ≤ a.bell.now →
        let r := (a.clerk.recent.filter fun u => decide (a.bell.now < u + 3300000000)) ++ [a.bell.now]
        let u := { a with clerk := { a.clerk with
          cores := lset a.clerk.cores h 3, restarts := a.clerk.restarts + 1, recent := r, serving := false } }
        let v := u.raise (u.mkEv 0x6504 1 none .clerk 0 0 h)
        exec (.clerkWatchdogExpiry t h) s = .next (if 2 ≤ r.length then v.nextPrimary h else v)))

/-! ### Timers of jobs and engines -/

/-- Deadlines, watchdogs and other timers (R375, R376, R380, R400, R403, R404, R406, R440, R485). The oldest step of a class 1 job that did not
close by its deadline is counted and raises DEADLINE_MISS once; a step past its watchdog raises STEP_WATCHDOG;
a preempted job resumes once its positions are free; a step to be rerun is restored and goes when no stall of the
job runs; a word that has not completed 1,048,576 ticks past the tick it should have is ENGINE_HUNG; SET_POLICY that waited
too long for synchronisation fails with SYNC_TIMEOUT; a snapshot traces every counter entry. The model's choices: a timer that
is not due changes nothing but the bell time (log entry 10), moves and the agreed start come with the command (log entry 8), the
order of the trace's counter entries (log entry 53) and the events' aux (log entry 19). -/
def Obligations.TimersExpire : Prop :=
  ∀ (s : State) (t j : Nat), s.clocked = true →
    let a := s.advance t
    (s.clerk.serving = true →
      (∀ jb x, s.job j = some jb → jb.cls = 1 →
        (jb.steps.find? fun (y : StepSt) => !y.missed && match y.closed with
          | some c => decide (y.release + jb.deadline < c)
          | none => true) = some x →
        let u := (s.advance (x.release + jb.deadline)).setJob j (jb.updStep x.n fun y => { y with missed := true })
        let v := u.charge j 0xB8 1
        exec (.deadlineTimer j) s = .next (v.raise (u.mkEv 0x6102 0 (some j) .clerk 0 (x.n % 2 ^ 32) jb.tenant.toNat))) ∧
      (∀ jb x, s.job j = some jb → (jb.steps.find? fun (y : StepSt) => y.start != 0 && y.closed.isNone && y.abort.isNone) = some x →
        (jb.watchdog = 0 → exec (.stepWatchdogExpiry t j) s = .next a) ∧
        (jb.watchdog ≠ 0 → x.start + jb.watchdog * 3300000 ≤ t → exec (.stepWatchdogExpiry t j) s
          = .next (a.raise (a.mkEv 0x6303 0 (some j) .clerk 0 (x.n % 2 ^ 32) 0)))) ∧
      (∀ jb, s.job j = some jb →
        (jb.preempted = true → a.positionsFree jb = true → exec (.preemptResume t j) s = .next (a.resumeJob j true)) ∧
        (jb.preempted = false → exec (.preemptResume t j) s = .next a) ∧
        (∀ m g, a.jobActive j = false → jb.state ≠ 5 → a.closing j = false → (jb.steps.any fun x => a.abortingStep j x.n) = false →
          exec (.stepRerunGo t j m g) s = .next (a.within ((a.restoreSteps j m).rerunStep t j g)))) ∧
      (∀ q n, a.clerk.acquiring = some (q, n) →
        (t < n → exec (.setPolicySyncTimeout t) s = .next a) ∧
        (n ≤ t → exec (.setPolicySyncTimeout t) s = .next (({ a with
          clerk := { a.clerk with acquiring := none }, bell := { a.bell with acqPending := false } }).finish q 1 0xA201 0 0 0 none)))) ∧
    (∀ n e f, ((a.stall n).flight.find? fun x => x.eng = e) = some f →
      (t < ((a.stall n).busy.get e).till + 1048576 → exec (.engineBusyExpiry t n e) s = .next a) ∧
      (((a.stall n).busy.get e).till + 1048576 ≤ t → exec (.engineBusyExpiry t n e) s
        = .next (a.raise ((a.stall n).ev n a.bell.now 0x6506 3 ((a.stall n).jobSlot f.slot).job e.num)))) ∧
    (let w := s.live .trace 0 0x100
     (bit w 0 = true → bits w 11 8 ≠ 0 →
       let u := s.advance s.snapTick
       exec .traceCounterSnapshot s
         = .next (u.counterEntries.foldl (fun z e => z.traceRec 3 (e ++ leBytes 8 z.bell.now)) u)) ∧
     (bit w 0 = false ∨ bits w 11 8 = 0 → exec .traceCounterSnapshot s = .next s))

/-- What an event does (R291, R390 to R393, R402). It takes the next sequence number and is the last one recorded, the oldest of 256 gives way to it, it sets its flag in the job's flag
word and is posted; JOB_FATAL fails the job, STALL_FENCE fences the stall it names, DEVICE_FATAL stops the device, and the codes that
abort a step abort the job's steps. -/
def Obligations.EventsActBySeverity : Prop :=
  ∀ (s : State) (e : Ev),
    let r := s.record e
    let f := match e.job with
      | some j => r.flagJob j (flagBit e.code) e.tick
      | none => r
    (e.sev < 2 → e.job = none → s.raise e = r.post) ∧
    (∀ j, e.sev < 2 → e.job = some j → s.raise e = (if abortCode e.code then f.abortSteps j e.code else f).post) ∧
    (∀ j, e.sev = 2 → e.job = some j → s.raise e = (f.failJob j e.code).post) ∧
    (∀ n, e.sev = 3 → n < 2 ^ 16 → e.source = pageId .stall n → s.raise e = (f.fence n e.code).post) ∧
    (e.sev = 4 → s.raise e = (f.stopDevice e.code).post) ∧
    r.events.next = (s.events.next + 1) % 2 ^ 32 ∧
    r.events.last = some ⟨e, s.events.next, false⟩ ∧
    (s.events.recs.length < 256 → r.events.recs = s.events.recs ++ [⟨e, s.events.next, false⟩]) ∧
    (∀ o l, s.events.recs = o :: l → s.events.recs.length = 256 →
      r.events.recs = l ++ [⟨e, s.events.next, false⟩] ∧
      r.rings.lost = (s.rings.lost + if o.posted then 0 else 1) % 2 ^ 32)

/-! ### The commands of the host -/

/-- A taken command `x` of sequence number `seq` and opcode `op` acts at tick `t`: the Clerk serves, the device is RUNNING
and the order of R443 lets it start. -/
def runs (s : State) (t seq op : Nat) (x : Taken) : Prop :=
  let a := s.advance t
  s.clocked = true ∧ a.takenBy seq = some x ∧ descOp x.desc = op ∧ a.clerk.serving = true ∧ a.boot.dev = 2 ∧ a.mayStart x = true

/-- As `runs`, for a command that names the open job `jb`; on a failed job only JOB_CLOSE acts (R442). -/
def runsOn (s : State) (t seq op : Nat) (x : Taken) (jb : Job) : Prop :=
  let a := s.advance t
  runs s t seq op x ∧ a.openJobs.contains (descJob x.desc) = true ∧ a.job (descJob x.desc) = some jb ∧ (jb.state = 5 → op = 0x06)

/-- Tick, sequence number and opcode of the commands that the Clerk takes from the submission ring. -/
def commandAt : Instr → Option (Nat × Nat × Nat)
  | .jobOpen t q _ _ _ => some (t, q, 0x01)
  | .jobLoad t q _ _ _ => some (t, q, 0x02)
  | .jobMap t q _ _ => some (t, q, 0x03)
  | .stepRun t q _ => some (t, q, 0x04)
  | .stepAbort t q => some (t, q, 0x05)
  | .jobClose t q => some (t, q, 0x06)
  | .jobSuspend t q => some (t, q, 0x08)
  | .jobResume t q => some (t, q, 0x09)
  | .selftest t q _ => some (t, q, 0x10)
  | .fenceStall t q => some (t, q, 0x11)
  | .unfenceStall t q _ => some (t, q, 0x12)
  | .setPolicy t q => some (t, q, 0x20)
  | .twinBind t q => some (t, q, 0x30)
  | .echo t q => some (t, q, 0x7E)
  | .summary t q => some (t, q, 0x7F)
  | _ => none

/-- What every command of the submission ring meets before it acts (R442, R443): a sequence number that no taken command
holds, another opcode, a command whose turn has not come, a Clerk that restarts and the CLOSED state change nothing but the bell
time; in another state than RUNNING all but ECHO and SUMMARY complete REFUSED with DEVICE_STATE and its event, a JOB_OPEN
counting in REFUSALS; a job that is not open is refused with NOT_PRESENT, and a failed
job with its own failure for all but JOB_CLOSE. -/
def Obligations.CommandsMeetStateAndJob : Prop :=
  ∀ (i : Instr) (s : State) (t seq op : Nat), commandAt i = some (t, seq, op) → s.clocked = true →
    let a := s.advance t
    (a.takenBy seq = none → exec i s = .next a) ∧
    ∀ x, a.takenBy seq = some x →
      (descOp x.desc ≠ op ∨ a.clerk.serving = false ∨ a.boot.dev = 0 ∨ a.mayStart x = false → exec i s = .next a) ∧
      (descOp x.desc = op → a.clerk.serving = true → a.mayStart x = true →
        (a.boot.dev ≠ 0 → a.boot.dev ≠ 2 → op ≠ 0x7E → op ≠ 0x7F →
          exec i s = .next (((a.raise (a.mkEv 0x6204 0 none .clerk 0 0 (seq % 2 ^ 64))).countRefusal op).finish seq 2 0x6204 0 0 0 none)) ∧
        (a.boot.dev = 2 → jobOpcode op = true →
          (a.openJobs.contains (descJob x.desc) = false → exec i s = .next (a.finish seq 2 0x6201 0 0 0 none)) ∧
          (a.openJobs.contains (descJob x.desc) = true → ∀ jb, a.job (descJob x.desc) = some jb → jb.state = 5 → op ≠ 0x06 →
            exec i s = .next (a.finish seq 2 jb.failure 0 0 0 none))))

/-- SET_POLICY, TWIN_BIND, SELFTEST, fencing, ECHO and SUMMARY (R356, R411, R418, R419, R421, R440, R445, R452). A SET_POLICY is
refused while a job on several devices is open, and with BELL_UNACQUIRED's cause where it would acquire beside open jobs; else
its fields are applied, the master with the COMMIT, and with acquisition it stays open until four sync periods have passed. A TWIN_BIND over an absent
port, over one that is no twin port (the model's choice, log entry 38) or to a partner of the same side is NOT_PRESENT, waits while a step is unresolved, and an interval of 0 unbinds. A SELFTEST scope with nothing present is NOT_PRESENT; a
SELFTEST whose condition holds tests its scope and completes OK, one that may queue waits behind at most three others and
starts when its condition holds, and another is BUSY; fencing a stall takes it out of service, and only a fenced stall that
passes its tests serves again (an UNFENCE of another fails: the model's choice, log entry 50); ECHO gives its data back, with a
report of 1,536 bytes first where it asks for one; SUMMARY writes the record of the coming round boundary, or fails where
the buffer is shorter. What tests find comes with the command (log entry 7); the rest of the model's choices in tests, fencing,
the summary and the report are log entries 43, 50, 52, 53, 55 and 56. -/
def Obligations.DeviceCommandsAct : Prop :=
  ∀ (s : State) (t seq : Nat) (x : Taken) (jb : Job) (f : Inspection),
    let a := s.advance t
    let d := x.desc
    let j := descJob d
    let n := descField d 32 2
    ((a.applyPolicy d).bell.masterNext = some (descField d 33 1, a.atBoundary) ∧ (a.applyPolicy d).bell.masterPos = a.bell.masterPos) ∧
    (runs s t seq 0x20 x → x.started = false →
      let acq := bit (descField d 32 1) 0 = true ∧ a.bell.state ≠ 2
      let wide := (a.openJobs.any fun k => ((a.job k).map Job.spans).getD false) = true
      (wide → exec (.setPolicy t seq) s = .next (a.finish seq 2 0 0 0 0 none)) ∧
      (¬ wide → acq → a.openJobs ≠ [] → exec (.setPolicy t seq) s
        = .next ((a.raise (a.mkEv 0xA205 0 none .bell 0 0 0)).finish seq 2 0xA205 0 0 0 none)) ∧
      (¬ wide → acq → a.openJobs = [] →
        let u := a.applyPolicy d
        exec (.setPolicy t seq) s
          = .next ({ u with clerk := { u.clerk with acquiring := some (seq, u.bell.nextRound + 4194304) } }.markStarted seq)) ∧
      (¬ wide → ¬ acq → exec (.setPolicy t seq) s = .next ((a.applyPolicy d).finish seq 0 0 0 0 0 none))) ∧
    (runsOn s t seq 0x30 x jb →
      let path := descField d 35 1
      let bad := path < 12 ∧ (a.twinPort path = false ∨ (a.aisle path).peerValid = true ∧ (a.aisle path).peerSide = s.pins.twin)
      (path < 12 → a.portPresent path = false → exec (.twinBind t seq) s = .next (a.finish seq 2 0x6201 0 0 0 none)) ∧
      ((path < 12 → a.portPresent path = true) →
        (jb.steps ≠ [] ∨ a.jobActive j = true → exec (.twinBind t seq) s = .next a) ∧
        (jb.steps = [] → a.jobActive j = false →
          (n ≠ 0 → bad → exec (.twinBind t seq) s = .next (a.finish seq 2 0x6201 0 0 0 none)) ∧
          (n ≠ 0 → ¬ bad → exec (.twinBind t seq) s = .next ((a.setJob j { jb with
            twin := some ⟨n, descField d 34 1, path, descField d 36 2, false, false, 0, [], [], []⟩ }).finish seq 0 0 0 0 0 none)) ∧
          (n = 0 → exec (.twinBind t seq) s = .next ((a.setJob j { jb with twin := none }).finish seq 0 0 0 0 0 none))))) ∧
    (runs s t seq 0x10 x → a.clerk.selfq.contains seq = false →
      (a.testScope d = [] → exec (.selftest t seq f) s = .next (a.finish seq 2 0x6201 0 0 0 none)) ∧
      (a.testScope d ≠ [] →
        (a.testReady d = true →
          (descField d 32 1 = 0 → exec (.selftest t seq f) s = .next ((a.testDevice f).finish seq 0 0 0 0 0 none)) ∧
          (descField d 32 1 ≠ 0 → exec (.selftest t seq f) s = .next ((a.testStalls (a.testScope d) f).finish seq 0 0 0 0 0 none))) ∧
        (a.testReady d = false → bit (descField d 1 1) 0 = true → a.clerk.selfq.length < 4 → exec (.selftest t seq f) s
          = .next ({ a with clerk := { a.clerk with selfq := a.clerk.selfq ++ [seq] } }.markStarted seq)) ∧
        (a.testReady d = false → (bit (descField d 1 1) 0 = false ∨ 4 ≤ a.clerk.selfq.length) →
          exec (.selftest t seq f) s = .next (a.finish seq 3 0 0 0 0 none)))) ∧
    (runs s t seq 0x10 x → a.clerk.selfq.contains seq = true →
      exec (.selftest t seq f) s = .next a ∧
      (a.testReady d = false → exec (.selftestQueuedStart t seq f) s = .next a) ∧
      (a.testReady d = true → descField d 32 1 = 0 →
        exec (.selftestQueuedStart t seq f) s = .next ((a.testDevice f).finish seq 0 0 0 0 0 none)) ∧
      (a.testReady d = true → descField d 32 1 ≠ 0 →
        exec (.selftestQueuedStart t seq f) s = .next ((a.testStalls (a.testScope d) f).finish seq 0 0 0 0 0 none))) ∧
    (runs s t seq 0x11 x →
      (a.stallPresent n = false → exec (.fenceStall t seq) s = .next (a.finish seq 2 0x6201 0 0 0 none)) ∧
      (a.stallPresent n = true → exec (.fenceStall t seq) s = .next (((a.fence n 0).post).finish seq 0 0 0 0 0 none))) ∧
    (runs s t seq 0x12 x →
      (a.stallPresent n = false → exec (.unfenceStall t seq f) s = .next (a.finish seq 2 0x6201 0 0 0 none)) ∧
      (a.stallPresent n = true →
        (a.clerk.fences.contains n = false → exec (.unfenceStall t seq f) s = .next (a.finish seq 1 0 0 0 0 none)) ∧
        (a.clerk.fences.contains n = true →
          let passes := (∀ q ∈ f.repair, q.1 ≠ n) ∧ n ∉ f.scan ∧ n / 128 ∉ f.halls
          (passes → exec (.unfenceStall t seq f) s = .next (((a.testStalls [n] f).unfence n).finish seq 0 0 0 0 0 none)) ∧
          (¬ passes → exec (.unfenceStall t seq f) s = .next ((a.testStalls [n] f).finish seq 1 0 0 0 0 none))))) ∧
    (runs s t seq 0x7E x →
      (bit (descField d 40 1) 0 = false → exec (.echo t seq) s = .next (a.finish seq 0 0 (descField d 32 8) 0 0 none)) ∧
      (bit (descField d 40 1) 0 = true →
        (a.clerkUp 0 = false → exec (.echo t seq) s = .next (a.finish seq 2 0x6201 0 0 0 none)) ∧
        (a.clerkUp 0 = true → exec (.echo t seq) s = .next ((a.writeLines (descField d 48 8)
          (a.report ((d.drop 56).take 32))).finish seq 0 0 (descField d 32 8) 0 0 none)))) ∧
    (runs s t seq 0x7F x →
      let u := a.advance a.bell.nextRound
      let r := u.sumRecord
      (descField d 40 4 < r.length → exec (.summary t seq) s
        = .next ((u.raise (u.mkEv 0x6203 0 none .clerk 0 0 (seq % 2 ^ 64))).finish seq 1 0x6203 0 0 0 none)) ∧
      (r.length ≤ descField d 40 4 → exec (.summary t seq) s
        = .next ((u.writeLines (descField d 32 8) r).finish seq 0 0 r.length 0 0 none)))

/-- JOB_OPEN, and JOB_LOAD, JOB_MAP, JOB_SUSPEND, JOB_RESUME and JOB_CLOSE on an open job (R255, R264, R311, R364, R365, R367,
R371, R375, R379, R385, R445). A JOB_OPEN meets its tests in order: class, record, what never fits, a free number, the time test
of class 1, a placement, bandwidth, and counts in REFUSALS where it is refused; a job on one device takes the lowest phase at
which a placement is found, one on several the phase agreed on. The model's choices: what the Clerks of several devices agree
on and what the Clerk prefers come with the command (log entries 8, 31, 39), the bandwidth of crossed outputs (log entry 32),
and the rounds from COMMIT to the first go (log entry 79). -/
def Obligations.JobCommandsAct : Prop :=
  ∀ (s : State) (t seq : Nat) (x : Taken) (jb : Job) (record : List Byte) (ph : Nat) (place : List (Nat × Nat × Nat))
    (raw : List Byte) (im : LoadImage) (frames pages tables : List Nat),
    let a := s.advance t
    let d := x.desc
    let j := descJob d
    (∀ (r : AdmRecord) (p : Nat) (q : List (Nat × Nat × Nat)), a.choosePlace r ph place = some (p, q) →
      let here := place.filter fun y => !remoteStall y.2.2
      p < 64 ∧
      (r.devices ≤ 1 → a.search r.pitches p here = some q ∧ ∀ p', p' < p → a.search r.pitches p' here = none) ∧
      (1 < r.devices → p = ph ∧ ∃ l, a.search r.pitches p here = some l ∧ q = l ++ place.filter fun y => remoteStall y.2.2)) ∧
    (runs s t seq 0x01 x →
      let cls := descField d 32 1
      let out := exec (.jobOpen t seq record ph place) s
      let reject (c v : Nat) : Prop := out = .next (((a.raise (a.mkEv c 0 none .clerk 0 0 (descField d 36 4))).count (pageNo .clerk 0) 0x58 1).finish
        seq 2 c v 0 0 none)
      let turned (c : Nat) : Prop := out = .next ((a.count (pageNo .clerk 0) 0x58 1).finish seq 2 c 0 0 0 none)
      (cls = 0 ∨ 3 < cls → turned 0) ∧
      (cls ≠ 0 → cls ≤ 3 →
        (admOf record = none → turned 0x6203) ∧
        ∀ r, admOf record = some r →
          (r.cls ≠ cls ∨ record.length ≠ descField d 56 4 → turned 0x6203) ∧
          (r.cls = cls → record.length = descField d 56 4 →
            (a.neverFits r place = true → reject 0x6201 (if 1 < r.devices then a.bell.state else 0)) ∧
            (a.neverFits r place = false →
              (a.freeJob = none → reject 0x6103 0) ∧
              ∀ k, a.freeJob = some k →
                (cls = 1 → timeTest r.length r.deadline r.period a.kMax 0 = false → reject 0x6101 0) ∧
                ((cls = 1 → timeTest r.length r.deadline r.period a.kMax 0 = true) →
                  (a.choosePlace r ph place = none → reject (if cls = 1 then 0x6101 else 0x6103) 0) ∧
                  ∀ p q, a.choosePlace r ph place = some (p, q) →
                    (cls = 1 → a.bandwidthFits r.pitches q = false → reject 0x6101 0) ∧
                    ((cls = 1 → a.bandwidthFits r.pitches q = true) → out = .next (a.takeJob seq k d r p q))))))) ∧
    (runsOn s t seq 0x02 x jb →
      (∀ c r, a.loadError j jb d raw im = some (c, r) →
        exec (.jobLoad t seq raw im frames) s = .next (a.finish seq 2 c r 0 0 none)) ∧
      (a.loadError j jb d raw im = none →
        (a.loadUnits j jb im frames = none → exec (.jobLoad t seq raw im frames) s = .next (a.finish seq 2 0x6103 0 0 0 none)) ∧
        ∀ u, a.loadUnits j jb im frames = some u → exec (.jobLoad t seq raw im frames) s
          = .next (((((u.loadGroups j jb im).loadStalls j jb im).setJob j
              { jb with image := some im, rate := min jb.asked im.rate, cacheable := bit (descField d 52 1) 0 }).commitStalls j
                jb.stalls).finish seq 0 0 0 0 0 none))) ∧
    (runsOn s t seq 0x03 x jb →
      let va := descField d 32 8
      let n := descField d 40 8
      let f := descField d 48 1
      (jb.pins va n = true → exec (.jobMap t seq pages tables) s = .next (a.finish seq 2 0x4203 0 0 0 none)) ∧
      (jb.pins va n = false →
        (bit f 2 = true → exec (.jobMap t seq pages tables) s
          = .next (((a.unmapRange j va n).invalidateJob j).finish seq 0 0 0 0 0 none)) ∧
        (bit f 2 = false → bit f 3 = false →
          let m := a.mapRange j va (bit f 0) (bit f 1) none (mapFits (descField d 50 2) none) (n / 2097152) pages tables
          (m = none → exec (.jobMap t seq pages tables) s = .next (a.finish seq 2 0x6103 0 0 0 none)) ∧
          ∀ u, m = some u → exec (.jobMap t seq pages tables) s = .next ((u.invalidateJob j).finish seq 0 0 0 0 0 none)) ∧
        (bit f 2 = false → bit f 3 = true →
          (placeOf jb.place (descField d 49 1) (descField d 52 2) = none →
            exec (.jobMap t seq pages tables) s = .next (a.finish seq 2 0 0 0 0 none)) ∧
          ∀ sn, placeOf jb.place (descField d 49 1) (descField d 52 2) = some sn →
            (remoteStall sn = true → exec (.jobMap t seq pages tables) s = .next (a.finish seq 2 0 0 0 0 none)) ∧
            (remoteStall sn = false →
              let rest := { jb with maps := jb.maps.filter fun m => !(decide (va ≤ m.va) && decide (m.va < va + n)) }
              let full := ((jb.adm[descField d 49 1]?).map (·.hallPages)).getD 0
                < rest.hallMapped (descField d 49 1) (sn / 128) + n / 2097152
              let m := a.mapRange j va (bit f 0) false (some (descField d 49 1, descField d 52 2)) (mapFits 0 (some (sn / 128)))
                (n / 2097152) pages tables
              (full ∨ m = none → exec (.jobMap t seq pages tables) s = .next (a.finish seq 2 0x6103 0 0 0 none)) ∧
              (¬ full → ∀ u, m = some u →
                exec (.jobMap t seq pages tables) s = .next ((u.invalidateJob j).finish seq 0 0 0 0 0 none)))))) ∧
    (runsOn s t seq 0x08 x jb → exec (.jobSuspend t seq) s = .next ((a.suspendJob j false).finish seq 0 0 0 0 0 none)) ∧
    (runsOn s t seq 0x09 x jb → exec (.jobResume t seq) s = .next ((a.resumeJob j false).finish seq 0 0 0 0 0 none)) ∧
    (runsOn s t seq 0x06 x jb →
      (x.started = true →
        (a.jobActive j = true ∨ (∃ y ∈ jb.steps, y.armed ≠ none) → exec (.jobClose t seq) s = .next a) ∧
        (a.jobActive j = false → jb.steps = [] → exec (.jobClose t seq) s = .next ((a.closeJob j jb).finish seq 0 0 0 0 0 none))) ∧
      (x.started = false →
        let waiting := (a.clerk.taken.takeWhile fun y => y != x).filter fun y =>
          !y.dup && jobOpcode (descOp y.desc) && descJob y.desc = j && !(y.started && descOp y.desc = 0x04)
        let u := waiting.foldl (fun (u : State) (y : Taken) => u.finish y.seq 5 0 0 0 0 (some j)) a
        ∀ k, u.job j = some k → exec (.jobClose t seq) s = .next ((((u.setJob j
          { k with steps := k.steps.map (k.aborted u.bell.now 0 true) }).abortStalls j).markStarted seq).jobClosed seq j)))

/-- STEP_RUN, STEP_ABORT, PITCH_MOVE and LEDGER_RECONCILE (R33, R129, R291, R304, R305, R373, R378, R384, R385, R445). A STEP_RUN with a
guard beyond 127, a step number that is not above the last one consumed, or no image is refused; else its step is consumed and
starts where the job is ready, on one device at the first tick of the job's phase that lies at least 4,096 ticks ahead.
A STEP_ABORT of a waiting step completes it ABORTED, of an armed step it has no effect. A pitch that may not move stays; a running step of
a preempted job that is to give way is aborted first. Every millisecond the energy that the rails took is charged in proportion
to the estimates, by the coefficients of the device's calibration, and the snapshots asked for are taken; where every estimate
is 0 the charges are free values (log entry 69). The model's choices: what moves and when (log entries 8, 34, 79) and what the
measurement and the coefficients are (log entry 41). -/
def Obligations.StepsMovesAndLedgers : Prop :=
  ∀ (s : State) (t seq : Nat) (x : Taken) (jb : Job) (agreed : Option Nat),
    let a := s.advance t
    let d := x.desc
    let j := descJob d
    let n := descField d 32 8
    (runsOn s t seq 0x04 x jb →
      let g := descField d 40 2
      let bad := 128 ≤ g ∨ (n ≤ jb.consumed ∧ ¬ (jb.steps = [] ∧ jb.resolution = 0)) ∨ jb.image = none
      (x.started = true → exec (.stepRun t seq agreed) s = .next (s.within (a.startStep t seq j agreed))) ∧
      (x.started = false → bad → exec (.stepRun t seq agreed) s = .next (s.within ((a.finish seq 2 0 0 0 0 none).startStep t seq j agreed))) ∧
      (x.started = false → ¬ bad → exec (.stepRun t seq agreed) s
        = .next (s.within ((((a.setJob j (Job.settled { jb with consumed := n, carried := 0, runs := [], steps := jb.steps ++
            [⟨n, seq, g, descField d 44 4, 0, 0, 0, jb.runBefore n, max t jb.lastClose, false, [], none, 0, jb.carried, [], false,
              none, none, false, false, none, false⟩] })).fetchStreams j n false).markStarted seq).startStep t seq j agreed)))) ∧
    (∀ (u : State) (k : Job) (y : StepSt), u.job j = some k →
      (k.steps.find? fun z => z.seq = seq && z.start = 0 && z.abort.isNone) = some y →
        (u.jobReady t j k = false → u.startStep t seq j agreed = u) ∧
        (u.jobReady t j k = true → k.spans = false →
          u.startStep t seq j agreed = u.go t j y.n (upTo 4096 (t + 4096 - 64 * k.phase) + 64 * k.phase)) ∧
        (u.jobReady t j k = true → k.spans = true →
          (agreed = none → u.startStep t seq j agreed = u) ∧
          ∀ b, agreed = some b →
            (b < t + 4096 ∨ b % 4096 ≠ 64 * k.phase ∨ k.startsApart y.n b = false → u.startStep t seq j agreed = u) ∧
            (t + 4096 ≤ b → b % 4096 = 64 * k.phase → k.startsApart y.n b = true → u.startStep t seq j agreed = u.go t j y.n b))) ∧
    (runsOn s t seq 0x05 x jb →
      let waits (y : Taken) : Bool := !y.dup && !y.started && descOp y.desc = 0x04 && descJob y.desc = j && descField y.desc 32 8 = n
      (∀ y, a.clerk.taken.find? waits = some y →
        exec (.stepAbort t seq) s = .next ((a.finish y.seq 5 0 0 0 0 (some j)).finish seq 0 0 0 0 0 none)) ∧
      (a.clerk.taken.find? waits = none →
        ((jb.steps.find? fun y => y.n = n) = none → exec (.stepAbort t seq) s = .next (a.finish seq 0 0 1 0 0 none)) ∧
        ∀ st, (jb.steps.find? fun y => y.n = n) = some st →
          (x.started = true → a.jobActive j = true → exec (.stepAbort t seq) s = .next a) ∧
          (x.started = false →
            (st.armed.isSome = true ∨ (∃ g, st.due = some g ∧ g < t + jb.lead) →
              exec (.stepAbort t seq) s = .next (a.finish seq 0 0 1 0 0 none)) ∧
            (st.armed = none → (∀ g, st.due = some g → t + jb.lead ≤ g) →
              (st.start = 0 → exec (.stepAbort t seq) s = .next ((a.endStep j n 5 0).finish seq 0 0 0 0 0 none)) ∧
              (st.start ≠ 0 → exec (.stepAbort t seq) s
                = .next ((((a.setJob j { jb with steps := jb.steps.map (jb.aborted t 0 true) }).abortStalls j).markStarted seq).stepAborted
                    seq j n)))))) ∧
    (∀ (k : Job) (now c : Nat) (y : StepSt), (y.armed ≠ none → k.aborted now c true y = y) ∧ (y.start = 0 → k.aborted now c true y = y) ∧
      (y.armed = none → y.start ≠ 0 → y.abort = none → (∀ g, y.due = some g → now + k.lead ≤ g) →
        k.aborted now c true y = { y with abort := some c })) ∧
    (∀ (i p ph : Nat) (why : MoveWhy) (sns halls : List Nat) (k : Job), s.clocked = true → s.clerk.serving = true → a.job i = some k →
      let phase := if why = .admission ∧ k.spans = false then ph % 64 else k.phase
      (a.leavesPreempted i k why = true → exec (.pitchMove t i p why sns halls ph) s = .next (a.abortSteps i 0x6402)) ∧
      (a.leavesPreempted i k why = false → a.mayMove i p k why = false → exec (.pitchMove t i p why sns halls ph) s = .next a) ∧
      (a.leavesPreempted i k why = false → a.mayMove i p k why = true →
        (∀ u, a.movePitch i p phase why sns halls = some u → exec (.pitchMove t i p why sns halls ph) s = .next u) ∧
        (a.movePitch i p phase why sns halls = none →
          (why = .fence → exec (.pitchMove t i p why sns halls ph) s = .next (a.failJob i 0x6103)) ∧
          (why ≠ .fence → exec (.pitchMove t i p why sns halls ph) s = .next a)))) ∧
    (∀ (y : Spent) (k : StaticCoef), y.energy k = y.dyn + k.awake * y.awake + k.retained * y.ret + k.rest * y.rota / 256) ∧
    (∀ (measured : Option Nat) (coef : List (Nat × Nat)) (static : StaticCoef), s.clocked = true → s.boot.dev ≠ 0 →
      let b := s.advance s.power.nextRec
      let c := b.stalls.foldl (fun z q => z.accrueAt .stall q.1) b
      let u := { c with power := { c.power with nextRec := s.power.nextRec + 3300000 } }
      let es := u.estimates coef static 3300000
      let w := u.clearWork
      (measured = none → exec (.ledgerReconcile measured coef static) s
        = .next ((State.unreconciled { w with power := { w.power with energy := 0, taken := 0 } } u.openJobs es).takeSnaps)) ∧
      (∀ pj, measured = some pj →
        let all := u.power.energy + pj + u.power.rest
        let v := { w with power := { w.power with energy := 0, taken := pj, rest := all % 1000000, unrec := false } }
        let ended (z : State) : State :=
          ((z.count (pageNo .sched 0) 0x40 (all / 1000000)).count (pageNo .sched 0) 0x50 1).takeSnaps
        (es.sum ≠ 0 → exec (.ledgerReconcile measured coef static) s
          = .next (ended (v.chargeEnergy u.openJobs (apportion (all / 1000000) es)))) ∧
        (es.sum = 0 →
          let z := v.chargeEnergy u.openJobs ((List.range es.length).map fun i => Config.freeCharge (v.freeIx + i))
          exec (.ledgerReconcile measured coef static) s
            = .next (ended { z with freeIx := z.freeIx + es.length }))))
end
end

