-- ==== Sys2Proof/Laws/Memory.lean ====
section
/-! SUPPORT. Laws of the sparse tables and of memory: what is read after a write, and that every memory operation keeps
the canonical form. -/

set_option Elab.async false
namespace Sys2Proof.Machine

/-! ### Sparse tables -/

@[simp] theorem sget_sset_same {α : Type} (m : List (Nat × α)) (k : Nat) (v : α) : sget (sset m k v) k = some v := by
  induction m with
  | nil => simp [sset, sget]
  | cons p r ih =>
    obtain ⟨i, w⟩ := p
    by_cases h : k < i
    · simp [sset, sget, h]
    · by_cases e : i = k <;> simp [sset, sget, h, e, ih]

theorem sget_sset_other {α : Type} (m : List (Nat × α)) {k j : Nat} (v : α) (h : j ≠ k) :
    sget (sset m k v) j = sget m j := by
  induction m with
  | nil => simp [sset, sget, Ne.symm h]
  | cons p r ih =>
    obtain ⟨i, w⟩ := p
    by_cases l : k < i
    · simp [sset, sget, l, Ne.symm h]
    · by_cases e : i = k
      · subst e; simp [sset, sget, Ne.symm h]
      · simp [sset, sget, l, e, ih]

theorem sget_sdel_other {α : Type} (m : List (Nat × α)) {k j : Nat} (h : j ≠ k) : sget (sdel m k) j = sget m j := by
  induction m with
  | nil => rfl
  | cons p r ih =>
    obtain ⟨i, w⟩ := p
    by_cases e : i = k
    · subst e; simp [sdel, sget, Ne.symm h, ih]
    · simp [sdel, sget, e, ih]

@[simp] theorem sget_sdel_same {α : Type} (m : List (Nat × α)) (k : Nat) : sget (sdel m k) k = none := by
  induction m with
  | nil => rfl
  | cons p r ih =>
    obtain ⟨i, w⟩ := p
    by_cases e : i = k <;> simp [sdel, sget, e, ih]

@[simp] theorem sgetD_sset_same {α : Type} (m : List (Nat × α)) (k : Nat) (v d : α) : sgetD (sset m k v) k d = v := by
  simp [sgetD]

theorem sgetD_sset_other {α : Type} (m : List (Nat × α)) {k j : Nat} (v d : α) (h : j ≠ k) :
    sgetD (sset m k v) j d = sgetD m j d := by
  simp [sgetD, sget_sset_other m v h]

/-- What is put is read, in every table. -/
@[simp] theorem sgetD_sput_same {α : Type} [DecidableEq α] (d : α) (m : List (Nat × α)) (k : Nat) (v : α) :
    sgetD (sput d m k v) k d = v := by
  unfold sput; split
  · simp [sgetD, *]
  · simp

theorem sgetD_sput_other {α : Type} [DecidableEq α] (d : α) (m : List (Nat × α)) {k j : Nat} (v e : α) (h : j ≠ k) :
    sgetD (sput d m k v) j e = sgetD m j e := by
  unfold sput; split
  · simp [sgetD, sget_sdel_other m h]
  · simp [sgetD, sget_sset_other m v h]

/-- Every key of a table is above `a`. -/
def above {α : Type} (a : Nat) (m : List (Nat × α)) : Prop := ∀ q ∈ m, a < q.1

theorem sget_none_of_above {α : Type} {a : Nat} {m : List (Nat × α)} (h : above a m) : sget m a = none := by
  induction m with
  | nil => rfl
  | cons p r ih =>
    obtain ⟨i, w⟩ := p
    have l : a < i := h (i, w) (by simp)
    have e : ¬ i = a := by omega
    simp only [sget, if_neg e]
    exact ih fun q hq => h q (by simp [hq])

theorem sset_above {α : Type} {a : Nat} {m : List (Nat × α)} {k : Nat} {v : α} (h : above a m) (l : a < k) :
    above a (sset m k v) := by
  induction m with
  | nil => simp [above, sset, l]
  | cons p r ih =>
    obtain ⟨i, w⟩ := p
    have hi : a < i := h (i, w) (by simp)
    have hr : above a r := fun q hq => h q (by simp [hq])
    unfold sset
    split
    · intro q hq; simp at hq; rcases hq with rfl | rfl | hq
      · exact l
      · exact hi
      · exact hr q hq
    · split
      · intro q hq; simp at hq; rcases hq with rfl | hq
        · exact l
        · exact hr q hq
      · intro q hq; simp at hq; rcases hq with rfl | hq
        · exact hi
        · exact ih hr q hq

theorem sdel_above {α : Type} {a : Nat} {m : List (Nat × α)} {k : Nat} (h : above a m) : above a (sdel m k) := by
  induction m with
  | nil => exact h
  | cons p r ih =>
    obtain ⟨i, w⟩ := p
    have hr : above a r := fun q hq => h q (by simp [hq])
    unfold sdel
    split
    · exact ih hr
    · intro q hq; simp at hq; rcases hq with rfl | hq
      · exact h (i, w) (by simp)
      · exact ih hr q hq

/-! ### The canonical form of memory -/

theorem Memory.wf_cons (a : Nat) (b : Byte) (m : List Host.Cell) :
    Memory.wf ((a, b) :: m) = true ↔ b ≠ 0#8 ∧ above a m ∧ Memory.wf m = true := by
  induction m generalizing a b with
  | nil => simp [Memory.wf, above]
  | cons p r ih =>
    obtain ⟨c, d⟩ := p
    have e := ih c d
    simp only [Memory.wf, Bool.and_eq_true, decide_eq_true_eq, bne_iff_ne, e]
    constructor
    · rintro ⟨⟨h, l⟩, k1, k2, k3⟩
      refine ⟨h, ?_, k1, k2, k3⟩
      intro q hq; simp at hq; rcases hq with rfl | hq
      · exact l
      · exact Nat.lt_trans l (k2 q hq)
    · rintro ⟨h, k, k1, k2, k3⟩
      exact ⟨⟨h, k (c, d) (by simp)⟩, k1, k2, k3⟩

theorem Memory.wf_sset {m : List Host.Cell} {k : Nat} {v : Byte} (h : Memory.wf m = true) (n : v ≠ 0#8) :
    Memory.wf (sset m k v) = true := by
  induction m with
  | nil => simpa [sset, Memory.wf] using n
  | cons p r ih =>
    obtain ⟨i, w⟩ := p
    obtain ⟨h1, h2, h3⟩ := (Memory.wf_cons i w r).1 h
    unfold sset
    split
    · rename_i l
      refine (Memory.wf_cons _ _ _).2 ⟨n, ?_, h⟩
      intro q hq; simp at hq; rcases hq with rfl | hq
      · exact l
      · exact Nat.lt_trans l (h2 q hq)
    · split
      · rename_i e; subst e; exact (Memory.wf_cons _ _ _).2 ⟨n, h2, h3⟩
      · exact (Memory.wf_cons _ _ _).2 ⟨h1, sset_above h2 (by omega), ih h3⟩

theorem Memory.wf_sdel {m : List Host.Cell} {k : Nat} (h : Memory.wf m = true) : Memory.wf (sdel m k) = true := by
  induction m with
  | nil => exact h
  | cons p r ih =>
    obtain ⟨i, w⟩ := p
    obtain ⟨h1, h2, h3⟩ := (Memory.wf_cons i w r).1 h
    unfold sdel
    split
    · exact ih h3
    · exact (Memory.wf_cons _ _ _).2 ⟨h1, sdel_above h2, ih h3⟩

/-- Writing a byte keeps the canonical form. -/
theorem memWrite_wf {m : List Host.Cell} {a : Nat} {b : Byte} (h : Memory.wf m = true) :
    Memory.wf (memWrite m a b) = true := by
  unfold memWrite sput
  split
  · exact Memory.wf_sdel h
  · exact Memory.wf_sset h ‹_›

/-- Writing consecutive bytes keeps the canonical form. -/
theorem memPut_wf {m : List Host.Cell} {a : Nat} {l : List Byte} (h : Memory.wf m = true) :
    Memory.wf (memPut m a l) = true := by
  induction l generalizing m a with
  | nil => exact h
  | cons b r ih => exact ih (memWrite_wf h)

/-- Clearing a range keeps the canonical form. -/
theorem memZero_wf {m : List Host.Cell} {a n : Nat} (h : Memory.wf m = true) : Memory.wf (memZero m a n) = true := by
  unfold memZero
  induction m with
  | nil => exact h
  | cons p r ih =>
    obtain ⟨i, w⟩ := p
    obtain ⟨h1, h2, h3⟩ := (Memory.wf_cons i w r).1 h
    rw [List.filter_cons]
    split
    · refine (Memory.wf_cons _ _ _).2 ⟨h1, ?_, ih h3⟩
      intro q hq
      exact h2 q (List.mem_filter.1 hq).1
    · exact ih h3

/-! ### What is read after a write -/

@[simp] theorem memRead_memWrite_same {m : List Host.Cell} {a : Nat} {b : Byte} : memRead (memWrite m a b) a = b :=
  sgetD_sput_same ..

theorem memRead_memWrite_other {m : List Host.Cell} {a c : Nat} {b : Byte} (h : c ≠ a) :
    memRead (memWrite m a b) c = memRead m c := sgetD_sput_other _ _ _ _ h

/-- A byte outside a written range reads as before. -/
theorem memRead_memPut_other {m : List Host.Cell} {a c : Nat} {l : List Byte} (h : c < a ∨ a + l.length ≤ c) :
    memRead (memPut m a l) c = memRead m c := by
  induction l generalizing m a with
  | nil => rfl
  | cons b r ih =>
    simp only [List.length_cons] at h
    rw [memPut, ih (by omega), memRead_memWrite_other (by omega)]

/-- A byte of a written range reads as written. -/
theorem memRead_memPut_same {m : List Host.Cell} {a i : Nat} {l : List Byte} (k : i < l.length) :
    memRead (memPut m a l) (a + i) = l.getD i 0#8 := by
  induction l generalizing m a i with
  | nil => simp at k
  | cons b r ih =>
    cases i with
    | zero => rw [memPut, memRead_memPut_other (by omega)]; simp
    | succ j =>
      simp only [List.length_cons] at k
      have := ih (m := memWrite m a b) (a := a + 1) (i := j) (by omega)
      rw [memPut, show a + (j + 1) = a + 1 + j by omega, this]
      simp

/-- A byte outside a cleared range reads as before. -/
theorem memRead_memZero_other {m : List Host.Cell} {a n c : Nat} (h : c < a ∨ a + n ≤ c) :
    memRead (memZero m a n) c = memRead m c := by
  unfold memRead memZero sgetD
  congr 1
  induction m with
  | nil => rfl
  | cons p r ih =>
    obtain ⟨i, w⟩ := p
    rw [List.filter_cons]
    by_cases e : i = c
    · subst e
      have : (!(decide (a ≤ i) && decide (i < a + n))) = true := by simp; omega
      simp [this, sget]
    · split <;> simp only [sget, if_neg e, ih]

end Sys2Proof.Machine
end

