-- ==== Sys2Proof/Laws/Only.lean ====
section
/-! SUPPORT. What an operation leaves as it was, and that it keeps the canonical form of memory: the two relations of a
state to a later one, and the rules that take a definition apart. -/

set_option Elab.async false
namespace Sys2Proof.Machine

/-- A property of the state in a pair. -/
abbrev Fst {α : Type} (Q : State → Prop) (p : State × α) : Prop := Q p.1

/-- A property of the state that a pair holds second. -/
abbrev Snd {α : Type} (Q : State → Prop) (p : α × State) : Prop := Q p.2

/-- A property of what is there, where it is there. -/
def Opt {α : Type} (Q : α → Prop) (o : Option α) : Prop := ∀ x, o = some x → Q x

/-- A property of the next state, where there is one. -/
def Nxt (Q : State → Prop) (o : Host.Outcome State Fault Refusal) : Prop := ∀ t, o = .next t → Q t

theorem holds_ite {α : Type} {Q : α → Prop} {c : Prop} [Decidable c] {a b : α} (h : Q a) (k : Q b) :
    Q (if c then a else b) := by split <;> assumption

theorem holds_foldl {α β : Type} {Q : α → Prop} {f : α → β → α} {l : List β} {s : α} (h : Q s)
    (k : ∀ x a, Q x → Q (f x a)) : Q (l.foldl f s) := by
  induction l generalizing s with
  | nil => exact h
  | cons a l ih => exact ih (k s a h)

theorem Opt.ofSome {α : Type} {Q : α → Prop} {x : α} (h : Q x) : Opt Q (some x) := by intro t e; cases e; exact h
theorem Opt.ofNone {α : Type} {Q : α → Prop} : Opt Q none := by intro t e; cases e
theorem Nxt.ofNext {Q : State → Prop} {x : State} (h : Q x) : Nxt Q (.next x) := by intro t e; cases e; exact h
theorem Nxt.ofFault {Q : State → Prop} {f : Fault} : Nxt Q (.fault f) := by intro t e; cases e

theorem Opt.map {α β : Type} {P : α → Prop} {Q : β → Prop} {o : Option α} {f : α → β} (h : Opt P o)
    (k : ∀ a, P a → Q (f a)) : Opt Q (o.map f) := by
  intro t e
  obtain ⟨a, h', rfl⟩ := Option.map_eq_some_iff.1 e
  exact k a (h a h')

theorem Opt.bind {α β : Type} {P : α → Prop} {Q : β → Prop} {o : Option α} {f : α → Option β} (h : Opt P o)
    (k : ∀ a, P a → Opt Q (f a)) : Opt Q (o.bind f) := by
  intro t e
  obtain ⟨a, e, e'⟩ := Option.bind_eq_some_iff.1 e
  exact k a (h a e) t e'

theorem Opt.any {α : Type} {o : Option α} : Opt (fun _ => True) o := fun _ _ => trivial

/-! ### What is left as it was -/

theorem Only.refl {w : List Part} (s : State) : Only w s s := fun p _ => by cases p <;> rfl

theorem Part.same_trans {p : Part} {r s t : State} (h : p.same r s) (k : p.same s t) : p.same r t := by
  cases p <;> exact Eq.trans k h

theorem Only.trans {w : List Part} {r s t : State} (h : Only w r s) (k : Only w s t) : Only w r t :=
  fun p e => Part.same_trans (h p e) (k p e)

theorem Only.mono {v w : List Part} {s t : State} (h : Only v s t) (k : v.all w.contains = true) : Only w s t :=
  fun p e => h p (by
    cases c : v.contains p with
    | false => rfl
    | true =>
      have := List.all_eq_true.1 k p (List.contains_iff_mem.1 c)
      rw [e] at this; cases this)

theorem Only.step {v w : List Part} {r s t : State} (h : Only w r s) (k : Only v s t)
    (c : v.all w.contains = true := by decide) : Only w r t := h.trans (k.mono c)

theorem Only.stepFst {α : Type} {v w : List Part} {r s : State} {t : State × α} (h : Only w r s) (k : Fst (Only v s) t)
    (c : v.all w.contains = true := by decide) : Fst (Only w r) t := h.trans (k.mono c)

theorem Only.stepSnd {α : Type} {v w : List Part} {r s : State} {t : α × State} (h : Only w r s) (k : Snd (Only v s) t)
    (c : v.all w.contains = true := by decide) : Snd (Only w r) t := h.trans (k.mono c)

theorem Only.stepOpt {v w : List Part} {r s : State} {o : Option State} (h : Only w r s) (k : Opt (Only v s) o)
    (c : v.all w.contains = true := by decide) : Opt (Only w r) o := fun t e => h.trans ((k t e).mono c)

theorem Only.stepOptFst {α : Type} {v w : List Part} {r s : State} {o : Option (State × α)} (h : Only w r s)
    (k : Opt (Fst (Only v s)) o) (c : v.all w.contains = true := by decide) : Opt (Fst (Only w r)) o :=
  fun t e => h.trans ((k t e).mono c)

theorem Only.stepOptSnd {α : Type} {v w : List Part} {r s : State} {o : Option (α × State)} (h : Only w r s)
    (k : Opt (Snd (Only v s)) o) (c : v.all w.contains = true := by decide) : Opt (Snd (Only w r)) o :=
  fun t e => h.trans ((k t e).mono c)

theorem Only.stepNxt {v w : List Part} {r s : State} {o : Host.Outcome State Fault Refusal} (h : Only w r s)
    (k : Nxt (Only v s) o) (c : v.all w.contains = true := by decide) : Nxt (Only w r) o :=
  fun t e => h.trans ((k t e).mono c)

/-- A record update that leaves the pins alone. -/
theorem Only.upd {w : List Part} {r s : State} {v1 v2 v3 v4 v5 v6 v7 v8 v9 v10 v11 v12 v13 v14 v15 v16 v17 v18 v19 v20 v21 v22
    v23 v24 v25} (h : Only w r s)
    (k : Only w s ⟨s.pins, v1, v2, v3, v4, v5, v6, v7, v8, v9, v10, v11, v12, v13, v14, v15, v16, v17, v18, v19, v20, v21, v22,
      v23, v24, v25⟩ := by intro p; cases p <;> first | exact fun _ => rfl | exact fun h => absurd h (by decide)) :
    Only w r ⟨s.pins, v1, v2, v3, v4, v5, v6, v7, v8, v9, v10, v11, v12, v13, v14, v15, v16, v17, v18, v19, v20, v21, v22, v23,
      v24, v25⟩ := h.trans k

/-- A record update that changes pins and leaves the queue alone. -/
theorem Only.updPins {w : List Part} {r s : State} {v0 v1 v2 v3 v4 v5 v6 v7 v8 v9 v10 v11 v12 v13 v14 v15 v16 v17 v18 v19 v20 v21
    v22 v23 v24} (h : Only w r s)
    (k : Only w s ⟨v0, v1, v2, v3, v4, v5, v6, v7, v8, v9, v10, v11, v12, v13, v14, v15, v16, v17, v18, v19, v20, v21, v22, v23,
      v24, s.pending⟩ := by intro p; cases p <;> first | exact fun _ => rfl | exact fun h => absurd h (by decide)) :
    Only w r ⟨v0, v1, v2, v3, v4, v5, v6, v7, v8, v9, v10, v11, v12, v13, v14, v15, v16, v17, v18, v19, v20, v21, v22, v23, v24,
      s.pending⟩ := h.trans k

/-! ### The canonical form of memory -/

/-- Memory in its canonical form stays in it. -/
def MemOk (s t : State) : Prop := Memory.wf s.mem = true → Memory.wf t.mem = true

theorem MemOk.refl (s : State) : MemOk s s := id

theorem MemOk.step {r s t : State} (h : MemOk r s) (k : MemOk s t) : MemOk r t := fun w => k (h w)

theorem MemOk.stepFst {α : Type} {r s : State} {t : State × α} (h : MemOk r s) (k : Fst (MemOk s) t) : Fst (MemOk r) t :=
  fun w => k (h w)

theorem MemOk.stepSnd {α : Type} {r s : State} {t : α × State} (h : MemOk r s) (k : Snd (MemOk s) t) : Snd (MemOk r) t :=
  fun w => k (h w)

theorem MemOk.stepOpt {r s : State} {o : Option State} (h : MemOk r s) (k : Opt (MemOk s) o) : Opt (MemOk r) o :=
  fun t e w => k t e (h w)

theorem MemOk.stepOptFst {α : Type} {r s : State} {o : Option (State × α)} (h : MemOk r s) (k : Opt (Fst (MemOk s)) o) :
    Opt (Fst (MemOk r)) o := fun t e w => k t e (h w)

theorem MemOk.stepNxt {r s : State} {o : Host.Outcome State Fault Refusal} (h : MemOk r s) (k : Nxt (MemOk s) o) :
    Nxt (MemOk r) o := fun t e w => k t e (h w)

/-- An operation that leaves memory alone keeps its form. -/
theorem Only.memOk {v : List Part} {s t : State} (h : Only v s t) (c : v.contains .mem = false := by decide) : MemOk s t :=
  fun w => (show t.mem = s.mem from h .mem c) ▸ w

theorem Only.memOkOpt {v : List Part} {s : State} {o : Option State} (h : Opt (Only v s) o)
    (c : v.contains .mem = false := by decide) : Opt (MemOk s) o := fun t e => (h t e).memOk c

theorem Only.memOkOptFst {α : Type} {v : List Part} {s : State} {o : Option (State × α)} (h : Opt (Fst (Only v s)) o)
    (c : v.contains .mem = false := by decide) : Opt (Fst (MemOk s)) o := fun t e => (h t e).memOk c

theorem Only.memOkOptSnd {α : Type} {v : List Part} {s : State} {o : Option (α × State)} (h : Opt (Snd (Only v s)) o)
    (c : v.contains .mem = false := by decide) : Opt (Snd (MemOk s)) o := fun t e => (h t e).memOk c

theorem Only.memOkNxt {v : List Part} {s : State} {o : Host.Outcome State Fault Refusal} (h : Nxt (Only v s) o)
    (c : v.contains .mem = false := by decide) : Nxt (MemOk s) o := fun t e => (h t e).memOk c

/-- A record update that leaves memory alone. -/
theorem MemOk.upd {r s : State} {v0 v1 v2 v3 v4 v5 v6 v7 v8 v9 v11 v12 v13 v14 v15 v16 v17 v18 v19 v20 v21 v22 v23 v24 v25}
    (h : MemOk r s) : MemOk r ⟨v0, v1, v2, v3, v4, v5, v6, v7, v8, v9, s.mem, v11, v12, v13, v14, v15, v16, v17, v18, v19, v20, v21,
      v22, v23, v24, v25⟩ := h

/-! ### The device state -/

/-- The device state stands, or the device has stopped; it stays STOPPED exactly on a DEVICE_FATAL event, of which the first
record stands (R391, R447, R469). -/
def DevHeld (s t : State) : Prop :=
  (t.boot.dev = s.boot.dev ∨ t.boot.dev = 3) ∧ (s.fatalOk → t.fatalOk) ∧ ∀ r, s.events.fatal = some r → t.events.fatal = some r

theorem DevHeld.refl (s : State) : DevHeld s s := ⟨.inl rfl, id, fun _ => id⟩

theorem DevHeld.step {r s t : State} (h : DevHeld r s) (k : DevHeld s t) : DevHeld r t := by
  refine ⟨?_, fun q => k.2.1 (h.2.1 q), fun x q => k.2.2 x (h.2.2 x q)⟩
  obtain ⟨h, -⟩ := h
  obtain ⟨k, -⟩ := k
  obtain h | h := h <;> obtain k | k := k <;> simp_all

theorem DevHeld.stepFst {α : Type} {r s : State} {t : State × α} (h : DevHeld r s) (k : Fst (DevHeld s) t) :
    Fst (DevHeld r) t :=
  h.step k

theorem DevHeld.stepSnd {α : Type} {r s : State} {t : α × State} (h : DevHeld r s) (k : Snd (DevHeld s) t) :
    Snd (DevHeld r) t :=
  h.step k

theorem DevHeld.stepOpt {r s : State} {o : Option State} (h : DevHeld r s) (k : Opt (DevHeld s) o) :
    Opt (DevHeld r) o :=
  fun t e => h.step (k t e)

theorem DevHeld.stepOptFst {α : Type} {r s : State} {o : Option (State × α)} (h : DevHeld r s) (k : Opt (Fst (DevHeld s)) o) :
    Opt (Fst (DevHeld r)) o := fun t e => h.step (k t e)

theorem DevHeld.stepOptSnd {α : Type} {r s : State} {o : Option (α × State)} (h : DevHeld r s) (k : Opt (Snd (DevHeld s)) o) :
    Opt (Snd (DevHeld r)) o := fun t e => h.step (k t e)

theorem DevHeld.stepNxt {r s : State} {o : Host.Outcome State Fault Refusal} (h : DevHeld r s) (k : Nxt (DevHeld s) o) :
    Nxt (DevHeld r) o := fun t e => h.step (k t e)

/-- The device state and the first DEVICE_FATAL record as they were. -/
theorem DevHeld.of {s t : State} (h : t.boot.dev = s.boot.dev) (k : t.events.fatal = s.events.fatal) : DevHeld s t :=
  ⟨.inl h, fun q => by unfold State.fatalOk at *; rw [h, k]; exact q, fun _ => k.trans⟩

/-- An operation that leaves the boot state and the events alone keeps it. -/
theorem Only.devHeld {v : List Part} {s t : State} (h : Only v s t)
    (c : (v.contains .boot || v.contains .events) = false := by decide) : DevHeld s t := by
  simp only [Bool.or_eq_false_iff] at c
  exact .of (congrArg Boot.dev (show t.boot = s.boot from h .boot c.1)) (congrArg Events.fatal (show t.events = s.events from h .events c.2))

theorem Only.devHeldOpt {v : List Part} {s : State} {o : Option State} (h : Opt (Only v s) o)
    (c : (v.contains .boot || v.contains .events) = false := by decide) : Opt (DevHeld s) o := fun t e => (h t e).devHeld c

theorem Only.devHeldOptFst {α : Type} {v : List Part} {s : State} {o : Option (State × α)} (h : Opt (Fst (Only v s)) o)
    (c : (v.contains .boot || v.contains .events) = false := by decide) : Opt (Fst (DevHeld s)) o := fun t e => (h t e).devHeld c

theorem Only.devHeldOptSnd {α : Type} {v : List Part} {s : State} {o : Option (α × State)} (h : Opt (Snd (Only v s)) o)
    (c : (v.contains .boot || v.contains .events) = false := by decide) : Opt (Snd (DevHeld s)) o := fun t e => (h t e).devHeld c

theorem Only.devHeldNxt {v : List Part} {s : State} {o : Host.Outcome State Fault Refusal} (h : Nxt (Only v s) o)
    (c : (v.contains .boot || v.contains .events) = false := by decide) : Nxt (DevHeld s) o := fun t e => (h t e).devHeld c

/-- A record update that leaves the device state and the first DEVICE_FATAL record alone. -/
theorem DevHeld.upd {r s : State} {v0 v1 v2 v3 v4 v5 v6 v7 v8 v9 v10 v11 v12 v13 v14 v15 v16 v17 v18 v19 v20 v21 v22 v23 v24 v25}
    (h : DevHeld r s) (b : v2.dev = s.boot.dev := by rfl) (e : v19.fatal = s.events.fatal := by rfl) :
    DevHeld r ⟨v0, v1, v2, v3, v4, v5, v6, v7, v8, v9, v10, v11, v12, v13, v14, v15, v16, v17, v18, v19, v20,
      v21, v22, v23, v24, v25⟩ := h.step (.of b e)

end Sys2Proof.Machine
end

