-- ==== Sys2Proof/Laws/OnlyCore.lean ====
section
/-! SUPPORT. Which parts of the state the operations of the device, its links and the Clerk may change:
one lemma for each operation. -/

set_option Elab.async false
namespace Sys2Proof.Machine

theorem State.setStall_only {a0 a1 a2} :
    Only [.stalls] a0 (State.setStall a0 a1 a2) := by
  unfold State.setStall; refine Only.upd ?_; exact .refl _

theorem State.abortStalls_only {a0 a1} :
    Only [.stalls] a0 (State.abortStalls a0 a1) := by
  unfold State.abortStalls; split; exact .refl _; refine holds_foldl ?_ fun x2 a2_ h2 => ?_; exact .refl _
  extract_lets +onlyGivenNames x4; (try clear_value x4); split; refine holds_ite ?_ ?_
  refine Only.step ?_ State.setStall_only; exact h2; exact h2; exact h2

theorem State.await_only {a0 a1} :
    Only [.clerk] a0 (State.await a0 a1) := by
  unfold State.await; refine Only.upd ?_; exact .refl _

theorem State.setJob_only {a0 a1 a2} :
    Only [.jobs] a0 (State.setJob a0 a1 a2) := by
  unfold State.setJob; refine Only.upd ?_; exact .refl _

theorem State.setAisle_only {a0 a1 a2} :
    Only [.aisles] a0 (State.setAisle a0 a1 a2) := by
  unfold State.setAisle; refine Only.upd ?_; exact .refl _

theorem State.reserveAisle_only {a0 a1} :
    Only [.aisles] a0 (State.reserveAisle a0 a1) := by
  unfold State.reserveAisle; refine Only.step ?_ State.setAisle_only; exact .refl _

theorem State.queueAisle_only {a0 a1 a2} :
    Only [.aisles] a0 (State.queueAisle a0 a1 a2) := by
  unfold State.queueAisle; extract_lets +onlyGivenNames x0; (try clear_value x0)
  refine Only.step ?_ State.reserveAisle_only; refine Only.step ?_ State.setAisle_only; exact .refl _

theorem State.sendAisle_only {a0 a1 a2 a3 a4 a5 a6} :
    Only [.aisles] a0 (State.sendAisle a0 a1 a2 a3 a4 a5 a6) := by
  unfold State.sendAisle; split; exact .refl _; extract_lets +onlyGivenNames x0; (try clear_value x0)
  refine Only.step ?_ State.queueAisle_only; exact .refl _

theorem State.sendClerk_only {a0 a1 a2 a3 a4 a5} :
    Only [.aisles] a0 (State.sendClerk a0 a1 a2 a3 a4 a5) := by
  unfold State.sendClerk; refine Only.step ?_ State.sendAisle_only; exact .refl _

theorem State.tellAbort_only {a0 a1 a2 a3} :
    Only [.aisles] a0 (State.tellAbort a0 a1 a2 a3) := by
  unfold State.tellAbort; refine holds_foldl ?_ fun x0 a0_ h0 => ?_; exact .refl _
  refine Only.step ?_ State.sendClerk_only; exact h0

theorem State.setPage_only {a0 a1 a2} :
    Only [.pages, .stalls] a0 (State.setPage a0 a1 a2) := by
  unfold State.setPage; refine holds_ite ?_ ?_; refine Only.step ?_ State.setStall_only; exact .refl _
  refine Only.upd ?_; exact .refl _

theorem State.count_only {a0 a1 a2 a3} :
    Only [.pages, .stalls] a0 (State.count a0 a1 a2 a3) := by
  unfold State.count; refine holds_ite ?_ ?_; exact .refl _; refine Only.step ?_ State.setPage_only; exact .refl _

theorem State.setHalf_only {a0 a1 a2} :
    Only [.halves] a0 (State.setHalf a0 a1 a2) := by
  unfold State.setHalf; refine Only.upd ?_; exact .refl _

theorem State.sendSlot_only {a0 a1 a2} :
    Only [.halves] a0 (State.sendSlot a0 a1 a2) := by
  unfold State.sendSlot; extract_lets +onlyGivenNames x0; (try clear_value x0); extract_lets +onlyGivenNames x1
  (try clear_value x1); refine Only.step ?_ State.setHalf_only; exact .refl _

theorem State.request_only {a0 a1 a2 a3 a4} :
    Only [.halves] a0 (State.request a0 a1 a2 a3 a4) := by
  unfold State.request; refine Only.step ?_ State.sendSlot_only; exact .refl _

theorem State.writeCompanion_only {a0 a1 a2} :
    Only [.halves] a0 (State.writeCompanion a0 a1 a2) := by
  unfold State.writeCompanion; refine Only.step ?_ State.request_only; exact .refl _

theorem State.writeStatus_only {a0} :
    Only [.halves, .rings] a0 (State.writeStatus a0) := by
  unfold State.writeStatus; refine Only.step ?_ State.writeCompanion_only; refine Only.upd ?_; exact .refl _

theorem State.putCompletion_only {a0 a1} :
    Only [.halves, .rings] a0 (State.putCompletion a0 a1) := by
  unfold State.putCompletion; extract_lets +onlyGivenNames x0; (try clear_value x0); extract_lets +onlyGivenNames x1
  (try clear_value x1); extract_lets +onlyGivenNames x2; (try clear_value x2); extract_lets +onlyGivenNames x3
  (try clear_value x3); extract_lets +onlyGivenNames x4; (try clear_value x4); extract_lets +onlyGivenNames x5
  (try clear_value x5); extract_lets +onlyGivenNames x6
  refine (fun (h6 : Only [Part.halves, Part.rings] a0 x6) => ?_) ?_; (try clear_value x6)
  refine Only.step ?_ State.writeStatus_only; refine Only.step ?_ State.writeCompanion_only; exact h6; unfold x6
  refine Only.upd ?_; exact .refl _

theorem State.setLedger_only {a0 a1 a2} :
    Only [.ledgers] a0 (State.setLedger a0 a1 a2) := by
  unfold State.setLedger; refine Only.upd ?_; exact .refl _

theorem State.noteEnergy_only {a0 a1 a2 a3} :
    Only [.ledgers] a0 (State.noteEnergy a0 a1 a2 a3) := by
  unfold State.noteEnergy; split; refine Only.step ?_ State.setLedger_only; exact .refl _; exact .refl _

theorem State.postEvents_only {a0 a1} :
    Only [.pages, .stalls, .halves, .rings, .events, .out] a0 (State.postEvents a0 a1) := by
  induction a1 generalizing a0 with
  | zero => unfold State.postEvents; exact .refl _
  | succ n ih =>
    unfold State.postEvents; extract_lets +onlyGivenNames x0; (try clear_value x0); refine holds_ite ?_ ?_
    exact .refl _; split; exact .refl _; extract_lets +onlyGivenNames x5; (try clear_value x5)
    extract_lets +onlyGivenNames x6; (try clear_value x6); extract_lets +onlyGivenNames x7; (try clear_value x7)
    extract_lets +onlyGivenNames x8; (try clear_value x8); extract_lets +onlyGivenNames x9
    refine (fun (h9 : Only [Part.pages, Part.stalls, Part.halves, Part.rings, Part.events, Part.out] a0 x9) => ?_) ?_
    (try clear_value x9); refine Only.step ?_ ih; refine Only.step ?_ State.writeCompanion_only; exact h9; unfold x9
    refine Only.upd ?_; exact .refl _

theorem State.post_only {a0} :
    Only [.pages, .stalls, .halves, .rings, .events, .out] a0 (State.post a0) := by
  unfold State.post; extract_lets +onlyGivenNames x0
  refine (fun (h0 : Only [Part.pages, Part.stalls, Part.halves, Part.rings, Part.events, Part.out] a0 x0) => ?_) ?_
  (try clear_value x0); refine holds_ite ?_ ?_; refine Only.step ?_ State.writeStatus_only; exact h0; exact h0
  unfold x0; refine Only.step ?_ State.postEvents_only; exact .refl _

theorem State.emit_only {a0 a1} :
    Only [.out] a0 (State.emit a0 a1) := by
  unfold State.emit; refine Only.upd ?_; exact .refl _

theorem State.traceRec_only {a0 a1 a2} :
    Only [.pages, .stalls, .trace, .out] a0 (State.traceRec a0 a1 a2) := by
  unfold State.traceRec; refine holds_ite ?_ ?_; exact .refl _; extract_lets +onlyGivenNames x2; (try clear_value x2)
  extract_lets +onlyGivenNames x3; (try clear_value x3); extract_lets +onlyGivenNames x4; (try clear_value x4)
  extract_lets +onlyGivenNames x5; (try clear_value x5); extract_lets +onlyGivenNames x6
  refine (fun (h6 : Only [Part.pages, Part.stalls, Part.trace, Part.out] a0 x6) => ?_) ?_; (try clear_value x6)
  refine holds_ite ?_ ?_; refine Only.step ?_ State.count_only; exact h6; extract_lets +onlyGivenNames x10
  (try clear_value x10); extract_lets +onlyGivenNames x11
  refine (fun (h11 : Only [Part.pages, Part.stalls, Part.trace, Part.out] a0 x11) => ?_) ?_; (try clear_value x11)
  refine Only.step ?_ State.emit_only; refine Only.step ?_ State.count_only; exact h11; unfold x11; refine Only.upd ?_
  exact h6; unfold x6; refine Only.upd ?_; exact .refl _

theorem State.record_only {a0 a1} :
    Only [.pages, .stalls, .rings, .events, .trace, .out] a0 (State.record a0 a1) := by
  unfold State.record; extract_lets +onlyGivenNames x0; (try clear_value x0); extract_lets +onlyGivenNames x1
  (try clear_value x1); extract_lets +onlyGivenNames x2; (try clear_value x2); extract_lets +onlyGivenNames x3
  (try clear_value x3); extract_lets +onlyGivenNames x4
  refine (fun (h4 : Only [Part.pages, Part.stalls, Part.rings, Part.events, Part.trace, Part.out] a0 x4) => ?_) ?_
  (try clear_value x4); extract_lets +onlyGivenNames x5
  refine (fun (h5 : Only [Part.pages, Part.stalls, Part.rings, Part.events, Part.trace, Part.out] a0 x5) => ?_) ?_
  (try clear_value x5); extract_lets +onlyGivenNames x6
  refine (fun (h6 : Only [Part.pages, Part.stalls, Part.rings, Part.events, Part.trace, Part.out] a0 x6) => ?_) ?_
  (try clear_value x6); extract_lets +onlyGivenNames x7; (try clear_value x7); extract_lets +onlyGivenNames x8
  (try clear_value x8); extract_lets +onlyGivenNames x9
  refine (fun (h9 : Only [Part.pages, Part.stalls, Part.rings, Part.events, Part.trace, Part.out] a0 x9) => ?_) ?_
  (try clear_value x9); extract_lets +onlyGivenNames x10; (try clear_value x10); refine holds_ite ?_ ?_
  refine Only.step ?_ State.traceRec_only; exact h9; exact h9; unfold x9; refine Only.step ?_ State.setPage_only
  exact h6; unfold x6; refine holds_ite ?_ ?_; refine Only.step ?_ State.count_only; exact h5; exact h5; unfold x5
  refine Only.step ?_ State.count_only; exact h4; unfold x4; refine Only.upd ?_; exact .refl _

theorem State.charge_only {a0 a1 a2 a3} :
    Only [.pages, .stalls, .halves, .rings, .events, .ledgers, .trace, .out] a0 (State.charge a0 a1 a2 a3) := by
  unfold State.charge; refine holds_ite ?_ ?_; exact .refl _; extract_lets +onlyGivenNames x0
  refine (fun (h0 : Only [Part.pages, Part.stalls, Part.halves, Part.rings, Part.events, Part.ledgers, Part.trace, Part.out]
      a0 x0) => ?_) ?_
  (try clear_value x0); extract_lets +onlyGivenNames x1; (try clear_value x1); refine holds_ite ?_ ?_; exact h0
  refine Only.step ?_ State.post_only; refine Only.step ?_ State.record_only; refine Only.step ?_ State.setLedger_only
  exact h0; unfold x0; refine Only.step ?_ State.count_only; refine Only.step ?_ State.noteEnergy_only; exact .refl _

theorem State.writeCompletion_only {a0 a1 a2 a3 a4 a5 a6 a7 a8} :
    Only [.pages, .stalls, .halves, .rings, .events, .ledgers, .trace, .out] a0 (State.writeCompletion a0 a1 a2 a3 a4 a5 a6 a7
        a8) := by
  unfold State.writeCompletion; extract_lets +onlyGivenNames x0; (try clear_value x0); extract_lets +onlyGivenNames x1
  refine (fun (h1 : Only [Part.pages, Part.stalls, Part.halves, Part.rings, Part.events, Part.ledgers, Part.trace, Part.out]
      a0 x1) => ?_) ?_
  (try clear_value x1); refine holds_ite ?_ ?_; refine Only.step ?_ State.charge_only; exact h1; exact h1; unfold x1
  refine Only.step ?_ State.count_only; refine Only.step ?_ State.putCompletion_only; exact .refl _

theorem State.finishDups_only {a0 a1 a2 a3} :
    Only [.pages, .stalls, .halves, .clerk, .rings, .events, .ledgers, .trace, .out] a0 (State.finishDups a0 a1 a2 a3) := by
  unfold State.finishDups; refine holds_foldl ?_ fun x0 a0_ h0 => ?_; exact .refl _
  refine Only.step ?_ State.writeCompletion_only; refine Only.upd ?_; exact h0

theorem State.finish_only {a0 a1 a2 a3 a4 a5 a6 a7} :
    Only [.pages, .stalls, .jobs, .halves, .clerk, .rings, .events, .ledgers, .trace, .out] a0 (State.finish a0 a1 a2 a3 a4 a5
        a6 a7) := by
  unfold State.finish; refine holds_ite ?_ ?_; refine Only.step ?_ State.await_only; exact .refl _; split
  exact .refl _; extract_lets +onlyGivenNames x0; (try clear_value x0); extract_lets +onlyGivenNames x1
  refine (fun (h1 : Only [Part.pages, Part.stalls, Part.jobs, Part.halves, Part.clerk, Part.rings, Part.events, Part.ledgers,
      Part.trace, Part.out] a0 x1) => ?_) ?_
  (try clear_value x1); extract_lets +onlyGivenNames x2; (try clear_value x2); extract_lets +onlyGivenNames x3
  refine (fun (h3 : Only [Part.pages, Part.stalls, Part.jobs, Part.halves, Part.clerk, Part.rings, Part.events, Part.ledgers,
      Part.trace, Part.out] a0 x3) => ?_) ?_
  (try clear_value x3); refine Only.step ?_ State.finishDups_only; refine Only.step ?_ State.writeCompletion_only
  exact h3; unfold x3; split; refine Only.step ?_ State.setJob_only; exact h1; exact h1; unfold x1; refine Only.upd ?_
  exact .refl _

theorem State.setHub_only {a0 a1 a2} :
    Only [.hubs] a0 (State.setHub a0 a1 a2) := by
  unfold State.setHub; refine Only.upd ?_; exact .refl _

theorem State.dropRing_only {a0 a1 a2} :
    Only [.pages, .stalls] a0 (State.dropRing a0 a1 a2) := by
  unfold State.dropRing; extract_lets +onlyGivenNames x0; (try clear_value x0); refine Only.step ?_ State.count_only
  refine Only.step ?_ State.setStall_only; exact .refl _

theorem State.tellSide_only {a0 a1 a2} :
    Only [.aisles] a0 (State.tellSide a0 a1 a2) := by
  unfold State.tellSide; split; refine holds_foldl ?_ fun x0 a0_ h0 => ?_; exact .refl _
  refine Only.step ?_ State.sendClerk_only; exact h0; exact .refl _

theorem State.shadow_only {a0 a1 a2 a3 a4} :
    Only [.pages, .stalls] a0 (State.shadow a0 a1 a2 a3 a4) := by
  unfold State.shadow; refine Only.step ?_ State.setPage_only; exact .refl _

theorem State.giveRota_only {a0 a1 a2 a3} :
    Only [.pages, .stalls] a0 (State.giveRota a0 a1 a2 a3) := by
  unfold State.giveRota; refine holds_foldl ?_ fun x0 a0_ h0 => ?_; exact .refl _
  refine holds_foldl ?_ fun x2 a2_ h2 => ?_; exact h0; extract_lets +onlyGivenNames x4; (try clear_value x4)
  refine holds_ite ?_ ?_; exact h2; refine Only.step ?_ State.shadow_only; exact h2

theorem State.requestCommit_only {a0 a1 a2} :
    Only [.pages, .stalls] a0 (State.requestCommit a0 a1 a2) := by
  unfold State.requestCommit; refine Only.step ?_ State.setPage_only; exact .refl _

theorem State.suspendSlots_only {a0 a1 a2} :
    Only [.pages, .stalls] a0 (State.suspendSlots a0 a1 a2) := by
  unfold State.suspendSlots; split; exact .refl _; refine holds_foldl ?_ fun x2 a2_ h2 => ?_; exact .refl _; split
  exact h2; extract_lets +onlyGivenNames x6; (try clear_value x6); extract_lets +onlyGivenNames x7
  (try clear_value x7); extract_lets +onlyGivenNames x8
  refine (fun (h8 : Only [Part.pages, Part.stalls] a0 x8) => ?_) ?_; (try clear_value x8)
  extract_lets +onlyGivenNames x9; refine (fun (h9 : Only [Part.pages, Part.stalls] a0 x9) => ?_) ?_
  (try clear_value x9); refine Only.step ?_ State.requestCommit_only; exact h9; unfold x9; refine holds_ite ?_ ?_
  exact h8; refine Only.step ?_ State.giveRota_only; exact h8; unfold x8; refine Only.step ?_ State.shadow_only
  exact h2

theorem State.suspendJob_only {a0 a1 a2} :
    Only [.pages, .stalls, .jobs] a0 (State.suspendJob a0 a1 a2) := by
  unfold State.suspendJob; split; exact .refl _; extract_lets +onlyGivenNames x2; (try clear_value x2)
  refine holds_ite ?_ ?_; refine Only.step ?_ State.setJob_only; exact .refl _
  refine Only.step ?_ State.suspendSlots_only; refine Only.step ?_ State.setJob_only; exact .refl _

theorem State.compareSeals_only {a0 a1 a2} :
    Only [.pages, .stalls, .jobs, .aisles, .halves, .rings, .events, .trace, .out] a0 (State.compareSeals a0 a1 a2) := by
  unfold State.compareSeals; split; exact .refl _; split; exact .refl _; refine holds_ite ?_ ?_; exact .refl _; split
  exact .refl _; extract_lets +onlyGivenNames x0; (try clear_value x0); extract_lets +onlyGivenNames x1
  (try clear_value x1); extract_lets +onlyGivenNames x2; (try clear_value x2); extract_lets +onlyGivenNames x3
  refine (fun (h3 : Only [Part.pages, Part.stalls, Part.jobs, Part.aisles, Part.halves, Part.rings, Part.events, Part.trace,
      Part.out] a0 x3) => ?_) ?_
  (try clear_value x3); refine holds_ite ?_ ?_; exact h3; extract_lets +onlyGivenNames x4
  refine (fun (h4 : Only [Part.pages, Part.stalls, Part.jobs, Part.aisles, Part.halves, Part.rings, Part.events, Part.trace,
      Part.out] a0 x4) => ?_) ?_
  (try clear_value x4); refine holds_ite ?_ ?_; refine Only.step ?_ State.tellSide_only
  refine Only.step ?_ State.suspendJob_only; exact h4; exact h4; unfold x4; refine Only.step ?_ State.post_only
  refine Only.step ?_ State.record_only; exact h3; unfold x3; refine Only.step ?_ State.setJob_only; exact .refl _

theorem State.sendTable_only {a0 a1 a2 a3 a4} :
    Only [.aisles, .halves, .rings, .freeIx] a0 (State.sendTable a0 a1 a2 a3 a4) := by
  unfold State.sendTable; refine holds_ite ?_ ?_; refine Only.step ?_ State.queueAisle_only; exact .refl _
  refine holds_ite ?_ ?_; extract_lets +onlyGivenNames x0
  refine (fun (h0 : Only [Part.aisles, Part.halves, Part.rings, Part.freeIx] a0 x0) => ?_) ?_; (try clear_value x0)
  refine Only.upd ?_; exact h0; unfold x0; refine Only.step ?_ State.putCompletion_only; exact .refl _; exact .refl _

theorem State.takeSeal_only {a0 a1 a2 a3 a4 a5 a6} :
    Only [.pages, .stalls, .jobs, .aisles, .halves, .rings, .events, .ledgers, .trace, .out, .freeIx] a0 (State.takeSeal a0 a1
        a2 a3 a4 a5 a6) := by
  unfold State.takeSeal; split; exact .refl _; split; exact .refl _; extract_lets +onlyGivenNames x0
  (try clear_value x0); extract_lets +onlyGivenNames x1; (try clear_value x1); refine holds_ite ?_ ?_
  refine Only.step ?_ State.setJob_only; exact .refl _; extract_lets +onlyGivenNames x2
  refine (fun (h2 : Only [Part.pages, Part.stalls, Part.jobs, Part.aisles, Part.halves, Part.rings, Part.events, Part.ledgers,
      Part.trace, Part.out, Part.freeIx] a0 x2) => ?_) ?_
  (try clear_value x2); refine Only.step ?_ State.compareSeals_only; refine Only.step ?_ State.sendTable_only
  exact h2; unfold x2; refine Only.step ?_ State.setJob_only; exact .refl _

theorem State.sendSeal_only {a0 a1 a2 a3 a4 a5} :
    Only [.pages, .stalls, .jobs, .aisles, .halves, .rings, .events, .ledgers, .trace, .out, .freeIx] a0 (State.sendSeal a0 a1
        a2 a3 a4 a5) := by
  unfold State.sendSeal; refine holds_ite ?_ ?_; refine Only.step ?_ State.takeSeal_only; exact .refl _
  refine Only.step ?_ State.sendClerk_only; exact .refl _

theorem State.sealsOf_only {a0 a1 a2 a3 a4 a5} :
    Only [.pages, .stalls, .jobs, .aisles, .halves, .rings, .events, .ledgers, .trace, .out, .freeIx] a0 (State.sealsOf a0 a1
        a2 a3 a4 a5) := by
  unfold State.sealsOf; split; exact .refl _; refine holds_ite ?_ ?_; exact .refl _; extract_lets +onlyGivenNames x0
  (try clear_value x0); refine holds_foldl ?_ fun x1 a1_ h1 => ?_; exact .refl _; extract_lets +onlyGivenNames x2
  (try clear_value x2); refine holds_ite ?_ ?_; refine Only.step ?_ State.sendSeal_only; exact h1
  refine Only.step ?_ State.sendSeal_only; exact h1

theorem State.dropFetches_only {a0 a1 a2} :
    Only [.jobs] a0 (State.dropFetches a0 a1 a2) := by
  unfold State.dropFetches; split; refine Only.step ?_ State.setJob_only; exact .refl _; exact .refl _

theorem State.freeAhead_only {a0 a1} :
    Only [.pages, .stalls, .hubs] a0 (State.freeAhead a0 a1) := by
  unfold State.freeAhead; refine holds_foldl ?_ fun x0 a0_ h0 => ?_; exact .refl _; extract_lets +onlyGivenNames x2
  (try clear_value x2); extract_lets +onlyGivenNames x3; (try clear_value x3); extract_lets +onlyGivenNames x4
  (try clear_value x4); extract_lets +onlyGivenNames x5
  refine (fun (h5 : Only [Part.pages, Part.stalls, Part.hubs] a0 x5) => ?_) ?_; (try clear_value x5)
  refine holds_ite ?_ ?_; exact h5; refine Only.step ?_ State.count_only; exact h5; unfold x5
  refine Only.step ?_ State.setHub_only; exact h0

theorem State.discardStep_only {a0 a1 a2 a3} :
    Only [.pages, .stalls, .jobs, .hubs, .aisles, .halves, .rings, .events, .ledgers, .trace, .out, .freeIx] a0
        (State.discardStep a0 a1 a2 a3) := by
  unfold State.discardStep; split; exact .refl _; extract_lets +onlyGivenNames x0
  refine (fun (h0 : Only [Part.pages, Part.stalls, Part.jobs, Part.hubs, Part.aisles, Part.halves, Part.rings, Part.events,
      Part.ledgers, Part.trace, Part.out, Part.freeIx] a0 x0) => ?_) ?_
  (try clear_value x0); extract_lets +onlyGivenNames x1
  refine (fun (h1 : Only [Part.pages, Part.stalls, Part.jobs, Part.hubs, Part.aisles, Part.halves, Part.rings, Part.events,
      Part.ledgers, Part.trace, Part.out, Part.freeIx] a0 x1) => ?_) ?_
  (try clear_value x1); extract_lets +onlyGivenNames x2
  refine (fun (h2 : Only [Part.pages, Part.stalls, Part.jobs, Part.hubs, Part.aisles, Part.halves, Part.rings, Part.events,
      Part.ledgers, Part.trace, Part.out, Part.freeIx] a0 x2) => ?_) ?_
  (try clear_value x2); refine Only.step ?_ State.dropFetches_only; refine Only.step ?_ State.freeAhead_only; exact h2
  unfold x2; refine holds_ite ?_ ?_; refine Only.step ?_ State.sealsOf_only; refine Only.step ?_ State.setJob_only
  exact h1; exact h1; unfold x1; refine holds_foldl ?_ fun x3 a3_ h3 => ?_; exact h0
  refine holds_foldl ?_ fun x4 a4_ h4 => ?_; exact h3; refine Only.step ?_ State.dropRing_only; exact h4; unfold x0
  refine holds_foldl ?_ fun x5 a5_ h5 => ?_; exact .refl _; refine Only.step ?_ State.count_only
  refine Only.step ?_ State.setHub_only; exact h5

theorem State.failNow_only {a0 a1 a2} :
    Only [.pages, .stalls, .jobs, .hubs, .aisles, .halves, .clerk, .rings, .events, .ledgers, .trace, .out, .freeIx] a0
        (State.failNow a0 a1 a2) := by
  unfold State.failNow; split; exact .refl _; refine holds_ite ?_ ?_; exact .refl _; extract_lets +onlyGivenNames x0
  (try clear_value x0); extract_lets +onlyGivenNames x1
  refine (fun (h1 : Only [Part.pages, Part.stalls, Part.jobs, Part.hubs, Part.aisles, Part.halves, Part.clerk, Part.rings,
      Part.events, Part.ledgers, Part.trace, Part.out, Part.freeIx] a0 x1) => ?_) ?_
  (try clear_value x1); extract_lets +onlyGivenNames x2
  refine (fun (h2 : Only [Part.pages, Part.stalls, Part.jobs, Part.hubs, Part.aisles, Part.halves, Part.clerk, Part.rings,
      Part.events, Part.ledgers, Part.trace, Part.out, Part.freeIx] a0 x2) => ?_) ?_
  (try clear_value x2); extract_lets +onlyGivenNames x3
  refine (fun (h3 : Only [Part.pages, Part.stalls, Part.jobs, Part.hubs, Part.aisles, Part.halves, Part.clerk, Part.rings,
      Part.events, Part.ledgers, Part.trace, Part.out, Part.freeIx] a0 x3) => ?_) ?_
  (try clear_value x3); refine holds_foldl ?_ fun x4 a4_ h4 => ?_; exact h3; refine Only.step ?_ State.finish_only
  refine Only.step ?_ State.discardStep_only; exact h4; unfold x3; refine holds_foldl ?_ fun x5 a5_ h5 => ?_; exact h2
  refine Only.step ?_ State.tellAbort_only; exact h5; unfold x2; refine Only.step ?_ State.abortStalls_only; exact h1
  unfold x1; refine Only.step ?_ State.setJob_only; exact .refl _

theorem State.failJob_only {a0 a1 a2} :
    Only [.pages, .stalls, .jobs, .hubs, .aisles, .halves, .clerk, .rings, .events, .ledgers, .trace, .out, .freeIx] a0
        (State.failJob a0 a1 a2) := by
  unfold State.failJob; refine holds_ite ?_ ?_; refine Only.step ?_ State.failNow_only; exact .refl _
  refine Only.step ?_ State.await_only; exact .refl _

theorem State.abortSteps_only {a0 a1 a2 a3} :
    Only [.pages, .stalls, .jobs, .hubs, .aisles, .halves, .clerk, .rings, .events, .ledgers, .trace, .out, .freeIx] a0
        (State.abortSteps a0 a1 a2 a3) := by
  unfold State.abortSteps; refine holds_ite ?_ ?_; refine Only.step ?_ State.await_only; exact .refl _; split
  exact .refl _; refine holds_ite ?_ ?_; exact .refl _; refine holds_ite ?_ ?_; refine Only.step ?_ State.failJob_only
  exact .refl _; refine holds_ite ?_ ?_; extract_lets +onlyGivenNames x0; (try clear_value x0)
  refine Only.step ?_ State.post_only; refine Only.step ?_ State.failJob_only; refine Only.step ?_ State.record_only
  exact .refl _; refine Only.step ?_ State.abortStalls_only; refine Only.step ?_ State.setJob_only; exact .refl _

theorem State.flagJob_only {a0 a1 a2 a3} :
    Only [.jobs] a0 (State.flagJob a0 a1 a2 a3) := by
  unfold State.flagJob; split; exact .refl _; refine holds_ite ?_ ?_; exact .refl _; refine holds_ite ?_ ?_
  refine Only.step ?_ State.setJob_only; exact .refl _; refine holds_ite ?_ ?_; exact .refl _; split
  refine Only.step ?_ State.setJob_only; exact .refl _; refine Only.step ?_ State.setJob_only; exact .refl _

theorem State.jobsLose_only {a0 a1 a2 a3 a4} :
    Only [.pages, .stalls, .jobs, .hubs, .aisles, .halves, .clerk, .rings, .events, .ledgers, .trace, .out, .freeIx] a0
        (State.jobsLose a0 a1 a2 a3 a4) := by
  unfold State.jobsLose; refine holds_foldl ?_ fun x0 a0_ h0 => ?_; exact .refl _; split; exact h0
  refine holds_ite ?_ ?_; refine Only.step ?_ State.failJob_only; exact h0; refine holds_ite ?_ ?_; exact h0
  refine Only.step ?_ State.abortSteps_only; exact h0

theorem State.shadows_only {a0 a1 a2 a3 a4} :
    Only [.pages, .stalls] a0 (State.shadows a0 a1 a2 a3 a4) := by
  unfold State.shadows; refine holds_foldl ?_ fun x0 a0_ h0 => ?_; exact .refl _
  refine Only.step ?_ State.shadow_only; exact h0

theorem State.noteQuiet_only {a0 a1} :
    Only [.jobs] a0 (State.noteQuiet a0 a1) := by
  unfold State.noteQuiet; refine holds_foldl ?_ fun x0 a0_ h0 => ?_; exact .refl _; split; refine holds_ite ?_ ?_
  refine Only.step ?_ State.setJob_only; exact h0; exact h0; exact h0

theorem State.fence_only {a0 a1 a2} :
    Only [.pages, .stalls, .jobs, .hubs, .aisles, .halves, .clerk, .rings, .events, .ledgers, .trace, .out, .freeIx] a0
        (State.fence a0 a1 a2) := by
  unfold State.fence; refine holds_ite ?_ ?_; refine Only.step ?_ State.await_only; exact .refl _
  refine holds_ite ?_ ?_; exact .refl _; extract_lets +onlyGivenNames x0; (try clear_value x0)
  extract_lets +onlyGivenNames x1
  refine (fun (h1 : Only [Part.pages, Part.stalls, Part.jobs, Part.hubs, Part.aisles, Part.halves, Part.clerk, Part.rings,
      Part.events, Part.ledgers, Part.trace, Part.out, Part.freeIx] a0 x1) => ?_) ?_
  (try clear_value x1); extract_lets +onlyGivenNames x2
  refine (fun (h2 : Only [Part.pages, Part.stalls, Part.jobs, Part.hubs, Part.aisles, Part.halves, Part.clerk, Part.rings,
      Part.events, Part.ledgers, Part.trace, Part.out, Part.freeIx] a0 x2) => ?_) ?_
  (try clear_value x2); extract_lets +onlyGivenNames x3; (try clear_value x3); extract_lets +onlyGivenNames x4
  (try clear_value x4); extract_lets +onlyGivenNames x5; (try clear_value x5); extract_lets +onlyGivenNames x6
  (try clear_value x6); extract_lets +onlyGivenNames x7
  refine (fun (h7 : Only [Part.pages, Part.stalls, Part.jobs, Part.hubs, Part.aisles, Part.halves, Part.clerk, Part.rings,
      Part.events, Part.ledgers, Part.trace, Part.out, Part.freeIx] a0 x7) => ?_) ?_
  (try clear_value x7); refine Only.step ?_ State.post_only; refine Only.step ?_ State.record_only
  refine Only.step ?_ State.noteQuiet_only; exact h7; unfold x7; refine Only.step ?_ State.requestCommit_only
  refine Only.step ?_ State.shadows_only; refine Only.step ?_ State.shadows_only
  refine Only.step ?_ State.setStall_only; exact h2; unfold x2; refine Only.step ?_ State.jobsLose_only; exact h1
  unfold x1; refine Only.upd ?_; exact .refl _

theorem State.stopDevice_only {a0 a1} :
    Only [.boot, .pages, .stalls, .jobs, .hubs, .aisles, .halves, .clerk, .rings, .events, .ledgers, .trace, .out, .freeIx] a0
        (State.stopDevice a0 a1) := by
  unfold State.stopDevice; extract_lets +onlyGivenNames x0
  refine (fun (h0 : Only [Part.boot, Part.pages, Part.stalls, Part.jobs, Part.hubs, Part.aisles, Part.halves, Part.clerk,
      Part.rings, Part.events, Part.ledgers, Part.trace, Part.out, Part.freeIx] a0 x0) => ?_) ?_
  (try clear_value x0); refine Only.upd ?_; exact h0; unfold x0; refine holds_foldl ?_ fun x1 a1_ h1 => ?_
  exact .refl _; refine Only.step ?_ State.failNow_only; exact h1

theorem State.raise_only {a0 a1} :
    Only [.boot, .pages, .stalls, .jobs, .hubs, .aisles, .halves, .clerk, .rings, .events, .ledgers, .trace, .out, .freeIx] a0
        (State.raise a0 a1) := by
  unfold State.raise; extract_lets +onlyGivenNames x0
  refine (fun (h0 : Only [Part.boot, Part.pages, Part.stalls, Part.jobs, Part.hubs, Part.aisles, Part.halves, Part.clerk,
      Part.rings, Part.events, Part.ledgers, Part.trace, Part.out, Part.freeIx] a0 x0) => ?_) ?_
  (try clear_value x0); extract_lets +onlyGivenNames x1
  refine (fun (h1 : Only [Part.boot, Part.pages, Part.stalls, Part.jobs, Part.hubs, Part.aisles, Part.halves, Part.clerk,
      Part.rings, Part.events, Part.ledgers, Part.trace, Part.out, Part.freeIx] a0 x1) => ?_) ?_
  (try clear_value x1); extract_lets +onlyGivenNames x2
  refine (fun (h2 : Only [Part.boot, Part.pages, Part.stalls, Part.jobs, Part.hubs, Part.aisles, Part.halves, Part.clerk,
      Part.rings, Part.events, Part.ledgers, Part.trace, Part.out, Part.freeIx] a0 x2) => ?_) ?_
  (try clear_value x2); refine Only.step ?_ State.post_only; exact h2; unfold x2; split
  refine Only.step ?_ State.failJob_only; exact h1; refine holds_ite ?_ ?_; refine Only.step ?_ State.fence_only
  exact h1; exact h1; refine Only.step ?_ State.stopDevice_only; exact h1; refine holds_ite ?_ ?_
  refine Only.step ?_ State.abortSteps_only; exact h1; exact h1; exact h1; unfold x1; split
  refine Only.step ?_ State.flagJob_only; exact h0; exact h0; unfold x0; refine Only.step ?_ State.record_only
  exact .refl _

theorem State.chargeIssue_only {a0 a1 a2 a3 a4 a5} :
    Only [.pages, .stalls, .halves, .rings, .events, .ledgers, .trace, .out] a0 (State.chargeIssue a0 a1 a2 a3 a4 a5) := by
  unfold State.chargeIssue; refine holds_ite ?_ ?_; extract_lets +onlyGivenNames x0; (try clear_value x0)
  extract_lets +onlyGivenNames x1; (try clear_value x1); extract_lets +onlyGivenNames x2; (try clear_value x2)
  refine Only.step ?_ State.charge_only; refine Only.step ?_ State.setLedger_only; exact .refl _
  refine Only.step ?_ State.charge_only; exact .refl _

theorem State.countHbm_only {a0 a1 a2 a3} :
    Only [.pages, .stalls] a0 (State.countHbm a0 a1 a2 a3) := by
  unfold State.countHbm; refine holds_ite ?_ ?_; refine Only.step ?_ State.count_only; exact .refl _; exact .refl _

theorem State.countRead_only {a0 a1} :
    Only [.pages, .stalls] a0 (State.countRead a0 a1) := by
  unfold State.countRead; refine Only.step ?_ State.countHbm_only; refine Only.step ?_ State.countHbm_only
  exact .refl _

theorem State.useXlate_only {a0 a1 a2 a3} :
    Only [.pages, .stalls, .hubs, .halves, .rings, .events, .ledgers, .trace, .out] a0 (State.useXlate a0 a1 a2 a3) := by
  unfold State.useXlate; extract_lets +onlyGivenNames x0; (try clear_value x0); split
  refine Only.step ?_ State.count_only; refine Only.step ?_ State.setHub_only; exact .refl _
  extract_lets +onlyGivenNames x1
  refine (fun (h1 : Only [Part.pages, Part.stalls, Part.hubs, Part.halves, Part.rings, Part.events, Part.ledgers, Part.trace,
      Part.out] a0 x1) => ?_) ?_
  (try clear_value x1); split; exact h1; refine Only.step ?_ State.setHub_only; exact h1; unfold x1
  refine holds_foldl ?_ fun x2 a2_ h2 => ?_; refine Only.step ?_ State.count_only; exact .refl _
  refine Only.step ?_ State.charge_only; refine Only.step ?_ State.countRead_only; exact h2

theorem State.noteFetch_only {a0 a1 a2} :
    Only [.pages, .stalls, .hubs] a0 (State.noteFetch a0 a1 a2) := by
  unfold State.noteFetch; refine holds_ite ?_ ?_; exact .refl _; extract_lets +onlyGivenNames x2; (try clear_value x2)
  extract_lets +onlyGivenNames x3; (try clear_value x3); extract_lets +onlyGivenNames x4; (try clear_value x4); split
  refine holds_ite ?_ ?_; exact .refl _; refine Only.step ?_ State.setHub_only; exact .refl _; refine holds_ite ?_ ?_
  refine Only.step ?_ State.count_only; exact .refl _; refine Only.step ?_ State.setHub_only; exact .refl _

theorem State.takeRead_only {a0 a1 a2 a3} :
    Only [.pages, .stalls, .hubs, .halves, .rings, .events, .ledgers, .trace, .out] a0 (State.takeRead a0 a1 a2 a3) := by
  unfold State.takeRead; extract_lets +onlyGivenNames x0; (try clear_value x0); split; exact .refl _; split
  exact .refl _; refine holds_ite ?_ ?_; exact .refl _; extract_lets +onlyGivenNames x1
  refine (fun (h1 : Only [Part.pages, Part.stalls, Part.hubs, Part.halves, Part.rings, Part.events, Part.ledgers, Part.trace,
      Part.out] a0 x1) => ?_) ?_
  (try clear_value x1); refine holds_ite ?_ ?_; exact h1; extract_lets +onlyGivenNames x2
  refine (fun (h2 : Only [Part.pages, Part.stalls, Part.hubs, Part.halves, Part.rings, Part.events, Part.ledgers, Part.trace,
      Part.out] a0 x2) => ?_) ?_
  (try clear_value x2); extract_lets +onlyGivenNames x3; (try clear_value x3); extract_lets +onlyGivenNames x4
  (try clear_value x4); extract_lets +onlyGivenNames x5; (try clear_value x5); split
  refine Only.step ?_ State.count_only; exact h2; exact h2; extract_lets +onlyGivenNames x6
  refine (fun (h6 : Only [Part.pages, Part.stalls, Part.hubs, Part.halves, Part.rings, Part.events, Part.ledgers, Part.trace,
      Part.out] a0 x6) => ?_) ?_
  (try clear_value x6); extract_lets +onlyGivenNames x7; (try clear_value x7); refine Only.step ?_ State.setStall_only
  exact h6; unfold x6; refine Only.step ?_ State.count_only; refine Only.step ?_ State.setHub_only; exact h2
  unfold x2; refine Only.step ?_ State.noteFetch_only; exact h1; unfold x1; refine Only.step ?_ State.useXlate_only
  exact .refl _

theorem State.aheadOne_only {a0 a1 a2 a3 a4} :
    Fst (Only [.pages, .stalls, .hubs, .halves, .rings, .events, .ledgers, .trace, .out] a0) (State.aheadOne a0 a1 a2 a3 a4)
        := by
  unfold State.aheadOne; extract_lets +onlyGivenNames x0; refine holds_ite ?_ ?_; unfold x0; beta_reduce
  change Only _ _ (Prod.fst (_, _)); dsimp only; refine Only.step ?_ State.count_only; exact .refl _
  refine holds_ite ?_ ?_; unfold x0; beta_reduce; change Only _ _ (Prod.fst (_, _)); dsimp only
  refine Only.step ?_ State.count_only; exact .refl _; extract_lets +onlyGivenNames x1; (try clear_value x1)
  extract_lets +onlyGivenNames x2
  refine (fun (h2 : Only [Part.pages, Part.stalls, Part.hubs, Part.halves, Part.rings, Part.events, Part.ledgers, Part.trace,
      Part.out] a0 x2) => ?_) ?_
  (try clear_value x2); extract_lets +onlyGivenNames x3; (try clear_value x3); refine holds_ite ?_ ?_; unfold x0
  beta_reduce; change Only _ _ (Prod.fst (_, _)); dsimp only; refine Only.step ?_ State.count_only; exact h2
  refine holds_ite ?_ ?_; unfold x0; beta_reduce; change Only _ _ (Prod.fst (_, _)); dsimp only
  refine Only.step ?_ State.count_only; exact h2; extract_lets +onlyGivenNames x4; (try clear_value x4)
  extract_lets +onlyGivenNames x5; (try clear_value x5); extract_lets +onlyGivenNames x6; refine holds_ite ?_ ?_
  unfold x6; beta_reduce; extract_lets +onlyGivenNames x7; (try clear_value x7); change Only _ _ (Prod.fst (_, _))
  dsimp only; refine Only.step ?_ State.noteFetch_only; refine Only.step ?_ State.count_only
  refine Only.step ?_ State.setHub_only; exact h2; split; refine holds_ite ?_ ?_; unfold x0; beta_reduce
  change Only _ _ (Prod.fst (_, _)); dsimp only; refine Only.step ?_ State.count_only; exact h2; unfold x6
  beta_reduce; extract_lets +onlyGivenNames x8; (try clear_value x8); change Only _ _ (Prod.fst (_, _)); dsimp only
  refine Only.step ?_ State.noteFetch_only; refine Only.step ?_ State.count_only
  refine Only.step ?_ State.setHub_only; refine Only.step ?_ State.count_only; refine Only.step ?_ State.setHub_only
  exact h2; unfold x0; beta_reduce; change Only _ _ (Prod.fst (_, _)); dsimp only
  refine Only.step ?_ State.count_only; exact h2; unfold x2; refine Only.step ?_ State.useXlate_only; exact .refl _

theorem State.aheadWord_only {a0 a1 a2 a3 a4} :
    Only [.boot, .pages, .stalls, .jobs, .hubs, .aisles, .halves, .clerk, .rings, .events, .ledgers, .trace, .out, .freeIx] a0
        (State.aheadWord a0 a1 a2 a3 a4) := by
  unfold State.aheadWord; extract_lets +onlyGivenNames x0; (try clear_value x0); extract_lets +onlyGivenNames x1
  (try clear_value x1); extract_lets +onlyGivenNames x2
  refine (fun (h2 : Fst (Only [Part.boot, Part.pages, Part.stalls, Part.jobs, Part.hubs, Part.aisles, Part.halves, Part.clerk,
      Part.rings, Part.events, Part.ledgers, Part.trace, Part.out, Part.freeIx] a0) x2) => ?_) ?_
  (try clear_value x2); split; exact h2; refine Only.step ?_ State.raise_only; exact h2; unfold x2
  refine holds_foldl ?_ fun x3 a3_ h3 => ?_; change Only _ _ (Prod.fst (_, _)); dsimp only; exact .refl _
  extract_lets +onlyGivenNames x4
  refine (fun (h4 : Fst (Only [Part.boot, Part.pages, Part.stalls, Part.jobs, Part.hubs, Part.aisles, Part.halves, Part.clerk,
      Part.rings, Part.events, Part.ledgers, Part.trace, Part.out, Part.freeIx] a0) x4) => ?_) ?_
  (try clear_value x4); exact h4; unfold x4; refine Only.stepFst ?_ State.aheadOne_only; exact h3

theorem State.resetStall_only {a0 a1 a2} :
    Only [.pages, .stalls, .jobs, .hubs, .aisles, .halves, .clerk, .rings, .events, .ledgers, .trace, .out, .freeIx] a0
        (State.resetStall a0 a1 a2) := by
  unfold State.resetStall; extract_lets +onlyGivenNames x0; (try clear_value x0); extract_lets +onlyGivenNames x1
  (try clear_value x1); extract_lets +onlyGivenNames x2
  refine (fun (h2 : Only [Part.pages, Part.stalls, Part.jobs, Part.hubs, Part.aisles, Part.halves, Part.clerk, Part.rings,
      Part.events, Part.ledgers, Part.trace, Part.out, Part.freeIx] a0 x2) => ?_) ?_
  (try clear_value x2); extract_lets +onlyGivenNames x3
  refine (fun (h3 : Only [Part.pages, Part.stalls, Part.jobs, Part.hubs, Part.aisles, Part.halves, Part.clerk, Part.rings,
      Part.events, Part.ledgers, Part.trace, Part.out, Part.freeIx] a0 x3) => ?_) ?_
  (try clear_value x3); extract_lets +onlyGivenNames x4
  refine (fun (h4 : Only [Part.pages, Part.stalls, Part.jobs, Part.hubs, Part.aisles, Part.halves, Part.clerk, Part.rings,
      Part.events, Part.ledgers, Part.trace, Part.out, Part.freeIx] a0 x4) => ?_) ?_
  (try clear_value x4); refine Only.upd ?_; exact h4; unfold x4; refine Only.step ?_ State.requestCommit_only
  refine Only.step ?_ State.shadows_only; exact h3; unfold x3; refine Only.step ?_ State.jobsLose_only; exact h2
  unfold x2; refine Only.step ?_ State.post_only; refine Only.step ?_ State.record_only; exact .refl _

theorem State.strike_only {a0 a1 a2 a3} :
    Only [.pages, .stalls, .jobs, .hubs, .aisles, .halves, .clerk, .rings, .events, .ledgers, .trace, .out, .freeIx] a0
        (State.strike a0 a1 a2 a3) := by
  unfold State.strike; refine holds_ite ?_ ?_; refine Only.step ?_ State.await_only; exact .refl _
  extract_lets +onlyGivenNames x0; (try clear_value x0); extract_lets +onlyGivenNames x1
  refine (fun (h1 : Only [Part.pages, Part.stalls, Part.jobs, Part.hubs, Part.aisles, Part.halves, Part.clerk, Part.rings,
      Part.events, Part.ledgers, Part.trace, Part.out, Part.freeIx] a0 x1) => ?_) ?_
  (try clear_value x1); extract_lets +onlyGivenNames x2; (try clear_value x2); refine holds_ite ?_ ?_
  refine Only.step ?_ State.resetStall_only; exact h1; refine holds_ite ?_ ?_; refine Only.step ?_ State.fence_only
  exact h1; exact h1; unfold x1; refine Only.upd ?_; exact .refl _

theorem State.sendRemote_only {a0 a1 a2 a3 a4 a5} :
    Only [.aisles] a0 (State.sendRemote a0 a1 a2 a3 a4 a5) := by
  unfold State.sendRemote; extract_lets +onlyGivenNames x0; (try clear_value x0); extract_lets +onlyGivenNames x1
  (try clear_value x1); refine Only.step ?_ State.sendAisle_only; exact .refl _

theorem State.effect_only {a0 a1} :
    Only [.boot, .pages, .stalls, .jobs, .hubs, .aisles, .halves, .clerk, .rings, .events, .ledgers, .trace, .out, .freeIx] a0
        (State.effect a0 a1) := by
  unfold State.effect; split; refine Only.step ?_ State.raise_only; exact .refl _
  refine Only.step ?_ State.count_only; exact .refl _; extract_lets +onlyGivenNames x0
  refine (fun (h0 : Only [Part.boot, Part.pages, Part.stalls, Part.jobs, Part.hubs, Part.aisles, Part.halves, Part.clerk,
      Part.rings, Part.events, Part.ledgers, Part.trace, Part.out, Part.freeIx] a0 x0) => ?_) ?_
  (try clear_value x0); refine Only.step ?_ State.emit_only; exact h0; unfold x0; split
  refine Only.step ?_ State.charge_only; exact .refl _; exact .refl _; extract_lets +onlyGivenNames x1
  refine (fun (h1 : Only [Part.boot, Part.pages, Part.stalls, Part.jobs, Part.hubs, Part.aisles, Part.halves, Part.clerk,
      Part.rings, Part.events, Part.ledgers, Part.trace, Part.out, Part.freeIx] a0 x1) => ?_) ?_
  (try clear_value x1); refine holds_ite ?_ ?_; refine Only.step ?_ State.traceRec_only; exact h1; exact h1; unfold x1
  refine Only.step ?_ State.chargeIssue_only; exact .refl _; refine holds_foldl ?_ fun x2 a2_ h2 => ?_; exact .refl _
  refine Only.step ?_ State.takeRead_only; exact h2; refine holds_ite ?_ ?_; exact .refl _
  refine Only.step ?_ State.useXlate_only; exact .refl _; refine Only.step ?_ State.aheadWord_only; exact .refl _
  refine Only.step ?_ State.strike_only; exact .refl _; refine Only.step ?_ State.sendRemote_only
  refine Only.step ?_ State.charge_only; exact .refl _

theorem State.effects_only {a0 a1} :
    Only [.boot, .pages, .stalls, .jobs, .hubs, .aisles, .halves, .clerk, .rings, .events, .ledgers, .trace, .out, .freeIx] a0
        (State.effects a0 a1) := by
  unfold State.effects; refine holds_foldl ?_ fun x0 a0_ h0 => ?_; exact .refl _
  refine Only.step ?_ State.effect_only; exact h0

theorem State.onStall_only {a0 a1 a2 a3} :
    Only [.boot, .pages, .stalls, .jobs, .hubs, .aisles, .halves, .clerk, .rings, .events, .ledgers, .trace, .out, .freeIx] a0
        (State.onStall a0 a1 a2 a3) := by
  unfold State.onStall; extract_lets +onlyGivenNames x0; (try clear_value x0); extract_lets +onlyGivenNames x1
  (try clear_value x1); refine Only.step ?_ State.effects_only; refine Only.step ?_ State.setStall_only; exact .refl _

theorem State.oweSlot_only {a0 a1 a2} :
    Only [.halves] a0 (State.oweSlot a0 a1 a2) := by
  unfold State.oweSlot; extract_lets +onlyGivenNames x0; (try clear_value x0); refine Only.step ?_ State.setHalf_only
  exact .refl _

theorem State.touch_only {a0 a1 a2} :
    Only [.boot, .pages, .stalls, .jobs, .hubs, .aisles, .halves, .clerk, .rings, .events, .ledgers, .trace, .out, .freeIx] a0
        (State.touch a0 a1 a2) := by
  unfold State.touch; refine Only.step ?_ State.onStall_only; exact .refl _

theorem State.advance_only {a0 : State} {a1 : Nat} : Only [.time, .pages, .stalls] a0 (a0.advance a1) := by
  have u : ∀ s : State, Only [.time, .pages, .stalls] s { s with bell := { s.bell with now := a1 % 2 ^ 64 } } := fun s p => by
    cases p <;> first | exact fun _ => rfl | exact fun h => absurd h (by decide)
  unfold State.advance
  refine holds_ite (.refl _) ?_
  exact holds_ite (.step (u _) State.count_only) (u _)

theorem State.putFlit_only {a0 a1 a2 a3} :
    Only [.pages, .stalls, .aisles, .out] a0 (State.putFlit a0 a1 a2 a3) := by
  unfold State.putFlit; extract_lets +onlyGivenNames x0; (try clear_value x0); extract_lets +onlyGivenNames x1
  (try clear_value x1); extract_lets +onlyGivenNames x2; (try clear_value x2); extract_lets +onlyGivenNames x3
  (try clear_value x3); extract_lets +onlyGivenNames x4; (try clear_value x4); extract_lets +onlyGivenNames x5
  refine (fun (h5 : Only [Part.pages, Part.stalls, Part.aisles, Part.out] a0 x5) => ?_) ?_; (try clear_value x5)
  extract_lets +onlyGivenNames x6; (try clear_value x6); refine holds_ite ?_ ?_; refine Only.step ?_ State.count_only
  exact h5; refine holds_ite ?_ ?_; refine Only.step ?_ State.count_only; exact h5; exact h5; unfold x5
  refine Only.step ?_ State.emit_only; refine Only.step ?_ State.setAisle_only; exact .refl _

theorem State.aisleBeat_only {a0 a1 a2 a3} :
    Only [.pages, .stalls, .aisles, .halves, .rings, .events, .ledgers, .trace, .out] a0 (State.aisleBeat a0 a1 a2 a3) := by
  unfold State.aisleBeat; extract_lets +onlyGivenNames x0; (try clear_value x0); split; exact .refl _
  extract_lets +onlyGivenNames x1; (try clear_value x1); extract_lets +onlyGivenNames x2; (try clear_value x2)
  extract_lets +onlyGivenNames x3
  refine (fun (h3 : Only [Part.pages, Part.stalls, Part.aisles, Part.halves, Part.rings, Part.events, Part.ledgers,
      Part.trace, Part.out] a0 x3) => ?_) ?_
  (try clear_value x3); extract_lets +onlyGivenNames x4
  refine (fun (h4 : Only [Part.pages, Part.stalls, Part.aisles, Part.halves, Part.rings, Part.events, Part.ledgers,
      Part.trace, Part.out] a0 x4) => ?_) ?_
  (try clear_value x4); refine Only.step ?_ State.putFlit_only; exact h4; unfold x4; split
  refine Only.step ?_ State.charge_only; exact h3; exact h3; unfold x3; refine Only.step ?_ State.setAisle_only
  exact .refl _

theorem State.idleFlit_only {a0 a1 a2} :
    Only [.pages, .stalls, .aisles, .out] a0 (State.idleFlit a0 a1 a2) := by
  unfold State.idleFlit; refine Only.step ?_ State.putFlit_only; exact .refl _

theorem State.aisleSlot_only {a0 a1 a2 a3 a4} :
    Fst (Only [.pages, .stalls, .aisles, .halves, .rings, .events, .ledgers, .trace, .out] a0) (State.aisleSlot a0 a1 a2 a3
        a4) := by
  unfold State.aisleSlot; extract_lets +onlyGivenNames x0; (try clear_value x0); refine holds_ite ?_ ?_
  change Only _ _ (Prod.fst (_, _)); dsimp only; exact .refl _; extract_lets +onlyGivenNames x1
  refine (fun (h1 : Only [Part.pages, Part.stalls, Part.aisles, Part.halves, Part.rings, Part.events, Part.ledgers,
      Part.trace, Part.out] a0 x1) => ?_) ?_
  (try clear_value x1); split; refine holds_ite ?_ ?_; exact h1; refine holds_ite ?_ ?_
  change Only _ _ (Prod.fst (_, _)); dsimp only; refine Only.step ?_ State.aisleBeat_only; exact h1
  change Only _ _ (Prod.fst (_, _)); dsimp only; refine Only.step ?_ State.idleFlit_only; exact h1
  change Only _ _ (Prod.fst (_, _)); dsimp only; refine holds_ite ?_ ?_; exact h1
  refine Only.step ?_ State.idleFlit_only; exact h1; unfold x1; refine Only.step ?_ State.count_only; exact .refl _

theorem State.freeOutput_only {a0 a1 a2} :
    Only [.arbs] a0 (State.freeOutput a0 a1 a2) := by
  unfold State.freeOutput; split; refine Only.upd ?_; exact .refl _; exact .refl _

theorem State.putSlot_only {a0 a1 a2 a3} :
    Only [.halves, .out] a0 (State.putSlot a0 a1 a2 a3) := by
  unfold State.putSlot; extract_lets +onlyGivenNames x0; (try clear_value x0); extract_lets +onlyGivenNames x1
  (try clear_value x1); extract_lets +onlyGivenNames x2; (try clear_value x2); extract_lets +onlyGivenNames x3
  (try clear_value x3); extract_lets +onlyGivenNames x4; (try clear_value x4); refine Only.step ?_ State.emit_only
  refine Only.step ?_ State.setHalf_only; exact .refl _

theorem State.halfBeat_only {a0 a1 a2 a3 a4} :
    Only [.pages, .stalls, .halves, .out] a0 (State.halfBeat a0 a1 a2 a3 a4) := by
  unfold State.halfBeat; extract_lets +onlyGivenNames x0; (try clear_value x0); extract_lets +onlyGivenNames x1
  refine (fun (h1 : Only [Part.pages, Part.stalls, Part.halves, Part.out] a0 x1) => ?_) ?_; (try clear_value x1)
  refine Only.step ?_ State.count_only; refine Only.step ?_ State.putSlot_only; exact h1; unfold x1
  refine Only.step ?_ State.setHalf_only; exact .refl _

theorem State.idleSlot_only {a0 a1 a2} :
    Only [.halves, .out] a0 (State.idleSlot a0 a1 a2) := by
  unfold State.idleSlot; refine Only.step ?_ State.putSlot_only; exact .refl _

theorem State.halfSlot_only {a0 a1 a2 a3 a4} :
    Fst (Only [.pages, .stalls, .halves, .out] a0) (State.halfSlot a0 a1 a2 a3 a4) := by
  unfold State.halfSlot; refine holds_ite ?_ ?_; change Only _ _ (Prod.fst (_, _)); dsimp only; exact .refl _
  extract_lets +onlyGivenNames x0
  refine (fun (h0 : Only [Part.pages, Part.stalls, Part.halves, Part.out] a0 x0) => ?_) ?_; (try clear_value x0)
  extract_lets +onlyGivenNames x1; (try clear_value x1); refine holds_ite ?_ ?_; exact h0; split
  change Only _ _ (Prod.fst (_, _)); dsimp only; refine Only.step ?_ State.halfBeat_only; exact h0
  change Only _ _ (Prod.fst (_, _)); dsimp only; refine Only.step ?_ State.idleSlot_only; exact h0; unfold x0
  refine Only.step ?_ State.setHalf_only; exact .refl _

theorem State.setChan_only {a0 a1 a2} :
    Only [.chans] a0 (State.setChan a0 a1 a2) := by
  unfold State.setChan; refine Only.upd ?_; exact .refl _

theorem State.occupy_only {a0 a1 a2 a3} :
    Only [.arbs] a0 (State.occupy a0 a1 a2 a3) := by
  unfold State.occupy; extract_lets +onlyGivenNames x0; (try clear_value x0); refine Only.upd ?_; exact .refl _

theorem State.refreshed_only {a0} :
    Only [.pages, .stalls, .clerk] a0 (State.refreshed a0) := by
  unfold State.refreshed; refine Only.step ?_ State.count_only; refine Only.upd ?_; exact .refl _

theorem State.clerkAct_only {a0 a1} :
    Only [.pages, .stalls, .jobs, .hubs, .aisles, .halves, .clerk, .rings, .events, .ledgers, .trace, .out, .freeIx] a0
        (State.clerkAct a0 a1) := by
  unfold State.clerkAct; split; refine Only.step ?_ State.failJob_only; exact .refl _
  refine Only.step ?_ State.abortSteps_only; exact .refl _; refine Only.step ?_ State.fence_only; exact .refl _
  refine Only.step ?_ State.strike_only; exact .refl _; refine Only.step ?_ State.finish_only; exact .refl _

theorem State.setSolo_only {a0 a1} :
    Only [.jobs] a0 (State.setSolo a0 a1) := by
  unfold State.setSolo; split; exact .refl _; split; refine Only.step ?_ State.setJob_only; exact .refl _
  exact .refl _

theorem State.sendIdent_only {a0 a1 a2} :
    Only [.pages, .stalls, .aisles, .out] a0 (State.sendIdent a0 a1 a2) := by
  unfold State.sendIdent; extract_lets +onlyGivenNames x0; (try clear_value x0); extract_lets +onlyGivenNames x1
  (try clear_value x1); refine Only.step ?_ State.putFlit_only; exact .refl _

theorem State.dueIdents_only {a0 a1 a2 a3} :
    Only [.pages, .stalls, .aisles, .out] a0 (State.dueIdents a0 a1 a2 a3) := by
  induction a3 generalizing a0 a1 a2 with
  | zero =>
    unfold State.dueIdents; exact .refl _
  | succ n ih =>
    unfold State.dueIdents; extract_lets +onlyGivenNames x0; (try clear_value x0); extract_lets +onlyGivenNames x1
    (try clear_value x1); refine holds_ite ?_ ?_; exact .refl _; refine Only.step ?_ ih
    refine Only.step ?_ State.sendIdent_only; refine Only.step ?_ State.setAisle_only; exact .refl _

theorem State.writeLines_only {a0 a1 a2} :
    Only [.halves] a0 (State.writeLines a0 a1 a2) := by
  unfold State.writeLines; refine holds_foldl ?_ fun x0 a0_ h0 => ?_; exact .refl _
  refine Only.step ?_ State.writeCompanion_only; exact h0

theorem State.writeFails_only {a0 a1 a2} :
    Fst (Only [.pages, .stalls] a0) (State.writeFails a0 a1 a2) := by
  unfold State.writeFails; refine holds_ite ?_ ?_; change Only _ _ (Prod.fst (_, _)); dsimp only
  refine Only.step ?_ State.countHbm_only; exact .refl _; change Only _ _ (Prod.fst (_, _)); dsimp only
  refine Only.step ?_ State.countHbm_only; refine Only.step ?_ State.countHbm_only; exact .refl _

theorem State.putLine_only {a0 a1 a2 a3} :
    Only [.pages, .stalls, .mem, .marks] a0 (State.putLine a0 a1 a2 a3) := by
  unfold State.putLine; extract_lets +onlyGivenNames x0; (try clear_value x0); refine Only.step ?_ State.countHbm_only
  refine Only.upd ?_; exact .refl _

theorem State.mergeLine_only {a0 a1 a2 a3 a4} :
    Only [.pages, .stalls, .mem, .marks] a0 (State.mergeLine a0 a1 a2 a3 a4) := by
  unfold State.mergeLine; refine holds_ite ?_ ?_; refine Only.step ?_ State.putLine_only; exact .refl _
  extract_lets +onlyGivenNames x0; (try clear_value x0); extract_lets +onlyGivenNames x1; (try clear_value x1)
  refine Only.step ?_ State.putLine_only; refine Only.step ?_ State.countRead_only; exact .refl _

theorem State.putPart_only {a0 a1 a2} :
    Only [.pages, .stalls, .mem, .marks] a0 (State.putPart a0 a1 a2) := by
  unfold State.putPart; extract_lets +onlyGivenNames x0; (try clear_value x0)
  refine Only.step ?_ State.mergeLine_only; exact .refl _

theorem State.putBytes_only {a0 a1 a2} :
    Only [.pages, .stalls, .mem, .marks] a0 (State.putBytes a0 a1 a2) := by
  unfold State.putBytes; refine holds_foldl ?_ fun x0 a0_ h0 => ?_; exact .refl _
  refine Only.step ?_ State.putPart_only; exact h0

theorem State.zeroFill_only {a0 a1 a2} :
    Only [.pages, .stalls, .mem, .marks] a0 (State.zeroFill a0 a1 a2) := by
  unfold State.zeroFill; refine Only.step ?_ State.countHbm_only; refine Only.upd ?_; exact .refl _

theorem State.within_only {w : List Part} {r a0 a1 : State} (h : Only w r a0) (k : Only w r a1) :
    Only w r (a0.within a1) := by
  intro p e
  have h := h p e
  have k := k p e
  cases p <;> first | exact k | exact h | skip
  · have h : a0.pins = r.pins := h
    have k : a1.pins = r.pins := k
    show { a0.pins with lastTrip := a1.pins.lastTrip } = r.pins
    rw [h, k]
  · have h : a0.fuses = r.fuses := h
    have k : a1.fuses = r.fuses := k
    show { a0.fuses with rollback := max a0.fuses.rollback a1.fuses.rollback } = r.fuses
    rw [h, k, Nat.max_self]

theorem State.on_only {w : List Part} {r a0 a1 : State} (h : Only w r a0) (k : Only w r a1) :
    Only w r (a0.on a1) := by
  unfold State.on
  exact holds_ite (State.within_only h k) h

theorem State.onClerk_only {w : List Part} {r a0 a1 : State} (h : Only w r a0) (k : Only w r a1) :
    Only w r (a0.onClerk a1) := by
  unfold State.onClerk
  exact holds_ite (State.within_only h k) h

theorem State.putServed_only {a0 a1 a2 a3 a4 a5 a6} :
    Only [.pages, .stalls, .mem, .marks] a0 (State.putServed a0 a1 a2 a3 a4 a5 a6) := by
  unfold State.putServed; refine holds_ite ?_ ?_; refine Only.step ?_ State.mergeLine_only; exact .refl _
  extract_lets +onlyGivenNames x3; (try clear_value x3); extract_lets +onlyGivenNames x4; (try clear_value x4)
  refine holds_ite ?_ ?_; refine Only.step ?_ State.mergeLine_only; exact .refl _; extract_lets +onlyGivenNames x8
  (try clear_value x8); extract_lets +onlyGivenNames x9
  refine (fun (h9 : Only [Part.pages, Part.stalls, Part.mem, Part.marks] a0 x9) => ?_) ?_; (try clear_value x9)
  refine holds_ite ?_ ?_; exact h9; refine Only.step ?_ State.mergeLine_only; exact h9; unfold x9
  refine holds_ite ?_ ?_; exact .refl _; refine Only.step ?_ State.mergeLine_only; exact .refl _

end Sys2Proof.Machine
end

