-- ==== Sys2Proof/Laws/State.lean ====
section
/-! SUPPORT. What each update of the state leaves in each field, reading back what was put, bell time, and what the clocked
logic may not change. -/

set_option Elab.async false
namespace Sys2Proof.Machine

@[simp] theorem State.setStall_pins (s : State) (n : Nat) (v : Stall) : (s.setStall n v).pins = s.pins := rfl
@[simp] theorem State.setStall_fuses (s : State) (n : Nat) (v : Stall) : (s.setStall n v).fuses = s.fuses := rfl
@[simp] theorem State.setStall_boot (s : State) (n : Nat) (v : Stall) : (s.setStall n v).boot = s.boot := rfl
@[simp] theorem State.setStall_bell (s : State) (n : Nat) (v : Stall) : (s.setStall n v).bell = s.bell := rfl
@[simp] theorem State.setStall_pages (s : State) (n : Nat) (v : Stall) : (s.setStall n v).pages = s.pages := rfl
@[simp] theorem State.setStall_latches (s : State) (n : Nat) (v : Stall) : (s.setStall n v).latches = s.latches := rfl
@[simp] theorem State.setStall_stalls (s : State) (n : Nat) (v : Stall) : (s.setStall n v).stalls = sset s.stalls n v := rfl
@[simp] theorem State.setStall_jobs (s : State) (n : Nat) (v : Stall) : (s.setStall n v).jobs = s.jobs := rfl
@[simp] theorem State.setStall_hubs (s : State) (n : Nat) (v : Stall) : (s.setStall n v).hubs = s.hubs := rfl
@[simp] theorem State.setStall_sched (s : State) (n : Nat) (v : Stall) : (s.setStall n v).sched = s.sched := rfl
@[simp] theorem State.setStall_mem (s : State) (n : Nat) (v : Stall) : (s.setStall n v).mem = s.mem := rfl
@[simp] theorem State.setStall_marks (s : State) (n : Nat) (v : Stall) : (s.setStall n v).marks = s.marks := rfl
@[simp] theorem State.setStall_outStacks (s : State) (n : Nat) (v : Stall) : (s.setStall n v).outStacks = s.outStacks := rfl
@[simp] theorem State.setStall_chans (s : State) (n : Nat) (v : Stall) : (s.setStall n v).chans = s.chans := rfl
@[simp] theorem State.setStall_arbs (s : State) (n : Nat) (v : Stall) : (s.setStall n v).arbs = s.arbs := rfl
@[simp] theorem State.setStall_aisles (s : State) (n : Nat) (v : Stall) : (s.setStall n v).aisles = s.aisles := rfl
@[simp] theorem State.setStall_halves (s : State) (n : Nat) (v : Stall) : (s.setStall n v).halves = s.halves := rfl
@[simp] theorem State.setStall_clerk (s : State) (n : Nat) (v : Stall) : (s.setStall n v).clerk = s.clerk := rfl
@[simp] theorem State.setStall_rings (s : State) (n : Nat) (v : Stall) : (s.setStall n v).rings = s.rings := rfl
@[simp] theorem State.setStall_events (s : State) (n : Nat) (v : Stall) : (s.setStall n v).events = s.events := rfl
@[simp] theorem State.setStall_ledgers (s : State) (n : Nat) (v : Stall) : (s.setStall n v).ledgers = s.ledgers := rfl
@[simp] theorem State.setStall_power (s : State) (n : Nat) (v : Stall) : (s.setStall n v).power = s.power := rfl
@[simp] theorem State.setStall_trace (s : State) (n : Nat) (v : Stall) : (s.setStall n v).trace = s.trace := rfl
@[simp] theorem State.setStall_out (s : State) (n : Nat) (v : Stall) : (s.setStall n v).out = s.out := rfl
@[simp] theorem State.setStall_freeIx (s : State) (n : Nat) (v : Stall) : (s.setStall n v).freeIx = s.freeIx := rfl
@[simp] theorem State.setStall_pending (s : State) (n : Nat) (v : Stall) : (s.setStall n v).pending = s.pending := rfl

@[simp] theorem State.setJob_pins (s : State) (n : Nat) (v : Job) : (s.setJob n v).pins = s.pins := rfl
@[simp] theorem State.setJob_fuses (s : State) (n : Nat) (v : Job) : (s.setJob n v).fuses = s.fuses := rfl
@[simp] theorem State.setJob_boot (s : State) (n : Nat) (v : Job) : (s.setJob n v).boot = s.boot := rfl
@[simp] theorem State.setJob_bell (s : State) (n : Nat) (v : Job) : (s.setJob n v).bell = s.bell := rfl
@[simp] theorem State.setJob_pages (s : State) (n : Nat) (v : Job) : (s.setJob n v).pages = s.pages := rfl
@[simp] theorem State.setJob_latches (s : State) (n : Nat) (v : Job) : (s.setJob n v).latches = s.latches := rfl
@[simp] theorem State.setJob_stalls (s : State) (n : Nat) (v : Job) : (s.setJob n v).stalls = s.stalls := rfl
@[simp] theorem State.setJob_jobs (s : State) (n : Nat) (v : Job) : (s.setJob n v).jobs = sset s.jobs n v := rfl
@[simp] theorem State.setJob_hubs (s : State) (n : Nat) (v : Job) : (s.setJob n v).hubs = s.hubs := rfl
@[simp] theorem State.setJob_sched (s : State) (n : Nat) (v : Job) : (s.setJob n v).sched = s.sched := rfl
@[simp] theorem State.setJob_mem (s : State) (n : Nat) (v : Job) : (s.setJob n v).mem = s.mem := rfl
@[simp] theorem State.setJob_marks (s : State) (n : Nat) (v : Job) : (s.setJob n v).marks = s.marks := rfl
@[simp] theorem State.setJob_outStacks (s : State) (n : Nat) (v : Job) : (s.setJob n v).outStacks = s.outStacks := rfl
@[simp] theorem State.setJob_chans (s : State) (n : Nat) (v : Job) : (s.setJob n v).chans = s.chans := rfl
@[simp] theorem State.setJob_arbs (s : State) (n : Nat) (v : Job) : (s.setJob n v).arbs = s.arbs := rfl
@[simp] theorem State.setJob_aisles (s : State) (n : Nat) (v : Job) : (s.setJob n v).aisles = s.aisles := rfl
@[simp] theorem State.setJob_halves (s : State) (n : Nat) (v : Job) : (s.setJob n v).halves = s.halves := rfl
@[simp] theorem State.setJob_clerk (s : State) (n : Nat) (v : Job) : (s.setJob n v).clerk = s.clerk := rfl
@[simp] theorem State.setJob_rings (s : State) (n : Nat) (v : Job) : (s.setJob n v).rings = s.rings := rfl
@[simp] theorem State.setJob_events (s : State) (n : Nat) (v : Job) : (s.setJob n v).events = s.events := rfl
@[simp] theorem State.setJob_ledgers (s : State) (n : Nat) (v : Job) : (s.setJob n v).ledgers = s.ledgers := rfl
@[simp] theorem State.setJob_power (s : State) (n : Nat) (v : Job) : (s.setJob n v).power = s.power := rfl
@[simp] theorem State.setJob_trace (s : State) (n : Nat) (v : Job) : (s.setJob n v).trace = s.trace := rfl
@[simp] theorem State.setJob_out (s : State) (n : Nat) (v : Job) : (s.setJob n v).out = s.out := rfl
@[simp] theorem State.setJob_freeIx (s : State) (n : Nat) (v : Job) : (s.setJob n v).freeIx = s.freeIx := rfl
@[simp] theorem State.setJob_pending (s : State) (n : Nat) (v : Job) : (s.setJob n v).pending = s.pending := rfl

@[simp] theorem State.setHub_pins (s : State) (n : Nat) (v : Hub) : (s.setHub n v).pins = s.pins := rfl
@[simp] theorem State.setHub_fuses (s : State) (n : Nat) (v : Hub) : (s.setHub n v).fuses = s.fuses := rfl
@[simp] theorem State.setHub_boot (s : State) (n : Nat) (v : Hub) : (s.setHub n v).boot = s.boot := rfl
@[simp] theorem State.setHub_bell (s : State) (n : Nat) (v : Hub) : (s.setHub n v).bell = s.bell := rfl
@[simp] theorem State.setHub_pages (s : State) (n : Nat) (v : Hub) : (s.setHub n v).pages = s.pages := rfl
@[simp] theorem State.setHub_latches (s : State) (n : Nat) (v : Hub) : (s.setHub n v).latches = s.latches := rfl
@[simp] theorem State.setHub_stalls (s : State) (n : Nat) (v : Hub) : (s.setHub n v).stalls = s.stalls := rfl
@[simp] theorem State.setHub_jobs (s : State) (n : Nat) (v : Hub) : (s.setHub n v).jobs = s.jobs := rfl
@[simp] theorem State.setHub_hubs (s : State) (n : Nat) (v : Hub) : (s.setHub n v).hubs = sset s.hubs n v := rfl
@[simp] theorem State.setHub_sched (s : State) (n : Nat) (v : Hub) : (s.setHub n v).sched = s.sched := rfl
@[simp] theorem State.setHub_mem (s : State) (n : Nat) (v : Hub) : (s.setHub n v).mem = s.mem := rfl
@[simp] theorem State.setHub_marks (s : State) (n : Nat) (v : Hub) : (s.setHub n v).marks = s.marks := rfl
@[simp] theorem State.setHub_outStacks (s : State) (n : Nat) (v : Hub) : (s.setHub n v).outStacks = s.outStacks := rfl
@[simp] theorem State.setHub_chans (s : State) (n : Nat) (v : Hub) : (s.setHub n v).chans = s.chans := rfl
@[simp] theorem State.setHub_arbs (s : State) (n : Nat) (v : Hub) : (s.setHub n v).arbs = s.arbs := rfl
@[simp] theorem State.setHub_aisles (s : State) (n : Nat) (v : Hub) : (s.setHub n v).aisles = s.aisles := rfl
@[simp] theorem State.setHub_halves (s : State) (n : Nat) (v : Hub) : (s.setHub n v).halves = s.halves := rfl
@[simp] theorem State.setHub_clerk (s : State) (n : Nat) (v : Hub) : (s.setHub n v).clerk = s.clerk := rfl
@[simp] theorem State.setHub_rings (s : State) (n : Nat) (v : Hub) : (s.setHub n v).rings = s.rings := rfl
@[simp] theorem State.setHub_events (s : State) (n : Nat) (v : Hub) : (s.setHub n v).events = s.events := rfl
@[simp] theorem State.setHub_ledgers (s : State) (n : Nat) (v : Hub) : (s.setHub n v).ledgers = s.ledgers := rfl
@[simp] theorem State.setHub_power (s : State) (n : Nat) (v : Hub) : (s.setHub n v).power = s.power := rfl
@[simp] theorem State.setHub_trace (s : State) (n : Nat) (v : Hub) : (s.setHub n v).trace = s.trace := rfl
@[simp] theorem State.setHub_out (s : State) (n : Nat) (v : Hub) : (s.setHub n v).out = s.out := rfl
@[simp] theorem State.setHub_freeIx (s : State) (n : Nat) (v : Hub) : (s.setHub n v).freeIx = s.freeIx := rfl
@[simp] theorem State.setHub_pending (s : State) (n : Nat) (v : Hub) : (s.setHub n v).pending = s.pending := rfl

@[simp] theorem State.setAisle_pins (s : State) (n : Nat) (v : Aisle) : (s.setAisle n v).pins = s.pins := rfl
@[simp] theorem State.setAisle_fuses (s : State) (n : Nat) (v : Aisle) : (s.setAisle n v).fuses = s.fuses := rfl
@[simp] theorem State.setAisle_boot (s : State) (n : Nat) (v : Aisle) : (s.setAisle n v).boot = s.boot := rfl
@[simp] theorem State.setAisle_bell (s : State) (n : Nat) (v : Aisle) : (s.setAisle n v).bell = s.bell := rfl
@[simp] theorem State.setAisle_pages (s : State) (n : Nat) (v : Aisle) : (s.setAisle n v).pages = s.pages := rfl
@[simp] theorem State.setAisle_latches (s : State) (n : Nat) (v : Aisle) : (s.setAisle n v).latches = s.latches := rfl
@[simp] theorem State.setAisle_stalls (s : State) (n : Nat) (v : Aisle) : (s.setAisle n v).stalls = s.stalls := rfl
@[simp] theorem State.setAisle_jobs (s : State) (n : Nat) (v : Aisle) : (s.setAisle n v).jobs = s.jobs := rfl
@[simp] theorem State.setAisle_hubs (s : State) (n : Nat) (v : Aisle) : (s.setAisle n v).hubs = s.hubs := rfl
@[simp] theorem State.setAisle_sched (s : State) (n : Nat) (v : Aisle) : (s.setAisle n v).sched = s.sched := rfl
@[simp] theorem State.setAisle_mem (s : State) (n : Nat) (v : Aisle) : (s.setAisle n v).mem = s.mem := rfl
@[simp] theorem State.setAisle_marks (s : State) (n : Nat) (v : Aisle) : (s.setAisle n v).marks = s.marks := rfl
@[simp] theorem State.setAisle_outStacks (s : State) (n : Nat) (v : Aisle) : (s.setAisle n v).outStacks = s.outStacks := rfl
@[simp] theorem State.setAisle_chans (s : State) (n : Nat) (v : Aisle) : (s.setAisle n v).chans = s.chans := rfl
@[simp] theorem State.setAisle_arbs (s : State) (n : Nat) (v : Aisle) : (s.setAisle n v).arbs = s.arbs := rfl
@[simp] theorem State.setAisle_aisles (s : State) (n : Nat) (v : Aisle) : (s.setAisle n v).aisles = sset s.aisles n v := rfl
@[simp] theorem State.setAisle_halves (s : State) (n : Nat) (v : Aisle) : (s.setAisle n v).halves = s.halves := rfl
@[simp] theorem State.setAisle_clerk (s : State) (n : Nat) (v : Aisle) : (s.setAisle n v).clerk = s.clerk := rfl
@[simp] theorem State.setAisle_rings (s : State) (n : Nat) (v : Aisle) : (s.setAisle n v).rings = s.rings := rfl
@[simp] theorem State.setAisle_events (s : State) (n : Nat) (v : Aisle) : (s.setAisle n v).events = s.events := rfl
@[simp] theorem State.setAisle_ledgers (s : State) (n : Nat) (v : Aisle) : (s.setAisle n v).ledgers = s.ledgers := rfl
@[simp] theorem State.setAisle_power (s : State) (n : Nat) (v : Aisle) : (s.setAisle n v).power = s.power := rfl
@[simp] theorem State.setAisle_trace (s : State) (n : Nat) (v : Aisle) : (s.setAisle n v).trace = s.trace := rfl
@[simp] theorem State.setAisle_out (s : State) (n : Nat) (v : Aisle) : (s.setAisle n v).out = s.out := rfl
@[simp] theorem State.setAisle_freeIx (s : State) (n : Nat) (v : Aisle) : (s.setAisle n v).freeIx = s.freeIx := rfl
@[simp] theorem State.setAisle_pending (s : State) (n : Nat) (v : Aisle) : (s.setAisle n v).pending = s.pending := rfl

@[simp] theorem State.setHalf_pins (s : State) (n : Nat) (v : Half) : (s.setHalf n v).pins = s.pins := rfl
@[simp] theorem State.setHalf_fuses (s : State) (n : Nat) (v : Half) : (s.setHalf n v).fuses = s.fuses := rfl
@[simp] theorem State.setHalf_boot (s : State) (n : Nat) (v : Half) : (s.setHalf n v).boot = s.boot := rfl
@[simp] theorem State.setHalf_bell (s : State) (n : Nat) (v : Half) : (s.setHalf n v).bell = s.bell := rfl
@[simp] theorem State.setHalf_pages (s : State) (n : Nat) (v : Half) : (s.setHalf n v).pages = s.pages := rfl
@[simp] theorem State.setHalf_latches (s : State) (n : Nat) (v : Half) : (s.setHalf n v).latches = s.latches := rfl
@[simp] theorem State.setHalf_stalls (s : State) (n : Nat) (v : Half) : (s.setHalf n v).stalls = s.stalls := rfl
@[simp] theorem State.setHalf_jobs (s : State) (n : Nat) (v : Half) : (s.setHalf n v).jobs = s.jobs := rfl
@[simp] theorem State.setHalf_hubs (s : State) (n : Nat) (v : Half) : (s.setHalf n v).hubs = s.hubs := rfl
@[simp] theorem State.setHalf_sched (s : State) (n : Nat) (v : Half) : (s.setHalf n v).sched = s.sched := rfl
@[simp] theorem State.setHalf_mem (s : State) (n : Nat) (v : Half) : (s.setHalf n v).mem = s.mem := rfl
@[simp] theorem State.setHalf_marks (s : State) (n : Nat) (v : Half) : (s.setHalf n v).marks = s.marks := rfl
@[simp] theorem State.setHalf_outStacks (s : State) (n : Nat) (v : Half) : (s.setHalf n v).outStacks = s.outStacks := rfl
@[simp] theorem State.setHalf_chans (s : State) (n : Nat) (v : Half) : (s.setHalf n v).chans = s.chans := rfl
@[simp] theorem State.setHalf_arbs (s : State) (n : Nat) (v : Half) : (s.setHalf n v).arbs = s.arbs := rfl
@[simp] theorem State.setHalf_aisles (s : State) (n : Nat) (v : Half) : (s.setHalf n v).aisles = s.aisles := rfl
@[simp] theorem State.setHalf_halves (s : State) (n : Nat) (v : Half) : (s.setHalf n v).halves = sset s.halves n v := rfl
@[simp] theorem State.setHalf_clerk (s : State) (n : Nat) (v : Half) : (s.setHalf n v).clerk = s.clerk := rfl
@[simp] theorem State.setHalf_rings (s : State) (n : Nat) (v : Half) : (s.setHalf n v).rings = s.rings := rfl
@[simp] theorem State.setHalf_events (s : State) (n : Nat) (v : Half) : (s.setHalf n v).events = s.events := rfl
@[simp] theorem State.setHalf_ledgers (s : State) (n : Nat) (v : Half) : (s.setHalf n v).ledgers = s.ledgers := rfl
@[simp] theorem State.setHalf_power (s : State) (n : Nat) (v : Half) : (s.setHalf n v).power = s.power := rfl
@[simp] theorem State.setHalf_trace (s : State) (n : Nat) (v : Half) : (s.setHalf n v).trace = s.trace := rfl
@[simp] theorem State.setHalf_out (s : State) (n : Nat) (v : Half) : (s.setHalf n v).out = s.out := rfl
@[simp] theorem State.setHalf_freeIx (s : State) (n : Nat) (v : Half) : (s.setHalf n v).freeIx = s.freeIx := rfl
@[simp] theorem State.setHalf_pending (s : State) (n : Nat) (v : Half) : (s.setHalf n v).pending = s.pending := rfl

@[simp] theorem State.setChan_pins (s : State) (n : Nat) (v : Channel) : (s.setChan n v).pins = s.pins := rfl
@[simp] theorem State.setChan_fuses (s : State) (n : Nat) (v : Channel) : (s.setChan n v).fuses = s.fuses := rfl
@[simp] theorem State.setChan_boot (s : State) (n : Nat) (v : Channel) : (s.setChan n v).boot = s.boot := rfl
@[simp] theorem State.setChan_bell (s : State) (n : Nat) (v : Channel) : (s.setChan n v).bell = s.bell := rfl
@[simp] theorem State.setChan_pages (s : State) (n : Nat) (v : Channel) : (s.setChan n v).pages = s.pages := rfl
@[simp] theorem State.setChan_latches (s : State) (n : Nat) (v : Channel) : (s.setChan n v).latches = s.latches := rfl
@[simp] theorem State.setChan_stalls (s : State) (n : Nat) (v : Channel) : (s.setChan n v).stalls = s.stalls := rfl
@[simp] theorem State.setChan_jobs (s : State) (n : Nat) (v : Channel) : (s.setChan n v).jobs = s.jobs := rfl
@[simp] theorem State.setChan_hubs (s : State) (n : Nat) (v : Channel) : (s.setChan n v).hubs = s.hubs := rfl
@[simp] theorem State.setChan_sched (s : State) (n : Nat) (v : Channel) : (s.setChan n v).sched = s.sched := rfl
@[simp] theorem State.setChan_mem (s : State) (n : Nat) (v : Channel) : (s.setChan n v).mem = s.mem := rfl
@[simp] theorem State.setChan_marks (s : State) (n : Nat) (v : Channel) : (s.setChan n v).marks = s.marks := rfl
@[simp] theorem State.setChan_outStacks (s : State) (n : Nat) (v : Channel) : (s.setChan n v).outStacks = s.outStacks := rfl
@[simp] theorem State.setChan_chans (s : State) (n : Nat) (v : Channel) : (s.setChan n v).chans = sset s.chans n v := rfl
@[simp] theorem State.setChan_arbs (s : State) (n : Nat) (v : Channel) : (s.setChan n v).arbs = s.arbs := rfl
@[simp] theorem State.setChan_aisles (s : State) (n : Nat) (v : Channel) : (s.setChan n v).aisles = s.aisles := rfl
@[simp] theorem State.setChan_halves (s : State) (n : Nat) (v : Channel) : (s.setChan n v).halves = s.halves := rfl
@[simp] theorem State.setChan_clerk (s : State) (n : Nat) (v : Channel) : (s.setChan n v).clerk = s.clerk := rfl
@[simp] theorem State.setChan_rings (s : State) (n : Nat) (v : Channel) : (s.setChan n v).rings = s.rings := rfl
@[simp] theorem State.setChan_events (s : State) (n : Nat) (v : Channel) : (s.setChan n v).events = s.events := rfl
@[simp] theorem State.setChan_ledgers (s : State) (n : Nat) (v : Channel) : (s.setChan n v).ledgers = s.ledgers := rfl
@[simp] theorem State.setChan_power (s : State) (n : Nat) (v : Channel) : (s.setChan n v).power = s.power := rfl
@[simp] theorem State.setChan_trace (s : State) (n : Nat) (v : Channel) : (s.setChan n v).trace = s.trace := rfl
@[simp] theorem State.setChan_out (s : State) (n : Nat) (v : Channel) : (s.setChan n v).out = s.out := rfl
@[simp] theorem State.setChan_freeIx (s : State) (n : Nat) (v : Channel) : (s.setChan n v).freeIx = s.freeIx := rfl
@[simp] theorem State.setChan_pending (s : State) (n : Nat) (v : Channel) : (s.setChan n v).pending = s.pending := rfl

@[simp] theorem State.setLedger_pins (s : State) (n : Nat) (v : Ledger) : (s.setLedger n v).pins = s.pins := rfl
@[simp] theorem State.setLedger_fuses (s : State) (n : Nat) (v : Ledger) : (s.setLedger n v).fuses = s.fuses := rfl
@[simp] theorem State.setLedger_boot (s : State) (n : Nat) (v : Ledger) : (s.setLedger n v).boot = s.boot := rfl
@[simp] theorem State.setLedger_bell (s : State) (n : Nat) (v : Ledger) : (s.setLedger n v).bell = s.bell := rfl
@[simp] theorem State.setLedger_pages (s : State) (n : Nat) (v : Ledger) : (s.setLedger n v).pages = s.pages := rfl
@[simp] theorem State.setLedger_latches (s : State) (n : Nat) (v : Ledger) : (s.setLedger n v).latches = s.latches := rfl
@[simp] theorem State.setLedger_stalls (s : State) (n : Nat) (v : Ledger) : (s.setLedger n v).stalls = s.stalls := rfl
@[simp] theorem State.setLedger_jobs (s : State) (n : Nat) (v : Ledger) : (s.setLedger n v).jobs = s.jobs := rfl
@[simp] theorem State.setLedger_hubs (s : State) (n : Nat) (v : Ledger) : (s.setLedger n v).hubs = s.hubs := rfl
@[simp] theorem State.setLedger_sched (s : State) (n : Nat) (v : Ledger) : (s.setLedger n v).sched = s.sched := rfl
@[simp] theorem State.setLedger_mem (s : State) (n : Nat) (v : Ledger) : (s.setLedger n v).mem = s.mem := rfl
@[simp] theorem State.setLedger_marks (s : State) (n : Nat) (v : Ledger) : (s.setLedger n v).marks = s.marks := rfl
@[simp] theorem State.setLedger_outStacks (s : State) (n : Nat) (v : Ledger) : (s.setLedger n v).outStacks = s.outStacks := rfl
@[simp] theorem State.setLedger_chans (s : State) (n : Nat) (v : Ledger) : (s.setLedger n v).chans = s.chans := rfl
@[simp] theorem State.setLedger_arbs (s : State) (n : Nat) (v : Ledger) : (s.setLedger n v).arbs = s.arbs := rfl
@[simp] theorem State.setLedger_aisles (s : State) (n : Nat) (v : Ledger) : (s.setLedger n v).aisles = s.aisles := rfl
@[simp] theorem State.setLedger_halves (s : State) (n : Nat) (v : Ledger) : (s.setLedger n v).halves = s.halves := rfl
@[simp] theorem State.setLedger_clerk (s : State) (n : Nat) (v : Ledger) : (s.setLedger n v).clerk = s.clerk := rfl
@[simp] theorem State.setLedger_rings (s : State) (n : Nat) (v : Ledger) : (s.setLedger n v).rings = s.rings := rfl
@[simp] theorem State.setLedger_events (s : State) (n : Nat) (v : Ledger) : (s.setLedger n v).events = s.events := rfl
@[simp] theorem State.setLedger_ledgers (s : State) (n : Nat) (v : Ledger) : (s.setLedger n v).ledgers = sset s.ledgers n v := rfl
@[simp] theorem State.setLedger_power (s : State) (n : Nat) (v : Ledger) : (s.setLedger n v).power = s.power := rfl
@[simp] theorem State.setLedger_trace (s : State) (n : Nat) (v : Ledger) : (s.setLedger n v).trace = s.trace := rfl
@[simp] theorem State.setLedger_out (s : State) (n : Nat) (v : Ledger) : (s.setLedger n v).out = s.out := rfl
@[simp] theorem State.setLedger_freeIx (s : State) (n : Nat) (v : Ledger) : (s.setLedger n v).freeIx = s.freeIx := rfl
@[simp] theorem State.setLedger_pending (s : State) (n : Nat) (v : Ledger) : (s.setLedger n v).pending = s.pending := rfl

@[simp] theorem State.emit_pins (s : State) (o : Out) : (s.emit o).pins = s.pins := rfl
@[simp] theorem State.emit_fuses (s : State) (o : Out) : (s.emit o).fuses = s.fuses := rfl
@[simp] theorem State.emit_boot (s : State) (o : Out) : (s.emit o).boot = s.boot := rfl
@[simp] theorem State.emit_bell (s : State) (o : Out) : (s.emit o).bell = s.bell := rfl
@[simp] theorem State.emit_pages (s : State) (o : Out) : (s.emit o).pages = s.pages := rfl
@[simp] theorem State.emit_latches (s : State) (o : Out) : (s.emit o).latches = s.latches := rfl
@[simp] theorem State.emit_stalls (s : State) (o : Out) : (s.emit o).stalls = s.stalls := rfl
@[simp] theorem State.emit_jobs (s : State) (o : Out) : (s.emit o).jobs = s.jobs := rfl
@[simp] theorem State.emit_hubs (s : State) (o : Out) : (s.emit o).hubs = s.hubs := rfl
@[simp] theorem State.emit_sched (s : State) (o : Out) : (s.emit o).sched = s.sched := rfl
@[simp] theorem State.emit_mem (s : State) (o : Out) : (s.emit o).mem = s.mem := rfl
@[simp] theorem State.emit_marks (s : State) (o : Out) : (s.emit o).marks = s.marks := rfl
@[simp] theorem State.emit_outStacks (s : State) (o : Out) : (s.emit o).outStacks = s.outStacks := rfl
@[simp] theorem State.emit_chans (s : State) (o : Out) : (s.emit o).chans = s.chans := rfl
@[simp] theorem State.emit_arbs (s : State) (o : Out) : (s.emit o).arbs = s.arbs := rfl
@[simp] theorem State.emit_aisles (s : State) (o : Out) : (s.emit o).aisles = s.aisles := rfl
@[simp] theorem State.emit_halves (s : State) (o : Out) : (s.emit o).halves = s.halves := rfl
@[simp] theorem State.emit_clerk (s : State) (o : Out) : (s.emit o).clerk = s.clerk := rfl
@[simp] theorem State.emit_rings (s : State) (o : Out) : (s.emit o).rings = s.rings := rfl
@[simp] theorem State.emit_events (s : State) (o : Out) : (s.emit o).events = s.events := rfl
@[simp] theorem State.emit_ledgers (s : State) (o : Out) : (s.emit o).ledgers = s.ledgers := rfl
@[simp] theorem State.emit_power (s : State) (o : Out) : (s.emit o).power = s.power := rfl
@[simp] theorem State.emit_trace (s : State) (o : Out) : (s.emit o).trace = s.trace := rfl
@[simp] theorem State.emit_out (s : State) (o : Out) : (s.emit o).out = s.out ++ [o] := rfl
@[simp] theorem State.emit_freeIx (s : State) (o : Out) : (s.emit o).freeIx = s.freeIx := rfl
@[simp] theorem State.emit_pending (s : State) (o : Out) : (s.emit o).pending = s.pending := rfl

@[simp] theorem State.stall_setStall (s : State) (n : Nat) (v : Stall) : (s.setStall n v).stall n = v := sgetD_sset_same ..
theorem State.stall_setStall_other (s : State) {n m : Nat} (v : Stall) (h : m ≠ n) : (s.setStall n v).stall m = s.stall m :=
  sgetD_sset_other _ _ _ h
@[simp] theorem State.hub_setHub (s : State) (n : Nat) (v : Hub) : (s.setHub n v).hub n = v := sgetD_sset_same ..
theorem State.hub_setHub_other (s : State) {n m : Nat} (v : Hub) (h : m ≠ n) : (s.setHub n v).hub m = s.hub m :=
  sgetD_sset_other _ _ _ h
@[simp] theorem State.aisle_setAisle (s : State) (n : Nat) (v : Aisle) : (s.setAisle n v).aisle n = v := sgetD_sset_same ..
theorem State.aisle_setAisle_other (s : State) {n m : Nat} (v : Aisle) (h : m ≠ n) : (s.setAisle n v).aisle m = s.aisle m :=
  sgetD_sset_other _ _ _ h
@[simp] theorem State.half_setHalf (s : State) (n : Nat) (v : Half) : (s.setHalf n v).half n = v := sgetD_sset_same ..
theorem State.half_setHalf_other (s : State) {n m : Nat} (v : Half) (h : m ≠ n) : (s.setHalf n v).half m = s.half m :=
  sgetD_sset_other _ _ _ h
@[simp] theorem State.chan_setChan (s : State) (n : Nat) (v : Channel) : (s.setChan n v).chan n = v := sgetD_sset_same ..
theorem State.chan_setChan_other (s : State) {n m : Nat} (v : Channel) (h : m ≠ n) : (s.setChan n v).chan m = s.chan m :=
  sgetD_sset_other _ _ _ h
@[simp] theorem State.ledger_setLedger (s : State) (n : Nat) (v : Ledger) : (s.setLedger n v).ledger n = v := sgetD_sset_same ..
theorem State.ledger_setLedger_other (s : State) {n m : Nat} (v : Ledger) (h : m ≠ n) : (s.setLedger n v).ledger m = s.ledger m :=
  sgetD_sset_other _ _ _ h
@[simp] theorem State.job_setJob (s : State) (j : Nat) (v : Job) : (s.setJob j v).job j = some v := sget_sset_same ..
theorem State.job_setJob_other (s : State) {i j : Nat} (v : Job) (h : i ≠ j) : (s.setJob j v).job i = s.job i :=
  sget_sset_other _ _ h

/-! ### Bell time -/

/-- A tick that is not later moves nothing. -/
theorem State.advance_of_le {s : State} {t : Nat} (h : t ≤ s.bell.now) : s.advance t = s := by
  unfold State.advance; simp [h]

/-- With the clocks stopped no time passes. -/
theorem State.advance_stopped {s : State} {t : Nat} (h : s.clocked = false) : s.advance t = s := by
  unfold State.advance; simp [h]

@[simp] theorem State.advance_pins (s : State) (t : Nat) : (s.advance t).pins = s.pins := State.advance_only .pins (by decide)
@[simp] theorem State.advance_fuses (s : State) (t : Nat) : (s.advance t).fuses = s.fuses := State.advance_only .fuses (by decide)
@[simp] theorem State.advance_boot (s : State) (t : Nat) : (s.advance t).boot = s.boot := State.advance_only .boot (by decide)
@[simp] theorem State.advance_jobs (s : State) (t : Nat) : (s.advance t).jobs = s.jobs := State.advance_only .jobs (by decide)
@[simp] theorem State.advance_hubs (s : State) (t : Nat) : (s.advance t).hubs = s.hubs := State.advance_only .hubs (by decide)
@[simp] theorem State.advance_mem (s : State) (t : Nat) : (s.advance t).mem = s.mem := State.advance_only .mem (by decide)
@[simp] theorem State.advance_marks (s : State) (t : Nat) : (s.advance t).marks = s.marks := State.advance_only .marks (by decide)
@[simp] theorem State.advance_clerk (s : State) (t : Nat) : (s.advance t).clerk = s.clerk := State.advance_only .clerk (by decide)
@[simp] theorem State.advance_aisles (s : State) (t : Nat) : (s.advance t).aisles = s.aisles := State.advance_only .aisles (by decide)
@[simp] theorem State.advance_halves (s : State) (t : Nat) : (s.advance t).halves = s.halves := State.advance_only .halves (by decide)
@[simp] theorem State.advance_chans (s : State) (t : Nat) : (s.advance t).chans = s.chans := State.advance_only .chans (by decide)
@[simp] theorem State.advance_ledgers (s : State) (t : Nat) : (s.advance t).ledgers = s.ledgers :=
  State.advance_only .ledgers (by decide)
@[simp] theorem State.advance_power (s : State) (t : Nat) : (s.advance t).power = s.power := State.advance_only .power (by decide)
@[simp] theorem State.advance_rings (s : State) (t : Nat) : (s.advance t).rings = s.rings := State.advance_only .rings (by decide)
@[simp] theorem State.advance_pending (s : State) (t : Nat) : (s.advance t).pending = s.pending :=
  State.advance_only .pending (by decide)

/-- Adding to a counter leaves the bell alone. -/
@[simp] theorem State.count_bell (s : State) (p o n : Nat) : (s.count p o n).bell = s.bell := by
  unfold State.count; split
  · rfl
  · unfold State.setPage; split <;> rfl

/-- Bell time moves to a later tick, modulo 2^64, and to no earlier one; nothing else of the bell moves. -/
theorem State.advance_bell {s : State} (t : Nat) (h : s.clocked = true) :
    (s.advance t).bell = { s.bell with now := if t ≤ s.bell.now then s.bell.now else t % 2 ^ 64 } := by
  unfold State.advance
  by_cases k : t ≤ s.bell.now
  · simp [k]
  · simp only [h, k, Bool.not_true, decide_false, Bool.false_or, Bool.false_eq_true, if_false]
    split <;> simp

theorem State.advance_now {s : State} (t : Nat) (h : s.clocked = true) :
    (s.advance t).bell.now = if t ≤ s.bell.now then s.bell.now else t % 2 ^ 64 := by
  rw [State.advance_bell t h]

/-- Below 2^64 bell time is the later of the two ticks. -/
theorem State.advance_now_max {s : State} {t : Nat} (h : s.clocked = true) (k : t < 2 ^ 64) :
    (s.advance t).bell.now = max s.bell.now t := by
  rw [State.advance_now t h, Nat.mod_eq_of_lt k]
  split <;> omega

@[simp] theorem State.advance_clocked (s : State) (t : Nat) : (s.advance t).clocked = s.clocked := by
  by_cases h : s.clocked = true
  · unfold State.clocked
    rw [State.advance_bell t h, State.advance_pins]
  · rw [State.advance_stopped (by simpa using h)]

/-! ### The clocked logic -/

theorem State.on_stopped {s x : State} (h : s.clocked = false) : s.on x = s := by unfold State.on; simp [h]
theorem State.onClerk_stopped {s x : State} (h : s.clocked = false) : s.onClerk x = s := by unfold State.onClerk; simp [h]
theorem State.on_clocked {s x : State} (h : s.clocked = true) : s.on x = s.within x := by unfold State.on; simp [h]
theorem State.onClerk_clocked {s x : State} (h : s.clocked = true) (k : s.clerk.serving = true) : s.onClerk x = s.within x := by
  unfold State.onClerk; simp [h, k]

/-- Where pins, fuses and queue are as they were, the clocked logic's result stands as it is. -/
theorem State.within_eq {s x : State} (p : x.pins = s.pins) (f : x.fuses = s.fuses) (q : x.pending = s.pending) :
    s.within x = x := by
  cases s; cases x
  dsimp only at p f q
  subst p; subst f; subst q
  simp [State.within]

/-- So it is after an operation that writes none of the three. -/
theorem Only.within {w : List Part} {s x : State} (h : Only w s x)
    (c : (w.contains .pins || w.contains .fuses || w.contains .pending) = false := by decide) : s.within x = x := by
  simp only [Bool.or_eq_false_iff] at c
  exact State.within_eq (h .pins c.1.1) (h .fuses c.1.2) (h .pending c.2)

theorem Only.on {w : List Part} {s x : State} (h : Only w s x) (k : s.clocked = true)
    (c : (w.contains .pins || w.contains .fuses || w.contains .pending) = false := by decide) : s.on x = x := by
  rw [State.on_clocked k, h.within c]

theorem Only.onClerk {w : List Part} {s x : State} (h : Only w s x) (k : s.clocked = true) (l : s.clerk.serving = true)
    (c : (w.contains .pins || w.contains .fuses || w.contains .pending) = false := by decide) : s.onClerk x = x := by
  rw [State.onClerk_clocked k l, h.within c]

end Sys2Proof.Machine
end

