-- ==== Sys2Proof/Laws/Clocked.lean ====
section
/-! SUPPORT. What every command of the clocked logic does whatever its effect: it answers a next state, the pins (but
`last_trip`), straps and fuses stand, the rollback counter does not fall, and with the clocks stopped nothing changes. -/

set_option Elab.async false
namespace Sys2Proof.Machine

/-- Pins but `last_trip` and fuses are as they were; the rollback counter has not fallen. -/
def Held (s t : State) : Prop :=
  t.pins = { s.pins with lastTrip := t.pins.lastTrip } ∧ s.fuses.rollback ≤ t.fuses.rollback ∧
    t.fuses = { s.fuses with rollback := t.fuses.rollback }

theorem Held.refl (s : State) : Held s s := ⟨rfl, Nat.le_refl _, rfl⟩

theorem Held.trans {r s t : State} (h : Held r s) (k : Held s t) : Held r t := by
  obtain ⟨h1, h2, h3⟩ := h
  obtain ⟨k1, k2, k3⟩ := k
  exact ⟨by rw [k1, h1], by omega, by rw [k3, h3]⟩

theorem Held.on {s x : State} : Held s (s.on x) := by
  unfold State.on; split
  · exact ⟨rfl, Nat.le_max_left .., rfl⟩
  · exact .refl _

theorem Held.onClerk {s x : State} : Held s (s.onClerk x) := by
  unfold State.onClerk; split
  · exact ⟨rfl, Nat.le_max_left .., rfl⟩
  · exact .refl _

theorem Held.advance {s : State} {t : Nat} : Held s (s.advance t) := ⟨by simp, by simp, by simp⟩

/-- A command of the clocked logic. -/
def Clocked (s : State) (o : Host.Outcome State Fault Refusal) : Prop :=
  ∃ t, o = .next t ∧ Held s t ∧ (s.clocked = false → t = s)

theorem Clocked.on {s x : State} : Clocked s (.next (s.on x)) := ⟨_, rfl, .on, State.on_stopped⟩
theorem Clocked.onClerk {s x : State} : Clocked s (.next (s.onClerk x)) := ⟨_, rfl, .onClerk, State.onClerk_stopped⟩

theorem Clocked.advanceOn {s x : State} {t : Nat} : Clocked s (.next ((s.advance t).on x)) :=
  ⟨_, rfl, Held.advance.trans .on, fun h => by rw [State.advance_stopped h, State.on_stopped h]⟩

theorem Clocked.advanceOnClerk {s x : State} {t : Nat} : Clocked s (.next ((s.advance t).onClerk x)) :=
  ⟨_, rfl, Held.advance.trans .onClerk, fun h => by rw [State.advance_stopped h, State.onClerk_stopped h]⟩

theorem Clocked.onOn {s x y : State} : Clocked s (.next ((s.on x).on y)) :=
  ⟨_, rfl, Held.on.trans .on, fun h => by rw [State.on_stopped h, State.on_stopped h]⟩

theorem execRoundBoundary_clocked {s : State} : Clocked s (execRoundBoundary s) := .on
theorem execPowerFrameUpdate_clocked {a0} {s : State} : Clocked s (execPowerFrameUpdate a0 s) := .on
theorem execSyncPeriodBoundary_clocked {s : State} : Clocked s (execSyncPeriodBoundary s) := .on
theorem execBellsyncPulseCheck_clocked {a0} {s : State} : Clocked s (execBellsyncPulseCheck a0 s) := .advanceOn
theorem execTimeMarkReceive_clocked {a0 a1 a2 a3} {s : State} : Clocked s (execTimeMarkReceive a0 a1 a2 a3 s) := .advanceOn
theorem execSyncWindowExpiry_clocked {s : State} : Clocked s (execSyncWindowExpiry s) := .on
theorem execBellrefLoss_clocked {a0} {s : State} : Clocked s (execBellrefLoss a0 s) := .advanceOn
theorem execPllRelock_clocked {a0} {s : State} : Clocked s (execPllRelock a0 s) := .advanceOn
theorem execAcquire_clocked {a0 a1} {s : State} : Clocked s (execAcquire a0 a1 s) := .advanceOn
theorem execKupReport_clocked {a0} {s : State} : Clocked s (execKupReport a0 s) := .advanceOn
theorem execKupReceive_clocked {a0 a1 a2 a3} {s : State} : Clocked s (execKupReceive a0 a1 a2 a3 s) := .advanceOn
theorem execKmasterIntake_clocked {s : State} : Clocked s (execKmasterIntake s) := .on
theorem execKdownReceive_clocked {a0 a1 a2 a3} {s : State} : Clocked s (execKdownReceive a0 a1 a2 a3 s) := .advanceOn
theorem execStreamChunkArrival_clocked {a0 a1 a2 a3 a4 a5} {s : State} :
    Clocked s (execStreamChunkArrival a0 a1 a2 a3 a4 a5 s) := .advanceOn
theorem execLdw_clocked {a0 a1} {s : State} : Clocked s (execLdw a0 a1 s) := .on
theorem execMma_clocked {a0 a1} {s : State} : Clocked s (execMma a0 a1 s) := .on
theorem execVop_clocked {a0 a1} {s : State} : Clocked s (execVop a0 a1 s) := .on
theorem execVred_clocked {a0 a1} {s : State} : Clocked s (execVred a0 a1 s) := .on
theorem execVnormStat_clocked {a0 a1} {s : State} : Clocked s (execVnormStat a0 a1 s) := .on
theorem execVnormApply_clocked {a0 a1} {s : State} : Clocked s (execVnormApply a0 a1 s) := .on
theorem execVsmaxStat_clocked {a0 a1} {s : State} : Clocked s (execVsmaxStat a0 a1 s) := .on
theorem execVsmaxApply_clocked {a0 a1} {s : State} : Clocked s (execVsmaxApply a0 a1 s) := .on
theorem execVsfn_clocked {a0 a1} {s : State} : Clocked s (execVsfn a0 a1 s) := .on
theorem execPack_clocked {a0 a1} {s : State} : Clocked s (execPack a0 a1 s) := .on
theorem execUnpack_clocked {a0 a1} {s : State} : Clocked s (execUnpack a0 a1 s) := .on
theorem execGroupidx_clocked {a0 a1} {s : State} : Clocked s (execGroupidx a0 a1 s) := .on
theorem execGet_clocked {a0 a1} {s : State} : Clocked s (execGet a0 a1 s) := .on
theorem execPut_clocked {a0 a1} {s : State} : Clocked s (execPut a0 a1 s) := .on
theorem execGather_clocked {a0 a1} {s : State} : Clocked s (execGather a0 a1 s) := .on
theorem execAhead_clocked {a0 a1} {s : State} : Clocked s (execAhead a0 a1 s) := .on
theorem execSend_clocked {a0 a1} {s : State} : Clocked s (execSend a0 a1 s) := .on
theorem execBulk_clocked {a0 a1} {s : State} : Clocked s (execBulk a0 a1 s) := .on
theorem execGrant_clocked {a0 a1} {s : State} : Clocked s (execGrant a0 a1 s) := .on
theorem execCheckcmp_clocked {a0 a1} {s : State} : Clocked s (execCheckcmp a0 a1 s) := .on
theorem execWaitw_clocked {a0 a1 a2} {s : State} : Clocked s (execWaitw a0 a1 a2 s) := .on
theorem execStepEnd_clocked {a0 a1 a2} {s : State} : Clocked s (execStepEnd a0 a1 a2 s) := .on
theorem execWordCompletion_clocked {a0 a1} {s : State} : Clocked s (execWordCompletion a0 a1 s) := .on
theorem execHbmBlockArrival_clocked {a0 a1 a2 a3 a4} {s : State} : Clocked s (execHbmBlockArrival a0 a1 a2 a3 a4 s) := .onOn
theorem execPorterTransferComplete_clocked {a0 a1 a2} {s : State} :
    Clocked s (execPorterTransferComplete a0 a1 a2 s) := .onOn
theorem execHbmBlockWrite_clocked {a0 a1 a2 a3 a4} {s : State} : Clocked s (execHbmBlockWrite a0 a1 a2 a3 a4 s) := .onOn
theorem execPorterTagTimeout_clocked {a0 a1} {s : State} : Clocked s (execPorterTagTimeout a0 a1 s) := .on
theorem execPageFaultTagRelease_clocked {a0 a1 a2} {s : State} : Clocked s (execPageFaultTagRelease a0 a1 a2 s) := .onOn
theorem execPorterStarveTimer_clocked {a0 a1 a2} {s : State} : Clocked s (execPorterStarveTimer a0 a1 a2 s) := .on
theorem execAheadBlockArrival_clocked {a0 a1 a2 a3} {s : State} :
    Clocked s (execAheadBlockArrival a0 a1 a2 a3 s) := .advanceOn
theorem execStealerPortGrant_clocked {a0 a1 a2} {s : State} : Clocked s (execStealerPortGrant a0 a1 a2 s) := .on
theorem execScrubComplete_clocked {a0 a1 a2} {s : State} : Clocked s (execScrubComplete a0 a1 a2 s) := .on
theorem execBankWakeComplete_clocked {a0 a1 a2} {s : State} : Clocked s (execBankWakeComplete a0 a1 a2 s) := .on
theorem execStoreTestRegion_clocked {a0 a1 a2 a3 a4} {s : State} : Clocked s (execStoreTestRegion a0 a1 a2 a3 a4 s) := .on
theorem execMsgFlit0Arrival_clocked {a0 a1 a2} {s : State} : Clocked s (execMsgFlit0Arrival a0 a1 a2 s) := .on
theorem execMsgLastFlitArrival_clocked {a0 a1 a2 a3 a4 a5} {s : State} :
    Clocked s (execMsgLastFlitArrival a0 a1 a2 a3 a4 a5 s) := .on
theorem execMsgTruncationTimeout_clocked {a0 a1 a2 a3} {s : State} : Clocked s (execMsgTruncationTimeout a0 a1 a2 a3 s) := .on
theorem execBridgeFlitReceive_clocked {a0 a1 a2 a3} {s : State} :
    Clocked s (execBridgeFlitReceive a0 a1 a2 a3 s) := .advanceOn
theorem execBridgeNakReceive_clocked {a0 a1 a2} {s : State} : Clocked s (execBridgeNakReceive a0 a1 a2 s) := .advanceOn
theorem execArbCycleDecision_clocked {a0 a1 a2 a3 a4 a5} {s : State} :
    Clocked s (execArbCycleDecision a0 a1 a2 a3 a4 a5 s) := .advanceOn
theorem execStepCtrlGo_clocked {a0 a1 a2} {s : State} : Clocked s (execStepCtrlGo a0 a1 a2 s) := .advanceOn
theorem execStepCtrlAbort_clocked {a0 a1 a2} {s : State} : Clocked s (execStepCtrlAbort a0 a1 a2 s) := .advanceOn
theorem execStepDrainEnd_clocked {a0 a1 a2} {s : State} : Clocked s (execStepDrainEnd a0 a1 a2 s) := .advanceOn
theorem execRingPtrWrite_clocked {a0 a1 a2 a3} {s : State} : Clocked s (execRingPtrWrite a0 a1 a2 a3 s) := .advanceOn
theorem execCheckValWrite_clocked {a0 a1 a2} {s : State} : Clocked s (execCheckValWrite a0 a1 a2 s) := .advanceOn
theorem execRerunArm_clocked {a0 a1 a2} {s : State} : Clocked s (execRerunArm a0 a1 a2 s) := .advanceOn
theorem execXlateInval_clocked {a0 a1 a2} {s : State} : Clocked s (execXlateInval a0 a1 a2 s) := .advanceOn
theorem execCommit_clocked {a0 a1 a2 a3} {s : State} : Clocked s (execCommit a0 a1 a2 a3 s) := .advanceOn
theorem execGrpStepWrite_clocked {a0 a1} {s : State} : Clocked s (execGrpStepWrite a0 a1 s) := .advanceOn
theorem execLedgerSnap_clocked {a0 a1 a2} {s : State} : Clocked s (execLedgerSnap a0 a1 a2 s) := .advanceOn
theorem execLedgerRelease_clocked {a0 a1 a2} {s : State} : Clocked s (execLedgerRelease a0 a1 a2 s) := .advanceOn
theorem execAisleRetrain_clocked {a0 a1 a2} {s : State} : Clocked s (execAisleRetrain a0 a1 a2 s) := .advanceOn
theorem execBootGo_clocked {a0 a1 a2} {s : State} : Clocked s (execBootGo a0 a1 a2 s) := .advanceOn
theorem execRingCtrlEnable_clocked {a0 a1 a2} {s : State} : Clocked s (execRingCtrlEnable a0 a1 a2 s) := .advanceOn
theorem execRegisterWrite_clocked {a0 a1 a2 a3} {s : State} : Clocked s (execRegisterWrite a0 a1 a2 a3 s) := .advanceOn
theorem execLowWordRead_clocked {a0 a1 a2} {s : State} : Clocked s (execLowWordRead a0 a1 a2 s) := .on
theorem execRcFieldRead_clocked {a0 a1 a2} {s : State} : Clocked s (execRcFieldRead a0 a1 a2 s) := .on
theorem execGradientFrameArrival_clocked {a0 a1 a2 a3} {s : State} :
    Clocked s (execGradientFrameArrival a0 a1 a2 a3 s) := .onOn
theorem execGradMessageReceive_clocked {a0 a1} {s : State} : Clocked s (execGradMessageReceive a0 a1 s) := .advanceOn
theorem execTensorBlockUpdate_clocked {a0 a1 a2 a3} {s : State} :
    Clocked s (execTensorBlockUpdate a0 a1 a2 a3 s) := .advanceOn
theorem execWcopyMessageReceive_clocked {a0 a1} {s : State} : Clocked s (execWcopyMessageReceive a0 a1 s) := .advanceOn
theorem execScheduleCompute_clocked {a0} {s : State} : Clocked s (execScheduleCompute a0 s) := .on
theorem execStepClose_clocked {a0 a1} {s : State} : Clocked s (execStepClose a0 a1 s) := .advanceOn
theorem execFlagWordSend_clocked {a0} {s : State} : Clocked s (execFlagWordSend a0 s) := .onClerk
theorem execFlagWordReceive_clocked {a0 a1} {s : State} : Clocked s (execFlagWordReceive a0 a1 s) := .advanceOnClerk
theorem execGuardArm_clocked {a0 a1 a2} {s : State} : Clocked s (execGuardArm a0 a1 a2 s) := .advanceOnClerk
theorem execGuardPeerDeadline_clocked {a0} {s : State} : Clocked s (execGuardPeerDeadline a0 s) := .on
theorem execAisleFlitReceive_clocked {a0 a1 a2} {s : State} : Clocked s (execAisleFlitReceive a0 a1 a2 s) := .advanceOn
theorem execAisleMessageReceive_clocked {a0 a1} {s : State} : Clocked s (execAisleMessageReceive a0 a1 s) := .advanceOn
theorem execAisleAckTimeout_clocked {a0 a1} {s : State} : Clocked s (execAisleAckTimeout a0 a1 s) := .advanceOn
theorem execAisleNakRepeat_clocked {a0 a1} {s : State} : Clocked s (execAisleNakRepeat a0 a1 s) := .advanceOn
theorem execAisleLaneLockLoss_clocked {a0 a1 a2} {s : State} : Clocked s (execAisleLaneLockLoss a0 a1 a2 s) := .advanceOn
theorem execAisleLinkTimeout_clocked {a0 a1} {s : State} : Clocked s (execAisleLinkTimeout a0 a1 s) := .advanceOn
theorem execAisleLanesLocked_clocked {a0 a1} {s : State} : Clocked s (execAisleLanesLocked a0 a1 s) := .advanceOn
theorem execIdentReceive_clocked {a0 a1 a2} {s : State} : Clocked s (execIdentReceive a0 a1 a2 s) := .advanceOn
theorem execCreditRevoke_clocked {a0 a1} {s : State} : Clocked s (execCreditRevoke a0 a1 s) := .advanceOn
theorem execSealReceive_clocked {a0 a1} {s : State} : Clocked s (execSealReceive a0 a1 s) := .advanceOnClerk
theorem execSealTableReceive_clocked {a0 a1 a2 a3} {s : State} : Clocked s (execSealTableReceive a0 a1 a2 a3 s) := .advanceOnClerk
theorem execSealTableTimeout_clocked {a0 a1} {s : State} : Clocked s (execSealTableTimeout a0 a1 s) := .advanceOnClerk
theorem execAbortReceive_clocked {a0 a1} {s : State} : Clocked s (execAbortReceive a0 a1 s) := .advanceOnClerk
theorem execDoorlineInval_clocked {a0 a1 a2 a3} {s : State} : Clocked s (execDoorlineInval a0 a1 a2 a3 s) := .advanceOn
theorem execDoorlinePoll_clocked {a0 a1 a2} {s : State} : Clocked s (execDoorlinePoll a0 a1 a2 s) := .on
theorem execJobOpen_clocked {a0 a1 a2 a3 a4} {s : State} : Clocked s (execJobOpen a0 a1 a2 a3 a4 s) := .on
theorem execJobLoad_clocked {a0 a1 a2 a3 a4} {s : State} : Clocked s (execJobLoad a0 a1 a2 a3 a4 s) := .on
theorem execJobMap_clocked {a0 a1 a2 a3} {s : State} : Clocked s (execJobMap a0 a1 a2 a3 s) := .on
theorem execStepRun_clocked {a0 a1 a2} {s : State} : Clocked s (execStepRun a0 a1 a2 s) := .on
theorem execStepAbort_clocked {a0 a1} {s : State} : Clocked s (execStepAbort a0 a1 s) := .on
theorem execJobClose_clocked {a0 a1} {s : State} : Clocked s (execJobClose a0 a1 s) := .on
theorem execJobSuspend_clocked {a0 a1} {s : State} : Clocked s (execJobSuspend a0 a1 s) := .on
theorem execJobResume_clocked {a0 a1} {s : State} : Clocked s (execJobResume a0 a1 s) := .on
theorem execSelftest_clocked {a0 a1 a2} {s : State} : Clocked s (execSelftest a0 a1 a2 s) := .on
theorem execSelftestQueuedStart_clocked {a0 a1 a2} {s : State} : Clocked s (execSelftestQueuedStart a0 a1 a2 s) := .on
theorem execFenceStall_clocked {a0 a1} {s : State} : Clocked s (execFenceStall a0 a1 s) := .on
theorem execUnfenceStall_clocked {a0 a1 a2} {s : State} : Clocked s (execUnfenceStall a0 a1 a2 s) := .on
theorem execSetPolicy_clocked {a0 a1} {s : State} : Clocked s (execSetPolicy a0 a1 s) := .on
theorem execTwinBind_clocked {a0 a1} {s : State} : Clocked s (execTwinBind a0 a1 s) := .on
theorem execEcho_clocked {a0 a1} {s : State} : Clocked s (execEcho a0 a1 s) := .on
theorem execSummary_clocked {a0 a1} {s : State} : Clocked s (execSummary a0 a1 s) := .on
theorem execDeadlineTimer_clocked {a0} {s : State} : Clocked s (execDeadlineTimer a0 s) := .onClerk
theorem execLedgerReconcile_clocked {a0 a1 a2} {s : State} : Clocked s (execLedgerReconcile a0 a1 a2 s) := .on
theorem execPitchMove_clocked {a0 a1 a2 a3 a4 a5 a6} {s : State} :
    Clocked s (execPitchMove a0 a1 a2 a3 a4 a5 a6 s) := .advanceOnClerk
theorem execPreemptResume_clocked {a0 a1} {s : State} : Clocked s (execPreemptResume a0 a1 s) := .advanceOnClerk
theorem execStepWatchdogExpiry_clocked {a0 a1} {s : State} : Clocked s (execStepWatchdogExpiry a0 a1 s) := .advanceOnClerk
theorem execStepRerunGo_clocked {a0 a1 a2 a3} {s : State} : Clocked s (execStepRerunGo a0 a1 a2 a3 s) := .advanceOnClerk
theorem execEngineBusyExpiry_clocked {a0 a1 a2} {s : State} : Clocked s (execEngineBusyExpiry a0 a1 a2 s) := .advanceOn
theorem execClerkWatchdogExpiry_clocked {a0 a1} {s : State} : Clocked s (execClerkWatchdogExpiry a0 a1 s) := .advanceOn
theorem execCompanionLossTimeout_clocked {a0} {s : State} : Clocked s (execCompanionLossTimeout a0 s) := .advanceOn
theorem execStatusHeartbeat_clocked {s : State} : Clocked s (execStatusHeartbeat s) := .on
theorem execCompanionRead_clocked {a0 a1 a2} {s : State} : Clocked s (execCompanionRead a0 a1 a2 s) := .advanceOn
theorem execCompanionWrite_clocked {a0 a1 a2} {s : State} : Clocked s (execCompanionWrite a0 a1 a2 s) := .advanceOn
theorem execInval_clocked {a0 a1} {s : State} : Clocked s (execInval a0 a1 s) := .advanceOn
theorem execLemefHalfLost_clocked {a0 a1} {s : State} : Clocked s (execLemefHalfLost a0 a1 s) := .advanceOn
theorem execLemefTrained_clocked {s : State} : Clocked s (execLemefTrained s) := .on
theorem execBootTakeover_clocked {s : State} : Clocked s (execBootTakeover s) := .on
theorem execImageFetchComplete_clocked {a0 a1} {s : State} : Clocked s (execImageFetchComplete a0 a1 s) := .on
theorem execOpeningInspectionDone_clocked {a0} {s : State} : Clocked s (execOpeningInspectionDone a0 s) := .on
theorem execTraceCounterSnapshot_clocked {s : State} : Clocked s (execTraceCounterSnapshot s) := .on
theorem execLemefSlotReceive_clocked {a0 a1 a2} {s : State} : Clocked s (execLemefSlotReceive a0 a1 a2 s) := .advanceOn
theorem execLemefAckTimeout_clocked {a0 a1} {s : State} : Clocked s (execLemefAckTimeout a0 a1 s) := .advanceOn
theorem execLemefRetrain_clocked {a0 a1} {s : State} : Clocked s (execLemefRetrain a0 a1 s) := .advanceOn
theorem execBridgeChannelRetrain_clocked {a0 a1} {s : State} : Clocked s (execBridgeChannelRetrain a0 a1 s) := .advanceOn
theorem execClerkResumesService_clocked {a0} {s : State} : Clocked s (execClerkResumesService a0 s) := .advanceOn
theorem execSetPolicySyncTimeout_clocked {a0} {s : State} : Clocked s (execSetPolicySyncTimeout a0 s) := .advanceOnClerk

end Sys2Proof.Machine
end

