-- ==== Sys2Proof/Laws/Events.lean ====
section
/-! SUPPORT. What recording and raising an event leave (R391, R392, R402). -/

set_option Elab.async false
namespace Sys2Proof.Machine

/-- Adding to a counter leaves the events alone. -/
@[simp] theorem State.count_events (s : State) (p o n : Nat) : (s.count p o n).events = s.events :=
  State.count_only .events (by decide)

@[simp] theorem State.setPage_events (s : State) (n : Nat) (p : Page) : (s.setPage n p).events = s.events :=
  State.setPage_only .events (by decide)

@[simp] theorem State.traceRec_events (s : State) (ty : Nat) (b : List Byte) : (s.traceRec ty b).events = s.events :=
  State.traceRec_only .events (by decide)

/-- The log after an event: the next number taken, the 256 most recent records, the last one, the first of severity 4. -/
theorem State.record_events (s : State) (e : Ev) :
    (s.record e).events = Events.mk ((s.events.next + 1) % 2 ^ 32)
      (if 256 < (s.events.recs ++ [EvRec.mk e s.events.next false]).length then
        (s.events.recs ++ [EvRec.mk e s.events.next false]).drop 1 else s.events.recs ++ [EvRec.mk e s.events.next false])
      (some (EvRec.mk e s.events.next false))
      (if e.sev = 4 && s.events.fatal.isNone then some (EvRec.mk e s.events.next false) else s.events.fatal) := by
  unfold State.record
  extract_lets r recs lost y s1 s2 s3 pg p s4 f
  have h4 : s4.events = s1.events := by
    simp only [s4, State.setPage_events, s3]
    split <;> simp [s2]
  split
  · rw [State.traceRec_events, h4]
  · rw [h4]

/-- The last record is the event's. -/
theorem State.record_last {s : State} {e : Ev} : ∃ r, (s.record e).events.last = some r ∧ r.ev = e :=
  ⟨EvRec.mk e s.events.next false, by rw [State.record_events], rfl⟩

/-- An event of severity 0 or 1 that concerns no job is recorded and posted, and nothing else. -/
theorem State.raise_plain {s : State} {e : Ev} (j : e.job = none) (h : e.sev < 2) : s.raise e = (s.record e).post := by
  obtain ⟨c, v, k, a, b, d, x⟩ := e
  subst j
  have : v = 0 ∨ v = 1 := by simp only at h; omega
  obtain rfl | rfl := this <;> rfl

theorem State.raise_plain_only {s : State} {e : Ev} (j : e.job = none) (h : e.sev < 2) :
    Only [.pages, .stalls, .halves, .rings, .events, .trace, .out] s (s.raise e) := by
  rw [State.raise_plain j h]
  exact Only.step (State.record_only.mono (by decide)) State.post_only

/-- Below severity 4 an event leaves the boot state alone. -/
theorem State.raise_boot {s : State} {e : Ev} (h : e.sev ≠ 4) : (s.raise e).boot = s.boot := by
  have r : (s.record e).boot = s.boot := State.record_only .boot (by decide)
  unfold State.raise
  extract_lets s1 s2 s3
  have h2 : s2.boot = s.boot := by
    simp only [s2, s1]
    split
    · exact (show _ = (s.record e).boot from State.flagJob_only .boot (by decide)).trans r
    · exact r
  have h3 : s3.boot = s.boot := by
    simp only [s3]
    clear_value s2
    split
    · exact (show _ = s2.boot from State.failJob_only .boot (by decide)).trans h2
    · split
      · exact (show _ = s2.boot from State.fence_only .boot (by decide)).trans h2
      · exact h2
    · rename_i q; exact absurd q h
    · split
      · exact (show _ = s2.boot from State.abortSteps_only .boot (by decide)).trans h2
      · exact h2
    · exact h2
  exact (show _ = s3.boot from State.post_only .boot (by decide)).trans h3

/-- A DEVICE_FATAL event stops the device (R391). -/
theorem State.raise_fatal_boot {s : State} {e : Ev} (h : e.sev = 4) : (s.raise e).boot = { s.boot with dev := 3 } := by
  obtain ⟨c, v, k, a, b, d, x⟩ := e
  subst h
  have r : (s.record ⟨c, 4, k, a, b, d, x⟩).boot = s.boot := State.record_only .boot (by decide)
  have st : ∀ u : State, u.boot = s.boot → (u.stopDevice c).boot = { s.boot with dev := 3 } := fun u hu => by
    have : (u.openJobs.foldl (fun s j => s.failNow j c) u).boot = u.boot :=
      holds_foldl (Q := fun y : State => y.boot = u.boot) rfl fun y j g =>
        (show _ = y.boot from State.failNow_only .boot (by decide)).trans g
    unfold State.stopDevice
    dsimp only
    rw [this, hu]
  unfold State.raise
  refine (show _ = _ from State.post_only .boot (by decide)).trans ?_
  cases k with
  | none => exact st _ r
  | some j => exact st _ ((show _ = _ from State.flagJob_only .boot (by decide)).trans r)

end Sys2Proof.Machine
end

