-- ==== Sys2Proof/Laws/OnlyLinks.lean ====
section
/-! SUPPORT. Which parts of the state the operations of stalls, transfers, arbiters, aisle ports and bridges may change:
one lemma for each operation. -/

set_option Elab.async false
namespace Sys2Proof.Machine

theorem State.accept_only {a0 a1 a2 a3 a4 a5 a6} :
    Only [.boot, .pages, .stalls, .jobs, .hubs, .aisles, .halves, .clerk, .rings, .events, .ledgers, .trace, .out, .freeIx] a0
        (State.accept a0 a1 a2 a3 a4 a5 a6) := by
  unfold State.accept; refine Only.step ?_ State.onStall_only; exact .refl _

theorem State.cacheLine_only {a0 a1 a2} : Only [.rings] a0 (State.cacheLine a0 a1 a2) := by
  unfold State.cacheLine
  extract_lets rest
  generalize ((rest ++ [(a1, a2)]).drop (rest.length + 1 - cacheLines)) = x
  exact Only.upd (.refl _)

theorem State.fetchLine_only {a0 a1 a2 a3 a4} :
    Only [.pages, .stalls, .halves, .rings, .events, .ledgers, .trace, .out] a0 (State.fetchLine a0 a1 a2 a3 a4) := by
  unfold State.fetchLine; refine holds_ite ?_ ?_; exact .refl _; extract_lets +onlyGivenNames x0
  refine (fun (h0 : Only [Part.pages, Part.stalls, Part.halves, Part.rings, Part.events, Part.ledgers, Part.trace, Part.out]
      a0 x0) => ?_) ?_
  (try clear_value x0); refine holds_ite ?_ ?_; refine Only.step ?_ State.cacheLine_only; exact h0; exact h0
  unfold x0; refine Only.step ?_ State.charge_only; refine Only.step ?_ State.sendSlot_only; exact .refl _

theorem State.fetchChunk_only {a0 a1 a2 a3 a4 a5 a6} :
    Only [.pages, .stalls, .jobs, .halves, .rings, .events, .ledgers, .trace, .out] a0 (State.fetchChunk a0 a1 a2 a3 a4 a5 a6)
        := by
  unfold State.fetchChunk; split; exact .refl _; split; exact .refl _; extract_lets +onlyGivenNames x0
  (try clear_value x0); refine holds_foldl ?_ fun x1 a1_ h1 => ?_; refine Only.step ?_ State.setJob_only
  exact .refl _; refine Only.step ?_ State.fetchLine_only; exact h1

theorem State.fetchStreams_only {a0 a1 a2 a3} :
    Only [.pages, .stalls, .jobs, .halves, .rings, .events, .ledgers, .trace, .out] a0 (State.fetchStreams a0 a1 a2 a3) := by
  unfold State.fetchStreams; split; exact .refl _; extract_lets +onlyGivenNames x0; (try clear_value x0)
  refine holds_foldl ?_ fun x1 a1_ h1 => ?_; exact .refl _; refine holds_foldl ?_ fun x2 a2_ h2 => ?_; exact h1
  extract_lets +onlyGivenNames x3; (try clear_value x3); split; exact h2; refine holds_ite ?_ ?_
  refine Only.step ?_ State.fetchChunk_only; exact h2; refine holds_ite ?_ ?_; exact h2
  refine Only.step ?_ State.fetchChunk_only; exact h2

theorem State.aheadEvict_only {a0 a1 a2} :
    Only [.pages, .stalls, .hubs] a0 (State.aheadEvict a0 a1 a2) := by
  unfold State.aheadEvict; extract_lets +onlyGivenNames x0; (try clear_value x0); refine holds_ite ?_ ?_
  exact .refl _; split; refine Only.step ?_ State.count_only; refine Only.step ?_ State.setHub_only; exact .refl _
  exact .refl _

theorem State.arbBeat_only {a0 a1 a2 a3 a4 a5} :
    Fst (Only [.pages, .stalls, .aisles, .halves, .rings, .events, .ledgers, .trace, .out] a0) (State.arbBeat a0 a1 a2 a3 a4
        a5) := by
  unfold State.arbBeat; refine holds_ite ?_ ?_; refine Only.stepFst ?_ State.halfSlot_only; exact .refl _
  refine holds_ite ?_ ?_; refine Only.stepFst ?_ State.aisleSlot_only; exact .refl _
  change Only _ _ (Prod.fst (_, _)); dsimp only; exact .refl _

theorem State.beginIndexed_only {a0 a1 a2} :
    Only [.boot, .pages, .stalls, .jobs, .hubs, .aisles, .halves, .clerk, .rings, .events, .ledgers, .trace, .out, .freeIx] a0
        (State.beginIndexed a0 a1 a2) := by
  unfold State.beginIndexed; refine holds_foldl ?_ fun x0 a0_ h0 => ?_; exact .refl _
  refine Only.step ?_ State.onStall_only; exact h0

theorem State.dropTag_only {a0 a1 a2} :
    Only [.stalls, .freeIx] a0 (State.dropTag a0 a1 a2) := by
  unfold State.dropTag; extract_lets +onlyGivenNames x0; (try clear_value x0); extract_lets +onlyGivenNames x1
  refine (fun (h1 : Only [Part.stalls, Part.freeIx] a0 x1) => ?_) ?_; (try clear_value x1); refine Only.upd ?_
  exact h1; unfold x1; refine Only.step ?_ State.setStall_only; exact .refl _

theorem State.loseTransfers_only {a0 a1} :
    Only [.pages, .stalls, .jobs, .hubs, .aisles, .halves, .clerk, .rings, .events, .ledgers, .trace, .out, .freeIx] a0
        (State.loseTransfers a0 a1) := by
  unfold State.loseTransfers; refine holds_foldl ?_ fun x0 a0_ h0 => ?_; exact .refl _
  refine holds_foldl ?_ fun x1 a1_ h1 => ?_; exact h0; refine holds_ite ?_ ?_
  refine Only.step ?_ State.abortSteps_only; refine Only.step ?_ State.dropTag_only; exact h1; exact h1

theorem State.bridgeDown_only {a0 a1} :
    Only [.boot, .pages, .stalls, .jobs, .hubs, .aisles, .halves, .clerk, .rings, .events, .ledgers, .trace, .out, .freeIx] a0
        (State.bridgeDown a0 a1) := by
  unfold State.bridgeDown; extract_lets +onlyGivenNames x0
  refine (fun (h0 : Only [Part.boot, Part.pages, Part.stalls, Part.jobs, Part.hubs, Part.aisles, Part.halves, Part.clerk,
      Part.rings, Part.events, Part.ledgers, Part.trace, Part.out, Part.freeIx] a0 x0) => ?_) ?_
  (try clear_value x0); extract_lets +onlyGivenNames x1
  refine (fun (h1 : Only [Part.boot, Part.pages, Part.stalls, Part.jobs, Part.hubs, Part.aisles, Part.halves, Part.clerk,
      Part.rings, Part.events, Part.ledgers, Part.trace, Part.out, Part.freeIx] a0 x1) => ?_) ?_
  (try clear_value x1); extract_lets +onlyGivenNames x2
  refine (fun (h2 : Only [Part.boot, Part.pages, Part.stalls, Part.jobs, Part.hubs, Part.aisles, Part.halves, Part.clerk,
      Part.rings, Part.events, Part.ledgers, Part.trace, Part.out, Part.freeIx] a0 x2) => ?_) ?_
  (try clear_value x2); refine holds_foldl ?_ fun x3 a3_ h3 => ?_; exact h2; refine Only.step ?_ State.fence_only
  exact h3; unfold x2; refine Only.step ?_ State.raise_only; exact h1; unfold x1
  refine Only.step ?_ State.loseTransfers_only; exact h0; unfold x0; refine Only.step ?_ State.raise_only
  exact .refl _

theorem State.takeDown_only {a0 a1 a2} :
    Only [.chans, .arbs] a0 (State.takeDown a0 a1 a2) := by
  unfold State.takeDown; extract_lets +onlyGivenNames x0; (try clear_value x0)
  refine holds_foldl ?_ fun x1 a1_ h1 => ?_; exact .refl _; extract_lets +onlyGivenNames x2; (try clear_value x2)
  extract_lets +onlyGivenNames x3; (try clear_value x3); extract_lets +onlyGivenNames x4
  refine (fun (h4 : Only [Part.chans, Part.arbs] a0 x4) => ?_) ?_; (try clear_value x4); split
  extract_lets +onlyGivenNames x5; (try clear_value x5); refine Only.step ?_ State.occupy_only
  refine Only.step ?_ State.setChan_only; exact h4; exact h4; unfold x4; refine Only.step ?_ State.setChan_only
  exact h1

theorem State.channelDown_only {a0 a1 a2} :
    Only [.boot, .pages, .stalls, .jobs, .hubs, .chans, .arbs, .aisles, .halves, .clerk, .rings, .events, .ledgers, .trace,
        .out, .freeIx] a0 (State.channelDown a0 a1 a2) := by
  unfold State.channelDown; extract_lets +onlyGivenNames x0
  refine (fun (h0 : Only [Part.boot, Part.pages, Part.stalls, Part.jobs, Part.hubs, Part.chans, Part.arbs, Part.aisles,
      Part.halves, Part.clerk, Part.rings, Part.events, Part.ledgers, Part.trace, Part.out, Part.freeIx] a0 x0) => ?_) ?_
  (try clear_value x0); extract_lets +onlyGivenNames x1
  refine (fun (h1 : Only [Part.boot, Part.pages, Part.stalls, Part.jobs, Part.hubs, Part.chans, Part.arbs, Part.aisles,
      Part.halves, Part.clerk, Part.rings, Part.events, Part.ledgers, Part.trace, Part.out, Part.freeIx] a0 x1) => ?_) ?_
  (try clear_value x1); refine holds_ite ?_ ?_; refine Only.step ?_ State.bridgeDown_only; exact h1; exact h1
  unfold x1; refine Only.step ?_ State.raise_only; exact h0; unfold x0; refine Only.step ?_ State.takeDown_only
  exact .refl _

theorem State.chargeBlock_only {a0 a1 a2 a3} :
    Only [.pages, .stalls, .halves, .rings, .events, .ledgers, .trace, .out] a0 (State.chargeBlock a0 a1 a2 a3) := by
  unfold State.chargeBlock; refine Only.step ?_ State.charge_only; exact .refl _

theorem State.pass_only {a0 a1 a2 a3 a4 a5 a6 a7 a8} :
    Only [.boot, .pages, .stalls, .jobs, .hubs, .aisles, .halves, .clerk, .rings, .events, .ledgers, .trace, .out, .freeIx] a0
        (State.pass a0 a1 a2 a3 a4 a5 a6 a7 a8) := by
  unfold State.pass; extract_lets +onlyGivenNames x0
  refine (fun (h0 : Only [Part.boot, Part.pages, Part.stalls, Part.jobs, Part.hubs, Part.aisles, Part.halves, Part.clerk,
      Part.rings, Part.events, Part.ledgers, Part.trace, Part.out, Part.freeIx] a0 x0) => ?_) ?_
  (try clear_value x0); extract_lets +onlyGivenNames x1
  refine (fun (h1 : Only [Part.boot, Part.pages, Part.stalls, Part.jobs, Part.hubs, Part.aisles, Part.halves, Part.clerk,
      Part.rings, Part.events, Part.ledgers, Part.trace, Part.out, Part.freeIx] a0 x1) => ?_) ?_
  (try clear_value x1); refine Only.step ?_ State.accept_only; exact h1; unfold x1
  refine Only.step ?_ State.countHbm_only; exact h0; unfold x0; refine Only.step ?_ State.countHbm_only; exact .refl _

theorem State.mismatch_only {a0 a1 a2 a3 a4 a5 a6 a7} :
    Only [.boot, .pages, .stalls, .jobs, .hubs, .aisles, .halves, .clerk, .rings, .events, .ledgers, .trace, .out, .freeIx] a0
        (State.mismatch a0 a1 a2 a3 a4 a5 a6 a7) := by
  unfold State.mismatch; extract_lets +onlyGivenNames x0; (try clear_value x0); refine holds_ite ?_ ?_
  extract_lets +onlyGivenNames x1
  refine (fun (h1 : Only [Part.boot, Part.pages, Part.stalls, Part.jobs, Part.hubs, Part.aisles, Part.halves, Part.clerk,
      Part.rings, Part.events, Part.ledgers, Part.trace, Part.out, Part.freeIx] a0 x1) => ?_) ?_
  (try clear_value x1); extract_lets +onlyGivenNames x2; (try clear_value x2); extract_lets +onlyGivenNames x3
  refine (fun (h3 : Only [Part.boot, Part.pages, Part.stalls, Part.jobs, Part.hubs, Part.aisles, Part.halves, Part.clerk,
      Part.rings, Part.events, Part.ledgers, Part.trace, Part.out, Part.freeIx] a0 x3) => ?_) ?_
  (try clear_value x3); refine holds_ite ?_ ?_; exact h3; refine Only.step ?_ State.raise_only; exact h3; unfold x3
  refine Only.step ?_ State.countHbm_only; exact h1; unfold x1; refine Only.step ?_ State.setStall_only; exact .refl _
  extract_lets +onlyGivenNames x4; (try clear_value x4); extract_lets +onlyGivenNames x5
  refine (fun (h5 : Only [Part.boot, Part.pages, Part.stalls, Part.jobs, Part.hubs, Part.aisles, Part.halves, Part.clerk,
      Part.rings, Part.events, Part.ledgers, Part.trace, Part.out, Part.freeIx] a0 x5) => ?_) ?_
  (try clear_value x5); refine Only.step ?_ State.raise_only; exact h5; unfold x5
  refine Only.step ?_ State.accept_only; refine Only.step ?_ State.countHbm_only; exact .refl _

theorem State.deliver_only {a0 a1 a2 a3 a4 a5 a6 a7} :
    Only [.boot, .pages, .stalls, .jobs, .hubs, .aisles, .halves, .clerk, .rings, .events, .ledgers, .trace, .out, .freeIx] a0
        (State.deliver a0 a1 a2 a3 a4 a5 a6 a7) := by
  unfold State.deliver; extract_lets +onlyGivenNames x0; (try clear_value x0); extract_lets +onlyGivenNames x1
  (try clear_value x1); extract_lets +onlyGivenNames x2
  refine (fun (h2 : Only [Part.boot, Part.pages, Part.stalls, Part.jobs, Part.hubs, Part.aisles, Part.halves, Part.clerk,
      Part.rings, Part.events, Part.ledgers, Part.trace, Part.out, Part.freeIx] a0 x2) => ?_) ?_
  (try clear_value x2); split; extract_lets +onlyGivenNames x3; (try clear_value x3)
  refine Only.step ?_ State.pass_only; exact h2; refine holds_ite ?_ ?_; extract_lets +onlyGivenNames x4
  refine (fun (h4 : Only [Part.boot, Part.pages, Part.stalls, Part.jobs, Part.hubs, Part.aisles, Part.halves, Part.clerk,
      Part.rings, Part.events, Part.ledgers, Part.trace, Part.out, Part.freeIx] a0 x4) => ?_) ?_
  (try clear_value x4); refine holds_ite ?_ ?_; refine Only.step ?_ State.raise_only; exact h4; exact h4; unfold x4
  refine Only.step ?_ State.accept_only; exact h2; split; refine Only.step ?_ State.pass_only; exact h2
  refine Only.step ?_ State.mismatch_only; exact h2; unfold x2; refine holds_ite ?_ ?_; exact .refl _
  refine Only.step ?_ State.countHbm_only; refine holds_foldl ?_ fun x5 a5_ h5 => ?_; exact .refl _
  refine Only.step ?_ State.chargeBlock_only; refine Only.step ?_ State.countHbm_only; exact h5

theorem State.dropLine_only {a0 a1} :
    Only [.rings] a0 (State.dropLine a0 a1) := by
  unfold State.dropLine; refine Only.upd ?_; exact .refl _

theorem State.fetchOn_only {a0 a1 a2 a3} :
    Only [.pages, .stalls, .jobs, .halves, .rings, .events, .ledgers, .trace, .out] a0 (State.fetchOn a0 a1 a2 a3) := by
  unfold State.fetchOn; extract_lets +onlyGivenNames x0; (try clear_value x0); extract_lets +onlyGivenNames x1
  (try clear_value x1); split; exact .refl _; refine holds_ite ?_ ?_; exact .refl _
  refine Only.step ?_ State.fetchChunk_only; exact .refl _

theorem State.refill_only {a0 a1 a2 a3 a4} :
    Only [.boot, .pages, .stalls, .jobs, .hubs, .aisles, .halves, .clerk, .rings, .events, .ledgers, .trace, .out, .freeIx] a0
        (State.refill a0 a1 a2 a3 a4) := by
  unfold State.refill; refine Only.step ?_ State.fetchOn_only; refine Only.step ?_ State.onStall_only; exact .refl _

theorem State.meet_only {a0 a1 a2 a3 a4 a5 a6} :
    Only [.boot, .pages, .stalls, .jobs, .hubs, .aisles, .halves, .clerk, .rings, .events, .ledgers, .trace, .out, .freeIx] a0
        (State.meet a0 a1 a2 a3 a4 a5 a6) := by
  unfold State.meet; refine Only.step ?_ State.refill_only; refine holds_ite ?_ ?_
  refine Only.step ?_ State.onStall_only; exact .refl _; refine Only.step ?_ State.onStall_only; exact .refl _

theorem State.earlier_only {a0 a1 a2 a3} :
    Only [.boot, .pages, .stalls, .jobs, .hubs, .aisles, .halves, .clerk, .rings, .events, .ledgers, .trace, .out, .freeIx] a0
        (State.earlier a0 a1 a2 a3) := by
  unfold State.earlier; refine holds_foldl ?_ fun x0 a0_ h0 => ?_; exact .refl _
  refine holds_foldl ?_ fun x1 a1_ h1 => ?_; exact h0; split; exact h1; refine holds_ite ?_ ?_
  refine Only.step ?_ State.meet_only; exact h1; exact h1

theorem State.fetchAgain_only {a0 a1 a2 a3 a4} :
    Only [.pages, .stalls, .jobs, .halves, .rings, .events, .ledgers, .trace, .out] a0 (State.fetchAgain a0 a1 a2 a3 a4) := by
  unfold State.fetchAgain; split; exact .refl _; split; exact .refl _; refine Only.step ?_ State.fetchChunk_only
  refine holds_foldl ?_ fun x0 a0_ h0 => ?_; exact .refl _; refine Only.step ?_ State.dropLine_only; exact h0

theorem State.fillLines_only {a0 a1 a2 a3} :
    Only [.rings] a0 (State.fillLines a0 a1 a2 a3) := by
  unfold State.fillLines; refine holds_foldl ?_ fun x0 a0_ h0 => ?_; exact .refl _; refine holds_ite ?_ ?_
  refine Only.step ?_ State.cacheLine_only; exact h0; exact h0

theorem State.issue_only {a0 a1 a2 a3 a4} :
    Only [.boot, .time, .pages, .stalls, .jobs, .hubs, .aisles, .halves, .clerk, .rings, .events, .ledgers, .trace, .out,
        .freeIx] a0 (State.issue a0 a1 a2 a3 a4) := by
  unfold State.issue; refine holds_ite ?_ ?_; exact .refl _; split; exact .refl _; refine holds_ite ?_ ?_
  exact .refl _; extract_lets +onlyGivenNames x0
  refine (fun (h0 : Only [Part.boot, Part.time, Part.pages, Part.stalls, Part.jobs, Part.hubs, Part.aisles, Part.halves,
      Part.clerk, Part.rings, Part.events, Part.ledgers, Part.trace, Part.out, Part.freeIx] a0 x0) => ?_) ?_
  (try clear_value x0); split; exact h0; split; exact h0; refine Only.step ?_ State.meet_only; exact h0; unfold x0
  refine Only.step ?_ State.earlier_only; refine Only.step ?_ State.touch_only; refine Only.step ?_ State.advance_only
  exact .refl _

theorem State.lockCut_only {a0 a1 a2 a3} :
    Only [.boot, .pages, .stalls, .jobs, .hubs, .aisles, .halves, .clerk, .rings, .events, .ledgers, .trace, .out, .freeIx] a0
        (State.lockCut a0 a1 a2 a3) := by
  unfold State.lockCut; split; exact .refl _; refine Only.step ?_ State.raise_only
  refine Only.step ?_ State.count_only; exact .refl _

theorem State.revoked_only {a0 a1 a2 a3} :
    Only [.boot, .pages, .stalls, .jobs, .hubs, .aisles, .halves, .clerk, .rings, .events, .ledgers, .trace, .out, .freeIx] a0
        (State.revoked a0 a1 a2 a3) := by
  unfold State.revoked; refine holds_ite ?_ ?_; refine holds_ite ?_ ?_; refine Only.step ?_ State.reserveAisle_only
  exact .refl _; exact .refl _; split; refine holds_ite ?_ ?_; refine Only.step ?_ State.onStall_only; exact .refl _
  exact .refl _; exact .refl _

theorem State.writeBlock_only {a0 a1 a2 a3} :
    Only [.pages, .stalls, .mem, .marks, .halves, .rings, .events, .ledgers, .trace, .out] a0 (State.writeBlock a0 a1 a2 a3)
        := by
  unfold State.writeBlock; extract_lets +onlyGivenNames x0; (try clear_value x0); extract_lets +onlyGivenNames x1
  refine (fun (h1 : Only [Part.pages, Part.stalls, Part.mem, Part.marks, Part.halves, Part.rings, Part.events, Part.ledgers,
      Part.trace, Part.out] a0 x1) => ?_) ?_
  (try clear_value x1); refine holds_ite ?_ ?_; exact h1; refine Only.step ?_ State.chargeBlock_only; exact h1
  unfold x1; refine Only.step ?_ State.chargeBlock_only; refine Only.step ?_ State.putServed_only; exact .refl _

theorem execStreamChunkArrival_only {a0 a1 a2 a3 a4 a5 a6} :
    Nxt (Only [.boot, .time, .pages, .stalls, .jobs, .hubs, .aisles, .halves, .clerk, .rings, .events, .ledgers, .trace, .out,
        .freeIx] a6) (execStreamChunkArrival a0 a1 a2 a3 a4 a5 a6) := by
  unfold execStreamChunkArrival; extract_lets +onlyGivenNames x0
  refine (fun (h0 : Only [Part.boot, Part.time, Part.pages, Part.stalls, Part.jobs, Part.hubs, Part.aisles, Part.halves,
      Part.clerk, Part.rings, Part.events, Part.ledgers, Part.trace, Part.out, Part.freeIx] a6 x0) => ?_) ?_
  (try clear_value x0); extract_lets +onlyGivenNames x1; (try clear_value x1); refine .ofNext ?_
  refine State.on_only ?_ ?_; exact h0; split; exact h0; extract_lets +onlyGivenNames x2; (try clear_value x2); split
  exact h0; extract_lets +onlyGivenNames x3; (try clear_value x3); extract_lets +onlyGivenNames x4
  (try clear_value x4); refine holds_ite ?_ ?_; exact h0; refine holds_ite ?_ ?_; refine holds_ite ?_ ?_
  refine Only.step ?_ State.raise_only; exact h0; refine Only.step ?_ State.fetchAgain_only; exact h0
  extract_lets +onlyGivenNames x5
  refine (fun (h5 : Only [Part.boot, Part.time, Part.pages, Part.stalls, Part.jobs, Part.hubs, Part.aisles, Part.halves,
      Part.clerk, Part.rings, Part.events, Part.ledgers, Part.trace, Part.out, Part.freeIx] a6 x5) => ?_) ?_
  (try clear_value x5); extract_lets +onlyGivenNames x6; (try clear_value x6); extract_lets +onlyGivenNames x7
  refine (fun (h7 : Only [Part.boot, Part.time, Part.pages, Part.stalls, Part.jobs, Part.hubs, Part.aisles, Part.halves,
      Part.clerk, Part.rings, Part.events, Part.ledgers, Part.trace, Part.out, Part.freeIx] a6 x7) => ?_) ?_
  (try clear_value x7); refine Only.step ?_ State.refill_only; refine Only.step ?_ State.onStall_only; exact h7
  unfold x7; refine Only.step ?_ State.setJob_only; exact h5; unfold x5; refine holds_ite ?_ ?_
  refine Only.step ?_ State.fillLines_only; exact h0; exact h0; unfold x0; refine Only.step ?_ State.advance_only
  exact .refl _

theorem execLdw_only {a0 a1 a2} :
    Nxt (Only [.boot, .time, .pages, .stalls, .jobs, .hubs, .aisles, .halves, .clerk, .rings, .events, .ledgers, .trace, .out,
        .freeIx] a2) (execLdw a0 a1 a2) := by
  unfold execLdw; refine .ofNext ?_; refine State.on_only ?_ ?_; exact .refl _; refine Only.step ?_ State.issue_only
  exact .refl _

theorem execMma_only {a0 a1 a2} :
    Nxt (Only [.boot, .time, .pages, .stalls, .jobs, .hubs, .aisles, .halves, .clerk, .rings, .events, .ledgers, .trace, .out,
        .freeIx] a2) (execMma a0 a1 a2) := by
  unfold execMma; refine .ofNext ?_; refine State.on_only ?_ ?_; exact .refl _; refine Only.step ?_ State.issue_only
  exact .refl _

theorem execVop_only {a0 a1 a2} :
    Nxt (Only [.boot, .time, .pages, .stalls, .jobs, .hubs, .aisles, .halves, .clerk, .rings, .events, .ledgers, .trace, .out,
        .freeIx] a2) (execVop a0 a1 a2) := by
  unfold execVop; refine .ofNext ?_; refine State.on_only ?_ ?_; exact .refl _; refine Only.step ?_ State.issue_only
  exact .refl _

theorem execVred_only {a0 a1 a2} :
    Nxt (Only [.boot, .time, .pages, .stalls, .jobs, .hubs, .aisles, .halves, .clerk, .rings, .events, .ledgers, .trace, .out,
        .freeIx] a2) (execVred a0 a1 a2) := by
  unfold execVred; refine .ofNext ?_; refine State.on_only ?_ ?_; exact .refl _; refine Only.step ?_ State.issue_only
  exact .refl _

theorem execVnormStat_only {a0 a1 a2} :
    Nxt (Only [.boot, .time, .pages, .stalls, .jobs, .hubs, .aisles, .halves, .clerk, .rings, .events, .ledgers, .trace, .out,
        .freeIx] a2) (execVnormStat a0 a1 a2) := by
  unfold execVnormStat; refine .ofNext ?_; refine State.on_only ?_ ?_; exact .refl _
  refine Only.step ?_ State.issue_only; exact .refl _

theorem execVnormApply_only {a0 a1 a2} :
    Nxt (Only [.boot, .time, .pages, .stalls, .jobs, .hubs, .aisles, .halves, .clerk, .rings, .events, .ledgers, .trace, .out,
        .freeIx] a2) (execVnormApply a0 a1 a2) := by
  unfold execVnormApply; refine .ofNext ?_; refine State.on_only ?_ ?_; exact .refl _
  refine Only.step ?_ State.issue_only; exact .refl _

theorem execVsmaxStat_only {a0 a1 a2} :
    Nxt (Only [.boot, .time, .pages, .stalls, .jobs, .hubs, .aisles, .halves, .clerk, .rings, .events, .ledgers, .trace, .out,
        .freeIx] a2) (execVsmaxStat a0 a1 a2) := by
  unfold execVsmaxStat; refine .ofNext ?_; refine State.on_only ?_ ?_; exact .refl _
  refine Only.step ?_ State.issue_only; exact .refl _

theorem execVsmaxApply_only {a0 a1 a2} :
    Nxt (Only [.boot, .time, .pages, .stalls, .jobs, .hubs, .aisles, .halves, .clerk, .rings, .events, .ledgers, .trace, .out,
        .freeIx] a2) (execVsmaxApply a0 a1 a2) := by
  unfold execVsmaxApply; refine .ofNext ?_; refine State.on_only ?_ ?_; exact .refl _
  refine Only.step ?_ State.issue_only; exact .refl _

theorem execVsfn_only {a0 a1 a2} :
    Nxt (Only [.boot, .time, .pages, .stalls, .jobs, .hubs, .aisles, .halves, .clerk, .rings, .events, .ledgers, .trace, .out,
        .freeIx] a2) (execVsfn a0 a1 a2) := by
  unfold execVsfn; refine .ofNext ?_; refine State.on_only ?_ ?_; exact .refl _; refine Only.step ?_ State.issue_only
  exact .refl _

theorem execPack_only {a0 a1 a2} :
    Nxt (Only [.boot, .time, .pages, .stalls, .jobs, .hubs, .aisles, .halves, .clerk, .rings, .events, .ledgers, .trace, .out,
        .freeIx] a2) (execPack a0 a1 a2) := by
  unfold execPack; refine .ofNext ?_; refine State.on_only ?_ ?_; exact .refl _; refine Only.step ?_ State.issue_only
  exact .refl _

theorem execUnpack_only {a0 a1 a2} :
    Nxt (Only [.boot, .time, .pages, .stalls, .jobs, .hubs, .aisles, .halves, .clerk, .rings, .events, .ledgers, .trace, .out,
        .freeIx] a2) (execUnpack a0 a1 a2) := by
  unfold execUnpack; refine .ofNext ?_; refine State.on_only ?_ ?_; exact .refl _
  refine Only.step ?_ State.issue_only; exact .refl _

theorem execGroupidx_only {a0 a1 a2} :
    Nxt (Only [.boot, .time, .pages, .stalls, .jobs, .hubs, .aisles, .halves, .clerk, .rings, .events, .ledgers, .trace, .out,
        .freeIx] a2) (execGroupidx a0 a1 a2) := by
  unfold execGroupidx; refine .ofNext ?_; refine State.on_only ?_ ?_; exact .refl _
  refine Only.step ?_ State.issue_only; exact .refl _

theorem execGet_only {a0 a1 a2} :
    Nxt (Only [.boot, .time, .pages, .stalls, .jobs, .hubs, .aisles, .halves, .clerk, .rings, .events, .ledgers, .trace, .out,
        .freeIx] a2) (execGet a0 a1 a2) := by
  unfold execGet; refine .ofNext ?_; refine State.on_only ?_ ?_; exact .refl _; refine Only.step ?_ State.issue_only
  exact .refl _

theorem execPut_only {a0 a1 a2} :
    Nxt (Only [.boot, .time, .pages, .stalls, .jobs, .hubs, .aisles, .halves, .clerk, .rings, .events, .ledgers, .trace, .out,
        .freeIx] a2) (execPut a0 a1 a2) := by
  unfold execPut; refine .ofNext ?_; refine State.on_only ?_ ?_; exact .refl _; refine Only.step ?_ State.issue_only
  exact .refl _

theorem execGather_only {a0 a1 a2} :
    Nxt (Only [.boot, .time, .pages, .stalls, .jobs, .hubs, .aisles, .halves, .clerk, .rings, .events, .ledgers, .trace, .out,
        .freeIx] a2) (execGather a0 a1 a2) := by
  unfold execGather; refine .ofNext ?_; refine State.on_only ?_ ?_; exact .refl _
  refine Only.step ?_ State.issue_only; exact .refl _

theorem execAhead_only {a0 a1 a2} :
    Nxt (Only [.boot, .time, .pages, .stalls, .jobs, .hubs, .aisles, .halves, .clerk, .rings, .events, .ledgers, .trace, .out,
        .freeIx] a2) (execAhead a0 a1 a2) := by
  unfold execAhead; refine .ofNext ?_; refine State.on_only ?_ ?_; exact .refl _; refine Only.step ?_ State.issue_only
  exact .refl _

theorem execSend_only {a0 a1 a2} :
    Nxt (Only [.boot, .time, .pages, .stalls, .jobs, .hubs, .aisles, .halves, .clerk, .rings, .events, .ledgers, .trace, .out,
        .freeIx] a2) (execSend a0 a1 a2) := by
  unfold execSend; refine .ofNext ?_; refine State.on_only ?_ ?_; exact .refl _; refine Only.step ?_ State.issue_only
  exact .refl _

theorem execBulk_only {a0 a1 a2} :
    Nxt (Only [.boot, .time, .pages, .stalls, .jobs, .hubs, .aisles, .halves, .clerk, .rings, .events, .ledgers, .trace, .out,
        .freeIx] a2) (execBulk a0 a1 a2) := by
  unfold execBulk; refine .ofNext ?_; refine State.on_only ?_ ?_; exact .refl _; refine Only.step ?_ State.issue_only
  exact .refl _

theorem execGrant_only {a0 a1 a2} :
    Nxt (Only [.boot, .time, .pages, .stalls, .jobs, .hubs, .aisles, .halves, .clerk, .rings, .events, .ledgers, .trace, .out,
        .freeIx] a2) (execGrant a0 a1 a2) := by
  unfold execGrant; refine .ofNext ?_; refine State.on_only ?_ ?_; exact .refl _; refine Only.step ?_ State.issue_only
  exact .refl _

theorem execCheckcmp_only {a0 a1 a2} :
    Nxt (Only [.boot, .time, .pages, .stalls, .jobs, .hubs, .aisles, .halves, .clerk, .rings, .events, .ledgers, .trace, .out,
        .freeIx] a2) (execCheckcmp a0 a1 a2) := by
  unfold execCheckcmp; refine .ofNext ?_; refine State.on_only ?_ ?_; exact .refl _
  refine Only.step ?_ State.issue_only; exact .refl _

theorem execWaitw_only {a0 a1 a2 a3} :
    Nxt (Only [.boot, .time, .pages, .stalls, .jobs, .hubs, .aisles, .halves, .clerk, .rings, .events, .ledgers, .trace, .out,
        .freeIx] a3) (execWaitw a0 a1 a2 a3) := by
  unfold execWaitw; refine .ofNext ?_; refine State.on_only ?_ ?_; exact .refl _; refine Only.step ?_ State.issue_only
  exact .refl _

theorem execStepEnd_only {a0 a1 a2 a3} :
    Nxt (Only [.boot, .time, .pages, .stalls, .jobs, .hubs, .aisles, .halves, .clerk, .rings, .events, .ledgers, .trace, .out,
        .freeIx] a3) (execStepEnd a0 a1 a2 a3) := by
  unfold execStepEnd; refine .ofNext ?_; refine State.on_only ?_ ?_; exact .refl _
  refine Only.step ?_ State.issue_only; exact .refl _

theorem execWordCompletion_only {a0 a1 a2} :
    Nxt (Only [.boot, .time, .pages, .stalls, .jobs, .hubs, .aisles, .halves, .clerk, .rings, .events, .ledgers, .trace, .out,
        .freeIx] a2) (execWordCompletion a0 a1 a2) := by
  unfold execWordCompletion; refine .ofNext ?_; refine State.on_only ?_ ?_; exact .refl _; split; exact .refl _
  extract_lets +onlyGivenNames x0
  refine (fun (h0 : Only [Part.boot, Part.time, Part.pages, Part.stalls, Part.jobs, Part.hubs, Part.aisles, Part.halves,
      Part.clerk, Part.rings, Part.events, Part.ledgers, Part.trace, Part.out, Part.freeIx] a2 x0) => ?_) ?_
  (try clear_value x0); refine Only.step ?_ State.onStall_only; exact h0; unfold x0
  refine Only.step ?_ State.advance_only; exact .refl _

theorem execHbmBlockArrival_only {a0 a1 a2 a3 a4 a5} :
    Nxt (Only [.boot, .time, .pages, .stalls, .jobs, .hubs, .aisles, .halves, .clerk, .rings, .events, .ledgers, .trace, .out,
        .freeIx] a5) (execHbmBlockArrival a0 a1 a2 a3 a4 a5) := by
  unfold execHbmBlockArrival; extract_lets +onlyGivenNames x0
  refine (fun (h0 : Only [Part.boot, Part.time, Part.pages, Part.stalls, Part.jobs, Part.hubs, Part.aisles, Part.halves,
      Part.clerk, Part.rings, Part.events, Part.ledgers, Part.trace, Part.out, Part.freeIx] a5 x0) => ?_) ?_
  (try clear_value x0); refine .ofNext ?_; refine State.on_only ?_ ?_; exact h0; split; exact h0; split; exact h0
  refine holds_ite ?_ ?_; exact h0; refine Only.step ?_ State.deliver_only; exact h0; unfold x0
  refine State.on_only ?_ ?_; exact .refl _; refine Only.step ?_ State.touch_only
  refine Only.step ?_ State.advance_only; exact .refl _

theorem execPorterTransferComplete_only {a0 a1 a2 a3} :
    Nxt (Only [.boot, .time, .pages, .stalls, .jobs, .hubs, .aisles, .halves, .clerk, .rings, .events, .ledgers, .trace, .out,
        .freeIx] a3) (execPorterTransferComplete a0 a1 a2 a3) := by
  unfold execPorterTransferComplete; extract_lets +onlyGivenNames x0
  refine (fun (h0 : Only [Part.boot, Part.time, Part.pages, Part.stalls, Part.jobs, Part.hubs, Part.aisles, Part.halves,
      Part.clerk, Part.rings, Part.events, Part.ledgers, Part.trace, Part.out, Part.freeIx] a3 x0) => ?_) ?_
  (try clear_value x0); refine .ofNext ?_; refine State.on_only ?_ ?_; exact h0; split; exact h0
  refine Only.step ?_ State.onStall_only; exact h0; unfold x0; refine State.on_only ?_ ?_; exact .refl _
  refine Only.step ?_ State.touch_only; refine Only.step ?_ State.advance_only; exact .refl _

theorem execHbmBlockWrite_only {a0 a1 a2 a3 a4 a5} :
    Nxt (Only [.boot, .time, .pages, .stalls, .jobs, .hubs, .mem, .marks, .aisles, .halves, .clerk, .rings, .events, .ledgers,
        .trace, .out, .freeIx] a5) (execHbmBlockWrite a0 a1 a2 a3 a4 a5) := by
  unfold execHbmBlockWrite; extract_lets +onlyGivenNames x0
  refine (fun (h0 : Only [Part.boot, Part.time, Part.pages, Part.stalls, Part.jobs, Part.hubs, Part.mem, Part.marks,
      Part.aisles, Part.halves, Part.clerk, Part.rings, Part.events, Part.ledgers, Part.trace, Part.out, Part.freeIx] a5 x0)
      => ?_) ?_
  (try clear_value x0); refine .ofNext ?_; refine State.on_only ?_ ?_; exact h0; split; exact h0; split; exact h0
  extract_lets +onlyGivenNames x1; (try clear_value x1); refine holds_ite ?_ ?_; exact h0; refine holds_ite ?_ ?_
  extract_lets +onlyGivenNames x2
  refine (fun (h2 : Only [Part.boot, Part.time, Part.pages, Part.stalls, Part.jobs, Part.hubs, Part.mem, Part.marks,
      Part.aisles, Part.halves, Part.clerk, Part.rings, Part.events, Part.ledgers, Part.trace, Part.out, Part.freeIx] a5 x2)
      => ?_) ?_
  (try clear_value x2); refine Only.step ?_ State.raise_only; exact h2; unfold x2
  refine Only.step ?_ State.dropTag_only; refine Only.step ?_ State.writeFails_only; exact h0
  extract_lets +onlyGivenNames x3
  refine (fun (h3 : Only [Part.boot, Part.time, Part.pages, Part.stalls, Part.jobs, Part.hubs, Part.mem, Part.marks,
      Part.aisles, Part.halves, Part.clerk, Part.rings, Part.events, Part.ledgers, Part.trace, Part.out, Part.freeIx] a5 x3)
      => ?_) ?_
  (try clear_value x3); refine Only.step ?_ State.onStall_only; exact h3; unfold x3
  refine Only.step ?_ State.writeBlock_only; refine Only.step ?_ State.writeFails_only; exact h0; unfold x0
  refine State.on_only ?_ ?_; exact .refl _; refine Only.step ?_ State.touch_only
  refine Only.step ?_ State.advance_only; exact .refl _

theorem execPorterTagTimeout_only {a0 a1 a2} :
Nxt (Only [.boot, .time, .pages, .stalls, .jobs, .hubs, .aisles, .halves, .clerk, .rings, .events, .ledgers, .trace,
      .out, .freeIx] a2) (execPorterTagTimeout a0 a1 a2) := by
  unfold execPorterTagTimeout; refine .ofNext ?_; refine State.on_only ?_ ?_; exact .refl _; split; exact .refl _
  refine holds_ite ?_ ?_; exact .refl _; extract_lets +onlyGivenNames x7; (try clear_value x7)
  extract_lets +onlyGivenNames x8
  refine (fun (h8 : Only [Part.boot, Part.time, Part.pages, Part.stalls, Part.jobs, Part.hubs, Part.aisles, Part.halves,
      Part.clerk, Part.rings,
    Part.events, Part.ledgers, Part.trace, Part.out, Part.freeIx] a2 x8) => ?_) ?_; (try clear_value x8)
  extract_lets +onlyGivenNames x9; (try clear_value x9); extract_lets +onlyGivenNames x10
  refine (fun (h10 : Only [Part.boot, Part.time, Part.pages, Part.stalls, Part.jobs, Part.hubs, Part.aisles, Part.halves,
      Part.clerk, Part.rings,
    Part.events, Part.ledgers, Part.trace, Part.out, Part.freeIx] a2 x10) => ?_) ?_; (try clear_value x10)
  refine holds_ite ?_ ?_; exact h10; refine Only.step ?_ State.strike_only; exact h10; unfold x10
  refine Only.step ?_ State.raise_only; refine Only.step ?_ State.dropTag_only; exact h8; unfold x8
  refine State.on_only ?_ ?_; exact .refl _; refine Only.step ?_ State.touch_only
  refine Only.step ?_ State.advance_only; exact .refl _

theorem execPageFaultTagRelease_only {a0 a1 a2 a3} :
Nxt (Only [.boot, .time, .pages, .stalls, .jobs, .hubs, .aisles, .halves, .clerk, .rings, .events, .ledgers, .trace,
      .out, .freeIx] a3) (execPageFaultTagRelease a0 a1 a2 a3) := by
  unfold execPageFaultTagRelease; extract_lets +onlyGivenNames x0
  refine (fun (h0 : Only [Part.boot, Part.time, Part.pages, Part.stalls, Part.jobs, Part.hubs, Part.aisles, Part.halves,
      Part.clerk, Part.rings,
    Part.events, Part.ledgers, Part.trace, Part.out, Part.freeIx] a3 x0) => ?_) ?_; (try clear_value x0)
  refine .ofNext ?_; refine State.on_only ?_ ?_; exact h0; split; exact h0; refine holds_ite ?_ ?_
  refine Only.step ?_ State.dropTag_only; exact h0; exact h0; unfold x0; refine State.on_only ?_ ?_; exact .refl _
  refine Only.step ?_ State.touch_only; refine Only.step ?_ State.advance_only; exact .refl _

theorem execPorterStarveTimer_only {a0 a1 a2 a3} :
    Nxt (Only [.boot, .time, .pages, .stalls, .jobs, .hubs, .aisles, .halves, .clerk, .rings, .events, .ledgers, .trace, .out,
        .freeIx] a3) (execPorterStarveTimer a0 a1 a2 a3) := by
  unfold execPorterStarveTimer; refine .ofNext ?_; refine State.on_only ?_ ?_; exact .refl _
  refine Only.step ?_ State.onStall_only; refine Only.step ?_ State.advance_only; exact .refl _

theorem execAheadBlockArrival_only {a0 a1 a2 a3 a4} :
    Nxt (Only [.time, .pages, .stalls, .hubs, .halves, .rings, .events, .ledgers, .trace, .out] a4) (execAheadBlockArrival a0
        a1 a2 a3 a4) := by
  unfold execAheadBlockArrival; extract_lets +onlyGivenNames x0
  refine (fun (h0 : Only [Part.time, Part.pages, Part.stalls, Part.hubs, Part.halves, Part.rings, Part.events, Part.ledgers,
      Part.trace, Part.out] a4 x0) => ?_) ?_
  (try clear_value x0); refine .ofNext ?_; refine State.on_only ?_ ?_; exact h0; split; exact h0
  extract_lets +onlyGivenNames x1; (try clear_value x1); extract_lets +onlyGivenNames x2; (try clear_value x2)
  extract_lets +onlyGivenNames x3; (try clear_value x3); extract_lets +onlyGivenNames x4
  refine (fun (h4 : Only [Part.time, Part.pages, Part.stalls, Part.hubs, Part.halves, Part.rings, Part.events, Part.ledgers,
      Part.trace, Part.out] a4 x4) => ?_) ?_
  (try clear_value x4); refine Only.step ?_ State.aheadEvict_only; refine Only.step ?_ State.countHbm_only
  refine holds_foldl ?_ fun x5 a5_ h5 => ?_; exact h4; refine Only.step ?_ State.chargeBlock_only
  refine Only.step ?_ State.countRead_only; exact h5; unfold x4; refine Only.step ?_ State.setHub_only; exact h0
  unfold x0; refine Only.step ?_ State.advance_only; exact .refl _

theorem execStealerPortGrant_only {a0 a1 a2 a3} :
    Nxt (Only [.boot, .time, .pages, .stalls, .jobs, .hubs, .aisles, .halves, .clerk, .rings, .events, .ledgers, .trace, .out,
        .freeIx] a3) (execStealerPortGrant a0 a1 a2 a3) := by
  unfold execStealerPortGrant; refine .ofNext ?_; refine State.on_only ?_ ?_; exact .refl _
  refine Only.step ?_ State.beginIndexed_only; refine Only.step ?_ State.onStall_only
  refine Only.step ?_ State.advance_only; exact .refl _

theorem execScrubComplete_only {a0 a1 a2 a3} :
    Nxt (Only [.boot, .time, .pages, .stalls, .jobs, .hubs, .aisles, .halves, .clerk, .rings, .events, .ledgers, .trace, .out,
        .freeIx] a3) (execScrubComplete a0 a1 a2 a3) := by
  unfold execScrubComplete; refine .ofNext ?_; refine State.on_only ?_ ?_; exact .refl _
  refine Only.step ?_ State.onStall_only; refine Only.step ?_ State.advance_only; exact .refl _

theorem execBankWakeComplete_only {a0 a1 a2 a3} :
    Nxt (Only [.boot, .time, .pages, .stalls, .jobs, .hubs, .aisles, .halves, .clerk, .rings, .events, .ledgers, .trace, .out,
        .freeIx] a3) (execBankWakeComplete a0 a1 a2 a3) := by
  unfold execBankWakeComplete; refine .ofNext ?_; refine State.on_only ?_ ?_; exact .refl _
  refine Only.step ?_ State.onStall_only; refine Only.step ?_ State.advance_only; exact .refl _

theorem execStoreTestRegion_only {a0 a1 a2 a3 a4 a5} :
    Nxt (Only [.boot, .time, .pages, .stalls, .jobs, .hubs, .aisles, .halves, .clerk, .rings, .events, .ledgers, .trace, .out,
        .freeIx] a5) (execStoreTestRegion a0 a1 a2 a3 a4 a5) := by
  unfold execStoreTestRegion; refine .ofNext ?_; refine State.on_only ?_ ?_; exact .refl _
  refine Only.step ?_ State.onStall_only; refine Only.step ?_ State.advance_only; exact .refl _

theorem execMsgFlit0Arrival_only {a0 a1 a2 a3} :
    Nxt (Only [.boot, .time, .pages, .stalls, .jobs, .hubs, .aisles, .halves, .clerk, .rings, .events, .ledgers, .trace, .out,
        .freeIx] a3) (execMsgFlit0Arrival a0 a1 a2 a3) := by
  unfold execMsgFlit0Arrival; refine .ofNext ?_; refine State.on_only ?_ ?_; exact .refl _
  refine Only.step ?_ State.onStall_only; refine Only.step ?_ State.advance_only; exact .refl _

theorem execMsgLastFlitArrival_only {a0 a1 a2 a3 a4 a5 a6} :
    Nxt (Only [.boot, .time, .pages, .stalls, .jobs, .hubs, .aisles, .halves, .clerk, .rings, .events, .ledgers, .trace, .out,
        .freeIx] a6) (execMsgLastFlitArrival a0 a1 a2 a3 a4 a5 a6) := by
  unfold execMsgLastFlitArrival; refine .ofNext ?_; refine State.on_only ?_ ?_; exact .refl _
  refine Only.step ?_ State.onStall_only; refine Only.step ?_ State.advance_only; exact .refl _

theorem execMsgTruncationTimeout_only {a0 a1 a2 a3 a4} :
    Nxt (Only [.boot, .time, .pages, .stalls, .jobs, .hubs, .aisles, .halves, .clerk, .rings, .events, .ledgers, .trace, .out,
        .freeIx] a4) (execMsgTruncationTimeout a0 a1 a2 a3 a4) := by
  unfold execMsgTruncationTimeout; refine .ofNext ?_; refine State.on_only ?_ ?_; exact .refl _
  refine Only.step ?_ State.onStall_only; refine Only.step ?_ State.advance_only; exact .refl _

theorem execBridgeFlitReceive_only {a0 a1 a2 a3 a4} :
    Nxt (Only [.time, .pages, .stalls, .chans, .out] a4) (execBridgeFlitReceive a0 a1 a2 a3 a4) := by
  unfold execBridgeFlitReceive; extract_lets +onlyGivenNames x0
  refine (fun (h0 : Only [Part.time, Part.pages, Part.stalls, Part.chans, Part.out] a4 x0) => ?_) ?_
  (try clear_value x0); extract_lets +onlyGivenNames x1; (try clear_value x1); refine .ofNext ?_
  refine State.on_only ?_ ?_; exact h0; refine holds_ite ?_ ?_; exact h0; extract_lets +onlyGivenNames x7
  (try clear_value x7); extract_lets +onlyGivenNames x8; (try clear_value x8); extract_lets +onlyGivenNames x9
  refine (fun (h9 : Only [Part.time, Part.pages, Part.stalls, Part.chans, Part.out] a4 x9) => ?_) ?_
  (try clear_value x9); extract_lets +onlyGivenNames x10; (try clear_value x10); refine holds_ite ?_ ?_
  extract_lets +onlyGivenNames x12; (try clear_value x12); refine Only.step ?_ State.setChan_only; exact h9
  refine holds_ite ?_ ?_; refine Only.step ?_ State.setChan_only; exact h9; refine Only.step ?_ State.emit_only
  refine Only.step ?_ State.setChan_only; exact h9; unfold x9; refine holds_ite ?_ ?_; split
  refine Only.step ?_ State.count_only; exact h0; exact h0; exact h0; unfold x0
  refine Only.step ?_ State.advance_only; exact .refl _

theorem execBridgeNakReceive_only {a0 a1 a2 a3} :
    Nxt (Only [.boot, .time, .pages, .stalls, .jobs, .hubs, .chans, .arbs, .aisles, .halves, .clerk, .rings, .events,
        .ledgers, .trace, .out, .freeIx] a3) (execBridgeNakReceive a0 a1 a2 a3) := by
  unfold execBridgeNakReceive; extract_lets +onlyGivenNames x0
  refine (fun (h0 : Only [Part.boot, Part.time, Part.pages, Part.stalls, Part.jobs, Part.hubs, Part.chans, Part.arbs,
      Part.aisles, Part.halves, Part.clerk, Part.rings, Part.events, Part.ledgers, Part.trace, Part.out, Part.freeIx] a3 x0)
      => ?_) ?_
  (try clear_value x0); extract_lets +onlyGivenNames x1; (try clear_value x1); refine .ofNext ?_
  refine State.on_only ?_ ?_; exact h0; refine holds_ite ?_ ?_; exact h0; extract_lets +onlyGivenNames x2
  (try clear_value x2); extract_lets +onlyGivenNames x3; (try clear_value x3); extract_lets +onlyGivenNames x4
  refine (fun (h4 : Only [Part.boot, Part.time, Part.pages, Part.stalls, Part.jobs, Part.hubs, Part.chans, Part.arbs,
      Part.aisles, Part.halves, Part.clerk, Part.rings, Part.events, Part.ledgers, Part.trace, Part.out, Part.freeIx] a3 x4)
      => ?_) ?_
  (try clear_value x4); refine holds_ite ?_ ?_; exact h4; refine Only.step ?_ State.channelDown_only; exact h4
  unfold x4; refine Only.step ?_ State.occupy_only; refine Only.step ?_ State.setChan_only; exact h0; unfold x0
  refine Only.step ?_ State.advance_only; exact .refl _

theorem execArbCycleDecision_only {a0 a1 a2 a3 a4 a5 a6} :
    Nxt (Only [.boot, .time, .pages, .stalls, .jobs, .hubs, .arbs, .aisles, .halves, .clerk, .rings, .events, .ledgers,
        .trace, .out, .freeIx] a6) (execArbCycleDecision a0 a1 a2 a3 a4 a5 a6) := by
  unfold execArbCycleDecision; extract_lets +onlyGivenNames x0
  refine (fun (h0 : Only [Part.boot, Part.time, Part.pages, Part.stalls, Part.jobs, Part.hubs, Part.arbs, Part.aisles,
      Part.halves, Part.clerk, Part.rings, Part.events, Part.ledgers, Part.trace, Part.out, Part.freeIx] a6 x0) => ?_) ?_
  (try clear_value x0); extract_lets +onlyGivenNames x1; (try clear_value x1); extract_lets +onlyGivenNames x2
  (try clear_value x2); extract_lets +onlyGivenNames x3; (try clear_value x3); refine .ofNext ?_
  refine State.on_only ?_ ?_; exact h0; refine holds_ite ?_ ?_; exact h0; refine holds_ite ?_ ?_
  extract_lets +onlyGivenNames x4; (try clear_value x4); extract_lets +onlyGivenNames x5; (try clear_value x5)
  refine Only.step ?_ State.lockCut_only; refine Only.step ?_ State.count_only; refine Only.upd ?_; exact h0
  extract_lets +onlyGivenNames x6
  refine (fun (h6 : Fst (Only [Part.boot, Part.time, Part.pages, Part.stalls, Part.jobs, Part.hubs, Part.arbs, Part.aisles,
      Part.halves, Part.clerk, Part.rings, Part.events, Part.ledgers, Part.trace, Part.out, Part.freeIx] a6) x6) => ?_) ?_
  (try clear_value x6); extract_lets +onlyGivenNames x7; (try clear_value x7); extract_lets +onlyGivenNames x8
  (try clear_value x8); extract_lets +onlyGivenNames x9; (try clear_value x9); extract_lets +onlyGivenNames x10
  refine (fun (h10 : Only [Part.boot, Part.time, Part.pages, Part.stalls, Part.jobs, Part.hubs, Part.arbs, Part.aisles,
      Part.halves, Part.clerk, Part.rings, Part.events, Part.ledgers, Part.trace, Part.out, Part.freeIx] a6 x10) => ?_) ?_
  (try clear_value x10); extract_lets +onlyGivenNames x11
  refine (fun (h11 : Only [Part.boot, Part.time, Part.pages, Part.stalls, Part.jobs, Part.hubs, Part.arbs, Part.aisles,
      Part.halves, Part.clerk, Part.rings, Part.events, Part.ledgers, Part.trace, Part.out, Part.freeIx] a6 x11) => ?_) ?_
  (try clear_value x11); extract_lets +onlyGivenNames x12
  refine (fun (h12 : Only [Part.boot, Part.time, Part.pages, Part.stalls, Part.jobs, Part.hubs, Part.arbs, Part.aisles,
      Part.halves, Part.clerk, Part.rings, Part.events, Part.ledgers, Part.trace, Part.out, Part.freeIx] a6 x12) => ?_) ?_
  (try clear_value x12); extract_lets +onlyGivenNames x13
  refine (fun (h13 : Only [Part.boot, Part.time, Part.pages, Part.stalls, Part.jobs, Part.hubs, Part.arbs, Part.aisles,
      Part.halves, Part.clerk, Part.rings, Part.events, Part.ledgers, Part.trace, Part.out, Part.freeIx] a6 x13) => ?_) ?_
  (try clear_value x13); split; refine Only.step ?_ State.revoked_only; exact h13; exact h13; unfold x13
  refine Only.step ?_ State.lockCut_only; exact h12; unfold x12; refine holds_foldl ?_ fun x14 a14_ h14 => ?_
  exact h11; refine holds_ite ?_ ?_; exact h14; refine Only.step ?_ State.count_only; exact h14; unfold x11
  refine Only.upd ?_; exact h10; exact h6; unfold x6; refine Only.stepFst ?_ State.arbBeat_only; exact h0; unfold x0
  refine Only.step ?_ State.advance_only; exact .refl _

theorem execStepDrainEnd_only {a0 a1 a2 a3} :
    Nxt (Only [.boot, .time, .pages, .stalls, .jobs, .hubs, .aisles, .halves, .clerk, .rings, .events, .ledgers, .trace, .out,
        .freeIx] a3) (execStepDrainEnd a0 a1 a2 a3) := by
  unfold execStepDrainEnd; extract_lets +onlyGivenNames x0
  refine (fun (h0 : Only [Part.boot, Part.time, Part.pages, Part.stalls, Part.jobs, Part.hubs, Part.aisles, Part.halves,
      Part.clerk, Part.rings, Part.events, Part.ledgers, Part.trace, Part.out, Part.freeIx] a3 x0) => ?_) ?_
  (try clear_value x0); refine .ofNext ?_; refine State.on_only ?_ ?_; exact h0
  refine Only.step ?_ State.noteQuiet_only; refine Only.step ?_ State.onStall_only; exact h0; unfold x0
  refine Only.step ?_ State.advance_only; exact .refl _

theorem execBridgeChannelRetrain_only {a0 a1 a2} :
    Nxt (Only [.time, .pages, .stalls, .chans] a2) (execBridgeChannelRetrain a0 a1 a2) := by
  unfold execBridgeChannelRetrain; extract_lets +onlyGivenNames x0
  refine (fun (h0 : Only [Part.time, Part.pages, Part.stalls, Part.chans] a2 x0) => ?_) ?_; (try clear_value x0)
  extract_lets +onlyGivenNames x1; (try clear_value x1); extract_lets +onlyGivenNames x2
  refine (fun (h2 : ∀ y0 y1, Only [Part.time, Part.pages, Part.stalls, Part.chans] a2 y0 → Only [Part.time, Part.pages,
      Part.stalls, Part.chans] a2 (x2 y0 y1)) => ?_) ?_
  (try clear_value x2); refine .ofNext ?_; refine State.on_only ?_ ?_; exact h0; refine holds_ite ?_ ?_; apply h2
  apply h2; exact h0; exact h0; intro z11; intro z12; intro h13; unfold x2; extract_lets +onlyGivenNames x15
  (try clear_value x15); refine holds_ite ?_ ?_; exact h13; refine Only.step ?_ State.setChan_only; exact h13
  unfold x0; refine Only.step ?_ State.advance_only; exact .refl _

end Sys2Proof.Machine
end

