-- ==== Sys2Proof/Laws/OnlyUpdate.lean ====
section
/-! SUPPORT. Which parts of the state the operations of the bell, the update unit, the guard and the round boundary may change:
one lemma for each operation. -/

set_option Elab.async false
namespace Sys2Proof.Machine

theorem State.accrueAt_only {a0 a1 a2} :
    Only [.boot, .pages, .stalls, .jobs, .hubs, .aisles, .halves, .clerk, .rings, .events, .ledgers, .trace, .out, .freeIx] a0
        (State.accrueAt a0 a1 a2) := by
  unfold State.accrueAt; split; extract_lets +onlyGivenNames x0
  refine (fun (h0 : Only [Part.boot, Part.pages, Part.stalls, Part.jobs, Part.hubs, Part.aisles, Part.halves, Part.clerk,
      Part.rings, Part.events, Part.ledgers, Part.trace, Part.out, Part.freeIx] a0 x0) => ?_) ?_
  (try clear_value x0); refine Only.step ?_ State.setStall_only; exact h0; unfold x0
  refine Only.step ?_ State.touch_only; exact .refl _; exact .refl _

theorem State.ackFrame_only {a0 a1 a2 a3 a4} :
    Only [.boot, .pages, .stalls, .jobs, .hubs, .aisles, .halves, .clerk, .rings, .events, .ledgers, .trace, .out, .freeIx] a0
        (State.ackFrame a0 a1 a2 a3 a4) := by
  unfold State.ackFrame; refine Only.step ?_ State.onStall_only; exact .refl _

theorem State.refuseAcquire_only {a0} :
    Only [.boot, .time, .bell, .pages, .stalls, .jobs, .hubs, .aisles, .halves, .clerk, .rings, .events, .ledgers, .trace,
        .out, .freeIx] a0 (State.refuseAcquire a0) := by
  unfold State.refuseAcquire; refine Only.step ?_ State.raise_only; refine Only.upd ?_; exact .refl _

theorem State.acquire_only {a0 a1} :
    Only [.boot, .time, .bell, .pages, .stalls, .jobs, .hubs, .aisles, .halves, .clerk, .rings, .events, .ledgers, .trace,
        .out, .freeIx] a0 (State.acquire a0 a1) := by
  unfold State.acquire; refine holds_ite ?_ ?_; exact .refl _; refine holds_ite ?_ ?_; refine Only.upd ?_
  exact .refl _; refine Only.step ?_ State.refuseAcquire_only; exact .refl _

theorem State.acquireBell_only {a0 a1 a2} :
    Only [.boot, .time, .bell, .pages, .stalls, .jobs, .hubs, .aisles, .halves, .clerk, .rings, .events, .ledgers, .power,
        .trace, .out, .freeIx] a0 (State.acquireBell a0 a1 a2) := by
  unfold State.acquireBell; extract_lets +onlyGivenNames x0; (try clear_value x0); extract_lets +onlyGivenNames x1
  (try clear_value x1); extract_lets +onlyGivenNames x2
  refine (fun (h2 : Only [Part.boot, Part.time, Part.bell, Part.pages, Part.stalls, Part.jobs, Part.hubs, Part.aisles,
      Part.halves, Part.clerk, Part.rings, Part.events, Part.ledgers, Part.power, Part.trace, Part.out, Part.freeIx] a0 x2) =>
      ?_) ?_
  (try clear_value x2); extract_lets +onlyGivenNames x3; (try clear_value x3); extract_lets +onlyGivenNames x4
  (try clear_value x4); extract_lets +onlyGivenNames x5
  refine (fun (h5 : Only [Part.boot, Part.time, Part.bell, Part.pages, Part.stalls, Part.jobs, Part.hubs, Part.aisles,
      Part.halves, Part.clerk, Part.rings, Part.events, Part.ledgers, Part.power, Part.trace, Part.out, Part.freeIx] a0 x5) =>
      ?_) ?_
  (try clear_value x5); extract_lets +onlyGivenNames x6
  refine (fun (h6 : Only [Part.boot, Part.time, Part.bell, Part.pages, Part.stalls, Part.jobs, Part.hubs, Part.aisles,
      Part.halves, Part.clerk, Part.rings, Part.events, Part.ledgers, Part.power, Part.trace, Part.out, Part.freeIx] a0 x6) =>
      ?_) ?_
  (try clear_value x6); split; refine Only.step ?_ State.finish_only; refine Only.upd ?_; exact h6; exact h6
  unfold x6; refine Only.step ?_ State.raise_only; exact h5; unfold x5; refine Only.upd ?_; exact h2; unfold x2
  refine Only.upd ?_; exact .refl _

theorem State.addSeal_only {a0 a1 a2 a3 a4 a5 a6} :
    Only [.hubs] a0 (State.addSeal a0 a1 a2 a3 a4 a5 a6) := by
  unfold State.addSeal; extract_lets +onlyGivenNames x0; (try clear_value x0); extract_lets +onlyGivenNames x1
  (try clear_value x1); extract_lets +onlyGivenNames x2; (try clear_value x2); extract_lets +onlyGivenNames x3
  (try clear_value x3); refine Only.step ?_ State.setHub_only; exact .refl _

theorem State.advanceGroups_only {a0 a1} :
    Only [.sched] a0 (State.advanceGroups a0 a1) := by
  unfold State.advanceGroups; refine Only.upd ?_; exact .refl _

theorem State.readEffect_only {a0 a1 a2} :
    Only [.time, .bell, .latches] a0 (State.readEffect a0 a1 a2) := by
  unfold State.readEffect; extract_lets +onlyGivenNames x0; (try clear_value x0); extract_lets +onlyGivenNames x1
  refine (fun (h1 : Only [Part.time, Part.bell, Part.latches] a0 x1) => ?_) ?_; (try clear_value x1)
  refine holds_ite ?_ ?_; refine Only.upd ?_; exact h1; exact h1; unfold x1; refine holds_ite ?_ ?_; exact .refl _
  refine Only.upd ?_; exact .refl _

theorem State.readWord_only {a0 a1 a2} :
    Snd (Only [.boot, .time, .bell, .pages, .latches, .stalls, .jobs, .hubs, .aisles, .halves, .clerk, .rings, .events,
        .ledgers, .trace, .out, .freeIx] a0) (State.readWord a0 a1 a2) := by
  unfold State.readWord; extract_lets +onlyGivenNames x0
  refine (fun (h0 : Only [Part.boot, Part.time, Part.bell, Part.pages, Part.latches, Part.stalls, Part.jobs, Part.hubs,
      Part.aisles, Part.halves, Part.clerk, Part.rings, Part.events, Part.ledgers, Part.trace, Part.out, Part.freeIx] a0 x0)
      => ?_) ?_
  (try clear_value x0); change Only _ _ (Prod.snd (_, _)); dsimp only; refine Only.step ?_ State.readEffect_only
  exact h0; unfold x0; split; refine Only.step ?_ State.accrueAt_only; exact .refl _; exact .refl _

theorem State.answerRead_only {a0 a1 a2} :
    Only [.boot, .time, .bell, .pages, .latches, .stalls, .jobs, .hubs, .aisles, .halves, .clerk, .rings, .events, .ledgers,
        .trace, .out, .freeIx] a0 (State.answerRead a0 a1 a2) := by
  unfold State.answerRead; extract_lets +onlyGivenNames x0
  refine (fun (h0 : Snd (Only [Part.boot, Part.time, Part.bell, Part.pages, Part.latches, Part.stalls, Part.jobs, Part.hubs,
      Part.aisles, Part.halves, Part.clerk, Part.rings, Part.events, Part.ledgers, Part.trace, Part.out, Part.freeIx] a0) x0)
      => ?_) ?_
  (try clear_value x0); refine Only.step ?_ State.emit_only; exact h0; unfold x0
  refine Only.stepSnd ?_ State.readWord_only; exact .refl _

theorem State.takeSquare_only {a0 a1} :
    Only [.time, .bell] a0 (State.takeSquare a0 a1) := by
  unfold State.takeSquare; split; refine holds_ite ?_ ?_; refine Only.upd ?_; exact .refl _; exact .refl _
  exact .refl _

theorem State.setK_only {a0 a1} :
    Only [.boot, .time, .bell, .pages, .stalls, .jobs, .hubs, .aisles, .halves, .clerk, .rings, .events, .ledgers, .trace,
        .out, .freeIx] a0 (State.setK a0 a1) := by
  unfold State.setK; extract_lets +onlyGivenNames x0; (try clear_value x0); extract_lets +onlyGivenNames x1
  (try clear_value x1); extract_lets +onlyGivenNames x2
  refine (fun (h2 : Only [Part.boot, Part.time, Part.bell, Part.pages, Part.stalls, Part.jobs, Part.hubs, Part.aisles,
      Part.halves, Part.clerk, Part.rings, Part.events, Part.ledgers, Part.trace, Part.out, Part.freeIx] a0 x2) => ?_) ?_
  (try clear_value x2); refine holds_ite ?_ ?_; refine Only.step ?_ State.raise_only; exact h2; exact h2; unfold x2
  refine Only.upd ?_; exact .refl _

theorem State.applyK_only {a0 a1} :
    Only [.boot, .time, .bell, .pages, .stalls, .jobs, .hubs, .aisles, .halves, .clerk, .rings, .events, .ledgers, .trace,
        .out, .freeIx] a0 (State.applyK a0 a1) := by
  unfold State.applyK; extract_lets +onlyGivenNames x0
  refine (fun (h0 : Only [Part.boot, Part.time, Part.bell, Part.pages, Part.stalls, Part.jobs, Part.hubs, Part.aisles,
      Part.halves, Part.clerk, Part.rings, Part.events, Part.ledgers, Part.trace, Part.out, Part.freeIx] a0 x0) => ?_) ?_
  (try clear_value x0); refine holds_ite ?_ ?_; refine holds_ite ?_ ?_; refine Only.step ?_ State.setK_only; exact h0
  exact h0; refine holds_ite ?_ ?_; refine Only.step ?_ State.setK_only; exact h0; exact h0; unfold x0
  refine holds_ite ?_ ?_; refine Only.step ?_ State.takeSquare_only; exact .refl _; exact .refl _

theorem State.retrainAisle_only {a0 a1} :
    Only [.arbs, .aisles] a0 (State.retrainAisle a0 a1) := by
  unfold State.retrainAisle; extract_lets +onlyGivenNames x0; (try clear_value x0); refine holds_ite ?_ ?_
  exact .refl _; refine Only.step ?_ State.freeOutput_only; refine Only.step ?_ State.setAisle_only; exact .refl _

theorem State.writeResolve_only {a0 a1 a2 a3 a4} :
    Only [.pages, .stalls] a0 (State.writeResolve a0 a1 a2 a3 a4) := by
  unfold State.writeResolve; refine holds_foldl ?_ fun x0 a0_ h0 => ?_; exact .refl _
  refine Only.step ?_ State.requestCommit_only; refine Only.step ?_ State.shadow_only; exact h0

theorem State.guardLate_only {a0 a1 a2} :
    Only [.boot, .pages, .stalls, .jobs, .hubs, .aisles, .halves, .clerk, .rings, .events, .ledgers, .trace, .out, .freeIx] a0
        (State.guardLate a0 a1 a2) := by
  unfold State.guardLate; split; exact .refl _; refine holds_ite ?_ ?_; refine Only.step ?_ State.raise_only
  refine Only.step ?_ State.setJob_only; exact .refl _; exact .refl _

theorem State.postponeGuard_only {a0 a1 a2 a3} :
    Only [.boot, .pages, .stalls, .jobs, .hubs, .aisles, .halves, .clerk, .rings, .events, .ledgers, .trace, .out, .freeIx] a0
        (State.postponeGuard a0 a1 a2 a3) := by
  unfold State.postponeGuard; split; exact .refl _; refine Only.step ?_ State.guardLate_only
  refine Only.step ?_ State.setJob_only; exact .refl _

theorem State.armStep_only {a0 a1 a2 a3} :
    Only [.boot, .pages, .stalls, .jobs, .hubs, .aisles, .halves, .clerk, .rings, .events, .ledgers, .trace, .out, .freeIx] a0
        (State.armStep a0 a1 a2 a3) := by
  unfold State.armStep; split; refine Only.step ?_ State.writeResolve_only; refine Only.step ?_ State.setJob_only
  exact .refl _; refine Only.step ?_ State.postponeGuard_only; exact .refl _

theorem State.chargeReserved_only {a0 a1} :
    Only [.pages, .stalls, .halves, .rings, .events, .ledgers, .trace, .out] a0 (State.chargeReserved a0 a1) := by
  unfold State.chargeReserved; refine holds_ite ?_ ?_; exact .refl _; refine holds_foldl ?_ fun x0 a0_ h0 => ?_
  exact .refl _; split; extract_lets +onlyGivenNames x1; (try clear_value x1); refine holds_ite ?_ ?_; exact h0
  refine Only.step ?_ State.charge_only; exact h0; exact h0

theorem State.failSpanning_only {a0 a1} :
    Only [.pages, .stalls, .jobs, .hubs, .aisles, .halves, .clerk, .rings, .events, .ledgers, .trace, .out, .freeIx] a0
        (State.failSpanning a0 a1) := by
  unfold State.failSpanning; refine holds_foldl ?_ fun x0 a0_ h0 => ?_; exact .refl _; refine holds_ite ?_ ?_
  refine Only.step ?_ State.failJob_only; exact h0; exact h0

theorem State.checkPulse_only {a0 a1 a2} :
    Only [.boot, .time, .bell, .pages, .stalls, .jobs, .hubs, .aisles, .halves, .clerk, .rings, .events, .ledgers, .trace,
        .out, .freeIx] a0 (State.checkPulse a0 a1 a2) := by
  unfold State.checkPulse; extract_lets +onlyGivenNames x0; (try clear_value x0); extract_lets +onlyGivenNames x1
  (try clear_value x1); extract_lets +onlyGivenNames x2
  refine (fun (h2 : Only [Part.boot, Part.time, Part.bell, Part.pages, Part.stalls, Part.jobs, Part.hubs, Part.aisles,
      Part.halves, Part.clerk, Part.rings, Part.events, Part.ledgers, Part.trace, Part.out, Part.freeIx] a0 x2) => ?_) ?_
  (try clear_value x2); extract_lets +onlyGivenNames x3; (try clear_value x3); extract_lets +onlyGivenNames x4
  refine (fun (h4 : Only [Part.boot, Part.time, Part.bell, Part.pages, Part.stalls, Part.jobs, Part.hubs, Part.aisles,
      Part.halves, Part.clerk, Part.rings, Part.events, Part.ledgers, Part.trace, Part.out, Part.freeIx] a0 x4) => ?_) ?_
  (try clear_value x4); refine holds_ite ?_ ?_; refine Only.step ?_ State.failSpanning_only
  refine Only.step ?_ State.raise_only; refine Only.upd ?_; exact h4; refine holds_ite ?_ ?_
  refine Only.step ?_ State.count_only; exact h4; exact h4; unfold x4; refine Only.upd ?_; exact h2; unfold x2
  refine Only.step ?_ State.count_only; exact .refl _

theorem State.chooseGuard_only {a0 a1 a2 a3} :
    Only [.boot, .pages, .stalls, .jobs, .hubs, .aisles, .halves, .clerk, .rings, .events, .ledgers, .trace, .out, .freeIx] a0
        (State.chooseGuard a0 a1 a2 a3) := by
  unfold State.chooseGuard; split; exact .refl _; split; exact .refl _; refine holds_ite ?_ ?_; exact .refl _
  extract_lets +onlyGivenNames x0; (try clear_value x0); extract_lets +onlyGivenNames x1; (try clear_value x1)
  extract_lets +onlyGivenNames x2; (try clear_value x2); extract_lets +onlyGivenNames x3
  refine (fun (h3 : Only [Part.boot, Part.pages, Part.stalls, Part.jobs, Part.hubs, Part.aisles, Part.halves, Part.clerk,
      Part.rings, Part.events, Part.ledgers, Part.trace, Part.out, Part.freeIx] a0 x3) => ?_) ?_
  (try clear_value x3); refine holds_ite ?_ ?_; refine Only.step ?_ State.guardLate_only; exact h3; exact h3
  unfold x3; refine Only.step ?_ State.setJob_only; exact .refl _

theorem State.clearIngress_only {a0 a1 a2} :
    Only [.hubs] a0 (State.clearIngress a0 a1 a2) := by
  unfold State.clearIngress; refine holds_foldl ?_ fun x0 a0_ h0 => ?_; exact .refl _; extract_lets +onlyGivenNames x2
  (try clear_value x2); refine Only.step ?_ State.setHub_only; exact h0

theorem State.closeStep_only {a0 a1 a2 a3 a4 a5} :
    Only [.boot, .pages, .stalls, .jobs, .hubs, .aisles, .halves, .clerk, .rings, .events, .ledgers, .trace, .out, .freeIx] a0
        (State.closeStep a0 a1 a2 a3 a4 a5) := by
  unfold State.closeStep; split; refine Only.step ?_ State.raise_only; exact .refl _
  refine Only.step ?_ State.chooseGuard_only; refine Only.step ?_ State.freeAhead_only
  refine Only.step ?_ State.setJob_only; exact .refl _

theorem State.enterUp_only {a0 a1 a2} :
    Only [.aisles] a0 (State.enterUp a0 a1 a2) := by
  unfold State.enterUp; extract_lets +onlyGivenNames x0; (try clear_value x0); refine holds_ite ?_ ?_
  refine Only.step ?_ State.setAisle_only; exact .refl _; refine Only.step ?_ State.setAisle_only; exact .refl _

theorem State.linkConfig_only {a0 a1 a2} :
    Only [.arbs, .aisles] a0 (State.linkConfig a0 a1 a2) := by
  unfold State.linkConfig; extract_lets +onlyGivenNames x0; (try clear_value x0); extract_lets +onlyGivenNames x1
  (try clear_value x1); refine holds_ite ?_ ?_; exact .refl _; refine holds_ite ?_ ?_
  refine Only.step ?_ State.freeOutput_only; refine Only.step ?_ State.setAisle_only; exact .refl _
  refine holds_ite ?_ ?_; refine Only.step ?_ State.setAisle_only; exact .refl _; refine holds_ite ?_ ?_
  refine Only.step ?_ State.freeOutput_only; refine Only.step ?_ State.setAisle_only; exact .refl _
  refine holds_ite ?_ ?_; refine Only.step ?_ State.enterUp_only; exact .refl _; exact .refl _

theorem State.policyCommit_only {a0} :
    Only [.clerk] a0 (State.policyCommit a0) := by
  unfold State.policyCommit; refine Only.upd ?_; exact .refl _

theorem State.squareState_only {a0} :
    Only [.time, .bell] a0 (State.squareState a0) := by
  unfold State.squareState; refine holds_ite ?_ ?_; refine holds_ite ?_ ?_; refine Only.upd ?_; exact .refl _
  exact .refl _; refine holds_ite ?_ ?_; refine Only.upd ?_; exact .refl _; exact .refl _

theorem State.takeMaster_only {a0} :
    Only [.time, .bell] a0 (State.takeMaster a0) := by
  unfold State.takeMaster; split; refine Only.upd ?_; exact .refl _; exact .refl _

theorem State.commitOne_only {a0 a1 a2} :
    Only [.time, .bell, .pages, .stalls, .arbs, .aisles, .clerk, .trace] a0 (State.commitOne a0 a1 a2) := by
  unfold State.commitOne; split; exact .refl _; extract_lets +onlyGivenNames x0; (try clear_value x0)
  extract_lets +onlyGivenNames x1
  refine (fun (h1 : Only [Part.time, Part.bell, Part.pages, Part.stalls, Part.arbs, Part.aisles, Part.clerk, Part.trace] a0
      x1) => ?_) ?_
  (try clear_value x1); split; refine Only.step ?_ State.linkConfig_only; exact h1
  refine Only.step ?_ State.policyCommit_only; exact h1; refine Only.step ?_ State.squareState_only
  refine Only.step ?_ State.takeMaster_only; exact h1; refine holds_ite ?_ ?_; refine Only.upd ?_; exact h1; exact h1
  exact h1; unfold x1; refine Only.step ?_ State.setPage_only; exact .refl _

theorem State.commitPages_only {a0 a1} :
    Only [.time, .bell, .pages, .stalls, .arbs, .aisles, .clerk, .trace] a0 (State.commitPages a0 a1) := by
  unfold State.commitPages; extract_lets +onlyGivenNames x0
  refine (fun (h0 : Only [Part.time, Part.bell, Part.pages, Part.stalls, Part.arbs, Part.aisles, Part.clerk, Part.trace] a0
      x0) => ?_) ?_
  (try clear_value x0); refine Only.upd ?_; exact h0; unfold x0; refine holds_foldl ?_ fun x1 a1_ h1 => ?_
  exact .refl _; refine Only.step ?_ State.commitOne_only; exact h1

theorem State.preempt_only {a0 a1} :
    Only [.boot, .pages, .stalls, .jobs, .hubs, .aisles, .halves, .clerk, .rings, .events, .ledgers, .trace, .out, .freeIx] a0
        (State.preempt a0 a1) := by
  unfold State.preempt; split; exact .refl _; refine holds_ite ?_ ?_; exact .refl _
  refine Only.step ?_ State.raise_only; refine Only.step ?_ State.suspendJob_only; exact .refl _

theorem State.preemptFor_only {a0 a1} :
    Only [.boot, .pages, .stalls, .jobs, .hubs, .aisles, .halves, .clerk, .rings, .events, .ledgers, .trace, .out, .freeIx] a0
        (State.preemptFor a0 a1) := by
  unfold State.preemptFor; split; exact .refl _; refine holds_ite ?_ ?_; exact .refl _
  refine holds_foldl ?_ fun x0 a0_ h0 => ?_; exact .refl _; split; exact h0; refine holds_ite ?_ ?_
  refine Only.step ?_ State.preempt_only; exact h0; exact h0

theorem State.readRecords_only {a0 a1} :
    Only [.pages, .stalls] a0 (State.readRecords a0 a1) := by
  unfold State.readRecords; refine holds_foldl ?_ fun x0 a0_ h0 => ?_; exact .refl _; refine holds_ite ?_ ?_
  refine Only.step ?_ State.countRead_only; refine Only.step ?_ State.countRead_only; exact h0; exact h0

theorem State.computeSchedule_only {a0 a1 a2} :
    Only [.pages, .stalls, .hubs, .sched] a0 (State.computeSchedule a0 a1 a2) := by
  unfold State.computeSchedule; extract_lets +onlyGivenNames x0; (try clear_value x0); extract_lets +onlyGivenNames x1
  refine (fun (h1 : Only [Part.pages, Part.stalls, Part.hubs, Part.sched] a0 x1) => ?_) ?_; (try clear_value x1)
  extract_lets +onlyGivenNames x2; (try clear_value x2); extract_lets +onlyGivenNames x3
  refine (fun (h3 : Only [Part.pages, Part.stalls, Part.hubs, Part.sched] a0 x3) => ?_) ?_; (try clear_value x3)
  extract_lets +onlyGivenNames x4; (try clear_value x4); refine holds_foldl ?_ fun x5 a5_ h5 => ?_; exact h3
  extract_lets +onlyGivenNames x6; (try clear_value x6); refine Only.step ?_ State.setHub_only; exact h5; unfold x3
  refine Only.upd ?_; exact h1; unfold x1; refine Only.step ?_ State.readRecords_only; exact .refl _

theorem State.contribute_only {a0 a1 a2} :
    Only [.hubs] a0 (State.contribute a0 a1 a2) := by
  unfold State.contribute; extract_lets +onlyGivenNames x0; (try clear_value x0)
  refine Only.step ?_ State.setHub_only; exact .refl _

theorem State.enterMesh_only {a0 a1 a2 a3 a4} :
    Only [.pages, .stalls, .halves, .rings, .events, .ledgers, .trace, .out] a0 (State.enterMesh a0 a1 a2 a3 a4) := by
  unfold State.enterMesh; extract_lets +onlyGivenNames x0; (try clear_value x0); extract_lets +onlyGivenNames x1
  (try clear_value x1); extract_lets +onlyGivenNames x2; (try clear_value x2); extract_lets +onlyGivenNames x3
  (try clear_value x3); extract_lets +onlyGivenNames x4; (try clear_value x4); refine Only.step ?_ State.emit_only
  refine Only.step ?_ State.charge_only; exact .refl _

theorem State.oweMail_only {a0 a1 a2} :
    Only [.aisles] a0 (State.oweMail a0 a1 a2) := by
  unfold State.oweMail; extract_lets +onlyGivenNames x0; (try clear_value x0); refine Only.step ?_ State.setAisle_only
  exact .refl _

theorem State.sideWord_only {a0 a1} :
    Only [.pages, .stalls, .jobs] a0 (State.sideWord a0 a1) := by
  unfold State.sideWord; extract_lets +onlyGivenNames x0; (try clear_value x0); refine holds_ite ?_ ?_; exact .refl _
  refine holds_ite ?_ ?_; refine Only.step ?_ State.suspendJob_only; exact .refl _
  refine Only.step ?_ State.setSolo_only; exact .refl _

theorem State.deliverMail_only {a0 a1 a2 a3} :
    Only [.pages, .stalls, .jobs, .aisles, .halves, .rings, .events, .ledgers, .trace, .out] a0 (State.deliverMail a0 a1 a2
        a3) := by
  unfold State.deliverMail; refine holds_ite ?_ ?_; refine Only.step ?_ State.enterMesh_only
  refine Only.step ?_ State.oweMail_only; exact .refl _; refine holds_ite ?_ ?_
  refine Only.step ?_ State.oweMail_only; exact .refl _; refine holds_ite ?_ ?_
  refine Only.step ?_ State.sideWord_only; refine Only.step ?_ State.oweMail_only; exact .refl _
  extract_lets +onlyGivenNames x0; (try clear_value x0); extract_lets +onlyGivenNames x1
  refine (fun (h1 : Only [Part.pages, Part.stalls, Part.jobs, Part.aisles, Part.halves, Part.rings, Part.events, Part.ledgers,
      Part.trace, Part.out] a0 x1) => ?_) ?_
  (try clear_value x1); refine holds_ite ?_ ?_; exact h1; refine Only.step ?_ State.oweMail_only; exact h1; unfold x1
  refine Only.step ?_ State.setAisle_only; exact .refl _

theorem State.setPending_only {a0 a1 a2 a3 a4 a5 a6} :
    Only [.hubs] a0 (State.setPending a0 a1 a2 a3 a4 a5 a6) := by
  unfold State.setPending; extract_lets +onlyGivenNames x0; (try clear_value x0); extract_lets +onlyGivenNames x1
  (try clear_value x1); refine holds_ite ?_ ?_; exact .refl _; refine Only.step ?_ State.setHub_only; exact .refl _

theorem State.unitWriteFail_only {a0 a1 a2 a3} :
    Only [.boot, .pages, .stalls, .jobs, .hubs, .aisles, .halves, .clerk, .rings, .events, .ledgers, .trace, .out, .freeIx] a0
        (State.unitWriteFail a0 a1 a2 a3) := by
  unfold State.unitWriteFail; refine Only.step ?_ State.raise_only; exact .refl _

theorem State.unitWrite_only {a0 a1 a2 a3 a4 a5} :
    Only [.boot, .pages, .stalls, .jobs, .hubs, .mem, .marks, .aisles, .halves, .clerk, .rings, .events, .ledgers, .trace,
        .out, .freeIx] a0 (State.unitWrite a0 a1 a2 a3 a4 a5) := by
  unfold State.unitWrite; refine holds_foldl ?_ fun x0 a0_ h0 => ?_; exact .refl _; extract_lets +onlyGivenNames x1
  (try clear_value x1); extract_lets +onlyGivenNames x2
  refine (fun (h2 : Fst (Only [Part.boot, Part.pages, Part.stalls, Part.jobs, Part.hubs, Part.mem, Part.marks, Part.aisles,
      Part.halves, Part.clerk, Part.rings, Part.events, Part.ledgers, Part.trace, Part.out, Part.freeIx] a0) x2) => ?_) ?_
  (try clear_value x2); refine holds_ite ?_ ?_; refine Only.step ?_ State.unitWriteFail_only; exact h2
  refine Only.step ?_ State.chargeBlock_only; refine Only.step ?_ State.putPart_only; exact h2; unfold x2
  refine Only.stepFst ?_ State.writeFails_only; exact h0

theorem State.sendUnit_only {a0 a1 a2 a3 a4 a5} :
Only [.pages, .stalls, .hubs, .aisles, .rings, .events, .ledgers, .trace, .out] a0 (State.sendUnit a0 a1 a2 a3 a4 a5) := by
  unfold State.sendUnit; extract_lets +onlyGivenNames x0; (try clear_value x0); extract_lets +onlyGivenNames x1
  (try clear_value x1); extract_lets +onlyGivenNames x2; (try clear_value x2)
  refine Only.step ?_ State.sendAisle_only; refine Only.step ?_ State.setHub_only; exact .refl _

theorem State.refuseBlock_only {a0 a1 a2 a3 a4 a5} :
    Only [.boot, .pages, .stalls, .jobs, .hubs, .aisles, .halves, .clerk, .rings, .events, .ledgers, .trace, .out, .freeIx] a0
        (State.refuseBlock a0 a1 a2 a3 a4 a5) := by
  unfold State.refuseBlock; refine Only.step ?_ State.raise_only; refine Only.step ?_ State.count_only
  refine Only.step ?_ State.setHub_only; exact .refl _

theorem tryBlock_only {a0 a1 a2 a3 a4 a5 a6 a7} :
Fst (Only [.boot, .pages, .stalls, .jobs, .hubs, .aisles, .halves, .clerk, .rings, .events, .ledgers, .trace, .out, .freeIx] a0)
      (tryBlock a0 a1 a2 a3 a4 a5 a6 a7) := by
  induction a6 generalizing a0 a4 a5 a7 with
  | zero =>
    unfold tryBlock
    extract_lets x0 x1 x2
    have k : Only [.boot, .pages, .stalls, .jobs, .hubs, .aisles, .halves, .clerk, .rings, .events, .ledgers, .trace, .out,
        .freeIx] a0 x0 := (State.countHbm_only.mono (by decide)).step (State.chargeBlock_only) |>.step State.countHbm_only
    clear_value x0 x1 x2
    split
    · change Only _ _ (Prod.fst (_, _)); dsimp only; exact (k.step State.countHbm_only).step State.countHbm_only
    · change Only _ _ (Prod.fst (_, _)); dsimp only; exact (k.step State.countHbm_only).step State.raise_only
    · rename_i e; omega
  | succ n ih =>
    unfold tryBlock
    extract_lets x0 x1 x2 x3 x4
    have k : Only [.boot, .pages, .stalls, .jobs, .hubs, .aisles, .halves, .clerk, .rings, .events, .ledgers, .trace, .out,
        .freeIx] a0 x0 := (State.countHbm_only.mono (by decide)).step (State.chargeBlock_only) |>.step State.countHbm_only
    clear_value x0 x1 x2
    split
    · change Only _ _ (Prod.fst (_, _)); dsimp only; exact (k.step State.countHbm_only).step State.countHbm_only
    · rename_i e; omega
    · rename_i e
      cases e
      refine Only.stepFst ?_ ih
      refine holds_ite ?_ ?_
      · exact k.step State.countHbm_only
      · exact (k.step State.countHbm_only).step State.raise_only

theorem StateRead.plane_only {r : State} {x : StateRead} {a1 a2 a3 a4 a5} (h : Only [.boot, .pages, .stalls, .jobs, .hubs,
    .aisles, .halves, .clerk, .rings, .events, .ledgers, .trace, .out, .freeIx] r x.s) :
    Only [.boot, .pages, .stalls, .jobs, .hubs, .aisles, .halves, .clerk, .rings, .events, .ledgers, .trace, .out, .freeIx] r
        (x.plane a1 a2 a3 a4 a5).s := by
  unfold StateRead.plane
  exact holds_foldl (Q := fun x : StateRead => Only [.boot, .pages, .stalls, .jobs, .hubs, .aisles, .halves, .clerk, .rings,
      .events, .ledgers, .trace, .out, .freeIx] r x.s) h fun _ _ h => Only.stepFst h tryBlock_only

theorem StateRead.done_only {r : State} {x : StateRead} {a1 a2 a3 a4} (h : Only [.boot, .pages, .stalls, .jobs, .hubs,
    .aisles, .halves, .clerk, .rings, .events, .ledgers, .trace, .out, .freeIx] r x.s) :
    Only [.boot, .pages, .stalls, .jobs, .hubs, .aisles, .halves, .clerk, .rings, .events, .ledgers, .trace, .out, .freeIx] r
        (x.done a1 a2 a3 a4) := by
  unfold StateRead.done
  extract_lets y0
  exact holds_ite h (h.step State.setHub_only)

theorem State.egress_only {a0 a1 a2 a3 a4 a5 a6 a7 a8 a9 a10} :
    Only [.boot, .pages, .stalls, .jobs, .hubs, .mem, .marks, .aisles, .halves, .clerk, .rings, .events, .ledgers, .trace,
        .out, .freeIx] a0
      (State.egress a0 a1 a2 a3 a4 a5 a6 a7 a8 a9 a10) := by
  unfold State.egress
  extract_lets x0 x1 x2 x3 x4 x5 x6 x7 x8
  have h1 : Only [.boot, .pages, .stalls, .jobs, .hubs, .aisles, .halves, .clerk, .rings, .events, .ledgers, .trace, .out,
      .freeIx] a0 x1.s :=
    StateRead.plane_only (x := a0.startRead a1 a4 a5 a3) (.refl _)
  have h2 : Only [.boot, .pages, .stalls, .jobs, .hubs, .mem, .marks, .aisles, .halves, .clerk, .rings, .events, .ledgers,
      .trace, .out, .freeIx] a0 x2 :=
    ((StateRead.done_only h1).mono (by decide)).step State.count_only
  have h7 : Only [.boot, .pages, .stalls, .jobs, .hubs, .mem, .marks, .aisles, .halves, .clerk, .rings, .events, .ledgers,
      .trace, .out, .freeIx] a0 x7 :=
    (h2.step State.unitWrite_only).step State.setPending_only
  have h8 : Only [.boot, .pages, .stalls, .jobs, .hubs, .mem, .marks, .aisles, .halves, .clerk, .rings, .events, .ledgers,
      .trace, .out, .freeIx] a0 x8 :=
    holds_ite h2 ((h7.step State.count_only).step State.count_only)
  clear_value x8
  split
  · exact h8
  · extract_lets +onlyGivenNames y0 y1
    have k : Only [.boot, .pages, .stalls, .jobs, .hubs, .mem, .marks, .aisles, .halves, .clerk, .rings, .events, .ledgers,
        .trace, .out, .freeIx] a0 y1 := by
      refine holds_foldl h8 fun x a hx => ?_
      split
      · exact (hx.step State.sendUnit_only).step State.count_only
      · exact hx
    clear_value y1
    refine holds_ite (k.step State.contribute_only) ?_
    exact holds_ite ((k.step State.setHub_only).step State.refuseBlock_only) (k.step State.setHub_only)

theorem State.relay_only {a0 a1 a2 a3 a4 a5 a6 a7} :
    Only [.pages, .stalls, .aisles] a0 (State.relay a0 a1 a2 a3 a4 a5 a6 a7) := by
  unfold State.relay; extract_lets +onlyGivenNames x0; (try clear_value x0); split
  refine Only.step ?_ State.count_only; exact .refl _; refine Only.step ?_ State.queueAisle_only
  refine Only.step ?_ State.count_only; exact .refl _

theorem State.passPart_only {a0 a1 a2} :
    Only [.pages, .stalls, .aisles, .halves, .rings, .events, .ledgers, .trace, .out] a0 (State.passPart a0 a1 a2) := by
  unfold State.passPart; extract_lets +onlyGivenNames x0; (try clear_value x0); extract_lets +onlyGivenNames x1
  (try clear_value x1); extract_lets +onlyGivenNames x2; (try clear_value x2); extract_lets +onlyGivenNames x3
  (try clear_value x3); refine holds_ite ?_ ?_; exact .refl _; refine holds_ite ?_ ?_; extract_lets +onlyGivenNames x4
  (try clear_value x4); refine holds_ite ?_ ?_; exact .refl _; refine Only.step ?_ State.enterMesh_only; exact .refl _
  refine Only.step ?_ State.relay_only; exact .refl _

theorem State.endPart_only {a0 a1 a2 a3} :
    Only [.pages, .stalls, .aisles, .halves, .rings, .events, .ledgers, .trace, .out] a0 (State.endPart a0 a1 a2 a3) := by
  unfold State.endPart; extract_lets +onlyGivenNames x0; (try clear_value x0); refine holds_ite ?_ ?_; exact .refl _
  extract_lets +onlyGivenNames x1
  refine (fun (h1 : Only [Part.pages, Part.stalls, Part.aisles, Part.halves, Part.rings, Part.events, Part.ledgers,
      Part.trace, Part.out] a0 x1) => ?_) ?_
  (try clear_value x1); extract_lets +onlyGivenNames x2; (try clear_value x2); refine Only.step ?_ State.setAisle_only
  exact h1; unfold x1; refine holds_ite ?_ ?_; exact .refl _; refine Only.step ?_ State.passPart_only; exact .refl _

theorem State.setFact_only {a0 a1 a2} :
    Only [.hubs] a0 (State.setFact a0 a1 a2) := by
  unfold State.setFact; extract_lets +onlyGivenNames x0; (try clear_value x0); refine Only.step ?_ State.setHub_only
  exact .refl _

theorem State.factNext_only {a0 a1 a2 a3 a4 a5 a6 a7 a8} :
    Only [.boot, .pages, .stalls, .jobs, .hubs, .mem, .marks, .aisles, .halves, .clerk, .rings, .events, .ledgers, .trace,
        .out, .freeIx] a0 (State.factNext a0 a1 a2 a3 a4 a5 a6 a7 a8) := by
  unfold State.factNext; extract_lets +onlyGivenNames x0; (try clear_value x0); extract_lets +onlyGivenNames x1
  (try clear_value x1); extract_lets +onlyGivenNames x2
  refine (fun (h2 : Only [Part.boot, Part.pages, Part.stalls, Part.jobs, Part.hubs, Part.mem, Part.marks, Part.aisles,
      Part.halves, Part.clerk, Part.rings, Part.events, Part.ledgers, Part.trace, Part.out, Part.freeIx] a0 x2) => ?_) ?_
  (try clear_value x2); refine holds_ite ?_ ?_; exact h2; extract_lets +onlyGivenNames x3
  refine (fun (h3 : Only [Part.boot, Part.pages, Part.stalls, Part.jobs, Part.hubs, Part.mem, Part.marks, Part.aisles,
      Part.halves, Part.clerk, Part.rings, Part.events, Part.ledgers, Part.trace, Part.out, Part.freeIx] a0 x3) => ?_) ?_
  (try clear_value x3); extract_lets +onlyGivenNames x4
  refine (fun (h4 : Only [Part.boot, Part.pages, Part.stalls, Part.jobs, Part.hubs, Part.mem, Part.marks, Part.aisles,
      Part.halves, Part.clerk, Part.rings, Part.events, Part.ledgers, Part.trace, Part.out, Part.freeIx] a0 x4) => ?_) ?_
  (try clear_value x4); refine Only.step ?_ State.setPending_only; exact h4; unfold x4; refine Only.upd ?_; exact h3
  unfold x3; refine Only.step ?_ State.count_only; refine Only.step ?_ State.unitWrite_only; exact h2; unfold x2
  refine Only.step ?_ State.setFact_only; exact .refl _

theorem State.resolveHub_only {a0 a1 a2 a3} :
    Only [.pages, .stalls, .hubs] a0 (State.resolveHub a0 a1 a2 a3) := by
  unfold State.resolveHub; extract_lets +onlyGivenNames x0; (try clear_value x0); extract_lets +onlyGivenNames x1
  (try clear_value x1); extract_lets +onlyGivenNames x2; (try clear_value x2); extract_lets +onlyGivenNames x3
  refine (fun (h3 : Only [Part.pages, Part.stalls, Part.hubs] a0 x3) => ?_) ?_; (try clear_value x3)
  refine Only.step ?_ State.count_only; exact h3; unfold x3; refine Only.step ?_ State.setHub_only; exact .refl _

theorem State.hubBoundary_only {a0 a1 a2} :
    Only [.pages, .stalls, .hubs] a0 (State.hubBoundary a0 a1 a2) := by
  unfold State.hubBoundary; extract_lets +onlyGivenNames x0; (try clear_value x0); extract_lets +onlyGivenNames x1
  (try clear_value x1); refine holds_ite ?_ ?_; exact .refl _; extract_lets +onlyGivenNames x4
  refine (fun (h4 : Only [Part.pages, Part.stalls, Part.hubs] a0 x4) => ?_) ?_; (try clear_value x4)
  refine Only.step ?_ State.setPage_only; exact h4; unfold x4; refine holds_foldl ?_ fun x8 a8_ h8 => ?_
  exact .refl _; refine Only.step ?_ State.resolveHub_only; exact h8

theorem State.ingest_only {a0 a1 a2} :
    Only [.pages, .stalls, .hubs] a0 (State.ingest a0 a1 a2) := by
  unfold State.ingest; extract_lets +onlyGivenNames x0; (try clear_value x0); refine holds_ite ?_ ?_
  refine Only.step ?_ State.setHub_only; exact .refl _; refine Only.step ?_ State.count_only
  refine Only.step ?_ State.contribute_only; exact .refl _

theorem State.unroute_only {a0 a1} :
    Only [.pages, .stalls] a0 (State.unroute a0 a1) := by
  unfold State.unroute; refine holds_foldl ?_ fun x0 a0_ h0 => ?_; exact .refl _
  refine holds_foldl ?_ fun x2 a2_ h2 => ?_; exact h0; extract_lets +onlyGivenNames x4; (try clear_value x4)
  extract_lets +onlyGivenNames x5; (try clear_value x5); refine holds_ite ?_ ?_; exact h2
  refine Only.step ?_ State.setPage_only; exact h2

theorem State.twinSolo_only {a0 a1} :
    Only [.boot, .pages, .stalls, .jobs, .hubs, .aisles, .halves, .clerk, .rings, .events, .ledgers, .trace, .out, .freeIx] a0
        (State.twinSolo a0 a1) := by
  unfold State.twinSolo; split; exact .refl _; split; exact .refl _; refine holds_ite ?_ ?_; exact .refl _
  refine Only.step ?_ State.raise_only; refine Only.step ?_ State.tellSide_only
  refine Only.step ?_ State.setSolo_only; exact .refl _

theorem State.loseAisle_only {a0 a1 a2 a3} :
    Only [.boot, .pages, .stalls, .jobs, .hubs, .arbs, .aisles, .halves, .clerk, .rings, .events, .ledgers, .trace, .out,
        .freeIx] a0 (State.loseAisle a0 a1 a2 a3) := by
  unfold State.loseAisle; extract_lets +onlyGivenNames x0; (try clear_value x0); extract_lets +onlyGivenNames x1
  refine (fun (h1 : Only [Part.boot, Part.pages, Part.stalls, Part.jobs, Part.hubs, Part.arbs, Part.aisles, Part.halves,
      Part.clerk, Part.rings, Part.events, Part.ledgers, Part.trace, Part.out, Part.freeIx] a0 x1) => ?_) ?_
  (try clear_value x1); extract_lets +onlyGivenNames x2; (try clear_value x2); extract_lets +onlyGivenNames x3
  refine (fun (h3 : Only [Part.boot, Part.pages, Part.stalls, Part.jobs, Part.hubs, Part.arbs, Part.aisles, Part.halves,
      Part.clerk, Part.rings, Part.events, Part.ledgers, Part.trace, Part.out, Part.freeIx] a0 x3) => ?_) ?_
  (try clear_value x3); extract_lets +onlyGivenNames x4
  refine (fun (h4 : Only [Part.boot, Part.pages, Part.stalls, Part.jobs, Part.hubs, Part.arbs, Part.aisles, Part.halves,
      Part.clerk, Part.rings, Part.events, Part.ledgers, Part.trace, Part.out, Part.freeIx] a0 x4) => ?_) ?_
  (try clear_value x4); extract_lets +onlyGivenNames x5; (try clear_value x5); extract_lets +onlyGivenNames x6
  refine (fun (h6 : Only [Part.boot, Part.pages, Part.stalls, Part.jobs, Part.hubs, Part.arbs, Part.aisles, Part.halves,
      Part.clerk, Part.rings, Part.events, Part.ledgers, Part.trace, Part.out, Part.freeIx] a0 x6) => ?_) ?_
  (try clear_value x6); extract_lets +onlyGivenNames x7; (try clear_value x7); extract_lets +onlyGivenNames x8
  refine (fun (h8 : Only [Part.boot, Part.pages, Part.stalls, Part.jobs, Part.hubs, Part.arbs, Part.aisles, Part.halves,
      Part.clerk, Part.rings, Part.events, Part.ledgers, Part.trace, Part.out, Part.freeIx] a0 x8) => ?_) ?_
  (try clear_value x8); refine holds_foldl ?_ fun x9 a9_ h9 => ?_; exact h8; split; exact h9
  extract_lets +onlyGivenNames x10
  refine (fun (h10 : Only [Part.boot, Part.pages, Part.stalls, Part.jobs, Part.hubs, Part.arbs, Part.aisles, Part.halves,
      Part.clerk, Part.rings, Part.events, Part.ledgers, Part.trace, Part.out, Part.freeIx] a0 x10) => ?_) ?_
  (try clear_value x10); refine holds_ite ?_ ?_; refine Only.step ?_ State.raise_only; exact h10
  refine holds_ite ?_ ?_; exact h10; refine holds_ite ?_ ?_; refine Only.step ?_ State.abortSteps_only; exact h10
  refine Only.step ?_ State.raise_only; exact h10; unfold x10; refine holds_ite ?_ ?_
  refine Only.step ?_ State.twinSolo_only; exact h9; exact h9; unfold x8; refine Only.step ?_ State.unroute_only
  exact h6; unfold x6; refine Only.step ?_ State.requestCommit_only; refine Only.step ?_ State.shadow_only; exact h4
  unfold x4; refine Only.step ?_ State.raise_only; exact h3; unfold x3; refine Only.step ?_ State.setAisle_only
  exact h1; unfold x1; refine Only.step ?_ State.freeOutput_only; refine holds_ite ?_ ?_
  refine Only.step ?_ State.passPart_only; exact .refl _; exact .refl _

theorem State.nakAisle_only {a0 a1 a2} :
    Only [.aisles] a0 (State.nakAisle a0 a1 a2) := by
  unfold State.nakAisle; extract_lets +onlyGivenNames x0; (try clear_value x0); refine holds_ite ?_ ?_; exact .refl _
  refine Only.step ?_ State.setAisle_only; exact .refl _

theorem State.orphan_only {a0 a1 a2 a3 a4} :
    Only [.boot, .pages, .stalls, .jobs, .hubs, .aisles, .halves, .clerk, .rings, .events, .ledgers, .trace, .out, .freeIx] a0
        (State.orphan a0 a1 a2 a3 a4) := by
  unfold State.orphan; refine Only.step ?_ State.raise_only; refine Only.step ?_ State.count_only
  refine Only.step ?_ State.count_only; exact .refl _

theorem State.takeLocal_only {a0 a1 a2} :
    Opt (Snd (Only [.aisles] a0)) (State.takeLocal a0 a1 a2) := by
  unfold State.takeLocal; extract_lets +onlyGivenNames x0; (try clear_value x0); split; refine .ofSome ?_
  change Only _ _ (Prod.snd (_, _)); dsimp only; refine Only.step ?_ State.setAisle_only; exact .refl _; exact .ofNone

theorem State.takeTable_only {a0 a1 a2 a3} :
    Opt (Snd (Only [.aisles] a0)) (State.takeTable a0 a1 a2 a3) := by
  unfold State.takeTable; refine Opt.map (P := (Snd (Only [Part.aisles] a0))) ?_ fun z0 h0 => ?_
  refine Only.stepOptSnd ?_ State.takeLocal_only; exact .refl _; exact h0

theorem State.partnerTable_only {a0 a1 a2 a3 a4} :
    Opt (Snd (Only [.aisles] a0)) (State.partnerTable a0 a1 a2 a3 a4) := by
  unfold State.partnerTable; refine holds_ite ?_ ?_; refine Only.stepOptSnd ?_ State.takeTable_only; exact .refl _
  refine .ofSome ?_; change Only _ _ (Prod.snd (_, _)); dsimp only; exact .refl _

theorem State.powerEvents_only {a0 a1 a2} :
    Only [.boot, .pages, .stalls, .jobs, .hubs, .aisles, .halves, .clerk, .rings, .events, .ledgers, .trace, .out, .freeIx] a0
        (State.powerEvents a0 a1 a2) := by
  unfold State.powerEvents; extract_lets +onlyGivenNames x0
  refine (fun (h0 : Only [Part.boot, Part.pages, Part.stalls, Part.jobs, Part.hubs, Part.aisles, Part.halves, Part.clerk,
      Part.rings, Part.events, Part.ledgers, Part.trace, Part.out, Part.freeIx] a0 x0) => ?_) ?_
  (try clear_value x0); extract_lets +onlyGivenNames x1
  refine (fun (h1 : Only [Part.boot, Part.pages, Part.stalls, Part.jobs, Part.hubs, Part.aisles, Part.halves, Part.clerk,
      Part.rings, Part.events, Part.ledgers, Part.trace, Part.out, Part.freeIx] a0 x1) => ?_) ?_
  (try clear_value x1); refine holds_ite ?_ ?_; refine Only.step ?_ State.raise_only; exact h1; exact h1; unfold x1
  refine holds_ite ?_ ?_; refine Only.step ?_ State.raise_only; exact h0; exact h0; unfold x0; refine holds_ite ?_ ?_
  refine Only.step ?_ State.raise_only; exact .refl _; exact .refl _

theorem State.railEnergy_only {a0 a1} :
    Only [.pages, .stalls, .power] a0 (State.railEnergy a0 a1) := by
  unfold State.railEnergy; refine holds_foldl ?_ fun x0 a0_ h0 => ?_; exact .refl _; extract_lets +onlyGivenNames x2
  (try clear_value x2); refine Only.step ?_ State.count_only; refine Only.upd ?_; exact h0

theorem State.powerFrame_only {a0 a1 a2} :
    Only [.boot, .time, .bell, .pages, .stalls, .jobs, .hubs, .aisles, .halves, .clerk, .rings, .events, .ledgers, .power,
        .trace, .out, .freeIx] a0 (State.powerFrame a0 a1 a2) := by
  unfold State.powerFrame; extract_lets +onlyGivenNames x0
  refine (fun (h0 : Only [Part.boot, Part.time, Part.bell, Part.pages, Part.stalls, Part.jobs, Part.hubs, Part.aisles,
      Part.halves, Part.clerk, Part.rings, Part.events, Part.ledgers, Part.power, Part.trace, Part.out, Part.freeIx] a0 x0) =>
      ?_) ?_
  (try clear_value x0); extract_lets +onlyGivenNames x1; (try clear_value x1); extract_lets +onlyGivenNames x2
  (try clear_value x2); extract_lets +onlyGivenNames x3; (try clear_value x3); extract_lets +onlyGivenNames x4
  refine (fun (h4 : Only [Part.boot, Part.time, Part.bell, Part.pages, Part.stalls, Part.jobs, Part.hubs, Part.aisles,
      Part.halves, Part.clerk, Part.rings, Part.events, Part.ledgers, Part.power, Part.trace, Part.out, Part.freeIx] a0 x4) =>
      ?_) ?_
  (try clear_value x4); refine Only.step ?_ State.powerEvents_only; refine holds_ite ?_ ?_; exact h4
  refine Only.step ?_ State.count_only; exact h4; unfold x4; refine Only.step ?_ State.railEnergy_only
  refine Only.upd ?_; exact h0; unfold x0; refine Only.step ?_ State.applyK_only
  refine Only.step ?_ State.advance_only; exact .refl _

theorem State.readStats_only {a0 a1 a2 a3 a4 a5 a6 a7 a8} :
    Only [.boot, .pages, .stalls, .jobs, .hubs, .aisles, .halves, .clerk, .rings, .events, .ledgers, .trace, .out, .freeIx] a0
      (State.readStats a0 a1 a2 a3 a4 a5 a6 a7 a8) := by
  unfold State.readStats
  refine holds_ite (.refl _) ?_
  extract_lets r
  have k : Only [.boot, .pages, .stalls, .jobs, .hubs, .aisles, .halves, .clerk, .rings, .events, .ledgers, .trace, .out,
      .freeIx] a0 r.1.s :=
    holds_foldl (Q := fun x : StateRead × List Nat => Only [.boot, .pages, .stalls, .jobs, .hubs, .aisles, .halves, .clerk,
        .rings, .events, .ledgers, .trace, .out, .freeIx] a0 x.1.s) (.refl _) fun x _ h =>
      StateRead.plane_only (x := { x.1 with poison := false }) h
  clear_value r
  exact ((StateRead.done_only k).step State.count_only).step State.setFact_only

theorem State.rebankOne_only {a0 a1 a2} :
    Only [.pages, .stalls] a0 (State.rebankOne a0 a1 a2) := by
  unfold State.rebankOne; extract_lets +onlyGivenNames x0; (try clear_value x0)
  refine Only.step ?_ State.requestCommit_only; refine Only.step ?_ State.shadows_only
  refine Only.step ?_ State.setStall_only; exact .refl _

theorem State.rebank_only {a0 a1} :
    Only [.pages, .stalls, .clerk] a0 (State.rebank a0 a1) := by
  unfold State.rebank; extract_lets +onlyGivenNames x0; (try clear_value x0); extract_lets +onlyGivenNames x1
  (try clear_value x1); refine holds_foldl ?_ fun x2 a2_ h2 => ?_; refine Only.upd ?_; exact .refl _
  refine Only.step ?_ State.rebankOne_only; exact h2

theorem State.relayMail_only {a0 a1 a2} :
    Only [.pages, .stalls, .aisles] a0 (State.relayMail a0 a1 a2) := by
  unfold State.relayMail; refine Only.step ?_ State.relay_only; refine Only.step ?_ State.oweMail_only; exact .refl _

theorem State.replayPort_only {a0 a1 a2} :
    Only [.boot, .pages, .stalls, .jobs, .hubs, .arbs, .aisles, .halves, .clerk, .rings, .events, .ledgers, .trace, .out,
        .freeIx] a0 (State.replayPort a0 a1 a2) := by
  unfold State.replayPort; extract_lets +onlyGivenNames x0; (try clear_value x0); refine holds_ite ?_ ?_
  exact .refl _; extract_lets +onlyGivenNames x1; (try clear_value x1); extract_lets +onlyGivenNames x2
  (try clear_value x2); extract_lets +onlyGivenNames x3
  refine (fun (h3 : Only [Part.boot, Part.pages, Part.stalls, Part.jobs, Part.hubs, Part.arbs, Part.aisles, Part.halves,
      Part.clerk, Part.rings, Part.events, Part.ledgers, Part.trace, Part.out, Part.freeIx] a0 x3) => ?_) ?_
  (try clear_value x3); extract_lets +onlyGivenNames x4
  refine (fun (h4 : Only [Part.boot, Part.pages, Part.stalls, Part.jobs, Part.hubs, Part.arbs, Part.aisles, Part.halves,
      Part.clerk, Part.rings, Part.events, Part.ledgers, Part.trace, Part.out, Part.freeIx] a0 x4) => ?_) ?_
  (try clear_value x4); extract_lets +onlyGivenNames x5
  refine (fun (h5 : Only [Part.boot, Part.pages, Part.stalls, Part.jobs, Part.hubs, Part.arbs, Part.aisles, Part.halves,
      Part.clerk, Part.rings, Part.events, Part.ledgers, Part.trace, Part.out, Part.freeIx] a0 x5) => ?_) ?_
  (try clear_value x5); refine holds_ite ?_ ?_; refine Only.step ?_ State.raise_only; exact h5; exact h5; unfold x5
  refine Only.step ?_ State.occupy_only; refine Only.step ?_ State.count_only; exact h4; unfold x4
  refine holds_foldl ?_ fun x6 a6_ h6 => ?_; exact h3; extract_lets +onlyGivenNames x7; (try clear_value x7)
  extract_lets +onlyGivenNames x8; (try clear_value x8); refine Only.step ?_ State.emit_only; exact h6; unfold x3
  refine Only.step ?_ State.setAisle_only; exact .refl _

theorem State.resolveStep_only {a0 a1 a2 a3 a4} :
    Only [.boot, .pages, .stalls, .jobs, .hubs, .sched, .aisles, .halves, .clerk, .rings, .events, .ledgers, .trace, .out,
        .freeIx] a0 (State.resolveStep a0 a1 a2 a3 a4) := by
  unfold State.resolveStep; split; exact .refl _; extract_lets +onlyGivenNames x0
  refine (fun (h0 : Only [Part.boot, Part.pages, Part.stalls, Part.jobs, Part.hubs, Part.sched, Part.aisles, Part.halves,
      Part.clerk, Part.rings, Part.events, Part.ledgers, Part.trace, Part.out, Part.freeIx] a0 x0) => ?_) ?_
  (try clear_value x0); extract_lets +onlyGivenNames x1
  refine (fun (h1 : Only [Part.boot, Part.pages, Part.stalls, Part.jobs, Part.hubs, Part.sched, Part.aisles, Part.halves,
      Part.clerk, Part.rings, Part.events, Part.ledgers, Part.trace, Part.out, Part.freeIx] a0 x1) => ?_) ?_
  (try clear_value x1); extract_lets +onlyGivenNames x2
  refine (fun (h2 : Only [Part.boot, Part.pages, Part.stalls, Part.jobs, Part.hubs, Part.sched, Part.aisles, Part.halves,
      Part.clerk, Part.rings, Part.events, Part.ledgers, Part.trace, Part.out, Part.freeIx] a0 x2) => ?_) ?_
  (try clear_value x2); refine Only.step ?_ State.finish_only; exact h2; unfold x2
  refine Only.step ?_ State.sealsOf_only; exact h1; unfold x1; refine holds_ite ?_ ?_
  refine Only.step ?_ State.charge_only; refine Only.step ?_ State.advanceGroups_only; exact h0
  refine Only.step ?_ State.raise_only; refine Only.step ?_ State.charge_only; exact h0; unfold x0
  refine Only.step ?_ State.setJob_only; exact .refl _

theorem State.resolveSteps_only {a0 a1} :
    Only [.boot, .pages, .stalls, .jobs, .hubs, .sched, .aisles, .halves, .clerk, .rings, .events, .ledgers, .trace, .out,
        .freeIx] a0 (State.resolveSteps a0 a1) := by
  unfold State.resolveSteps; refine holds_foldl ?_ fun x0 a0_ h0 => ?_; exact .refl _
  refine holds_foldl ?_ fun x1 a1_ h1 => ?_; exact h0; split; refine holds_ite ?_ ?_
  refine Only.step ?_ State.resolveStep_only; exact h1; exact h1; exact h1

theorem State.resumeJob_only {a0 a1 a2} :
    Only [.boot, .pages, .stalls, .jobs, .hubs, .aisles, .halves, .clerk, .rings, .events, .ledgers, .trace, .out, .freeIx] a0
        (State.resumeJob a0 a1 a2) := by
  unfold State.resumeJob; split; exact .refl _; extract_lets +onlyGivenNames x0; (try clear_value x0)
  refine holds_ite ?_ ?_; refine Only.step ?_ State.setJob_only; exact .refl _
  refine Only.step ?_ State.preemptFor_only; refine Only.step ?_ State.suspendSlots_only
  refine Only.step ?_ State.setJob_only; exact .refl _

theorem State.revokedEv_only {a0 a1 a2 a3} :
    Only [.boot, .pages, .stalls, .jobs, .hubs, .aisles, .halves, .clerk, .rings, .events, .ledgers, .trace, .out, .freeIx] a0
        (State.revokedEv a0 a1 a2 a3) := by
  unfold State.revokedEv; split; exact .refl _; split; exact .refl _; refine holds_ite ?_ ?_; exact .refl _
  refine Only.step ?_ State.raise_only; refine Only.step ?_ State.setJob_only; exact .refl _

theorem State.revokeAisle_only {a0 a1 a2} :
    Only [.boot, .pages, .stalls, .jobs, .hubs, .aisles, .halves, .clerk, .rings, .events, .ledgers, .trace, .out, .freeIx] a0
        (State.revokeAisle a0 a1 a2) := by
  unfold State.revokeAisle; extract_lets +onlyGivenNames x0; (try clear_value x0); extract_lets +onlyGivenNames x1
  (try clear_value x1); extract_lets +onlyGivenNames x2; (try clear_value x2); split; exact .refl _
  extract_lets +onlyGivenNames x3; (try clear_value x3); extract_lets +onlyGivenNames x4; (try clear_value x4)
  refine Only.step ?_ State.reserveAisle_only; refine Only.step ?_ State.revokedEv_only
  refine Only.step ?_ State.count_only; refine Only.step ?_ State.setAisle_only; exact .refl _

theorem State.revokeHalf_only {a0 a1 a2} :
    Only [.boot, .pages, .stalls, .jobs, .hubs, .aisles, .halves, .clerk, .rings, .events, .ledgers, .trace, .out, .freeIx] a0
        (State.revokeHalf a0 a1 a2) := by
  unfold State.revokeHalf; extract_lets +onlyGivenNames x0; (try clear_value x0); extract_lets +onlyGivenNames x1
  (try clear_value x1); extract_lets +onlyGivenNames x2; (try clear_value x2); split; exact .refl _
  extract_lets +onlyGivenNames x3; (try clear_value x3); refine Only.step ?_ State.revokedEv_only
  refine Only.step ?_ State.count_only; refine Only.step ?_ State.setHalf_only; exact .refl _

theorem State.stopFetches_only {a0 a1} :
    Only [.jobs] a0 (State.stopFetches a0 a1) := by
  unfold State.stopFetches; extract_lets +onlyGivenNames x0; (try clear_value x0)
  refine holds_foldl ?_ fun x1 a1_ h1 => ?_; exact .refl _; refine holds_ite ?_ ?_; exact h1; split
  refine Only.step ?_ State.setJob_only; exact h1; exact h1

theorem State.stallBoundaries_only {a0 a1 a2} :
    Only [.boot, .pages, .stalls, .jobs, .hubs, .aisles, .halves, .clerk, .rings, .events, .ledgers, .trace, .out, .freeIx] a0
        (State.stallBoundaries a0 a1 a2) := by
  unfold State.stallBoundaries; extract_lets +onlyGivenNames x0; (try clear_value x0); extract_lets +onlyGivenNames x1
  (try clear_value x1); extract_lets +onlyGivenNames x2
  refine (fun (h2 : Only [Part.boot, Part.pages, Part.stalls, Part.jobs, Part.hubs, Part.aisles, Part.halves, Part.clerk,
      Part.rings, Part.events, Part.ledgers, Part.trace, Part.out, Part.freeIx] a0 x2) => ?_) ?_
  (try clear_value x2); refine holds_foldl ?_ fun x3 a3_ h3 => ?_; exact h2; refine holds_ite ?_ ?_; exact h3
  refine Only.step ?_ State.setPage_only; exact h3; unfold x2; refine holds_foldl ?_ fun x4 a4_ h4 => ?_
  exact .refl _; refine Only.step ?_ State.onStall_only; refine Only.step ?_ State.stopFetches_only; exact h4

theorem State.startAcquire_only {a0} :
    Only [.time, .bell] a0 (State.startAcquire a0) := by
  unfold State.startAcquire; refine holds_ite ?_ ?_; refine Only.upd ?_; exact .refl _; exact .refl _

theorem State.roundAt_only {a0 a1} :
    Only [.boot, .time, .bell, .pages, .stalls, .jobs, .hubs, .sched, .arbs, .aisles, .halves, .clerk, .rings, .events,
        .ledgers, .trace, .out, .freeIx] a0 (State.roundAt a0 a1) := by
  unfold State.roundAt; extract_lets +onlyGivenNames x0
  refine (fun (h0 : Only [Part.boot, Part.time, Part.bell, Part.pages, Part.stalls, Part.jobs, Part.hubs, Part.sched,
      Part.arbs, Part.aisles, Part.halves, Part.clerk, Part.rings, Part.events, Part.ledgers, Part.trace, Part.out,
      Part.freeIx] a0 x0) => ?_) ?_
  (try clear_value x0); extract_lets +onlyGivenNames x1; (try clear_value x1); extract_lets +onlyGivenNames x2
  (try clear_value x2); extract_lets +onlyGivenNames x3
  refine (fun (h3 : Only [Part.boot, Part.time, Part.bell, Part.pages, Part.stalls, Part.jobs, Part.hubs, Part.sched,
      Part.arbs, Part.aisles, Part.halves, Part.clerk, Part.rings, Part.events, Part.ledgers, Part.trace, Part.out,
      Part.freeIx] a0 x3) => ?_) ?_
  (try clear_value x3); extract_lets +onlyGivenNames x4
  refine (fun (h4 : Only [Part.boot, Part.time, Part.bell, Part.pages, Part.stalls, Part.jobs, Part.hubs, Part.sched,
      Part.arbs, Part.aisles, Part.halves, Part.clerk, Part.rings, Part.events, Part.ledgers, Part.trace, Part.out,
      Part.freeIx] a0 x4) => ?_) ?_
  (try clear_value x4); extract_lets +onlyGivenNames x5
  refine (fun (h5 : Only [Part.boot, Part.time, Part.bell, Part.pages, Part.stalls, Part.jobs, Part.hubs, Part.sched,
      Part.arbs, Part.aisles, Part.halves, Part.clerk, Part.rings, Part.events, Part.ledgers, Part.trace, Part.out,
      Part.freeIx] a0 x5) => ?_) ?_
  (try clear_value x5); extract_lets +onlyGivenNames x6
  refine (fun (h6 : Only [Part.boot, Part.time, Part.bell, Part.pages, Part.stalls, Part.jobs, Part.hubs, Part.sched,
      Part.arbs, Part.aisles, Part.halves, Part.clerk, Part.rings, Part.events, Part.ledgers, Part.trace, Part.out,
      Part.freeIx] a0 x6) => ?_) ?_
  (try clear_value x6); refine Only.step ?_ State.startAcquire_only; refine Only.step ?_ State.chargeReserved_only
  refine Only.step ?_ State.rebank_only; refine Only.step ?_ State.resolveSteps_only; exact h6; unfold x6
  refine holds_foldl ?_ fun x7 a7_ h7 => ?_; exact h5; refine Only.step ?_ State.hubBoundary_only; exact h7; unfold x5
  refine Only.step ?_ State.noteQuiet_only; refine Only.step ?_ State.stallBoundaries_only
  refine Only.step ?_ State.commitPages_only; exact h4; unfold x4; refine Only.step ?_ State.count_only; exact h3
  unfold x3; refine Only.upd ?_; exact h0; unfold x0; refine Only.step ?_ State.applyK_only
  refine Only.step ?_ State.advance_only; exact .refl _

theorem State.sendMark_only {a0 a1 a2 a3 a4 a5 a6 a7} :
    Only [.pages, .stalls, .aisles, .out] a0 (State.sendMark a0 a1 a2 a3 a4 a5 a6 a7) := by
  unfold State.sendMark; extract_lets +onlyGivenNames x0; (try clear_value x0); extract_lets +onlyGivenNames x1
  (try clear_value x1); refine Only.step ?_ State.count_only; refine Only.step ?_ State.putFlit_only; exact .refl _

theorem State.sendWcopy_only {a0 a1 a2 a3 a4 a5 a6 a7 a8} :
Only [.pages, .stalls, .hubs, .aisles, .rings, .events, .ledgers, .trace, .out] a0 (State.sendWcopy a0 a1 a2 a3 a4 a5
      a6 a7 a8) := by
  unfold State.sendWcopy; refine holds_ite ?_ ?_; exact .refl _; split; exact .refl _; extract_lets +onlyGivenNames x4
  (try clear_value x4); refine holds_foldl ?_ fun x5 a5_ h5 => ?_; exact .refl _; split
  refine Only.step ?_ State.sendUnit_only; exact h5; exact h5

theorem State.takeFrame_only {a0 a1 a2 a3 a4 a5 a6 a7 a8 a9} :
    Only [.boot, .pages, .stalls, .jobs, .hubs, .mem, .marks, .aisles, .halves, .clerk, .rings, .events, .ledgers, .trace,
        .out, .freeIx] a0 (State.takeFrame a0 a1 a2 a3 a4 a5 a6 a7 a8 a9) := by
  unfold State.takeFrame; extract_lets +onlyGivenNames x0; (try clear_value x0); extract_lets +onlyGivenNames x1
  (try clear_value x1); extract_lets +onlyGivenNames x2
  refine (fun (h2 : Only [Part.boot, Part.pages, Part.stalls, Part.jobs, Part.hubs, Part.mem, Part.marks, Part.aisles,
      Part.halves, Part.clerk, Part.rings, Part.events, Part.ledgers, Part.trace, Part.out, Part.freeIx] a0 x2) => ?_) ?_
  (try clear_value x2); extract_lets +onlyGivenNames x3; (try clear_value x3); refine holds_ite ?_ ?_
  refine Only.step ?_ State.count_only; exact h2; refine holds_ite ?_ ?_; refine Only.step ?_ State.raise_only
  exact h2; extract_lets +onlyGivenNames x4
  refine (fun (h4 : Only [Part.boot, Part.pages, Part.stalls, Part.jobs, Part.hubs, Part.mem, Part.marks, Part.aisles,
      Part.halves, Part.clerk, Part.rings, Part.events, Part.ledgers, Part.trace, Part.out, Part.freeIx] a0 x4) => ?_) ?_
  (try clear_value x4); refine holds_ite ?_ ?_; refine Only.step ?_ State.egress_only; exact h4
  refine Only.step ?_ State.contribute_only; exact h4; unfold x4; refine Only.step ?_ State.setHub_only; exact h2
  unfold x2; refine Only.step ?_ State.count_only; exact .refl _

theorem State.takePulse_only {a0 a1 a2 a3} :
    Only [.boot, .time, .bell, .pages, .stalls, .jobs, .hubs, .aisles, .halves, .clerk, .rings, .events, .ledgers, .power,
        .trace, .out, .freeIx] a0 (State.takePulse a0 a1 a2 a3) := by
  unfold State.takePulse; refine holds_ite ?_ ?_; refine Only.step ?_ State.acquireBell_only; exact .refl _
  extract_lets +onlyGivenNames x0; (try clear_value x0); extract_lets +onlyGivenNames x1
  refine (fun (h1 : Only [Part.boot, Part.time, Part.bell, Part.pages, Part.stalls, Part.jobs, Part.hubs, Part.aisles,
      Part.halves, Part.clerk, Part.rings, Part.events, Part.ledgers, Part.power, Part.trace, Part.out, Part.freeIx] a0 x1) =>
      ?_) ?_
  (try clear_value x1); refine holds_ite ?_ ?_; refine Only.step ?_ State.checkPulse_only; exact h1; exact h1
  unfold x1; refine holds_ite ?_ ?_; refine Only.step ?_ State.refuseAcquire_only; refine Only.upd ?_; exact .refl _
  exact .refl _

theorem State.takeWcopy_only {a0 a1 a2 a3 a4 a5 a6 a7 a8} :
    Only [.boot, .pages, .stalls, .jobs, .hubs, .mem, .marks, .aisles, .halves, .clerk, .rings, .events, .ledgers, .trace,
        .out, .freeIx] a0 (State.takeWcopy a0 a1 a2 a3 a4 a5 a6 a7 a8) := by
  unfold State.takeWcopy; extract_lets +onlyGivenNames x0; (try clear_value x0); extract_lets +onlyGivenNames x1
  (try clear_value x1); extract_lets +onlyGivenNames x2
  refine (fun (h2 : Only [Part.boot, Part.pages, Part.stalls, Part.jobs, Part.hubs, Part.mem, Part.marks, Part.aisles,
      Part.halves, Part.clerk, Part.rings, Part.events, Part.ledgers, Part.trace, Part.out, Part.freeIx] a0 x2) => ?_) ?_
  (try clear_value x2); refine holds_ite ?_ ?_; refine Only.step ?_ State.raise_only
  refine Only.step ?_ State.setHub_only; exact h2; extract_lets +onlyGivenNames x3; (try clear_value x3)
  extract_lets +onlyGivenNames x4
  refine (fun (h4 : Only [Part.boot, Part.pages, Part.stalls, Part.jobs, Part.hubs, Part.mem, Part.marks, Part.aisles,
      Part.halves, Part.clerk, Part.rings, Part.events, Part.ledgers, Part.trace, Part.out, Part.freeIx] a0 x4) => ?_) ?_
  (try clear_value x4); extract_lets +onlyGivenNames x5
  refine (fun (h5 : Only [Part.boot, Part.pages, Part.stalls, Part.jobs, Part.hubs, Part.mem, Part.marks, Part.aisles,
      Part.halves, Part.clerk, Part.rings, Part.events, Part.ledgers, Part.trace, Part.out, Part.freeIx] a0 x5) => ?_) ?_
  (try clear_value x5); extract_lets +onlyGivenNames x6
  refine (fun (h6 : Only [Part.boot, Part.pages, Part.stalls, Part.jobs, Part.hubs, Part.mem, Part.marks, Part.aisles,
      Part.halves, Part.clerk, Part.rings, Part.events, Part.ledgers, Part.trace, Part.out, Part.freeIx] a0 x6) => ?_) ?_
  (try clear_value x6); refine Only.step ?_ State.count_only; exact h6; unfold x6
  refine Only.step ?_ State.setPending_only; exact h5; unfold x5; refine holds_ite ?_ ?_
  refine Only.step ?_ State.unitWrite_only; exact h4; exact h4; unfold x4; refine Only.step ?_ State.unitWrite_only
  exact h2; unfold x2; refine Only.step ?_ State.setHub_only; exact .refl _

theorem State.writeUpdate_only {a0 a1 a2 a3 a4 a5 a6 a7 a8 a9} :
    Only [.boot, .pages, .stalls, .jobs, .hubs, .mem, .marks, .aisles, .halves, .clerk, .rings, .events, .ledgers, .trace,
        .out, .freeIx] a0 (State.writeUpdate a0 a1 a2 a3 a4 a5 a6 a7 a8 a9) := by
  unfold State.writeUpdate; extract_lets +onlyGivenNames x0; (try clear_value x0); extract_lets +onlyGivenNames x1
  (try clear_value x1); extract_lets +onlyGivenNames x2; (try clear_value x2); extract_lets +onlyGivenNames x3
  (try clear_value x3); extract_lets +onlyGivenNames x4; (try clear_value x4); extract_lets +onlyGivenNames x5
  (try clear_value x5); extract_lets +onlyGivenNames x6
  refine (fun (h6 : Only [Part.boot, Part.pages, Part.stalls, Part.jobs, Part.hubs, Part.mem, Part.marks, Part.aisles,
      Part.halves, Part.clerk, Part.rings, Part.events, Part.ledgers, Part.trace, Part.out, Part.freeIx] a0 x6) => ?_) ?_
  (try clear_value x6); extract_lets +onlyGivenNames x7
  refine (fun (h7 : Only [Part.boot, Part.pages, Part.stalls, Part.jobs, Part.hubs, Part.mem, Part.marks, Part.aisles,
      Part.halves, Part.clerk, Part.rings, Part.events, Part.ledgers, Part.trace, Part.out, Part.freeIx] a0 x7) => ?_) ?_
  (try clear_value x7); extract_lets +onlyGivenNames x8; (try clear_value x8); extract_lets +onlyGivenNames x9
  refine (fun (h9 : Only [Part.boot, Part.pages, Part.stalls, Part.jobs, Part.hubs, Part.mem, Part.marks, Part.aisles,
      Part.halves, Part.clerk, Part.rings, Part.events, Part.ledgers, Part.trace, Part.out, Part.freeIx] a0 x9) => ?_) ?_
  (try clear_value x9); refine Only.step ?_ State.sendWcopy_only; exact h9; unfold x9
  refine Only.step ?_ State.count_only; refine Only.step ?_ State.count_only; refine Only.step ?_ State.count_only
  exact h7; unfold x7; refine Only.step ?_ State.addSeal_only; refine Only.step ?_ State.setPending_only; exact h6
  unfold x6; refine holds_foldl ?_ fun x10 a10_ h10 => ?_; exact .refl _; refine Only.step ?_ State.unitWrite_only
  exact h10

theorem State.updateBlock_only {a0 a1 a2 a3 a4 a5 a6 a7 a8 a9} :
    Only [.boot, .pages, .stalls, .jobs, .hubs, .mem, .marks, .aisles, .halves, .clerk, .rings, .events, .ledgers, .trace,
        .out, .freeIx] a0
      (State.updateBlock a0 a1 a2 a3 a4 a5 a6 a7 a8 a9) := by
  have ite' {r : State} {c : Prop} [Decidable c] {x y : StateRead} (hx : Only [.boot, .pages, .stalls, .jobs, .hubs, .aisles,
      .halves, .clerk, .rings, .events, .ledgers, .trace, .out, .freeIx] r x.s)
      (hy : Only [.boot, .pages, .stalls, .jobs, .hubs, .aisles, .halves, .clerk, .rings, .events, .ledgers, .trace, .out,
          .freeIx] r y.s) :
      Only [.boot, .pages, .stalls, .jobs, .hubs, .aisles, .halves, .clerk, .rings, .events, .ledgers, .trace, .out, .freeIx]
          r (if c then x else y).s := by split <;> assumption
  unfold State.updateBlock
  extract_lets x0 x1 x2 x3 x4 x5 x6 x7 x8 x9 x10 x11 x12 x13 x14 x15
  have h5 : Only [.boot, .pages, .stalls, .jobs, .hubs, .aisles, .halves, .clerk, .rings, .events, .ledgers, .trace, .out,
      .freeIx] a0 x5 :=
    (Only.step (.refl _) State.setHub_only).step State.charge_only
  have h6 : Only [.boot, .pages, .stalls, .jobs, .hubs, .aisles, .halves, .clerk, .rings, .events, .ledgers, .trace, .out,
      .freeIx] a0 x6 := by
    unfold x6
    split
    · exact h5.step State.readStats_only
    · exact h5
  have h8 : Only [.boot, .pages, .stalls, .jobs, .hubs, .aisles, .halves, .clerk, .rings, .events, .ledgers, .trace, .out,
      .freeIx] a0 x8.s :=
    StateRead.plane_only (x := x6.startRead a1 a4 a5 a3) h6
  have h9 : Only [.boot, .pages, .stalls, .jobs, .hubs, .aisles, .halves, .clerk, .rings, .events, .ledgers, .trace, .out,
      .freeIx] a0 x9.s :=
    ite' h8 (StateRead.plane_only (x := { x8 with bytes := [] }) h8)
  have h10 : Only [.boot, .pages, .stalls, .jobs, .hubs, .aisles, .halves, .clerk, .rings, .events, .ledgers, .trace, .out,
      .freeIx] a0 x10.s :=
    ite' h9 (StateRead.plane_only (x := { x9 with bytes := [] }) h9)
  have h11 : Only [.boot, .pages, .stalls, .jobs, .hubs, .mem, .marks, .aisles, .halves, .clerk, .rings, .events, .ledgers,
      .trace, .out, .freeIx] a0 x11 :=
    ((StateRead.done_only h10).mono (by decide)).step State.count_only
  have h15 : Only [.boot, .pages, .stalls, .jobs, .hubs, .mem, .marks, .aisles, .halves, .clerk, .rings, .events, .ledgers,
      .trace, .out, .freeIx] a0 x15 :=
    holds_ite ((h11.step State.refuseBlock_only).step State.sendWcopy_only) (h11.step State.writeUpdate_only)
  clear_value x15 x7 x14 x12
  split
  · exact h15.step State.factNext_only
  · exact h15

theorem execPllLock_only {a0} :
    Nxt (Only [.time, .bell, .halves] a0) (execPllLock a0) := by
  unfold execPllLock; refine .ofNext ?_; refine holds_ite ?_ ?_; exact .refl _
  refine holds_foldl ?_ fun x0 a0_ h0 => ?_; refine Only.upd ?_; exact .refl _; refine Only.step ?_ State.setHalf_only
  exact h0

theorem execRoundBoundary_only {a0} :
    Nxt (Only [.boot, .time, .bell, .pages, .stalls, .jobs, .hubs, .sched, .arbs, .aisles, .halves, .clerk, .rings, .events,
        .ledgers, .trace, .out, .freeIx] a0) (execRoundBoundary a0) := by
  unfold execRoundBoundary; refine .ofNext ?_; refine State.on_only ?_ ?_; exact .refl _; refine holds_ite ?_ ?_
  refine Only.step ?_ State.roundAt_only; exact .refl _; exact .refl _

theorem execPowerFrameUpdate_only {a0 a1} :
    Nxt (Only [.boot, .time, .bell, .pages, .stalls, .jobs, .hubs, .aisles, .halves, .clerk, .rings, .events, .ledgers,
        .power, .trace, .out, .freeIx] a1) (execPowerFrameUpdate a0 a1) := by
  unfold execPowerFrameUpdate; refine .ofNext ?_; refine State.on_only ?_ ?_; exact .refl _; refine holds_ite ?_ ?_
  refine Only.step ?_ State.powerFrame_only; exact .refl _; exact .refl _

theorem execSyncPeriodBoundary_only {a0} :
    Nxt (Only [.boot, .time, .bell, .pages, .stalls, .jobs, .hubs, .aisles, .halves, .clerk, .rings, .events, .ledgers,
        .trace, .out, .freeIx] a0) (execSyncPeriodBoundary a0) := by
  unfold execSyncPeriodBoundary; refine .ofNext ?_; refine State.on_only ?_ ?_; exact .refl _; refine holds_ite ?_ ?_
  exact .refl _; extract_lets +onlyGivenNames x0; (try clear_value x0); extract_lets +onlyGivenNames x1
  refine (fun (h1 : Only [Part.boot, Part.time, Part.bell, Part.pages, Part.stalls, Part.jobs, Part.hubs, Part.aisles,
      Part.halves, Part.clerk, Part.rings, Part.events, Part.ledgers, Part.trace, Part.out, Part.freeIx] a0 x1) => ?_) ?_
  (try clear_value x1); extract_lets +onlyGivenNames x2; (try clear_value x2); extract_lets +onlyGivenNames x3
  refine (fun (h3 : Only [Part.boot, Part.time, Part.bell, Part.pages, Part.stalls, Part.jobs, Part.hubs, Part.aisles,
      Part.halves, Part.clerk, Part.rings, Part.events, Part.ledgers, Part.trace, Part.out, Part.freeIx] a0 x3) => ?_) ?_
  (try clear_value x3); extract_lets +onlyGivenNames x4; (try clear_value x4); extract_lets +onlyGivenNames x5
  refine (fun (h5 : Only [Part.boot, Part.time, Part.bell, Part.pages, Part.stalls, Part.jobs, Part.hubs, Part.aisles,
      Part.halves, Part.clerk, Part.rings, Part.events, Part.ledgers, Part.trace, Part.out, Part.freeIx] a0 x5) => ?_) ?_
  (try clear_value x5); extract_lets +onlyGivenNames x6; (try clear_value x6); extract_lets +onlyGivenNames x7
  refine (fun (h7 : Only [Part.boot, Part.time, Part.bell, Part.pages, Part.stalls, Part.jobs, Part.hubs, Part.aisles,
      Part.halves, Part.clerk, Part.rings, Part.events, Part.ledgers, Part.trace, Part.out, Part.freeIx] a0 x7) => ?_) ?_
  (try clear_value x7); refine holds_ite ?_ ?_; refine Only.step ?_ State.traceRec_only; exact h7; exact h7; unfold x7
  refine holds_ite ?_ ?_; refine holds_foldl ?_ fun x8 a8_ h8 => ?_; exact h5; refine Only.step ?_ State.sendMark_only
  exact h8; exact h5; unfold x5; refine holds_ite ?_ ?_; refine Only.step ?_ State.emit_only; exact h3; exact h3
  unfold x3; refine Only.upd ?_; exact h1; unfold x1; refine Only.step ?_ State.applyK_only
  refine Only.step ?_ State.advance_only; exact .refl _

theorem execBellsyncPulseCheck_only {a0 a1} :
    Nxt (Only [.boot, .time, .bell, .pages, .stalls, .jobs, .hubs, .aisles, .halves, .clerk, .rings, .events, .ledgers,
        .power, .trace, .out, .freeIx] a1) (execBellsyncPulseCheck a0 a1) := by
  unfold execBellsyncPulseCheck; extract_lets +onlyGivenNames x0
  refine (fun (h0 : Only [Part.boot, Part.time, Part.bell, Part.pages, Part.stalls, Part.jobs, Part.hubs, Part.aisles,
      Part.halves, Part.clerk, Part.rings, Part.events, Part.ledgers, Part.power, Part.trace, Part.out, Part.freeIx] a1 x0) =>
      ?_) ?_
  (try clear_value x0); refine .ofNext ?_; refine State.on_only ?_ ?_; exact h0; refine holds_ite ?_ ?_; exact h0
  refine Only.step ?_ State.takePulse_only; exact h0; unfold x0; refine Only.step ?_ State.advance_only; exact .refl _

theorem execTimeMarkReceive_only {a0 a1 a2 a3 a4} :
    Nxt (Only [.boot, .time, .bell, .pages, .stalls, .jobs, .hubs, .aisles, .halves, .clerk, .rings, .events, .ledgers,
        .power, .trace, .out, .freeIx] a4) (execTimeMarkReceive a0 a1 a2 a3 a4) := by
  unfold execTimeMarkReceive; extract_lets +onlyGivenNames x0
  refine (fun (h0 : Only [Part.boot, Part.time, Part.bell, Part.pages, Part.stalls, Part.jobs, Part.hubs, Part.aisles,
      Part.halves, Part.clerk, Part.rings, Part.events, Part.ledgers, Part.power, Part.trace, Part.out, Part.freeIx] a4 x0) =>
      ?_) ?_
  (try clear_value x0); extract_lets +onlyGivenNames x1; (try clear_value x1); refine .ofNext ?_
  refine State.on_only ?_ ?_; exact h0; refine holds_ite ?_ ?_; exact h0; extract_lets +onlyGivenNames x2
  refine (fun (h2 : Only [Part.boot, Part.time, Part.bell, Part.pages, Part.stalls, Part.jobs, Part.hubs, Part.aisles,
      Part.halves, Part.clerk, Part.rings, Part.events, Part.ledgers, Part.power, Part.trace, Part.out, Part.freeIx] a4 x2) =>
      ?_) ?_
  (try clear_value x2); refine holds_ite ?_ ?_; exact h2; extract_lets +onlyGivenNames x3; (try clear_value x3)
  extract_lets +onlyGivenNames x4
  refine (fun (h4 : Only [Part.boot, Part.time, Part.bell, Part.pages, Part.stalls, Part.jobs, Part.hubs, Part.aisles,
      Part.halves, Part.clerk, Part.rings, Part.events, Part.ledgers, Part.power, Part.trace, Part.out, Part.freeIx] a4 x4) =>
      ?_) ?_
  (try clear_value x4); refine holds_ite ?_ ?_; exact h4; extract_lets +onlyGivenNames x5; (try clear_value x5)
  refine Only.step ?_ State.takePulse_only; exact h4; unfold x4; refine holds_ite ?_ ?_; refine Only.upd ?_; exact h2
  exact h2; unfold x2; refine Only.step ?_ State.count_only; exact h0; unfold x0
  refine Only.step ?_ State.advance_only; exact .refl _

theorem execSyncWindowExpiry_only {a0} :
    Nxt (Only [.boot, .time, .bell, .pages, .stalls, .jobs, .hubs, .aisles, .halves, .clerk, .rings, .events, .ledgers,
        .trace, .out, .freeIx] a0) (execSyncWindowExpiry a0) := by
  unfold execSyncWindowExpiry; refine .ofNext ?_; refine State.on_only ?_ ?_; exact .refl _; refine holds_ite ?_ ?_
  exact .refl _; extract_lets +onlyGivenNames x0; (try clear_value x0); extract_lets +onlyGivenNames x1
  refine (fun (h1 : Only [Part.boot, Part.time, Part.bell, Part.pages, Part.stalls, Part.jobs, Part.hubs, Part.aisles,
      Part.halves, Part.clerk, Part.rings, Part.events, Part.ledgers, Part.trace, Part.out, Part.freeIx] a0 x1) => ?_) ?_
  (try clear_value x1); extract_lets +onlyGivenNames x2; (try clear_value x2); extract_lets +onlyGivenNames x3
  (try clear_value x3); extract_lets +onlyGivenNames x4
  refine (fun (h4 : Only [Part.boot, Part.time, Part.bell, Part.pages, Part.stalls, Part.jobs, Part.hubs, Part.aisles,
      Part.halves, Part.clerk, Part.rings, Part.events, Part.ledgers, Part.trace, Part.out, Part.freeIx] a0 x4) => ?_) ?_
  (try clear_value x4); extract_lets +onlyGivenNames x5
  refine (fun (h5 : Only [Part.boot, Part.time, Part.bell, Part.pages, Part.stalls, Part.jobs, Part.hubs, Part.aisles,
      Part.halves, Part.clerk, Part.rings, Part.events, Part.ledgers, Part.trace, Part.out, Part.freeIx] a0 x5) => ?_) ?_
  (try clear_value x5); refine holds_ite ?_ ?_; exact h5; extract_lets +onlyGivenNames x6
  refine (fun (h6 : Only [Part.boot, Part.time, Part.bell, Part.pages, Part.stalls, Part.jobs, Part.hubs, Part.aisles,
      Part.halves, Part.clerk, Part.rings, Part.events, Part.ledgers, Part.trace, Part.out, Part.freeIx] a0 x6) => ?_) ?_
  (try clear_value x6); refine holds_ite ?_ ?_; exact h6; refine Only.step ?_ State.raise_only; refine Only.upd ?_
  exact h6; unfold x6; refine Only.step ?_ State.raise_only; exact h5; unfold x5; refine Only.step ?_ State.count_only
  exact h4; unfold x4; refine Only.upd ?_; exact h1; unfold x1; refine Only.step ?_ State.advance_only; exact .refl _

theorem execBellrefLoss_only {a0 a1} :
    Nxt (Only [.boot, .time, .bell, .pages, .stalls, .jobs, .hubs, .aisles, .halves, .clerk, .rings, .events, .ledgers,
        .trace, .out, .freeIx] a1) (execBellrefLoss a0 a1) := by
  unfold execBellrefLoss; extract_lets +onlyGivenNames x0
  refine (fun (h0 : Only [Part.boot, Part.time, Part.bell, Part.pages, Part.stalls, Part.jobs, Part.hubs, Part.aisles,
      Part.halves, Part.clerk, Part.rings, Part.events, Part.ledgers, Part.trace, Part.out, Part.freeIx] a1 x0) => ?_) ?_
  (try clear_value x0); refine .ofNext ?_; refine State.on_only ?_ ?_; exact h0; refine holds_ite ?_ ?_; exact h0
  extract_lets +onlyGivenNames x1; (try clear_value x1); extract_lets +onlyGivenNames x2
  refine (fun (h2 : Only [Part.boot, Part.time, Part.bell, Part.pages, Part.stalls, Part.jobs, Part.hubs, Part.aisles,
      Part.halves, Part.clerk, Part.rings, Part.events, Part.ledgers, Part.trace, Part.out, Part.freeIx] a1 x2) => ?_) ?_
  (try clear_value x2); refine Only.step ?_ State.failSpanning_only; refine Only.step ?_ State.raise_only; exact h2
  unfold x2; refine Only.upd ?_; exact h0; unfold x0; refine Only.step ?_ State.advance_only; exact .refl _

theorem execPllRelock_only {a0 a1} :
    Nxt (Only [.time, .bell, .pages, .stalls] a1) (execPllRelock a0 a1) := by
  unfold execPllRelock; extract_lets +onlyGivenNames x0
  refine (fun (h0 : Only [Part.time, Part.bell, Part.pages, Part.stalls] a1 x0) => ?_) ?_; (try clear_value x0)
  refine .ofNext ?_; refine State.on_only ?_ ?_; exact h0; refine holds_ite ?_ ?_; exact h0; refine Only.upd ?_
  exact h0; unfold x0; refine Only.step ?_ State.advance_only; exact .refl _

theorem execAcquire_only {a0 a1 a2} :
    Nxt (Only [.boot, .time, .bell, .pages, .stalls, .jobs, .hubs, .aisles, .halves, .clerk, .rings, .events, .ledgers,
        .trace, .out, .freeIx] a2) (execAcquire a0 a1 a2) := by
  unfold execAcquire; extract_lets +onlyGivenNames x0
  refine (fun (h0 : Only [Part.boot, Part.time, Part.bell, Part.pages, Part.stalls, Part.jobs, Part.hubs, Part.aisles,
      Part.halves, Part.clerk, Part.rings, Part.events, Part.ledgers, Part.trace, Part.out, Part.freeIx] a2 x0) => ?_) ?_
  (try clear_value x0); refine .ofNext ?_; refine State.on_only ?_ ?_; exact h0; refine holds_ite ?_ ?_; exact h0
  refine Only.step ?_ State.acquire_only; exact h0; unfold x0; refine Only.step ?_ State.advance_only; exact .refl _

theorem execKupReport_only {a0 a1} :
    Nxt (Only [.time, .bell, .pages, .stalls, .aisles, .out] a1) (execKupReport a0 a1) := by
  unfold execKupReport; extract_lets +onlyGivenNames x0
  refine (fun (h0 : Only [Part.time, Part.bell, Part.pages, Part.stalls, Part.aisles, Part.out] a1 x0) => ?_) ?_
  (try clear_value x0); refine .ofNext ?_; refine State.on_only ?_ ?_; exact h0; refine holds_ite ?_ ?_; exact h0
  split; exact h0; extract_lets +onlyGivenNames x8; (try clear_value x8); extract_lets +onlyGivenNames x9
  refine (fun (h9 : Only [Part.time, Part.bell, Part.pages, Part.stalls, Part.aisles, Part.out] a1 x9) => ?_) ?_
  (try clear_value x9); refine Only.step ?_ State.sendMark_only; exact h9; unfold x9; refine Only.upd ?_; exact h0
  unfold x0; refine Only.step ?_ State.advance_only; exact .refl _

theorem execKupReceive_only {a0 a1 a2 a3 a4} :
    Nxt (Only [.time, .bell, .pages, .stalls, .aisles, .out] a4) (execKupReceive a0 a1 a2 a3 a4) := by
  unfold execKupReceive; extract_lets +onlyGivenNames x0
  refine (fun (h0 : Only [Part.time, Part.bell, Part.pages, Part.stalls, Part.aisles, Part.out] a4 x0) => ?_) ?_
  (try clear_value x0); extract_lets +onlyGivenNames x1; (try clear_value x1); extract_lets +onlyGivenNames x2
  (try clear_value x2); refine .ofNext ?_; refine State.on_only ?_ ?_; exact h0; refine holds_ite ?_ ?_; exact h0
  extract_lets +onlyGivenNames x8
  refine (fun (h8 : Only [Part.time, Part.bell, Part.pages, Part.stalls, Part.aisles, Part.out] a4 x8) => ?_) ?_
  (try clear_value x8); refine holds_ite ?_ ?_; refine Only.upd ?_; exact h8; split; exact h8
  refine Only.step ?_ State.sendMark_only; exact h8; unfold x8; refine Only.step ?_ State.count_only; exact h0
  unfold x0; refine Only.step ?_ State.advance_only; exact .refl _

theorem execKmasterIntake_only {a0} :
    Nxt (Only [.time, .bell, .pages, .stalls, .aisles, .out] a0) (execKmasterIntake a0) := by
  unfold execKmasterIntake; refine .ofNext ?_; refine State.on_only ?_ ?_; exact .refl _; refine holds_ite ?_ ?_
  exact .refl _; extract_lets +onlyGivenNames x5; (try clear_value x5); extract_lets +onlyGivenNames x6
  refine (fun (h6 : Only [Part.time, Part.bell, Part.pages, Part.stalls, Part.aisles, Part.out] a0 x6) => ?_) ?_
  (try clear_value x6); extract_lets +onlyGivenNames x7; (try clear_value x7); extract_lets +onlyGivenNames x8
  refine (fun (h8 : Only [Part.time, Part.bell, Part.pages, Part.stalls, Part.aisles, Part.out] a0 x8) => ?_) ?_
  (try clear_value x8); refine holds_ite ?_ ?_; exact h8; extract_lets +onlyGivenNames x11; (try clear_value x11)
  refine holds_ite ?_ ?_; exact h8; extract_lets +onlyGivenNames x14; (try clear_value x14)
  extract_lets +onlyGivenNames x15; (try clear_value x15); extract_lets +onlyGivenNames x16
  refine (fun (h16 : Only [Part.time, Part.bell, Part.pages, Part.stalls, Part.aisles, Part.out] a0 x16) => ?_) ?_
  (try clear_value x16); refine holds_foldl ?_ fun x17 a17_ h17 => ?_; exact h16
  refine Only.step ?_ State.sendMark_only; exact h17; unfold x16; refine Only.upd ?_; exact h8; unfold x8
  refine Only.upd ?_; exact h6; unfold x6; refine Only.step ?_ State.advance_only; exact .refl _

theorem execKdownReceive_only {a0 a1 a2 a3 a4} :
    Nxt (Only [.time, .bell, .pages, .stalls, .aisles, .out] a4) (execKdownReceive a0 a1 a2 a3 a4) := by
  unfold execKdownReceive; extract_lets +onlyGivenNames x0
  refine (fun (h0 : Only [Part.time, Part.bell, Part.pages, Part.stalls, Part.aisles, Part.out] a4 x0) => ?_) ?_
  (try clear_value x0); extract_lets +onlyGivenNames x1; (try clear_value x1); extract_lets +onlyGivenNames x2
  (try clear_value x2); refine .ofNext ?_; refine State.on_only ?_ ?_; exact h0; refine holds_ite ?_ ?_; exact h0
  extract_lets +onlyGivenNames x3
  refine (fun (h3 : Only [Part.time, Part.bell, Part.pages, Part.stalls, Part.aisles, Part.out] a4 x3) => ?_) ?_
  (try clear_value x3); refine holds_ite ?_ ?_; exact h3; extract_lets +onlyGivenNames x4; (try clear_value x4)
  extract_lets +onlyGivenNames x5
  refine (fun (h5 : Only [Part.time, Part.bell, Part.pages, Part.stalls, Part.aisles, Part.out] a4 x5) => ?_) ?_
  (try clear_value x5); refine holds_foldl ?_ fun x6 a6_ h6 => ?_; exact h5; refine Only.step ?_ State.sendMark_only
  exact h6; unfold x5; refine Only.upd ?_; exact h3; unfold x3; refine Only.step ?_ State.count_only; exact h0
  unfold x0; refine Only.step ?_ State.advance_only; exact .refl _

theorem execLowWordRead_only {a0 a1 a2 a3} :
    Nxt (Only [.boot, .time, .bell, .pages, .latches, .stalls, .jobs, .hubs, .aisles, .halves, .clerk, .rings, .events,
        .ledgers, .trace, .out, .freeIx] a3) (execLowWordRead a0 a1 a2 a3) := by
  unfold execLowWordRead; refine .ofNext ?_; refine State.on_only ?_ ?_; exact .refl _
  refine Only.step ?_ State.answerRead_only; refine Only.step ?_ State.advance_only; exact .refl _

theorem execRcFieldRead_only {a0 a1 a2 a3} :
    Nxt (Only [.boot, .time, .bell, .pages, .latches, .stalls, .jobs, .hubs, .aisles, .halves, .clerk, .rings, .events,
        .ledgers, .trace, .out, .freeIx] a3) (execRcFieldRead a0 a1 a2 a3) := by
  unfold execRcFieldRead; refine .ofNext ?_; refine State.on_only ?_ ?_; exact .refl _
  refine Only.step ?_ State.answerRead_only; refine Only.step ?_ State.advance_only; exact .refl _

theorem execGradientFrameArrival_only {a0 a1 a2 a3 a4} :
    Nxt (Only [.boot, .time, .pages, .stalls, .jobs, .hubs, .mem, .marks, .aisles, .halves, .clerk, .rings, .events, .ledgers,
        .trace, .out, .freeIx] a4) (execGradientFrameArrival a0 a1 a2 a3 a4) := by
  unfold execGradientFrameArrival; extract_lets +onlyGivenNames x0
  refine (fun (h0 : Only [Part.boot, Part.time, Part.pages, Part.stalls, Part.jobs, Part.hubs, Part.mem, Part.marks,
      Part.aisles, Part.halves, Part.clerk, Part.rings, Part.events, Part.ledgers, Part.trace, Part.out, Part.freeIx] a4 x0)
      => ?_) ?_
  (try clear_value x0); refine .ofNext ?_; refine State.on_only ?_ ?_; exact h0; split; exact h0; split; exact h0
  refine holds_ite ?_ ?_; exact h0; extract_lets +onlyGivenNames x1; (try clear_value x1)
  extract_lets +onlyGivenNames x2; (try clear_value x2); extract_lets +onlyGivenNames x3; (try clear_value x3); split
  refine Only.step ?_ State.ackFrame_only; refine Only.step ?_ State.orphan_only; exact h0; refine holds_ite ?_ ?_
  exact h0; refine Only.step ?_ State.ackFrame_only; refine Only.step ?_ State.takeFrame_only; exact h0; unfold x0
  refine State.on_only ?_ ?_; exact .refl _; refine Only.step ?_ State.touch_only
  refine Only.step ?_ State.advance_only; exact .refl _

theorem execGradMessageReceive_only {a0 a1 a2} :
    Nxt (Only [.time, .pages, .stalls, .hubs, .aisles, .out] a2) (execGradMessageReceive a0 a1 a2) := by
  unfold execGradMessageReceive; extract_lets +onlyGivenNames x0
  refine (fun (h0 : Only [Part.time, Part.pages, Part.stalls, Part.hubs, Part.aisles, Part.out] a2 x0) => ?_) ?_
  (try clear_value x0); refine .ofNext ?_; refine State.on_only ?_ ?_; exact h0; split; exact h0
  extract_lets +onlyGivenNames x1; (try clear_value x1); extract_lets +onlyGivenNames x2; (try clear_value x2)
  extract_lets +onlyGivenNames x3; refine holds_ite ?_ ?_; unfold x3; beta_reduce
  refine Only.step ?_ State.oweMail_only; refine Only.step ?_ State.setHub_only
  refine Only.step ?_ (State.takeLocal_only _ (by assumption)); exact h0; split; unfold x3; beta_reduce
  refine Only.step ?_ State.oweMail_only; refine Only.step ?_ State.setHub_only
  refine Only.step ?_ (State.takeLocal_only _ (by assumption)); exact h0; split; unfold x3; beta_reduce
  refine Only.step ?_ State.oweMail_only; refine Only.step ?_ State.setHub_only
  refine Only.step ?_ (State.takeLocal_only _ (by assumption)); exact h0; refine holds_ite ?_ ?_; unfold x3
  beta_reduce; refine Only.step ?_ State.oweMail_only; refine Only.step ?_ State.setHub_only
  refine Only.step ?_ (State.takeLocal_only _ (by assumption)); exact h0; extract_lets +onlyGivenNames x4
  (try clear_value x4); refine holds_ite ?_ ?_; exact h0; extract_lets +onlyGivenNames x5
  refine (fun (h5 : Only [Part.time, Part.pages, Part.stalls, Part.hubs, Part.aisles, Part.out] a2 x5) => ?_) ?_
  (try clear_value x5); refine Only.step ?_ State.oweMail_only; exact h5; unfold x5
  refine holds_foldl ?_ fun x6 a6_ h6 => ?_; refine Only.step ?_ (State.takeLocal_only _ (by assumption)); exact h0
  refine Only.step ?_ State.ingest_only; exact h6; unfold x0; refine Only.step ?_ State.advance_only; exact .refl _

theorem execTensorBlockUpdate_only {a0 a1 a2 a3 a4} :
    Nxt (Only [.boot, .time, .pages, .stalls, .jobs, .hubs, .mem, .marks, .aisles, .halves, .clerk, .rings, .events, .ledgers,
        .trace, .out, .freeIx] a4) (execTensorBlockUpdate a0 a1 a2 a3 a4) := by
  unfold execTensorBlockUpdate; extract_lets +onlyGivenNames x0
  refine (fun (h0 : Only [Part.boot, Part.time, Part.pages, Part.stalls, Part.jobs, Part.hubs, Part.mem, Part.marks,
      Part.aisles, Part.halves, Part.clerk, Part.rings, Part.events, Part.ledgers, Part.trace, Part.out, Part.freeIx] a4 x0)
      => ?_) ?_
  (try clear_value x0); refine .ofNext ?_; refine State.on_only ?_ ?_; exact h0; split; exact h0
  extract_lets +onlyGivenNames x1; (try clear_value x1); extract_lets +onlyGivenNames x2; (try clear_value x2)
  extract_lets +onlyGivenNames x3; (try clear_value x3); extract_lets +onlyGivenNames x4; (try clear_value x4)
  refine holds_ite ?_ ?_; exact h0; split; exact h0; refine Only.step ?_ State.updateBlock_only; exact h0; unfold x0
  refine Only.step ?_ State.advance_only; exact .refl _

theorem execWcopyMessageReceive_only {a0 a1 a2} :
    Nxt (Only [.boot, .time, .pages, .stalls, .jobs, .hubs, .mem, .marks, .aisles, .halves, .clerk, .rings, .events, .ledgers,
        .trace, .out, .freeIx] a2) (execWcopyMessageReceive a0 a1 a2) := by
  unfold execWcopyMessageReceive; extract_lets +onlyGivenNames x0
  refine (fun (h0 : Only [Part.boot, Part.time, Part.pages, Part.stalls, Part.jobs, Part.hubs, Part.mem, Part.marks,
      Part.aisles, Part.halves, Part.clerk, Part.rings, Part.events, Part.ledgers, Part.trace, Part.out, Part.freeIx] a2 x0)
      => ?_) ?_
  (try clear_value x0); refine .ofNext ?_; refine State.on_only ?_ ?_; exact h0; split; exact h0
  extract_lets +onlyGivenNames x1; (try clear_value x1); extract_lets +onlyGivenNames x2; (try clear_value x2); split
  refine Only.step ?_ State.oweMail_only; refine Only.step ?_ (State.takeLocal_only _ (by assumption)); exact h0
  split; refine Only.step ?_ State.oweMail_only; refine Only.step ?_ (State.takeLocal_only _ (by assumption))
  exact h0; extract_lets +onlyGivenNames x3; (try clear_value x3); extract_lets +onlyGivenNames x4
  (try clear_value x4); refine holds_ite ?_ ?_; refine Only.step ?_ State.oweMail_only
  refine Only.step ?_ (State.takeLocal_only _ (by assumption)); exact h0; refine holds_ite ?_ ?_; exact h0
  extract_lets +onlyGivenNames x5; (try clear_value x5); extract_lets +onlyGivenNames x6
  refine (fun (h6 : Only [Part.boot, Part.time, Part.pages, Part.stalls, Part.jobs, Part.hubs, Part.mem, Part.marks,
      Part.aisles, Part.halves, Part.clerk, Part.rings, Part.events, Part.ledgers, Part.trace, Part.out, Part.freeIx] a2 x6)
      => ?_) ?_
  (try clear_value x6); refine Only.step ?_ State.oweMail_only; exact h6; unfold x6
  refine holds_foldl ?_ fun x7 a7_ h7 => ?_; refine Only.step ?_ (State.takeLocal_only _ (by assumption)); exact h0
  refine Only.step ?_ State.takeWcopy_only; exact h7; unfold x0; refine Only.step ?_ State.advance_only; exact .refl _

theorem execScheduleCompute_only {a0 a1} :
    Nxt (Only [.time, .pages, .stalls, .jobs, .hubs, .sched] a1) (execScheduleCompute a0 a1) := by
  unfold execScheduleCompute; refine .ofNext ?_; refine State.on_only ?_ ?_; exact .refl _; split; exact .refl _
  split; exact .refl _; extract_lets +onlyGivenNames x7
  refine (fun (h7 : Only [Part.time, Part.pages, Part.stalls, Part.jobs, Part.hubs, Part.sched] a1 x7) => ?_) ?_
  (try clear_value x7); refine Only.step ?_ State.setJob_only; exact h7; unfold x7
  refine Only.step ?_ State.computeSchedule_only; refine Only.step ?_ State.advance_only; exact .refl _

theorem execStepClose_only {a0 a1 a2} :
    Nxt (Only [.boot, .time, .pages, .stalls, .jobs, .hubs, .aisles, .halves, .clerk, .rings, .events, .ledgers, .trace, .out,
        .freeIx] a2) (execStepClose a0 a1 a2) := by
  unfold execStepClose; extract_lets +onlyGivenNames x0
  refine (fun (h0 : Only [Part.boot, Part.time, Part.pages, Part.stalls, Part.jobs, Part.hubs, Part.aisles, Part.halves,
      Part.clerk, Part.rings, Part.events, Part.ledgers, Part.trace, Part.out, Part.freeIx] a2 x0) => ?_) ?_
  (try clear_value x0); refine .ofNext ?_; refine State.on_only ?_ ?_; exact h0; split; exact h0; split; exact h0
  refine holds_ite ?_ ?_; exact h0; refine Only.step ?_ State.closeStep_only; exact h0; unfold x0
  refine Only.step ?_ State.advance_only; exact .refl _

theorem execFlagWordSend_only {a0 a1} :
Nxt (Only [.time, .pages, .stalls, .jobs, .aisles, .rings, .events, .ledgers, .trace, .out] a1) (execFlagWordSend a0
      a1) := by
  unfold execFlagWordSend; refine .ofNext ?_; refine State.onClerk_only ?_ ?_; exact .refl _; split; exact .refl _
  split; exact .refl _; extract_lets +onlyGivenNames x7; (try clear_value x7); extract_lets +onlyGivenNames x8
  (try clear_value x8); extract_lets +onlyGivenNames x9
  refine (fun (h9 : Only [Part.time, Part.pages, Part.stalls, Part.jobs, Part.aisles, Part.rings, Part.events, Part.ledgers,
      Part.trace,
    Part.out] a1 x9) => ?_) ?_; (try clear_value x9); extract_lets +onlyGivenNames x10
  refine (fun (h10 : Only [Part.time, Part.pages, Part.stalls, Part.jobs, Part.aisles, Part.rings, Part.events, Part.ledgers,
      Part.trace,
    Part.out] a1 x10) => ?_) ?_; (try clear_value x10); refine holds_foldl ?_ fun x11 a11_ h11 => ?_; exact h10
  refine Only.step ?_ State.sendClerk_only; exact h11; unfold x10; refine Only.step ?_ State.setJob_only; exact h9
  unfold x9; refine Only.step ?_ State.advance_only; exact .refl _

theorem execFlagWordReceive_only {a0 a1 a2} :
    Nxt (Only [.boot, .time, .pages, .stalls, .jobs, .hubs, .aisles, .halves, .clerk, .rings, .events, .ledgers, .trace, .out,
        .freeIx] a2) (execFlagWordReceive a0 a1 a2) := by
  unfold execFlagWordReceive; extract_lets +onlyGivenNames x0
  refine (fun (h0 : Only [Part.boot, Part.time, Part.pages, Part.stalls, Part.jobs, Part.hubs, Part.aisles, Part.halves,
      Part.clerk, Part.rings, Part.events, Part.ledgers, Part.trace, Part.out, Part.freeIx] a2 x0) => ?_) ?_
  (try clear_value x0); refine .ofNext ?_; refine State.onClerk_only ?_ ?_; exact h0; split; exact h0
  extract_lets +onlyGivenNames x1; (try clear_value x1); split
  refine Only.step ?_ (State.takeLocal_only _ (by assumption)); exact h0; split
  refine Only.step ?_ (State.takeLocal_only _ (by assumption)); exact h0; extract_lets +onlyGivenNames x2
  (try clear_value x2); extract_lets +onlyGivenNames x3; (try clear_value x3)
  refine Only.step ?_ State.chooseGuard_only; refine Only.step ?_ State.setJob_only
  refine Only.step ?_ (State.takeLocal_only _ (by assumption)); exact h0; unfold x0
  refine Only.step ?_ State.advance_only; exact .refl _

theorem execGuardArm_only {a0 a1 a2 a3} :
    Nxt (Only [.boot, .time, .pages, .stalls, .jobs, .hubs, .aisles, .halves, .clerk, .rings, .events, .ledgers, .trace, .out,
        .freeIx] a3) (execGuardArm a0 a1 a2 a3) := by
  unfold execGuardArm; extract_lets +onlyGivenNames x0
  refine (fun (h0 : Only [Part.boot, Part.time, Part.pages, Part.stalls, Part.jobs, Part.hubs, Part.aisles, Part.halves,
      Part.clerk, Part.rings, Part.events, Part.ledgers, Part.trace, Part.out, Part.freeIx] a3 x0) => ?_) ?_
  (try clear_value x0); refine .ofNext ?_; refine State.onClerk_only ?_ ?_; exact h0; split; exact h0; split; exact h0
  split; exact h0; refine holds_ite ?_ ?_; exact h0; extract_lets +onlyGivenNames x1; (try clear_value x1)
  refine holds_ite ?_ ?_; refine Only.step ?_ State.postponeGuard_only; exact h0; extract_lets +onlyGivenNames x2
  refine (fun (h2 : Only [Part.boot, Part.time, Part.pages, Part.stalls, Part.jobs, Part.hubs, Part.aisles, Part.halves,
      Part.clerk, Part.rings, Part.events, Part.ledgers, Part.trace, Part.out, Part.freeIx] a3 x2) => ?_) ?_
  (try clear_value x2); refine holds_ite ?_ ?_; exact h2; refine Only.step ?_ State.armStep_only; exact h2; unfold x2
  refine holds_ite ?_ ?_; exact h0; refine Only.step ?_ State.postponeGuard_only; exact h0; unfold x0
  refine Only.step ?_ State.advance_only; exact .refl _

theorem execGuardPeerDeadline_only {a0 a1} :
    Nxt (Only [.time, .pages, .stalls, .jobs] a1) (execGuardPeerDeadline a0 a1) := by
  unfold execGuardPeerDeadline; refine .ofNext ?_; refine State.on_only ?_ ?_; exact .refl _; split; exact .refl _
  split; exact .refl _; extract_lets +onlyGivenNames x7
  refine (fun (h7 : Only [Part.time, Part.pages, Part.stalls, Part.jobs] a1 x7) => ?_) ?_; (try clear_value x7)
  refine holds_ite ?_ ?_; exact h7; refine Only.step ?_ State.setJob_only; exact h7; unfold x7
  refine Only.step ?_ State.advance_only; exact .refl _

theorem execAisleFlitReceive_only {a0 a1 a2 a3} :
    Nxt (Only [.boot, .time, .pages, .stalls, .jobs, .hubs, .arbs, .aisles, .halves, .clerk, .rings, .events, .ledgers,
        .trace, .out, .freeIx] a3) (execAisleFlitReceive a0 a1 a2 a3) := by
  unfold execAisleFlitReceive; extract_lets +onlyGivenNames x0
  refine (fun (h0 : Only [Part.boot, Part.time, Part.pages, Part.stalls, Part.jobs, Part.hubs, Part.arbs, Part.aisles,
      Part.halves, Part.clerk, Part.rings, Part.events, Part.ledgers, Part.trace, Part.out, Part.freeIx] a3 x0) => ?_) ?_
  (try clear_value x0); extract_lets +onlyGivenNames x1; (try clear_value x1); refine .ofNext ?_
  refine State.on_only ?_ ?_; exact h0; refine holds_ite ?_ ?_; refine holds_ite ?_ ?_; exact h0
  refine holds_ite ?_ ?_; refine Only.step ?_ State.setAisle_only; exact h0; refine Only.step ?_ State.count_only
  exact h0; refine holds_ite ?_ ?_; refine Only.step ?_ State.nakAisle_only; refine Only.step ?_ State.count_only
  exact h0; extract_lets +onlyGivenNames x2; (try clear_value x2); extract_lets +onlyGivenNames x3
  refine (fun (h3 : Only [Part.boot, Part.time, Part.pages, Part.stalls, Part.jobs, Part.hubs, Part.arbs, Part.aisles,
      Part.halves, Part.clerk, Part.rings, Part.events, Part.ledgers, Part.trace, Part.out, Part.freeIx] a3 x3) => ?_) ?_
  (try clear_value x3); extract_lets +onlyGivenNames x4
  refine (fun (h4 : Only [Part.boot, Part.time, Part.pages, Part.stalls, Part.jobs, Part.hubs, Part.arbs, Part.aisles,
      Part.halves, Part.clerk, Part.rings, Part.events, Part.ledgers, Part.trace, Part.out, Part.freeIx] a3 x4) => ?_) ?_
  (try clear_value x4); extract_lets +onlyGivenNames x5
  refine (fun (h5 : Only [Part.boot, Part.time, Part.pages, Part.stalls, Part.jobs, Part.hubs, Part.arbs, Part.aisles,
      Part.halves, Part.clerk, Part.rings, Part.events, Part.ledgers, Part.trace, Part.out, Part.freeIx] a3 x5) => ?_) ?_
  (try clear_value x5); extract_lets +onlyGivenNames x6
  refine (fun (h6 : Only [Part.boot, Part.time, Part.pages, Part.stalls, Part.jobs, Part.hubs, Part.arbs, Part.aisles,
      Part.halves, Part.clerk, Part.rings, Part.events, Part.ledgers, Part.trace, Part.out, Part.freeIx] a3 x6) => ?_) ?_
  (try clear_value x6); refine Only.step ?_ State.reserveAisle_only; exact h6; unfold x6; refine holds_ite ?_ ?_
  exact h4; refine holds_ite ?_ ?_; refine Only.step ?_ State.count_only; refine Only.step ?_ State.setAisle_only
  exact h5; refine Only.step ?_ State.nakAisle_only; exact h4; unfold x5; refine Only.step ?_ State.endPart_only
  exact h4; unfold x4; refine holds_ite ?_ ?_; refine Only.step ?_ State.replayPort_only; exact h3; exact h3
  unfold x3; refine Only.step ?_ State.setAisle_only; exact h0; unfold x0; refine Only.step ?_ State.advance_only
  exact .refl _

theorem execAisleMessageReceive_only {a0 a1 a2} :
    Nxt (Only [.time, .pages, .stalls, .jobs, .aisles, .halves, .rings, .events, .ledgers, .trace, .out] a2)
        (execAisleMessageReceive a0 a1 a2) := by
  unfold execAisleMessageReceive; extract_lets +onlyGivenNames x0
  refine (fun (h0 : Only [Part.time, Part.pages, Part.stalls, Part.jobs, Part.aisles, Part.halves, Part.rings, Part.events,
      Part.ledgers, Part.trace, Part.out] a2 x0) => ?_) ?_
  (try clear_value x0); extract_lets +onlyGivenNames x1; (try clear_value x1); refine .ofNext ?_
  refine State.on_only ?_ ?_; exact h0; split; exact h0; extract_lets +onlyGivenNames x2
  refine (fun (h2 : Only [Part.time, Part.pages, Part.stalls, Part.jobs, Part.aisles, Part.halves, Part.rings, Part.events,
      Part.ledgers, Part.trace, Part.out] a2 x2) => ?_) ?_
  (try clear_value x2); extract_lets +onlyGivenNames x3
  refine (fun (h3 : Only [Part.time, Part.pages, Part.stalls, Part.jobs, Part.aisles, Part.halves, Part.rings, Part.events,
      Part.ledgers, Part.trace, Part.out] a2 x3) => ?_) ?_
  (try clear_value x3); refine holds_ite ?_ ?_; exact h2; refine holds_ite ?_ ?_; refine Only.step ?_ State.count_only
  refine Only.step ?_ State.oweMail_only; exact h3; refine holds_ite ?_ ?_; refine Only.step ?_ State.deliverMail_only
  exact h3; refine Only.step ?_ State.relayMail_only; exact h3; unfold x3; refine Only.step ?_ State.setAisle_only
  exact h0; exact h0; unfold x0; refine Only.step ?_ State.advance_only; exact .refl _

theorem execAisleAckTimeout_only {a0 a1 a2} :
    Nxt (Only [.boot, .time, .pages, .stalls, .jobs, .hubs, .arbs, .aisles, .halves, .clerk, .rings, .events, .ledgers,
        .trace, .out, .freeIx] a2) (execAisleAckTimeout a0 a1 a2) := by
  unfold execAisleAckTimeout; extract_lets +onlyGivenNames x0
  refine (fun (h0 : Only [Part.boot, Part.time, Part.pages, Part.stalls, Part.jobs, Part.hubs, Part.arbs, Part.aisles,
      Part.halves, Part.clerk, Part.rings, Part.events, Part.ledgers, Part.trace, Part.out, Part.freeIx] a2 x0) => ?_) ?_
  (try clear_value x0); extract_lets +onlyGivenNames x1; (try clear_value x1); refine .ofNext ?_
  refine State.on_only ?_ ?_; exact h0; refine holds_ite ?_ ?_; refine Only.step ?_ State.replayPort_only
  refine Only.step ?_ State.setAisle_only; exact h0; exact h0; unfold x0; refine Only.step ?_ State.advance_only
  exact .refl _

theorem execAisleNakRepeat_only {a0 a1 a2} :
    Nxt (Only [.time, .pages, .stalls, .aisles] a2) (execAisleNakRepeat a0 a1 a2) := by
  unfold execAisleNakRepeat; extract_lets +onlyGivenNames x0
  refine (fun (h0 : Only [Part.time, Part.pages, Part.stalls, Part.aisles] a2 x0) => ?_) ?_; (try clear_value x0)
  extract_lets +onlyGivenNames x1; (try clear_value x1); refine .ofNext ?_; refine State.on_only ?_ ?_; exact h0
  split; refine holds_ite ?_ ?_; refine Only.step ?_ State.setAisle_only; exact h0; exact h0; exact h0; unfold x0
  refine Only.step ?_ State.advance_only; exact .refl _

theorem execAisleLaneLockLoss_only {a0 a1 a2 a3} :
    Nxt (Only [.boot, .time, .pages, .stalls, .jobs, .hubs, .arbs, .aisles, .halves, .clerk, .rings, .events, .ledgers,
        .trace, .out, .freeIx] a3) (execAisleLaneLockLoss a0 a1 a2 a3) := by
  unfold execAisleLaneLockLoss; extract_lets +onlyGivenNames x0
  refine (fun (h0 : Only [Part.boot, Part.time, Part.pages, Part.stalls, Part.jobs, Part.hubs, Part.arbs, Part.aisles,
      Part.halves, Part.clerk, Part.rings, Part.events, Part.ledgers, Part.trace, Part.out, Part.freeIx] a3 x0) => ?_) ?_
  (try clear_value x0); extract_lets +onlyGivenNames x1; (try clear_value x1); extract_lets +onlyGivenNames x2
  refine (fun (h2 : Only [Part.boot, Part.time, Part.pages, Part.stalls, Part.jobs, Part.hubs, Part.arbs, Part.aisles,
      Part.halves, Part.clerk, Part.rings, Part.events, Part.ledgers, Part.trace, Part.out, Part.freeIx] a3 x2) => ?_) ?_
  (try clear_value x2); refine .ofNext ?_; refine State.on_only ?_ ?_; exact h0; refine holds_ite ?_ ?_; exact h0
  refine holds_ite ?_ ?_; refine Only.step ?_ State.loseAisle_only; exact h2; exact h2; unfold x2
  refine Only.step ?_ State.setAisle_only; exact h0; unfold x0; refine Only.step ?_ State.advance_only; exact .refl _

theorem execAisleLinkTimeout_only {a0 a1 a2} :
    Nxt (Only [.boot, .time, .pages, .stalls, .jobs, .hubs, .arbs, .aisles, .halves, .clerk, .rings, .events, .ledgers,
        .trace, .out, .freeIx] a2) (execAisleLinkTimeout a0 a1 a2) := by
  unfold execAisleLinkTimeout; extract_lets +onlyGivenNames x0
  refine (fun (h0 : Only [Part.boot, Part.time, Part.pages, Part.stalls, Part.jobs, Part.hubs, Part.arbs, Part.aisles,
      Part.halves, Part.clerk, Part.rings, Part.events, Part.ledgers, Part.trace, Part.out, Part.freeIx] a2 x0) => ?_) ?_
  (try clear_value x0); extract_lets +onlyGivenNames x1; (try clear_value x1); extract_lets +onlyGivenNames x2
  (try clear_value x2); refine .ofNext ?_; refine State.on_only ?_ ?_; exact h0; refine holds_ite ?_ ?_; exact h0
  refine Only.step ?_ State.loseAisle_only; exact h0; unfold x0; refine Only.step ?_ State.advance_only; exact .refl _

theorem execAisleLanesLocked_only {a0 a1 a2} :
    Nxt (Only [.time, .pages, .stalls, .aisles, .out] a2) (execAisleLanesLocked a0 a1 a2) := by
  unfold execAisleLanesLocked; extract_lets +onlyGivenNames x0
  refine (fun (h0 : Only [Part.time, Part.pages, Part.stalls, Part.aisles, Part.out] a2 x0) => ?_) ?_
  (try clear_value x0); extract_lets +onlyGivenNames x1; (try clear_value x1); refine .ofNext ?_
  refine State.on_only ?_ ?_; exact h0; refine holds_ite ?_ ?_; exact h0; refine Only.step ?_ State.dueIdents_only
  refine Only.step ?_ State.setAisle_only; exact h0; unfold x0; refine Only.step ?_ State.advance_only; exact .refl _

theorem execIdentReceive_only {a0 a1 a2 a3} :
    Nxt (Only [.boot, .time, .pages, .stalls, .jobs, .hubs, .aisles, .halves, .clerk, .rings, .events, .ledgers, .trace, .out,
        .freeIx] a3) (execIdentReceive a0 a1 a2 a3) := by
  unfold execIdentReceive; extract_lets +onlyGivenNames x0
  refine (fun (h0 : Only [Part.boot, Part.time, Part.pages, Part.stalls, Part.jobs, Part.hubs, Part.aisles, Part.halves,
      Part.clerk, Part.rings, Part.events, Part.ledgers, Part.trace, Part.out, Part.freeIx] a3 x0) => ?_) ?_
  (try clear_value x0); refine .ofNext ?_; refine State.on_only ?_ ?_; exact h0; refine holds_ite ?_ ?_; exact h0
  refine holds_ite ?_ ?_; refine Only.step ?_ State.count_only; exact h0; refine holds_ite ?_ ?_; exact h0
  extract_lets +onlyGivenNames x1
  refine (fun (h1 : Only [Part.boot, Part.time, Part.pages, Part.stalls, Part.jobs, Part.hubs, Part.aisles, Part.halves,
      Part.clerk, Part.rings, Part.events, Part.ledgers, Part.trace, Part.out, Part.freeIx] a3 x1) => ?_) ?_
  (try clear_value x1); extract_lets +onlyGivenNames x2; (try clear_value x2); refine holds_ite ?_ ?_
  refine Only.step ?_ State.setAisle_only; exact h1; extract_lets +onlyGivenNames x3
  refine (fun (h3 : Only [Part.boot, Part.time, Part.pages, Part.stalls, Part.jobs, Part.hubs, Part.aisles, Part.halves,
      Part.clerk, Part.rings, Part.events, Part.ledgers, Part.trace, Part.out, Part.freeIx] a3 x3) => ?_) ?_
  (try clear_value x3); extract_lets +onlyGivenNames x4; (try clear_value x4); refine holds_ite ?_ ?_
  extract_lets +onlyGivenNames x5; (try clear_value x5); extract_lets +onlyGivenNames x6
  refine (fun (h6 : Only [Part.boot, Part.time, Part.pages, Part.stalls, Part.jobs, Part.hubs, Part.aisles, Part.halves,
      Part.clerk, Part.rings, Part.events, Part.ledgers, Part.trace, Part.out, Part.freeIx] a3 x6) => ?_) ?_
  (try clear_value x6); refine Only.step ?_ State.raise_only; exact h6; unfold x6
  refine Only.step ?_ State.setAisle_only; exact h3; refine Only.step ?_ State.enterUp_only; exact h3; unfold x3
  refine Only.step ?_ State.setAisle_only; exact h1; unfold x1; refine Only.step ?_ State.dueIdents_only; exact h0
  unfold x0; refine Only.step ?_ State.advance_only; exact .refl _

theorem execCreditRevoke_only {a0 a1 a2} :
    Nxt (Only [.boot, .time, .pages, .stalls, .jobs, .hubs, .aisles, .halves, .clerk, .rings, .events, .ledgers, .trace, .out,
        .freeIx] a2) (execCreditRevoke a0 a1 a2) := by
  unfold execCreditRevoke; extract_lets +onlyGivenNames x0
  refine (fun (h0 : Only [Part.boot, Part.time, Part.pages, Part.stalls, Part.jobs, Part.hubs, Part.aisles, Part.halves,
      Part.clerk, Part.rings, Part.events, Part.ledgers, Part.trace, Part.out, Part.freeIx] a2 x0) => ?_) ?_
  (try clear_value x0); refine .ofNext ?_; refine State.on_only ?_ ?_; exact h0; refine holds_ite ?_ ?_
  refine Only.step ?_ State.revokeAisle_only; exact h0; refine Only.step ?_ State.revokeHalf_only; exact h0; unfold x0
  refine Only.step ?_ State.advance_only; exact .refl _

theorem execSealReceive_only {a0 a1 a2} :
    Nxt (Only [.time, .pages, .stalls, .jobs, .aisles, .halves, .rings, .events, .ledgers, .trace, .out, .freeIx] a2)
        (execSealReceive a0 a1 a2) := by
  unfold execSealReceive; extract_lets +onlyGivenNames x0
  refine (fun (h0 : Only [Part.time, Part.pages, Part.stalls, Part.jobs, Part.aisles, Part.halves, Part.rings, Part.events,
      Part.ledgers, Part.trace, Part.out, Part.freeIx] a2 x0) => ?_) ?_
  (try clear_value x0); refine .ofNext ?_; refine State.onClerk_only ?_ ?_; exact h0; split; exact h0
  refine holds_ite ?_ ?_; refine Only.step ?_ (State.takeLocal_only _ (by assumption)); exact h0
  refine Only.step ?_ State.takeSeal_only; refine Only.step ?_ (State.takeLocal_only _ (by assumption)); exact h0
  unfold x0; refine Only.step ?_ State.advance_only; exact .refl _

theorem execSealTableReceive_only {a0 a1 a2 a3 a4} :
    Nxt (Only [.time, .pages, .stalls, .jobs, .aisles, .halves, .rings, .events, .trace, .out] a4) (execSealTableReceive a0 a1
        a2 a3 a4) := by
  unfold execSealTableReceive; extract_lets +onlyGivenNames x0
  refine (fun (h0 : Only [Part.time, Part.pages, Part.stalls, Part.jobs, Part.aisles, Part.halves, Part.rings, Part.events,
      Part.trace, Part.out] a4 x0) => ?_) ?_
  (try clear_value x0); refine .ofNext ?_; refine State.onClerk_only ?_ ?_; exact h0; split; exact h0; split; exact h0
  split; exact h0; refine holds_ite ?_ ?_; refine Only.step ?_ (State.partnerTable_only _ (by assumption)); exact h0
  refine Only.step ?_ State.compareSeals_only; refine Only.step ?_ State.setJob_only
  refine Only.step ?_ (State.partnerTable_only _ (by assumption)); exact h0; unfold x0
  refine Only.step ?_ State.advance_only; exact .refl _

theorem execSealTableTimeout_only {a0 a1 a2} :
    Nxt (Only [.boot, .time, .pages, .stalls, .jobs, .hubs, .aisles, .halves, .clerk, .rings, .events, .ledgers, .trace, .out,
        .freeIx] a2) (execSealTableTimeout a0 a1 a2) := by
  unfold execSealTableTimeout; extract_lets +onlyGivenNames x0
  refine (fun (h0 : Only [Part.boot, Part.time, Part.pages, Part.stalls, Part.jobs, Part.hubs, Part.aisles, Part.halves,
      Part.clerk, Part.rings, Part.events, Part.ledgers, Part.trace, Part.out, Part.freeIx] a2 x0) => ?_) ?_
  (try clear_value x0); refine .ofNext ?_; refine State.onClerk_only ?_ ?_; exact h0; split; exact h0; split; exact h0
  refine holds_ite ?_ ?_; refine Only.step ?_ State.twinSolo_only; exact h0; exact h0; unfold x0
  refine Only.step ?_ State.advance_only; exact .refl _

theorem execAbortReceive_only {a0 a1 a2} :
    Nxt (Only [.time, .pages, .stalls, .jobs, .hubs, .aisles, .halves, .clerk, .rings, .events, .ledgers, .trace, .out,
        .freeIx] a2) (execAbortReceive a0 a1 a2) := by
  unfold execAbortReceive; extract_lets +onlyGivenNames x0
  refine (fun (h0 : Only [Part.time, Part.pages, Part.stalls, Part.jobs, Part.hubs, Part.aisles, Part.halves, Part.clerk,
      Part.rings, Part.events, Part.ledgers, Part.trace, Part.out, Part.freeIx] a2 x0) => ?_) ?_
  (try clear_value x0); refine .ofNext ?_; refine State.onClerk_only ?_ ?_; exact h0; split; exact h0
  extract_lets +onlyGivenNames x1; (try clear_value x1); extract_lets +onlyGivenNames x2; (try clear_value x2); split
  refine Only.step ?_ (State.takeLocal_only _ (by assumption)); exact h0; extract_lets +onlyGivenNames x3
  refine (fun (h3 : Only [Part.time, Part.pages, Part.stalls, Part.jobs, Part.hubs, Part.aisles, Part.halves, Part.clerk,
      Part.rings, Part.events, Part.ledgers, Part.trace, Part.out, Part.freeIx] a2 x3) => ?_) ?_
  (try clear_value x3); refine holds_ite ?_ ?_; refine Only.step ?_ State.abortSteps_only; exact h3; exact h3
  unfold x3; refine Only.step ?_ State.setJob_only; refine Only.step ?_ State.clearIngress_only
  refine Only.step ?_ (State.takeLocal_only _ (by assumption)); exact h0; unfold x0
  refine Only.step ?_ State.advance_only; exact .refl _

end Sys2Proof.Machine
end

