-- ==== Sys2Proof/Laws/OnlyCommands.lean ====
section
/-! SUPPORT. Which parts of the state the operations of registers, commands, inspection, the companion and boot may change:
one lemma for each operation. -/

set_option Elab.async false
namespace Sys2Proof.Machine

theorem State.acceptSlot_only {a0 a1 a2 a3} :
    Only [.pages, .stalls, .halves] a0 (State.acceptSlot a0 a1 a2 a3) := by
  unfold State.acceptSlot; extract_lets +onlyGivenNames x0; (try clear_value x0); extract_lets +onlyGivenNames x1
  (try clear_value x1); extract_lets +onlyGivenNames x2; (try clear_value x2); extract_lets +onlyGivenNames x3
  refine (fun (h3 : Only [Part.pages, Part.stalls, Part.halves] a0 x3) => ?_) ?_; (try clear_value x3)
  extract_lets +onlyGivenNames x4; refine (fun (h4 : Only [Part.pages, Part.stalls, Part.halves] a0 x4) => ?_) ?_
  (try clear_value x4); refine holds_ite ?_ ?_; exact h4; refine Only.step ?_ State.oweSlot_only; exact h4; unfold x4
  refine Only.step ?_ State.count_only; exact h3; unfold x3; refine Only.step ?_ State.setHalf_only; exact .refl _

theorem State.refuse_only {a0 a1 a2} :
    Only [.pages, .stalls, .jobs, .halves, .clerk, .rings, .events, .ledgers, .trace, .out] a0 (State.refuse a0 a1 a2) := by
  unfold State.refuse; refine Only.step ?_ State.finish_only; exact .refl _

theorem State.markStarted_only {a0 a1} :
    Only [.clerk] a0 (State.markStarted a0 a1) := by
  unfold State.markStarted; refine Only.upd ?_; exact .refl _

theorem State.acceptStep_only {a0 a1 a2 a3 a4 a5} :
    Only [.pages, .stalls, .jobs, .halves, .clerk, .rings, .events, .ledgers, .trace, .out] a0 (State.acceptStep a0 a1 a2 a3
        a4 a5) := by
  unfold State.acceptStep; extract_lets +onlyGivenNames x0; (try clear_value x0); extract_lets +onlyGivenNames x1
  (try clear_value x1); extract_lets +onlyGivenNames x2; (try clear_value x2); refine holds_ite ?_ ?_
  refine Only.step ?_ State.refuse_only; exact .refl _; extract_lets +onlyGivenNames x3; (try clear_value x3)
  refine Only.step ?_ State.markStarted_only; refine Only.step ?_ State.fetchStreams_only
  refine Only.step ?_ State.setJob_only; exact .refl _

theorem State.advanceFuse_only {a0} :
    Only [.fuses, .boot, .pages, .stalls, .jobs, .hubs, .aisles, .halves, .clerk, .rings, .events, .ledgers, .trace, .out,
        .freeIx] a0 (State.advanceFuse a0) := by
  unfold State.advanceFuse; split; exact .refl _; refine holds_ite ?_ ?_; refine Only.step ?_ State.raise_only
  refine Only.upd ?_; exact .refl _; exact .refl _

theorem State.writeRoutes_only {a0 a1} :
    Only [.pages, .stalls] a0 (State.writeRoutes a0 a1) := by
  unfold State.writeRoutes; extract_lets +onlyGivenNames x0; (try clear_value x0)
  refine holds_foldl ?_ fun x1 a1_ h1 => ?_; exact .refl _; refine Only.step ?_ State.requestCommit_only
  refine Only.step ?_ State.setPage_only; exact h1

theorem State.writePorts_only {a0 a1} :
    Only [.pages, .stalls] a0 (State.writePorts a0 a1) := by
  unfold State.writePorts; extract_lets +onlyGivenNames x0; (try clear_value x0)
  refine holds_foldl ?_ fun x1 a1_ h1 => ?_; exact .refl _; extract_lets +onlyGivenNames x3; (try clear_value x3)
  extract_lets +onlyGivenNames x4; (try clear_value x4); extract_lets +onlyGivenNames x5; (try clear_value x5)
  refine Only.step ?_ State.requestCommit_only; refine Only.step ?_ State.shadow_only; exact h1

theorem State.writeSync_only {a0 a1} :
    Only [.time, .bell, .pages, .stalls] a0 (State.writeSync a0 a1) := by
  unfold State.writeSync; extract_lets +onlyGivenNames x0; (try clear_value x0); extract_lets +onlyGivenNames x1
  (try clear_value x1); extract_lets +onlyGivenNames x2
  refine (fun (h2 : Only [Part.time, Part.bell, Part.pages, Part.stalls] a0 x2) => ?_) ?_; (try clear_value x2)
  extract_lets +onlyGivenNames x3
  refine (fun (h3 : Only [Part.time, Part.bell, Part.pages, Part.stalls] a0 x3) => ?_) ?_; (try clear_value x3)
  refine Only.upd ?_; exact h3; unfold x3; refine Only.step ?_ State.requestCommit_only
  refine Only.step ?_ State.shadow_only; exact h2; unfold x2; refine Only.step ?_ State.shadow_only; exact .refl _

theorem State.applyPolicy_only {a0 a1} :
    Only [.time, .bell, .pages, .stalls, .clerk] a0 (State.applyPolicy a0 a1) := by
  unfold State.applyPolicy; extract_lets +onlyGivenNames x0; (try clear_value x0); extract_lets +onlyGivenNames x1
  refine (fun (h1 : Only [Part.time, Part.bell, Part.pages, Part.stalls, Part.clerk] a0 x1) => ?_) ?_
  (try clear_value x1); refine Only.step ?_ State.writeRoutes_only; refine Only.step ?_ State.writePorts_only
  refine Only.step ?_ State.writeSync_only; exact h1; unfold x1; refine Only.upd ?_; exact .refl _

theorem State.writeCommon_only {a0 a1 a2 a3 a4 a5} :
    Only [.pages, .stalls] a0 (State.writeCommon a0 a1 a2 a3 a4 a5) := by
  unfold State.writeCommon; extract_lets +onlyGivenNames x0; (try clear_value x0); refine holds_ite ?_ ?_
  refine holds_ite ?_ ?_; refine Only.step ?_ State.setPage_only; exact .refl _; exact .refl _; refine holds_ite ?_ ?_
  refine Only.step ?_ State.setPage_only; exact .refl _; refine holds_ite ?_ ?_
  refine Only.step ?_ State.setPage_only; exact .refl _; refine holds_ite ?_ ?_
  refine Only.step ?_ State.setPage_only; exact .refl _; exact .refl _

theorem State.writeStepCtrl_only {a0 a1 a2 a3} :
    Only [.boot, .pages, .stalls, .jobs, .hubs, .aisles, .halves, .clerk, .rings, .events, .ledgers, .trace, .out, .freeIx] a0
        (State.writeStepCtrl a0 a1 a2 a3) := by
  unfold State.writeStepCtrl; extract_lets +onlyGivenNames x0; (try clear_value x0); extract_lets +onlyGivenNames x1
  (try clear_value x1); extract_lets +onlyGivenNames x2; (try clear_value x2); refine Only.step ?_ State.onStall_only
  exact .refl _

theorem State.writeStall_only {a0 a1 a2 a3 a4} :
    Only [.boot, .pages, .stalls, .jobs, .hubs, .aisles, .halves, .clerk, .rings, .events, .ledgers, .trace, .out, .freeIx] a0
        (State.writeStall a0 a1 a2 a3 a4) := by
  unfold State.writeStall; extract_lets +onlyGivenNames x0; refine holds_ite ?_ ?_; unfold x0; beta_reduce
  refine Only.step ?_ State.onStall_only; exact .refl _; refine holds_ite ?_ ?_; unfold x0; beta_reduce
  refine Only.step ?_ State.onStall_only; exact .refl _; refine holds_ite ?_ ?_
  refine Only.step ?_ State.writeStepCtrl_only; exact .refl _; refine holds_ite ?_ ?_; unfold x0; beta_reduce
  refine Only.step ?_ State.onStall_only; exact .refl _; refine holds_ite ?_ ?_; unfold x0; beta_reduce
  refine Only.step ?_ State.onStall_only; exact .refl _; exact .refl _

theorem State.writeRerunArm_only {a0 a1 a2 a3} :
    Only [.boot, .pages, .stalls, .jobs, .hubs, .aisles, .halves, .clerk, .rings, .events, .ledgers, .trace, .out, .freeIx] a0
        (State.writeRerunArm a0 a1 a2 a3) := by
  unfold State.writeRerunArm; extract_lets +onlyGivenNames x0; (try clear_value x0); refine holds_ite ?_ ?_
  refine Only.step ?_ State.onStall_only; exact .refl _; exact .refl _

theorem State.writeXlateInval_only {a0 a1 a2} :
    Only [.hubs] a0 (State.writeXlateInval a0 a1 a2) := by
  unfold State.writeXlateInval; extract_lets +onlyGivenNames x0; (try clear_value x0); refine holds_ite ?_ ?_
  exact .refl _; extract_lets +onlyGivenNames x3; (try clear_value x3); refine Only.step ?_ State.setHub_only
  exact .refl _

theorem State.writeGrpStep_only {a0 a1} :
    Only [.sched] a0 (State.writeGrpStep a0 a1) := by
  unfold State.writeGrpStep; extract_lets +onlyGivenNames x0; (try clear_value x0); refine holds_ite ?_ ?_
  exact .refl _; refine Only.upd ?_; exact .refl _

theorem State.writeGrpHalf_only {a0 a1 a2} :
    Only [.sched] a0 (State.writeGrpHalf a0 a1 a2) := by
  unfold State.writeGrpHalf; extract_lets +onlyGivenNames x0; (try clear_value x0)
  refine Only.step ?_ State.writeGrpStep_only; exact .refl _

theorem State.writeLedger_only {a0 a1 a2} :
    Only [.pages, .stalls, .jobs, .ledgers] a0 (State.writeLedger a0 a1 a2) := by
  unfold State.writeLedger; extract_lets +onlyGivenNames x0; (try clear_value x0); extract_lets +onlyGivenNames x1
  refine (fun (h1 : Only [Part.pages, Part.stalls, Part.jobs, Part.ledgers] a0 x1) => ?_) ?_; (try clear_value x1)
  refine holds_ite ?_ ?_; extract_lets +onlyGivenNames x3
  refine (fun (h3 : Only [Part.pages, Part.stalls, Part.jobs, Part.ledgers] a0 x3) => ?_) ?_; (try clear_value x3)
  refine Only.upd ?_; exact h3; unfold x3; refine Only.step ?_ State.setLedger_only
  refine Only.step ?_ State.setPage_only; exact h1; exact h1; unfold x1; refine holds_ite ?_ ?_
  refine Only.step ?_ State.setLedger_only; exact .refl _; exact .refl _

theorem State.readImage_only {a0} :
    Only [.halves] a0 (State.readImage a0) := by
  unfold State.readImage; refine holds_foldl ?_ fun x0 a0_ h0 => ?_; exact .refl _
  refine Only.step ?_ State.request_only; exact h0

theorem State.writeRingCtrl_only {a0 a1} :
    Only [.pages, .stalls, .halves, .rings, .events, .out] a0 (State.writeRingCtrl a0 a1) := by
  unfold State.writeRingCtrl; extract_lets +onlyGivenNames x0; (try clear_value x0); extract_lets +onlyGivenNames x1
  refine (fun (h1 : Only [Part.pages, Part.stalls, Part.halves, Part.rings, Part.events, Part.out] a0 x1) => ?_) ?_
  (try clear_value x1); refine holds_ite ?_ ?_; extract_lets +onlyGivenNames x2; (try clear_value x2)
  extract_lets +onlyGivenNames x3
  refine (fun (h3 : Only [Part.pages, Part.stalls, Part.halves, Part.rings, Part.events, Part.out] a0 x3) => ?_) ?_
  (try clear_value x3); refine holds_ite ?_ ?_; refine Only.step ?_ State.writeStatus_only; exact h3; exact h3
  unfold x3; refine Only.step ?_ State.postEvents_only; refine Only.upd ?_; exact h1; refine holds_ite ?_ ?_; exact h1
  exact .refl _; unfold x1; refine Only.step ?_ State.setPage_only; exact .refl _

theorem State.writeLemef_only {a0 a1 a2} :
    Only [.boot, .pages, .stalls, .halves, .rings, .events, .out] a0 (State.writeLemef a0 a1 a2) := by
  unfold State.writeLemef; extract_lets +onlyGivenNames x0; (try clear_value x0); extract_lets +onlyGivenNames x1
  refine (fun (h1 : Only [Part.boot, Part.pages, Part.stalls, Part.halves, Part.rings, Part.events, Part.out] a0 x1) => ?_) ?_
  (try clear_value x1); refine holds_ite ?_ ?_; refine holds_ite ?_ ?_; refine Only.step ?_ State.readImage_only
  refine Only.upd ?_; exact .refl _; exact .refl _; refine holds_ite ?_ ?_
  refine Only.step ?_ State.writeRingCtrl_only; exact .refl _; refine holds_ite ?_ ?_; exact h1
  refine holds_ite ?_ ?_; exact .refl _; refine holds_ite ?_ ?_; exact .refl _; exact h1; unfold x1
  refine Only.step ?_ State.setPage_only; exact .refl _

theorem State.writeBlockReg_only {a0 a1 a2 a3 a4 a5} :
    Only [.pins, .boot, .time, .bell, .pages, .stalls, .jobs, .hubs, .sched, .arbs, .aisles, .halves, .clerk, .rings, .events,
        .ledgers, .trace, .out, .freeIx] a0 (State.writeBlockReg a0 a1 a2 a3 a4 a5) := by
  unfold State.writeBlockReg; extract_lets +onlyGivenNames x0; (try clear_value x0); extract_lets +onlyGivenNames x1
  refine (fun (h1 : Only [Part.pins, Part.boot, Part.time, Part.bell, Part.pages, Part.stalls, Part.jobs, Part.hubs,
      Part.sched, Part.arbs, Part.aisles, Part.halves, Part.clerk, Part.rings, Part.events, Part.ledgers, Part.trace,
      Part.out, Part.freeIx] a0 x1) => ?_) ?_
  (try clear_value x1); split; refine holds_ite ?_ ?_; refine Only.step ?_ State.writeStall_only; exact .refl _
  exact h1; refine holds_ite ?_ ?_; refine Only.step ?_ State.writeRerunArm_only; exact .refl _; exact h1
  refine holds_ite ?_ ?_; refine Only.step ?_ State.writeXlateInval_only; exact .refl _; exact h1
  refine holds_ite ?_ ?_; refine Only.step ?_ State.writeGrpHalf_only; exact .refl _; exact h1; refine holds_ite ?_ ?_
  refine holds_ite ?_ ?_; refine Only.step ?_ State.retrainAisle_only; exact .refl _; exact .refl _; exact h1
  refine holds_ite ?_ ?_; refine Only.step ?_ State.acquire_only; exact .refl _; exact h1; refine holds_ite ?_ ?_
  refine holds_ite ?_ ?_; refine Only.updPins ?_; exact .refl _; exact .refl _; exact h1; refine holds_ite ?_ ?_
  refine Only.step ?_ State.writeLedger_only; exact .refl _; exact h1; refine holds_ite ?_ ?_
  refine Only.step ?_ State.writeLemef_only; exact .refl _; exact h1; exact h1; unfold x1
  refine Only.step ?_ State.setPage_only; exact .refl _

theorem State.applyWrite_only {a0 a1 a2 a3 a4 a5} :
    Only [.pins, .boot, .time, .bell, .pages, .stalls, .jobs, .hubs, .sched, .arbs, .aisles, .halves, .clerk, .rings, .events,
        .ledgers, .trace, .out, .freeIx] a0 (State.applyWrite a0 a1 a2 a3 a4 a5) := by
  unfold State.applyWrite; refine holds_ite ?_ ?_; refine Only.step ?_ State.writeCommon_only; exact .refl _
  refine holds_ite ?_ ?_; refine Only.step ?_ State.setPage_only; exact .refl _
  refine Only.step ?_ State.writeBlockReg_only; exact .refl _

theorem State.writeReg_only {a0 a1 a2 a3 a4} :
    Only [.pins, .boot, .time, .bell, .pages, .stalls, .jobs, .hubs, .sched, .arbs, .aisles, .halves, .clerk, .rings, .events,
        .ledgers, .trace, .out, .freeIx] a0 (State.writeReg a0 a1 a2 a3 a4) := by
  unfold State.writeReg; extract_lets +onlyGivenNames x0; split; unfold x0; beta_reduce; refine holds_ite ?_ ?_
  refine Only.step ?_ State.count_only; refine Only.step ?_ State.count_only; exact .refl _
  refine Only.step ?_ State.count_only; exact .refl _; refine holds_ite ?_ ?_; unfold x0; beta_reduce
  refine holds_ite ?_ ?_; refine Only.step ?_ State.count_only; refine Only.step ?_ State.count_only; exact .refl _
  refine Only.step ?_ State.count_only; exact .refl _; refine holds_ite ?_ ?_; unfold x0; beta_reduce
  refine holds_ite ?_ ?_; refine Only.step ?_ State.count_only; exact .refl _; exact .refl _
  refine Only.step ?_ State.applyWrite_only; exact .refl _

theorem State.armStalls_only {a0 a1 a2} :
    Only [.pins, .boot, .time, .bell, .pages, .stalls, .jobs, .hubs, .sched, .arbs, .aisles, .halves, .clerk, .rings, .events,
        .ledgers, .trace, .out, .freeIx] a0 (State.armStalls a0 a1 a2) := by
  unfold State.armStalls; split; exact .refl _; refine holds_foldl ?_ fun x0 a0_ h0 => ?_; exact .refl _; split
  refine Only.step ?_ State.writeReg_only; exact h0; exact h0

theorem State.chargeEnergy_only {a0 a1 a2} :
    Only [.pages, .stalls, .halves, .rings, .events, .ledgers, .trace, .out] a0 (State.chargeEnergy a0 a1 a2) := by
  unfold State.chargeEnergy; refine Only.step ?_ State.count_only; refine holds_foldl ?_ fun x0 a0_ h0 => ?_
  exact .refl _; refine Only.step ?_ State.charge_only; exact h0

theorem State.chooseClerk_only {a0 a1} :
    Only [.boot, .pages, .stalls, .jobs, .hubs, .aisles, .halves, .clerk, .rings, .events, .ledgers, .trace, .out, .freeIx] a0
        (State.chooseClerk a0 a1) := by
  unfold State.chooseClerk; extract_lets +onlyGivenNames x0; (try clear_value x0); extract_lets +onlyGivenNames x1
  (try clear_value x1); extract_lets +onlyGivenNames x2; (try clear_value x2); extract_lets +onlyGivenNames x3
  refine (fun (h3 : Only [Part.boot, Part.pages, Part.stalls, Part.jobs, Part.hubs, Part.aisles, Part.halves, Part.clerk,
      Part.rings, Part.events, Part.ledgers, Part.trace, Part.out, Part.freeIx] a0 x3) => ?_) ?_
  (try clear_value x3); refine holds_ite ?_ ?_; refine Only.step ?_ State.refreshed_only; exact h3
  refine Only.step ?_ State.raise_only; exact h3; unfold x3; refine Only.upd ?_; exact .refl _

theorem State.clearWork_only {a0} :
    Only [.stalls, .ledgers] a0 (State.clearWork a0) := by
  unfold State.clearWork; refine Only.upd ?_; exact .refl _

theorem State.clerkOwns_only {a0 a1} :
    Only [.clerk] a0 (State.clerkOwns a0 a1) := by
  unfold State.clerkOwns; refine Only.upd ?_; exact .refl _

theorem State.setShadow_only {a0 a1 a2 a3} :
    Only [.pages, .stalls] a0 (State.setShadow a0 a1 a2 a3) := by
  unfold State.setShadow; refine holds_ite ?_ ?_; exact .refl _; refine Only.step ?_ State.shadow_only; exact .refl _

theorem State.leaveStall_only {a0 a1 a2} :
    Only [.pages, .stalls] a0 (State.leaveStall a0 a1 a2) := by
  unfold State.leaveStall; extract_lets +onlyGivenNames x0; (try clear_value x0); extract_lets +onlyGivenNames x1
  refine (fun (h1 : Only [Part.pages, Part.stalls] a0 x1) => ?_) ?_; (try clear_value x1)
  extract_lets +onlyGivenNames x2; (try clear_value x2); extract_lets +onlyGivenNames x3
  refine (fun (h3 : Only [Part.pages, Part.stalls] a0 x3) => ?_) ?_; (try clear_value x3)
  extract_lets +onlyGivenNames x4; refine (fun (h4 : Only [Part.pages, Part.stalls] a0 x4) => ?_) ?_
  (try clear_value x4); extract_lets +onlyGivenNames x5
  refine (fun (h5 : Only [Part.pages, Part.stalls] a0 x5) => ?_) ?_; (try clear_value x5)
  refine Only.step ?_ State.requestCommit_only; exact h5; unfold x5; refine holds_foldl ?_ fun x9 a9_ h9 => ?_
  exact h4; extract_lets +onlyGivenNames x11; (try clear_value x11); refine holds_ite ?_ ?_
  refine Only.step ?_ State.setShadow_only; refine Only.step ?_ State.setShadow_only; exact h9; exact h9; unfold x4
  refine holds_foldl ?_ fun x18 a18_ h18 => ?_; exact h3; refine Only.step ?_ State.setShadow_only; exact h18
  unfold x3; refine holds_foldl ?_ fun x23 a23_ h23 => ?_; exact h1; refine Only.step ?_ State.setShadow_only
  exact h23; unfold x1; refine holds_foldl ?_ fun x28 a28_ h28 => ?_; exact .refl _
  refine Only.step ?_ State.setShadow_only; refine Only.step ?_ State.setShadow_only
  refine Only.step ?_ State.setShadow_only; refine Only.step ?_ State.setShadow_only; exact h28

theorem State.forgetJob_only {a0 a1} :
    Only [.sched, .clerk] a0 (State.forgetJob a0 a1) := by
  unfold State.forgetJob; refine Only.upd ?_; exact .refl _

theorem State.invalidateJob_only {a0 a1} :
    Only [.hubs] a0 (State.invalidateJob a0 a1) := by
  unfold State.invalidateJob; refine holds_foldl ?_ fun x0 a0_ h0 => ?_; exact .refl _
  refine Only.step ?_ State.writeXlateInval_only; exact h0

theorem State.setRoot_only {a0 a1 a2} :
    Only [.pages, .stalls] a0 (State.setRoot a0 a1 a2) := by
  unfold State.setRoot; refine holds_foldl ?_ fun x0 a0_ h0 => ?_; exact .refl _; extract_lets +onlyGivenNames x2
  (try clear_value x2); refine Only.step ?_ State.setPage_only; exact h0

theorem State.setGroupValid_only {a0 a1} :
    Only [.pages, .stalls] a0 (State.setGroupValid a0 a1) := by
  unfold State.setGroupValid; refine Only.step ?_ State.requestCommit_only; refine Only.step ?_ State.shadow_only
  refine Only.step ?_ State.shadow_only; exact .refl _

theorem State.releaseMemory_only {a0 a1 a2} :
    Only [.pages, .stalls, .hubs, .sched, .clerk] a0 (State.releaseMemory a0 a1 a2) := by
  unfold State.releaseMemory; extract_lets +onlyGivenNames x0; (try clear_value x0); extract_lets +onlyGivenNames x1
  refine (fun (h1 : Only [Part.pages, Part.stalls, Part.hubs, Part.sched, Part.clerk] a0 x1) => ?_) ?_
  (try clear_value x1); extract_lets +onlyGivenNames x2
  refine (fun (h2 : Only [Part.pages, Part.stalls, Part.hubs, Part.sched, Part.clerk] a0 x2) => ?_) ?_
  (try clear_value x2); refine Only.step ?_ State.freeAhead_only; refine holds_foldl ?_ fun x4 a4_ h4 => ?_; exact h2
  refine Only.step ?_ State.setHub_only; exact h4; unfold x2; refine holds_ite ?_ ?_; exact h1
  refine Only.step ?_ State.setGroupValid_only; exact h1; unfold x1; refine Only.step ?_ State.forgetJob_only
  refine Only.step ?_ State.invalidateJob_only; refine Only.step ?_ State.setRoot_only; exact .refl _

theorem State.refloor_only {a0} :
    Only [.clerk] a0 (State.refloor a0) := by
  unfold State.refloor; extract_lets +onlyGivenNames x0; (try clear_value x0); refine Only.upd ?_; exact .refl _

theorem State.writeArbRotas_only {a0} :
    Only [.pages, .stalls] a0 (State.writeArbRotas a0) := by
  unfold State.writeArbRotas; extract_lets +onlyGivenNames x0; (try clear_value x0)
  refine holds_foldl ?_ fun x1 a1_ h1 => ?_; exact .refl _; refine holds_ite ?_ ?_; exact h1
  extract_lets +onlyGivenNames x5; (try clear_value x5); extract_lets +onlyGivenNames x6; (try clear_value x6)
  refine holds_ite ?_ ?_; exact h1; refine Only.step ?_ State.requestCommit_only
  refine holds_foldl ?_ fun x10 a10_ h10 => ?_; exact h1; refine Only.step ?_ State.shadow_only; exact h10

theorem State.closeJob_only {a0 a1 a2} :
    Only [.pages, .stalls, .jobs, .hubs, .sched, .clerk, .ledgers] a0 (State.closeJob a0 a1 a2) := by
  unfold State.closeJob; extract_lets +onlyGivenNames x0
  refine (fun (h0 : Only [Part.pages, Part.stalls, Part.jobs, Part.hubs, Part.sched, Part.clerk, Part.ledgers] a0 x0) => ?_) ?_
  (try clear_value x0); extract_lets +onlyGivenNames x1
  refine (fun (h1 : Only [Part.pages, Part.stalls, Part.jobs, Part.hubs, Part.sched, Part.clerk, Part.ledgers] a0 x1) => ?_) ?_
  (try clear_value x1); extract_lets +onlyGivenNames x2; (try clear_value x2); extract_lets +onlyGivenNames x3
  refine (fun (h3 : Only [Part.pages, Part.stalls, Part.jobs, Part.hubs, Part.sched, Part.clerk, Part.ledgers] a0 x3) => ?_) ?_
  (try clear_value x3); refine Only.step ?_ State.refloor_only; refine Only.step ?_ State.writeArbRotas_only
  refine Only.step ?_ State.setJob_only; exact h3; unfold x3; refine Only.step ?_ State.setLedger_only; exact h1
  unfold x1; refine Only.step ?_ State.releaseMemory_only; exact h0; unfold x0
  refine holds_foldl ?_ fun x15 a15_ h15 => ?_; exact .refl _; refine Only.step ?_ State.leaveStall_only; exact h15

theorem State.commitStalls_only {a0 a1 a2} :
    Only [.boot, .pages, .stalls, .jobs, .hubs, .aisles, .halves, .clerk, .rings, .events, .ledgers, .trace, .out, .freeIx] a0
        (State.commitStalls a0 a1 a2) := by
  unfold State.commitStalls; split; exact .refl _; extract_lets +onlyGivenNames x0
  refine (fun (h0 : Only [Part.boot, Part.pages, Part.stalls, Part.jobs, Part.hubs, Part.aisles, Part.halves, Part.clerk,
      Part.rings, Part.events, Part.ledgers, Part.trace, Part.out, Part.freeIx] a0 x0) => ?_) ?_
  (try clear_value x0); refine Only.step ?_ State.preemptFor_only; refine holds_foldl ?_ fun x1 a1_ h1 => ?_; exact h0
  refine Only.step ?_ State.requestCommit_only; exact h1; unfold x0; refine Only.step ?_ State.setJob_only
  exact .refl _

theorem State.countRefusal_only {a0 a1} :
    Only [.pages, .stalls] a0 (State.countRefusal a0 a1) := by
  unfold State.countRefusal; refine holds_ite ?_ ?_; refine Only.step ?_ State.count_only; exact .refl _
  exact .refl _

theorem State.countRefused_only {a0 a1} :
    Only [.pages, .stalls] a0 (State.countRefused a0 a1) := by
  unfold State.countRefused; split; refine Only.step ?_ State.count_only; exact .refl _; refine holds_ite ?_ ?_
  exact .refl _; refine Only.step ?_ State.count_only; exact .refl _

theorem State.echo_only {a0 a1 a2} :
    Only [.pages, .stalls, .jobs, .halves, .clerk, .rings, .events, .ledgers, .trace, .out] a0 (State.echo a0 a1 a2) := by
  unfold State.echo; extract_lets +onlyGivenNames x0; (try clear_value x0); refine holds_ite ?_ ?_
  refine Only.step ?_ State.finish_only; exact .refl _; refine holds_ite ?_ ?_; refine Only.step ?_ State.refuse_only
  exact .refl _; refine Only.step ?_ State.finish_only; refine Only.step ?_ State.writeLines_only; exact .refl _

theorem State.endStep_only {a0 a1 a2 a3 a4} :
    Only [.pages, .stalls, .jobs, .hubs, .aisles, .halves, .clerk, .rings, .events, .ledgers, .trace, .out, .freeIx] a0
        (State.endStep a0 a1 a2 a3 a4) := by
  unfold State.endStep; split; exact .refl _; split; exact .refl _; extract_lets +onlyGivenNames x0
  (try clear_value x0); extract_lets +onlyGivenNames x1
  refine (fun (h1 : Only [Part.pages, Part.stalls, Part.jobs, Part.hubs, Part.aisles, Part.halves, Part.clerk, Part.rings,
      Part.events, Part.ledgers, Part.trace, Part.out, Part.freeIx] a0 x1) => ?_) ?_
  (try clear_value x1); extract_lets +onlyGivenNames x2
  refine (fun (h2 : Only [Part.pages, Part.stalls, Part.jobs, Part.hubs, Part.aisles, Part.halves, Part.clerk, Part.rings,
      Part.events, Part.ledgers, Part.trace, Part.out, Part.freeIx] a0 x2) => ?_) ?_
  (try clear_value x2); refine Only.step ?_ State.finish_only; exact h2; unfold x2
  refine Only.step ?_ State.sealsOf_only; refine Only.step ?_ State.discardStep_only; exact h1; unfold x1
  refine Only.step ?_ State.setJob_only; exact .refl _

theorem State.enterHalf_only {a0 a1 a2} :
    Only [.halves] a0 (State.enterHalf a0 a1 a2) := by
  unfold State.enterHalf; extract_lets +onlyGivenNames x0; (try clear_value x0)
  refine Only.step ?_ State.setHalf_only; exact .refl _

theorem State.writeGo_only {a0 a1 a2 a3 a4} :
    Only [.pins, .boot, .time, .bell, .pages, .stalls, .jobs, .hubs, .sched, .arbs, .aisles, .halves, .clerk, .rings, .events,
        .ledgers, .trace, .out, .freeIx] a0 (State.writeGo a0 a1 a2 a3 a4) := by
  unfold State.writeGo; split; exact .refl _; extract_lets +onlyGivenNames x0; (try clear_value x0)
  extract_lets +onlyGivenNames x1
  refine (fun (h1 : Only [Part.pins, Part.boot, Part.time, Part.bell, Part.pages, Part.stalls, Part.jobs, Part.hubs,
      Part.sched, Part.arbs, Part.aisles, Part.halves, Part.clerk, Part.rings, Part.events, Part.ledgers, Part.trace,
      Part.out, Part.freeIx] a0 x1) => ?_) ?_
  (try clear_value x1); refine Only.step ?_ State.writeReg_only; exact h1; unfold x1
  refine Only.step ?_ State.setPage_only; exact .refl _

theorem State.go_only {a0 a1 a2 a3 a4} :
    Only [.pins, .boot, .time, .bell, .pages, .stalls, .jobs, .hubs, .sched, .arbs, .aisles, .halves, .clerk, .rings, .events,
        .ledgers, .trace, .out, .freeIx] a0 (State.go a0 a1 a2 a3 a4) := by
  unfold State.go; split; exact .refl _; extract_lets +onlyGivenNames x0; (try clear_value x0)
  extract_lets +onlyGivenNames x1; (try clear_value x1); extract_lets +onlyGivenNames x2; (try clear_value x2)
  extract_lets +onlyGivenNames x3
  refine (fun (h3 : Only [Part.pins, Part.boot, Part.time, Part.bell, Part.pages, Part.stalls, Part.jobs, Part.hubs,
      Part.sched, Part.arbs, Part.aisles, Part.halves, Part.clerk, Part.rings, Part.events, Part.ledgers, Part.trace,
      Part.out, Part.freeIx] a0 x3) => ?_) ?_
  (try clear_value x3); extract_lets +onlyGivenNames x4
  refine (fun (h4 : Only [Part.pins, Part.boot, Part.time, Part.bell, Part.pages, Part.stalls, Part.jobs, Part.hubs,
      Part.sched, Part.arbs, Part.aisles, Part.halves, Part.clerk, Part.rings, Part.events, Part.ledgers, Part.trace,
      Part.out, Part.freeIx] a0 x4) => ?_) ?_
  (try clear_value x4); refine holds_ite ?_ ?_; refine Only.step ?_ State.endStep_only
  refine Only.step ?_ State.abortStalls_only; exact h4; exact h4; unfold x4
  refine Only.step ?_ State.fetchStreams_only; refine holds_foldl ?_ fun x5 a5_ h5 => ?_; exact h3
  refine Only.step ?_ State.writeGo_only; exact h5; unfold x3; refine Only.step ?_ State.setJob_only; exact .refl _

theorem State.sendAborts_only {a0 a1 a2} :
    Only [.jobs, .aisles] a0 (State.sendAborts a0 a1 a2) := by
  unfold State.sendAborts; split; exact .refl _; split; exact .refl _; refine holds_ite ?_ ?_; exact .refl _
  refine Only.step ?_ State.tellAbort_only; refine Only.step ?_ State.setJob_only; exact .refl _

theorem State.jobClosed_only {a0 a1 a2} :
    Only [.pages, .stalls, .jobs, .hubs, .sched, .aisles, .halves, .clerk, .rings, .events, .ledgers, .trace, .out, .freeIx]
        a0 (State.jobClosed a0 a1 a2) := by
  unfold State.jobClosed; split; exact .refl _; refine holds_ite ?_ ?_; exact .refl _; extract_lets +onlyGivenNames x0
  refine (fun (h0 : Only [Part.pages, Part.stalls, Part.jobs, Part.hubs, Part.sched, Part.aisles, Part.halves, Part.clerk,
      Part.rings, Part.events, Part.ledgers, Part.trace, Part.out, Part.freeIx] a0 x0) => ?_) ?_
  (try clear_value x0); split; refine Only.step ?_ State.finish_only; refine Only.step ?_ State.closeJob_only
  exact h0; exact h0; unfold x0; refine holds_foldl ?_ fun x1 a1_ h1 => ?_; exact .refl _
  refine Only.step ?_ State.endStep_only; refine holds_ite ?_ ?_; refine Only.step ?_ State.sendAborts_only; exact h1
  exact h1

theorem State.jobClose_only {a0 a1 a2 a3} :
    Only [.pages, .stalls, .jobs, .hubs, .sched, .aisles, .halves, .clerk, .rings, .events, .ledgers, .trace, .out, .freeIx]
        a0 (State.jobClose a0 a1 a2 a3) := by
  unfold State.jobClose; refine holds_ite ?_ ?_; refine Only.step ?_ State.jobClosed_only; exact .refl _
  extract_lets +onlyGivenNames x0; (try clear_value x0); extract_lets +onlyGivenNames x1; (try clear_value x1)
  extract_lets +onlyGivenNames x2
  refine (fun (h2 : Only [Part.pages, Part.stalls, Part.jobs, Part.hubs, Part.sched, Part.aisles, Part.halves, Part.clerk,
      Part.rings, Part.events, Part.ledgers, Part.trace, Part.out, Part.freeIx] a0 x2) => ?_) ?_
  (try clear_value x2); extract_lets +onlyGivenNames x3
  refine (fun (h3 : Only [Part.pages, Part.stalls, Part.jobs, Part.hubs, Part.sched, Part.aisles, Part.halves, Part.clerk,
      Part.rings, Part.events, Part.ledgers, Part.trace, Part.out, Part.freeIx] a0 x3) => ?_) ?_
  (try clear_value x3); refine Only.step ?_ State.jobClosed_only; refine Only.step ?_ State.markStarted_only
  refine Only.step ?_ State.abortStalls_only; exact h3; unfold x3; split; refine Only.step ?_ State.setJob_only
  exact h2; exact h2; unfold x2; refine holds_foldl ?_ fun x4 a4_ h4 => ?_; exact .refl _
  refine Only.step ?_ State.finish_only; exact h4

theorem State.unitFrame_only {a0 a1 a2 a3 a4 a5} :
    Opt (Only [.hubs, .clerk] a0) (State.unitFrame a0 a1 a2 a3 a4 a5) := by
  unfold State.unitFrame; extract_lets +onlyGivenNames x0; (try clear_value x0); extract_lets +onlyGivenNames x1
  (try clear_value x1); extract_lets +onlyGivenNames x2; (try clear_value x2); extract_lets +onlyGivenNames x3
  (try clear_value x3); extract_lets +onlyGivenNames x4; split; refine .ofSome ?_; unfold x4; beta_reduce
  refine Only.step ?_ State.setHub_only; exact .refl _; extract_lets +onlyGivenNames x5; (try clear_value x5)
  refine Opt.map Opt.any fun z6 _ => ?_; refine Only.step ?_ State.clerkOwns_only; unfold x4; beta_reduce
  refine Only.step ?_ State.setHub_only; exact .refl _

theorem State.loadUnits_only {a0 a1 a2 a3 a4} :
    Opt (Only [.hubs, .clerk] a0) (State.loadUnits a0 a1 a2 a3 a4) := by
  unfold State.loadUnits; extract_lets +onlyGivenNames x0; (try clear_value x0); extract_lets +onlyGivenNames x1
  refine (fun (h1 : Only [Part.hubs, Part.clerk] a0 x1) => ?_) ?_; (try clear_value x1)
  refine holds_foldl ?_ fun x2 a2_ h2 => ?_; refine .ofSome ?_; exact h1
  refine Opt.bind (P := (Only [Part.hubs, Part.clerk] a0)) ?_ fun z3 h3 => ?_; exact h2
  refine Only.stepOpt ?_ State.unitFrame_only; exact h3; unfold x1; refine holds_foldl ?_ fun x4 a4_ h4 => ?_
  exact .refl _; refine Only.step ?_ State.setHub_only; exact h4

theorem State.setRings_only {a0 a1 a2 a3 a4} :
    Only [.pages, .stalls] a0 (State.setRings a0 a1 a2 a3 a4) := by
  unfold State.setRings; split; exact .refl _; refine holds_foldl ?_ fun x2 a2_ h2 => ?_; exact .refl _
  refine Only.step ?_ State.setShadow_only; refine Only.step ?_ State.setShadow_only; exact h2

theorem State.loadStalls_only {a0 a1 a2 a3} :
    Only [.pages, .stalls] a0 (State.loadStalls a0 a1 a2 a3) := by
  unfold State.loadStalls; refine holds_foldl ?_ fun x0 a0_ h0 => ?_; exact .refl _; extract_lets +onlyGivenNames x1
  (try clear_value x1); extract_lets +onlyGivenNames x2
  refine (fun (h2 : Only [Part.pages, Part.stalls] a0 x2) => ?_) ?_; (try clear_value x2)
  refine Only.step ?_ State.setRings_only; exact h2; unfold x2; refine holds_foldl ?_ fun x3 a3_ h3 => ?_; exact h0
  refine Only.step ?_ State.setShadow_only; exact h3

theorem State.loadGroups_only {a0 a1 a2 a3} :
    Only [.pages, .stalls, .hubs, .sched, .mem, .marks] a0 (State.loadGroups a0 a1 a2 a3) := by
  unfold State.loadGroups; extract_lets +onlyGivenNames x0; (try clear_value x0); extract_lets +onlyGivenNames x1
  (try clear_value x1); extract_lets +onlyGivenNames x2; (try clear_value x2); extract_lets +onlyGivenNames x3
  refine (fun (h3 : Only [Part.pages, Part.stalls, Part.hubs, Part.sched, Part.mem, Part.marks] a0 x3) => ?_) ?_
  (try clear_value x3); extract_lets +onlyGivenNames x4; (try clear_value x4); extract_lets +onlyGivenNames x5
  refine (fun (h5 : Only [Part.pages, Part.stalls, Part.hubs, Part.sched, Part.mem, Part.marks] a0 x5) => ?_) ?_
  (try clear_value x5); extract_lets +onlyGivenNames x6; (try clear_value x6); extract_lets +onlyGivenNames x7
  refine (fun (h7 : Only [Part.pages, Part.stalls, Part.hubs, Part.sched, Part.mem, Part.marks] a0 x7) => ?_) ?_
  (try clear_value x7); refine holds_foldl ?_ fun x8 a8_ h8 => ?_; exact h7; refine Only.step ?_ State.setHub_only
  exact h8; unfold x7; refine Only.upd ?_; exact h5; unfold x5; refine Only.step ?_ State.setGroupValid_only; exact h3
  unfold x3; refine holds_foldl ?_ fun x9 a9_ h9 => ?_; exact .refl _; refine Only.step ?_ State.putBytes_only
  exact h9

theorem State.jobLoad_only {a0 a1 a2 a3 a4 a5 a6 a7} :
    Only [.boot, .pages, .stalls, .jobs, .hubs, .sched, .mem, .marks, .aisles, .halves, .clerk, .rings, .events, .ledgers,
        .trace, .out, .freeIx] a0 (State.jobLoad a0 a1 a2 a3 a4 a5 a6 a7) := by
  unfold State.jobLoad; split; refine Only.step ?_ State.finish_only; exact .refl _; split
  refine Only.step ?_ State.refuse_only; exact .refl _; extract_lets +onlyGivenNames x0
  refine (fun (h0 : Only [Part.boot, Part.pages, Part.stalls, Part.jobs, Part.hubs, Part.sched, Part.mem, Part.marks,
      Part.aisles, Part.halves, Part.clerk, Part.rings, Part.events, Part.ledgers, Part.trace, Part.out, Part.freeIx] a0 x0)
      => ?_) ?_
  (try clear_value x0); extract_lets +onlyGivenNames x1
  refine (fun (h1 : Only [Part.boot, Part.pages, Part.stalls, Part.jobs, Part.hubs, Part.sched, Part.mem, Part.marks,
      Part.aisles, Part.halves, Part.clerk, Part.rings, Part.events, Part.ledgers, Part.trace, Part.out, Part.freeIx] a0 x1)
      => ?_) ?_
  (try clear_value x1); refine Only.step ?_ State.finish_only; refine Only.step ?_ State.commitStalls_only; exact h1
  unfold x1; refine Only.step ?_ State.setJob_only; exact h0; unfold x0; refine Only.step ?_ State.loadStalls_only
  refine Only.step ?_ State.loadGroups_only; refine Only.step ?_ (State.loadUnits_only _ (by assumption))
  exact .refl _

theorem State.setEntry_only {a0 a1 a2 a3} :
    Only [.pages, .stalls, .mem, .marks] a0 (State.setEntry a0 a1 a2 a3) := by
  unfold State.setEntry; split; refine Only.step ?_ State.putBytes_only; exact .refl _; exact .refl _

theorem State.unmapRange_only {a0 a1 a2 a3} :
    Only [.pages, .stalls, .jobs, .mem, .marks] a0 (State.unmapRange a0 a1 a2 a3) := by
  unfold State.unmapRange; split; exact .refl _; extract_lets +onlyGivenNames x0; (try clear_value x0)
  extract_lets +onlyGivenNames x1
  refine (fun (h1 : Only [Part.pages, Part.stalls, Part.jobs, Part.mem, Part.marks] a0 x1) => ?_) ?_
  (try clear_value x1); refine Only.step ?_ State.setJob_only; exact h1; unfold x1
  refine holds_foldl ?_ fun x2 a2_ h2 => ?_; exact .refl _; refine Only.step ?_ State.setEntry_only; exact h2

theorem State.mapped_only {v : List Part} {r a0 : State} {a1 a2 : Nat} {a3 : Option State} (h : Only v r a0)
    (k : Opt (Only v r) a3)
    (w : [Part.pages, .stalls, .jobs, .hubs, .halves, .clerk, .rings, .events, .ledgers, .trace, .out].all v.contains
      = true := by decide) : Only v r (a0.mapped a1 a2 a3) := by
  unfold State.mapped
  split
  · refine ((k _ rfl).trans (State.invalidateJob_only.mono ?_)).trans (State.finish_only.mono ?_) <;>
    · simp only [List.all_cons, Bool.and_eq_true] at w ⊢
      simp only [w, List.all_nil, and_self]
  · refine h.trans (State.refuse_only.mono ?_)
    simp only [List.all_cons, Bool.and_eq_true] at w ⊢
    simp only [w, List.all_nil, and_self]

theorem State.ownPage_only {a0 a1 a2} :
    Only [.pages, .stalls, .mem, .marks, .halves, .clerk, .rings, .events, .ledgers, .trace, .out] a0 (State.ownPage a0 a1 a2)
        := by
  unfold State.ownPage; refine holds_ite ?_ ?_; exact .refl _; extract_lets +onlyGivenNames x0
  refine (fun (h0 : Only [Part.pages, Part.stalls, Part.mem, Part.marks, Part.halves, Part.clerk, Part.rings, Part.events,
      Part.ledgers, Part.trace, Part.out] a0 x0) => ?_) ?_
  (try clear_value x0); extract_lets +onlyGivenNames x1
  refine (fun (h1 : Only [Part.pages, Part.stalls, Part.mem, Part.marks, Part.halves, Part.clerk, Part.rings, Part.events,
      Part.ledgers, Part.trace, Part.out] a0 x1) => ?_) ?_
  (try clear_value x1); refine Only.upd ?_; exact h1; unfold x1; refine holds_ite ?_ ?_
  refine Only.step ?_ State.charge_only; exact h0; exact h0; unfold x0; refine Only.step ?_ State.zeroFill_only
  exact .refl _

theorem State.mapPage_only {a0 a1 a2} :
    Only [.pages, .stalls, .jobs, .mem, .marks, .halves, .clerk, .rings, .events, .ledgers, .trace, .out] a0 (State.mapPage a0
        a1 a2) := by
  unfold State.mapPage; extract_lets +onlyGivenNames x0
  refine (fun (h0 : Only [Part.pages, Part.stalls, Part.jobs, Part.mem, Part.marks, Part.halves, Part.clerk, Part.rings,
      Part.events, Part.ledgers, Part.trace, Part.out] a0 x0) => ?_) ?_
  (try clear_value x0); split; refine Only.step ?_ State.setJob_only; exact h0; exact h0; unfold x0
  refine Only.step ?_ State.setEntry_only; refine Only.step ?_ State.ownPage_only; exact .refl _

theorem State.newTable_only {a0 a1 a2 a3} :
    Opt (Fst (Only [.pages, .stalls, .mem, .marks, .clerk] a0)) (State.newTable a0 a1 a2 a3) := by
  unfold State.newTable; refine Opt.map Opt.any fun z0 _ => ?_; extract_lets +onlyGivenNames x1
  refine (fun (h1 : Only [Part.pages, Part.stalls, Part.mem, Part.marks, Part.clerk] a0 x1) => ?_) ?_
  (try clear_value x1); change Only _ _ (Prod.fst (_, _)); dsimp only; refine Only.upd ?_; exact h1; unfold x1
  refine Only.step ?_ State.clerkOwns_only; refine Only.step ?_ State.zeroFill_only; exact .refl _

theorem State.rootTable_only {a0 a1 a2 a3} :
    Opt (Fst (Only [.pages, .stalls, .mem, .marks, .clerk] a0)) (State.rootTable a0 a1 a2 a3) := by
  unfold State.rootTable; split; refine .ofSome ?_; change Only _ _ (Prod.fst (_, _)); dsimp only; exact .refl _
  refine Opt.map (P := (Fst (Only [Part.pages, Part.stalls, Part.mem, Part.marks, Part.clerk] a0))) ?_ fun z0 h0 => ?_
  refine Only.stepOptFst ?_ State.newTable_only; exact .refl _; change Only _ _ (Prod.fst (_, _)); dsimp only
  refine Only.step ?_ State.setRoot_only; exact h0

theorem State.needTables_only {a0 a1 a2 a3 a4} :
    Opt (Fst (Only [.pages, .stalls, .mem, .marks, .clerk] a0)) (State.needTables a0 a1 a2 a3 a4) := by
  unfold State.needTables
  refine Opt.bind (P := (Fst (Only [Part.pages, Part.stalls, Part.mem, Part.marks, Part.clerk] a0))) ?_ fun z0 h0 => ?_
  refine Only.stepOptFst ?_ State.rootTable_only; exact .refl _; split; refine .ofSome ?_; exact h0
  refine Opt.map (P := (Fst (Only [Part.pages, Part.stalls, Part.mem, Part.marks, Part.clerk] a0))) ?_ fun z1 h1 => ?_
  refine Only.stepOptFst ?_ State.newTable_only; exact h0; change Only _ _ (Prod.fst (_, _)); dsimp only
  refine Only.step ?_ State.putBytes_only; exact h1

theorem State.mapRange_only {a0 a1 a2 a3 a4 a5 a6 a7 a8 a9} :
    Opt (Only [.pages, .stalls, .jobs, .mem, .marks, .halves, .clerk, .rings, .events, .ledgers, .trace, .out] a0)
        (State.mapRange a0 a1 a2 a3 a4 a5 a6 a7 a8 a9) := by
  unfold State.mapRange; extract_lets +onlyGivenNames x0
  refine (fun (h0 : Only [Part.pages, Part.stalls, Part.jobs, Part.mem, Part.marks, Part.halves, Part.clerk, Part.rings,
      Part.events, Part.ledgers, Part.trace, Part.out] a0 x0) => ?_) ?_
  (try clear_value x0); refine Opt.bind Opt.any fun z1 _ => ?_
  refine Opt.map (P := (Fst (Only [Part.pages, Part.stalls, Part.jobs, Part.mem, Part.marks, Part.halves, Part.clerk,
      Part.rings, Part.events, Part.ledgers, Part.trace, Part.out] a0))) ?_ fun z2 h2 => ?_
  refine holds_foldl ?_ fun x3 a3_ h3 => ?_; refine .ofSome ?_; exact h0
  refine Opt.bind (P := (Fst (Only [Part.pages, Part.stalls, Part.jobs, Part.mem, Part.marks, Part.halves, Part.clerk,
      Part.rings, Part.events, Part.ledgers, Part.trace, Part.out] a0))) ?_ fun z4 h4 => ?_
  exact h3
  refine Opt.map (P := (Fst (Only [Part.pages, Part.stalls, Part.jobs, Part.mem, Part.marks, Part.halves, Part.clerk,
      Part.rings, Part.events, Part.ledgers, Part.trace, Part.out] a0))) ?_ fun z5 h5 => ?_
  refine Only.stepOptFst ?_ State.needTables_only; exact h4; change Only _ _ (Prod.fst (_, _)); dsimp only
  refine Only.step ?_ State.mapPage_only; exact h5; exact h2; unfold x0; refine Only.step ?_ State.unmapRange_only
  exact .refl _

theorem State.jobMap_only {a0 a1 a2 a3 a4 a5 a6} :
Only [.pages, .stalls, .jobs, .hubs, .mem, .marks, .halves, .clerk, .rings, .events, .ledgers, .trace, .out] a0
      (State.jobMap a0 a1 a2 a3 a4 a5 a6) := by
  unfold State.jobMap; extract_lets +onlyGivenNames x0; (try clear_value x0); extract_lets +onlyGivenNames x1
  (try clear_value x1); extract_lets +onlyGivenNames x2; (try clear_value x2); extract_lets +onlyGivenNames x3
  (try clear_value x3); extract_lets +onlyGivenNames x4; (try clear_value x4); refine holds_ite ?_ ?_
  refine Only.step ?_ State.refuse_only; exact .refl _; refine holds_ite ?_ ?_; refine Only.step ?_ State.finish_only
  refine Only.step ?_ State.invalidateJob_only; refine Only.step ?_ State.unmapRange_only; exact .refl _
  refine holds_ite ?_ ?_; refine State.mapped_only ?_ ?_; exact .refl _; refine Only.stepOpt ?_ State.mapRange_only
  exact .refl _; split; refine Only.step ?_ State.refuse_only; exact .refl _; extract_lets +onlyGivenNames x21
  (try clear_value x21); extract_lets +onlyGivenNames x22; (try clear_value x22); refine holds_ite ?_ ?_
  refine Only.step ?_ State.refuse_only; exact .refl _; refine holds_ite ?_ ?_; refine Only.step ?_ State.refuse_only
  exact .refl _; refine State.mapped_only ?_ ?_; exact .refl _; refine Only.stepOpt ?_ State.mapRange_only
  exact .refl _

theorem State.loseHalf_only {a0 a1} :
    Only [.boot, .pages, .stalls, .jobs, .hubs, .arbs, .aisles, .halves, .clerk, .rings, .events, .ledgers, .trace, .out,
        .freeIx] a0 (State.loseHalf a0 a1) := by
  unfold State.loseHalf; extract_lets +onlyGivenNames x0; (try clear_value x0); extract_lets +onlyGivenNames x1
  refine (fun (h1 : Only [Part.boot, Part.pages, Part.stalls, Part.jobs, Part.hubs, Part.arbs, Part.aisles, Part.halves,
      Part.clerk, Part.rings, Part.events, Part.ledgers, Part.trace, Part.out, Part.freeIx] a0 x1) => ?_) ?_
  (try clear_value x1); extract_lets +onlyGivenNames x2
  refine (fun (h2 : Only [Part.boot, Part.pages, Part.stalls, Part.jobs, Part.hubs, Part.arbs, Part.aisles, Part.halves,
      Part.clerk, Part.rings, Part.events, Part.ledgers, Part.trace, Part.out, Part.freeIx] a0 x2) => ?_) ?_
  (try clear_value x2); refine Only.step ?_ State.raise_only; exact h2; unfold x2
  refine holds_foldl ?_ fun x3 a3_ h3 => ?_; exact h1; refine Only.step ?_ State.sendSlot_only; exact h3; unfold x1
  refine Only.step ?_ State.freeOutput_only; refine Only.step ?_ State.setHalf_only; exact .refl _

theorem State.mapSpares_only {a0 a1 a2 a3} :
    Only [.stalls] a0 (State.mapSpares a0 a1 a2 a3) := by
  unfold State.mapSpares; extract_lets +onlyGivenNames x0; (try clear_value x0)
  refine Only.step ?_ State.setStall_only; exact .refl _

theorem State.setOwners_only {a0 a1 a2 a3} :
    Only [.pages, .stalls] a0 (State.setOwners a0 a1 a2 a3) := by
  unfold State.setOwners; refine holds_foldl ?_ fun x0 a0_ h0 => ?_; exact .refl _; extract_lets +onlyGivenNames x2
  (try clear_value x2); extract_lets +onlyGivenNames x3; (try clear_value x3)
  refine Only.step ?_ State.setShadow_only; exact h0

theorem State.takeStall_only {a0 a1 a2 a3 a4} :
    Only [.pages, .stalls] a0 (State.takeStall a0 a1 a2 a3 a4) := by
  unfold State.takeStall; split; exact .refl _; split; exact .refl _; extract_lets +onlyGivenNames x0
  refine (fun (h0 : Only [Part.pages, Part.stalls] a0 x0) => ?_) ?_; (try clear_value x0)
  extract_lets +onlyGivenNames x1; refine (fun (h1 : Only [Part.pages, Part.stalls] a0 x1) => ?_) ?_
  (try clear_value x1); extract_lets +onlyGivenNames x2
  refine (fun (h2 : Only [Part.pages, Part.stalls] a0 x2) => ?_) ?_; (try clear_value x2)
  extract_lets +onlyGivenNames x3; refine (fun (h3 : Only [Part.pages, Part.stalls] a0 x3) => ?_) ?_
  (try clear_value x3); extract_lets +onlyGivenNames x4
  refine (fun (h4 : Only [Part.pages, Part.stalls] a0 x4) => ?_) ?_; (try clear_value x4); split
  refine Only.step ?_ State.setRings_only; refine Only.step ?_ State.setShadow_only; exact h4; exact h4; unfold x4
  refine holds_ite ?_ ?_; exact h3; refine Only.step ?_ State.giveRota_only; exact h3; unfold x3
  refine Only.step ?_ State.setOwners_only; exact h2; unfold x2; refine holds_ite ?_ ?_; exact h1
  refine Only.step ?_ State.setShadow_only; exact h1; unfold x1; refine Only.step ?_ State.setShadow_only; exact h0
  unfold x0; refine Only.step ?_ State.setShadow_only; exact .refl _

theorem State.moveHalls_only {a0 a1 a2 a3} :
    Opt (Only [.pages, .stalls, .jobs, .hubs, .mem, .marks, .halves, .clerk, .rings, .events, .ledgers, .trace, .out] a0)
        (State.moveHalls a0 a1 a2 a3) := by
  unfold State.moveHalls; split; refine .ofSome ?_; exact .refl _; extract_lets +onlyGivenNames x0
  (try clear_value x0)
  refine Opt.map (P := (Fst (Only [Part.pages, Part.stalls, Part.jobs, Part.hubs, Part.mem, Part.marks, Part.halves,
      Part.clerk, Part.rings, Part.events, Part.ledgers, Part.trace, Part.out] a0))) ?_ fun z1 h1 => ?_
  refine holds_foldl ?_ fun x2 a2_ h2 => ?_; refine .ofSome ?_; change Only _ _ (Prod.fst (_, _)); dsimp only
  exact .refl _
  refine Opt.bind (P := (Fst (Only [Part.pages, Part.stalls, Part.jobs, Part.hubs, Part.mem, Part.marks, Part.halves,
      Part.clerk, Part.rings, Part.events, Part.ledgers, Part.trace, Part.out] a0))) ?_ fun z3 h3 => ?_
  exact h2; split; refine .ofSome ?_; exact h3; extract_lets +onlyGivenNames x4
  refine (fun (h4 : Only [Part.pages, Part.stalls, Part.jobs, Part.hubs, Part.mem, Part.marks, Part.halves, Part.clerk,
      Part.rings, Part.events, Part.ledgers, Part.trace, Part.out] a0 x4) => ?_) ?_
  (try clear_value x4); refine Opt.bind Opt.any fun z5 _ => ?_; split; refine .ofSome ?_
  change Only _ _ (Prod.fst (_, _)); dsimp only; refine Only.step ?_ State.mapPage_only
  refine Only.step ?_ State.zeroFill_only; exact h4; exact .ofNone; unfold x4
  refine Only.step ?_ State.unmapRange_only; exact h3; refine Only.step ?_ State.invalidateJob_only; exact h1

theorem State.movePitch_only {a0 a1 a2 a3 a4 a5 a6} :
    Opt (Only [.boot, .pages, .stalls, .jobs, .hubs, .mem, .marks, .aisles, .halves, .clerk, .rings, .events, .ledgers,
        .trace, .out, .freeIx] a0) (State.movePitch a0 a1 a2 a3 a4 a5 a6) := by
  unfold State.movePitch; split; exact .ofNone; split; exact .ofNone; extract_lets +onlyGivenNames x0
  (try clear_value x0); extract_lets +onlyGivenNames x1; (try clear_value x1); extract_lets +onlyGivenNames x2
  (try clear_value x2); extract_lets +onlyGivenNames x3
  refine (fun (h3 : Only [Part.boot, Part.pages, Part.stalls, Part.jobs, Part.hubs, Part.mem, Part.marks, Part.aisles,
      Part.halves, Part.clerk, Part.rings, Part.events, Part.ledgers, Part.trace, Part.out, Part.freeIx] a0 x3) => ?_) ?_
  (try clear_value x3); extract_lets +onlyGivenNames x4; (try clear_value x4); extract_lets +onlyGivenNames x5
  refine (fun (h5 : Only [Part.boot, Part.pages, Part.stalls, Part.jobs, Part.hubs, Part.mem, Part.marks, Part.aisles,
      Part.halves, Part.clerk, Part.rings, Part.events, Part.ledgers, Part.trace, Part.out, Part.freeIx] a0 x5) => ?_) ?_
  (try clear_value x5); refine holds_ite ?_ ?_; exact .ofNone; extract_lets +onlyGivenNames x6; (try clear_value x6)
  extract_lets +onlyGivenNames x7
  refine (fun (h7 : Only [Part.boot, Part.pages, Part.stalls, Part.jobs, Part.hubs, Part.mem, Part.marks, Part.aisles,
      Part.halves, Part.clerk, Part.rings, Part.events, Part.ledgers, Part.trace, Part.out, Part.freeIx] a0 x7) => ?_) ?_
  (try clear_value x7); extract_lets +onlyGivenNames x8; (try clear_value x8); refine Opt.bind Opt.any fun z9 _ => ?_
  extract_lets +onlyGivenNames x10; (try clear_value x10); extract_lets +onlyGivenNames x11
  refine (fun (h11 : Only [Part.boot, Part.pages, Part.stalls, Part.jobs, Part.hubs, Part.mem, Part.marks, Part.aisles,
      Part.halves, Part.clerk, Part.rings, Part.events, Part.ledgers, Part.trace, Part.out, Part.freeIx] a0 x11) => ?_) ?_
  (try clear_value x11); extract_lets +onlyGivenNames x12
  refine (fun (h12 : Only [Part.boot, Part.pages, Part.stalls, Part.jobs, Part.hubs, Part.mem, Part.marks, Part.aisles,
      Part.halves, Part.clerk, Part.rings, Part.events, Part.ledgers, Part.trace, Part.out, Part.freeIx] a0 x12) => ?_) ?_
  (try clear_value x12)
  refine Opt.map (P := (Only [Part.boot, Part.pages, Part.stalls, Part.jobs, Part.hubs, Part.mem, Part.marks, Part.aisles,
      Part.halves, Part.clerk, Part.rings, Part.events, Part.ledgers, Part.trace, Part.out, Part.freeIx] a0)) ?_ fun z13 h13
      => ?_
  refine Only.stepOpt ?_ State.moveHalls_only; exact h12; extract_lets +onlyGivenNames x14
  refine (fun (h14 : Only [Part.boot, Part.pages, Part.stalls, Part.jobs, Part.hubs, Part.mem, Part.marks, Part.aisles,
      Part.halves, Part.clerk, Part.rings, Part.events, Part.ledgers, Part.trace, Part.out, Part.freeIx] a0 x14) => ?_) ?_
  (try clear_value x14); extract_lets +onlyGivenNames x15
  refine (fun (h15 : Only [Part.boot, Part.pages, Part.stalls, Part.jobs, Part.hubs, Part.mem, Part.marks, Part.aisles,
      Part.halves, Part.clerk, Part.rings, Part.events, Part.ledgers, Part.trace, Part.out, Part.freeIx] a0 x15) => ?_) ?_
  (try clear_value x15); extract_lets +onlyGivenNames x16; (try clear_value x16); refine Only.step ?_ State.raise_only
  exact h15; unfold x15; refine Only.step ?_ State.count_only; refine Only.step ?_ State.charge_only; exact h14
  unfold x14; refine Only.step ?_ State.writeArbRotas_only; refine Only.step ?_ State.commitStalls_only; exact h13
  unfold x12; refine holds_foldl ?_ fun x17 a17_ h17 => ?_; exact h11; refine Only.step ?_ State.takeStall_only
  exact h17; unfold x11; refine Only.step ?_ State.setJob_only; exact h7; unfold x7
  refine Only.step ?_ State.setJob_only; exact h5; unfold x5; refine Only.step ?_ State.setJob_only; exact h3
  unfold x3; refine holds_foldl ?_ fun x18 a18_ h18 => ?_; exact .refl _; refine Only.step ?_ State.leaveStall_only
  exact h18

theorem State.moveFenced_only {a0 a1 a2} :
    Opt (Only [.boot, .pages, .stalls, .jobs, .hubs, .mem, .marks, .aisles, .halves, .clerk, .rings, .events, .ledgers,
        .trace, .out, .freeIx] a0) (State.moveFenced a0 a1 a2) := by
  unfold State.moveFenced; split; refine .ofSome ?_; exact .refl _; refine holds_foldl ?_ fun x0 a0_ h0 => ?_
  refine .ofSome ?_; exact .refl _
  refine Opt.bind (P := (Only [Part.boot, Part.pages, Part.stalls, Part.jobs, Part.hubs, Part.mem, Part.marks, Part.aisles,
      Part.halves, Part.clerk, Part.rings, Part.events, Part.ledgers, Part.trace, Part.out, Part.freeIx] a0)) ?_ fun z1 h1 => ?_
  exact h0; refine holds_ite ?_ ?_; refine .ofSome ?_; exact h1; extract_lets +onlyGivenNames x2; (try clear_value x2)
  refine Only.stepOpt ?_ State.movePitch_only; exact h1

theorem State.nakHalf_only {a0 a1 a2} :
    Only [.halves] a0 (State.nakHalf a0 a1 a2) := by
  unfold State.nakHalf; extract_lets +onlyGivenNames x0; (try clear_value x0); refine holds_ite ?_ ?_; exact .refl _
  refine Only.step ?_ State.setHalf_only; exact .refl _

theorem State.nextPrimary_only {a0 a1} :
    Only [.boot, .pages, .stalls, .jobs, .hubs, .aisles, .halves, .clerk, .rings, .events, .ledgers, .trace, .out, .freeIx] a0
        (State.nextPrimary a0 a1) := by
  unfold State.nextPrimary; extract_lets +onlyGivenNames x0; (try clear_value x0); split; refine Only.upd ?_
  exact .refl _; refine Only.step ?_ State.raise_only; refine Only.upd ?_; exact .refl _

theorem State.reject_only {a0 a1 a2 a3 a4} :
    Only [.boot, .pages, .stalls, .jobs, .hubs, .aisles, .halves, .clerk, .rings, .events, .ledgers, .trace, .out, .freeIx] a0
        (State.reject a0 a1 a2 a3 a4) := by
  unfold State.reject; refine Only.step ?_ State.finish_only; refine Only.step ?_ State.countRefusal_only
  refine Only.step ?_ State.raise_only; exact .refl _

theorem State.placeJob_only {a0 a1} :
    Only [.pages, .stalls] a0 (State.placeJob a0 a1) := by
  unfold State.placeJob; split; exact .refl _; refine holds_foldl ?_ fun x0 a0_ h0 => ?_; exact .refl _
  refine Only.step ?_ State.takeStall_only; exact h0

theorem State.takeJob_only {a0 a1 a2 a3 a4 a5 a6} :
    Only [.boot, .pages, .stalls, .jobs, .hubs, .aisles, .halves, .clerk, .rings, .events, .ledgers, .trace, .out, .freeIx] a0
        (State.takeJob a0 a1 a2 a3 a4 a5 a6) := by
  unfold State.takeJob; extract_lets +onlyGivenNames x0; (try clear_value x0); extract_lets +onlyGivenNames x1
  refine (fun (h1 : Only [Part.boot, Part.pages, Part.stalls, Part.jobs, Part.hubs, Part.aisles, Part.halves, Part.clerk,
      Part.rings, Part.events, Part.ledgers, Part.trace, Part.out, Part.freeIx] a0 x1) => ?_) ?_
  (try clear_value x1); extract_lets +onlyGivenNames x2; (try clear_value x2); extract_lets +onlyGivenNames x3
  refine (fun (h3 : Only [Part.boot, Part.pages, Part.stalls, Part.jobs, Part.hubs, Part.aisles, Part.halves, Part.clerk,
      Part.rings, Part.events, Part.ledgers, Part.trace, Part.out, Part.freeIx] a0 x3) => ?_) ?_
  (try clear_value x3); extract_lets +onlyGivenNames x4; (try clear_value x4); extract_lets +onlyGivenNames x5
  refine (fun (h5 : Only [Part.boot, Part.pages, Part.stalls, Part.jobs, Part.hubs, Part.aisles, Part.halves, Part.clerk,
      Part.rings, Part.events, Part.ledgers, Part.trace, Part.out, Part.freeIx] a0 x5) => ?_) ?_
  (try clear_value x5); extract_lets +onlyGivenNames x6
  refine (fun (h6 : Only [Part.boot, Part.pages, Part.stalls, Part.jobs, Part.hubs, Part.aisles, Part.halves, Part.clerk,
      Part.rings, Part.events, Part.ledgers, Part.trace, Part.out, Part.freeIx] a0 x6) => ?_) ?_
  (try clear_value x6); refine Only.step ?_ State.finish_only; exact h6; unfold x6
  refine Only.step ?_ State.count_only; refine Only.step ?_ State.refloor_only
  refine Only.step ?_ State.writeArbRotas_only; refine Only.step ?_ State.placeJob_only; exact h5; unfold x5
  refine Only.step ?_ State.setPage_only; exact h3; unfold x3; refine Only.step ?_ State.setLedger_only; exact h1
  unfold x1; refine Only.step ?_ State.setJob_only; exact .refl _

theorem State.openJob_only {a0 a1 a2 a3 a4 a5} :
    Only [.boot, .pages, .stalls, .jobs, .hubs, .aisles, .halves, .clerk, .rings, .events, .ledgers, .trace, .out, .freeIx] a0
        (State.openJob a0 a1 a2 a3 a4 a5) := by
  unfold State.openJob; extract_lets +onlyGivenNames x0; (try clear_value x0); extract_lets +onlyGivenNames x1
  (try clear_value x1); refine holds_ite ?_ ?_; refine Only.step ?_ State.finish_only
  refine Only.step ?_ State.countRefusal_only; exact .refl _; split; refine Only.step ?_ State.finish_only
  refine Only.step ?_ State.countRefusal_only; exact .refl _; refine holds_ite ?_ ?_
  refine Only.step ?_ State.finish_only; refine Only.step ?_ State.countRefusal_only; exact .refl _
  refine holds_ite ?_ ?_; refine Only.step ?_ State.reject_only; exact .refl _; split
  refine Only.step ?_ State.reject_only; exact .refl _; refine holds_ite ?_ ?_; refine Only.step ?_ State.reject_only
  exact .refl _; split; refine Only.step ?_ State.reject_only; exact .refl _; refine holds_ite ?_ ?_
  refine Only.step ?_ State.reject_only; exact .refl _; refine Only.step ?_ State.takeJob_only; exact .refl _

theorem State.placeTable_only {a0} :
    Only [.pages, .stalls] a0 (State.placeTable a0) := by
  unfold State.placeTable; extract_lets +onlyGivenNames x0; (try clear_value x0); extract_lets +onlyGivenNames x1
  (try clear_value x1); extract_lets +onlyGivenNames x2; (try clear_value x2); refine Only.step ?_ State.setPage_only
  exact .refl _

theorem State.takeRepeat_only {a0 a1} :
    Only [.boot, .pages, .stalls, .jobs, .hubs, .aisles, .halves, .clerk, .rings, .events, .ledgers, .trace, .out, .freeIx] a0
        (State.takeRepeat a0 a1) := by
  unfold State.takeRepeat; extract_lets +onlyGivenNames x0; (try clear_value x0); extract_lets +onlyGivenNames x1
  refine (fun (h1 : Only [Part.boot, Part.pages, Part.stalls, Part.jobs, Part.hubs, Part.aisles, Part.halves, Part.clerk,
      Part.rings, Part.events, Part.ledgers, Part.trace, Part.out, Part.freeIx] a0 x1) => ?_) ?_
  (try clear_value x1); refine holds_ite ?_ ?_; refine Only.upd ?_; exact h1; split
  refine Only.step ?_ State.writeCompletion_only; exact h1; refine Only.step ?_ State.writeCompletion_only; exact h1
  unfold x1; refine Only.step ?_ State.raise_only; exact .refl _

theorem State.takeOne_only {a0 a1} :
    Only [.boot, .pages, .stalls, .jobs, .hubs, .aisles, .halves, .clerk, .rings, .events, .ledgers, .trace, .out, .freeIx] a0
        (State.takeOne a0 a1) := by
  unfold State.takeOne; extract_lets +onlyGivenNames x0; (try clear_value x0); extract_lets +onlyGivenNames x1
  refine (fun (h1 : Only [Part.boot, Part.pages, Part.stalls, Part.jobs, Part.hubs, Part.aisles, Part.halves, Part.clerk,
      Part.rings, Part.events, Part.ledgers, Part.trace, Part.out, Part.freeIx] a0 x1) => ?_) ?_
  (try clear_value x1); extract_lets +onlyGivenNames x2
  refine (fun (h2 : Only [Part.boot, Part.pages, Part.stalls, Part.jobs, Part.hubs, Part.aisles, Part.halves, Part.clerk,
      Part.rings, Part.events, Part.ledgers, Part.trace, Part.out, Part.freeIx] a0 x2) => ?_) ?_
  (try clear_value x2); refine holds_ite ?_ ?_; refine Only.step ?_ State.writeCompletion_only
  refine Only.step ?_ State.raise_only; exact h2; refine holds_ite ?_ ?_; refine Only.step ?_ State.takeRepeat_only
  exact h2; refine Only.upd ?_; exact h2; unfold x2; refine Only.step ?_ State.count_only; exact h1; unfold x1
  refine Only.upd ?_; exact .refl _

theorem State.takeDescs_only {a0 a1 a2} :
    Only [.boot, .pages, .stalls, .jobs, .hubs, .aisles, .halves, .clerk, .rings, .events, .ledgers, .trace, .out, .freeIx] a0
        (State.takeDescs a0 a1 a2) := by
  induction a2 generalizing a0 a1 with
  | nil =>
    unfold State.takeDescs; exact .refl _
  | cons d r ih =>
    unfold State.takeDescs; extract_lets +onlyGivenNames x0; (try clear_value x0); refine holds_ite ?_ ?_
    extract_lets +onlyGivenNames x1; (try clear_value x1); refine Only.step ?_ ih
    refine Only.step ?_ State.takeOne_only; refine Only.step ?_ State.request_only
    refine Only.step ?_ State.request_only; exact .refl _; exact .refl _

theorem State.readDoor_only {a0 a1 a2} :
    Only [.boot, .pages, .stalls, .jobs, .hubs, .aisles, .halves, .clerk, .rings, .events, .ledgers, .trace, .out, .freeIx] a0
        (State.readDoor a0 a1 a2) := by
  unfold State.readDoor; refine holds_ite ?_ ?_; exact .refl _; extract_lets +onlyGivenNames x0; (try clear_value x0)
  extract_lets +onlyGivenNames x1; (try clear_value x1); extract_lets +onlyGivenNames x2; (try clear_value x2)
  extract_lets +onlyGivenNames x3
  refine (fun (h3 : Only [Part.boot, Part.pages, Part.stalls, Part.jobs, Part.hubs, Part.aisles, Part.halves, Part.clerk,
      Part.rings, Part.events, Part.ledgers, Part.trace, Part.out, Part.freeIx] a0 x3) => ?_) ?_
  (try clear_value x3); extract_lets +onlyGivenNames x4; (try clear_value x4); extract_lets +onlyGivenNames x5
  (try clear_value x5); extract_lets +onlyGivenNames x6
  refine (fun (h6 : Only [Part.boot, Part.pages, Part.stalls, Part.jobs, Part.hubs, Part.aisles, Part.halves, Part.clerk,
      Part.rings, Part.events, Part.ledgers, Part.trace, Part.out, Part.freeIx] a0 x6) => ?_) ?_
  (try clear_value x6); extract_lets +onlyGivenNames x7
  refine (fun (h7 : Only [Part.boot, Part.pages, Part.stalls, Part.jobs, Part.hubs, Part.aisles, Part.halves, Part.clerk,
      Part.rings, Part.events, Part.ledgers, Part.trace, Part.out, Part.freeIx] a0 x7) => ?_) ?_
  (try clear_value x7); refine holds_ite ?_ ?_; refine Only.step ?_ State.post_only; exact h7
  refine Only.step ?_ State.post_only; refine Only.step ?_ State.writeStatus_only; exact h7; unfold x7
  refine Only.step ?_ State.takeDescs_only; exact h6; unfold x6; refine Only.upd ?_; exact h3; unfold x3
  refine holds_ite ?_ ?_; exact .refl _; refine holds_ite ?_ ?_; refine Only.step ?_ State.cacheLine_only
  refine Only.step ?_ State.request_only; exact .refl _; refine Only.step ?_ State.request_only; exact .refl _

theorem State.respond_only {a0 a1 a2 a3 a4 a5} :
    Only [.halves] a0 (State.respond a0 a1 a2 a3 a4 a5) := by
  unfold State.respond; refine Only.step ?_ State.sendSlot_only; exact .refl _

theorem State.readHbm_only {a0 a1 a2 a3 a4 a5 a6} :
    Only [.pages, .stalls, .halves, .rings, .events, .ledgers, .trace, .out] a0 (State.readHbm a0 a1 a2 a3 a4 a5 a6) := by
  unfold State.readHbm; extract_lets +onlyGivenNames x0; (try clear_value x0); extract_lets +onlyGivenNames x1
  (try clear_value x1); extract_lets +onlyGivenNames x2; (try clear_value x2); extract_lets +onlyGivenNames x3
  (try clear_value x3); extract_lets +onlyGivenNames x4
  refine (fun (h4 : Only [Part.pages, Part.stalls, Part.halves, Part.rings, Part.events, Part.ledgers, Part.trace, Part.out]
      a0 x4) => ?_) ?_
  (try clear_value x4); extract_lets +onlyGivenNames x5
  refine (fun (h5 : Only [Part.pages, Part.stalls, Part.halves, Part.rings, Part.events, Part.ledgers, Part.trace, Part.out]
      a0 x5) => ?_) ?_
  (try clear_value x5); extract_lets +onlyGivenNames x6
  refine (fun (h6 : Only [Part.pages, Part.stalls, Part.halves, Part.rings, Part.events, Part.ledgers, Part.trace, Part.out]
      a0 x6) => ?_) ?_
  (try clear_value x6); refine Only.step ?_ State.respond_only; refine Only.step ?_ State.charge_only; exact h6
  unfold x6; refine holds_ite ?_ ?_; refine Only.step ?_ State.countHbm_only; refine Only.step ?_ State.countHbm_only
  refine Only.step ?_ State.countHbm_only; exact h5; exact h5; unfold x5; refine Only.step ?_ State.countHbm_only
  exact h4; unfold x4; refine Only.step ?_ State.countHbm_only; refine holds_foldl ?_ fun x7 a7_ h7 => ?_
  exact .refl _; refine Only.step ?_ State.countHbm_only; exact h7

theorem State.readWindow_only {a0 a1 a2} :
    Snd (Only [.boot, .time, .bell, .pages, .latches, .stalls, .jobs, .hubs, .aisles, .halves, .clerk, .rings, .events,
        .ledgers, .trace, .out, .freeIx] a0) (State.readWindow a0 a1 a2) := by
  unfold State.readWindow; refine holds_foldl ?_ fun x0 a0_ h0 => ?_; change Only _ _ (Prod.snd (_, _)); dsimp only
  exact .refl _; extract_lets +onlyGivenNames x1
  refine (fun (h1 : Snd (Only [Part.boot, Part.time, Part.bell, Part.pages, Part.latches, Part.stalls, Part.jobs, Part.hubs,
      Part.aisles, Part.halves, Part.clerk, Part.rings, Part.events, Part.ledgers, Part.trace, Part.out, Part.freeIx] a0) x1)
      => ?_) ?_
  (try clear_value x1); exact h1; unfold x1; refine Only.stepSnd ?_ State.readWord_only; exact h0

theorem State.reconcile_only {a0 a1 a2 a3} :
    Only [.pages, .stalls, .halves, .rings, .events, .ledgers, .power, .trace, .out, .freeIx] a0 (State.reconcile a0 a1 a2 a3)
        := by
  unfold State.reconcile; extract_lets +onlyGivenNames x0; (try clear_value x0); extract_lets +onlyGivenNames x1
  (try clear_value x1); extract_lets +onlyGivenNames x2; (try clear_value x2); extract_lets +onlyGivenNames x3
  refine (fun (h3 : Only [Part.pages, Part.stalls, Part.halves, Part.rings, Part.events, Part.ledgers, Part.power, Part.trace,
      Part.out, Part.freeIx] a0 x3) => ?_) ?_
  (try clear_value x3); extract_lets +onlyGivenNames x4; (try clear_value x4); extract_lets +onlyGivenNames x5
  refine (fun (h5 : Only [Part.pages, Part.stalls, Part.halves, Part.rings, Part.events, Part.ledgers, Part.power, Part.trace,
      Part.out, Part.freeIx] a0 x5) => ?_) ?_
  (try clear_value x5); extract_lets +onlyGivenNames x6
  refine (fun (h6 : Only [Part.pages, Part.stalls, Part.halves, Part.rings, Part.events, Part.ledgers, Part.power, Part.trace,
      Part.out, Part.freeIx] a0 x6) => ?_) ?_
  (try clear_value x6); refine Only.step ?_ State.count_only; refine Only.step ?_ State.count_only; exact h6
  unfold x6; refine Only.upd ?_; exact h5; unfold x5; refine Only.step ?_ State.chargeEnergy_only; exact h3; unfold x3
  refine Only.upd ?_; exact .refl _

theorem State.refreshDog_only {a0} :
    Only [.pages, .stalls, .clerk] a0 (State.refreshDog a0) := by
  unfold State.refreshDog; refine holds_ite ?_ ?_; exact .refl _; refine Only.step ?_ State.count_only
  refine Only.upd ?_; exact .refl _

theorem State.refuseAccess_only {a0 a1 a2 a3} :
    Only [.pages, .stalls, .halves] a0 (State.refuseAccess a0 a1 a2 a3) := by
  unfold State.refuseAccess; refine Only.step ?_ State.respond_only; refine Only.step ?_ State.count_only
  exact .refl _

theorem State.release_only {a0} :
    Only [.pins] a0 (State.release a0) := by
  unfold State.release; refine Only.updPins ?_; exact .refl _

theorem State.replayHalf_only {a0 a1 a2} :
    Only [.boot, .pages, .stalls, .jobs, .hubs, .arbs, .aisles, .halves, .clerk, .rings, .events, .ledgers, .trace, .out,
        .freeIx] a0 (State.replayHalf a0 a1 a2) := by
  unfold State.replayHalf; extract_lets +onlyGivenNames x0; (try clear_value x0); refine holds_ite ?_ ?_
  exact .refl _; refine holds_ite ?_ ?_; refine Only.step ?_ State.loseHalf_only; exact .refl _
  extract_lets +onlyGivenNames x1; (try clear_value x1); extract_lets +onlyGivenNames x2
  refine (fun (h2 : Only [Part.boot, Part.pages, Part.stalls, Part.jobs, Part.hubs, Part.arbs, Part.aisles, Part.halves,
      Part.clerk, Part.rings, Part.events, Part.ledgers, Part.trace, Part.out, Part.freeIx] a0 x2) => ?_) ?_
  (try clear_value x2); extract_lets +onlyGivenNames x3
  refine (fun (h3 : Only [Part.boot, Part.pages, Part.stalls, Part.jobs, Part.hubs, Part.arbs, Part.aisles, Part.halves,
      Part.clerk, Part.rings, Part.events, Part.ledgers, Part.trace, Part.out, Part.freeIx] a0 x3) => ?_) ?_
  (try clear_value x3); refine Only.step ?_ State.occupy_only; refine Only.step ?_ State.count_only; exact h3
  unfold x3; refine holds_foldl ?_ fun x4 a4_ h4 => ?_; exact h2; refine Only.step ?_ State.emit_only; exact h4
  unfold x2; refine Only.step ?_ State.setHalf_only; exact .refl _

theorem State.rerunStep_only {a0 a1 a2 a3} :
    Only [.pins, .boot, .time, .bell, .pages, .stalls, .jobs, .hubs, .sched, .arbs, .aisles, .halves, .clerk, .rings, .events,
        .ledgers, .trace, .out, .freeIx] a0 (State.rerunStep a0 a1 a2 a3) := by
  unfold State.rerunStep; split; exact .refl _; split; exact .refl _; split; exact .refl _; refine holds_ite ?_ ?_
  exact .refl _; split; exact .refl _; extract_lets +onlyGivenNames x0
  refine (fun (h0 : Only [Part.pins, Part.boot, Part.time, Part.bell, Part.pages, Part.stalls, Part.jobs, Part.hubs,
      Part.sched, Part.arbs, Part.aisles, Part.halves, Part.clerk, Part.rings, Part.events, Part.ledgers, Part.trace,
      Part.out, Part.freeIx] a0 x0) => ?_) ?_
  (try clear_value x0); refine Only.step ?_ State.raise_only; exact h0; unfold x0; refine Only.step ?_ State.go_only
  refine Only.step ?_ State.armStalls_only; exact .refl _

theorem State.restart_only {a0} :
Only [.pins, .boot, .time, .bell, .pages, .latches, .stalls, .jobs, .hubs, .sched, .mem, .marks, .outStacks, .chans,
      .arbs, .aisles, .halves, .clerk, .rings, .events, .ledgers, .power, .trace] a0 (State.restart a0) := by
  intro p
  cases p <;> first | exact fun _ => rfl | exact fun h => absurd h (by decide)

theorem State.restoreSteps_only {a0 a1 a2} :
    Only [.boot, .pages, .stalls, .jobs, .hubs, .mem, .marks, .aisles, .halves, .clerk, .rings, .events, .ledgers, .trace,
        .out, .freeIx] a0 (State.restoreSteps a0 a1 a2) := by
  unfold State.restoreSteps; split; exact .refl _; extract_lets +onlyGivenNames x0; (try clear_value x0)
  refine holds_ite ?_ ?_; exact .refl _; extract_lets +onlyGivenNames x1
  refine (fun (h1 : Only [Part.boot, Part.pages, Part.stalls, Part.jobs, Part.hubs, Part.mem, Part.marks, Part.aisles,
      Part.halves, Part.clerk, Part.rings, Part.events, Part.ledgers, Part.trace, Part.out, Part.freeIx] a0 x1) => ?_) ?_
  (try clear_value x1); extract_lets +onlyGivenNames x2
  refine (fun (h2 : Only [Part.boot, Part.pages, Part.stalls, Part.jobs, Part.hubs, Part.mem, Part.marks, Part.aisles,
      Part.halves, Part.clerk, Part.rings, Part.events, Part.ledgers, Part.trace, Part.out, Part.freeIx] a0 x2) => ?_) ?_
  (try clear_value x2); extract_lets +onlyGivenNames x3
  refine (fun (h3 : Only [Part.boot, Part.pages, Part.stalls, Part.jobs, Part.hubs, Part.mem, Part.marks, Part.aisles,
      Part.halves, Part.clerk, Part.rings, Part.events, Part.ledgers, Part.trace, Part.out, Part.freeIx] a0 x3) => ?_) ?_
  (try clear_value x3); split; refine Only.step ?_ (State.moveFenced_only _ (by assumption)); exact h3
  refine Only.step ?_ State.failJob_only; exact h3; unfold x3; split; refine Only.step ?_ State.setJob_only; exact h2
  exact h2; unfold x2; refine holds_foldl ?_ fun x4 a4_ h4 => ?_; exact h1; refine Only.step ?_ State.discardStep_only
  exact h4; unfold x1; refine holds_foldl ?_ fun x5 a5_ h5 => ?_; exact .refl _; refine holds_ite ?_ ?_; exact h5
  refine Only.step ?_ State.sendAborts_only; exact h5

theorem State.runCommand_only {v : List Part} {r a0 : State} {a1 a2 a3 : Nat} {a4 : State → Taken → State} (h : Only v
  r a0)
    (k : ∀ x y, Only v r x → Only v r (a4 x y))
(w : [Part.boot, .time, .pages, .stalls, .jobs, .hubs, .aisles, .halves, .clerk, .rings, .events, .ledgers, .trace, .out,
      .freeIx].all
      v.contains
      = true := by decide) : Only v r (State.runCommand a0 a1 a2 a3 a4) := by
  have h1 : Only v r (a0.advance a1) := h.trans (State.advance_only.mono (by
    simp only [List.all_cons, Bool.and_eq_true] at w ⊢
    exact ⟨w.2.1, w.2.2.1, w.2.2.2.1, rfl⟩))
  have fin : ∀ {s : State} {b c d e f g i}, Only v r s → Only v r (State.finish s b c d e f g i) := fun hs =>
    hs.trans (State.finish_only.mono (by
      simp only [List.all_cons, Bool.and_eq_true] at w ⊢
      simp only [w, List.all_nil, and_self]))
  have rai : ∀ {s : State} {b}, Only v r s → Only v r (State.raise s b) := fun hs =>
    hs.trans (State.raise_only.mono (by
      simp only [List.all_cons, Bool.and_eq_true] at w ⊢
      simp only [w, List.all_nil, and_self]))
  have cnt : ∀ {s : State} {b}, Only v r s → Only v r (State.countRefusal s b) := fun hs =>
    hs.trans (State.countRefusal_only.mono (by
      simp only [List.all_cons, Bool.and_eq_true] at w ⊢
      exact ⟨w.2.2.1, w.2.2.2.1, rfl⟩))
  unfold State.runCommand
  extract_lets x0
  split
  · exact h1
  · extract_lets j
    refine holds_ite h1 (holds_ite (fin (cnt (rai h1))) (holds_ite (k _ _ h1) (holds_ite (fin h1) ?_)))
    split
    · exact holds_ite (fin h1) (k _ _ h1)
    · exact h1

theorem State.scan_only {a0 a1 a2} :
    Only [.pins, .out, .freeIx] a0 (State.scan a0 a1 a2) := by
  unfold State.scan; refine holds_ite ?_ ?_; extract_lets +onlyGivenNames x0; (try clear_value x0)
  refine Only.step ?_ State.emit_only; refine Only.updPins ?_; exact .refl _; extract_lets +onlyGivenNames x1
  (try clear_value x1); refine Only.step ?_ State.emit_only; refine Only.updPins ?_; exact .refl _

theorem State.trainStacks_only {a0 a1} :
    Only [.boot, .pages, .stalls, .jobs, .hubs, .outStacks, .aisles, .halves, .clerk, .rings, .events, .ledgers, .trace, .out,
        .freeIx] a0 (State.trainStacks a0 a1) := by
  unfold State.trainStacks; refine holds_foldl ?_ fun x0 a0_ h0 => ?_; exact .refl _
  refine Only.step ?_ State.raise_only; refine Only.upd ?_; exact h0

theorem State.trainBridges_only {a0 a1} :
    Only [.boot, .pages, .stalls, .jobs, .hubs, .chans, .aisles, .halves, .clerk, .rings, .events, .ledgers, .trace, .out,
        .freeIx] a0 (State.trainBridges a0 a1) := by
  unfold State.trainBridges; extract_lets +onlyGivenNames x0; (try clear_value x0); extract_lets +onlyGivenNames x1
  (try clear_value x1); extract_lets +onlyGivenNames x2
  refine (fun (h2 : Only [Part.boot, Part.pages, Part.stalls, Part.jobs, Part.hubs, Part.chans, Part.aisles, Part.halves,
      Part.clerk, Part.rings, Part.events, Part.ledgers, Part.trace, Part.out, Part.freeIx] a0 x2) => ?_) ?_
  (try clear_value x2); extract_lets +onlyGivenNames x3
  refine (fun (h3 : Only [Part.boot, Part.pages, Part.stalls, Part.jobs, Part.hubs, Part.chans, Part.aisles, Part.halves,
      Part.clerk, Part.rings, Part.events, Part.ledgers, Part.trace, Part.out, Part.freeIx] a0 x3) => ?_) ?_
  (try clear_value x3); refine holds_foldl ?_ fun x4 a4_ h4 => ?_; exact h3; refine Only.step ?_ State.bridgeDown_only
  exact h4; unfold x3; refine holds_foldl ?_ fun x5 a5_ h5 => ?_; exact h2; refine Only.step ?_ State.raise_only
  exact h5; unfold x2; refine Only.upd ?_; exact .refl _

theorem State.testStalls_only {a0 a1 a2} :
    Only [.boot, .pages, .stalls, .jobs, .hubs, .aisles, .halves, .clerk, .rings, .events, .ledgers, .trace, .out, .freeIx] a0
        (State.testStalls a0 a1 a2) := by
  unfold State.testStalls; extract_lets +onlyGivenNames x0
  refine (fun (h0 : Only [Part.boot, Part.pages, Part.stalls, Part.jobs, Part.hubs, Part.aisles, Part.halves, Part.clerk,
      Part.rings, Part.events, Part.ledgers, Part.trace, Part.out, Part.freeIx] a0 x0) => ?_) ?_
  (try clear_value x0); extract_lets +onlyGivenNames x1
  refine (fun (h1 : Only [Part.boot, Part.pages, Part.stalls, Part.jobs, Part.hubs, Part.aisles, Part.halves, Part.clerk,
      Part.rings, Part.events, Part.ledgers, Part.trace, Part.out, Part.freeIx] a0 x1) => ?_) ?_
  (try clear_value x1); extract_lets +onlyGivenNames x2
  refine (fun (h2 : Only [Part.boot, Part.pages, Part.stalls, Part.jobs, Part.hubs, Part.aisles, Part.halves, Part.clerk,
      Part.rings, Part.events, Part.ledgers, Part.trace, Part.out, Part.freeIx] a0 x2) => ?_) ?_
  (try clear_value x2); extract_lets +onlyGivenNames x3
  refine (fun (h3 : Only [Part.boot, Part.pages, Part.stalls, Part.jobs, Part.hubs, Part.aisles, Part.halves, Part.clerk,
      Part.rings, Part.events, Part.ledgers, Part.trace, Part.out, Part.freeIx] a0 x3) => ?_) ?_
  (try clear_value x3); extract_lets +onlyGivenNames x4; (try clear_value x4)
  refine holds_foldl ?_ fun x5 a5_ h5 => ?_; exact h3; refine holds_foldl ?_ fun x6 a6_ h6 => ?_; exact h5
  refine Only.step ?_ State.fence_only; exact h6; unfold x3; refine holds_foldl ?_ fun x7 a7_ h7 => ?_; exact h2
  refine Only.step ?_ State.raise_only; exact h7; unfold x2; refine holds_foldl ?_ fun x8 a8_ h8 => ?_; exact h1
  refine Only.step ?_ State.raise_only; refine Only.step ?_ State.setStall_only; exact h8; unfold x1
  refine holds_foldl ?_ fun x9 a9_ h9 => ?_; exact h0; refine Only.step ?_ State.mapSpares_only; exact h9; unfold x0
  refine Only.upd ?_; exact .refl _

theorem State.testDevice_only {a0 a1} :
    Only [.boot, .pages, .stalls, .jobs, .hubs, .mem, .marks, .outStacks, .chans, .aisles, .halves, .clerk, .rings, .events,
        .ledgers, .trace, .out, .freeIx] a0 (State.testDevice a0 a1) := by
  unfold State.testDevice; extract_lets +onlyGivenNames x0; (try clear_value x0); extract_lets +onlyGivenNames x1
  refine (fun (h1 : Only [Part.boot, Part.pages, Part.stalls, Part.jobs, Part.hubs, Part.mem, Part.marks, Part.outStacks,
      Part.chans, Part.aisles, Part.halves, Part.clerk, Part.rings, Part.events, Part.ledgers, Part.trace, Part.out,
      Part.freeIx] a0 x1) => ?_) ?_
  (try clear_value x1); refine Only.step ?_ State.trainStacks_only; refine Only.step ?_ State.trainBridges_only
  refine Only.step ?_ State.testStalls_only; exact h1; unfold x1; refine Only.upd ?_; exact .refl _

theorem State.selftest_only {a0 a1 a2 a3} :
    Only [.boot, .pages, .stalls, .jobs, .hubs, .mem, .marks, .outStacks, .chans, .aisles, .halves, .clerk, .rings, .events,
        .ledgers, .trace, .out, .freeIx] a0 (State.selftest a0 a1 a2 a3) := by
  unfold State.selftest; refine Only.step ?_ State.finish_only; refine holds_ite ?_ ?_
  refine Only.step ?_ State.testDevice_only; exact .refl _; refine Only.step ?_ State.testStalls_only; exact .refl _

theorem State.setPolicy_only {a0 a1 a2} :
    Only [.boot, .time, .bell, .pages, .stalls, .jobs, .hubs, .aisles, .halves, .clerk, .rings, .events, .ledgers, .trace,
        .out, .freeIx] a0 (State.setPolicy a0 a1 a2) := by
  unfold State.setPolicy; extract_lets +onlyGivenNames x0; (try clear_value x0); refine holds_ite ?_ ?_
  refine Only.step ?_ State.refuse_only; exact .refl _; refine holds_ite ?_ ?_; refine Only.step ?_ State.refuse_only
  refine Only.step ?_ State.raise_only; exact .refl _; extract_lets +onlyGivenNames x1
  refine (fun (h1 : Only [Part.boot, Part.time, Part.bell, Part.pages, Part.stalls, Part.jobs, Part.hubs, Part.aisles,
      Part.halves, Part.clerk, Part.rings, Part.events, Part.ledgers, Part.trace, Part.out, Part.freeIx] a0 x1) => ?_) ?_
  (try clear_value x1); refine holds_ite ?_ ?_; refine Only.step ?_ State.markStarted_only; refine Only.upd ?_
  exact h1; refine Only.step ?_ State.finish_only; exact h1; unfold x1; refine Only.step ?_ State.applyPolicy_only
  exact .refl _

theorem State.slotLock_only {a0 a1 a2 a3} :
    Only [.halves] a0 (State.slotLock a0 a1 a2 a3) := by
  unfold State.slotLock; refine holds_ite ?_ ?_; refine Only.step ?_ State.enterHalf_only; exact .refl _
  exact .refl _

theorem State.staleWrite_only {a0 a1} :
    Only [.boot, .pages, .stalls, .jobs, .hubs, .aisles, .halves, .clerk, .rings, .events, .ledgers, .trace, .out, .freeIx] a0
        (State.staleWrite a0 a1) := by
  unfold State.staleWrite; extract_lets +onlyGivenNames x0; (try clear_value x0); extract_lets +onlyGivenNames x1
  (try clear_value x1); split; exact .refl _; extract_lets +onlyGivenNames x2
  refine (fun (h2 : Only [Part.boot, Part.pages, Part.stalls, Part.jobs, Part.hubs, Part.aisles, Part.halves, Part.clerk,
      Part.rings, Part.events, Part.ledgers, Part.trace, Part.out, Part.freeIx] a0 x2) => ?_) ?_
  (try clear_value x2); refine holds_foldl ?_ fun x3 a3_ h3 => ?_; exact h2; refine Only.step ?_ State.raise_only
  exact h3; unfold x2; refine Only.step ?_ State.count_only; refine Only.step ?_ State.setHub_only; exact .refl _

theorem State.startImage_only {a0 a1} :
    Only [.boot, .pages, .stalls, .aisles, .clerk] a0 (State.startImage a0 a1) := by
  unfold State.startImage; extract_lets +onlyGivenNames x0; (try clear_value x0); extract_lets +onlyGivenNames x1
  (try clear_value x1); extract_lets +onlyGivenNames x2
  refine (fun (h2 : Only [Part.boot, Part.pages, Part.stalls, Part.aisles, Part.clerk] a0 x2) => ?_) ?_
  (try clear_value x2); refine holds_foldl ?_ fun x3 a3_ h3 => ?_; exact h2; refine Only.step ?_ State.setAisle_only
  exact h3; unfold x2; refine Only.step ?_ State.refreshed_only; refine Only.upd ?_; exact .refl _

theorem State.startStep_only {a0 a1 a2 a3 a4} :
    Only [.pins, .boot, .time, .bell, .pages, .stalls, .jobs, .hubs, .sched, .arbs, .aisles, .halves, .clerk, .rings, .events,
        .ledgers, .trace, .out, .freeIx] a0 (State.startStep a0 a1 a2 a3 a4) := by
  unfold State.startStep; split; exact .refl _; split; exact .refl _; split; refine Only.step ?_ State.go_only
  exact .refl _; exact .refl _

theorem State.startTest_only {a0 a1 a2 a3} :
    Only [.boot, .pages, .stalls, .jobs, .hubs, .mem, .marks, .outStacks, .chans, .aisles, .halves, .clerk, .rings, .events,
        .ledgers, .trace, .out, .freeIx] a0 (State.startTest a0 a1 a2 a3) := by
  unfold State.startTest; refine holds_ite ?_ ?_; refine Only.step ?_ State.refuse_only; exact .refl _
  refine holds_ite ?_ ?_; refine Only.step ?_ State.selftest_only; exact .refl _; refine holds_ite ?_ ?_
  refine Only.step ?_ State.markStarted_only; refine Only.upd ?_; exact .refl _; refine Only.step ?_ State.finish_only
  exact .refl _

theorem State.stepAborted_only {a0 a1 a2 a3} :
    Only [.pages, .stalls, .jobs, .hubs, .aisles, .halves, .clerk, .rings, .events, .ledgers, .trace, .out, .freeIx] a0
        (State.stepAborted a0 a1 a2 a3) := by
  unfold State.stepAborted; refine holds_ite ?_ ?_; exact .refl _; extract_lets +onlyGivenNames x0
  (try clear_value x0); extract_lets +onlyGivenNames x1
  refine (fun (h1 : Only [Part.pages, Part.stalls, Part.jobs, Part.hubs, Part.aisles, Part.halves, Part.clerk, Part.rings,
      Part.events, Part.ledgers, Part.trace, Part.out, Part.freeIx] a0 x1) => ?_) ?_
  (try clear_value x1); refine Only.step ?_ State.finish_only; refine Only.step ?_ State.endStep_only; exact h1
  unfold x1; refine holds_foldl ?_ fun x2 a2_ h2 => ?_; exact .refl _; refine Only.step ?_ State.sendAborts_only
  exact h2

theorem State.stepAbort_only {a0 a1 a2 a3 a4 a5} :
    Only [.pages, .stalls, .jobs, .hubs, .aisles, .halves, .clerk, .rings, .events, .ledgers, .trace, .out, .freeIx] a0
        (State.stepAbort a0 a1 a2 a3 a4 a5) := by
  unfold State.stepAbort; extract_lets +onlyGivenNames x0; (try clear_value x0); extract_lets +onlyGivenNames x1
  (try clear_value x1); split; refine Only.step ?_ State.finish_only; refine Only.step ?_ State.finish_only
  exact .refl _; refine Only.step ?_ State.finish_only; exact .refl _; refine holds_ite ?_ ?_
  refine Only.step ?_ State.stepAborted_only; exact .refl _; refine holds_ite ?_ ?_
  refine Only.step ?_ State.finish_only; exact .refl _; refine holds_ite ?_ ?_; refine Only.step ?_ State.finish_only
  refine Only.step ?_ State.endStep_only; exact .refl _; extract_lets +onlyGivenNames x2
  refine (fun (h2 : Only [Part.pages, Part.stalls, Part.jobs, Part.hubs, Part.aisles, Part.halves, Part.clerk, Part.rings,
      Part.events, Part.ledgers, Part.trace, Part.out, Part.freeIx] a0 x2) => ?_) ?_
  (try clear_value x2); refine Only.step ?_ State.stepAborted_only; refine Only.step ?_ State.markStarted_only
  refine Only.step ?_ State.abortStalls_only; exact h2; unfold x2; refine Only.step ?_ State.setJob_only
  exact .refl _

theorem State.summary_only {a0 a1 a2} :
    Only [.boot, .time, .pages, .stalls, .jobs, .hubs, .aisles, .halves, .clerk, .rings, .events, .ledgers, .trace, .out,
        .freeIx] a0 (State.summary a0 a1 a2) := by
  unfold State.summary; extract_lets +onlyGivenNames x0
  refine (fun (h0 : Only [Part.boot, Part.time, Part.pages, Part.stalls, Part.jobs, Part.hubs, Part.aisles, Part.halves,
      Part.clerk, Part.rings, Part.events, Part.ledgers, Part.trace, Part.out, Part.freeIx] a0 x0) => ?_) ?_
  (try clear_value x0); extract_lets +onlyGivenNames x1; (try clear_value x1); refine holds_ite ?_ ?_
  refine Only.step ?_ State.finish_only; refine Only.step ?_ State.raise_only; exact h0
  refine Only.step ?_ State.finish_only; refine Only.step ?_ State.writeLines_only; exact h0; unfold x0
  refine Only.step ?_ State.advance_only; exact .refl _

theorem State.takeInval_only {a0 a1 a2} :
    Snd (Only [.halves] a0) (State.takeInval a0 a1 a2) := by
  unfold State.takeInval; extract_lets +onlyGivenNames x0; (try clear_value x0); split
  change Only _ _ (Prod.snd (_, _)); dsimp only; refine Only.step ?_ State.oweSlot_only
  refine Only.step ?_ State.setHalf_only; exact .refl _; change Only _ _ (Prod.snd (_, _)); dsimp only; exact .refl _

theorem State.takeSlot_only {a0 a1 a2} :
    Opt (Snd (Only [.halves] a0)) (State.takeSlot a0 a1 a2) := by
  unfold State.takeSlot; extract_lets +onlyGivenNames x0; (try clear_value x0); split; refine .ofSome ?_
  change Only _ _ (Prod.snd (_, _)); dsimp only; refine Only.step ?_ State.oweSlot_only
  refine Only.step ?_ State.setHalf_only; exact .refl _; exact .ofNone

theorem State.takeSnaps_only {a0} :
    Only [.ledgers] a0 (State.takeSnaps a0) := by
  unfold State.takeSnaps; refine holds_foldl ?_ fun x0 a0_ h0 => ?_; exact .refl _; refine holds_ite ?_ ?_; exact h0
  extract_lets +onlyGivenNames x4; (try clear_value x4); refine Only.step ?_ State.setLedger_only; exact h0

theorem State.twinBind_only {a0 a1 a2 a3 a4} :
Only [.pages, .stalls, .jobs, .halves, .clerk, .rings, .events, .ledgers, .trace, .out] a0 (State.twinBind a0 a1 a2 a3
      a4) := by
  unfold State.twinBind; extract_lets +onlyGivenNames x0; (try clear_value x0); extract_lets +onlyGivenNames x1
  (try clear_value x1); extract_lets +onlyGivenNames x2; (try clear_value x2); refine holds_ite ?_ ?_
  refine Only.step ?_ State.refuse_only; exact .refl _; refine holds_ite ?_ ?_; exact .refl _; refine holds_ite ?_ ?_
  refine Only.step ?_ State.refuse_only; exact .refl _; extract_lets +onlyGivenNames x11; (try clear_value x11)
  refine Only.step ?_ State.finish_only; refine Only.step ?_ State.setJob_only; exact .refl _

theorem State.unfence_only {a0 a1} :
    Only [.boot, .pages, .stalls, .jobs, .hubs, .aisles, .halves, .clerk, .rings, .events, .ledgers, .trace, .out, .freeIx] a0
        (State.unfence a0 a1) := by
  unfold State.unfence; extract_lets +onlyGivenNames x0; (try clear_value x0); extract_lets +onlyGivenNames x1
  refine (fun (h1 : Only [Part.boot, Part.pages, Part.stalls, Part.jobs, Part.hubs, Part.aisles, Part.halves, Part.clerk,
      Part.rings, Part.events, Part.ledgers, Part.trace, Part.out, Part.freeIx] a0 x1) => ?_) ?_
  (try clear_value x1); extract_lets +onlyGivenNames x2; (try clear_value x2); extract_lets +onlyGivenNames x3
  refine (fun (h3 : Only [Part.boot, Part.pages, Part.stalls, Part.jobs, Part.hubs, Part.aisles, Part.halves, Part.clerk,
      Part.rings, Part.events, Part.ledgers, Part.trace, Part.out, Part.freeIx] a0 x3) => ?_) ?_
  (try clear_value x3); refine Only.step ?_ State.raise_only; exact h3; unfold x3; refine Only.upd ?_; exact h1
  unfold x1; refine Only.step ?_ State.setStall_only; exact .refl _

theorem State.unreconciled_only {a0 a1 a2} :
    Only [.boot, .pages, .stalls, .jobs, .hubs, .aisles, .halves, .clerk, .rings, .events, .ledgers, .power, .trace, .out,
        .freeIx] a0 (State.unreconciled a0 a1 a2) := by
  unfold State.unreconciled; extract_lets +onlyGivenNames x0
  refine (fun (h0 : Only [Part.boot, Part.pages, Part.stalls, Part.jobs, Part.hubs, Part.aisles, Part.halves, Part.clerk,
      Part.rings, Part.events, Part.ledgers, Part.power, Part.trace, Part.out, Part.freeIx] a0 x0) => ?_) ?_
  (try clear_value x0); extract_lets +onlyGivenNames x1
  refine (fun (h1 : Only [Part.boot, Part.pages, Part.stalls, Part.jobs, Part.hubs, Part.aisles, Part.halves, Part.clerk,
      Part.rings, Part.events, Part.ledgers, Part.power, Part.trace, Part.out, Part.freeIx] a0 x1) => ?_) ?_
  (try clear_value x1); extract_lets +onlyGivenNames x2
  refine (fun (h2 : Only [Part.boot, Part.pages, Part.stalls, Part.jobs, Part.hubs, Part.aisles, Part.halves, Part.clerk,
      Part.rings, Part.events, Part.ledgers, Part.power, Part.trace, Part.out, Part.freeIx] a0 x2) => ?_) ?_
  (try clear_value x2); refine holds_ite ?_ ?_; exact h2; refine Only.step ?_ State.raise_only; refine Only.upd ?_
  exact h2; unfold x2; refine Only.step ?_ State.count_only; exact h1; unfold x1
  refine holds_foldl ?_ fun x3 a3_ h3 => ?_; exact h0; refine Only.step ?_ State.setLedger_only; exact h3; unfold x0
  refine Only.step ?_ State.chargeEnergy_only; exact .refl _

theorem State.verifyImage_only {a0} :
    Only [.boot, .pages, .stalls, .aisles, .clerk, .rings, .events, .trace, .out] a0 (State.verifyImage a0) := by
  unfold State.verifyImage; split; exact .refl _; extract_lets +onlyGivenNames x0; (try clear_value x0)
  extract_lets +onlyGivenNames x1
  refine (fun (h1 : Only [Part.boot, Part.pages, Part.stalls, Part.aisles, Part.clerk, Part.rings, Part.events, Part.trace,
      Part.out] a0 x1) => ?_) ?_
  (try clear_value x1); refine holds_ite ?_ ?_; exact h1; split; refine Only.step ?_ State.startImage_only; exact h1
  refine Only.step ?_ State.record_only; refine Only.upd ?_; exact h1; unfold x1; refine Only.upd ?_; exact .refl _

theorem State.withFetchWord_only {a0 a1 a2} :
    Only [.pending] a0 (State.withFetchWord a0 a1 a2) := by
  unfold State.withFetchWord; split; refine Only.upd ?_; exact .refl _; exact .refl _

theorem State.writeHbm_only {a0 a1 a2 a3 a4 a5 a6} :
    Only [.boot, .pages, .stalls, .jobs, .hubs, .mem, .marks, .aisles, .halves, .clerk, .rings, .events, .ledgers, .trace,
        .out, .freeIx] a0 (State.writeHbm a0 a1 a2 a3 a4 a5 a6) := by
  unfold State.writeHbm; extract_lets +onlyGivenNames x0; (try clear_value x0); extract_lets +onlyGivenNames x1
  (try clear_value x1); extract_lets +onlyGivenNames x2; (try clear_value x2); extract_lets +onlyGivenNames x3
  (try clear_value x3); extract_lets +onlyGivenNames x4
  refine (fun (h4 : Only [Part.boot, Part.pages, Part.stalls, Part.jobs, Part.hubs, Part.mem, Part.marks, Part.aisles,
      Part.halves, Part.clerk, Part.rings, Part.events, Part.ledgers, Part.trace, Part.out, Part.freeIx] a0 x4) => ?_) ?_
  (try clear_value x4); extract_lets +onlyGivenNames x5
  refine (fun (h5 : Only [Part.boot, Part.pages, Part.stalls, Part.jobs, Part.hubs, Part.mem, Part.marks, Part.aisles,
      Part.halves, Part.clerk, Part.rings, Part.events, Part.ledgers, Part.trace, Part.out, Part.freeIx] a0 x5) => ?_) ?_
  (try clear_value x5); extract_lets +onlyGivenNames x6
  refine (fun (h6 : Fst (Only [Part.boot, Part.pages, Part.stalls, Part.jobs, Part.hubs, Part.mem, Part.marks, Part.aisles,
      Part.halves, Part.clerk, Part.rings, Part.events, Part.ledgers, Part.trace, Part.out, Part.freeIx] a0) x6) => ?_) ?_
  (try clear_value x6); extract_lets +onlyGivenNames x7
  refine (fun (h7 : Only [Part.boot, Part.pages, Part.stalls, Part.jobs, Part.hubs, Part.mem, Part.marks, Part.aisles,
      Part.halves, Part.clerk, Part.rings, Part.events, Part.ledgers, Part.trace, Part.out, Part.freeIx] a0 x7) => ?_) ?_
  (try clear_value x7); refine Only.step ?_ State.respond_only; refine Only.step ?_ State.charge_only; exact h7
  unfold x7; refine holds_ite ?_ ?_; exact .refl _; refine holds_ite ?_ ?_; refine Only.step ?_ State.raise_only
  exact h6; refine Only.step ?_ State.staleWrite_only; refine Only.step ?_ State.putServed_only; exact h6; unfold x6
  refine Only.stepFst ?_ State.writeFails_only; exact h5; unfold x5; refine Only.step ?_ State.countHbm_only; exact h4
  unfold x4; refine holds_ite ?_ ?_; refine Only.step ?_ State.countHbm_only; refine Only.step ?_ State.countHbm_only
  refine Only.step ?_ State.countHbm_only; exact .refl _; exact .refl _

theorem State.writeWindow_only {a0 a1 a2 a3} :
    Only [.pins, .boot, .time, .bell, .pages, .stalls, .jobs, .hubs, .sched, .arbs, .aisles, .halves, .clerk, .rings, .events,
        .ledgers, .trace, .out, .freeIx] a0 (State.writeWindow a0 a1 a2 a3) := by
  unfold State.writeWindow; extract_lets +onlyGivenNames x0; (try clear_value x0); extract_lets +onlyGivenNames x1
  (try clear_value x1); refine holds_ite ?_ ?_; refine Only.step ?_ State.respond_only; exact .refl _
  refine holds_ite ?_ ?_; refine Only.step ?_ State.refuseAccess_only; refine Only.step ?_ State.countRefused_only
  exact .refl _; refine holds_ite ?_ ?_; refine Only.step ?_ State.refuseAccess_only; exact .refl _
  refine Only.step ?_ State.respond_only; refine holds_foldl ?_ fun x2 a2_ h2 => ?_; exact .refl _
  refine Only.step ?_ State.writeReg_only; exact h2

theorem execStepCtrlGo_only {a0 a1 a2 a3} :
    Nxt (Only [.pins, .boot, .time, .bell, .pages, .stalls, .jobs, .hubs, .sched, .arbs, .aisles, .halves, .clerk, .rings,
        .events, .ledgers, .trace, .out, .freeIx] a3) (execStepCtrlGo a0 a1 a2 a3) := by
  unfold execStepCtrlGo; extract_lets +onlyGivenNames x0
  refine (fun (h0 : Only [Part.pins, Part.boot, Part.time, Part.bell, Part.pages, Part.stalls, Part.jobs, Part.hubs,
      Part.sched, Part.arbs, Part.aisles, Part.halves, Part.clerk, Part.rings, Part.events, Part.ledgers, Part.trace,
      Part.out, Part.freeIx] a3 x0) => ?_) ?_
  (try clear_value x0); refine .ofNext ?_; refine State.on_only ?_ ?_; exact h0
  refine Only.step ?_ State.writeReg_only; exact h0; unfold x0; refine Only.step ?_ State.advance_only; exact .refl _

theorem execStepCtrlAbort_only {a0 a1 a2 a3} :
    Nxt (Only [.pins, .boot, .time, .bell, .pages, .stalls, .jobs, .hubs, .sched, .arbs, .aisles, .halves, .clerk, .rings,
        .events, .ledgers, .trace, .out, .freeIx] a3) (execStepCtrlAbort a0 a1 a2 a3) := by
  unfold execStepCtrlAbort; extract_lets +onlyGivenNames x0
  refine (fun (h0 : Only [Part.pins, Part.boot, Part.time, Part.bell, Part.pages, Part.stalls, Part.jobs, Part.hubs,
      Part.sched, Part.arbs, Part.aisles, Part.halves, Part.clerk, Part.rings, Part.events, Part.ledgers, Part.trace,
      Part.out, Part.freeIx] a3 x0) => ?_) ?_
  (try clear_value x0); refine .ofNext ?_; refine State.on_only ?_ ?_; exact h0
  refine Only.step ?_ State.writeReg_only; exact h0; unfold x0; refine Only.step ?_ State.advance_only; exact .refl _

theorem execRingPtrWrite_only {a0 a1 a2 a3 a4} :
    Nxt (Only [.pins, .boot, .time, .bell, .pages, .stalls, .jobs, .hubs, .sched, .arbs, .aisles, .halves, .clerk, .rings,
        .events, .ledgers, .trace, .out, .freeIx] a4) (execRingPtrWrite a0 a1 a2 a3 a4) := by
  unfold execRingPtrWrite; extract_lets +onlyGivenNames x0
  refine (fun (h0 : Only [Part.pins, Part.boot, Part.time, Part.bell, Part.pages, Part.stalls, Part.jobs, Part.hubs,
      Part.sched, Part.arbs, Part.aisles, Part.halves, Part.clerk, Part.rings, Part.events, Part.ledgers, Part.trace,
      Part.out, Part.freeIx] a4 x0) => ?_) ?_
  (try clear_value x0); refine .ofNext ?_; refine State.on_only ?_ ?_; exact h0
  refine Only.step ?_ State.writeReg_only; exact h0; unfold x0; refine Only.step ?_ State.advance_only; exact .refl _

theorem execCheckValWrite_only {a0 a1 a2 a3} :
    Nxt (Only [.pins, .boot, .time, .bell, .pages, .stalls, .jobs, .hubs, .sched, .arbs, .aisles, .halves, .clerk, .rings,
        .events, .ledgers, .trace, .out, .freeIx] a3) (execCheckValWrite a0 a1 a2 a3) := by
  unfold execCheckValWrite; extract_lets +onlyGivenNames x0
  refine (fun (h0 : Only [Part.pins, Part.boot, Part.time, Part.bell, Part.pages, Part.stalls, Part.jobs, Part.hubs,
      Part.sched, Part.arbs, Part.aisles, Part.halves, Part.clerk, Part.rings, Part.events, Part.ledgers, Part.trace,
      Part.out, Part.freeIx] a3 x0) => ?_) ?_
  (try clear_value x0); refine .ofNext ?_; refine State.on_only ?_ ?_; exact h0
  refine Only.step ?_ State.writeReg_only; exact h0; unfold x0; refine Only.step ?_ State.advance_only; exact .refl _

theorem execRerunArm_only {a0 a1 a2 a3} :
    Nxt (Only [.pins, .boot, .time, .bell, .pages, .stalls, .jobs, .hubs, .sched, .arbs, .aisles, .halves, .clerk, .rings,
        .events, .ledgers, .trace, .out, .freeIx] a3) (execRerunArm a0 a1 a2 a3) := by
  unfold execRerunArm; extract_lets +onlyGivenNames x0
  refine (fun (h0 : Only [Part.pins, Part.boot, Part.time, Part.bell, Part.pages, Part.stalls, Part.jobs, Part.hubs,
      Part.sched, Part.arbs, Part.aisles, Part.halves, Part.clerk, Part.rings, Part.events, Part.ledgers, Part.trace,
      Part.out, Part.freeIx] a3 x0) => ?_) ?_
  (try clear_value x0); refine .ofNext ?_; refine State.on_only ?_ ?_; exact h0
  refine Only.step ?_ State.writeReg_only; exact h0; unfold x0; refine Only.step ?_ State.advance_only; exact .refl _

theorem execXlateInval_only {a0 a1 a2 a3} :
    Nxt (Only [.pins, .boot, .time, .bell, .pages, .stalls, .jobs, .hubs, .sched, .arbs, .aisles, .halves, .clerk, .rings,
        .events, .ledgers, .trace, .out, .freeIx] a3) (execXlateInval a0 a1 a2 a3) := by
  unfold execXlateInval; extract_lets +onlyGivenNames x0
  refine (fun (h0 : Only [Part.pins, Part.boot, Part.time, Part.bell, Part.pages, Part.stalls, Part.jobs, Part.hubs,
      Part.sched, Part.arbs, Part.aisles, Part.halves, Part.clerk, Part.rings, Part.events, Part.ledgers, Part.trace,
      Part.out, Part.freeIx] a3 x0) => ?_) ?_
  (try clear_value x0); refine .ofNext ?_; refine State.on_only ?_ ?_; exact h0
  refine Only.step ?_ State.writeReg_only; exact h0; unfold x0; refine Only.step ?_ State.advance_only; exact .refl _

theorem execCommit_only {a0 a1 a2 a3 a4} :
    Nxt (Only [.pins, .boot, .time, .bell, .pages, .stalls, .jobs, .hubs, .sched, .arbs, .aisles, .halves, .clerk, .rings,
        .events, .ledgers, .trace, .out, .freeIx] a4) (execCommit a0 a1 a2 a3 a4) := by
  unfold execCommit; extract_lets +onlyGivenNames x0
  refine (fun (h0 : Only [Part.pins, Part.boot, Part.time, Part.bell, Part.pages, Part.stalls, Part.jobs, Part.hubs,
      Part.sched, Part.arbs, Part.aisles, Part.halves, Part.clerk, Part.rings, Part.events, Part.ledgers, Part.trace,
      Part.out, Part.freeIx] a4 x0) => ?_) ?_
  (try clear_value x0); refine .ofNext ?_; refine State.on_only ?_ ?_; exact h0
  refine Only.step ?_ State.writeReg_only; exact h0; unfold x0; refine Only.step ?_ State.advance_only; exact .refl _

theorem execGrpStepWrite_only {a0 a1 a2} :
    Nxt (Only [.time, .pages, .stalls, .sched] a2) (execGrpStepWrite a0 a1 a2) := by
  unfold execGrpStepWrite; extract_lets +onlyGivenNames x0
  refine (fun (h0 : Only [Part.time, Part.pages, Part.stalls, Part.sched] a2 x0) => ?_) ?_; (try clear_value x0)
  refine .ofNext ?_; refine State.on_only ?_ ?_; exact h0; refine holds_ite ?_ ?_; exact h0
  refine Only.step ?_ State.writeGrpStep_only; exact h0; unfold x0; refine Only.step ?_ State.advance_only
  exact .refl _

theorem execLedgerSnap_only {a0 a1 a2 a3} :
    Nxt (Only [.pins, .boot, .time, .bell, .pages, .stalls, .jobs, .hubs, .sched, .arbs, .aisles, .halves, .clerk, .rings,
        .events, .ledgers, .trace, .out, .freeIx] a3) (execLedgerSnap a0 a1 a2 a3) := by
  unfold execLedgerSnap; extract_lets +onlyGivenNames x0
  refine (fun (h0 : Only [Part.pins, Part.boot, Part.time, Part.bell, Part.pages, Part.stalls, Part.jobs, Part.hubs,
      Part.sched, Part.arbs, Part.aisles, Part.halves, Part.clerk, Part.rings, Part.events, Part.ledgers, Part.trace,
      Part.out, Part.freeIx] a3 x0) => ?_) ?_
  (try clear_value x0); refine .ofNext ?_; refine State.on_only ?_ ?_; exact h0
  refine Only.step ?_ State.writeReg_only; exact h0; unfold x0; refine Only.step ?_ State.advance_only; exact .refl _

theorem execLedgerRelease_only {a0 a1 a2 a3} :
    Nxt (Only [.pins, .boot, .time, .bell, .pages, .stalls, .jobs, .hubs, .sched, .arbs, .aisles, .halves, .clerk, .rings,
        .events, .ledgers, .trace, .out, .freeIx] a3) (execLedgerRelease a0 a1 a2 a3) := by
  unfold execLedgerRelease; extract_lets +onlyGivenNames x0
  refine (fun (h0 : Only [Part.pins, Part.boot, Part.time, Part.bell, Part.pages, Part.stalls, Part.jobs, Part.hubs,
      Part.sched, Part.arbs, Part.aisles, Part.halves, Part.clerk, Part.rings, Part.events, Part.ledgers, Part.trace,
      Part.out, Part.freeIx] a3 x0) => ?_) ?_
  (try clear_value x0); refine .ofNext ?_; refine State.on_only ?_ ?_; exact h0
  refine Only.step ?_ State.writeReg_only; exact h0; unfold x0; refine Only.step ?_ State.advance_only; exact .refl _

theorem execAisleRetrain_only {a0 a1 a2 a3} :
    Nxt (Only [.pins, .boot, .time, .bell, .pages, .stalls, .jobs, .hubs, .sched, .arbs, .aisles, .halves, .clerk, .rings,
        .events, .ledgers, .trace, .out, .freeIx] a3) (execAisleRetrain a0 a1 a2 a3) := by
  unfold execAisleRetrain; extract_lets +onlyGivenNames x0
  refine (fun (h0 : Only [Part.pins, Part.boot, Part.time, Part.bell, Part.pages, Part.stalls, Part.jobs, Part.hubs,
      Part.sched, Part.arbs, Part.aisles, Part.halves, Part.clerk, Part.rings, Part.events, Part.ledgers, Part.trace,
      Part.out, Part.freeIx] a3 x0) => ?_) ?_
  (try clear_value x0); refine .ofNext ?_; refine State.on_only ?_ ?_; exact h0
  refine Only.step ?_ State.writeReg_only; exact h0; unfold x0; refine Only.step ?_ State.advance_only; exact .refl _

theorem execBootGo_only {a0 a1 a2 a3} :
    Nxt (Only [.pins, .boot, .time, .bell, .pages, .stalls, .jobs, .hubs, .sched, .arbs, .aisles, .halves, .clerk, .rings,
        .events, .ledgers, .trace, .out, .freeIx] a3) (execBootGo a0 a1 a2 a3) := by
  unfold execBootGo; extract_lets +onlyGivenNames x0
  refine (fun (h0 : Only [Part.pins, Part.boot, Part.time, Part.bell, Part.pages, Part.stalls, Part.jobs, Part.hubs,
      Part.sched, Part.arbs, Part.aisles, Part.halves, Part.clerk, Part.rings, Part.events, Part.ledgers, Part.trace,
      Part.out, Part.freeIx] a3 x0) => ?_) ?_
  (try clear_value x0); refine .ofNext ?_; refine State.on_only ?_ ?_; exact h0
  refine Only.step ?_ State.writeReg_only; exact h0; unfold x0; refine Only.step ?_ State.advance_only; exact .refl _

theorem execRingCtrlEnable_only {a0 a1 a2 a3} :
    Nxt (Only [.pins, .boot, .time, .bell, .pages, .stalls, .jobs, .hubs, .sched, .arbs, .aisles, .halves, .clerk, .rings,
        .events, .ledgers, .trace, .out, .freeIx] a3) (execRingCtrlEnable a0 a1 a2 a3) := by
  unfold execRingCtrlEnable; extract_lets +onlyGivenNames x0
  refine (fun (h0 : Only [Part.pins, Part.boot, Part.time, Part.bell, Part.pages, Part.stalls, Part.jobs, Part.hubs,
      Part.sched, Part.arbs, Part.aisles, Part.halves, Part.clerk, Part.rings, Part.events, Part.ledgers, Part.trace,
      Part.out, Part.freeIx] a3 x0) => ?_) ?_
  (try clear_value x0); refine .ofNext ?_; refine State.on_only ?_ ?_; exact h0
  refine Only.step ?_ State.writeReg_only; exact h0; unfold x0; refine Only.step ?_ State.advance_only; exact .refl _

theorem execRegisterWrite_only {a0 a1 a2 a3 a4} :
    Nxt (Only [.pins, .boot, .time, .bell, .pages, .stalls, .jobs, .hubs, .sched, .arbs, .aisles, .halves, .clerk, .rings,
        .events, .ledgers, .trace, .out, .freeIx] a4) (execRegisterWrite a0 a1 a2 a3 a4) := by
  unfold execRegisterWrite; extract_lets +onlyGivenNames x0
  refine (fun (h0 : Only [Part.pins, Part.boot, Part.time, Part.bell, Part.pages, Part.stalls, Part.jobs, Part.hubs,
      Part.sched, Part.arbs, Part.aisles, Part.halves, Part.clerk, Part.rings, Part.events, Part.ledgers, Part.trace,
      Part.out, Part.freeIx] a4 x0) => ?_) ?_
  (try clear_value x0); refine .ofNext ?_; refine State.on_only ?_ ?_; exact h0
  refine Only.step ?_ State.writeReg_only; exact h0; unfold x0; refine Only.step ?_ State.advance_only; exact .refl _

theorem execDoorlineInval_only {a0 a1 a2 a3 a4} :
    Nxt (Only [.boot, .time, .pages, .stalls, .jobs, .hubs, .aisles, .halves, .clerk, .rings, .events, .ledgers, .trace, .out,
        .freeIx] a4) (execDoorlineInval a0 a1 a2 a3 a4) := by
  unfold execDoorlineInval; extract_lets +onlyGivenNames x0
  refine (fun (h0 : Only [Part.boot, Part.time, Part.pages, Part.stalls, Part.jobs, Part.hubs, Part.aisles, Part.halves,
      Part.clerk, Part.rings, Part.events, Part.ledgers, Part.trace, Part.out, Part.freeIx] a4 x0) => ?_) ?_
  (try clear_value x0); refine .ofNext ?_; refine State.on_only ?_ ?_; exact h0; refine holds_ite ?_ ?_; exact h0
  extract_lets +onlyGivenNames x1; (try clear_value x1); extract_lets +onlyGivenNames x2
  refine (fun (h2 : Snd (Only [Part.boot, Part.time, Part.pages, Part.stalls, Part.jobs, Part.hubs, Part.aisles, Part.halves,
      Part.clerk, Part.rings, Part.events, Part.ledgers, Part.trace, Part.out, Part.freeIx] a4) x2) => ?_) ?_
  (try clear_value x2); extract_lets +onlyGivenNames x3
  refine (fun (h3 : Only [Part.boot, Part.time, Part.pages, Part.stalls, Part.jobs, Part.hubs, Part.aisles, Part.halves,
      Part.clerk, Part.rings, Part.events, Part.ledgers, Part.trace, Part.out, Part.freeIx] a4 x3) => ?_) ?_
  (try clear_value x3); extract_lets +onlyGivenNames x4
  refine (fun (h4 : Only [Part.boot, Part.time, Part.pages, Part.stalls, Part.jobs, Part.hubs, Part.aisles, Part.halves,
      Part.clerk, Part.rings, Part.events, Part.ledgers, Part.trace, Part.out, Part.freeIx] a4 x4) => ?_) ?_
  (try clear_value x4); refine Only.step ?_ State.readDoor_only; exact h4; unfold x4
  refine Only.step ?_ State.sendSlot_only; refine Only.step ?_ State.dropLine_only; exact h3; unfold x3
  refine Only.step ?_ State.count_only; exact h2; unfold x2; refine Only.stepSnd ?_ State.takeInval_only; exact h0
  unfold x0; refine Only.step ?_ State.advance_only; exact .refl _

theorem execDoorlinePoll_only {a0 a1 a2 a3} :
    Nxt (Only [.boot, .time, .pages, .stalls, .jobs, .hubs, .aisles, .halves, .clerk, .rings, .events, .ledgers, .trace, .out,
        .freeIx] a3) (execDoorlinePoll a0 a1 a2 a3) := by
  unfold execDoorlinePoll; refine .ofNext ?_; refine State.on_only ?_ ?_; exact .refl _
  refine Only.step ?_ State.readDoor_only; refine Only.step ?_ State.refreshDog_only
  refine Only.step ?_ State.advance_only; exact .refl _

theorem execJobOpen_only {a0 a1 a2 a3 a4 a5} :
    Nxt (Only [.boot, .time, .pages, .stalls, .jobs, .hubs, .aisles, .halves, .clerk, .rings, .events, .ledgers, .trace, .out,
        .freeIx] a5) (execJobOpen a0 a1 a2 a3 a4 a5) := by
  unfold execJobOpen; refine .ofNext ?_; refine State.on_only ?_ ?_; exact .refl _
  refine State.runCommand_only ?_ fun x0 y0 h0 => ?_; exact .refl _; refine Only.step ?_ State.openJob_only; exact h0

theorem execJobLoad_only {a0 a1 a2 a3 a4 a5} :
    Nxt (Only [.boot, .time, .pages, .stalls, .jobs, .hubs, .sched, .mem, .marks, .aisles, .halves, .clerk, .rings, .events,
        .ledgers, .trace, .out, .freeIx] a5) (execJobLoad a0 a1 a2 a3 a4 a5) := by
  unfold execJobLoad; refine .ofNext ?_; refine State.on_only ?_ ?_; exact .refl _
  refine State.runCommand_only ?_ fun x0 y0 h0 => ?_; exact .refl _; split; refine Only.step ?_ State.jobLoad_only
  exact h0; exact h0

theorem execJobMap_only {a0 a1 a2 a3 a4} :
    Nxt (Only [.boot, .time, .pages, .stalls, .jobs, .hubs, .mem, .marks, .aisles, .halves, .clerk, .rings, .events, .ledgers,
        .trace, .out, .freeIx] a4) (execJobMap a0 a1 a2 a3 a4) := by
  unfold execJobMap; refine .ofNext ?_; refine State.on_only ?_ ?_; exact .refl _
  refine State.runCommand_only ?_ fun x0 y0 h0 => ?_; exact .refl _; split; refine Only.step ?_ State.jobMap_only
  exact h0; exact h0

theorem execStepRun_only {a0 a1 a2 a3} :
    Nxt (Only [.pins, .boot, .time, .bell, .pages, .stalls, .jobs, .hubs, .sched, .arbs, .aisles, .halves, .clerk, .rings,
        .events, .ledgers, .trace, .out, .freeIx] a3) (execStepRun a0 a1 a2 a3) := by
  unfold execStepRun; refine .ofNext ?_; refine State.on_only ?_ ?_; exact .refl _
  refine State.runCommand_only ?_ fun x0 y0 h0 => ?_; exact .refl _; extract_lets +onlyGivenNames x1
  (try clear_value x1); split; exact h0; refine Only.step ?_ State.startStep_only; refine holds_ite ?_ ?_; exact h0
  refine Only.step ?_ State.acceptStep_only; exact h0

theorem execStepAbort_only {a0 a1 a2} :
    Nxt (Only [.boot, .time, .pages, .stalls, .jobs, .hubs, .aisles, .halves, .clerk, .rings, .events, .ledgers, .trace, .out,
        .freeIx] a2) (execStepAbort a0 a1 a2) := by
  unfold execStepAbort; refine .ofNext ?_; refine State.on_only ?_ ?_; exact .refl _
  refine State.runCommand_only ?_ fun x0 y0 h0 => ?_; exact .refl _; split; refine Only.step ?_ State.stepAbort_only
  exact h0; exact h0

theorem execJobClose_only {a0 a1 a2} :
    Nxt (Only [.boot, .time, .pages, .stalls, .jobs, .hubs, .sched, .aisles, .halves, .clerk, .rings, .events, .ledgers,
        .trace, .out, .freeIx] a2) (execJobClose a0 a1 a2) := by
  unfold execJobClose; refine .ofNext ?_; refine State.on_only ?_ ?_; exact .refl _
  refine State.runCommand_only ?_ fun x0 y0 h0 => ?_; exact .refl _; refine Only.step ?_ State.jobClose_only; exact h0

theorem execJobSuspend_only {a0 a1 a2} :
    Nxt (Only [.boot, .time, .pages, .stalls, .jobs, .hubs, .aisles, .halves, .clerk, .rings, .events, .ledgers, .trace, .out,
        .freeIx] a2) (execJobSuspend a0 a1 a2) := by
  unfold execJobSuspend; refine .ofNext ?_; refine State.on_only ?_ ?_; exact .refl _
  refine State.runCommand_only ?_ fun x0 y0 h0 => ?_; exact .refl _; refine Only.step ?_ State.finish_only
  refine Only.step ?_ State.suspendJob_only; exact h0

theorem execJobResume_only {a0 a1 a2} :
    Nxt (Only [.boot, .time, .pages, .stalls, .jobs, .hubs, .aisles, .halves, .clerk, .rings, .events, .ledgers, .trace, .out,
        .freeIx] a2) (execJobResume a0 a1 a2) := by
  unfold execJobResume; refine .ofNext ?_; refine State.on_only ?_ ?_; exact .refl _
  refine State.runCommand_only ?_ fun x0 y0 h0 => ?_; exact .refl _; refine Only.step ?_ State.finish_only
  refine Only.step ?_ State.resumeJob_only; exact h0

theorem execSelftest_only {a0 a1 a2 a3} :
    Nxt (Only [.boot, .time, .pages, .stalls, .jobs, .hubs, .mem, .marks, .outStacks, .chans, .aisles, .halves, .clerk,
        .rings, .events, .ledgers, .trace, .out, .freeIx] a3) (execSelftest a0 a1 a2 a3) := by
  unfold execSelftest; refine .ofNext ?_; refine State.on_only ?_ ?_; exact .refl _
  refine State.runCommand_only ?_ fun x0 y0 h0 => ?_; exact .refl _; refine holds_ite ?_ ?_; exact h0
  refine Only.step ?_ State.startTest_only; exact h0

theorem execSelftestQueuedStart_only {a0 a1 a2 a3} :
    Nxt (Only [.boot, .time, .pages, .stalls, .jobs, .hubs, .mem, .marks, .outStacks, .chans, .aisles, .halves, .clerk,
        .rings, .events, .ledgers, .trace, .out, .freeIx] a3) (execSelftestQueuedStart a0 a1 a2 a3) := by
  unfold execSelftestQueuedStart; refine .ofNext ?_; refine State.on_only ?_ ?_; exact .refl _
  refine State.runCommand_only ?_ fun x0 y0 h0 => ?_; exact .refl _; refine holds_ite ?_ ?_
  refine Only.step ?_ State.selftest_only; exact h0; exact h0

theorem execFenceStall_only {a0 a1 a2} :
    Nxt (Only [.boot, .time, .pages, .stalls, .jobs, .hubs, .aisles, .halves, .clerk, .rings, .events, .ledgers, .trace, .out,
        .freeIx] a2) (execFenceStall a0 a1 a2) := by
  unfold execFenceStall; refine .ofNext ?_; refine State.on_only ?_ ?_; exact .refl _
  refine State.runCommand_only ?_ fun x0 y0 h0 => ?_; exact .refl _; extract_lets +onlyGivenNames x1
  (try clear_value x1); refine holds_ite ?_ ?_; refine Only.step ?_ State.refuse_only; exact h0
  refine Only.step ?_ State.finish_only; refine Only.step ?_ State.post_only; refine Only.step ?_ State.fence_only
  exact h0

theorem execUnfenceStall_only {a0 a1 a2 a3} :
    Nxt (Only [.boot, .time, .pages, .stalls, .jobs, .hubs, .aisles, .halves, .clerk, .rings, .events, .ledgers, .trace, .out,
        .freeIx] a3) (execUnfenceStall a0 a1 a2 a3) := by
  unfold execUnfenceStall; refine .ofNext ?_; refine State.on_only ?_ ?_; exact .refl _
  refine State.runCommand_only ?_ fun x0 y0 h0 => ?_; exact .refl _; extract_lets +onlyGivenNames x1
  (try clear_value x1); refine holds_ite ?_ ?_; refine Only.step ?_ State.refuse_only; exact h0
  refine holds_ite ?_ ?_; refine Only.step ?_ State.finish_only; exact h0; extract_lets +onlyGivenNames x2
  refine (fun (h2 : Only [Part.boot, Part.time, Part.pages, Part.stalls, Part.jobs, Part.hubs, Part.aisles, Part.halves,
      Part.clerk, Part.rings, Part.events, Part.ledgers, Part.trace, Part.out, Part.freeIx] a3 x2) => ?_) ?_
  (try clear_value x2); refine holds_ite ?_ ?_; refine Only.step ?_ State.finish_only
  refine Only.step ?_ State.unfence_only; exact h2; refine Only.step ?_ State.finish_only; exact h2; unfold x2
  refine Only.step ?_ State.testStalls_only; exact h0

theorem execSetPolicy_only {a0 a1 a2} :
    Nxt (Only [.boot, .time, .bell, .pages, .stalls, .jobs, .hubs, .aisles, .halves, .clerk, .rings, .events, .ledgers,
        .trace, .out, .freeIx] a2) (execSetPolicy a0 a1 a2) := by
  unfold execSetPolicy; refine .ofNext ?_; refine State.on_only ?_ ?_; exact .refl _
  refine State.runCommand_only ?_ fun x0 y0 h0 => ?_; exact .refl _; refine holds_ite ?_ ?_; exact h0
  refine Only.step ?_ State.setPolicy_only; exact h0

theorem execTwinBind_only {a0 a1 a2} :
    Nxt (Only [.boot, .time, .pages, .stalls, .jobs, .hubs, .aisles, .halves, .clerk, .rings, .events, .ledgers, .trace, .out,
        .freeIx] a2) (execTwinBind a0 a1 a2) := by
  unfold execTwinBind; refine .ofNext ?_; refine State.on_only ?_ ?_; exact .refl _
  refine State.runCommand_only ?_ fun x0 y0 h0 => ?_; exact .refl _; split; refine Only.step ?_ State.twinBind_only
  exact h0; exact h0

theorem execEcho_only {a0 a1 a2} :
    Nxt (Only [.boot, .time, .pages, .stalls, .jobs, .hubs, .aisles, .halves, .clerk, .rings, .events, .ledgers, .trace, .out,
        .freeIx] a2) (execEcho a0 a1 a2) := by
  unfold execEcho; refine .ofNext ?_; refine State.on_only ?_ ?_; exact .refl _
  refine State.runCommand_only ?_ fun x0 y0 h0 => ?_; exact .refl _; refine Only.step ?_ State.echo_only; exact h0

theorem execSummary_only {a0 a1 a2} :
    Nxt (Only [.boot, .time, .pages, .stalls, .jobs, .hubs, .aisles, .halves, .clerk, .rings, .events, .ledgers, .trace, .out,
        .freeIx] a2) (execSummary a0 a1 a2) := by
  unfold execSummary; refine .ofNext ?_; refine State.on_only ?_ ?_; exact .refl _
  refine State.runCommand_only ?_ fun x0 y0 h0 => ?_; exact .refl _; refine Only.step ?_ State.summary_only; exact h0

theorem execDeadlineTimer_only {a0 a1} :
    Nxt (Only [.boot, .time, .pages, .stalls, .jobs, .hubs, .aisles, .halves, .clerk, .rings, .events, .ledgers, .trace, .out,
        .freeIx] a1) (execDeadlineTimer a0 a1) := by
  unfold execDeadlineTimer; refine .ofNext ?_; refine State.onClerk_only ?_ ?_; exact .refl _; split; exact .refl _
  extract_lets +onlyGivenNames x0; (try clear_value x0); split; exact .refl _; refine holds_ite ?_ ?_; exact .refl _
  extract_lets +onlyGivenNames x1
  refine (fun (h1 : Only [Part.boot, Part.time, Part.pages, Part.stalls, Part.jobs, Part.hubs, Part.aisles, Part.halves,
      Part.clerk, Part.rings, Part.events, Part.ledgers, Part.trace, Part.out, Part.freeIx] a1 x1) => ?_) ?_
  (try clear_value x1); extract_lets +onlyGivenNames x2
  refine (fun (h2 : Only [Part.boot, Part.time, Part.pages, Part.stalls, Part.jobs, Part.hubs, Part.aisles, Part.halves,
      Part.clerk, Part.rings, Part.events, Part.ledgers, Part.trace, Part.out, Part.freeIx] a1 x2) => ?_) ?_
  (try clear_value x2); refine Only.step ?_ State.raise_only; refine Only.step ?_ State.charge_only; exact h2
  unfold x2; refine Only.step ?_ State.setJob_only; exact h1; unfold x1; refine Only.step ?_ State.advance_only
  exact .refl _

theorem execLedgerReconcile_only {a0 a1 a2 a3} :
    Nxt (Only [.boot, .time, .pages, .stalls, .jobs, .hubs, .aisles, .halves, .clerk, .rings, .events, .ledgers, .power,
        .trace, .out, .freeIx] a3) (execLedgerReconcile a0 a1 a2 a3) := by
  unfold execLedgerReconcile; refine .ofNext ?_; refine State.on_only ?_ ?_; exact .refl _; refine holds_ite ?_ ?_
  exact .refl _; extract_lets +onlyGivenNames x0; (try clear_value x0); extract_lets +onlyGivenNames x1
  refine (fun (h1 : Only [Part.boot, Part.time, Part.pages, Part.stalls, Part.jobs, Part.hubs, Part.aisles, Part.halves,
      Part.clerk, Part.rings, Part.events, Part.ledgers, Part.power, Part.trace, Part.out, Part.freeIx] a3 x1) => ?_) ?_
  (try clear_value x1); extract_lets +onlyGivenNames x2
  refine (fun (h2 : Only [Part.boot, Part.time, Part.pages, Part.stalls, Part.jobs, Part.hubs, Part.aisles, Part.halves,
      Part.clerk, Part.rings, Part.events, Part.ledgers, Part.power, Part.trace, Part.out, Part.freeIx] a3 x2) => ?_) ?_
  (try clear_value x2); extract_lets +onlyGivenNames x3; (try clear_value x3); extract_lets +onlyGivenNames x4
  refine (fun (h4 : Only [Part.boot, Part.time, Part.pages, Part.stalls, Part.jobs, Part.hubs, Part.aisles, Part.halves,
      Part.clerk, Part.rings, Part.events, Part.ledgers, Part.power, Part.trace, Part.out, Part.freeIx] a3 x4) => ?_) ?_
  (try clear_value x4); extract_lets +onlyGivenNames x5; (try clear_value x5); extract_lets +onlyGivenNames x6
  (try clear_value x6); extract_lets +onlyGivenNames x7
  refine (fun (h7 : Only [Part.boot, Part.time, Part.pages, Part.stalls, Part.jobs, Part.hubs, Part.aisles, Part.halves,
      Part.clerk, Part.rings, Part.events, Part.ledgers, Part.power, Part.trace, Part.out, Part.freeIx] a3 x7) => ?_) ?_
  (try clear_value x7); extract_lets +onlyGivenNames x8; (try clear_value x8); extract_lets +onlyGivenNames x9
  refine (fun (h9 : Only [Part.boot, Part.time, Part.pages, Part.stalls, Part.jobs, Part.hubs, Part.aisles, Part.halves,
      Part.clerk, Part.rings, Part.events, Part.ledgers, Part.power, Part.trace, Part.out, Part.freeIx] a3 x9) => ?_) ?_
  (try clear_value x9); refine Only.step ?_ State.takeSnaps_only; exact h9; unfold x9; split
  refine Only.step ?_ State.reconcile_only; refine Only.upd ?_; exact h7; refine Only.step ?_ State.unreconciled_only
  refine Only.upd ?_; exact h7; unfold x7; refine Only.step ?_ State.clearWork_only; exact h4; unfold x4
  refine Only.upd ?_; exact h2; unfold x2; refine holds_foldl ?_ fun x10 a10_ h10 => ?_; exact h1
  refine Only.step ?_ State.accrueAt_only; exact h10; unfold x1; refine Only.step ?_ State.advance_only; exact .refl _

theorem execPitchMove_only {a0 a1 a2 a3 a4 a5 a6 a7} :
    Nxt (Only [.boot, .time, .pages, .stalls, .jobs, .hubs, .mem, .marks, .aisles, .halves, .clerk, .rings, .events, .ledgers,
        .trace, .out, .freeIx] a7) (execPitchMove a0 a1 a2 a3 a4 a5 a6 a7) := by
  unfold execPitchMove; extract_lets +onlyGivenNames x0
  refine (fun (h0 : Only [Part.boot, Part.time, Part.pages, Part.stalls, Part.jobs, Part.hubs, Part.mem, Part.marks,
      Part.aisles, Part.halves, Part.clerk, Part.rings, Part.events, Part.ledgers, Part.trace, Part.out, Part.freeIx] a7 x0)
      => ?_) ?_
  (try clear_value x0); refine .ofNext ?_; refine State.onClerk_only ?_ ?_; exact h0; split; exact h0
  refine holds_ite ?_ ?_; refine Only.step ?_ State.abortSteps_only; exact h0; refine holds_ite ?_ ?_; exact h0
  extract_lets +onlyGivenNames x1; (try clear_value x1); split
  refine Only.step ?_ (State.movePitch_only _ (by assumption)); exact h0; refine holds_ite ?_ ?_
  refine Only.step ?_ State.failJob_only; exact h0; exact h0; unfold x0; refine Only.step ?_ State.advance_only
  exact .refl _

theorem execPreemptResume_only {a0 a1 a2} :
    Nxt (Only [.boot, .time, .pages, .stalls, .jobs, .hubs, .aisles, .halves, .clerk, .rings, .events, .ledgers, .trace, .out,
        .freeIx] a2) (execPreemptResume a0 a1 a2) := by
  unfold execPreemptResume; extract_lets +onlyGivenNames x0
  refine (fun (h0 : Only [Part.boot, Part.time, Part.pages, Part.stalls, Part.jobs, Part.hubs, Part.aisles, Part.halves,
      Part.clerk, Part.rings, Part.events, Part.ledgers, Part.trace, Part.out, Part.freeIx] a2 x0) => ?_) ?_
  (try clear_value x0); refine .ofNext ?_; refine State.onClerk_only ?_ ?_; exact h0; split; refine holds_ite ?_ ?_
  refine Only.step ?_ State.resumeJob_only; exact h0; exact h0; exact h0; unfold x0
  refine Only.step ?_ State.advance_only; exact .refl _

theorem execStepWatchdogExpiry_only {a0 a1 a2} :
    Nxt (Only [.boot, .time, .pages, .stalls, .jobs, .hubs, .aisles, .halves, .clerk, .rings, .events, .ledgers, .trace, .out,
        .freeIx] a2) (execStepWatchdogExpiry a0 a1 a2) := by
  unfold execStepWatchdogExpiry; extract_lets +onlyGivenNames x0
  refine (fun (h0 : Only [Part.boot, Part.time, Part.pages, Part.stalls, Part.jobs, Part.hubs, Part.aisles, Part.halves,
      Part.clerk, Part.rings, Part.events, Part.ledgers, Part.trace, Part.out, Part.freeIx] a2 x0) => ?_) ?_
  (try clear_value x0); refine .ofNext ?_; refine State.onClerk_only ?_ ?_; exact h0; split; exact h0; split; exact h0
  refine holds_ite ?_ ?_; exact h0; refine Only.step ?_ State.raise_only; exact h0; unfold x0
  refine Only.step ?_ State.advance_only; exact .refl _

theorem execStepRerunGo_only {a0 a1 a2 a3 a4} :
    Nxt (Only [.pins, .boot, .time, .bell, .pages, .stalls, .jobs, .hubs, .sched, .mem, .marks, .arbs, .aisles, .halves,
        .clerk, .rings, .events, .ledgers, .trace, .out, .freeIx] a4) (execStepRerunGo a0 a1 a2 a3 a4) := by
  unfold execStepRerunGo; extract_lets +onlyGivenNames x0
  refine (fun (h0 : Only [Part.pins, Part.boot, Part.time, Part.bell, Part.pages, Part.stalls, Part.jobs, Part.hubs,
      Part.sched, Part.mem, Part.marks, Part.arbs, Part.aisles, Part.halves, Part.clerk, Part.rings, Part.events,
      Part.ledgers, Part.trace, Part.out, Part.freeIx] a4 x0) => ?_) ?_
  (try clear_value x0); refine .ofNext ?_; refine State.onClerk_only ?_ ?_; exact h0; split; exact h0
  refine holds_ite ?_ ?_; exact h0; refine Only.step ?_ State.rerunStep_only
  refine Only.step ?_ State.restoreSteps_only; exact h0; unfold x0; refine Only.step ?_ State.advance_only
  exact .refl _

theorem execEngineBusyExpiry_only {a0 a1 a2 a3} :
    Nxt (Only [.boot, .time, .pages, .stalls, .jobs, .hubs, .aisles, .halves, .clerk, .rings, .events, .ledgers, .trace, .out,
        .freeIx] a3) (execEngineBusyExpiry a0 a1 a2 a3) := by
  unfold execEngineBusyExpiry; extract_lets +onlyGivenNames x0
  refine (fun (h0 : Only [Part.boot, Part.time, Part.pages, Part.stalls, Part.jobs, Part.hubs, Part.aisles, Part.halves,
      Part.clerk, Part.rings, Part.events, Part.ledgers, Part.trace, Part.out, Part.freeIx] a3 x0) => ?_) ?_
  (try clear_value x0); extract_lets +onlyGivenNames x1; (try clear_value x1); refine .ofNext ?_
  refine State.on_only ?_ ?_; exact h0; split; refine holds_ite ?_ ?_; refine Only.step ?_ State.raise_only; exact h0
  exact h0; exact h0; unfold x0; refine Only.step ?_ State.advance_only; exact .refl _

theorem execClerkWatchdogExpiry_only {a0 a1 a2} :
    Nxt (Only [.boot, .time, .pages, .stalls, .jobs, .hubs, .aisles, .halves, .clerk, .rings, .events, .ledgers, .trace, .out,
        .freeIx] a2) (execClerkWatchdogExpiry a0 a1 a2) := by
  unfold execClerkWatchdogExpiry; extract_lets +onlyGivenNames x0
  refine (fun (h0 : Only [Part.boot, Part.time, Part.pages, Part.stalls, Part.jobs, Part.hubs, Part.aisles, Part.halves,
      Part.clerk, Part.rings, Part.events, Part.ledgers, Part.trace, Part.out, Part.freeIx] a2 x0) => ?_) ?_
  (try clear_value x0); refine .ofNext ?_; refine State.on_only ?_ ?_; exact h0; refine holds_ite ?_ ?_; exact h0
  extract_lets +onlyGivenNames x1; (try clear_value x1); extract_lets +onlyGivenNames x2; (try clear_value x2)
  extract_lets +onlyGivenNames x3
  refine (fun (h3 : Only [Part.boot, Part.time, Part.pages, Part.stalls, Part.jobs, Part.hubs, Part.aisles, Part.halves,
      Part.clerk, Part.rings, Part.events, Part.ledgers, Part.trace, Part.out, Part.freeIx] a2 x3) => ?_) ?_
  (try clear_value x3); extract_lets +onlyGivenNames x4
  refine (fun (h4 : Only [Part.boot, Part.time, Part.pages, Part.stalls, Part.jobs, Part.hubs, Part.aisles, Part.halves,
      Part.clerk, Part.rings, Part.events, Part.ledgers, Part.trace, Part.out, Part.freeIx] a2 x4) => ?_) ?_
  (try clear_value x4); refine holds_ite ?_ ?_; refine Only.step ?_ State.nextPrimary_only; exact h4; exact h4
  unfold x4; refine Only.step ?_ State.raise_only; exact h3; unfold x3; refine Only.upd ?_; exact h0; unfold x0
  refine Only.step ?_ State.advance_only; exact .refl _

theorem execCompanionLossTimeout_only {a0 a1} :
    Nxt (Only [.boot, .time, .pages, .stalls, .jobs, .hubs, .aisles, .halves, .clerk, .rings, .events, .ledgers, .trace, .out,
        .freeIx] a1) (execCompanionLossTimeout a0 a1) := by
  unfold execCompanionLossTimeout; extract_lets +onlyGivenNames x0
  refine (fun (h0 : Only [Part.boot, Part.time, Part.pages, Part.stalls, Part.jobs, Part.hubs, Part.aisles, Part.halves,
      Part.clerk, Part.rings, Part.events, Part.ledgers, Part.trace, Part.out, Part.freeIx] a1 x0) => ?_) ?_
  (try clear_value x0); refine .ofNext ?_; refine State.on_only ?_ ?_; exact h0; refine holds_ite ?_ ?_; exact h0
  extract_lets +onlyGivenNames x1
  refine (fun (h1 : Only [Part.boot, Part.time, Part.pages, Part.stalls, Part.jobs, Part.hubs, Part.aisles, Part.halves,
      Part.clerk, Part.rings, Part.events, Part.ledgers, Part.trace, Part.out, Part.freeIx] a1 x1) => ?_) ?_
  (try clear_value x1); refine holds_foldl ?_ fun x2 a2_ h2 => ?_; exact h1; refine Only.step ?_ State.failJob_only
  exact h2; unfold x1; refine Only.step ?_ State.raise_only; exact h0; unfold x0
  refine Only.step ?_ State.advance_only; exact .refl _

theorem execStatusHeartbeat_only {a0} :
    Nxt (Only [.time, .pages, .stalls, .halves, .rings, .power, .out] a0) (execStatusHeartbeat a0) := by
  unfold execStatusHeartbeat; refine .ofNext ?_; refine State.on_only ?_ ?_; exact .refl _
  extract_lets +onlyGivenNames x3; (try clear_value x3); extract_lets +onlyGivenNames x4
  refine (fun (h4 : Only [Part.time, Part.pages, Part.stalls, Part.halves, Part.rings, Part.power, Part.out] a0 x4) => ?_) ?_
  (try clear_value x4); extract_lets +onlyGivenNames x5; (try clear_value x5); extract_lets +onlyGivenNames x6
  refine (fun (h6 : Only [Part.time, Part.pages, Part.stalls, Part.halves, Part.rings, Part.power, Part.out] a0 x6) => ?_) ?_
  (try clear_value x6); refine holds_ite ?_ ?_; exact h6; refine Only.step ?_ State.writeStatus_only
  refine Only.upd ?_; exact h6; unfold x6; refine Only.upd ?_; exact h4; unfold x4
  refine Only.step ?_ State.advance_only; exact .refl _

theorem execCompanionRead_only {a0 a1 a2 a3} :
    Nxt (Only [.boot, .time, .bell, .pages, .latches, .stalls, .jobs, .hubs, .aisles, .halves, .clerk, .rings, .events,
        .ledgers, .trace, .out, .freeIx] a3) (execCompanionRead a0 a1 a2 a3) := by
  unfold execCompanionRead; extract_lets +onlyGivenNames x0
  refine (fun (h0 : Only [Part.boot, Part.time, Part.bell, Part.pages, Part.latches, Part.stalls, Part.jobs, Part.hubs,
      Part.aisles, Part.halves, Part.clerk, Part.rings, Part.events, Part.ledgers, Part.trace, Part.out, Part.freeIx] a3 x0)
      => ?_) ?_
  (try clear_value x0); refine .ofNext ?_; refine State.on_only ?_ ?_; exact h0; split; exact h0
  refine holds_ite ?_ ?_; extract_lets +onlyGivenNames x1
  refine (fun (h1 : Snd (Only [Part.boot, Part.time, Part.bell, Part.pages, Part.latches, Part.stalls, Part.jobs, Part.hubs,
      Part.aisles, Part.halves, Part.clerk, Part.rings, Part.events, Part.ledgers, Part.trace, Part.out, Part.freeIx] a3) x1)
      => ?_) ?_
  (try clear_value x1); refine Only.step ?_ State.respond_only; exact h1; unfold x1
  refine Only.stepSnd ?_ State.readWindow_only; refine Only.step ?_ (State.takeSlot_only _ (by assumption)); exact h0
  split; refine Only.step ?_ State.readHbm_only; refine Only.step ?_ (State.takeSlot_only _ (by assumption)); exact h0
  refine Only.step ?_ State.refuseAccess_only; refine Only.step ?_ (State.takeSlot_only _ (by assumption)); exact h0
  unfold x0; refine Only.step ?_ State.advance_only; exact .refl _

theorem execCompanionWrite_only {a0 a1 a2 a3} :
    Nxt (Only [.pins, .boot, .time, .bell, .pages, .stalls, .jobs, .hubs, .sched, .mem, .marks, .arbs, .aisles, .halves,
        .clerk, .rings, .events, .ledgers, .trace, .out, .freeIx] a3) (execCompanionWrite a0 a1 a2 a3) := by
  unfold execCompanionWrite; extract_lets +onlyGivenNames x0
  refine (fun (h0 : Only [Part.pins, Part.boot, Part.time, Part.bell, Part.pages, Part.stalls, Part.jobs, Part.hubs,
      Part.sched, Part.mem, Part.marks, Part.arbs, Part.aisles, Part.halves, Part.clerk, Part.rings, Part.events,
      Part.ledgers, Part.trace, Part.out, Part.freeIx] a3 x0) => ?_) ?_
  (try clear_value x0); refine .ofNext ?_; refine State.on_only ?_ ?_; exact h0; split; exact h0
  refine holds_ite ?_ ?_; refine Only.step ?_ State.writeWindow_only
  refine Only.step ?_ (State.takeSlot_only _ (by assumption)); exact h0; split
  refine Only.step ?_ State.writeHbm_only; refine Only.step ?_ (State.takeSlot_only _ (by assumption)); exact h0
  refine Only.step ?_ State.refuseAccess_only; refine Only.step ?_ (State.takeSlot_only _ (by assumption)); exact h0
  unfold x0; refine Only.step ?_ State.advance_only; exact .refl _

theorem execInval_only {a0 a1 a2} :
    Nxt (Only [.time, .pages, .stalls, .halves, .rings] a2) (execInval a0 a1 a2) := by
  unfold execInval; extract_lets +onlyGivenNames x0
  refine (fun (h0 : Only [Part.time, Part.pages, Part.stalls, Part.halves, Part.rings] a2 x0) => ?_) ?_
  (try clear_value x0); refine .ofNext ?_; refine State.on_only ?_ ?_; exact h0; split; exact h0
  refine holds_ite ?_ ?_; exact h0; refine Only.step ?_ State.respond_only; refine Only.step ?_ State.dropLine_only
  refine Only.step ?_ State.count_only; refine Only.step ?_ (State.takeSlot_only _ (by assumption)); exact h0
  unfold x0; refine Only.step ?_ State.advance_only; exact .refl _

theorem execLemefHalfLost_only {a0 a1 a2} :
    Nxt (Only [.boot, .time, .pages, .stalls, .jobs, .hubs, .arbs, .aisles, .halves, .clerk, .rings, .events, .ledgers,
        .trace, .out, .freeIx] a2) (execLemefHalfLost a0 a1 a2) := by
  unfold execLemefHalfLost; extract_lets +onlyGivenNames x0
  refine (fun (h0 : Only [Part.boot, Part.time, Part.pages, Part.stalls, Part.jobs, Part.hubs, Part.arbs, Part.aisles,
      Part.halves, Part.clerk, Part.rings, Part.events, Part.ledgers, Part.trace, Part.out, Part.freeIx] a2 x0) => ?_) ?_
  (try clear_value x0); refine .ofNext ?_; refine State.on_only ?_ ?_; exact h0; refine holds_ite ?_ ?_; exact h0
  refine Only.step ?_ State.loseHalf_only; exact h0; unfold x0; refine Only.step ?_ State.advance_only; exact .refl _

theorem execLemefTrained_only {a0} :
    Nxt (Only [.boot, .pages, .stalls, .halves, .out] a0) (execLemefTrained a0) := by
  unfold execLemefTrained; refine .ofNext ?_; refine State.on_only ?_ ?_; exact .refl _; refine holds_ite ?_ ?_
  exact .refl _; extract_lets +onlyGivenNames x5
  refine (fun (h5 : Only [Part.boot, Part.pages, Part.stalls, Part.halves, Part.out] a0 x5) => ?_) ?_
  (try clear_value x5); refine Only.upd ?_; exact h5; unfold x5; refine holds_foldl ?_ fun x9 a9_ h9 => ?_
  exact .refl _; refine Only.step ?_ State.enterHalf_only; exact h9

theorem execResetNRelease_only {a0 a1} :
    Nxt (Only [.pins] a1) (execResetNRelease a0 a1) := by
  unfold execResetNRelease; refine holds_ite ?_ ?_; exact .ofFault; refine .ofNext ?_; refine holds_ite ?_ ?_
  exact .refl _; extract_lets +onlyGivenNames x5; (try clear_value x5); extract_lets +onlyGivenNames x6
  refine (fun (h6 : Only [Part.pins] a1 x6) => ?_) ?_; (try clear_value x6); refine holds_ite ?_ ?_
  refine Only.step ?_ State.release_only; exact h6; refine Only.updPins ?_; exact h6; unfold x6
  refine Only.updPins ?_; exact .refl _

theorem execResetNAssert_only {a0} :
Nxt (Only [.pins, .boot, .time, .bell, .pages, .latches, .stalls, .jobs, .hubs, .sched, .mem, .marks, .outStacks,
      .chans, .arbs, .aisles, .halves, .clerk, .rings, .events, .ledgers, .power, .trace] a0) (execResetNAssert a0) := by
  unfold execResetNAssert; refine .ofNext ?_; refine holds_ite ?_ ?_; exact .refl _
  refine Only.step ?_ State.restart_only; refine Only.updPins ?_; exact .refl _

theorem execPwrGoodFall_only {a0} :
Nxt (Only [.pins, .boot, .time, .bell, .pages, .latches, .stalls, .jobs, .hubs, .sched, .mem, .marks, .outStacks,
      .chans, .arbs, .aisles, .halves, .clerk, .rings, .events, .ledgers, .power, .trace] a0) (execPwrGoodFall a0) := by
  unfold execPwrGoodFall; refine .ofNext ?_; refine holds_ite ?_ ?_; exact .refl _
  refine Only.step ?_ State.restart_only; refine Only.updPins ?_; exact .refl _

theorem execPwrGoodRise_only {a0} :
    Nxt (Only [.pins] a0) (execPwrGoodRise a0) := by
  unfold execPwrGoodRise; refine .ofNext ?_; refine holds_ite ?_ ?_; exact .refl _; extract_lets +onlyGivenNames x3
  (try clear_value x3); extract_lets +onlyGivenNames x4; refine (fun (h4 : Only [Part.pins] a0 x4) => ?_) ?_
  (try clear_value x4); refine holds_ite ?_ ?_; refine Only.step ?_ State.release_only; exact h4; exact h4; unfold x4
  refine Only.updPins ?_; exact .refl _

theorem execBootTakeover_only {a0} :
    Nxt (Only [.boot, .pages, .stalls, .halves, .clerk, .out] a0) (execBootTakeover a0) := by
  unfold execBootTakeover; refine .ofNext ?_; refine State.on_only ?_ ?_; exact .refl _; refine holds_ite ?_ ?_
  exact .refl _; extract_lets +onlyGivenNames x5
  refine (fun (h5 : Only [Part.boot, Part.pages, Part.stalls, Part.halves, Part.clerk, Part.out] a0 x5) => ?_) ?_
  (try clear_value x5); refine Only.upd ?_; exact h5; unfold x5; refine holds_foldl ?_ fun x9 a9_ h9 => ?_
  exact .refl _; refine Only.step ?_ State.enterHalf_only; exact h9

theorem execImageFetchComplete_only {a0 a1 a2} :
    Nxt (Only [.boot] a2) (execImageFetchComplete a0 a1 a2) := by
  unfold execImageFetchComplete; refine .ofNext ?_; refine State.on_only ?_ ?_; exact .refl _; refine holds_ite ?_ ?_
  exact .refl _; refine Only.upd ?_; exact .refl _

theorem execOpeningInspectionDone_only {a0 a1} :
    Nxt (Only [.fuses, .boot, .pages, .stalls, .jobs, .hubs, .mem, .marks, .outStacks, .chans, .aisles, .halves, .clerk,
        .rings, .events, .ledgers, .power, .trace, .out, .freeIx] a1) (execOpeningInspectionDone a0 a1) := by
  unfold execOpeningInspectionDone; refine .ofNext ?_; refine State.on_only ?_ ?_; exact .refl _
  extract_lets +onlyGivenNames x0
  refine (fun (h0 : Only [Part.fuses, Part.boot, Part.pages, Part.stalls, Part.jobs, Part.hubs, Part.mem, Part.marks,
      Part.outStacks, Part.chans, Part.aisles, Part.halves, Part.clerk, Part.rings, Part.events, Part.ledgers, Part.power,
      Part.trace, Part.out, Part.freeIx] a1 x0) => ?_) ?_
  (try clear_value x0); refine holds_ite ?_ ?_; exact h0; extract_lets +onlyGivenNames x1; (try clear_value x1)
  extract_lets +onlyGivenNames x2
  refine (fun (h2 : Only [Part.fuses, Part.boot, Part.pages, Part.stalls, Part.jobs, Part.hubs, Part.mem, Part.marks,
      Part.outStacks, Part.chans, Part.aisles, Part.halves, Part.clerk, Part.rings, Part.events, Part.ledgers, Part.power,
      Part.trace, Part.out, Part.freeIx] a1 x2) => ?_) ?_
  (try clear_value x2); extract_lets +onlyGivenNames x3
  refine (fun (h3 : Only [Part.fuses, Part.boot, Part.pages, Part.stalls, Part.jobs, Part.hubs, Part.mem, Part.marks,
      Part.outStacks, Part.chans, Part.aisles, Part.halves, Part.clerk, Part.rings, Part.events, Part.ledgers, Part.power,
      Part.trace, Part.out, Part.freeIx] a1 x3) => ?_) ?_
  (try clear_value x3); refine holds_ite ?_ ?_; exact h3; extract_lets +onlyGivenNames x4
  refine (fun (h4 : Only [Part.fuses, Part.boot, Part.pages, Part.stalls, Part.jobs, Part.hubs, Part.mem, Part.marks,
      Part.outStacks, Part.chans, Part.aisles, Part.halves, Part.clerk, Part.rings, Part.events, Part.ledgers, Part.power,
      Part.trace, Part.out, Part.freeIx] a1 x4) => ?_) ?_
  (try clear_value x4); extract_lets +onlyGivenNames x5; (try clear_value x5); refine Only.upd ?_; exact h4; unfold x4
  refine Only.step ?_ State.advanceFuse_only; exact h3; unfold x3; refine Only.step ?_ State.placeTable_only
  refine Only.step ?_ State.chooseClerk_only; refine Only.step ?_ State.testDevice_only; exact h2; unfold x2
  refine Only.upd ?_; exact h0; unfold x0; refine Only.step ?_ State.verifyImage_only; exact .refl _

theorem execThermtrip_only {a0} :
    Nxt (Only [.pins] a0) (execThermtrip a0) := by
  unfold execThermtrip; refine .ofNext ?_; refine holds_ite ?_ ?_; refine Only.updPins ?_; exact .refl _
  exact .refl _

theorem execSmbusRead_only {a0 a1 a2} :
    Nxt (Only [.out] a2) (execSmbusRead a0 a1 a2) := by
  unfold execSmbusRead; refine .ofNext ?_; refine holds_ite ?_ ?_; refine Only.step ?_ State.emit_only; exact .refl _
  exact .refl _

theorem execTapInstruction_only {a0 a1} :
    Nxt (Only [.pins, .out, .freeIx] a1) (execTapInstruction a0 a1) := by
  unfold execTapInstruction; refine .ofNext ?_; refine holds_ite ?_ ?_; refine Only.step ?_ State.scan_only
  exact .refl _; exact .refl _

theorem execTraceCounterSnapshot_only {a0} :
    Nxt (Only [.time, .pages, .stalls, .trace, .out] a0) (execTraceCounterSnapshot a0) := by
  unfold execTraceCounterSnapshot; refine .ofNext ?_; refine State.on_only ?_ ?_; exact .refl _
  extract_lets +onlyGivenNames x3; (try clear_value x3); refine holds_ite ?_ ?_; exact .refl _
  extract_lets +onlyGivenNames x6
  refine (fun (h6 : Only [Part.time, Part.pages, Part.stalls, Part.trace, Part.out] a0 x6) => ?_) ?_
  (try clear_value x6); refine holds_foldl ?_ fun x7 a7_ h7 => ?_; exact h6; refine Only.step ?_ State.traceRec_only
  exact h7; unfold x6; refine Only.step ?_ State.advance_only; exact .refl _

theorem execLemefSlotReceive_only {a0 a1 a2 a3} :
    Nxt (Only [.boot, .time, .pages, .stalls, .jobs, .hubs, .arbs, .aisles, .halves, .clerk, .rings, .events, .ledgers,
        .trace, .out, .freeIx] a3) (execLemefSlotReceive a0 a1 a2 a3) := by
  unfold execLemefSlotReceive; extract_lets +onlyGivenNames x0
  refine (fun (h0 : Only [Part.boot, Part.time, Part.pages, Part.stalls, Part.jobs, Part.hubs, Part.arbs, Part.aisles,
      Part.halves, Part.clerk, Part.rings, Part.events, Part.ledgers, Part.trace, Part.out, Part.freeIx] a3 x0) => ?_) ?_
  (try clear_value x0); extract_lets +onlyGivenNames x1; (try clear_value x1); refine .ofNext ?_
  refine State.on_only ?_ ?_; exact h0; extract_lets +onlyGivenNames x2
  refine (fun (h2 : Only [Part.boot, Part.time, Part.pages, Part.stalls, Part.jobs, Part.hubs, Part.arbs, Part.aisles,
      Part.halves, Part.clerk, Part.rings, Part.events, Part.ledgers, Part.trace, Part.out, Part.freeIx] a3 x2) => ?_) ?_
  (try clear_value x2); extract_lets +onlyGivenNames x3; (try clear_value x3); refine holds_ite ?_ ?_; exact h2
  refine holds_ite ?_ ?_; refine Only.step ?_ State.nakHalf_only; refine Only.step ?_ State.count_only; exact h2
  extract_lets +onlyGivenNames x4
  refine (fun (h4 : Only [Part.boot, Part.time, Part.pages, Part.stalls, Part.jobs, Part.hubs, Part.arbs, Part.aisles,
      Part.halves, Part.clerk, Part.rings, Part.events, Part.ledgers, Part.trace, Part.out, Part.freeIx] a3 x4) => ?_) ?_
  (try clear_value x4); extract_lets +onlyGivenNames x5
  refine (fun (h5 : Only [Part.boot, Part.time, Part.pages, Part.stalls, Part.jobs, Part.hubs, Part.arbs, Part.aisles,
      Part.halves, Part.clerk, Part.rings, Part.events, Part.ledgers, Part.trace, Part.out, Part.freeIx] a3 x5) => ?_) ?_
  (try clear_value x5); refine holds_ite ?_ ?_; exact h5; refine holds_ite ?_ ?_
  refine Only.step ?_ State.acceptSlot_only; exact h5; refine Only.step ?_ State.nakHalf_only; exact h5; unfold x5
  refine holds_ite ?_ ?_; refine Only.step ?_ State.replayHalf_only; exact h4; exact h4; unfold x4
  refine Only.step ?_ State.setHalf_only; exact h2; unfold x2; refine Only.step ?_ State.slotLock_only; exact h0
  unfold x0; refine Only.step ?_ State.advance_only; exact .refl _

theorem execLemefAckTimeout_only {a0 a1 a2} :
    Nxt (Only [.boot, .time, .pages, .stalls, .jobs, .hubs, .arbs, .aisles, .halves, .clerk, .rings, .events, .ledgers,
        .trace, .out, .freeIx] a2) (execLemefAckTimeout a0 a1 a2) := by
  unfold execLemefAckTimeout; extract_lets +onlyGivenNames x0
  refine (fun (h0 : Only [Part.boot, Part.time, Part.pages, Part.stalls, Part.jobs, Part.hubs, Part.arbs, Part.aisles,
      Part.halves, Part.clerk, Part.rings, Part.events, Part.ledgers, Part.trace, Part.out, Part.freeIx] a2 x0) => ?_) ?_
  (try clear_value x0); extract_lets +onlyGivenNames x1; (try clear_value x1); refine .ofNext ?_
  refine State.on_only ?_ ?_; exact h0; refine holds_ite ?_ ?_; refine Only.step ?_ State.replayHalf_only
  refine Only.step ?_ State.setHalf_only; exact h0; exact h0; unfold x0; refine Only.step ?_ State.advance_only
  exact .refl _

theorem execLemefRetrain_only {a0 a1 a2} :
    Nxt (Only [.time, .pages, .stalls, .halves] a2) (execLemefRetrain a0 a1 a2) := by
  unfold execLemefRetrain; extract_lets +onlyGivenNames x0
  refine (fun (h0 : Only [Part.time, Part.pages, Part.stalls, Part.halves] a2 x0) => ?_) ?_; (try clear_value x0)
  extract_lets +onlyGivenNames x1; (try clear_value x1); refine .ofNext ?_; refine State.on_only ?_ ?_; exact h0
  refine holds_ite ?_ ?_; exact h0; refine Only.step ?_ State.setHalf_only; exact h0; unfold x0
  refine Only.step ?_ State.advance_only; exact .refl _

theorem execClerkResumesService_only {a0 a1} :
    Nxt (Only [.time, .pages, .stalls, .jobs, .hubs, .aisles, .halves, .clerk, .rings, .events, .ledgers, .trace, .out,
        .freeIx] a1) (execClerkResumesService a0 a1) := by
  unfold execClerkResumesService; extract_lets +onlyGivenNames x0
  refine (fun (h0 : Only [Part.time, Part.pages, Part.stalls, Part.jobs, Part.hubs, Part.aisles, Part.halves, Part.clerk,
      Part.rings, Part.events, Part.ledgers, Part.trace, Part.out, Part.freeIx] a1 x0) => ?_) ?_
  (try clear_value x0); refine .ofNext ?_; refine State.on_only ?_ ?_; exact h0; refine holds_ite ?_ ?_; exact h0
  extract_lets +onlyGivenNames x1; (try clear_value x1); extract_lets +onlyGivenNames x2; (try clear_value x2)
  extract_lets +onlyGivenNames x3
  refine (fun (h3 : Only [Part.time, Part.pages, Part.stalls, Part.jobs, Part.hubs, Part.aisles, Part.halves, Part.clerk,
      Part.rings, Part.events, Part.ledgers, Part.trace, Part.out, Part.freeIx] a1 x3) => ?_) ?_
  (try clear_value x3); refine Only.step ?_ State.post_only; refine holds_foldl ?_ fun x4 a4_ h4 => ?_
  refine Only.step ?_ State.refreshed_only; exact h3; refine Only.step ?_ State.clerkAct_only; exact h4; unfold x3
  refine Only.upd ?_; exact h0; unfold x0; refine Only.step ?_ State.advance_only; exact .refl _

theorem execVioRise_only {a0} :
    Nxt (Only [.pins] a0) (execVioRise a0) := by
  unfold execVioRise; refine .ofNext ?_; refine holds_ite ?_ ?_; exact .refl _; refine Only.updPins ?_; exact .refl _

theorem execVioFall_only {a0} :
Nxt (Only [.pins, .boot, .time, .bell, .pages, .latches, .stalls, .jobs, .hubs, .sched, .mem, .marks, .outStacks,
      .chans, .arbs, .aisles, .halves, .clerk, .rings, .events, .ledgers, .power, .trace] a0) (execVioFall a0) := by
  unfold execVioFall; refine .ofNext ?_; refine Only.step ?_ State.restart_only; refine Only.updPins ?_; exact .refl _

theorem execSetPolicySyncTimeout_only {a0 a1} :
Nxt (Only [.time, .bell, .pages, .stalls, .jobs, .halves, .clerk, .rings, .events, .ledgers, .trace, .out] a1)
      (execSetPolicySyncTimeout a0 a1) := by
  unfold execSetPolicySyncTimeout; extract_lets +onlyGivenNames x0
  refine (fun (h0 : Only [Part.time, Part.bell, Part.pages, Part.stalls, Part.jobs, Part.halves, Part.clerk, Part.rings,
      Part.events,
    Part.ledgers, Part.trace, Part.out] a1 x0) => ?_) ?_; (try clear_value x0); refine .ofNext ?_
  refine State.onClerk_only ?_ ?_; exact h0; split; refine holds_ite ?_ ?_; exact h0
  refine Only.step ?_ State.finish_only; refine Only.upd ?_; exact h0; exact h0; unfold x0
  refine Only.step ?_ State.advance_only; exact .refl _

theorem idleTick_only {a0} :
    Only [.boot, .time, .pages, .stalls, .jobs, .hubs, .aisles, .halves, .clerk, .rings, .events, .ledgers, .trace, .out,
        .freeIx] a0 (idleTick a0) := by
  unfold idleTick; refine holds_ite ?_ ?_; exact .refl _; extract_lets +onlyGivenNames x0
  refine (fun (h0 : Only [Part.boot, Part.time, Part.pages, Part.stalls, Part.jobs, Part.hubs, Part.aisles, Part.halves,
      Part.clerk, Part.rings, Part.events, Part.ledgers, Part.trace, Part.out, Part.freeIx] a0 x0) => ?_) ?_
  (try clear_value x0); extract_lets +onlyGivenNames x1
  refine (fun (h1 : Only [Part.boot, Part.time, Part.pages, Part.stalls, Part.jobs, Part.hubs, Part.aisles, Part.halves,
      Part.clerk, Part.rings, Part.events, Part.ledgers, Part.trace, Part.out, Part.freeIx] a0 x1) => ?_) ?_
  (try clear_value x1); refine Only.step ?_ State.verifyImage_only; refine holds_foldl ?_ fun x2 a2_ h2 => ?_
  exact h1; refine Only.step ?_ State.dueIdents_only; exact h2; unfold x1; refine holds_foldl ?_ fun x3 a3_ h3 => ?_
  exact h0; refine Only.step ?_ State.touch_only; exact h3; unfold x0; refine Only.step ?_ State.advance_only
  exact .refl _

end Sys2Proof.Machine
end

