-- ==== Sys2Proof/Laws/KeepsDevice.lean ====
section
/-! SUPPORT. Operations that may write the boot state or the events leave the device state as it was, but that the device may stop on
a DEVICE_FATAL event. -/

set_option Elab.async false
namespace Sys2Proof.Machine

theorem State.postEvents_devHeld {a0 a1} :
    DevHeld a0 (State.postEvents a0 a1) := by
  induction a1 generalizing a0 with
  | zero =>
    unfold State.postEvents; exact .refl _
  | succ n ih =>
    unfold State.postEvents; extract_lets +onlyGivenNames x0; (try clear_value x0); refine holds_ite ?_ ?_
    exact .refl _; split; exact .refl _; extract_lets +onlyGivenNames x1; (try clear_value x1)
    extract_lets +onlyGivenNames x2; (try clear_value x2); extract_lets +onlyGivenNames x3; (try clear_value x3)
    extract_lets +onlyGivenNames x4; extract_lets +onlyGivenNames x5; refine (fun (h5 : DevHeld a0 x5) => ?_) ?_
    (try clear_value x5); refine DevHeld.step ?_ ih; refine DevHeld.step ?_ (Only.devHeld State.writeCompanion_only)
    exact h5; unfold x5; refine DevHeld.upd ?_; exact .refl _

theorem State.post_devHeld {a0} :
    DevHeld a0 (State.post a0) := by
  unfold State.post; extract_lets +onlyGivenNames x0; refine (fun (h0 : DevHeld a0 x0) => ?_) ?_; (try clear_value x0)
  refine holds_ite ?_ ?_; refine DevHeld.step ?_ (Only.devHeld State.writeStatus_only); exact h0; exact h0; unfold x0
  refine DevHeld.step ?_ State.postEvents_devHeld; exact .refl _

theorem State.record_devHeld {a0 : State} {a1 : Ev} (h : a1.sev ≠ 4 := by simp [State.mkEv]) :
    DevHeld a0 (State.record a0 a1) := by
  refine .of (congrArg Boot.dev (State.record_only .boot (by decide))) ?_
  rw [State.record_events]
  simp [h]

theorem State.charge_devHeld {a0 a1 a2 a3} :
    DevHeld a0 (State.charge a0 a1 a2 a3) := by
  unfold State.charge; refine holds_ite ?_ ?_; exact .refl _; extract_lets +onlyGivenNames x0
  refine (fun (h0 : DevHeld a0 x0) => ?_) ?_; (try clear_value x0); extract_lets +onlyGivenNames x1
  (try clear_value x1); refine holds_ite ?_ ?_; exact h0; refine DevHeld.step ?_ State.post_devHeld
  refine DevHeld.step ?_ State.record_devHeld; refine DevHeld.step ?_ (Only.devHeld State.setLedger_only); exact h0
  unfold x0; refine DevHeld.step ?_ (Only.devHeld State.count_only)
  refine DevHeld.step ?_ (Only.devHeld State.noteEnergy_only); exact .refl _

theorem State.writeCompletion_devHeld {a0 a1 a2 a3 a4 a5 a6 a7 a8} :
    DevHeld a0 (State.writeCompletion a0 a1 a2 a3 a4 a5 a6 a7 a8) := by
  unfold State.writeCompletion; extract_lets +onlyGivenNames x0; (try clear_value x0); extract_lets +onlyGivenNames x1
  refine (fun (h1 : DevHeld a0 x1) => ?_) ?_; (try clear_value x1); refine holds_ite ?_ ?_
  refine DevHeld.step ?_ State.charge_devHeld; exact h1; exact h1; unfold x1
  refine DevHeld.step ?_ (Only.devHeld State.count_only)
  refine DevHeld.step ?_ (Only.devHeld State.putCompletion_only); exact .refl _

theorem State.finishDups_devHeld {a0 a1 a2 a3} :
    DevHeld a0 (State.finishDups a0 a1 a2 a3) := by
  unfold State.finishDups; refine holds_foldl ?_ fun x0 a0_ h0 => ?_; exact .refl _
  refine DevHeld.step ?_ State.writeCompletion_devHeld; refine DevHeld.upd ?_; exact h0

theorem State.finish_devHeld {a0 a1 a2 a3 a4 a5 a6 a7} :
    DevHeld a0 (State.finish a0 a1 a2 a3 a4 a5 a6 a7) := by
  unfold State.finish; refine holds_ite ?_ ?_; refine DevHeld.step ?_ (Only.devHeld State.await_only); exact .refl _
  split; exact .refl _; extract_lets +onlyGivenNames x0; (try clear_value x0); extract_lets +onlyGivenNames x1
  refine (fun (h1 : DevHeld a0 x1) => ?_) ?_; (try clear_value x1); extract_lets +onlyGivenNames x2
  (try clear_value x2); extract_lets +onlyGivenNames x3; refine (fun (h3 : DevHeld a0 x3) => ?_) ?_
  (try clear_value x3); refine DevHeld.step ?_ State.finishDups_devHeld
  refine DevHeld.step ?_ State.writeCompletion_devHeld; exact h3; unfold x3; split
  refine DevHeld.step ?_ (Only.devHeld State.setJob_only); exact h1; exact h1; unfold x1; refine DevHeld.upd ?_
  exact .refl _

theorem State.compareSeals_devHeld {a0 a1 a2} :
    DevHeld a0 (State.compareSeals a0 a1 a2) := by
  unfold State.compareSeals; split; exact .refl _; split; exact .refl _; refine holds_ite ?_ ?_; exact .refl _; split
  exact .refl _; extract_lets +onlyGivenNames x0; (try clear_value x0); extract_lets +onlyGivenNames x1
  (try clear_value x1); extract_lets +onlyGivenNames x2; (try clear_value x2); extract_lets +onlyGivenNames x3
  refine (fun (h3 : DevHeld a0 x3) => ?_) ?_; (try clear_value x3); refine holds_ite ?_ ?_; exact h3
  extract_lets +onlyGivenNames x4; refine (fun (h4 : DevHeld a0 x4) => ?_) ?_; (try clear_value x4)
  refine holds_ite ?_ ?_; refine DevHeld.step ?_ (Only.devHeld State.tellSide_only)
  refine DevHeld.step ?_ (Only.devHeld State.suspendJob_only); exact h4; exact h4; unfold x4
  refine DevHeld.step ?_ State.post_devHeld; refine DevHeld.step ?_ State.record_devHeld; exact h3; unfold x3
  refine DevHeld.step ?_ (Only.devHeld State.setJob_only); exact .refl _

theorem State.takeSeal_devHeld {a0 a1 a2 a3 a4 a5 a6} :
    DevHeld a0 (State.takeSeal a0 a1 a2 a3 a4 a5 a6) := by
  unfold State.takeSeal; split; exact .refl _; split; exact .refl _; extract_lets +onlyGivenNames x0
  (try clear_value x0); extract_lets +onlyGivenNames x1; (try clear_value x1); refine holds_ite ?_ ?_
  refine DevHeld.step ?_ (Only.devHeld State.setJob_only); exact .refl _; extract_lets +onlyGivenNames x2
  refine (fun (h2 : DevHeld a0 x2) => ?_) ?_; (try clear_value x2); refine DevHeld.step ?_ State.compareSeals_devHeld
  refine DevHeld.step ?_ (Only.devHeld State.sendTable_only); exact h2; unfold x2
  refine DevHeld.step ?_ (Only.devHeld State.setJob_only); exact .refl _

theorem State.sendSeal_devHeld {a0 a1 a2 a3 a4 a5} :
    DevHeld a0 (State.sendSeal a0 a1 a2 a3 a4 a5) := by
  unfold State.sendSeal; refine holds_ite ?_ ?_; refine DevHeld.step ?_ State.takeSeal_devHeld; exact .refl _
  refine DevHeld.step ?_ (Only.devHeld State.sendClerk_only); exact .refl _

theorem State.sealsOf_devHeld {a0 a1 a2 a3 a4 a5} :
    DevHeld a0 (State.sealsOf a0 a1 a2 a3 a4 a5) := by
  unfold State.sealsOf; split; exact .refl _; refine holds_ite ?_ ?_; exact .refl _; extract_lets +onlyGivenNames x0
  (try clear_value x0); refine holds_foldl ?_ fun x1 a1_ h1 => ?_; exact .refl _; extract_lets +onlyGivenNames x2
  (try clear_value x2); refine holds_ite ?_ ?_; refine DevHeld.step ?_ State.sendSeal_devHeld; exact h1
  refine DevHeld.step ?_ State.sendSeal_devHeld; exact h1

theorem State.discardStep_devHeld {a0 a1 a2 a3} :
    DevHeld a0 (State.discardStep a0 a1 a2 a3) := by
  unfold State.discardStep; split; exact .refl _; extract_lets +onlyGivenNames x0
  refine (fun (h0 : DevHeld a0 x0) => ?_) ?_; (try clear_value x0); extract_lets +onlyGivenNames x1
  refine (fun (h1 : DevHeld a0 x1) => ?_) ?_; (try clear_value x1); extract_lets +onlyGivenNames x2
  refine (fun (h2 : DevHeld a0 x2) => ?_) ?_; (try clear_value x2)
  refine DevHeld.step ?_ (Only.devHeld State.dropFetches_only)
  refine DevHeld.step ?_ (Only.devHeld State.freeAhead_only); exact h2; unfold x2; refine holds_ite ?_ ?_
  refine DevHeld.step ?_ State.sealsOf_devHeld; refine DevHeld.step ?_ (Only.devHeld State.setJob_only); exact h1
  exact h1; unfold x1; refine holds_foldl ?_ fun x3 a3_ h3 => ?_; exact h0; refine holds_foldl ?_ fun x4 a4_ h4 => ?_
  exact h3; refine DevHeld.step ?_ (Only.devHeld State.dropRing_only); exact h4; unfold x0
  refine holds_foldl ?_ fun x5 a5_ h5 => ?_; exact .refl _; refine DevHeld.step ?_ (Only.devHeld State.count_only)
  refine DevHeld.step ?_ (Only.devHeld State.setHub_only); exact h5

theorem State.failNow_devHeld {a0 a1 a2} :
    DevHeld a0 (State.failNow a0 a1 a2) := by
  unfold State.failNow; split; exact .refl _; refine holds_ite ?_ ?_; exact .refl _; extract_lets +onlyGivenNames x0
  (try clear_value x0); extract_lets +onlyGivenNames x1; refine (fun (h1 : DevHeld a0 x1) => ?_) ?_
  (try clear_value x1); extract_lets +onlyGivenNames x2; refine (fun (h2 : DevHeld a0 x2) => ?_) ?_
  (try clear_value x2); extract_lets +onlyGivenNames x3; refine (fun (h3 : DevHeld a0 x3) => ?_) ?_
  (try clear_value x3); refine holds_foldl ?_ fun x4 a4_ h4 => ?_; exact h3
  refine DevHeld.step ?_ State.finish_devHeld; refine DevHeld.step ?_ State.discardStep_devHeld; exact h4; unfold x3
  refine holds_foldl ?_ fun x5 a5_ h5 => ?_; exact h2; refine DevHeld.step ?_ (Only.devHeld State.tellAbort_only)
  exact h5; unfold x2; refine DevHeld.step ?_ (Only.devHeld State.abortStalls_only); exact h1; unfold x1
  refine DevHeld.step ?_ (Only.devHeld State.setJob_only); exact .refl _

theorem State.failJob_devHeld {a0 a1 a2} :
    DevHeld a0 (State.failJob a0 a1 a2) := by
  unfold State.failJob; refine holds_ite ?_ ?_; refine DevHeld.step ?_ State.failNow_devHeld; exact .refl _
  refine DevHeld.step ?_ (Only.devHeld State.await_only); exact .refl _

theorem State.abortSteps_devHeld {a0 a1 a2 a3} :
    DevHeld a0 (State.abortSteps a0 a1 a2 a3) := by
  unfold State.abortSteps; refine holds_ite ?_ ?_; refine DevHeld.step ?_ (Only.devHeld State.await_only)
  exact .refl _; split; exact .refl _; refine holds_ite ?_ ?_; exact .refl _; refine holds_ite ?_ ?_
  refine DevHeld.step ?_ State.failJob_devHeld; exact .refl _; refine holds_ite ?_ ?_; extract_lets +onlyGivenNames x0
  (try clear_value x0); refine DevHeld.step ?_ State.post_devHeld; refine DevHeld.step ?_ State.failJob_devHeld
  refine DevHeld.step ?_ State.record_devHeld; exact .refl _
  refine DevHeld.step ?_ (Only.devHeld State.abortStalls_only)
  refine DevHeld.step ?_ (Only.devHeld State.setJob_only); exact .refl _

theorem State.jobsLose_devHeld {a0 a1 a2 a3 a4} :
    DevHeld a0 (State.jobsLose a0 a1 a2 a3 a4) := by
  unfold State.jobsLose; refine holds_foldl ?_ fun x0 a0_ h0 => ?_; exact .refl _; split; exact h0
  refine holds_ite ?_ ?_; refine DevHeld.step ?_ State.failJob_devHeld; exact h0; refine holds_ite ?_ ?_; exact h0
  refine DevHeld.step ?_ State.abortSteps_devHeld; exact h0

theorem State.fence_devHeld {a0 a1 a2} :
    DevHeld a0 (State.fence a0 a1 a2) := by
  unfold State.fence; refine holds_ite ?_ ?_; refine DevHeld.step ?_ (Only.devHeld State.await_only); exact .refl _
  refine holds_ite ?_ ?_; exact .refl _; extract_lets +onlyGivenNames x0; (try clear_value x0)
  extract_lets +onlyGivenNames x1; refine (fun (h1 : DevHeld a0 x1) => ?_) ?_; (try clear_value x1)
  extract_lets +onlyGivenNames x2; refine (fun (h2 : DevHeld a0 x2) => ?_) ?_; (try clear_value x2)
  extract_lets +onlyGivenNames x3; (try clear_value x3); extract_lets +onlyGivenNames x4; (try clear_value x4)
  extract_lets +onlyGivenNames x5; (try clear_value x5); extract_lets +onlyGivenNames x6; (try clear_value x6)
  extract_lets +onlyGivenNames x7; refine (fun (h7 : DevHeld a0 x7) => ?_) ?_; (try clear_value x7)
  refine DevHeld.step ?_ State.post_devHeld; refine DevHeld.step ?_ State.record_devHeld
  refine DevHeld.step ?_ (Only.devHeld State.noteQuiet_only); exact h7; unfold x7
  refine DevHeld.step ?_ (Only.devHeld State.requestCommit_only)
  refine DevHeld.step ?_ (Only.devHeld State.shadows_only); refine DevHeld.step ?_ (Only.devHeld State.shadows_only)
  refine DevHeld.step ?_ (Only.devHeld State.setStall_only); exact h2; unfold x2
  refine DevHeld.step ?_ State.jobsLose_devHeld; exact h1; unfold x1; refine DevHeld.upd ?_; exact .refl _

theorem State.stopDevice_devHeld {a0 : State} {a1 : Nat} :
    (State.stopDevice a0 a1).boot.dev = 3 ∧
      ∀ r, a0.events.fatal = some r → (State.stopDevice a0 a1).events.fatal = some r := by
  refine ⟨rfl, ?_⟩
  have : DevHeld a0 (a0.openJobs.foldl (fun s j => s.failNow j a1) a0) :=
    holds_foldl (.refl _) fun x a h => h.step State.failNow_devHeld
  exact this.2.2

theorem State.raise_devHeld {a0 : State} {a1 : Ev} : DevHeld a0 (State.raise a0 a1) := by
  by_cases v : a1.sev = 4
  · have e := State.record_events a0 a1
    have rest : ∀ s : State, s.events = (a0.record a1).events → DevHeld a0 ((s.stopDevice a1.code).post) := fun s h => by
      obtain ⟨d, f⟩ := State.stopDevice_devHeld (a0 := s) (a1 := a1.code)
      refine DevHeld.step ?_ State.post_devHeld
      have keep : ∀ r, a0.events.fatal = some r → (s.stopDevice a1.code).events.fatal = some r := fun r q =>
        f r (by rw [h, e]; simp [q])
      refine ⟨.inr d, fun q => ?_, keep⟩
      cases k : a0.events.fatal with
      | some r =>
        have := keep r k
        refine ⟨by simp [d, this], fun x hx => ?_⟩
        rw [this] at hx
        cases hx
        exact q.2 r k
      | none =>
        have := f (EvRec.mk a1 a0.events.next false) (by rw [h, e]; simp [k, v])
        refine ⟨by simp [d, this], fun x hx => ?_⟩
        rw [this] at hx
        cases hx
        exact v
    obtain ⟨c, y, k, a, b, d, x⟩ := a1
    subst v
    unfold State.raise
    cases k with
    | none => exact rest _ rfl
    | some j => exact rest _ (State.flagJob_only .events (by decide))
  · unfold State.raise
    extract_lets s1 s2 s3
    have h2 : DevHeld a0 s2 := by
      have h1 : DevHeld a0 s1 := State.record_devHeld v
      simp only [s2]
      split
      · exact h1.step State.flagJob_only.devHeld
      · exact h1
    have h3 : DevHeld a0 s3 := by
      simp only [s3]
      clear_value s2
      split
      · exact h2.step State.failJob_devHeld
      · split
        · exact h2.step State.fence_devHeld
        · exact h2
      · rename_i q; exact absurd q v
      · split
        · exact h2.step State.abortSteps_devHeld
        · exact h2
      · exact h2
    exact h3.step State.post_devHeld

theorem State.chargeIssue_devHeld {a0 a1 a2 a3 a4 a5} :
    DevHeld a0 (State.chargeIssue a0 a1 a2 a3 a4 a5) := by
  unfold State.chargeIssue; refine holds_ite ?_ ?_; extract_lets +onlyGivenNames x0; (try clear_value x0)
  extract_lets +onlyGivenNames x1; (try clear_value x1); extract_lets +onlyGivenNames x2; (try clear_value x2)
  refine DevHeld.step ?_ State.charge_devHeld; refine DevHeld.step ?_ (Only.devHeld State.setLedger_only)
  exact .refl _; refine DevHeld.step ?_ State.charge_devHeld; exact .refl _

theorem State.useXlate_devHeld {a0 a1 a2 a3} :
    DevHeld a0 (State.useXlate a0 a1 a2 a3) := by
  unfold State.useXlate; extract_lets +onlyGivenNames x0; (try clear_value x0); split
  refine DevHeld.step ?_ (Only.devHeld State.count_only); refine DevHeld.step ?_ (Only.devHeld State.setHub_only)
  exact .refl _; extract_lets +onlyGivenNames x1; refine (fun (h1 : DevHeld a0 x1) => ?_) ?_; (try clear_value x1)
  split; exact h1; refine DevHeld.step ?_ (Only.devHeld State.setHub_only); exact h1; unfold x1
  refine holds_foldl ?_ fun x2 a2_ h2 => ?_; refine DevHeld.step ?_ (Only.devHeld State.count_only); exact .refl _
  refine DevHeld.step ?_ State.charge_devHeld; refine DevHeld.step ?_ (Only.devHeld State.countRead_only); exact h2

theorem State.takeRead_devHeld {a0 a1 a2 a3} :
    DevHeld a0 (State.takeRead a0 a1 a2 a3) := by
  unfold State.takeRead; extract_lets +onlyGivenNames x0; (try clear_value x0); split; exact .refl _; split
  exact .refl _; refine holds_ite ?_ ?_; exact .refl _; extract_lets +onlyGivenNames x1
  refine (fun (h1 : DevHeld a0 x1) => ?_) ?_; (try clear_value x1); refine holds_ite ?_ ?_; exact h1
  extract_lets +onlyGivenNames x2; refine (fun (h2 : DevHeld a0 x2) => ?_) ?_; (try clear_value x2)
  extract_lets +onlyGivenNames x3; (try clear_value x3); extract_lets +onlyGivenNames x4; (try clear_value x4)
  extract_lets +onlyGivenNames x5; (try clear_value x5); split; refine DevHeld.step ?_ (Only.devHeld State.count_only)
  exact h2; exact h2; extract_lets +onlyGivenNames x6; refine (fun (h6 : DevHeld a0 x6) => ?_) ?_
  (try clear_value x6); extract_lets +onlyGivenNames x7; (try clear_value x7)
  refine DevHeld.step ?_ (Only.devHeld State.setStall_only); exact h6; unfold x6
  refine DevHeld.step ?_ (Only.devHeld State.count_only); refine DevHeld.step ?_ (Only.devHeld State.setHub_only)
  exact h2; unfold x2; refine DevHeld.step ?_ (Only.devHeld State.noteFetch_only); exact h1; unfold x1
  refine DevHeld.step ?_ State.useXlate_devHeld; exact .refl _

theorem State.aheadOne_devHeld {a0 a1 a2 a3 a4} :
    Fst (DevHeld a0) (State.aheadOne a0 a1 a2 a3 a4) := by
  unfold State.aheadOne; extract_lets +onlyGivenNames x0; refine holds_ite ?_ ?_; unfold x0; beta_reduce
  change DevHeld _ (Prod.fst (_, _)); dsimp only; refine DevHeld.step ?_ (Only.devHeld State.count_only)
  exact .refl _; refine holds_ite ?_ ?_; unfold x0; beta_reduce; change DevHeld _ (Prod.fst (_, _)); dsimp only
  refine DevHeld.step ?_ (Only.devHeld State.count_only); exact .refl _; extract_lets +onlyGivenNames x1
  (try clear_value x1); extract_lets +onlyGivenNames x2; refine (fun (h2 : DevHeld a0 x2) => ?_) ?_
  (try clear_value x2); extract_lets +onlyGivenNames x3; (try clear_value x3); refine holds_ite ?_ ?_; unfold x0
  beta_reduce; change DevHeld _ (Prod.fst (_, _)); dsimp only; refine DevHeld.step ?_ (Only.devHeld State.count_only)
  exact h2; refine holds_ite ?_ ?_; unfold x0; beta_reduce; change DevHeld _ (Prod.fst (_, _)); dsimp only
  refine DevHeld.step ?_ (Only.devHeld State.count_only); exact h2; extract_lets +onlyGivenNames x4
  (try clear_value x4); extract_lets +onlyGivenNames x5; (try clear_value x5); extract_lets +onlyGivenNames x6
  refine holds_ite ?_ ?_; unfold x6; beta_reduce; extract_lets +onlyGivenNames x7; (try clear_value x7)
  change DevHeld _ (Prod.fst (_, _)); dsimp only; refine DevHeld.step ?_ (Only.devHeld State.noteFetch_only)
  refine DevHeld.step ?_ (Only.devHeld State.count_only); refine DevHeld.step ?_ (Only.devHeld State.setHub_only)
  exact h2; split; refine holds_ite ?_ ?_; unfold x0; beta_reduce; change DevHeld _ (Prod.fst (_, _)); dsimp only
  refine DevHeld.step ?_ (Only.devHeld State.count_only); exact h2; unfold x6; beta_reduce
  extract_lets +onlyGivenNames x8; (try clear_value x8); change DevHeld _ (Prod.fst (_, _)); dsimp only
  refine DevHeld.step ?_ (Only.devHeld State.noteFetch_only); refine DevHeld.step ?_ (Only.devHeld State.count_only)
  refine DevHeld.step ?_ (Only.devHeld State.setHub_only); refine DevHeld.step ?_ (Only.devHeld State.count_only)
  refine DevHeld.step ?_ (Only.devHeld State.setHub_only); exact h2; unfold x0; beta_reduce
  change DevHeld _ (Prod.fst (_, _)); dsimp only; refine DevHeld.step ?_ (Only.devHeld State.count_only); exact h2
  unfold x2; refine DevHeld.step ?_ State.useXlate_devHeld; exact .refl _

theorem State.aheadWord_devHeld {a0 a1 a2 a3 a4} :
    DevHeld a0 (State.aheadWord a0 a1 a2 a3 a4) := by
  unfold State.aheadWord; extract_lets +onlyGivenNames x0; (try clear_value x0); extract_lets +onlyGivenNames x1
  (try clear_value x1); extract_lets +onlyGivenNames x2; refine (fun (h2 : Fst (DevHeld a0) x2) => ?_) ?_
  (try clear_value x2); split; exact h2; refine DevHeld.step ?_ State.raise_devHeld; exact h2; unfold x2
  refine holds_foldl ?_ fun x3 a3_ h3 => ?_; change DevHeld _ (Prod.fst (_, _)); dsimp only; exact .refl _
  extract_lets +onlyGivenNames x4; refine (fun (h4 : Fst (DevHeld a0) x4) => ?_) ?_; (try clear_value x4); exact h4
  unfold x4; refine DevHeld.stepFst ?_ State.aheadOne_devHeld; exact h3

theorem State.resetStall_devHeld {a0 a1 a2} :
    DevHeld a0 (State.resetStall a0 a1 a2) := by
  unfold State.resetStall; extract_lets +onlyGivenNames x0; (try clear_value x0); extract_lets +onlyGivenNames x1
  (try clear_value x1); extract_lets +onlyGivenNames x2; refine (fun (h2 : DevHeld a0 x2) => ?_) ?_
  (try clear_value x2); extract_lets +onlyGivenNames x3; refine (fun (h3 : DevHeld a0 x3) => ?_) ?_
  (try clear_value x3); extract_lets +onlyGivenNames x4; refine (fun (h4 : DevHeld a0 x4) => ?_) ?_
  (try clear_value x4); refine DevHeld.upd ?_; exact h4; unfold x4
  refine DevHeld.step ?_ (Only.devHeld State.requestCommit_only)
  refine DevHeld.step ?_ (Only.devHeld State.shadows_only); exact h3; unfold x3
  refine DevHeld.step ?_ State.jobsLose_devHeld; exact h2; unfold x2; refine DevHeld.step ?_ State.post_devHeld
  refine DevHeld.step ?_ State.record_devHeld; exact .refl _

theorem State.strike_devHeld {a0 a1 a2 a3} :
    DevHeld a0 (State.strike a0 a1 a2 a3) := by
  unfold State.strike; refine holds_ite ?_ ?_; refine DevHeld.step ?_ (Only.devHeld State.await_only); exact .refl _
  extract_lets +onlyGivenNames x0; (try clear_value x0); extract_lets +onlyGivenNames x1
  refine (fun (h1 : DevHeld a0 x1) => ?_) ?_; (try clear_value x1); extract_lets +onlyGivenNames x2
  (try clear_value x2); refine holds_ite ?_ ?_; refine DevHeld.step ?_ State.resetStall_devHeld; exact h1
  refine holds_ite ?_ ?_; refine DevHeld.step ?_ State.fence_devHeld; exact h1; exact h1; unfold x1
  refine DevHeld.upd ?_; exact .refl _

theorem State.effect_devHeld {a0 a1} :
    DevHeld a0 (State.effect a0 a1) := by
  unfold State.effect; split; refine DevHeld.step ?_ State.raise_devHeld; exact .refl _
  refine DevHeld.step ?_ (Only.devHeld State.count_only); exact .refl _; extract_lets +onlyGivenNames x0
  refine (fun (h0 : DevHeld a0 x0) => ?_) ?_; (try clear_value x0)
  refine DevHeld.step ?_ (Only.devHeld State.emit_only); exact h0; unfold x0; split
  refine DevHeld.step ?_ State.charge_devHeld; exact .refl _; exact .refl _; extract_lets +onlyGivenNames x1
  refine (fun (h1 : DevHeld a0 x1) => ?_) ?_; (try clear_value x1); refine holds_ite ?_ ?_
  refine DevHeld.step ?_ (Only.devHeld State.traceRec_only); exact h1; exact h1; unfold x1
  refine DevHeld.step ?_ State.chargeIssue_devHeld; exact .refl _; refine holds_foldl ?_ fun x2 a2_ h2 => ?_
  exact .refl _; refine DevHeld.step ?_ State.takeRead_devHeld; exact h2; refine holds_ite ?_ ?_; exact .refl _
  refine DevHeld.step ?_ State.useXlate_devHeld; exact .refl _; refine DevHeld.step ?_ State.aheadWord_devHeld
  exact .refl _; refine DevHeld.step ?_ State.strike_devHeld; exact .refl _
  refine DevHeld.step ?_ (Only.devHeld State.sendRemote_only); refine DevHeld.step ?_ State.charge_devHeld
  exact .refl _

theorem State.effects_devHeld {a0 a1} :
    DevHeld a0 (State.effects a0 a1) := by
  unfold State.effects; refine holds_foldl ?_ fun x0 a0_ h0 => ?_; exact .refl _
  refine DevHeld.step ?_ State.effect_devHeld; exact h0

theorem State.onStall_devHeld {a0 a1 a2 a3} :
    DevHeld a0 (State.onStall a0 a1 a2 a3) := by
  unfold State.onStall; extract_lets +onlyGivenNames x0; (try clear_value x0); extract_lets +onlyGivenNames x1
  (try clear_value x1); refine DevHeld.step ?_ State.effects_devHeld
  refine DevHeld.step ?_ (Only.devHeld State.setStall_only); exact .refl _

theorem State.accept_devHeld {a0 a1 a2 a3 a4 a5 a6} :
    DevHeld a0 (State.accept a0 a1 a2 a3 a4 a5 a6) := by
  unfold State.accept; refine DevHeld.step ?_ State.onStall_devHeld; exact .refl _

theorem State.refuse_devHeld {a0 a1 a2} :
    DevHeld a0 (State.refuse a0 a1 a2) := by
  unfold State.refuse; refine DevHeld.step ?_ State.finish_devHeld; exact .refl _

theorem State.fetchLine_devHeld {a0 a1 a2 a3 a4} :
    DevHeld a0 (State.fetchLine a0 a1 a2 a3 a4) := by
  unfold State.fetchLine; refine holds_ite ?_ ?_; exact .refl _; extract_lets +onlyGivenNames x0
  refine (fun (h0 : DevHeld a0 x0) => ?_) ?_; (try clear_value x0); refine holds_ite ?_ ?_
  refine DevHeld.step ?_ (Only.devHeld State.cacheLine_only); exact h0; exact h0; unfold x0
  refine DevHeld.step ?_ State.charge_devHeld; refine DevHeld.step ?_ (Only.devHeld State.sendSlot_only)
  exact .refl _

theorem State.fetchChunk_devHeld {a0 a1 a2 a3 a4 a5 a6} :
    DevHeld a0 (State.fetchChunk a0 a1 a2 a3 a4 a5 a6) := by
  unfold State.fetchChunk; split; exact .refl _; split; exact .refl _; extract_lets +onlyGivenNames x0
  (try clear_value x0); refine holds_foldl ?_ fun x1 a1_ h1 => ?_
  refine DevHeld.step ?_ (Only.devHeld State.setJob_only); exact .refl _
  refine DevHeld.step ?_ State.fetchLine_devHeld; exact h1

theorem State.fetchStreams_devHeld {a0 a1 a2 a3} :
    DevHeld a0 (State.fetchStreams a0 a1 a2 a3) := by
  unfold State.fetchStreams; split; exact .refl _; extract_lets +onlyGivenNames x0; (try clear_value x0)
  refine holds_foldl ?_ fun x1 a1_ h1 => ?_; exact .refl _; refine holds_foldl ?_ fun x2 a2_ h2 => ?_; exact h1
  extract_lets +onlyGivenNames x3; (try clear_value x3); split; exact h2; refine holds_ite ?_ ?_
  refine DevHeld.step ?_ State.fetchChunk_devHeld; exact h2; refine holds_ite ?_ ?_; exact h2
  refine DevHeld.step ?_ State.fetchChunk_devHeld; exact h2

theorem State.acceptStep_devHeld {a0 a1 a2 a3 a4 a5} :
    DevHeld a0 (State.acceptStep a0 a1 a2 a3 a4 a5) := by
  unfold State.acceptStep; extract_lets +onlyGivenNames x0; (try clear_value x0); extract_lets +onlyGivenNames x1
  (try clear_value x1); extract_lets +onlyGivenNames x2; (try clear_value x2); refine holds_ite ?_ ?_
  refine DevHeld.step ?_ State.refuse_devHeld; exact .refl _; extract_lets +onlyGivenNames x3; (try clear_value x3)
  refine DevHeld.step ?_ (Only.devHeld State.markStarted_only); refine DevHeld.step ?_ State.fetchStreams_devHeld
  refine DevHeld.step ?_ (Only.devHeld State.setJob_only); exact .refl _

theorem State.touch_devHeld {a0 a1 a2} :
    DevHeld a0 (State.touch a0 a1 a2) := by
  unfold State.touch; refine DevHeld.step ?_ State.onStall_devHeld; exact .refl _

theorem State.accrueAt_devHeld {a0 a1 a2} :
    DevHeld a0 (State.accrueAt a0 a1 a2) := by
  unfold State.accrueAt; split; extract_lets +onlyGivenNames x1; refine (fun (h1 : DevHeld a0 x1) => ?_) ?_
  (try clear_value x1); refine DevHeld.step ?_ (Only.devHeld State.setStall_only); exact h1; unfold x1
  refine DevHeld.step ?_ State.touch_devHeld; exact .refl _; exact .refl _

theorem State.ackFrame_devHeld {a0 a1 a2 a3 a4} :
    DevHeld a0 (State.ackFrame a0 a1 a2 a3 a4) := by
  unfold State.ackFrame; refine DevHeld.step ?_ State.onStall_devHeld; exact .refl _

theorem State.refuseAcquire_devHeld {a0} :
    DevHeld a0 (State.refuseAcquire a0) := by
  unfold State.refuseAcquire; refine DevHeld.step ?_ State.raise_devHeld; refine DevHeld.upd ?_; exact .refl _

theorem State.acquire_devHeld {a0 a1} :
    DevHeld a0 (State.acquire a0 a1) := by
  unfold State.acquire; refine holds_ite ?_ ?_; exact .refl _; refine holds_ite ?_ ?_; refine DevHeld.upd ?_
  exact .refl _; refine DevHeld.step ?_ State.raise_devHeld; refine DevHeld.upd ?_; exact .refl _

theorem State.acquireBell_devHeld {a0 a1 a2} :
    DevHeld a0 (State.acquireBell a0 a1 a2) := by
  unfold State.acquireBell; extract_lets +onlyGivenNames x0; (try clear_value x0); extract_lets +onlyGivenNames x1
  (try clear_value x1); extract_lets +onlyGivenNames x2; refine (fun (h2 : DevHeld a0 x2) => ?_) ?_
  (try clear_value x2); extract_lets +onlyGivenNames x3; (try clear_value x3); extract_lets +onlyGivenNames x4
  (try clear_value x4); extract_lets +onlyGivenNames x5; refine (fun (h5 : DevHeld a0 x5) => ?_) ?_
  (try clear_value x5); extract_lets +onlyGivenNames x6; refine (fun (h6 : DevHeld a0 x6) => ?_) ?_
  (try clear_value x6); split; refine DevHeld.step ?_ State.finish_devHeld; refine DevHeld.upd ?_; exact h6; exact h6
  unfold x6; refine DevHeld.step ?_ State.raise_devHeld; exact h5; unfold x5; refine DevHeld.upd ?_; exact h2
  unfold x2; refine DevHeld.upd ?_; exact .refl _

theorem State.advanceFuse_devHeld {a0} :
    DevHeld a0 (State.advanceFuse a0) := by
  unfold State.advanceFuse; split; exact .refl _; refine holds_ite ?_ ?_; refine DevHeld.step ?_ State.raise_devHeld
  refine DevHeld.upd ?_; exact .refl _; exact .refl _

theorem State.aisleBeat_devHeld {a0 a1 a2 a3} :
    DevHeld a0 (State.aisleBeat a0 a1 a2 a3) := by
  unfold State.aisleBeat; extract_lets +onlyGivenNames x0; (try clear_value x0); split; exact .refl _
  extract_lets +onlyGivenNames x1; (try clear_value x1); extract_lets +onlyGivenNames x2; (try clear_value x2)
  extract_lets +onlyGivenNames x3; refine (fun (h3 : DevHeld a0 x3) => ?_) ?_; (try clear_value x3)
  extract_lets +onlyGivenNames x4; refine (fun (h4 : DevHeld a0 x4) => ?_) ?_; (try clear_value x4)
  refine DevHeld.step ?_ (Only.devHeld State.putFlit_only); exact h4; unfold x4; split
  refine DevHeld.step ?_ State.charge_devHeld; exact h3; exact h3; unfold x3
  refine DevHeld.step ?_ (Only.devHeld State.setAisle_only); exact .refl _

theorem State.aisleSlot_devHeld {a0 a1 a2 a3 a4} :
    Fst (DevHeld a0) (State.aisleSlot a0 a1 a2 a3 a4) := by
  unfold State.aisleSlot; extract_lets +onlyGivenNames x0; (try clear_value x0); refine holds_ite ?_ ?_
  change DevHeld _ (Prod.fst (_, _)); dsimp only; exact .refl _; extract_lets +onlyGivenNames x1
  refine (fun (h1 : DevHeld a0 x1) => ?_) ?_; (try clear_value x1); split; refine holds_ite ?_ ?_; exact h1
  refine holds_ite ?_ ?_; change DevHeld _ (Prod.fst (_, _)); dsimp only
  refine DevHeld.step ?_ State.aisleBeat_devHeld; exact h1; change DevHeld _ (Prod.fst (_, _)); dsimp only
  refine DevHeld.step ?_ (Only.devHeld State.idleFlit_only); exact h1; change DevHeld _ (Prod.fst (_, _)); dsimp only
  refine holds_ite ?_ ?_; exact h1; refine DevHeld.step ?_ (Only.devHeld State.idleFlit_only); exact h1; unfold x1
  refine DevHeld.step ?_ (Only.devHeld State.count_only); exact .refl _

theorem State.readWord_devHeld {a0 a1 a2} :
    Snd (DevHeld a0) (State.readWord a0 a1 a2) := by
  unfold State.readWord; extract_lets +onlyGivenNames x0; refine (fun (h0 : DevHeld a0 x0) => ?_) ?_
  (try clear_value x0); change DevHeld _ (Prod.snd (_, _)); dsimp only
  refine DevHeld.step ?_ (Only.devHeld State.readEffect_only); exact h0; unfold x0; split
  refine DevHeld.step ?_ State.accrueAt_devHeld; exact .refl _; exact .refl _

theorem State.answerRead_devHeld {a0 a1 a2} :
    DevHeld a0 (State.answerRead a0 a1 a2) := by
  unfold State.answerRead; extract_lets +onlyGivenNames x0; refine (fun (h0 : Snd (DevHeld a0) x0) => ?_) ?_
  (try clear_value x0); refine DevHeld.step ?_ (Only.devHeld State.emit_only); exact h0; unfold x0
  refine DevHeld.stepSnd ?_ State.readWord_devHeld; exact .refl _

theorem State.setK_devHeld {a0 a1} :
    DevHeld a0 (State.setK a0 a1) := by
  unfold State.setK; extract_lets +onlyGivenNames x0; (try clear_value x0); extract_lets +onlyGivenNames x1
  (try clear_value x1); extract_lets +onlyGivenNames x2; refine (fun (h2 : DevHeld a0 x2) => ?_) ?_
  (try clear_value x2); refine holds_ite ?_ ?_; refine DevHeld.step ?_ State.raise_devHeld; exact h2; exact h2
  unfold x2; refine DevHeld.upd ?_; exact .refl _

theorem State.applyK_devHeld {a0 a1} :
    DevHeld a0 (State.applyK a0 a1) := by
  unfold State.applyK; extract_lets +onlyGivenNames x0; refine (fun (h0 : DevHeld a0 x0) => ?_) ?_
  (try clear_value x0); refine holds_ite ?_ ?_; refine holds_ite ?_ ?_; refine DevHeld.step ?_ State.setK_devHeld
  exact h0; exact h0; refine holds_ite ?_ ?_; refine DevHeld.step ?_ State.setK_devHeld; exact h0; exact h0; unfold x0
  refine holds_ite ?_ ?_; refine DevHeld.step ?_ (Only.devHeld State.takeSquare_only); exact .refl _; exact .refl _

theorem State.writeStepCtrl_devHeld {a0 a1 a2 a3} :
    DevHeld a0 (State.writeStepCtrl a0 a1 a2 a3) := by
  unfold State.writeStepCtrl; extract_lets +onlyGivenNames x0; (try clear_value x0); extract_lets +onlyGivenNames x1
  (try clear_value x1); extract_lets +onlyGivenNames x2; (try clear_value x2)
  refine DevHeld.step ?_ State.onStall_devHeld; exact .refl _

theorem State.writeStall_devHeld {a0 a1 a2 a3 a4} :
    DevHeld a0 (State.writeStall a0 a1 a2 a3 a4) := by
  unfold State.writeStall; extract_lets +onlyGivenNames x0; refine (fun (h0 : ∀ y0, DevHeld a0 (x0 y0)) => ?_) ?_
  (try clear_value x0); refine holds_ite ?_ ?_; apply h0; refine holds_ite ?_ ?_; apply h0; refine holds_ite ?_ ?_
  refine DevHeld.step ?_ State.writeStepCtrl_devHeld; exact .refl _; refine holds_ite ?_ ?_; apply h0
  refine holds_ite ?_ ?_; apply h0; exact .refl _; intro z13; unfold x0; refine DevHeld.step ?_ State.onStall_devHeld
  exact .refl _

theorem State.writeRerunArm_devHeld {a0 a1 a2 a3} :
    DevHeld a0 (State.writeRerunArm a0 a1 a2 a3) := by
  unfold State.writeRerunArm; extract_lets +onlyGivenNames x0; (try clear_value x0); refine holds_ite ?_ ?_
  refine DevHeld.step ?_ State.onStall_devHeld; exact .refl _; exact .refl _

theorem State.writeRingCtrl_devHeld {a0 a1} :
    DevHeld a0 (State.writeRingCtrl a0 a1) := by
  unfold State.writeRingCtrl; extract_lets +onlyGivenNames x0; (try clear_value x0); extract_lets +onlyGivenNames x1
  refine (fun (h1 : DevHeld a0 x1) => ?_) ?_; (try clear_value x1); refine holds_ite ?_ ?_
  extract_lets +onlyGivenNames x2; (try clear_value x2); extract_lets +onlyGivenNames x3
  refine (fun (h3 : DevHeld a0 x3) => ?_) ?_; (try clear_value x3); refine holds_ite ?_ ?_
  refine DevHeld.step ?_ (Only.devHeld State.writeStatus_only); exact h3; exact h3; unfold x3
  refine DevHeld.step ?_ State.postEvents_devHeld; refine DevHeld.upd ?_; exact h1; refine holds_ite ?_ ?_; exact h1
  exact .refl _; unfold x1; refine DevHeld.step ?_ (Only.devHeld State.setPage_only); exact .refl _

theorem State.writeLemef_devHeld {a0 a1 a2} :
    DevHeld a0 (State.writeLemef a0 a1 a2) := by
  unfold State.writeLemef; extract_lets +onlyGivenNames x0; (try clear_value x0); extract_lets +onlyGivenNames x1
  refine (fun (h1 : DevHeld a0 x1) => ?_) ?_; (try clear_value x1); refine holds_ite ?_ ?_; refine holds_ite ?_ ?_
  refine DevHeld.step ?_ (Only.devHeld State.readImage_only); refine DevHeld.upd ?_; exact .refl _; exact .refl _
  refine holds_ite ?_ ?_; refine DevHeld.step ?_ State.writeRingCtrl_devHeld; exact .refl _; refine holds_ite ?_ ?_
  exact h1; refine holds_ite ?_ ?_; exact .refl _; refine holds_ite ?_ ?_; exact .refl _; exact h1; unfold x1
  refine DevHeld.step ?_ (Only.devHeld State.setPage_only); exact .refl _

theorem State.writeBlockReg_devHeld {a0 a1 a2 a3 a4 a5} :
    DevHeld a0 (State.writeBlockReg a0 a1 a2 a3 a4 a5) := by
  unfold State.writeBlockReg; extract_lets +onlyGivenNames x0; (try clear_value x0); extract_lets +onlyGivenNames x1
  refine (fun (h1 : DevHeld a0 x1) => ?_) ?_; (try clear_value x1); split; refine holds_ite ?_ ?_
  refine DevHeld.step ?_ State.writeStall_devHeld; exact .refl _; exact h1; refine holds_ite ?_ ?_
  refine DevHeld.step ?_ State.writeRerunArm_devHeld; exact .refl _; exact h1; refine holds_ite ?_ ?_
  refine DevHeld.step ?_ (Only.devHeld State.writeXlateInval_only); exact .refl _; exact h1; refine holds_ite ?_ ?_
  refine DevHeld.step ?_ (Only.devHeld State.writeGrpHalf_only); exact .refl _; exact h1; refine holds_ite ?_ ?_
  refine holds_ite ?_ ?_; refine DevHeld.step ?_ (Only.devHeld State.retrainAisle_only); exact .refl _; exact .refl _
  exact h1; refine holds_ite ?_ ?_; refine DevHeld.step ?_ State.acquire_devHeld; exact .refl _; exact h1
  refine holds_ite ?_ ?_; refine holds_ite ?_ ?_; refine DevHeld.upd ?_; exact .refl _; exact .refl _; exact h1
  refine holds_ite ?_ ?_; refine DevHeld.step ?_ (Only.devHeld State.writeLedger_only); exact .refl _; exact h1
  refine holds_ite ?_ ?_; refine DevHeld.step ?_ State.writeLemef_devHeld; exact .refl _; exact h1; exact h1
  unfold x1; refine DevHeld.step ?_ (Only.devHeld State.setPage_only); exact .refl _

theorem State.applyWrite_devHeld {a0 a1 a2 a3 a4 a5} :
    DevHeld a0 (State.applyWrite a0 a1 a2 a3 a4 a5) := by
  unfold State.applyWrite; refine holds_ite ?_ ?_; refine DevHeld.step ?_ (Only.devHeld State.writeCommon_only)
  exact .refl _; refine holds_ite ?_ ?_; refine DevHeld.step ?_ (Only.devHeld State.setPage_only); exact .refl _
  refine DevHeld.step ?_ State.writeBlockReg_devHeld; exact .refl _

theorem State.arbBeat_devHeld {a0 a1 a2 a3 a4 a5} :
    Fst (DevHeld a0) (State.arbBeat a0 a1 a2 a3 a4 a5) := by
  unfold State.arbBeat; refine holds_ite ?_ ?_; refine DevHeld.stepFst ?_ (Only.devHeld State.halfSlot_only)
  exact .refl _; refine holds_ite ?_ ?_; refine DevHeld.stepFst ?_ State.aisleSlot_devHeld; exact .refl _
  change DevHeld _ (Prod.fst (_, _)); dsimp only; exact .refl _

theorem State.writeReg_devHeld {a0 a1 a2 a3 a4} :
    DevHeld a0 (State.writeReg a0 a1 a2 a3 a4) := by
  unfold State.writeReg; extract_lets +onlyGivenNames x0
  refine (fun (h0 : ∀ y0, DevHeld a0 y0 → DevHeld a0 (x0 y0)) => ?_) ?_; (try clear_value x0); split; apply h0
  refine DevHeld.step ?_ (Only.devHeld State.count_only); exact .refl _; refine holds_ite ?_ ?_; apply h0
  refine DevHeld.step ?_ (Only.devHeld State.count_only); exact .refl _; refine holds_ite ?_ ?_; apply h0
  exact .refl _; refine DevHeld.step ?_ State.applyWrite_devHeld; exact .refl _; intro z14; intro h15; unfold x0
  refine holds_ite ?_ ?_; refine DevHeld.step ?_ (Only.devHeld State.count_only); exact h15; exact h15

theorem State.armStalls_devHeld {a0 a1 a2} :
    DevHeld a0 (State.armStalls a0 a1 a2) := by
  unfold State.armStalls; split; exact .refl _; refine holds_foldl ?_ fun x2 a2_ h2 => ?_; exact .refl _; split
  refine DevHeld.step ?_ State.writeReg_devHeld; exact h2; exact h2

theorem State.guardLate_devHeld {a0 a1 a2} :
    DevHeld a0 (State.guardLate a0 a1 a2) := by
  unfold State.guardLate; split; exact .refl _; refine holds_ite ?_ ?_; refine DevHeld.step ?_ State.raise_devHeld
  refine DevHeld.step ?_ (Only.devHeld State.setJob_only); exact .refl _; exact .refl _

theorem State.postponeGuard_devHeld {a0 a1 a2 a3} :
    DevHeld a0 (State.postponeGuard a0 a1 a2 a3) := by
  unfold State.postponeGuard; split; exact .refl _; refine DevHeld.step ?_ State.guardLate_devHeld
  refine DevHeld.step ?_ (Only.devHeld State.setJob_only); exact .refl _

theorem State.armStep_devHeld {a0 a1 a2 a3} :
    DevHeld a0 (State.armStep a0 a1 a2 a3) := by
  unfold State.armStep; split; refine DevHeld.step ?_ (Only.devHeld State.writeResolve_only)
  refine DevHeld.step ?_ (Only.devHeld State.setJob_only); exact .refl _
  refine DevHeld.step ?_ State.postponeGuard_devHeld; exact .refl _

theorem State.beginIndexed_devHeld {a0 a1 a2} :
    DevHeld a0 (State.beginIndexed a0 a1 a2) := by
  unfold State.beginIndexed; refine holds_foldl ?_ fun x0 a0_ h0 => ?_; exact .refl _
  refine DevHeld.step ?_ State.onStall_devHeld; exact h0

theorem State.loseTransfers_devHeld {a0 a1} :
    DevHeld a0 (State.loseTransfers a0 a1) := by
  unfold State.loseTransfers; refine holds_foldl ?_ fun x0 a0_ h0 => ?_; exact .refl _
  refine holds_foldl ?_ fun x1 a1_ h1 => ?_; exact h0; refine holds_ite ?_ ?_
  refine DevHeld.step ?_ State.abortSteps_devHeld; refine DevHeld.step ?_ (Only.devHeld State.dropTag_only); exact h1
  exact h1

theorem State.bridgeDown_devHeld {a0 a1} :
    DevHeld a0 (State.bridgeDown a0 a1) := by
  unfold State.bridgeDown; extract_lets +onlyGivenNames x0; refine (fun (h0 : DevHeld a0 x0) => ?_) ?_
  (try clear_value x0); extract_lets +onlyGivenNames x1; refine (fun (h1 : DevHeld a0 x1) => ?_) ?_
  (try clear_value x1); extract_lets +onlyGivenNames x2; refine (fun (h2 : DevHeld a0 x2) => ?_) ?_
  (try clear_value x2); refine holds_foldl ?_ fun x3 a3_ h3 => ?_; exact h2
  refine DevHeld.step ?_ State.fence_devHeld; exact h3; unfold x2; refine DevHeld.step ?_ State.raise_devHeld
  exact h1; unfold x1; refine DevHeld.step ?_ State.loseTransfers_devHeld; exact h0; unfold x0
  refine DevHeld.step ?_ State.raise_devHeld; exact .refl _

theorem State.channelDown_devHeld {a0 a1 a2} :
    DevHeld a0 (State.channelDown a0 a1 a2) := by
  unfold State.channelDown; extract_lets +onlyGivenNames x0; refine (fun (h0 : DevHeld a0 x0) => ?_) ?_
  (try clear_value x0); extract_lets +onlyGivenNames x1; refine (fun (h1 : DevHeld a0 x1) => ?_) ?_
  (try clear_value x1); refine holds_ite ?_ ?_; refine DevHeld.step ?_ State.bridgeDown_devHeld; exact h1; exact h1
  unfold x1; refine DevHeld.step ?_ State.raise_devHeld; exact h0; unfold x0
  refine DevHeld.step ?_ (Only.devHeld State.takeDown_only); exact .refl _

theorem State.chargeBlock_devHeld {a0 a1 a2 a3} :
    DevHeld a0 (State.chargeBlock a0 a1 a2 a3) := by
  unfold State.chargeBlock; refine DevHeld.step ?_ State.charge_devHeld; exact .refl _

theorem State.chargeEnergy_devHeld {a0 a1 a2} :
    DevHeld a0 (State.chargeEnergy a0 a1 a2) := by
  unfold State.chargeEnergy; refine DevHeld.step ?_ (Only.devHeld State.count_only)
  refine holds_foldl ?_ fun x0 a0_ h0 => ?_; exact .refl _; refine DevHeld.step ?_ State.charge_devHeld; exact h0

theorem State.chargeReserved_devHeld {a0 a1} :
    DevHeld a0 (State.chargeReserved a0 a1) := by
  unfold State.chargeReserved; refine holds_ite ?_ ?_; exact .refl _; refine holds_foldl ?_ fun x0 a0_ h0 => ?_
  exact .refl _; split; extract_lets +onlyGivenNames x1; (try clear_value x1); refine holds_ite ?_ ?_; exact h0
  refine DevHeld.step ?_ State.charge_devHeld; exact h0; exact h0

theorem State.failSpanning_devHeld {a0 a1} :
    DevHeld a0 (State.failSpanning a0 a1) := by
  unfold State.failSpanning; refine holds_foldl ?_ fun x0 a0_ h0 => ?_; exact .refl _; refine holds_ite ?_ ?_
  refine DevHeld.step ?_ State.failJob_devHeld; exact h0; exact h0

theorem State.checkPulse_devHeld {a0 a1 a2} :
    DevHeld a0 (State.checkPulse a0 a1 a2) := by
  unfold State.checkPulse; extract_lets +onlyGivenNames x0; (try clear_value x0); extract_lets +onlyGivenNames x1
  (try clear_value x1); extract_lets +onlyGivenNames x2; refine (fun (h2 : DevHeld a0 x2) => ?_) ?_
  (try clear_value x2); extract_lets +onlyGivenNames x3; (try clear_value x3); extract_lets +onlyGivenNames x4
  refine (fun (h4 : DevHeld a0 x4) => ?_) ?_; (try clear_value x4); refine holds_ite ?_ ?_
  refine DevHeld.step ?_ State.failSpanning_devHeld; refine DevHeld.step ?_ State.raise_devHeld; refine DevHeld.upd ?_
  exact h4; refine holds_ite ?_ ?_; refine DevHeld.step ?_ (Only.devHeld State.count_only); exact h4; exact h4
  unfold x4; refine DevHeld.upd ?_; exact h2; unfold x2; refine DevHeld.step ?_ (Only.devHeld State.count_only)
  exact .refl _

theorem State.chooseClerk_devHeld {a0 a1} :
    DevHeld a0 (State.chooseClerk a0 a1) := by
  unfold State.chooseClerk; extract_lets +onlyGivenNames x0; (try clear_value x0); extract_lets +onlyGivenNames x1
  (try clear_value x1); extract_lets +onlyGivenNames x2; (try clear_value x2); extract_lets +onlyGivenNames x3
  refine (fun (h3 : DevHeld a0 x3) => ?_) ?_; (try clear_value x3); refine holds_ite ?_ ?_; exact h3
  refine DevHeld.step ?_ State.raise_devHeld; exact h3; unfold x3; refine DevHeld.upd ?_; exact .refl _

theorem State.chooseGuard_devHeld {a0 a1 a2 a3} :
    DevHeld a0 (State.chooseGuard a0 a1 a2 a3) := by
  unfold State.chooseGuard; split; exact .refl _; split; exact .refl _; refine holds_ite ?_ ?_; exact .refl _
  extract_lets +onlyGivenNames x6; (try clear_value x6); extract_lets +onlyGivenNames x7; (try clear_value x7)
  extract_lets +onlyGivenNames x8; (try clear_value x8); extract_lets +onlyGivenNames x9
  refine (fun (h9 : DevHeld a0 x9) => ?_) ?_; (try clear_value x9); refine holds_ite ?_ ?_
  refine DevHeld.step ?_ State.guardLate_devHeld; exact h9; exact h9; unfold x9
  refine DevHeld.step ?_ (Only.devHeld State.setJob_only); exact .refl _

theorem State.clerkAct_devHeld {a0 a1} :
    DevHeld a0 (State.clerkAct a0 a1) := by
  unfold State.clerkAct; split; refine DevHeld.step ?_ State.failJob_devHeld; exact .refl _
  refine DevHeld.step ?_ State.abortSteps_devHeld; exact .refl _; refine DevHeld.step ?_ State.fence_devHeld
  exact .refl _; refine DevHeld.step ?_ State.strike_devHeld; exact .refl _
  refine DevHeld.step ?_ State.finish_devHeld; exact .refl _

theorem State.closeStep_devHeld {a0 a1 a2 a3 a4 a5} :
    DevHeld a0 (State.closeStep a0 a1 a2 a3 a4 a5) := by
  unfold State.closeStep; split; refine DevHeld.step ?_ State.raise_devHeld; exact .refl _
  refine DevHeld.step ?_ State.chooseGuard_devHeld; refine DevHeld.step ?_ (Only.devHeld State.freeAhead_only)
  refine DevHeld.step ?_ (Only.devHeld State.setJob_only); exact .refl _

theorem State.preempt_devHeld {a0 a1} :
    DevHeld a0 (State.preempt a0 a1) := by
  unfold State.preempt; split; exact .refl _; refine holds_ite ?_ ?_; exact .refl _
  refine DevHeld.step ?_ State.raise_devHeld; refine DevHeld.step ?_ (Only.devHeld State.suspendJob_only)
  exact .refl _

theorem State.preemptFor_devHeld {a0 a1} :
    DevHeld a0 (State.preemptFor a0 a1) := by
  unfold State.preemptFor; split; exact .refl _; refine holds_ite ?_ ?_; exact .refl _
  refine holds_foldl ?_ fun x4 a4_ h4 => ?_; exact .refl _; split; exact h4; refine holds_ite ?_ ?_
  refine DevHeld.step ?_ State.preempt_devHeld; exact h4; exact h4

theorem State.commitStalls_devHeld {a0 a1 a2} :
    DevHeld a0 (State.commitStalls a0 a1 a2) := by
  unfold State.commitStalls; split; exact .refl _; extract_lets +onlyGivenNames x0
  refine (fun (h0 : DevHeld a0 x0) => ?_) ?_; (try clear_value x0); refine DevHeld.step ?_ State.preemptFor_devHeld
  refine holds_foldl ?_ fun x1 a1_ h1 => ?_; exact h0; refine DevHeld.step ?_ (Only.devHeld State.requestCommit_only)
  exact h1; unfold x0; refine DevHeld.step ?_ (Only.devHeld State.setJob_only); exact .refl _

theorem State.pass_devHeld {a0 a1 a2 a3 a4 a5 a6 a7 a8} :
    DevHeld a0 (State.pass a0 a1 a2 a3 a4 a5 a6 a7 a8) := by
  unfold State.pass; extract_lets +onlyGivenNames x0; refine (fun (h0 : DevHeld a0 x0) => ?_) ?_; (try clear_value x0)
  extract_lets +onlyGivenNames x1; refine (fun (h1 : DevHeld a0 x1) => ?_) ?_; (try clear_value x1)
  refine DevHeld.step ?_ State.accept_devHeld; exact h1; unfold x1
  refine DevHeld.step ?_ (Only.devHeld State.countHbm_only); exact h0; unfold x0
  refine DevHeld.step ?_ (Only.devHeld State.countHbm_only); exact .refl _

theorem State.mismatch_devHeld {a0 a1 a2 a3 a4 a5 a6 a7} :
    DevHeld a0 (State.mismatch a0 a1 a2 a3 a4 a5 a6 a7) := by
  unfold State.mismatch; extract_lets +onlyGivenNames x0; (try clear_value x0); refine holds_ite ?_ ?_
  extract_lets +onlyGivenNames x1; refine (fun (h1 : DevHeld a0 x1) => ?_) ?_; (try clear_value x1)
  extract_lets +onlyGivenNames x2; (try clear_value x2); extract_lets +onlyGivenNames x3
  refine (fun (h3 : DevHeld a0 x3) => ?_) ?_; (try clear_value x3); refine holds_ite ?_ ?_; exact h3
  refine DevHeld.step ?_ State.raise_devHeld; exact h3; unfold x3
  refine DevHeld.step ?_ (Only.devHeld State.countHbm_only); exact h1; unfold x1
  refine DevHeld.step ?_ (Only.devHeld State.setStall_only); exact .refl _; extract_lets +onlyGivenNames x4
  (try clear_value x4); extract_lets +onlyGivenNames x5; refine (fun (h5 : DevHeld a0 x5) => ?_) ?_
  (try clear_value x5); refine DevHeld.step ?_ State.raise_devHeld; exact h5; unfold x5
  refine DevHeld.step ?_ State.accept_devHeld; refine DevHeld.step ?_ (Only.devHeld State.countHbm_only)
  exact .refl _

theorem State.deliver_devHeld {a0 a1 a2 a3 a4 a5 a6 a7} :
    DevHeld a0 (State.deliver a0 a1 a2 a3 a4 a5 a6 a7) := by
  unfold State.deliver; extract_lets +onlyGivenNames x0; (try clear_value x0); extract_lets +onlyGivenNames x1
  (try clear_value x1); extract_lets +onlyGivenNames x2; refine (fun (h2 : DevHeld a0 x2) => ?_) ?_
  (try clear_value x2); split; extract_lets +onlyGivenNames x3; (try clear_value x3)
  refine DevHeld.step ?_ State.pass_devHeld; exact h2; refine holds_ite ?_ ?_; extract_lets +onlyGivenNames x4
  refine (fun (h4 : DevHeld a0 x4) => ?_) ?_; (try clear_value x4); refine holds_ite ?_ ?_
  refine DevHeld.step ?_ State.raise_devHeld; exact h4; exact h4; unfold x4
  refine DevHeld.step ?_ State.accept_devHeld; exact h2; split; refine DevHeld.step ?_ State.pass_devHeld; exact h2
  refine DevHeld.step ?_ State.mismatch_devHeld; exact h2; unfold x2; refine holds_ite ?_ ?_; exact .refl _
  refine DevHeld.step ?_ (Only.devHeld State.countHbm_only); refine holds_foldl ?_ fun x5 a5_ h5 => ?_; exact .refl _
  refine DevHeld.step ?_ State.chargeBlock_devHeld; refine DevHeld.step ?_ (Only.devHeld State.countHbm_only)
  exact h5

theorem State.enterMesh_devHeld {a0 a1 a2 a3 a4} :
    DevHeld a0 (State.enterMesh a0 a1 a2 a3 a4) := by
  unfold State.enterMesh; extract_lets +onlyGivenNames x0; (try clear_value x0); extract_lets +onlyGivenNames x1
  (try clear_value x1); extract_lets +onlyGivenNames x2; (try clear_value x2); extract_lets +onlyGivenNames x3
  (try clear_value x3); extract_lets +onlyGivenNames x4; (try clear_value x4)
  refine DevHeld.step ?_ (Only.devHeld State.emit_only); refine DevHeld.step ?_ State.charge_devHeld; exact .refl _

theorem State.deliverMail_devHeld {a0 a1 a2 a3} :
    DevHeld a0 (State.deliverMail a0 a1 a2 a3) := by
  unfold State.deliverMail; refine holds_ite ?_ ?_; refine DevHeld.step ?_ State.enterMesh_devHeld
  refine DevHeld.step ?_ (Only.devHeld State.oweMail_only); exact .refl _; refine holds_ite ?_ ?_
  refine DevHeld.step ?_ (Only.devHeld State.oweMail_only); exact .refl _; refine holds_ite ?_ ?_
  refine DevHeld.step ?_ (Only.devHeld State.sideWord_only); refine DevHeld.step ?_ (Only.devHeld State.oweMail_only)
  exact .refl _; extract_lets +onlyGivenNames x0; (try clear_value x0); extract_lets +onlyGivenNames x1
  refine (fun (h1 : DevHeld a0 x1) => ?_) ?_; (try clear_value x1); refine holds_ite ?_ ?_; exact h1
  refine DevHeld.step ?_ (Only.devHeld State.oweMail_only); exact h1; unfold x1
  refine DevHeld.step ?_ (Only.devHeld State.setAisle_only); exact .refl _

theorem State.fetchOn_devHeld {a0 a1 a2 a3} :
    DevHeld a0 (State.fetchOn a0 a1 a2 a3) := by
  unfold State.fetchOn; extract_lets +onlyGivenNames x0; (try clear_value x0); extract_lets +onlyGivenNames x1
  (try clear_value x1); split; exact .refl _; refine holds_ite ?_ ?_; exact .refl _
  refine DevHeld.step ?_ State.fetchChunk_devHeld; exact .refl _

theorem State.refill_devHeld {a0 a1 a2 a3 a4} :
    DevHeld a0 (State.refill a0 a1 a2 a3 a4) := by
  unfold State.refill; refine DevHeld.step ?_ State.fetchOn_devHeld; refine DevHeld.step ?_ State.onStall_devHeld
  exact .refl _

theorem State.meet_devHeld {a0 a1 a2 a3 a4 a5 a6} :
    DevHeld a0 (State.meet a0 a1 a2 a3 a4 a5 a6) := by
  unfold State.meet; refine DevHeld.step ?_ State.refill_devHeld; refine holds_ite ?_ ?_
  refine DevHeld.step ?_ State.onStall_devHeld; exact .refl _; refine DevHeld.step ?_ State.onStall_devHeld
  exact .refl _

theorem State.earlier_devHeld {a0 a1 a2 a3} :
    DevHeld a0 (State.earlier a0 a1 a2 a3) := by
  unfold State.earlier; refine holds_foldl ?_ fun x0 a0_ h0 => ?_; exact .refl _
  refine holds_foldl ?_ fun x1 a1_ h1 => ?_; exact h0; split; exact h1; refine holds_ite ?_ ?_
  refine DevHeld.step ?_ State.meet_devHeld; exact h1; exact h1

theorem State.echo_devHeld {a0 a1 a2} :
    DevHeld a0 (State.echo a0 a1 a2) := by
  unfold State.echo; extract_lets +onlyGivenNames x0; (try clear_value x0); refine holds_ite ?_ ?_
  refine DevHeld.step ?_ State.finish_devHeld; exact .refl _; refine holds_ite ?_ ?_
  refine DevHeld.step ?_ State.refuse_devHeld; exact .refl _; refine DevHeld.step ?_ State.finish_devHeld
  refine DevHeld.step ?_ (Only.devHeld State.writeLines_only); exact .refl _

theorem State.unitWriteFail_devHeld {a0 a1 a2 a3} :
    DevHeld a0 (State.unitWriteFail a0 a1 a2 a3) := by
  unfold State.unitWriteFail; refine DevHeld.step ?_ State.raise_devHeld; exact .refl _

theorem State.unitWrite_devHeld {a0 a1 a2 a3 a4 a5} :
    DevHeld a0 (State.unitWrite a0 a1 a2 a3 a4 a5) := by
  unfold State.unitWrite; refine holds_foldl ?_ fun x0 a0_ h0 => ?_; exact .refl _; extract_lets +onlyGivenNames x1
  (try clear_value x1); extract_lets +onlyGivenNames x2; refine (fun (h2 : Fst (DevHeld a0) x2) => ?_) ?_
  (try clear_value x2); refine holds_ite ?_ ?_; refine DevHeld.step ?_ State.unitWriteFail_devHeld; exact h2
  refine DevHeld.step ?_ State.chargeBlock_devHeld; refine DevHeld.step ?_ (Only.devHeld State.putPart_only); exact h2
  unfold x2; refine DevHeld.stepFst ?_ (Only.devHeld State.writeFails_only); exact h0

theorem State.sendUnit_devHeld {a0 a1 a2 a3 a4 a5} :
    DevHeld a0 (State.sendUnit a0 a1 a2 a3 a4 a5) := by
  unfold State.sendUnit; extract_lets +onlyGivenNames x0; (try clear_value x0); extract_lets +onlyGivenNames x1
  (try clear_value x1); extract_lets +onlyGivenNames x2; (try clear_value x2)
  refine DevHeld.step ?_ (Only.devHeld State.sendAisle_only); refine DevHeld.step ?_ (Only.devHeld State.setHub_only)
  exact .refl _

theorem State.refuseBlock_devHeld {a0 a1 a2 a3 a4 a5} :
    DevHeld a0 (State.refuseBlock a0 a1 a2 a3 a4 a5) := by
  unfold State.refuseBlock; refine DevHeld.step ?_ State.raise_devHeld
  refine DevHeld.step ?_ (Only.devHeld State.count_only); exact .refl _

theorem tryBlock_devHeld {a0 a1 a2 a3 a4 a5 a6 a7} :
    Fst (DevHeld a0) (tryBlock a0 a1 a2 a3 a4 a5 a6 a7) := by
  induction a6 generalizing a0 a4 a5 a7 with
  | zero =>
    unfold tryBlock
    extract_lets x0 x1 x2
    have k : DevHeld a0 x0 := (State.countHbm_only.devHeld).step (State.chargeBlock_devHeld) |>.step
        State.countHbm_only.devHeld
    clear_value x0 x1 x2
    split
    · change DevHeld _ (Prod.fst (_, _)); dsimp only; exact (k.step State.countHbm_only.devHeld).step
        State.countHbm_only.devHeld
    · change DevHeld _ (Prod.fst (_, _)); dsimp only; exact (k.step State.countHbm_only.devHeld).step State.raise_devHeld
    · rename_i e; omega
  | succ n ih =>
    unfold tryBlock
    extract_lets x0 x1 x2 x3 x4
    have k : DevHeld a0 x0 := (State.countHbm_only.devHeld).step (State.chargeBlock_devHeld) |>.step
        State.countHbm_only.devHeld
    clear_value x0 x1 x2
    split
    · change DevHeld _ (Prod.fst (_, _)); dsimp only; exact (k.step State.countHbm_only.devHeld).step
        State.countHbm_only.devHeld
    · rename_i e; omega
    · rename_i e
      cases e
      refine DevHeld.stepFst ?_ ih
      refine holds_ite ?_ ?_
      · exact k.step State.countHbm_only.devHeld
      · exact (k.step State.countHbm_only.devHeld).step State.raise_devHeld

theorem StateRead.plane_devHeld {r : State} {x : StateRead} {a1 a2 a3 a4 a5} (h : DevHeld r x.s) :
    DevHeld r (x.plane a1 a2 a3 a4 a5).s := by
  unfold StateRead.plane
  exact holds_foldl (Q := fun x : StateRead => DevHeld r x.s) h fun _ _ h => DevHeld.stepFst h tryBlock_devHeld

theorem StateRead.done_devHeld {r : State} {x : StateRead} {a1 a2 a3 a4} (h : DevHeld r x.s) :
    DevHeld r (x.done a1 a2 a3 a4) := by
  unfold StateRead.done
  extract_lets y0
  exact holds_ite h (h.step State.setHub_only.devHeld)

theorem State.egress_devHeld {a0 a1 a2 a3 a4 a5 a6 a7 a8 a9 a10} :
    DevHeld a0 (State.egress a0 a1 a2 a3 a4 a5 a6 a7 a8 a9 a10) := by
  unfold State.egress
  extract_lets x0 x1 x2 x3 x4 x5 x6 x7 x8
  have h1 : DevHeld a0 x1.s := StateRead.plane_devHeld (x := a0.startRead a1 a4 a5 a3) (.refl _)
  have h2 : DevHeld a0 x2 := DevHeld.step (StateRead.done_devHeld h1) State.count_only.devHeld
  have h7 : DevHeld a0 x7 := (h2.step State.unitWrite_devHeld).step State.setPending_only.devHeld
  have h8 : DevHeld a0 x8 := holds_ite h2 ((h7.step State.count_only.devHeld).step State.count_only.devHeld)
  clear_value x8
  split
  · exact h8
  · extract_lets +onlyGivenNames y0 y1
    have k : DevHeld a0 y1 := by
      refine holds_foldl h8 fun x a hx => ?_
      split
      · exact (hx.step State.sendUnit_devHeld).step State.count_only.devHeld
      · exact hx
    clear_value y1
    refine holds_ite (k.step State.contribute_only.devHeld) ?_
    exact holds_ite ((k.step State.setHub_only.devHeld).step State.refuseBlock_devHeld) (k.step State.setHub_only.devHeld)

theorem State.passPart_devHeld {a0 a1 a2} :
    DevHeld a0 (State.passPart a0 a1 a2) := by
  unfold State.passPart; extract_lets +onlyGivenNames x0; (try clear_value x0); extract_lets +onlyGivenNames x1
  (try clear_value x1); extract_lets +onlyGivenNames x2; (try clear_value x2); extract_lets +onlyGivenNames x3
  (try clear_value x3); refine holds_ite ?_ ?_; exact .refl _; refine holds_ite ?_ ?_; extract_lets +onlyGivenNames x4
  (try clear_value x4); refine holds_ite ?_ ?_; exact .refl _; refine DevHeld.step ?_ State.enterMesh_devHeld
  exact .refl _; refine DevHeld.step ?_ (Only.devHeld State.relay_only); exact .refl _

theorem State.endPart_devHeld {a0 a1 a2 a3} :
    DevHeld a0 (State.endPart a0 a1 a2 a3) := by
  unfold State.endPart; extract_lets +onlyGivenNames x0; (try clear_value x0); refine holds_ite ?_ ?_; exact .refl _
  extract_lets +onlyGivenNames x1; refine (fun (h1 : DevHeld a0 x1) => ?_) ?_; (try clear_value x1)
  extract_lets +onlyGivenNames x2; (try clear_value x2); refine DevHeld.step ?_ (Only.devHeld State.setAisle_only)
  exact h1; unfold x1; refine holds_ite ?_ ?_; exact .refl _; refine DevHeld.step ?_ State.passPart_devHeld
  exact .refl _

theorem State.endStep_devHeld {a0 a1 a2 a3 a4} :
    DevHeld a0 (State.endStep a0 a1 a2 a3 a4) := by
  unfold State.endStep; split; exact .refl _; split; exact .refl _; extract_lets +onlyGivenNames x0
  (try clear_value x0); extract_lets +onlyGivenNames x1; refine (fun (h1 : DevHeld a0 x1) => ?_) ?_
  (try clear_value x1); extract_lets +onlyGivenNames x2; refine (fun (h2 : DevHeld a0 x2) => ?_) ?_
  (try clear_value x2); refine DevHeld.step ?_ State.finish_devHeld; exact h2; unfold x2
  refine DevHeld.step ?_ State.sealsOf_devHeld; refine DevHeld.step ?_ State.discardStep_devHeld; exact h1; unfold x1
  refine DevHeld.step ?_ (Only.devHeld State.setJob_only); exact .refl _

theorem State.factNext_devHeld {a0 a1 a2 a3 a4 a5 a6 a7 a8} :
    DevHeld a0 (State.factNext a0 a1 a2 a3 a4 a5 a6 a7 a8) := by
  unfold State.factNext; extract_lets +onlyGivenNames x0; (try clear_value x0); extract_lets +onlyGivenNames x1
  (try clear_value x1); extract_lets +onlyGivenNames x2; refine (fun (h2 : DevHeld a0 x2) => ?_) ?_
  (try clear_value x2); refine holds_ite ?_ ?_; exact h2; extract_lets +onlyGivenNames x3
  refine (fun (h3 : DevHeld a0 x3) => ?_) ?_; (try clear_value x3); extract_lets +onlyGivenNames x4
  refine (fun (h4 : DevHeld a0 x4) => ?_) ?_; (try clear_value x4)
  refine DevHeld.step ?_ (Only.devHeld State.setPending_only); exact h4; unfold x4; refine DevHeld.upd ?_; exact h3
  unfold x3; refine DevHeld.step ?_ (Only.devHeld State.count_only); refine DevHeld.step ?_ State.unitWrite_devHeld
  exact h2; unfold x2; refine DevHeld.step ?_ (Only.devHeld State.setFact_only); exact .refl _

theorem State.fetchAgain_devHeld {a0 a1 a2 a3 a4} :
    DevHeld a0 (State.fetchAgain a0 a1 a2 a3 a4) := by
  unfold State.fetchAgain; split; exact .refl _; split; exact .refl _; refine DevHeld.step ?_ State.fetchChunk_devHeld
  refine holds_foldl ?_ fun x0 a0_ h0 => ?_; exact .refl _; refine DevHeld.step ?_ (Only.devHeld State.dropLine_only)
  exact h0

theorem State.writeGo_devHeld {a0 a1 a2 a3 a4} :
    DevHeld a0 (State.writeGo a0 a1 a2 a3 a4) := by
  unfold State.writeGo; split; exact .refl _; extract_lets +onlyGivenNames x2; (try clear_value x2)
  extract_lets +onlyGivenNames x3; refine (fun (h3 : DevHeld a0 x3) => ?_) ?_; (try clear_value x3)
  refine DevHeld.step ?_ State.writeReg_devHeld; exact h3; unfold x3
  refine DevHeld.step ?_ (Only.devHeld State.setPage_only); exact .refl _

theorem State.go_devHeld {a0 a1 a2 a3 a4} :
    DevHeld a0 (State.go a0 a1 a2 a3 a4) := by
  unfold State.go; split; exact .refl _; extract_lets +onlyGivenNames x0; (try clear_value x0)
  extract_lets +onlyGivenNames x1; (try clear_value x1); extract_lets +onlyGivenNames x2; (try clear_value x2)
  extract_lets +onlyGivenNames x3; refine (fun (h3 : DevHeld a0 x3) => ?_) ?_; (try clear_value x3)
  extract_lets +onlyGivenNames x4; refine (fun (h4 : DevHeld a0 x4) => ?_) ?_; (try clear_value x4)
  refine holds_ite ?_ ?_; refine DevHeld.step ?_ State.endStep_devHeld
  refine DevHeld.step ?_ (Only.devHeld State.abortStalls_only); exact h4; exact h4; unfold x4
  refine DevHeld.step ?_ State.fetchStreams_devHeld; refine holds_foldl ?_ fun x5 a5_ h5 => ?_; exact h3
  refine DevHeld.step ?_ State.writeGo_devHeld; exact h5; unfold x3
  refine DevHeld.step ?_ (Only.devHeld State.setJob_only); exact .refl _

theorem State.issue_devHeld {a0 a1 a2 a3 a4} :
    DevHeld a0 (State.issue a0 a1 a2 a3 a4) := by
  unfold State.issue; refine holds_ite ?_ ?_; exact .refl _; split; exact .refl _; refine holds_ite ?_ ?_
  exact .refl _; extract_lets +onlyGivenNames x0; refine (fun (h0 : DevHeld a0 x0) => ?_) ?_; (try clear_value x0)
  split; exact h0; split; exact h0; refine DevHeld.step ?_ State.meet_devHeld; exact h0; unfold x0
  refine DevHeld.step ?_ State.earlier_devHeld; refine DevHeld.step ?_ State.touch_devHeld
  refine DevHeld.step ?_ (Only.devHeld State.advance_only); exact .refl _

theorem State.jobClosed_devHeld {a0 a1 a2} :
    DevHeld a0 (State.jobClosed a0 a1 a2) := by
  unfold State.jobClosed; split; exact .refl _; refine holds_ite ?_ ?_; exact .refl _; extract_lets +onlyGivenNames x0
  refine (fun (h0 : DevHeld a0 x0) => ?_) ?_; (try clear_value x0); split; refine DevHeld.step ?_ State.finish_devHeld
  refine DevHeld.step ?_ (Only.devHeld State.closeJob_only); exact h0; exact h0; unfold x0
  refine holds_foldl ?_ fun x1 a1_ h1 => ?_; exact .refl _; refine DevHeld.step ?_ State.endStep_devHeld
  refine holds_ite ?_ ?_; refine DevHeld.step ?_ (Only.devHeld State.sendAborts_only); exact h1; exact h1

theorem State.jobClose_devHeld {a0 a1 a2 a3} :
    DevHeld a0 (State.jobClose a0 a1 a2 a3) := by
  unfold State.jobClose; refine holds_ite ?_ ?_; refine DevHeld.step ?_ State.jobClosed_devHeld; exact .refl _
  extract_lets +onlyGivenNames x0; (try clear_value x0); extract_lets +onlyGivenNames x1; (try clear_value x1)
  extract_lets +onlyGivenNames x2; refine (fun (h2 : DevHeld a0 x2) => ?_) ?_; (try clear_value x2)
  extract_lets +onlyGivenNames x3; refine (fun (h3 : DevHeld a0 x3) => ?_) ?_; (try clear_value x3)
  refine DevHeld.step ?_ State.jobClosed_devHeld; refine DevHeld.step ?_ (Only.devHeld State.markStarted_only)
  refine DevHeld.step ?_ (Only.devHeld State.abortStalls_only); exact h3; unfold x3; split
  refine DevHeld.step ?_ (Only.devHeld State.setJob_only); exact h2; exact h2; unfold x2
  refine holds_foldl ?_ fun x4 a4_ h4 => ?_; exact .refl _; refine DevHeld.step ?_ State.finish_devHeld; exact h4

theorem State.jobLoad_devHeld {a0 a1 a2 a3 a4 a5 a6 a7} :
    DevHeld a0 (State.jobLoad a0 a1 a2 a3 a4 a5 a6 a7) := by
  unfold State.jobLoad; split; refine DevHeld.step ?_ State.finish_devHeld; exact .refl _; split
  refine DevHeld.step ?_ State.refuse_devHeld; exact .refl _; extract_lets +onlyGivenNames x0
  refine (fun (h0 : DevHeld a0 x0) => ?_) ?_; (try clear_value x0); extract_lets +onlyGivenNames x1
  refine (fun (h1 : DevHeld a0 x1) => ?_) ?_; (try clear_value x1); refine DevHeld.step ?_ State.finish_devHeld
  refine DevHeld.step ?_ State.commitStalls_devHeld; exact h1; unfold x1
  refine DevHeld.step ?_ (Only.devHeld State.setJob_only); exact h0; unfold x0
  refine DevHeld.step ?_ (Only.devHeld State.loadStalls_only)
  refine DevHeld.step ?_ (Only.devHeld State.loadGroups_only)
  refine DevHeld.step ?_ (Only.devHeld (State.loadUnits_only _ (by assumption))); exact .refl _

theorem State.mapped_devHeld {r a0 : State} {a1 a2 : Nat} {a3 : Option State} (h : DevHeld r a0)
    (k : Opt (DevHeld r) a3) : DevHeld r (a0.mapped a1 a2 a3) := by
  unfold State.mapped
  split
  · exact ((k _ rfl).step State.invalidateJob_only.devHeld).step State.finish_devHeld
  · exact h.step State.refuse_devHeld

theorem State.ownPage_devHeld {a0 a1 a2} :
    DevHeld a0 (State.ownPage a0 a1 a2) := by
  unfold State.ownPage; refine holds_ite ?_ ?_; exact .refl _; extract_lets +onlyGivenNames x0
  refine (fun (h0 : DevHeld a0 x0) => ?_) ?_; (try clear_value x0); extract_lets +onlyGivenNames x1
  refine (fun (h1 : DevHeld a0 x1) => ?_) ?_; (try clear_value x1); refine DevHeld.upd ?_; exact h1; unfold x1
  refine holds_ite ?_ ?_; refine DevHeld.step ?_ State.charge_devHeld; exact h0; exact h0; unfold x0
  refine DevHeld.step ?_ (Only.devHeld State.zeroFill_only); exact .refl _

theorem State.mapPage_devHeld {a0 a1 a2} :
    DevHeld a0 (State.mapPage a0 a1 a2) := by
  unfold State.mapPage; extract_lets +onlyGivenNames x0; refine (fun (h0 : DevHeld a0 x0) => ?_) ?_
  (try clear_value x0); split; refine DevHeld.step ?_ (Only.devHeld State.setJob_only); exact h0; exact h0; unfold x0
  refine DevHeld.step ?_ (Only.devHeld State.setEntry_only); refine DevHeld.step ?_ State.ownPage_devHeld
  exact .refl _

theorem State.mapRange_devHeld {a0 a1 a2 a3 a4 a5 a6 a7 a8 a9} :
    Opt (DevHeld a0) (State.mapRange a0 a1 a2 a3 a4 a5 a6 a7 a8 a9) := by
  unfold State.mapRange; extract_lets +onlyGivenNames x0; refine (fun (h0 : DevHeld a0 x0) => ?_) ?_
  (try clear_value x0); refine Opt.bind Opt.any fun z1 _ => ?_
  refine Opt.map (P := (Fst (DevHeld a0))) ?_ fun z2 h2 => ?_; refine holds_foldl ?_ fun x3 a3_ h3 => ?_
  refine .ofSome ?_; exact h0; refine Opt.bind (P := (Fst (DevHeld a0))) ?_ fun z4 h4 => ?_; exact h3
  refine Opt.map (P := (Fst (DevHeld a0))) ?_ fun z5 h5 => ?_
  refine DevHeld.stepOptFst ?_ (Only.devHeldOptFst State.needTables_only); exact h4
  change DevHeld _ (Prod.fst (_, _)); dsimp only; refine DevHeld.step ?_ State.mapPage_devHeld; exact h5; exact h2
  unfold x0; refine DevHeld.step ?_ (Only.devHeld State.unmapRange_only); exact .refl _

theorem State.jobMap_devHeld {a0 a1 a2 a3 a4 a5 a6} :
    DevHeld a0 (State.jobMap a0 a1 a2 a3 a4 a5 a6) := by
  unfold State.jobMap; extract_lets +onlyGivenNames x0; (try clear_value x0); extract_lets +onlyGivenNames x1
  (try clear_value x1); extract_lets +onlyGivenNames x2; (try clear_value x2); extract_lets +onlyGivenNames x3
  (try clear_value x3); extract_lets +onlyGivenNames x4; (try clear_value x4); refine holds_ite ?_ ?_
  refine DevHeld.step ?_ State.refuse_devHeld; exact .refl _; refine holds_ite ?_ ?_
  refine DevHeld.step ?_ State.finish_devHeld; refine DevHeld.step ?_ (Only.devHeld State.invalidateJob_only)
  refine DevHeld.step ?_ (Only.devHeld State.unmapRange_only); exact .refl _; refine holds_ite ?_ ?_
  refine State.mapped_devHeld ?_ ?_; exact .refl _; refine DevHeld.stepOpt ?_ State.mapRange_devHeld; exact .refl _
  split; refine DevHeld.step ?_ State.refuse_devHeld; exact .refl _; extract_lets +onlyGivenNames x5
  (try clear_value x5); extract_lets +onlyGivenNames x6; (try clear_value x6); refine holds_ite ?_ ?_
  refine DevHeld.step ?_ State.refuse_devHeld; exact .refl _; refine holds_ite ?_ ?_
  refine DevHeld.step ?_ State.refuse_devHeld; exact .refl _; refine State.mapped_devHeld ?_ ?_; exact .refl _
  refine DevHeld.stepOpt ?_ State.mapRange_devHeld; exact .refl _

theorem State.lockCut_devHeld {a0 a1 a2 a3} :
    DevHeld a0 (State.lockCut a0 a1 a2 a3) := by
  unfold State.lockCut; split; exact .refl _; refine DevHeld.step ?_ State.raise_devHeld
  refine DevHeld.step ?_ (Only.devHeld State.count_only); exact .refl _

theorem State.twinSolo_devHeld {a0 a1} :
    DevHeld a0 (State.twinSolo a0 a1) := by
  unfold State.twinSolo; split; exact .refl _; split; exact .refl _; refine holds_ite ?_ ?_; exact .refl _
  refine DevHeld.step ?_ State.raise_devHeld; refine DevHeld.step ?_ (Only.devHeld State.tellSide_only)
  refine DevHeld.step ?_ (Only.devHeld State.setSolo_only); exact .refl _

theorem State.loseAisle_devHeld {a0 a1 a2 a3} :
    DevHeld a0 (State.loseAisle a0 a1 a2 a3) := by
  unfold State.loseAisle; extract_lets +onlyGivenNames x0; (try clear_value x0); extract_lets +onlyGivenNames x1
  refine (fun (h1 : DevHeld a0 x1) => ?_) ?_; (try clear_value x1); extract_lets +onlyGivenNames x2
  (try clear_value x2); extract_lets +onlyGivenNames x3; refine (fun (h3 : DevHeld a0 x3) => ?_) ?_
  (try clear_value x3); extract_lets +onlyGivenNames x4; refine (fun (h4 : DevHeld a0 x4) => ?_) ?_
  (try clear_value x4); extract_lets +onlyGivenNames x5; (try clear_value x5); extract_lets +onlyGivenNames x6
  refine (fun (h6 : DevHeld a0 x6) => ?_) ?_; (try clear_value x6); extract_lets +onlyGivenNames x7
  (try clear_value x7); extract_lets +onlyGivenNames x8; refine (fun (h8 : DevHeld a0 x8) => ?_) ?_
  (try clear_value x8); refine holds_foldl ?_ fun x9 a9_ h9 => ?_; exact h8; split; exact h9
  extract_lets +onlyGivenNames x10; refine (fun (h10 : DevHeld a0 x10) => ?_) ?_; (try clear_value x10)
  refine holds_ite ?_ ?_; refine DevHeld.step ?_ State.raise_devHeld; exact h10; refine holds_ite ?_ ?_; exact h10
  refine holds_ite ?_ ?_; refine DevHeld.step ?_ State.abortSteps_devHeld; exact h10
  refine DevHeld.step ?_ State.raise_devHeld; exact h10; unfold x10; refine holds_ite ?_ ?_
  refine DevHeld.step ?_ State.twinSolo_devHeld; exact h9; exact h9; unfold x8
  refine DevHeld.step ?_ (Only.devHeld State.unroute_only); exact h6; unfold x6
  refine DevHeld.step ?_ (Only.devHeld State.requestCommit_only)
  refine DevHeld.step ?_ (Only.devHeld State.shadow_only); exact h4; unfold x4
  refine DevHeld.step ?_ State.raise_devHeld; exact h3; unfold x3
  refine DevHeld.step ?_ (Only.devHeld State.setAisle_only); exact h1; unfold x1
  refine DevHeld.step ?_ (Only.devHeld State.freeOutput_only); refine holds_ite ?_ ?_
  refine DevHeld.step ?_ State.passPart_devHeld; exact .refl _; exact .refl _

theorem State.loseHalf_devHeld {a0 a1} :
    DevHeld a0 (State.loseHalf a0 a1) := by
  unfold State.loseHalf; extract_lets +onlyGivenNames x0; (try clear_value x0); extract_lets +onlyGivenNames x1
  refine (fun (h1 : DevHeld a0 x1) => ?_) ?_; (try clear_value x1); extract_lets +onlyGivenNames x2
  refine (fun (h2 : DevHeld a0 x2) => ?_) ?_; (try clear_value x2); refine DevHeld.step ?_ State.raise_devHeld
  exact h2; unfold x2; refine holds_foldl ?_ fun x3 a3_ h3 => ?_; exact h1
  refine DevHeld.step ?_ (Only.devHeld State.sendSlot_only); exact h3; unfold x1
  refine DevHeld.step ?_ (Only.devHeld State.freeOutput_only)
  refine DevHeld.step ?_ (Only.devHeld State.setHalf_only); exact .refl _

theorem State.moveHalls_devHeld {a0 a1 a2 a3} :
    Opt (DevHeld a0) (State.moveHalls a0 a1 a2 a3) := by
  unfold State.moveHalls; split; refine .ofSome ?_; exact .refl _; extract_lets +onlyGivenNames x0
  (try clear_value x0); refine Opt.map (P := (Fst (DevHeld a0))) ?_ fun z1 h1 => ?_
  refine holds_foldl ?_ fun x2 a2_ h2 => ?_; refine .ofSome ?_; change DevHeld _ (Prod.fst (_, _)); dsimp only
  exact .refl _; refine Opt.bind (P := (Fst (DevHeld a0))) ?_ fun z3 h3 => ?_; exact h2; split; refine .ofSome ?_
  exact h3; extract_lets +onlyGivenNames x4; refine (fun (h4 : DevHeld a0 x4) => ?_) ?_; (try clear_value x4)
  refine Opt.bind Opt.any fun z5 _ => ?_; split; refine .ofSome ?_; change DevHeld _ (Prod.fst (_, _)); dsimp only
  refine DevHeld.step ?_ State.mapPage_devHeld; refine DevHeld.step ?_ (Only.devHeld State.zeroFill_only); exact h4
  exact .ofNone; unfold x4; refine DevHeld.step ?_ (Only.devHeld State.unmapRange_only); exact h3
  refine DevHeld.step ?_ (Only.devHeld State.invalidateJob_only); exact h1

theorem State.movePitch_devHeld {a0 a1 a2 a3 a4 a5 a6} :
    Opt (DevHeld a0) (State.movePitch a0 a1 a2 a3 a4 a5 a6) := by
  unfold State.movePitch; split; exact .ofNone; split; exact .ofNone; extract_lets +onlyGivenNames x0
  (try clear_value x0); extract_lets +onlyGivenNames x1; (try clear_value x1); extract_lets +onlyGivenNames x2
  (try clear_value x2); extract_lets +onlyGivenNames x3; refine (fun (h3 : DevHeld a0 x3) => ?_) ?_
  (try clear_value x3); extract_lets +onlyGivenNames x4; (try clear_value x4); extract_lets +onlyGivenNames x5
  refine (fun (h5 : DevHeld a0 x5) => ?_) ?_; (try clear_value x5); refine holds_ite ?_ ?_; exact .ofNone
  extract_lets +onlyGivenNames x6; (try clear_value x6); extract_lets +onlyGivenNames x7
  refine (fun (h7 : DevHeld a0 x7) => ?_) ?_; (try clear_value x7); extract_lets +onlyGivenNames x8
  (try clear_value x8); refine Opt.bind Opt.any fun z9 _ => ?_; extract_lets +onlyGivenNames x10
  (try clear_value x10); extract_lets +onlyGivenNames x11; refine (fun (h11 : DevHeld a0 x11) => ?_) ?_
  (try clear_value x11); extract_lets +onlyGivenNames x12; refine (fun (h12 : DevHeld a0 x12) => ?_) ?_
  (try clear_value x12); refine Opt.map (P := (DevHeld a0)) ?_ fun z13 h13 => ?_
  refine DevHeld.stepOpt ?_ State.moveHalls_devHeld; exact h12; extract_lets +onlyGivenNames x14
  refine (fun (h14 : DevHeld a0 x14) => ?_) ?_; (try clear_value x14); extract_lets +onlyGivenNames x15
  refine (fun (h15 : DevHeld a0 x15) => ?_) ?_; (try clear_value x15); extract_lets +onlyGivenNames x16
  (try clear_value x16); refine DevHeld.step ?_ State.raise_devHeld; exact h15; unfold x15
  refine DevHeld.step ?_ (Only.devHeld State.count_only); refine DevHeld.step ?_ State.charge_devHeld; exact h14
  unfold x14; refine DevHeld.step ?_ (Only.devHeld State.writeArbRotas_only)
  refine DevHeld.step ?_ State.commitStalls_devHeld; exact h13; unfold x12
  refine holds_foldl ?_ fun x17 a17_ h17 => ?_; exact h11; refine DevHeld.step ?_ (Only.devHeld State.takeStall_only)
  exact h17; unfold x11; refine DevHeld.step ?_ (Only.devHeld State.setJob_only); exact h7; unfold x7
  refine DevHeld.step ?_ (Only.devHeld State.setJob_only); exact h5; unfold x5
  refine DevHeld.step ?_ (Only.devHeld State.setJob_only); exact h3; unfold x3
  refine holds_foldl ?_ fun x18 a18_ h18 => ?_; exact .refl _
  refine DevHeld.step ?_ (Only.devHeld State.leaveStall_only); exact h18

theorem State.moveFenced_devHeld {a0 a1 a2} :
    Opt (DevHeld a0) (State.moveFenced a0 a1 a2) := by
  unfold State.moveFenced; split; refine .ofSome ?_; exact .refl _; refine holds_foldl ?_ fun x3 a3_ h3 => ?_
  refine .ofSome ?_; exact .refl _; refine Opt.bind (P := (DevHeld a0)) ?_ fun z6 h6 => ?_; exact h3
  refine holds_ite ?_ ?_; refine .ofSome ?_; exact h6; extract_lets +onlyGivenNames x11; (try clear_value x11)
  refine DevHeld.stepOpt ?_ State.movePitch_devHeld; exact h6

theorem State.nextPrimary_devHeld {a0 a1} :
    DevHeld a0 (State.nextPrimary a0 a1) := by
  unfold State.nextPrimary; extract_lets +onlyGivenNames x0; (try clear_value x0); split; refine DevHeld.upd ?_
  exact .refl _; refine DevHeld.step ?_ State.raise_devHeld; refine DevHeld.upd ?_; exact .refl _

theorem State.on_devHeld {r a0 a1 : State} (h : DevHeld r a0) (k : DevHeld r a1) : DevHeld r (a0.on a1) := by
  unfold State.on
  exact holds_ite (Q := DevHeld r) k h

theorem State.onClerk_devHeld {r a0 a1 : State} (h : DevHeld r a0) (k : DevHeld r a1) : DevHeld r (a0.onClerk a1) := by
  unfold State.onClerk
  exact holds_ite (Q := DevHeld r) k h

theorem State.reject_devHeld {a0 a1 a2 a3 a4} :
    DevHeld a0 (State.reject a0 a1 a2 a3 a4) := by
  unfold State.reject; refine DevHeld.step ?_ State.finish_devHeld
  refine DevHeld.step ?_ (Only.devHeld State.countRefusal_only); refine DevHeld.step ?_ State.raise_devHeld
  exact .refl _

theorem State.takeJob_devHeld {a0 a1 a2 a3 a4 a5 a6} :
    DevHeld a0 (State.takeJob a0 a1 a2 a3 a4 a5 a6) := by
  unfold State.takeJob; extract_lets +onlyGivenNames x0; (try clear_value x0); extract_lets +onlyGivenNames x1
  refine (fun (h1 : DevHeld a0 x1) => ?_) ?_; (try clear_value x1); extract_lets +onlyGivenNames x2
  (try clear_value x2); extract_lets +onlyGivenNames x3; refine (fun (h3 : DevHeld a0 x3) => ?_) ?_
  (try clear_value x3); extract_lets +onlyGivenNames x4; (try clear_value x4); extract_lets +onlyGivenNames x5
  refine (fun (h5 : DevHeld a0 x5) => ?_) ?_; (try clear_value x5); extract_lets +onlyGivenNames x6
  refine (fun (h6 : DevHeld a0 x6) => ?_) ?_; (try clear_value x6); refine DevHeld.step ?_ State.finish_devHeld
  exact h6; unfold x6; refine DevHeld.step ?_ (Only.devHeld State.count_only)
  refine DevHeld.step ?_ (Only.devHeld State.refloor_only)
  refine DevHeld.step ?_ (Only.devHeld State.writeArbRotas_only)
  refine DevHeld.step ?_ (Only.devHeld State.placeJob_only); exact h5; unfold x5
  refine DevHeld.step ?_ (Only.devHeld State.setPage_only); exact h3; unfold x3
  refine DevHeld.step ?_ (Only.devHeld State.setLedger_only); exact h1; unfold x1
  refine DevHeld.step ?_ (Only.devHeld State.setJob_only); exact .refl _

theorem State.openJob_devHeld {a0 a1 a2 a3 a4 a5} :
    DevHeld a0 (State.openJob a0 a1 a2 a3 a4 a5) := by
  unfold State.openJob; extract_lets +onlyGivenNames x0; (try clear_value x0); extract_lets +onlyGivenNames x1
  (try clear_value x1); refine holds_ite ?_ ?_; refine DevHeld.step ?_ State.finish_devHeld
  refine DevHeld.step ?_ (Only.devHeld State.countRefusal_only); exact .refl _; split
  refine DevHeld.step ?_ State.finish_devHeld; refine DevHeld.step ?_ (Only.devHeld State.countRefusal_only)
  exact .refl _; refine holds_ite ?_ ?_; refine DevHeld.step ?_ State.finish_devHeld
  refine DevHeld.step ?_ (Only.devHeld State.countRefusal_only); exact .refl _; refine holds_ite ?_ ?_
  refine DevHeld.step ?_ State.reject_devHeld; exact .refl _; split; refine DevHeld.step ?_ State.reject_devHeld
  exact .refl _; refine holds_ite ?_ ?_; refine DevHeld.step ?_ State.reject_devHeld; exact .refl _; split
  refine DevHeld.step ?_ State.reject_devHeld; exact .refl _; refine holds_ite ?_ ?_
  refine DevHeld.step ?_ State.reject_devHeld; exact .refl _; refine DevHeld.step ?_ State.takeJob_devHeld
  exact .refl _

theorem State.orphan_devHeld {a0 a1 a2 a3 a4} :
    DevHeld a0 (State.orphan a0 a1 a2 a3 a4) := by
  unfold State.orphan; refine DevHeld.step ?_ State.raise_devHeld
  refine DevHeld.step ?_ (Only.devHeld State.count_only); refine DevHeld.step ?_ (Only.devHeld State.count_only)
  exact .refl _

theorem State.powerEvents_devHeld {a0 a1 a2} :
    DevHeld a0 (State.powerEvents a0 a1 a2) := by
  unfold State.powerEvents; extract_lets +onlyGivenNames x0; refine (fun (h0 : DevHeld a0 x0) => ?_) ?_
  (try clear_value x0); extract_lets +onlyGivenNames x1; refine (fun (h1 : DevHeld a0 x1) => ?_) ?_
  (try clear_value x1); refine holds_ite ?_ ?_; refine DevHeld.step ?_ State.raise_devHeld; exact h1; exact h1
  unfold x1; refine holds_ite ?_ ?_; refine DevHeld.step ?_ State.raise_devHeld; exact h0; exact h0; unfold x0
  refine holds_ite ?_ ?_; refine DevHeld.step ?_ State.raise_devHeld; exact .refl _; exact .refl _

theorem State.powerFrame_devHeld {a0 a1 a2} :
    DevHeld a0 (State.powerFrame a0 a1 a2) := by
  unfold State.powerFrame; extract_lets +onlyGivenNames x0; refine (fun (h0 : DevHeld a0 x0) => ?_) ?_
  (try clear_value x0); extract_lets +onlyGivenNames x1; (try clear_value x1); extract_lets +onlyGivenNames x2
  (try clear_value x2); extract_lets +onlyGivenNames x3; (try clear_value x3); extract_lets +onlyGivenNames x4
  refine (fun (h4 : DevHeld a0 x4) => ?_) ?_; (try clear_value x4); refine DevHeld.step ?_ State.powerEvents_devHeld
  refine holds_ite ?_ ?_; exact h4; refine DevHeld.step ?_ (Only.devHeld State.count_only); exact h4; unfold x4
  refine DevHeld.step ?_ (Only.devHeld State.railEnergy_only); refine DevHeld.upd ?_; exact h0; unfold x0
  refine DevHeld.step ?_ State.applyK_devHeld; refine DevHeld.step ?_ (Only.devHeld State.advance_only); exact .refl _

theorem State.takeRepeat_devHeld {a0 a1} :
    DevHeld a0 (State.takeRepeat a0 a1) := by
  unfold State.takeRepeat; extract_lets +onlyGivenNames x0; (try clear_value x0); extract_lets +onlyGivenNames x1
  refine (fun (h1 : DevHeld a0 x1) => ?_) ?_; (try clear_value x1); refine holds_ite ?_ ?_; refine DevHeld.upd ?_
  exact h1; split; refine DevHeld.step ?_ State.writeCompletion_devHeld; exact h1
  refine DevHeld.step ?_ State.writeCompletion_devHeld; exact h1; unfold x1
  refine DevHeld.step ?_ State.raise_devHeld; exact .refl _

theorem State.takeOne_devHeld {a0 a1} :
    DevHeld a0 (State.takeOne a0 a1) := by
  unfold State.takeOne; extract_lets +onlyGivenNames x0; (try clear_value x0); extract_lets +onlyGivenNames x1
  refine (fun (h1 : DevHeld a0 x1) => ?_) ?_; (try clear_value x1); extract_lets +onlyGivenNames x2
  refine (fun (h2 : DevHeld a0 x2) => ?_) ?_; (try clear_value x2); refine holds_ite ?_ ?_
  refine DevHeld.step ?_ State.writeCompletion_devHeld; refine DevHeld.step ?_ State.raise_devHeld; exact h2
  refine holds_ite ?_ ?_; refine DevHeld.step ?_ State.takeRepeat_devHeld; exact h2; refine DevHeld.upd ?_; exact h2
  unfold x2; refine DevHeld.step ?_ (Only.devHeld State.count_only); exact h1; unfold x1; refine DevHeld.upd ?_
  exact .refl _

theorem State.takeDescs_devHeld {a0 a1 a2} :
    DevHeld a0 (State.takeDescs a0 a1 a2) := by
  induction a2 generalizing a0 with
  | nil => unfold State.takeDescs; exact .refl _
  | cons d l ih =>
    unfold State.takeDescs; extract_lets +onlyGivenNames x0; (try clear_value x0); refine holds_ite ?_ ?_
    extract_lets +onlyGivenNames x2; (try clear_value x2); refine DevHeld.step ?_ ih
    refine DevHeld.step ?_ State.takeOne_devHeld; refine DevHeld.step ?_ (Only.devHeld State.request_only)
    refine DevHeld.step ?_ (Only.devHeld State.request_only); exact .refl _; exact .refl _

theorem State.readDoor_devHeld {a0 a1 a2} :
    DevHeld a0 (State.readDoor a0 a1 a2) := by
  unfold State.readDoor; refine holds_ite ?_ ?_; exact .refl _; extract_lets +onlyGivenNames x0; (try clear_value x0)
  extract_lets +onlyGivenNames x1; (try clear_value x1); extract_lets +onlyGivenNames x2; (try clear_value x2)
  extract_lets +onlyGivenNames x3; refine (fun (h3 : DevHeld a0 x3) => ?_) ?_; (try clear_value x3)
  extract_lets +onlyGivenNames x4; (try clear_value x4); extract_lets +onlyGivenNames x5; (try clear_value x5)
  extract_lets +onlyGivenNames x6; refine (fun (h6 : DevHeld a0 x6) => ?_) ?_; (try clear_value x6)
  extract_lets +onlyGivenNames x7; refine (fun (h7 : DevHeld a0 x7) => ?_) ?_; (try clear_value x7)
  refine holds_ite ?_ ?_; refine DevHeld.step ?_ State.post_devHeld; exact h7
  refine DevHeld.step ?_ State.post_devHeld; refine DevHeld.step ?_ (Only.devHeld State.writeStatus_only); exact h7
  unfold x7; refine DevHeld.step ?_ State.takeDescs_devHeld; exact h6; unfold x6; refine DevHeld.upd ?_; exact h3
  unfold x3; refine holds_ite ?_ ?_; exact .refl _; refine holds_ite ?_ ?_
  refine DevHeld.step ?_ (Only.devHeld State.cacheLine_only); refine DevHeld.step ?_ (Only.devHeld State.request_only)
  exact .refl _; refine DevHeld.step ?_ (Only.devHeld State.request_only); exact .refl _

theorem State.readHbm_devHeld {a0 a1 a2 a3 a4 a5 a6} :
    DevHeld a0 (State.readHbm a0 a1 a2 a3 a4 a5 a6) := by
  unfold State.readHbm; extract_lets +onlyGivenNames x0; (try clear_value x0); extract_lets +onlyGivenNames x1
  (try clear_value x1); extract_lets +onlyGivenNames x2; (try clear_value x2); extract_lets +onlyGivenNames x3
  (try clear_value x3); extract_lets +onlyGivenNames x4; refine (fun (h4 : DevHeld a0 x4) => ?_) ?_
  (try clear_value x4); extract_lets +onlyGivenNames x5; refine (fun (h5 : DevHeld a0 x5) => ?_) ?_
  (try clear_value x5); extract_lets +onlyGivenNames x6; refine (fun (h6 : DevHeld a0 x6) => ?_) ?_
  (try clear_value x6); refine DevHeld.step ?_ (Only.devHeld State.respond_only)
  refine DevHeld.step ?_ State.charge_devHeld; exact h6; unfold x6; refine holds_ite ?_ ?_
  refine DevHeld.step ?_ (Only.devHeld State.countHbm_only); refine DevHeld.step ?_ (Only.devHeld State.countHbm_only)
  refine DevHeld.step ?_ (Only.devHeld State.countHbm_only); exact h5; exact h5; unfold x5
  refine DevHeld.step ?_ (Only.devHeld State.countHbm_only); exact h4; unfold x4
  refine DevHeld.step ?_ (Only.devHeld State.countHbm_only); refine holds_foldl ?_ fun x7 a7_ h7 => ?_; exact .refl _
  refine DevHeld.step ?_ (Only.devHeld State.countHbm_only); exact h7

theorem State.readStats_devHeld {a0 a1 a2 a3 a4 a5 a6 a7 a8} :
    DevHeld a0 (State.readStats a0 a1 a2 a3 a4 a5 a6 a7 a8) := by
  unfold State.readStats
  refine holds_ite (.refl _) ?_
  extract_lets r
  have k : DevHeld a0 r.1.s :=
    holds_foldl (Q := fun x : StateRead × List Nat => DevHeld a0 x.1.s) (.refl _) fun x _ h =>
      StateRead.plane_devHeld (x := { x.1 with poison := false }) h
  clear_value r
  exact ((StateRead.done_devHeld k).step State.count_only.devHeld).step State.setFact_only.devHeld

theorem State.readWindow_devHeld {a0 a1 a2} :
    Snd (DevHeld a0) (State.readWindow a0 a1 a2) := by
  unfold State.readWindow; refine holds_foldl ?_ fun x0 a0_ h0 => ?_; change DevHeld _ (Prod.snd (_, _)); dsimp only
  exact .refl _; extract_lets +onlyGivenNames x3; refine (fun (h3 : Snd (DevHeld a0) x3) => ?_) ?_
  (try clear_value x3); change DevHeld _ (Prod.snd (_, _)); dsimp only; exact h3; unfold x3
  refine DevHeld.stepSnd ?_ State.readWord_devHeld; exact h0

theorem State.reconcile_devHeld {a0 a1 a2 a3} :
    DevHeld a0 (State.reconcile a0 a1 a2 a3) := by
  unfold State.reconcile; extract_lets +onlyGivenNames x0; (try clear_value x0); extract_lets +onlyGivenNames x1
  (try clear_value x1); extract_lets +onlyGivenNames x2; (try clear_value x2); extract_lets +onlyGivenNames x3
  refine (fun (h3 : DevHeld a0 x3) => ?_) ?_; (try clear_value x3); extract_lets +onlyGivenNames x4
  (try clear_value x4); extract_lets +onlyGivenNames x5; refine (fun (h5 : DevHeld a0 x5) => ?_) ?_
  (try clear_value x5); extract_lets +onlyGivenNames x6; refine (fun (h6 : DevHeld a0 x6) => ?_) ?_
  (try clear_value x6); refine DevHeld.step ?_ (Only.devHeld State.count_only)
  refine DevHeld.step ?_ (Only.devHeld State.count_only); exact h6; unfold x6; refine DevHeld.upd ?_; exact h5
  unfold x5; refine DevHeld.step ?_ State.chargeEnergy_devHeld; exact h3; unfold x3; refine DevHeld.upd ?_
  exact .refl _

theorem State.replayHalf_devHeld {a0 a1 a2} :
    DevHeld a0 (State.replayHalf a0 a1 a2) := by
  unfold State.replayHalf; extract_lets +onlyGivenNames x0; (try clear_value x0); refine holds_ite ?_ ?_
  exact .refl _; refine holds_ite ?_ ?_; refine DevHeld.step ?_ State.loseHalf_devHeld; exact .refl _
  extract_lets +onlyGivenNames x1; (try clear_value x1); extract_lets +onlyGivenNames x2
  refine (fun (h2 : DevHeld a0 x2) => ?_) ?_; (try clear_value x2); extract_lets +onlyGivenNames x3
  refine (fun (h3 : DevHeld a0 x3) => ?_) ?_; (try clear_value x3)
  refine DevHeld.step ?_ (Only.devHeld State.occupy_only); refine DevHeld.step ?_ (Only.devHeld State.count_only)
  exact h3; unfold x3; refine holds_foldl ?_ fun x4 a4_ h4 => ?_; exact h2
  refine DevHeld.step ?_ (Only.devHeld State.emit_only); exact h4; unfold x2
  refine DevHeld.step ?_ (Only.devHeld State.setHalf_only); exact .refl _

theorem State.replayPort_devHeld {a0 a1 a2} :
    DevHeld a0 (State.replayPort a0 a1 a2) := by
  unfold State.replayPort; extract_lets +onlyGivenNames x0; (try clear_value x0); refine holds_ite ?_ ?_
  exact .refl _; extract_lets +onlyGivenNames x1; (try clear_value x1); extract_lets +onlyGivenNames x2
  (try clear_value x2); extract_lets +onlyGivenNames x3; refine (fun (h3 : DevHeld a0 x3) => ?_) ?_
  (try clear_value x3); extract_lets +onlyGivenNames x4; refine (fun (h4 : DevHeld a0 x4) => ?_) ?_
  (try clear_value x4); extract_lets +onlyGivenNames x5; refine (fun (h5 : DevHeld a0 x5) => ?_) ?_
  (try clear_value x5); refine holds_ite ?_ ?_; refine DevHeld.step ?_ State.raise_devHeld; exact h5; exact h5
  unfold x5; refine DevHeld.step ?_ (Only.devHeld State.occupy_only)
  refine DevHeld.step ?_ (Only.devHeld State.count_only); exact h4; unfold x4
  refine holds_foldl ?_ fun x6 a6_ h6 => ?_; exact h3; extract_lets +onlyGivenNames x7; (try clear_value x7)
  extract_lets +onlyGivenNames x8; (try clear_value x8); refine DevHeld.step ?_ (Only.devHeld State.emit_only)
  exact h6; unfold x3; refine DevHeld.step ?_ (Only.devHeld State.setAisle_only); exact .refl _

theorem State.rerunStep_devHeld {a0 a1 a2 a3} :
    DevHeld a0 (State.rerunStep a0 a1 a2 a3) := by
  unfold State.rerunStep; split; exact .refl _; split; exact .refl _; split; exact .refl _; refine holds_ite ?_ ?_
  exact .refl _; split; exact .refl _; extract_lets +onlyGivenNames x0; refine (fun (h0 : DevHeld a0 x0) => ?_) ?_
  (try clear_value x0); refine DevHeld.step ?_ State.raise_devHeld; exact h0; unfold x0
  refine DevHeld.step ?_ State.go_devHeld; refine DevHeld.step ?_ State.armStalls_devHeld; exact .refl _

theorem State.resolveStep_devHeld {a0 a1 a2 a3 a4} :
    DevHeld a0 (State.resolveStep a0 a1 a2 a3 a4) := by
  unfold State.resolveStep; split; exact .refl _; extract_lets +onlyGivenNames x0
  refine (fun (h0 : DevHeld a0 x0) => ?_) ?_; (try clear_value x0); extract_lets +onlyGivenNames x1
  refine (fun (h1 : DevHeld a0 x1) => ?_) ?_; (try clear_value x1); extract_lets +onlyGivenNames x2
  refine (fun (h2 : DevHeld a0 x2) => ?_) ?_; (try clear_value x2); refine DevHeld.step ?_ State.finish_devHeld
  exact h2; unfold x2; refine DevHeld.step ?_ State.sealsOf_devHeld; exact h1; unfold x1; refine holds_ite ?_ ?_
  refine DevHeld.step ?_ State.charge_devHeld; refine DevHeld.step ?_ (Only.devHeld State.advanceGroups_only)
  exact h0; refine DevHeld.step ?_ State.raise_devHeld; refine DevHeld.step ?_ State.charge_devHeld; exact h0
  unfold x0; refine DevHeld.step ?_ (Only.devHeld State.setJob_only); exact .refl _

theorem State.resolveSteps_devHeld {a0 a1} :
    DevHeld a0 (State.resolveSteps a0 a1) := by
  unfold State.resolveSteps; refine holds_foldl ?_ fun x0 a0_ h0 => ?_; exact .refl _
  refine holds_foldl ?_ fun x2 a2_ h2 => ?_; exact h0; split; refine holds_ite ?_ ?_
  refine DevHeld.step ?_ State.resolveStep_devHeld; exact h2; exact h2; exact h2

theorem State.restoreSteps_devHeld {a0 a1 a2} :
    DevHeld a0 (State.restoreSteps a0 a1 a2) := by
  unfold State.restoreSteps; split; exact .refl _; extract_lets +onlyGivenNames x0; (try clear_value x0)
  refine holds_ite ?_ ?_; exact .refl _; extract_lets +onlyGivenNames x1; refine (fun (h1 : DevHeld a0 x1) => ?_) ?_
  (try clear_value x1); extract_lets +onlyGivenNames x2; refine (fun (h2 : DevHeld a0 x2) => ?_) ?_
  (try clear_value x2); extract_lets +onlyGivenNames x3; refine (fun (h3 : DevHeld a0 x3) => ?_) ?_
  (try clear_value x3); split; refine DevHeld.step ?_ (State.moveFenced_devHeld _ (by assumption)); exact h3
  refine DevHeld.step ?_ State.failJob_devHeld; exact h3; unfold x3; split
  refine DevHeld.step ?_ (Only.devHeld State.setJob_only); exact h2; exact h2; unfold x2
  refine holds_foldl ?_ fun x4 a4_ h4 => ?_; exact h1; refine DevHeld.step ?_ State.discardStep_devHeld; exact h4
  unfold x1; refine holds_foldl ?_ fun x5 a5_ h5 => ?_; exact .refl _; refine holds_ite ?_ ?_; exact h5
  refine DevHeld.step ?_ (Only.devHeld State.sendAborts_only); exact h5

theorem State.resumeJob_devHeld {a0 a1 a2} :
    DevHeld a0 (State.resumeJob a0 a1 a2) := by
  unfold State.resumeJob; split; exact .refl _; extract_lets +onlyGivenNames x2; (try clear_value x2)
  refine holds_ite ?_ ?_; refine DevHeld.step ?_ (Only.devHeld State.setJob_only); exact .refl _
  refine DevHeld.step ?_ State.preemptFor_devHeld; refine DevHeld.step ?_ (Only.devHeld State.suspendSlots_only)
  refine DevHeld.step ?_ (Only.devHeld State.setJob_only); exact .refl _

theorem State.revokedEv_devHeld {a0 a1 a2 a3} :
    DevHeld a0 (State.revokedEv a0 a1 a2 a3) := by
  unfold State.revokedEv; split; exact .refl _; split; exact .refl _; refine holds_ite ?_ ?_; exact .refl _
  refine DevHeld.step ?_ State.raise_devHeld; refine DevHeld.step ?_ (Only.devHeld State.setJob_only); exact .refl _

theorem State.revokeAisle_devHeld {a0 a1 a2} :
    DevHeld a0 (State.revokeAisle a0 a1 a2) := by
  unfold State.revokeAisle; extract_lets +onlyGivenNames x0; (try clear_value x0); extract_lets +onlyGivenNames x1
  (try clear_value x1); extract_lets +onlyGivenNames x2; (try clear_value x2); split; exact .refl _
  extract_lets +onlyGivenNames x3; (try clear_value x3); extract_lets +onlyGivenNames x4; (try clear_value x4)
  refine DevHeld.step ?_ (Only.devHeld State.reserveAisle_only); refine DevHeld.step ?_ State.revokedEv_devHeld
  refine DevHeld.step ?_ (Only.devHeld State.count_only); refine DevHeld.step ?_ (Only.devHeld State.setAisle_only)
  exact .refl _

theorem State.revokeHalf_devHeld {a0 a1 a2} :
    DevHeld a0 (State.revokeHalf a0 a1 a2) := by
  unfold State.revokeHalf; extract_lets +onlyGivenNames x0; (try clear_value x0); extract_lets +onlyGivenNames x1
  (try clear_value x1); extract_lets +onlyGivenNames x2; (try clear_value x2); split; exact .refl _
  extract_lets +onlyGivenNames x3; (try clear_value x3); refine DevHeld.step ?_ State.revokedEv_devHeld
  refine DevHeld.step ?_ (Only.devHeld State.count_only); refine DevHeld.step ?_ (Only.devHeld State.setHalf_only)
  exact .refl _

theorem State.revoked_devHeld {a0 a1 a2 a3} :
    DevHeld a0 (State.revoked a0 a1 a2 a3) := by
  unfold State.revoked; refine holds_ite ?_ ?_; refine holds_ite ?_ ?_
  refine DevHeld.step ?_ (Only.devHeld State.reserveAisle_only); exact .refl _; exact .refl _; split
  refine holds_ite ?_ ?_; refine DevHeld.step ?_ State.onStall_devHeld; exact .refl _; exact .refl _; exact .refl _

theorem State.stallBoundaries_devHeld {a0 a1 a2} :
    DevHeld a0 (State.stallBoundaries a0 a1 a2) := by
  unfold State.stallBoundaries; extract_lets +onlyGivenNames x0; (try clear_value x0); extract_lets +onlyGivenNames x1
  (try clear_value x1); extract_lets +onlyGivenNames x2; refine (fun (h2 : DevHeld a0 x2) => ?_) ?_
  (try clear_value x2); refine holds_foldl ?_ fun x3 a3_ h3 => ?_; exact h2; refine holds_ite ?_ ?_; exact h3
  refine DevHeld.step ?_ (Only.devHeld State.setPage_only); exact h3; unfold x2
  refine holds_foldl ?_ fun x4 a4_ h4 => ?_; exact .refl _; refine DevHeld.step ?_ State.onStall_devHeld
  refine DevHeld.step ?_ (Only.devHeld State.stopFetches_only); exact h4

theorem State.roundAt_devHeld {a0 a1} :
    DevHeld a0 (State.roundAt a0 a1) := by
  unfold State.roundAt; extract_lets +onlyGivenNames x0; refine (fun (h0 : DevHeld a0 x0) => ?_) ?_
  (try clear_value x0); extract_lets +onlyGivenNames x1; (try clear_value x1); extract_lets +onlyGivenNames x2
  (try clear_value x2); extract_lets +onlyGivenNames x3; refine (fun (h3 : DevHeld a0 x3) => ?_) ?_
  (try clear_value x3); extract_lets +onlyGivenNames x4; refine (fun (h4 : DevHeld a0 x4) => ?_) ?_
  (try clear_value x4); extract_lets +onlyGivenNames x5; refine (fun (h5 : DevHeld a0 x5) => ?_) ?_
  (try clear_value x5); extract_lets +onlyGivenNames x6; refine (fun (h6 : DevHeld a0 x6) => ?_) ?_
  (try clear_value x6); refine DevHeld.step ?_ (Only.devHeld State.startAcquire_only)
  refine DevHeld.step ?_ State.chargeReserved_devHeld; refine DevHeld.step ?_ (Only.devHeld State.rebank_only)
  refine DevHeld.step ?_ State.resolveSteps_devHeld; exact h6; unfold x6; refine holds_foldl ?_ fun x7 a7_ h7 => ?_
  exact h5; refine DevHeld.step ?_ (Only.devHeld State.hubBoundary_only); exact h7; unfold x5
  refine DevHeld.step ?_ (Only.devHeld State.noteQuiet_only); refine DevHeld.step ?_ State.stallBoundaries_devHeld
  refine DevHeld.step ?_ (Only.devHeld State.commitPages_only); exact h4; unfold x4
  refine DevHeld.step ?_ (Only.devHeld State.count_only); exact h3; unfold x3; refine DevHeld.upd ?_; exact h0
  unfold x0; refine DevHeld.step ?_ State.applyK_devHeld; refine DevHeld.step ?_ (Only.devHeld State.advance_only)
  exact .refl _

theorem State.runCommand_devHeld {r a0 : State} {a1 a2 a3 : Nat} {a4 : State → Taken → State} (h : DevHeld r a0)
    (k : ∀ x y, DevHeld r x → DevHeld r (a4 x y)) : DevHeld r (State.runCommand a0 a1 a2 a3 a4) := by
  have h1 : DevHeld r (a0.advance a1) := h.step State.advance_only.devHeld
  unfold State.runCommand
  extract_lets x0
  split
  · exact h1
  · extract_lets j
    refine holds_ite h1 (holds_ite (((h1.step State.raise_devHeld).step State.countRefusal_only.devHeld).step
        State.finish_devHeld)
      (holds_ite (k _ _ h1) (holds_ite (h1.step State.finish_devHeld) ?_)))
    split
    · exact holds_ite (h1.step State.finish_devHeld) (k _ _ h1)
    · exact h1

theorem State.trainStacks_devHeld {a0 a1} :
    DevHeld a0 (State.trainStacks a0 a1) := by
  unfold State.trainStacks; refine holds_foldl ?_ fun x0 a0_ h0 => ?_; exact .refl _
  refine DevHeld.step ?_ State.raise_devHeld; refine DevHeld.upd ?_; exact h0

theorem State.trainBridges_devHeld {a0 a1} :
    DevHeld a0 (State.trainBridges a0 a1) := by
  unfold State.trainBridges; extract_lets +onlyGivenNames x0; (try clear_value x0); extract_lets +onlyGivenNames x1
  (try clear_value x1); extract_lets +onlyGivenNames x2; refine (fun (h2 : DevHeld a0 x2) => ?_) ?_
  (try clear_value x2); extract_lets +onlyGivenNames x3; refine (fun (h3 : DevHeld a0 x3) => ?_) ?_
  (try clear_value x3); refine holds_foldl ?_ fun x4 a4_ h4 => ?_; exact h3
  refine DevHeld.step ?_ State.bridgeDown_devHeld; exact h4; unfold x3; refine holds_foldl ?_ fun x9 a9_ h9 => ?_
  exact h2; refine DevHeld.step ?_ State.raise_devHeld; exact h9; unfold x2; refine DevHeld.upd ?_; exact .refl _

theorem State.testStalls_devHeld {a0 a1 a2} :
    DevHeld a0 (State.testStalls a0 a1 a2) := by
  unfold State.testStalls; extract_lets +onlyGivenNames x0; refine (fun (h0 : DevHeld a0 x0) => ?_) ?_
  (try clear_value x0); extract_lets +onlyGivenNames x1; refine (fun (h1 : DevHeld a0 x1) => ?_) ?_
  (try clear_value x1); extract_lets +onlyGivenNames x2; refine (fun (h2 : DevHeld a0 x2) => ?_) ?_
  (try clear_value x2); extract_lets +onlyGivenNames x3; refine (fun (h3 : DevHeld a0 x3) => ?_) ?_
  (try clear_value x3); extract_lets +onlyGivenNames x4; (try clear_value x4)
  refine holds_foldl ?_ fun x5 a5_ h5 => ?_; exact h3; refine holds_foldl ?_ fun x6 a6_ h6 => ?_; exact h5
  refine DevHeld.step ?_ State.fence_devHeld; exact h6; unfold x3; refine holds_foldl ?_ fun x7 a7_ h7 => ?_; exact h2
  refine DevHeld.step ?_ State.raise_devHeld; exact h7; unfold x2; refine holds_foldl ?_ fun x8 a8_ h8 => ?_; exact h1
  refine DevHeld.step ?_ State.raise_devHeld; refine DevHeld.step ?_ (Only.devHeld State.setStall_only); exact h8
  unfold x1; refine holds_foldl ?_ fun x9 a9_ h9 => ?_; exact h0
  refine DevHeld.step ?_ (Only.devHeld State.mapSpares_only); exact h9; unfold x0; refine DevHeld.upd ?_
  exact .refl _

theorem State.testDevice_devHeld {a0 a1} :
    DevHeld a0 (State.testDevice a0 a1) := by
  unfold State.testDevice; extract_lets +onlyGivenNames x0; (try clear_value x0); extract_lets +onlyGivenNames x1
  refine (fun (h1 : DevHeld a0 x1) => ?_) ?_; (try clear_value x1); refine DevHeld.step ?_ State.trainStacks_devHeld
  refine DevHeld.step ?_ State.trainBridges_devHeld; refine DevHeld.step ?_ State.testStalls_devHeld; exact h1
  unfold x1; refine DevHeld.upd ?_; exact .refl _

theorem State.selftest_devHeld {a0 a1 a2 a3} :
    DevHeld a0 (State.selftest a0 a1 a2 a3) := by
  unfold State.selftest; refine DevHeld.step ?_ State.finish_devHeld; refine holds_ite ?_ ?_
  refine DevHeld.step ?_ State.testDevice_devHeld; exact .refl _; refine DevHeld.step ?_ State.testStalls_devHeld
  exact .refl _

theorem State.sendWcopy_devHeld {a0 a1 a2 a3 a4 a5 a6 a7 a8} :
    DevHeld a0 (State.sendWcopy a0 a1 a2 a3 a4 a5 a6 a7 a8) := by
  unfold State.sendWcopy; refine holds_ite ?_ ?_; exact .refl _; split; exact .refl _; extract_lets +onlyGivenNames x0
  (try clear_value x0); refine holds_foldl ?_ fun x1 a1_ h1 => ?_; exact .refl _; split
  refine DevHeld.step ?_ State.sendUnit_devHeld; exact h1; exact h1

theorem State.setPolicy_devHeld {a0 a1 a2} :
    DevHeld a0 (State.setPolicy a0 a1 a2) := by
  unfold State.setPolicy; extract_lets +onlyGivenNames x0; (try clear_value x0); refine holds_ite ?_ ?_
  refine DevHeld.step ?_ State.refuse_devHeld; exact .refl _; refine holds_ite ?_ ?_
  refine DevHeld.step ?_ State.refuse_devHeld; refine DevHeld.step ?_ State.raise_devHeld; exact .refl _
  extract_lets +onlyGivenNames x1; refine (fun (h1 : DevHeld a0 x1) => ?_) ?_; (try clear_value x1)
  refine holds_ite ?_ ?_; refine DevHeld.step ?_ (Only.devHeld State.markStarted_only); refine DevHeld.upd ?_
  exact h1; refine DevHeld.step ?_ State.finish_devHeld; exact h1; unfold x1
  refine DevHeld.step ?_ (Only.devHeld State.applyPolicy_only); exact .refl _

theorem State.staleWrite_devHeld {a0 a1} :
    DevHeld a0 (State.staleWrite a0 a1) := by
  unfold State.staleWrite; extract_lets +onlyGivenNames x0; (try clear_value x0); extract_lets +onlyGivenNames x1
  (try clear_value x1); split; exact .refl _; extract_lets +onlyGivenNames x4
  refine (fun (h4 : DevHeld a0 x4) => ?_) ?_; (try clear_value x4); refine holds_foldl ?_ fun x5 a5_ h5 => ?_
  exact h4; refine DevHeld.step ?_ State.raise_devHeld; exact h5; unfold x4
  refine DevHeld.step ?_ (Only.devHeld State.count_only); refine DevHeld.step ?_ (Only.devHeld State.setHub_only)
  exact .refl _

theorem State.startStep_devHeld {a0 a1 a2 a3 a4} :
    DevHeld a0 (State.startStep a0 a1 a2 a3 a4) := by
  unfold State.startStep; split; exact .refl _; split; exact .refl _; split; refine DevHeld.step ?_ State.go_devHeld
  exact .refl _; exact .refl _

theorem State.startTest_devHeld {a0 a1 a2 a3} :
    DevHeld a0 (State.startTest a0 a1 a2 a3) := by
  unfold State.startTest; refine holds_ite ?_ ?_; refine DevHeld.step ?_ State.refuse_devHeld; exact .refl _
  refine holds_ite ?_ ?_; refine DevHeld.step ?_ State.selftest_devHeld; exact .refl _; refine holds_ite ?_ ?_
  refine DevHeld.step ?_ (Only.devHeld State.markStarted_only); refine DevHeld.upd ?_; exact .refl _
  refine DevHeld.step ?_ State.finish_devHeld; exact .refl _

theorem State.stepAborted_devHeld {a0 a1 a2 a3} :
    DevHeld a0 (State.stepAborted a0 a1 a2 a3) := by
  unfold State.stepAborted; refine holds_ite ?_ ?_; exact .refl _; extract_lets +onlyGivenNames x0
  (try clear_value x0); extract_lets +onlyGivenNames x1; refine (fun (h1 : DevHeld a0 x1) => ?_) ?_
  (try clear_value x1); refine DevHeld.step ?_ State.finish_devHeld; refine DevHeld.step ?_ State.endStep_devHeld
  exact h1; unfold x1; refine holds_foldl ?_ fun x2 a2_ h2 => ?_; exact .refl _
  refine DevHeld.step ?_ (Only.devHeld State.sendAborts_only); exact h2

theorem State.stepAbort_devHeld {a0 a1 a2 a3 a4 a5} :
    DevHeld a0 (State.stepAbort a0 a1 a2 a3 a4 a5) := by
  unfold State.stepAbort; extract_lets +onlyGivenNames x0; (try clear_value x0); extract_lets +onlyGivenNames x1
  (try clear_value x1); split; refine DevHeld.step ?_ State.finish_devHeld
  refine DevHeld.step ?_ State.finish_devHeld; exact .refl _; refine DevHeld.step ?_ State.finish_devHeld
  exact .refl _; refine holds_ite ?_ ?_; refine DevHeld.step ?_ State.stepAborted_devHeld; exact .refl _
  refine holds_ite ?_ ?_; refine DevHeld.step ?_ State.finish_devHeld; exact .refl _; refine holds_ite ?_ ?_
  refine DevHeld.step ?_ State.finish_devHeld; refine DevHeld.step ?_ State.endStep_devHeld; exact .refl _
  extract_lets +onlyGivenNames x2; refine (fun (h2 : DevHeld a0 x2) => ?_) ?_; (try clear_value x2)
  refine DevHeld.step ?_ State.stepAborted_devHeld; refine DevHeld.step ?_ (Only.devHeld State.markStarted_only)
  refine DevHeld.step ?_ (Only.devHeld State.abortStalls_only); exact h2; unfold x2
  refine DevHeld.step ?_ (Only.devHeld State.setJob_only); exact .refl _

theorem State.summary_devHeld {a0 a1 a2} :
    DevHeld a0 (State.summary a0 a1 a2) := by
  unfold State.summary; extract_lets +onlyGivenNames x0; refine (fun (h0 : DevHeld a0 x0) => ?_) ?_
  (try clear_value x0); extract_lets +onlyGivenNames x1; (try clear_value x1); refine holds_ite ?_ ?_
  refine DevHeld.step ?_ State.finish_devHeld; refine DevHeld.step ?_ State.raise_devHeld; exact h0
  refine DevHeld.step ?_ State.finish_devHeld; refine DevHeld.step ?_ (Only.devHeld State.writeLines_only); exact h0
  unfold x0; refine DevHeld.step ?_ (Only.devHeld State.advance_only); exact .refl _

theorem State.takeFrame_devHeld {a0 a1 a2 a3 a4 a5 a6 a7 a8 a9} :
    DevHeld a0 (State.takeFrame a0 a1 a2 a3 a4 a5 a6 a7 a8 a9) := by
  unfold State.takeFrame; extract_lets +onlyGivenNames x0; (try clear_value x0); extract_lets +onlyGivenNames x1
  (try clear_value x1); extract_lets +onlyGivenNames x2; refine (fun (h2 : DevHeld a0 x2) => ?_) ?_
  (try clear_value x2); extract_lets +onlyGivenNames x3; (try clear_value x3); refine holds_ite ?_ ?_
  refine DevHeld.step ?_ (Only.devHeld State.count_only); exact h2; refine holds_ite ?_ ?_
  refine DevHeld.step ?_ State.raise_devHeld; exact h2; extract_lets +onlyGivenNames x4
  refine (fun (h4 : DevHeld a0 x4) => ?_) ?_; (try clear_value x4); refine holds_ite ?_ ?_
  refine DevHeld.step ?_ State.egress_devHeld; exact h4; refine DevHeld.step ?_ (Only.devHeld State.contribute_only)
  exact h4; unfold x4; refine DevHeld.step ?_ (Only.devHeld State.setHub_only); exact h2; unfold x2
  refine DevHeld.step ?_ (Only.devHeld State.count_only); exact .refl _

theorem State.takePulse_devHeld {a0 a1 a2 a3} :
    DevHeld a0 (State.takePulse a0 a1 a2 a3) := by
  unfold State.takePulse; refine holds_ite ?_ ?_; refine DevHeld.step ?_ State.acquireBell_devHeld; exact .refl _
  extract_lets +onlyGivenNames x0; (try clear_value x0); extract_lets +onlyGivenNames x1
  refine (fun (h1 : DevHeld a0 x1) => ?_) ?_; (try clear_value x1); refine holds_ite ?_ ?_
  refine DevHeld.step ?_ State.checkPulse_devHeld; exact h1; exact h1; unfold x1; refine holds_ite ?_ ?_
  refine DevHeld.step ?_ State.refuseAcquire_devHeld; refine DevHeld.upd ?_; exact .refl _; exact .refl _

theorem State.takeWcopy_devHeld {a0 a1 a2 a3 a4 a5 a6 a7 a8} :
    DevHeld a0 (State.takeWcopy a0 a1 a2 a3 a4 a5 a6 a7 a8) := by
  unfold State.takeWcopy; extract_lets +onlyGivenNames x0; (try clear_value x0); extract_lets +onlyGivenNames x1
  (try clear_value x1); extract_lets +onlyGivenNames x2; refine (fun (h2 : DevHeld a0 x2) => ?_) ?_
  (try clear_value x2); refine holds_ite ?_ ?_; refine DevHeld.step ?_ State.raise_devHeld; exact h2
  extract_lets +onlyGivenNames x3; (try clear_value x3); extract_lets +onlyGivenNames x4
  refine (fun (h4 : DevHeld a0 x4) => ?_) ?_; (try clear_value x4); extract_lets +onlyGivenNames x5
  refine (fun (h5 : DevHeld a0 x5) => ?_) ?_; (try clear_value x5); extract_lets +onlyGivenNames x6
  refine (fun (h6 : DevHeld a0 x6) => ?_) ?_; (try clear_value x6)
  refine DevHeld.step ?_ (Only.devHeld State.count_only); exact h6; unfold x6
  refine DevHeld.step ?_ (Only.devHeld State.setPending_only); exact h5; unfold x5; refine holds_ite ?_ ?_
  refine DevHeld.step ?_ State.unitWrite_devHeld; exact h4; exact h4; unfold x4
  refine DevHeld.step ?_ State.unitWrite_devHeld; exact h2; unfold x2
  refine DevHeld.step ?_ (Only.devHeld State.setHub_only); exact .refl _

theorem State.twinBind_devHeld {a0 a1 a2 a3 a4} :
    DevHeld a0 (State.twinBind a0 a1 a2 a3 a4) := by
  unfold State.twinBind; extract_lets +onlyGivenNames x0; (try clear_value x0); extract_lets +onlyGivenNames x1
  (try clear_value x1); extract_lets +onlyGivenNames x2; (try clear_value x2); refine holds_ite ?_ ?_
  refine DevHeld.step ?_ State.refuse_devHeld; exact .refl _; refine holds_ite ?_ ?_; exact .refl _
  refine holds_ite ?_ ?_; refine DevHeld.step ?_ State.refuse_devHeld; exact .refl _; extract_lets +onlyGivenNames x3
  (try clear_value x3); refine DevHeld.step ?_ State.finish_devHeld
  refine DevHeld.step ?_ (Only.devHeld State.setJob_only); exact .refl _

theorem State.unfence_devHeld {a0 a1} :
    DevHeld a0 (State.unfence a0 a1) := by
  unfold State.unfence; extract_lets +onlyGivenNames x0; (try clear_value x0); extract_lets +onlyGivenNames x1
  refine (fun (h1 : DevHeld a0 x1) => ?_) ?_; (try clear_value x1); extract_lets +onlyGivenNames x2
  (try clear_value x2); extract_lets +onlyGivenNames x3; refine (fun (h3 : DevHeld a0 x3) => ?_) ?_
  (try clear_value x3); refine DevHeld.step ?_ State.raise_devHeld; exact h3; unfold x3; refine DevHeld.upd ?_
  exact h1; unfold x1; refine DevHeld.step ?_ (Only.devHeld State.setStall_only); exact .refl _

theorem State.unreconciled_devHeld {a0 a1 a2} :
    DevHeld a0 (State.unreconciled a0 a1 a2) := by
  unfold State.unreconciled; extract_lets +onlyGivenNames x0; refine (fun (h0 : DevHeld a0 x0) => ?_) ?_
  (try clear_value x0); extract_lets +onlyGivenNames x1; refine (fun (h1 : DevHeld a0 x1) => ?_) ?_
  (try clear_value x1); extract_lets +onlyGivenNames x2; refine (fun (h2 : DevHeld a0 x2) => ?_) ?_
  (try clear_value x2); refine holds_ite ?_ ?_; exact h2; refine DevHeld.step ?_ State.raise_devHeld
  refine DevHeld.upd ?_; exact h2; unfold x2; refine DevHeld.step ?_ (Only.devHeld State.count_only); exact h1
  unfold x1; refine holds_foldl ?_ fun x3 a3_ h3 => ?_; exact h0
  refine DevHeld.step ?_ (Only.devHeld State.setLedger_only); exact h3; unfold x0
  refine DevHeld.step ?_ State.chargeEnergy_devHeld; exact .refl _

theorem State.writeUpdate_devHeld {a0 a1 a2 a3 a4 a5 a6 a7 a8 a9} :
    DevHeld a0 (State.writeUpdate a0 a1 a2 a3 a4 a5 a6 a7 a8 a9) := by
  unfold State.writeUpdate; extract_lets +onlyGivenNames x0; (try clear_value x0); extract_lets +onlyGivenNames x1
  (try clear_value x1); extract_lets +onlyGivenNames x2; (try clear_value x2); extract_lets +onlyGivenNames x3
  (try clear_value x3); extract_lets +onlyGivenNames x4; (try clear_value x4); extract_lets +onlyGivenNames x5
  (try clear_value x5); extract_lets +onlyGivenNames x6; refine (fun (h6 : DevHeld a0 x6) => ?_) ?_
  (try clear_value x6); extract_lets +onlyGivenNames x7; refine (fun (h7 : DevHeld a0 x7) => ?_) ?_
  (try clear_value x7); extract_lets +onlyGivenNames x8; (try clear_value x8); extract_lets +onlyGivenNames x9
  refine (fun (h9 : DevHeld a0 x9) => ?_) ?_; (try clear_value x9); refine DevHeld.step ?_ State.sendWcopy_devHeld
  exact h9; unfold x9; refine DevHeld.step ?_ (Only.devHeld State.count_only)
  refine DevHeld.step ?_ (Only.devHeld State.count_only); refine DevHeld.step ?_ (Only.devHeld State.count_only)
  exact h7; unfold x7; refine DevHeld.step ?_ (Only.devHeld State.addSeal_only)
  refine DevHeld.step ?_ (Only.devHeld State.setPending_only); exact h6; unfold x6
  refine holds_foldl ?_ fun x10 a10_ h10 => ?_; exact .refl _; refine DevHeld.step ?_ State.unitWrite_devHeld
  exact h10

theorem State.updateBlock_devHeld {a0 a1 a2 a3 a4 a5 a6 a7 a8 a9} :
    DevHeld a0 (State.updateBlock a0 a1 a2 a3 a4 a5 a6 a7 a8 a9) := by
  have ite' {r : State} {c : Prop} [Decidable c] {x y : StateRead} (hx : DevHeld r x.s) (hy : DevHeld r y.s) :
      DevHeld r (if c then x else y).s := by split <;> assumption
  unfold State.updateBlock
  extract_lets x0 x1 x2 x3 x4 x5 x6 x7 x8 x9 x10 x11 x12 x13 x14 x15
  have h5 : DevHeld a0 x5 := (DevHeld.step (.refl _) State.setHub_only.devHeld).step State.charge_devHeld
  have h6 : DevHeld a0 x6 := by
    unfold x6
    split
    · exact h5.step State.readStats_devHeld
    · exact h5
  have h8 : DevHeld a0 x8.s := StateRead.plane_devHeld (x := x6.startRead a1 a4 a5 a3) h6
  have h9 : DevHeld a0 x9.s := ite' h8 (StateRead.plane_devHeld (x := { x8 with bytes := [] }) h8)
  have h10 : DevHeld a0 x10.s := ite' h9 (StateRead.plane_devHeld (x := { x9 with bytes := [] }) h9)
  have h11 : DevHeld a0 x11 := DevHeld.step (StateRead.done_devHeld h10) State.count_only.devHeld
  have h15 : DevHeld a0 x15 :=
    holds_ite ((h11.step State.refuseBlock_devHeld).step State.sendWcopy_devHeld)
      (h11.step State.writeUpdate_devHeld)
  clear_value x15 x7 x14 x12
  split
  · exact h15.step State.factNext_devHeld
  · exact h15

theorem State.writeBlock_devHeld {a0 a1 a2 a3} :
    DevHeld a0 (State.writeBlock a0 a1 a2 a3) := by
  unfold State.writeBlock; extract_lets +onlyGivenNames x0; (try clear_value x0); extract_lets +onlyGivenNames x1
  refine (fun (h1 : DevHeld a0 x1) => ?_) ?_; (try clear_value x1); refine holds_ite ?_ ?_; exact h1
  refine DevHeld.step ?_ State.chargeBlock_devHeld; exact h1; unfold x1
  refine DevHeld.step ?_ State.chargeBlock_devHeld; refine DevHeld.step ?_ (Only.devHeld State.putServed_only)
  exact .refl _

theorem State.writeHbm_devHeld {a0 a1 a2 a3 a4 a5 a6} :
    DevHeld a0 (State.writeHbm a0 a1 a2 a3 a4 a5 a6) := by
  unfold State.writeHbm; extract_lets +onlyGivenNames x0; (try clear_value x0); extract_lets +onlyGivenNames x1
  (try clear_value x1); extract_lets +onlyGivenNames x2; (try clear_value x2); extract_lets +onlyGivenNames x3
  (try clear_value x3); extract_lets +onlyGivenNames x4; refine (fun (h4 : DevHeld a0 x4) => ?_) ?_
  (try clear_value x4); extract_lets +onlyGivenNames x5; refine (fun (h5 : DevHeld a0 x5) => ?_) ?_
  (try clear_value x5); extract_lets +onlyGivenNames x6; refine (fun (h6 : Fst (DevHeld a0) x6) => ?_) ?_
  (try clear_value x6); extract_lets +onlyGivenNames x7; refine (fun (h7 : DevHeld a0 x7) => ?_) ?_
  (try clear_value x7); refine DevHeld.step ?_ (Only.devHeld State.respond_only)
  refine DevHeld.step ?_ State.charge_devHeld; exact h7; unfold x7; refine holds_ite ?_ ?_; exact .refl _
  refine holds_ite ?_ ?_; refine DevHeld.step ?_ State.raise_devHeld; exact h6
  refine DevHeld.step ?_ State.staleWrite_devHeld; refine DevHeld.step ?_ (Only.devHeld State.putServed_only)
  exact h6; unfold x6; refine DevHeld.stepFst ?_ (Only.devHeld State.writeFails_only); exact h5; unfold x5
  refine DevHeld.step ?_ (Only.devHeld State.countHbm_only); exact h4; unfold x4; refine holds_ite ?_ ?_
  refine DevHeld.step ?_ (Only.devHeld State.countHbm_only); refine DevHeld.step ?_ (Only.devHeld State.countHbm_only)
  refine DevHeld.step ?_ (Only.devHeld State.countHbm_only); exact .refl _; exact .refl _

theorem State.writeWindow_devHeld {a0 a1 a2 a3} :
    DevHeld a0 (State.writeWindow a0 a1 a2 a3) := by
  unfold State.writeWindow; extract_lets +onlyGivenNames x0; (try clear_value x0); extract_lets +onlyGivenNames x1
  (try clear_value x1); refine holds_ite ?_ ?_; refine DevHeld.step ?_ (Only.devHeld State.respond_only)
  exact .refl _; refine holds_ite ?_ ?_; refine DevHeld.step ?_ (Only.devHeld State.refuseAccess_only)
  refine DevHeld.step ?_ (Only.devHeld State.countRefused_only); exact .refl _; refine holds_ite ?_ ?_
  refine DevHeld.step ?_ (Only.devHeld State.refuseAccess_only); exact .refl _
  refine DevHeld.step ?_ (Only.devHeld State.respond_only); refine holds_foldl ?_ fun x2 a2_ h2 => ?_; exact .refl _
  refine DevHeld.step ?_ State.writeReg_devHeld; exact h2

theorem execRoundBoundary_devHeld {a0} :
    Nxt (DevHeld a0) (execRoundBoundary a0) := by
  unfold execRoundBoundary; refine .ofNext ?_; refine State.on_devHeld ?_ ?_; exact .refl _; refine holds_ite ?_ ?_
  refine DevHeld.step ?_ State.roundAt_devHeld; exact .refl _; exact .refl _

theorem execPowerFrameUpdate_devHeld {a0 a1} :
    Nxt (DevHeld a1) (execPowerFrameUpdate a0 a1) := by
  unfold execPowerFrameUpdate; refine .ofNext ?_; refine State.on_devHeld ?_ ?_; exact .refl _; refine holds_ite ?_ ?_
  refine DevHeld.step ?_ State.powerFrame_devHeld; exact .refl _; exact .refl _

theorem execSyncPeriodBoundary_devHeld {a0} :
    Nxt (DevHeld a0) (execSyncPeriodBoundary a0) := by
  unfold execSyncPeriodBoundary; refine .ofNext ?_; refine State.on_devHeld ?_ ?_; exact .refl _
  refine holds_ite ?_ ?_; exact .refl _; extract_lets +onlyGivenNames x5; (try clear_value x5)
  extract_lets +onlyGivenNames x6; refine (fun (h6 : DevHeld a0 x6) => ?_) ?_; (try clear_value x6)
  extract_lets +onlyGivenNames x7; (try clear_value x7); extract_lets +onlyGivenNames x8
  refine (fun (h8 : DevHeld a0 x8) => ?_) ?_; (try clear_value x8); extract_lets +onlyGivenNames x9
  (try clear_value x9); extract_lets +onlyGivenNames x10; refine (fun (h10 : DevHeld a0 x10) => ?_) ?_
  (try clear_value x10); extract_lets +onlyGivenNames x11; (try clear_value x11); extract_lets +onlyGivenNames x12
  refine (fun (h12 : DevHeld a0 x12) => ?_) ?_; (try clear_value x12); refine holds_ite ?_ ?_
  refine DevHeld.step ?_ (Only.devHeld State.traceRec_only); exact h12; exact h12; unfold x12; refine holds_ite ?_ ?_
  refine holds_foldl ?_ fun x19 a19_ h19 => ?_; exact h10; refine DevHeld.step ?_ (Only.devHeld State.sendMark_only)
  exact h19; exact h10; unfold x10; refine holds_ite ?_ ?_; refine DevHeld.step ?_ (Only.devHeld State.emit_only)
  exact h8; exact h8; unfold x8; refine DevHeld.upd ?_; exact h6; unfold x6
  refine DevHeld.step ?_ State.applyK_devHeld; refine DevHeld.step ?_ (Only.devHeld State.advance_only); exact .refl _

theorem execBellsyncPulseCheck_devHeld {a0 a1} :
    Nxt (DevHeld a1) (execBellsyncPulseCheck a0 a1) := by
  unfold execBellsyncPulseCheck; extract_lets +onlyGivenNames x0; refine (fun (h0 : DevHeld a1 x0) => ?_) ?_
  (try clear_value x0); refine .ofNext ?_; refine State.on_devHeld ?_ ?_; exact h0; refine holds_ite ?_ ?_; exact h0
  refine DevHeld.step ?_ State.takePulse_devHeld; exact h0; unfold x0
  refine DevHeld.step ?_ (Only.devHeld State.advance_only); exact .refl _

theorem execTimeMarkReceive_devHeld {a0 a1 a2 a3 a4} :
    Nxt (DevHeld a4) (execTimeMarkReceive a0 a1 a2 a3 a4) := by
  unfold execTimeMarkReceive; extract_lets +onlyGivenNames x0; refine (fun (h0 : DevHeld a4 x0) => ?_) ?_
  (try clear_value x0); extract_lets +onlyGivenNames x1; (try clear_value x1); refine .ofNext ?_
  refine State.on_devHeld ?_ ?_; exact h0; refine holds_ite ?_ ?_; exact h0; extract_lets +onlyGivenNames x2
  refine (fun (h2 : DevHeld a4 x2) => ?_) ?_; (try clear_value x2); refine holds_ite ?_ ?_; exact h2
  extract_lets +onlyGivenNames x3; (try clear_value x3); extract_lets +onlyGivenNames x4
  refine (fun (h4 : DevHeld a4 x4) => ?_) ?_; (try clear_value x4); refine holds_ite ?_ ?_; exact h4
  extract_lets +onlyGivenNames x5; (try clear_value x5); refine DevHeld.step ?_ State.takePulse_devHeld; exact h4
  unfold x4; refine holds_ite ?_ ?_; refine DevHeld.upd ?_; exact h2; exact h2; unfold x2
  refine DevHeld.step ?_ (Only.devHeld State.count_only); exact h0; unfold x0
  refine DevHeld.step ?_ (Only.devHeld State.advance_only); exact .refl _

theorem execSyncWindowExpiry_devHeld {a0} :
    Nxt (DevHeld a0) (execSyncWindowExpiry a0) := by
  unfold execSyncWindowExpiry; refine .ofNext ?_; refine State.on_devHeld ?_ ?_; exact .refl _; refine holds_ite ?_ ?_
  exact .refl _; extract_lets +onlyGivenNames x5; (try clear_value x5); extract_lets +onlyGivenNames x6
  refine (fun (h6 : DevHeld a0 x6) => ?_) ?_; (try clear_value x6); extract_lets +onlyGivenNames x7
  (try clear_value x7); extract_lets +onlyGivenNames x8; (try clear_value x8); extract_lets +onlyGivenNames x9
  refine (fun (h9 : DevHeld a0 x9) => ?_) ?_; (try clear_value x9); extract_lets +onlyGivenNames x10
  refine (fun (h10 : DevHeld a0 x10) => ?_) ?_; (try clear_value x10); refine holds_ite ?_ ?_; exact h10
  extract_lets +onlyGivenNames x13; refine (fun (h13 : DevHeld a0 x13) => ?_) ?_; (try clear_value x13)
  refine holds_ite ?_ ?_; exact h13; refine DevHeld.step ?_ State.raise_devHeld; refine DevHeld.upd ?_; exact h13
  unfold x13; refine DevHeld.step ?_ State.raise_devHeld; exact h10; unfold x10
  refine DevHeld.step ?_ (Only.devHeld State.count_only); exact h9; unfold x9; refine DevHeld.upd ?_; exact h6
  unfold x6; refine DevHeld.step ?_ (Only.devHeld State.advance_only); exact .refl _

theorem execBellrefLoss_devHeld {a0 a1} :
    Nxt (DevHeld a1) (execBellrefLoss a0 a1) := by
  unfold execBellrefLoss; extract_lets +onlyGivenNames x0; refine (fun (h0 : DevHeld a1 x0) => ?_) ?_
  (try clear_value x0); refine .ofNext ?_; refine State.on_devHeld ?_ ?_; exact h0; refine holds_ite ?_ ?_; exact h0
  extract_lets +onlyGivenNames x1; (try clear_value x1); extract_lets +onlyGivenNames x2
  refine (fun (h2 : DevHeld a1 x2) => ?_) ?_; (try clear_value x2); refine DevHeld.step ?_ State.failSpanning_devHeld
  refine DevHeld.step ?_ State.raise_devHeld; exact h2; unfold x2; refine DevHeld.upd ?_; exact h0; unfold x0
  refine DevHeld.step ?_ (Only.devHeld State.advance_only); exact .refl _

theorem execAcquire_devHeld {a0 a1 a2} :
    Nxt (DevHeld a2) (execAcquire a0 a1 a2) := by
  unfold execAcquire; extract_lets +onlyGivenNames x0; refine (fun (h0 : DevHeld a2 x0) => ?_) ?_
  (try clear_value x0); refine .ofNext ?_; refine State.on_devHeld ?_ ?_; exact h0; refine holds_ite ?_ ?_; exact h0
  refine DevHeld.step ?_ State.acquire_devHeld; exact h0; unfold x0
  refine DevHeld.step ?_ (Only.devHeld State.advance_only); exact .refl _

theorem execStreamChunkArrival_devHeld {a0 a1 a2 a3 a4 a5 a6} :
    Nxt (DevHeld a6) (execStreamChunkArrival a0 a1 a2 a3 a4 a5 a6) := by
  unfold execStreamChunkArrival; extract_lets +onlyGivenNames x0; refine (fun (h0 : DevHeld a6 x0) => ?_) ?_
  (try clear_value x0); extract_lets +onlyGivenNames x1; (try clear_value x1); refine .ofNext ?_
  refine State.on_devHeld ?_ ?_; exact h0; split; exact h0; extract_lets +onlyGivenNames x2; (try clear_value x2)
  split; exact h0; extract_lets +onlyGivenNames x3; (try clear_value x3); extract_lets +onlyGivenNames x4
  (try clear_value x4); refine holds_ite ?_ ?_; exact h0; refine holds_ite ?_ ?_; refine holds_ite ?_ ?_
  refine DevHeld.step ?_ State.raise_devHeld; exact h0; refine DevHeld.step ?_ State.fetchAgain_devHeld; exact h0
  extract_lets +onlyGivenNames x5; refine (fun (h5 : DevHeld a6 x5) => ?_) ?_; (try clear_value x5)
  extract_lets +onlyGivenNames x6; (try clear_value x6); extract_lets +onlyGivenNames x7
  refine (fun (h7 : DevHeld a6 x7) => ?_) ?_; (try clear_value x7); refine DevHeld.step ?_ State.refill_devHeld
  refine DevHeld.step ?_ State.onStall_devHeld; exact h7; unfold x7
  refine DevHeld.step ?_ (Only.devHeld State.setJob_only); exact h5; unfold x5; refine holds_ite ?_ ?_
  refine DevHeld.step ?_ (Only.devHeld State.fillLines_only); exact h0; exact h0; unfold x0
  refine DevHeld.step ?_ (Only.devHeld State.advance_only); exact .refl _

theorem execLdw_devHeld {a0 a1 a2} :
    Nxt (DevHeld a2) (execLdw a0 a1 a2) := by
  unfold execLdw; refine .ofNext ?_; refine State.on_devHeld ?_ ?_; exact .refl _
  refine DevHeld.step ?_ State.issue_devHeld; exact .refl _

theorem execMma_devHeld {a0 a1 a2} :
    Nxt (DevHeld a2) (execMma a0 a1 a2) := by
  unfold execMma; refine .ofNext ?_; refine State.on_devHeld ?_ ?_; exact .refl _
  refine DevHeld.step ?_ State.issue_devHeld; exact .refl _

theorem execVop_devHeld {a0 a1 a2} :
    Nxt (DevHeld a2) (execVop a0 a1 a2) := by
  unfold execVop; refine .ofNext ?_; refine State.on_devHeld ?_ ?_; exact .refl _
  refine DevHeld.step ?_ State.issue_devHeld; exact .refl _

theorem execVred_devHeld {a0 a1 a2} :
    Nxt (DevHeld a2) (execVred a0 a1 a2) := by
  unfold execVred; refine .ofNext ?_; refine State.on_devHeld ?_ ?_; exact .refl _
  refine DevHeld.step ?_ State.issue_devHeld; exact .refl _

theorem execVnormStat_devHeld {a0 a1 a2} :
    Nxt (DevHeld a2) (execVnormStat a0 a1 a2) := by
  unfold execVnormStat; refine .ofNext ?_; refine State.on_devHeld ?_ ?_; exact .refl _
  refine DevHeld.step ?_ State.issue_devHeld; exact .refl _

theorem execVnormApply_devHeld {a0 a1 a2} :
    Nxt (DevHeld a2) (execVnormApply a0 a1 a2) := by
  unfold execVnormApply; refine .ofNext ?_; refine State.on_devHeld ?_ ?_; exact .refl _
  refine DevHeld.step ?_ State.issue_devHeld; exact .refl _

theorem execVsmaxStat_devHeld {a0 a1 a2} :
    Nxt (DevHeld a2) (execVsmaxStat a0 a1 a2) := by
  unfold execVsmaxStat; refine .ofNext ?_; refine State.on_devHeld ?_ ?_; exact .refl _
  refine DevHeld.step ?_ State.issue_devHeld; exact .refl _

theorem execVsmaxApply_devHeld {a0 a1 a2} :
    Nxt (DevHeld a2) (execVsmaxApply a0 a1 a2) := by
  unfold execVsmaxApply; refine .ofNext ?_; refine State.on_devHeld ?_ ?_; exact .refl _
  refine DevHeld.step ?_ State.issue_devHeld; exact .refl _

theorem execVsfn_devHeld {a0 a1 a2} :
    Nxt (DevHeld a2) (execVsfn a0 a1 a2) := by
  unfold execVsfn; refine .ofNext ?_; refine State.on_devHeld ?_ ?_; exact .refl _
  refine DevHeld.step ?_ State.issue_devHeld; exact .refl _

theorem execPack_devHeld {a0 a1 a2} :
    Nxt (DevHeld a2) (execPack a0 a1 a2) := by
  unfold execPack; refine .ofNext ?_; refine State.on_devHeld ?_ ?_; exact .refl _
  refine DevHeld.step ?_ State.issue_devHeld; exact .refl _

theorem execUnpack_devHeld {a0 a1 a2} :
    Nxt (DevHeld a2) (execUnpack a0 a1 a2) := by
  unfold execUnpack; refine .ofNext ?_; refine State.on_devHeld ?_ ?_; exact .refl _
  refine DevHeld.step ?_ State.issue_devHeld; exact .refl _

theorem execGroupidx_devHeld {a0 a1 a2} :
    Nxt (DevHeld a2) (execGroupidx a0 a1 a2) := by
  unfold execGroupidx; refine .ofNext ?_; refine State.on_devHeld ?_ ?_; exact .refl _
  refine DevHeld.step ?_ State.issue_devHeld; exact .refl _

theorem execGet_devHeld {a0 a1 a2} :
    Nxt (DevHeld a2) (execGet a0 a1 a2) := by
  unfold execGet; refine .ofNext ?_; refine State.on_devHeld ?_ ?_; exact .refl _
  refine DevHeld.step ?_ State.issue_devHeld; exact .refl _

theorem execPut_devHeld {a0 a1 a2} :
    Nxt (DevHeld a2) (execPut a0 a1 a2) := by
  unfold execPut; refine .ofNext ?_; refine State.on_devHeld ?_ ?_; exact .refl _
  refine DevHeld.step ?_ State.issue_devHeld; exact .refl _

theorem execGather_devHeld {a0 a1 a2} :
    Nxt (DevHeld a2) (execGather a0 a1 a2) := by
  unfold execGather; refine .ofNext ?_; refine State.on_devHeld ?_ ?_; exact .refl _
  refine DevHeld.step ?_ State.issue_devHeld; exact .refl _

theorem execAhead_devHeld {a0 a1 a2} :
    Nxt (DevHeld a2) (execAhead a0 a1 a2) := by
  unfold execAhead; refine .ofNext ?_; refine State.on_devHeld ?_ ?_; exact .refl _
  refine DevHeld.step ?_ State.issue_devHeld; exact .refl _

theorem execSend_devHeld {a0 a1 a2} :
    Nxt (DevHeld a2) (execSend a0 a1 a2) := by
  unfold execSend; refine .ofNext ?_; refine State.on_devHeld ?_ ?_; exact .refl _
  refine DevHeld.step ?_ State.issue_devHeld; exact .refl _

theorem execBulk_devHeld {a0 a1 a2} :
    Nxt (DevHeld a2) (execBulk a0 a1 a2) := by
  unfold execBulk; refine .ofNext ?_; refine State.on_devHeld ?_ ?_; exact .refl _
  refine DevHeld.step ?_ State.issue_devHeld; exact .refl _

theorem execGrant_devHeld {a0 a1 a2} :
    Nxt (DevHeld a2) (execGrant a0 a1 a2) := by
  unfold execGrant; refine .ofNext ?_; refine State.on_devHeld ?_ ?_; exact .refl _
  refine DevHeld.step ?_ State.issue_devHeld; exact .refl _

theorem execCheckcmp_devHeld {a0 a1 a2} :
    Nxt (DevHeld a2) (execCheckcmp a0 a1 a2) := by
  unfold execCheckcmp; refine .ofNext ?_; refine State.on_devHeld ?_ ?_; exact .refl _
  refine DevHeld.step ?_ State.issue_devHeld; exact .refl _

theorem execWaitw_devHeld {a0 a1 a2 a3} :
    Nxt (DevHeld a3) (execWaitw a0 a1 a2 a3) := by
  unfold execWaitw; refine .ofNext ?_; refine State.on_devHeld ?_ ?_; exact .refl _
  refine DevHeld.step ?_ State.issue_devHeld; exact .refl _

theorem execStepEnd_devHeld {a0 a1 a2 a3} :
    Nxt (DevHeld a3) (execStepEnd a0 a1 a2 a3) := by
  unfold execStepEnd; refine .ofNext ?_; refine State.on_devHeld ?_ ?_; exact .refl _
  refine DevHeld.step ?_ State.issue_devHeld; exact .refl _

theorem execWordCompletion_devHeld {a0 a1 a2} :
    Nxt (DevHeld a2) (execWordCompletion a0 a1 a2) := by
  unfold execWordCompletion; refine .ofNext ?_; refine State.on_devHeld ?_ ?_; exact .refl _; split; exact .refl _
  extract_lets +onlyGivenNames x5; refine (fun (h5 : DevHeld a2 x5) => ?_) ?_; (try clear_value x5)
  refine DevHeld.step ?_ State.onStall_devHeld; exact h5; unfold x5
  refine DevHeld.step ?_ (Only.devHeld State.advance_only); exact .refl _

theorem execHbmBlockArrival_devHeld {a0 a1 a2 a3 a4 a5} :
    Nxt (DevHeld a5) (execHbmBlockArrival a0 a1 a2 a3 a4 a5) := by
  unfold execHbmBlockArrival; extract_lets +onlyGivenNames x0; refine (fun (h0 : DevHeld a5 x0) => ?_) ?_
  (try clear_value x0); refine .ofNext ?_; refine State.on_devHeld ?_ ?_; exact h0; split; exact h0; split; exact h0
  refine holds_ite ?_ ?_; exact h0; refine DevHeld.step ?_ State.deliver_devHeld; exact h0; unfold x0
  refine State.on_devHeld ?_ ?_; exact .refl _; refine DevHeld.step ?_ State.touch_devHeld
  refine DevHeld.step ?_ (Only.devHeld State.advance_only); exact .refl _

theorem execPorterTransferComplete_devHeld {a0 a1 a2 a3} :
    Nxt (DevHeld a3) (execPorterTransferComplete a0 a1 a2 a3) := by
  unfold execPorterTransferComplete; extract_lets +onlyGivenNames x0; refine (fun (h0 : DevHeld a3 x0) => ?_) ?_
  (try clear_value x0); refine .ofNext ?_; refine State.on_devHeld ?_ ?_; exact h0; split; exact h0
  refine DevHeld.step ?_ State.onStall_devHeld; exact h0; unfold x0; refine State.on_devHeld ?_ ?_; exact .refl _
  refine DevHeld.step ?_ State.touch_devHeld; refine DevHeld.step ?_ (Only.devHeld State.advance_only); exact .refl _

theorem execHbmBlockWrite_devHeld {a0 a1 a2 a3 a4 a5} :
    Nxt (DevHeld a5) (execHbmBlockWrite a0 a1 a2 a3 a4 a5) := by
  unfold execHbmBlockWrite; extract_lets +onlyGivenNames x0; refine (fun (h0 : DevHeld a5 x0) => ?_) ?_
  (try clear_value x0); refine .ofNext ?_; refine State.on_devHeld ?_ ?_; exact h0; split; exact h0; split; exact h0
  extract_lets +onlyGivenNames x1; (try clear_value x1); refine holds_ite ?_ ?_; exact h0; refine holds_ite ?_ ?_
  extract_lets +onlyGivenNames x2; refine (fun (h2 : DevHeld a5 x2) => ?_) ?_; (try clear_value x2)
  refine DevHeld.step ?_ State.raise_devHeld; exact h2; unfold x2
  refine DevHeld.step ?_ (Only.devHeld State.dropTag_only)
  refine DevHeld.step ?_ (Only.devHeld State.writeFails_only); exact h0; extract_lets +onlyGivenNames x3
  refine (fun (h3 : DevHeld a5 x3) => ?_) ?_; (try clear_value x3); refine DevHeld.step ?_ State.onStall_devHeld
  exact h3; unfold x3; refine DevHeld.step ?_ State.writeBlock_devHeld
  refine DevHeld.step ?_ (Only.devHeld State.writeFails_only); exact h0; unfold x0; refine State.on_devHeld ?_ ?_
  exact .refl _; refine DevHeld.step ?_ State.touch_devHeld; refine DevHeld.step ?_ (Only.devHeld State.advance_only)
  exact .refl _

theorem execPorterTagTimeout_devHeld {a0 a1 a2} :
    Nxt (DevHeld a2) (execPorterTagTimeout a0 a1 a2) := by
  unfold execPorterTagTimeout; refine .ofNext ?_; refine State.on_devHeld ?_ ?_; exact .refl _; split; exact .refl _
  refine holds_ite ?_ ?_; exact .refl _; extract_lets +onlyGivenNames x0; (try clear_value x0)
  extract_lets +onlyGivenNames x1; refine (fun (h1 : DevHeld a2 x1) => ?_) ?_; (try clear_value x1)
  extract_lets +onlyGivenNames x2; (try clear_value x2); extract_lets +onlyGivenNames x3
  refine (fun (h3 : DevHeld a2 x3) => ?_) ?_; (try clear_value x3); refine holds_ite ?_ ?_; exact h3
  refine DevHeld.step ?_ State.strike_devHeld; exact h3; unfold x3; refine DevHeld.step ?_ State.raise_devHeld
  refine DevHeld.step ?_ (Only.devHeld State.dropTag_only); exact h1; unfold x1; refine State.on_devHeld ?_ ?_
  exact .refl _; refine DevHeld.step ?_ State.touch_devHeld; refine DevHeld.step ?_ (Only.devHeld State.advance_only)
  exact .refl _

theorem execPageFaultTagRelease_devHeld {a0 a1 a2 a3} :
    Nxt (DevHeld a3) (execPageFaultTagRelease a0 a1 a2 a3) := by
  unfold execPageFaultTagRelease; extract_lets +onlyGivenNames x0; refine (fun (h0 : DevHeld a3 x0) => ?_) ?_
  (try clear_value x0); refine .ofNext ?_; refine State.on_devHeld ?_ ?_; exact h0; split; exact h0
  refine holds_ite ?_ ?_; refine DevHeld.step ?_ (Only.devHeld State.dropTag_only); exact h0; exact h0; unfold x0
  refine State.on_devHeld ?_ ?_; exact .refl _; refine DevHeld.step ?_ State.touch_devHeld
  refine DevHeld.step ?_ (Only.devHeld State.advance_only); exact .refl _

theorem execPorterStarveTimer_devHeld {a0 a1 a2 a3} :
    Nxt (DevHeld a3) (execPorterStarveTimer a0 a1 a2 a3) := by
  unfold execPorterStarveTimer; refine .ofNext ?_; refine State.on_devHeld ?_ ?_; exact .refl _
  refine DevHeld.step ?_ State.onStall_devHeld; refine DevHeld.step ?_ (Only.devHeld State.advance_only)
  exact .refl _

theorem execAheadBlockArrival_devHeld {a0 a1 a2 a3 a4} :
    Nxt (DevHeld a4) (execAheadBlockArrival a0 a1 a2 a3 a4) := by
  unfold execAheadBlockArrival; extract_lets +onlyGivenNames x0; refine (fun (h0 : DevHeld a4 x0) => ?_) ?_
  (try clear_value x0); refine .ofNext ?_; refine State.on_devHeld ?_ ?_; exact h0; split; exact h0
  extract_lets +onlyGivenNames x1; (try clear_value x1); extract_lets +onlyGivenNames x2; (try clear_value x2)
  extract_lets +onlyGivenNames x3; (try clear_value x3); extract_lets +onlyGivenNames x4
  refine (fun (h4 : DevHeld a4 x4) => ?_) ?_; (try clear_value x4)
  refine DevHeld.step ?_ (Only.devHeld State.aheadEvict_only)
  refine DevHeld.step ?_ (Only.devHeld State.countHbm_only); refine holds_foldl ?_ fun x5 a5_ h5 => ?_; exact h4
  refine DevHeld.step ?_ State.chargeBlock_devHeld; refine DevHeld.step ?_ (Only.devHeld State.countRead_only)
  exact h5; unfold x4; refine DevHeld.step ?_ (Only.devHeld State.setHub_only); exact h0; unfold x0
  refine DevHeld.step ?_ (Only.devHeld State.advance_only); exact .refl _

theorem execStealerPortGrant_devHeld {a0 a1 a2 a3} :
    Nxt (DevHeld a3) (execStealerPortGrant a0 a1 a2 a3) := by
  unfold execStealerPortGrant; refine .ofNext ?_; refine State.on_devHeld ?_ ?_; exact .refl _
  refine DevHeld.step ?_ State.beginIndexed_devHeld; refine DevHeld.step ?_ State.onStall_devHeld
  refine DevHeld.step ?_ (Only.devHeld State.advance_only); exact .refl _

theorem execScrubComplete_devHeld {a0 a1 a2 a3} :
    Nxt (DevHeld a3) (execScrubComplete a0 a1 a2 a3) := by
  unfold execScrubComplete; refine .ofNext ?_; refine State.on_devHeld ?_ ?_; exact .refl _
  refine DevHeld.step ?_ State.onStall_devHeld; refine DevHeld.step ?_ (Only.devHeld State.advance_only)
  exact .refl _

theorem execBankWakeComplete_devHeld {a0 a1 a2 a3} :
    Nxt (DevHeld a3) (execBankWakeComplete a0 a1 a2 a3) := by
  unfold execBankWakeComplete; refine .ofNext ?_; refine State.on_devHeld ?_ ?_; exact .refl _
  refine DevHeld.step ?_ State.onStall_devHeld; refine DevHeld.step ?_ (Only.devHeld State.advance_only)
  exact .refl _

theorem execStoreTestRegion_devHeld {a0 a1 a2 a3 a4 a5} :
    Nxt (DevHeld a5) (execStoreTestRegion a0 a1 a2 a3 a4 a5) := by
  unfold execStoreTestRegion; refine .ofNext ?_; refine State.on_devHeld ?_ ?_; exact .refl _
  refine DevHeld.step ?_ State.onStall_devHeld; refine DevHeld.step ?_ (Only.devHeld State.advance_only)
  exact .refl _

theorem execMsgFlit0Arrival_devHeld {a0 a1 a2 a3} :
    Nxt (DevHeld a3) (execMsgFlit0Arrival a0 a1 a2 a3) := by
  unfold execMsgFlit0Arrival; refine .ofNext ?_; refine State.on_devHeld ?_ ?_; exact .refl _
  refine DevHeld.step ?_ State.onStall_devHeld; refine DevHeld.step ?_ (Only.devHeld State.advance_only)
  exact .refl _

theorem execMsgLastFlitArrival_devHeld {a0 a1 a2 a3 a4 a5 a6} :
    Nxt (DevHeld a6) (execMsgLastFlitArrival a0 a1 a2 a3 a4 a5 a6) := by
  unfold execMsgLastFlitArrival; refine .ofNext ?_; refine State.on_devHeld ?_ ?_; exact .refl _
  refine DevHeld.step ?_ State.onStall_devHeld; refine DevHeld.step ?_ (Only.devHeld State.advance_only)
  exact .refl _

theorem execMsgTruncationTimeout_devHeld {a0 a1 a2 a3 a4} :
    Nxt (DevHeld a4) (execMsgTruncationTimeout a0 a1 a2 a3 a4) := by
  unfold execMsgTruncationTimeout; refine .ofNext ?_; refine State.on_devHeld ?_ ?_; exact .refl _
  refine DevHeld.step ?_ State.onStall_devHeld; refine DevHeld.step ?_ (Only.devHeld State.advance_only)
  exact .refl _

theorem execBridgeNakReceive_devHeld {a0 a1 a2 a3} :
    Nxt (DevHeld a3) (execBridgeNakReceive a0 a1 a2 a3) := by
  unfold execBridgeNakReceive; extract_lets +onlyGivenNames x0; refine (fun (h0 : DevHeld a3 x0) => ?_) ?_
  (try clear_value x0); extract_lets +onlyGivenNames x1; (try clear_value x1); refine .ofNext ?_
  refine State.on_devHeld ?_ ?_; exact h0; refine holds_ite ?_ ?_; exact h0; extract_lets +onlyGivenNames x2
  (try clear_value x2); extract_lets +onlyGivenNames x3; (try clear_value x3); extract_lets +onlyGivenNames x4
  refine (fun (h4 : DevHeld a3 x4) => ?_) ?_; (try clear_value x4); refine holds_ite ?_ ?_; exact h4
  refine DevHeld.step ?_ State.channelDown_devHeld; exact h4; unfold x4
  refine DevHeld.step ?_ (Only.devHeld State.occupy_only); refine DevHeld.step ?_ (Only.devHeld State.setChan_only)
  exact h0; unfold x0; refine DevHeld.step ?_ (Only.devHeld State.advance_only); exact .refl _

theorem execArbCycleDecision_devHeld {a0 a1 a2 a3 a4 a5 a6} :
    Nxt (DevHeld a6) (execArbCycleDecision a0 a1 a2 a3 a4 a5 a6) := by
  unfold execArbCycleDecision; extract_lets +onlyGivenNames x0; refine (fun (h0 : DevHeld a6 x0) => ?_) ?_
  (try clear_value x0); extract_lets +onlyGivenNames x1; (try clear_value x1); extract_lets +onlyGivenNames x2
  (try clear_value x2); extract_lets +onlyGivenNames x3; (try clear_value x3); refine .ofNext ?_
  refine State.on_devHeld ?_ ?_; exact h0; refine holds_ite ?_ ?_; exact h0; refine holds_ite ?_ ?_
  extract_lets +onlyGivenNames x4; (try clear_value x4); extract_lets +onlyGivenNames x5; (try clear_value x5)
  refine DevHeld.step ?_ State.lockCut_devHeld; refine DevHeld.step ?_ (Only.devHeld State.count_only)
  refine DevHeld.upd ?_; exact h0; extract_lets +onlyGivenNames x6; refine (fun (h6 : Fst (DevHeld a6) x6) => ?_) ?_
  (try clear_value x6); extract_lets +onlyGivenNames x7; (try clear_value x7); extract_lets +onlyGivenNames x8
  (try clear_value x8); extract_lets +onlyGivenNames x9; (try clear_value x9); extract_lets +onlyGivenNames x10
  refine (fun (h10 : DevHeld a6 x10) => ?_) ?_; (try clear_value x10); extract_lets +onlyGivenNames x11
  refine (fun (h11 : DevHeld a6 x11) => ?_) ?_; (try clear_value x11); extract_lets +onlyGivenNames x12
  refine (fun (h12 : DevHeld a6 x12) => ?_) ?_; (try clear_value x12); extract_lets +onlyGivenNames x13
  refine (fun (h13 : DevHeld a6 x13) => ?_) ?_; (try clear_value x13); split
  refine DevHeld.step ?_ State.revoked_devHeld; exact h13; exact h13; unfold x13
  refine DevHeld.step ?_ State.lockCut_devHeld; exact h12; unfold x12; refine holds_foldl ?_ fun x14 a14_ h14 => ?_
  exact h11; refine holds_ite ?_ ?_; exact h14; refine DevHeld.step ?_ (Only.devHeld State.count_only); exact h14
  unfold x11; refine DevHeld.upd ?_; exact h10; exact h6; unfold x6; refine DevHeld.stepFst ?_ State.arbBeat_devHeld
  exact h0; unfold x0; refine DevHeld.step ?_ (Only.devHeld State.advance_only); exact .refl _

theorem execStepCtrlGo_devHeld {a0 a1 a2 a3} :
    Nxt (DevHeld a3) (execStepCtrlGo a0 a1 a2 a3) := by
  unfold execStepCtrlGo; extract_lets +onlyGivenNames x0; refine (fun (h0 : DevHeld a3 x0) => ?_) ?_
  (try clear_value x0); refine .ofNext ?_; refine State.on_devHeld ?_ ?_; exact h0
  refine DevHeld.step ?_ State.writeReg_devHeld; exact h0; unfold x0
  refine DevHeld.step ?_ (Only.devHeld State.advance_only); exact .refl _

theorem execStepCtrlAbort_devHeld {a0 a1 a2 a3} :
    Nxt (DevHeld a3) (execStepCtrlAbort a0 a1 a2 a3) := by
  unfold execStepCtrlAbort; extract_lets +onlyGivenNames x0; refine (fun (h0 : DevHeld a3 x0) => ?_) ?_
  (try clear_value x0); refine .ofNext ?_; refine State.on_devHeld ?_ ?_; exact h0
  refine DevHeld.step ?_ State.writeReg_devHeld; exact h0; unfold x0
  refine DevHeld.step ?_ (Only.devHeld State.advance_only); exact .refl _

theorem execStepDrainEnd_devHeld {a0 a1 a2 a3} :
    Nxt (DevHeld a3) (execStepDrainEnd a0 a1 a2 a3) := by
  unfold execStepDrainEnd; extract_lets +onlyGivenNames x0; refine (fun (h0 : DevHeld a3 x0) => ?_) ?_
  (try clear_value x0); refine .ofNext ?_; refine State.on_devHeld ?_ ?_; exact h0
  refine DevHeld.step ?_ (Only.devHeld State.noteQuiet_only); refine DevHeld.step ?_ State.onStall_devHeld; exact h0
  unfold x0; refine DevHeld.step ?_ (Only.devHeld State.advance_only); exact .refl _

theorem execRingPtrWrite_devHeld {a0 a1 a2 a3 a4} :
    Nxt (DevHeld a4) (execRingPtrWrite a0 a1 a2 a3 a4) := by
  unfold execRingPtrWrite; extract_lets +onlyGivenNames x0; refine (fun (h0 : DevHeld a4 x0) => ?_) ?_
  (try clear_value x0); refine .ofNext ?_; refine State.on_devHeld ?_ ?_; exact h0
  refine DevHeld.step ?_ State.writeReg_devHeld; exact h0; unfold x0
  refine DevHeld.step ?_ (Only.devHeld State.advance_only); exact .refl _

theorem execCheckValWrite_devHeld {a0 a1 a2 a3} :
    Nxt (DevHeld a3) (execCheckValWrite a0 a1 a2 a3) := by
  unfold execCheckValWrite; extract_lets +onlyGivenNames x0; refine (fun (h0 : DevHeld a3 x0) => ?_) ?_
  (try clear_value x0); refine .ofNext ?_; refine State.on_devHeld ?_ ?_; exact h0
  refine DevHeld.step ?_ State.writeReg_devHeld; exact h0; unfold x0
  refine DevHeld.step ?_ (Only.devHeld State.advance_only); exact .refl _

theorem execRerunArm_devHeld {a0 a1 a2 a3} :
    Nxt (DevHeld a3) (execRerunArm a0 a1 a2 a3) := by
  unfold execRerunArm; extract_lets +onlyGivenNames x0; refine (fun (h0 : DevHeld a3 x0) => ?_) ?_
  (try clear_value x0); refine .ofNext ?_; refine State.on_devHeld ?_ ?_; exact h0
  refine DevHeld.step ?_ State.writeReg_devHeld; exact h0; unfold x0
  refine DevHeld.step ?_ (Only.devHeld State.advance_only); exact .refl _

theorem execXlateInval_devHeld {a0 a1 a2 a3} :
    Nxt (DevHeld a3) (execXlateInval a0 a1 a2 a3) := by
  unfold execXlateInval; extract_lets +onlyGivenNames x0; refine (fun (h0 : DevHeld a3 x0) => ?_) ?_
  (try clear_value x0); refine .ofNext ?_; refine State.on_devHeld ?_ ?_; exact h0
  refine DevHeld.step ?_ State.writeReg_devHeld; exact h0; unfold x0
  refine DevHeld.step ?_ (Only.devHeld State.advance_only); exact .refl _

theorem execCommit_devHeld {a0 a1 a2 a3 a4} :
    Nxt (DevHeld a4) (execCommit a0 a1 a2 a3 a4) := by
  unfold execCommit; extract_lets +onlyGivenNames x0; refine (fun (h0 : DevHeld a4 x0) => ?_) ?_; (try clear_value x0)
  refine .ofNext ?_; refine State.on_devHeld ?_ ?_; exact h0; refine DevHeld.step ?_ State.writeReg_devHeld; exact h0
  unfold x0; refine DevHeld.step ?_ (Only.devHeld State.advance_only); exact .refl _

theorem execLedgerSnap_devHeld {a0 a1 a2 a3} :
    Nxt (DevHeld a3) (execLedgerSnap a0 a1 a2 a3) := by
  unfold execLedgerSnap; extract_lets +onlyGivenNames x0; refine (fun (h0 : DevHeld a3 x0) => ?_) ?_
  (try clear_value x0); refine .ofNext ?_; refine State.on_devHeld ?_ ?_; exact h0
  refine DevHeld.step ?_ State.writeReg_devHeld; exact h0; unfold x0
  refine DevHeld.step ?_ (Only.devHeld State.advance_only); exact .refl _

theorem execLedgerRelease_devHeld {a0 a1 a2 a3} :
    Nxt (DevHeld a3) (execLedgerRelease a0 a1 a2 a3) := by
  unfold execLedgerRelease; extract_lets +onlyGivenNames x0; refine (fun (h0 : DevHeld a3 x0) => ?_) ?_
  (try clear_value x0); refine .ofNext ?_; refine State.on_devHeld ?_ ?_; exact h0
  refine DevHeld.step ?_ State.writeReg_devHeld; exact h0; unfold x0
  refine DevHeld.step ?_ (Only.devHeld State.advance_only); exact .refl _

theorem execAisleRetrain_devHeld {a0 a1 a2 a3} :
    Nxt (DevHeld a3) (execAisleRetrain a0 a1 a2 a3) := by
  unfold execAisleRetrain; extract_lets +onlyGivenNames x0; refine (fun (h0 : DevHeld a3 x0) => ?_) ?_
  (try clear_value x0); refine .ofNext ?_; refine State.on_devHeld ?_ ?_; exact h0
  refine DevHeld.step ?_ State.writeReg_devHeld; exact h0; unfold x0
  refine DevHeld.step ?_ (Only.devHeld State.advance_only); exact .refl _

theorem execBootGo_devHeld {a0 a1 a2 a3} :
    Nxt (DevHeld a3) (execBootGo a0 a1 a2 a3) := by
  unfold execBootGo; extract_lets +onlyGivenNames x0; refine (fun (h0 : DevHeld a3 x0) => ?_) ?_; (try clear_value x0)
  refine .ofNext ?_; refine State.on_devHeld ?_ ?_; exact h0; refine DevHeld.step ?_ State.writeReg_devHeld; exact h0
  unfold x0; refine DevHeld.step ?_ (Only.devHeld State.advance_only); exact .refl _

theorem execRingCtrlEnable_devHeld {a0 a1 a2 a3} :
    Nxt (DevHeld a3) (execRingCtrlEnable a0 a1 a2 a3) := by
  unfold execRingCtrlEnable; extract_lets +onlyGivenNames x0; refine (fun (h0 : DevHeld a3 x0) => ?_) ?_
  (try clear_value x0); refine .ofNext ?_; refine State.on_devHeld ?_ ?_; exact h0
  refine DevHeld.step ?_ State.writeReg_devHeld; exact h0; unfold x0
  refine DevHeld.step ?_ (Only.devHeld State.advance_only); exact .refl _

theorem execRegisterWrite_devHeld {a0 a1 a2 a3 a4} :
    Nxt (DevHeld a4) (execRegisterWrite a0 a1 a2 a3 a4) := by
  unfold execRegisterWrite; extract_lets +onlyGivenNames x0; refine (fun (h0 : DevHeld a4 x0) => ?_) ?_
  (try clear_value x0); refine .ofNext ?_; refine State.on_devHeld ?_ ?_; exact h0
  refine DevHeld.step ?_ State.writeReg_devHeld; exact h0; unfold x0
  refine DevHeld.step ?_ (Only.devHeld State.advance_only); exact .refl _

theorem execLowWordRead_devHeld {a0 a1 a2 a3} :
    Nxt (DevHeld a3) (execLowWordRead a0 a1 a2 a3) := by
  unfold execLowWordRead; refine .ofNext ?_; refine State.on_devHeld ?_ ?_; exact .refl _
  refine DevHeld.step ?_ State.answerRead_devHeld; refine DevHeld.step ?_ (Only.devHeld State.advance_only)
  exact .refl _

theorem execRcFieldRead_devHeld {a0 a1 a2 a3} :
    Nxt (DevHeld a3) (execRcFieldRead a0 a1 a2 a3) := by
  unfold execRcFieldRead; refine .ofNext ?_; refine State.on_devHeld ?_ ?_; exact .refl _
  refine DevHeld.step ?_ State.answerRead_devHeld; refine DevHeld.step ?_ (Only.devHeld State.advance_only)
  exact .refl _

theorem execGradientFrameArrival_devHeld {a0 a1 a2 a3 a4} :
    Nxt (DevHeld a4) (execGradientFrameArrival a0 a1 a2 a3 a4) := by
  unfold execGradientFrameArrival; extract_lets +onlyGivenNames x0; refine (fun (h0 : DevHeld a4 x0) => ?_) ?_
  (try clear_value x0); refine .ofNext ?_; refine State.on_devHeld ?_ ?_; exact h0; split; exact h0; split; exact h0
  refine holds_ite ?_ ?_; exact h0; extract_lets +onlyGivenNames x1; (try clear_value x1)
  extract_lets +onlyGivenNames x2; (try clear_value x2); extract_lets +onlyGivenNames x3; (try clear_value x3); split
  refine DevHeld.step ?_ State.ackFrame_devHeld; refine DevHeld.step ?_ State.orphan_devHeld; exact h0
  refine holds_ite ?_ ?_; exact h0; refine DevHeld.step ?_ State.ackFrame_devHeld
  refine DevHeld.step ?_ State.takeFrame_devHeld; exact h0; unfold x0; refine State.on_devHeld ?_ ?_; exact .refl _
  refine DevHeld.step ?_ State.touch_devHeld; refine DevHeld.step ?_ (Only.devHeld State.advance_only); exact .refl _

theorem execTensorBlockUpdate_devHeld {a0 a1 a2 a3 a4} :
    Nxt (DevHeld a4) (execTensorBlockUpdate a0 a1 a2 a3 a4) := by
  unfold execTensorBlockUpdate; extract_lets +onlyGivenNames x0; refine (fun (h0 : DevHeld a4 x0) => ?_) ?_
  (try clear_value x0); refine .ofNext ?_; refine State.on_devHeld ?_ ?_; exact h0; split; exact h0
  extract_lets +onlyGivenNames x1; (try clear_value x1); extract_lets +onlyGivenNames x2; (try clear_value x2)
  extract_lets +onlyGivenNames x3; (try clear_value x3); extract_lets +onlyGivenNames x4; (try clear_value x4)
  refine holds_ite ?_ ?_; exact h0; split; exact h0; refine DevHeld.step ?_ State.updateBlock_devHeld; exact h0
  unfold x0; refine DevHeld.step ?_ (Only.devHeld State.advance_only); exact .refl _

theorem execWcopyMessageReceive_devHeld {a0 a1 a2} :
    Nxt (DevHeld a2) (execWcopyMessageReceive a0 a1 a2) := by
  unfold execWcopyMessageReceive; extract_lets +onlyGivenNames x0; refine (fun (h0 : DevHeld a2 x0) => ?_) ?_
  (try clear_value x0); refine .ofNext ?_; refine State.on_devHeld ?_ ?_; exact h0; split; exact h0
  extract_lets +onlyGivenNames x1; (try clear_value x1); extract_lets +onlyGivenNames x2; (try clear_value x2); split
  refine DevHeld.step ?_ (Only.devHeld State.oweMail_only)
  refine DevHeld.step ?_ (Only.devHeld (State.takeLocal_only _ (by assumption))); exact h0; split
  refine DevHeld.step ?_ (Only.devHeld State.oweMail_only)
  refine DevHeld.step ?_ (Only.devHeld (State.takeLocal_only _ (by assumption))); exact h0
  extract_lets +onlyGivenNames x3; (try clear_value x3); extract_lets +onlyGivenNames x4; (try clear_value x4)
  refine holds_ite ?_ ?_; refine DevHeld.step ?_ (Only.devHeld State.oweMail_only)
  refine DevHeld.step ?_ (Only.devHeld (State.takeLocal_only _ (by assumption))); exact h0; refine holds_ite ?_ ?_
  exact h0; extract_lets +onlyGivenNames x5; (try clear_value x5); extract_lets +onlyGivenNames x6
  refine (fun (h6 : DevHeld a2 x6) => ?_) ?_; (try clear_value x6)
  refine DevHeld.step ?_ (Only.devHeld State.oweMail_only); exact h6; unfold x6
  refine holds_foldl ?_ fun x7 a7_ h7 => ?_
  refine DevHeld.step ?_ (Only.devHeld (State.takeLocal_only _ (by assumption))); exact h0
  refine DevHeld.step ?_ State.takeWcopy_devHeld; exact h7; unfold x0
  refine DevHeld.step ?_ (Only.devHeld State.advance_only); exact .refl _

theorem execStepClose_devHeld {a0 a1 a2} :
    Nxt (DevHeld a2) (execStepClose a0 a1 a2) := by
  unfold execStepClose; extract_lets +onlyGivenNames x0; refine (fun (h0 : DevHeld a2 x0) => ?_) ?_
  (try clear_value x0); refine .ofNext ?_; refine State.on_devHeld ?_ ?_; exact h0; split; exact h0; split; exact h0
  refine holds_ite ?_ ?_; exact h0; refine DevHeld.step ?_ State.closeStep_devHeld; exact h0; unfold x0
  refine DevHeld.step ?_ (Only.devHeld State.advance_only); exact .refl _

theorem execFlagWordSend_devHeld {a0 a1} :
    Nxt (DevHeld a1) (execFlagWordSend a0 a1) := by
  unfold execFlagWordSend; refine .ofNext ?_; refine State.onClerk_devHeld ?_ ?_; exact .refl _; split; exact .refl _
  split; exact .refl _; extract_lets +onlyGivenNames x0; (try clear_value x0); extract_lets +onlyGivenNames x1
  (try clear_value x1); extract_lets +onlyGivenNames x2; refine (fun (h2 : DevHeld a1 x2) => ?_) ?_
  (try clear_value x2); extract_lets +onlyGivenNames x3; refine (fun (h3 : DevHeld a1 x3) => ?_) ?_
  (try clear_value x3); refine holds_foldl ?_ fun x4 a4_ h4 => ?_; exact h3
  refine DevHeld.step ?_ (Only.devHeld State.sendClerk_only); exact h4; unfold x3
  refine DevHeld.step ?_ (Only.devHeld State.setJob_only); exact h2; unfold x2
  refine DevHeld.step ?_ (Only.devHeld State.advance_only); exact .refl _

theorem execFlagWordReceive_devHeld {a0 a1 a2} :
    Nxt (DevHeld a2) (execFlagWordReceive a0 a1 a2) := by
  unfold execFlagWordReceive; extract_lets +onlyGivenNames x0; refine (fun (h0 : DevHeld a2 x0) => ?_) ?_
  (try clear_value x0); refine .ofNext ?_; refine State.onClerk_devHeld ?_ ?_; exact h0; split; exact h0
  extract_lets +onlyGivenNames x6; (try clear_value x6); split
  refine DevHeld.step ?_ (Only.devHeld (State.takeLocal_only _ (by assumption))); exact h0; split
  refine DevHeld.step ?_ (Only.devHeld (State.takeLocal_only _ (by assumption))); exact h0
  extract_lets +onlyGivenNames x13; (try clear_value x13); extract_lets +onlyGivenNames x14; (try clear_value x14)
  refine DevHeld.step ?_ State.chooseGuard_devHeld; refine DevHeld.step ?_ (Only.devHeld State.setJob_only)
  refine DevHeld.step ?_ (Only.devHeld (State.takeLocal_only _ (by assumption))); exact h0; unfold x0
  refine DevHeld.step ?_ (Only.devHeld State.advance_only); exact .refl _

theorem execGuardArm_devHeld {a0 a1 a2 a3} :
    Nxt (DevHeld a3) (execGuardArm a0 a1 a2 a3) := by
  unfold execGuardArm; extract_lets +onlyGivenNames x0; refine (fun (h0 : DevHeld a3 x0) => ?_) ?_
  (try clear_value x0); refine .ofNext ?_; refine State.onClerk_devHeld ?_ ?_; exact h0; split; exact h0; split
  exact h0; split; exact h0; refine holds_ite ?_ ?_; exact h0; extract_lets +onlyGivenNames x12; (try clear_value x12)
  refine holds_ite ?_ ?_; refine DevHeld.step ?_ State.postponeGuard_devHeld; exact h0
  extract_lets +onlyGivenNames x16; refine (fun (h16 : DevHeld a3 x16) => ?_) ?_; (try clear_value x16)
  refine holds_ite ?_ ?_; exact h16; refine DevHeld.step ?_ State.armStep_devHeld; exact h16; unfold x16
  refine holds_ite ?_ ?_; exact h0; refine DevHeld.step ?_ State.postponeGuard_devHeld; exact h0; unfold x0
  refine DevHeld.step ?_ (Only.devHeld State.advance_only); exact .refl _

theorem execAisleFlitReceive_devHeld {a0 a1 a2 a3} :
    Nxt (DevHeld a3) (execAisleFlitReceive a0 a1 a2 a3) := by
  unfold execAisleFlitReceive; extract_lets +onlyGivenNames x0; refine (fun (h0 : DevHeld a3 x0) => ?_) ?_
  (try clear_value x0); extract_lets +onlyGivenNames x1; (try clear_value x1); refine .ofNext ?_
  refine State.on_devHeld ?_ ?_; exact h0; refine holds_ite ?_ ?_; refine holds_ite ?_ ?_; exact h0
  refine holds_ite ?_ ?_; refine DevHeld.step ?_ (Only.devHeld State.setAisle_only); exact h0
  refine DevHeld.step ?_ (Only.devHeld State.count_only); exact h0; refine holds_ite ?_ ?_
  refine DevHeld.step ?_ (Only.devHeld State.nakAisle_only); refine DevHeld.step ?_ (Only.devHeld State.count_only)
  exact h0; extract_lets +onlyGivenNames x2; (try clear_value x2); extract_lets +onlyGivenNames x3
  refine (fun (h3 : DevHeld a3 x3) => ?_) ?_; (try clear_value x3); extract_lets +onlyGivenNames x4
  refine (fun (h4 : DevHeld a3 x4) => ?_) ?_; (try clear_value x4); extract_lets +onlyGivenNames x5
  refine (fun (h5 : DevHeld a3 x5) => ?_) ?_; (try clear_value x5); extract_lets +onlyGivenNames x6
  refine (fun (h6 : DevHeld a3 x6) => ?_) ?_; (try clear_value x6)
  refine DevHeld.step ?_ (Only.devHeld State.reserveAisle_only); exact h6; unfold x6; refine holds_ite ?_ ?_; exact h4
  refine holds_ite ?_ ?_; refine DevHeld.step ?_ (Only.devHeld State.count_only)
  refine DevHeld.step ?_ (Only.devHeld State.setAisle_only); exact h5
  refine DevHeld.step ?_ (Only.devHeld State.nakAisle_only); exact h4; unfold x5
  refine DevHeld.step ?_ State.endPart_devHeld; exact h4; unfold x4; refine holds_ite ?_ ?_
  refine DevHeld.step ?_ State.replayPort_devHeld; exact h3; exact h3; unfold x3
  refine DevHeld.step ?_ (Only.devHeld State.setAisle_only); exact h0; unfold x0
  refine DevHeld.step ?_ (Only.devHeld State.advance_only); exact .refl _

theorem execAisleMessageReceive_devHeld {a0 a1 a2} :
    Nxt (DevHeld a2) (execAisleMessageReceive a0 a1 a2) := by
  unfold execAisleMessageReceive; extract_lets +onlyGivenNames x0; refine (fun (h0 : DevHeld a2 x0) => ?_) ?_
  (try clear_value x0); extract_lets +onlyGivenNames x1; (try clear_value x1); refine .ofNext ?_
  refine State.on_devHeld ?_ ?_; exact h0; split; exact h0; extract_lets +onlyGivenNames x2
  refine (fun (h2 : DevHeld a2 x2) => ?_) ?_; (try clear_value x2); extract_lets +onlyGivenNames x3
  refine (fun (h3 : DevHeld a2 x3) => ?_) ?_; (try clear_value x3); refine holds_ite ?_ ?_; exact h2
  refine holds_ite ?_ ?_; refine DevHeld.step ?_ (Only.devHeld State.count_only)
  refine DevHeld.step ?_ (Only.devHeld State.oweMail_only); exact h3; refine holds_ite ?_ ?_
  refine DevHeld.step ?_ State.deliverMail_devHeld; exact h3
  refine DevHeld.step ?_ (Only.devHeld State.relayMail_only); exact h3; unfold x3
  refine DevHeld.step ?_ (Only.devHeld State.setAisle_only); exact h0; exact h0; unfold x0
  refine DevHeld.step ?_ (Only.devHeld State.advance_only); exact .refl _

theorem execAisleAckTimeout_devHeld {a0 a1 a2} :
    Nxt (DevHeld a2) (execAisleAckTimeout a0 a1 a2) := by
  unfold execAisleAckTimeout; extract_lets +onlyGivenNames x0; refine (fun (h0 : DevHeld a2 x0) => ?_) ?_
  (try clear_value x0); extract_lets +onlyGivenNames x1; (try clear_value x1); refine .ofNext ?_
  refine State.on_devHeld ?_ ?_; exact h0; refine holds_ite ?_ ?_; refine DevHeld.step ?_ State.replayPort_devHeld
  refine DevHeld.step ?_ (Only.devHeld State.setAisle_only); exact h0; exact h0; unfold x0
  refine DevHeld.step ?_ (Only.devHeld State.advance_only); exact .refl _

theorem execAisleLaneLockLoss_devHeld {a0 a1 a2 a3} :
    Nxt (DevHeld a3) (execAisleLaneLockLoss a0 a1 a2 a3) := by
  unfold execAisleLaneLockLoss; extract_lets +onlyGivenNames x0; refine (fun (h0 : DevHeld a3 x0) => ?_) ?_
  (try clear_value x0); extract_lets +onlyGivenNames x1; (try clear_value x1); extract_lets +onlyGivenNames x2
  refine (fun (h2 : DevHeld a3 x2) => ?_) ?_; (try clear_value x2); refine .ofNext ?_; refine State.on_devHeld ?_ ?_
  exact h0; refine holds_ite ?_ ?_; exact h0; refine holds_ite ?_ ?_; refine DevHeld.step ?_ State.loseAisle_devHeld
  exact h2; exact h2; unfold x2; refine DevHeld.step ?_ (Only.devHeld State.setAisle_only); exact h0; unfold x0
  refine DevHeld.step ?_ (Only.devHeld State.advance_only); exact .refl _

theorem execAisleLinkTimeout_devHeld {a0 a1 a2} :
    Nxt (DevHeld a2) (execAisleLinkTimeout a0 a1 a2) := by
  unfold execAisleLinkTimeout; extract_lets +onlyGivenNames x0; refine (fun (h0 : DevHeld a2 x0) => ?_) ?_
  (try clear_value x0); extract_lets +onlyGivenNames x1; (try clear_value x1); extract_lets +onlyGivenNames x2
  (try clear_value x2); refine .ofNext ?_; refine State.on_devHeld ?_ ?_; exact h0; refine holds_ite ?_ ?_; exact h0
  refine DevHeld.step ?_ State.loseAisle_devHeld; exact h0; unfold x0
  refine DevHeld.step ?_ (Only.devHeld State.advance_only); exact .refl _

theorem execIdentReceive_devHeld {a0 a1 a2 a3} :
    Nxt (DevHeld a3) (execIdentReceive a0 a1 a2 a3) := by
  unfold execIdentReceive; extract_lets +onlyGivenNames x0; refine (fun (h0 : DevHeld a3 x0) => ?_) ?_
  (try clear_value x0); refine .ofNext ?_; refine State.on_devHeld ?_ ?_; exact h0; refine holds_ite ?_ ?_; exact h0
  refine holds_ite ?_ ?_; refine DevHeld.step ?_ (Only.devHeld State.count_only); exact h0; refine holds_ite ?_ ?_
  exact h0; extract_lets +onlyGivenNames x1; refine (fun (h1 : DevHeld a3 x1) => ?_) ?_; (try clear_value x1)
  extract_lets +onlyGivenNames x2; (try clear_value x2); refine holds_ite ?_ ?_
  refine DevHeld.step ?_ (Only.devHeld State.setAisle_only); exact h1; extract_lets +onlyGivenNames x3
  refine (fun (h3 : DevHeld a3 x3) => ?_) ?_; (try clear_value x3); extract_lets +onlyGivenNames x4
  (try clear_value x4); refine holds_ite ?_ ?_; extract_lets +onlyGivenNames x5; (try clear_value x5)
  extract_lets +onlyGivenNames x6; refine (fun (h6 : DevHeld a3 x6) => ?_) ?_; (try clear_value x6)
  refine DevHeld.step ?_ State.raise_devHeld; exact h6; unfold x6
  refine DevHeld.step ?_ (Only.devHeld State.setAisle_only); exact h3
  refine DevHeld.step ?_ (Only.devHeld State.enterUp_only); exact h3; unfold x3
  refine DevHeld.step ?_ (Only.devHeld State.setAisle_only); exact h1; unfold x1
  refine DevHeld.step ?_ (Only.devHeld State.dueIdents_only); exact h0; unfold x0
  refine DevHeld.step ?_ (Only.devHeld State.advance_only); exact .refl _

theorem execCreditRevoke_devHeld {a0 a1 a2} :
    Nxt (DevHeld a2) (execCreditRevoke a0 a1 a2) := by
  unfold execCreditRevoke; extract_lets +onlyGivenNames x0; refine (fun (h0 : DevHeld a2 x0) => ?_) ?_
  (try clear_value x0); refine .ofNext ?_; refine State.on_devHeld ?_ ?_; exact h0; refine holds_ite ?_ ?_
  refine DevHeld.step ?_ State.revokeAisle_devHeld; exact h0; refine DevHeld.step ?_ State.revokeHalf_devHeld
  exact h0; unfold x0; refine DevHeld.step ?_ (Only.devHeld State.advance_only); exact .refl _

theorem execSealReceive_devHeld {a0 a1 a2} :
    Nxt (DevHeld a2) (execSealReceive a0 a1 a2) := by
  unfold execSealReceive; extract_lets +onlyGivenNames x0; refine (fun (h0 : DevHeld a2 x0) => ?_) ?_
  (try clear_value x0); refine .ofNext ?_; refine State.onClerk_devHeld ?_ ?_; exact h0; split; exact h0
  refine holds_ite ?_ ?_; refine DevHeld.step ?_ (Only.devHeld (State.takeLocal_only _ (by assumption))); exact h0
  refine DevHeld.step ?_ State.takeSeal_devHeld
  refine DevHeld.step ?_ (Only.devHeld (State.takeLocal_only _ (by assumption))); exact h0; unfold x0
  refine DevHeld.step ?_ (Only.devHeld State.advance_only); exact .refl _

theorem execSealTableReceive_devHeld {a0 a1 a2 a3 a4} :
    Nxt (DevHeld a4) (execSealTableReceive a0 a1 a2 a3 a4) := by
  unfold execSealTableReceive; extract_lets +onlyGivenNames x0; refine (fun (h0 : DevHeld a4 x0) => ?_) ?_
  (try clear_value x0); refine .ofNext ?_; refine State.onClerk_devHeld ?_ ?_; exact h0; split; exact h0; split
  exact h0; split; exact h0; refine holds_ite ?_ ?_
  refine DevHeld.step ?_ (Only.devHeld (State.partnerTable_only _ (by assumption))); exact h0
  refine DevHeld.step ?_ State.compareSeals_devHeld; refine DevHeld.step ?_ (Only.devHeld State.setJob_only)
  refine DevHeld.step ?_ (Only.devHeld (State.partnerTable_only _ (by assumption))); exact h0; unfold x0
  refine DevHeld.step ?_ (Only.devHeld State.advance_only); exact .refl _

theorem execSealTableTimeout_devHeld {a0 a1 a2} :
    Nxt (DevHeld a2) (execSealTableTimeout a0 a1 a2) := by
  unfold execSealTableTimeout; extract_lets +onlyGivenNames x0; refine (fun (h0 : DevHeld a2 x0) => ?_) ?_
  (try clear_value x0); refine .ofNext ?_; refine State.onClerk_devHeld ?_ ?_; exact h0; split; exact h0; split
  exact h0; refine holds_ite ?_ ?_; refine DevHeld.step ?_ State.twinSolo_devHeld; exact h0; exact h0; unfold x0
  refine DevHeld.step ?_ (Only.devHeld State.advance_only); exact .refl _

theorem execAbortReceive_devHeld {a0 a1 a2} :
    Nxt (DevHeld a2) (execAbortReceive a0 a1 a2) := by
  unfold execAbortReceive; extract_lets +onlyGivenNames x0; refine (fun (h0 : DevHeld a2 x0) => ?_) ?_
  (try clear_value x0); refine .ofNext ?_; refine State.onClerk_devHeld ?_ ?_; exact h0; split; exact h0
  extract_lets +onlyGivenNames x1; (try clear_value x1); extract_lets +onlyGivenNames x2; (try clear_value x2); split
  refine DevHeld.step ?_ (Only.devHeld (State.takeLocal_only _ (by assumption))); exact h0
  extract_lets +onlyGivenNames x3; refine (fun (h3 : DevHeld a2 x3) => ?_) ?_; (try clear_value x3)
  refine holds_ite ?_ ?_; refine DevHeld.step ?_ State.abortSteps_devHeld; exact h3; exact h3; unfold x3
  refine DevHeld.step ?_ (Only.devHeld State.setJob_only)
  refine DevHeld.step ?_ (Only.devHeld State.clearIngress_only)
  refine DevHeld.step ?_ (Only.devHeld (State.takeLocal_only _ (by assumption))); exact h0; unfold x0
  refine DevHeld.step ?_ (Only.devHeld State.advance_only); exact .refl _

theorem execDoorlineInval_devHeld {a0 a1 a2 a3 a4} :
    Nxt (DevHeld a4) (execDoorlineInval a0 a1 a2 a3 a4) := by
  unfold execDoorlineInval; extract_lets +onlyGivenNames x0; refine (fun (h0 : DevHeld a4 x0) => ?_) ?_
  (try clear_value x0); refine .ofNext ?_; refine State.on_devHeld ?_ ?_; exact h0; refine holds_ite ?_ ?_; exact h0
  extract_lets +onlyGivenNames x1; (try clear_value x1); extract_lets +onlyGivenNames x2
  refine (fun (h2 : Snd (DevHeld a4) x2) => ?_) ?_; (try clear_value x2); extract_lets +onlyGivenNames x3
  refine (fun (h3 : DevHeld a4 x3) => ?_) ?_; (try clear_value x3); extract_lets +onlyGivenNames x4
  refine (fun (h4 : DevHeld a4 x4) => ?_) ?_; (try clear_value x4); refine DevHeld.step ?_ State.readDoor_devHeld
  exact h4; unfold x4; refine DevHeld.step ?_ (Only.devHeld State.sendSlot_only)
  refine DevHeld.step ?_ (Only.devHeld State.dropLine_only); exact h3; unfold x3
  refine DevHeld.step ?_ (Only.devHeld State.count_only); exact h2; unfold x2
  refine DevHeld.stepSnd ?_ (Only.devHeld State.takeInval_only); exact h0; unfold x0
  refine DevHeld.step ?_ (Only.devHeld State.advance_only); exact .refl _

theorem execDoorlinePoll_devHeld {a0 a1 a2 a3} :
    Nxt (DevHeld a3) (execDoorlinePoll a0 a1 a2 a3) := by
  unfold execDoorlinePoll; refine .ofNext ?_; refine State.on_devHeld ?_ ?_; exact .refl _
  refine DevHeld.step ?_ State.readDoor_devHeld; refine DevHeld.step ?_ (Only.devHeld State.refreshDog_only)
  refine DevHeld.step ?_ (Only.devHeld State.advance_only); exact .refl _

theorem execJobOpen_devHeld {a0 a1 a2 a3 a4 a5} :
    Nxt (DevHeld a5) (execJobOpen a0 a1 a2 a3 a4 a5) := by
  unfold execJobOpen; refine .ofNext ?_; refine State.on_devHeld ?_ ?_; exact .refl _
  refine State.runCommand_devHeld ?_ fun x3 y3 h3 => ?_; exact .refl _; refine DevHeld.step ?_ State.openJob_devHeld
  exact h3

theorem execJobLoad_devHeld {a0 a1 a2 a3 a4 a5} :
    Nxt (DevHeld a5) (execJobLoad a0 a1 a2 a3 a4 a5) := by
  unfold execJobLoad; refine .ofNext ?_; refine State.on_devHeld ?_ ?_; exact .refl _
  refine State.runCommand_devHeld ?_ fun x0 y0 h0 => ?_; exact .refl _; split
  refine DevHeld.step ?_ State.jobLoad_devHeld; exact h0; exact h0

theorem execJobMap_devHeld {a0 a1 a2 a3 a4} :
    Nxt (DevHeld a4) (execJobMap a0 a1 a2 a3 a4) := by
  unfold execJobMap; refine .ofNext ?_; refine State.on_devHeld ?_ ?_; exact .refl _
  refine State.runCommand_devHeld ?_ fun x0 y0 h0 => ?_; exact .refl _; split
  refine DevHeld.step ?_ State.jobMap_devHeld; exact h0; exact h0

theorem execStepRun_devHeld {a0 a1 a2 a3} :
    Nxt (DevHeld a3) (execStepRun a0 a1 a2 a3) := by
  unfold execStepRun; refine .ofNext ?_; refine State.on_devHeld ?_ ?_; exact .refl _
  refine State.runCommand_devHeld ?_ fun x0 y0 h0 => ?_; exact .refl _; extract_lets +onlyGivenNames x1
  (try clear_value x1); split; exact h0; refine DevHeld.step ?_ State.startStep_devHeld; refine holds_ite ?_ ?_
  exact h0; refine DevHeld.step ?_ State.acceptStep_devHeld; exact h0

theorem execStepAbort_devHeld {a0 a1 a2} :
    Nxt (DevHeld a2) (execStepAbort a0 a1 a2) := by
  unfold execStepAbort; refine .ofNext ?_; refine State.on_devHeld ?_ ?_; exact .refl _
  refine State.runCommand_devHeld ?_ fun x0 y0 h0 => ?_; exact .refl _; split
  refine DevHeld.step ?_ State.stepAbort_devHeld; exact h0; exact h0

theorem execJobClose_devHeld {a0 a1 a2} :
    Nxt (DevHeld a2) (execJobClose a0 a1 a2) := by
  unfold execJobClose; refine .ofNext ?_; refine State.on_devHeld ?_ ?_; exact .refl _
  refine State.runCommand_devHeld ?_ fun x0 y0 h0 => ?_; exact .refl _; refine DevHeld.step ?_ State.jobClose_devHeld
  exact h0

theorem execJobSuspend_devHeld {a0 a1 a2} :
    Nxt (DevHeld a2) (execJobSuspend a0 a1 a2) := by
  unfold execJobSuspend; refine .ofNext ?_; refine State.on_devHeld ?_ ?_; exact .refl _
  refine State.runCommand_devHeld ?_ fun x0 y0 h0 => ?_; exact .refl _; refine DevHeld.step ?_ State.finish_devHeld
  refine DevHeld.step ?_ (Only.devHeld State.suspendJob_only); exact h0

theorem execJobResume_devHeld {a0 a1 a2} :
    Nxt (DevHeld a2) (execJobResume a0 a1 a2) := by
  unfold execJobResume; refine .ofNext ?_; refine State.on_devHeld ?_ ?_; exact .refl _
  refine State.runCommand_devHeld ?_ fun x0 y0 h0 => ?_; exact .refl _; refine DevHeld.step ?_ State.finish_devHeld
  refine DevHeld.step ?_ State.resumeJob_devHeld; exact h0

theorem execSelftest_devHeld {a0 a1 a2 a3} :
    Nxt (DevHeld a3) (execSelftest a0 a1 a2 a3) := by
  unfold execSelftest; refine .ofNext ?_; refine State.on_devHeld ?_ ?_; exact .refl _
  refine State.runCommand_devHeld ?_ fun x3 y3 h3 => ?_; exact .refl _; refine holds_ite ?_ ?_; exact h3
  refine DevHeld.step ?_ State.startTest_devHeld; exact h3

theorem execSelftestQueuedStart_devHeld {a0 a1 a2 a3} :
    Nxt (DevHeld a3) (execSelftestQueuedStart a0 a1 a2 a3) := by
  unfold execSelftestQueuedStart; refine .ofNext ?_; refine State.on_devHeld ?_ ?_; exact .refl _
  refine State.runCommand_devHeld ?_ fun x3 y3 h3 => ?_; exact .refl _; refine holds_ite ?_ ?_
  refine DevHeld.step ?_ State.selftest_devHeld; exact h3; exact h3

theorem execFenceStall_devHeld {a0 a1 a2} :
    Nxt (DevHeld a2) (execFenceStall a0 a1 a2) := by
  unfold execFenceStall; refine .ofNext ?_; refine State.on_devHeld ?_ ?_; exact .refl _
  refine State.runCommand_devHeld ?_ fun x0 y0 h0 => ?_; exact .refl _; extract_lets +onlyGivenNames x1
  (try clear_value x1); refine holds_ite ?_ ?_; refine DevHeld.step ?_ State.refuse_devHeld; exact h0
  refine DevHeld.step ?_ State.finish_devHeld; refine DevHeld.step ?_ State.post_devHeld
  refine DevHeld.step ?_ State.fence_devHeld; exact h0

theorem execUnfenceStall_devHeld {a0 a1 a2 a3} :
    Nxt (DevHeld a3) (execUnfenceStall a0 a1 a2 a3) := by
  unfold execUnfenceStall; refine .ofNext ?_; refine State.on_devHeld ?_ ?_; exact .refl _
  refine State.runCommand_devHeld ?_ fun x0 y0 h0 => ?_; exact .refl _; extract_lets +onlyGivenNames x1
  (try clear_value x1); refine holds_ite ?_ ?_; refine DevHeld.step ?_ State.refuse_devHeld; exact h0
  refine holds_ite ?_ ?_; refine DevHeld.step ?_ State.finish_devHeld; exact h0; extract_lets +onlyGivenNames x2
  refine (fun (h2 : DevHeld a3 x2) => ?_) ?_; (try clear_value x2); refine holds_ite ?_ ?_
  refine DevHeld.step ?_ State.finish_devHeld; refine DevHeld.step ?_ State.unfence_devHeld; exact h2
  refine DevHeld.step ?_ State.finish_devHeld; exact h2; unfold x2; refine DevHeld.step ?_ State.testStalls_devHeld
  exact h0

theorem execSetPolicy_devHeld {a0 a1 a2} :
    Nxt (DevHeld a2) (execSetPolicy a0 a1 a2) := by
  unfold execSetPolicy; refine .ofNext ?_; refine State.on_devHeld ?_ ?_; exact .refl _
  refine State.runCommand_devHeld ?_ fun x3 y3 h3 => ?_; exact .refl _; refine holds_ite ?_ ?_; exact h3
  refine DevHeld.step ?_ State.setPolicy_devHeld; exact h3

theorem execTwinBind_devHeld {a0 a1 a2} :
    Nxt (DevHeld a2) (execTwinBind a0 a1 a2) := by
  unfold execTwinBind; refine .ofNext ?_; refine State.on_devHeld ?_ ?_; exact .refl _
  refine State.runCommand_devHeld ?_ fun x0 y0 h0 => ?_; exact .refl _; split
  refine DevHeld.step ?_ State.twinBind_devHeld; exact h0; exact h0

theorem execEcho_devHeld {a0 a1 a2} :
    Nxt (DevHeld a2) (execEcho a0 a1 a2) := by
  unfold execEcho; refine .ofNext ?_; refine State.on_devHeld ?_ ?_; exact .refl _
  refine State.runCommand_devHeld ?_ fun x0 y0 h0 => ?_; exact .refl _; refine DevHeld.step ?_ State.echo_devHeld
  exact h0

theorem execSummary_devHeld {a0 a1 a2} :
    Nxt (DevHeld a2) (execSummary a0 a1 a2) := by
  unfold execSummary; refine .ofNext ?_; refine State.on_devHeld ?_ ?_; exact .refl _
  refine State.runCommand_devHeld ?_ fun x3 y3 h3 => ?_; exact .refl _; refine DevHeld.step ?_ State.summary_devHeld
  exact h3

theorem execDeadlineTimer_devHeld {a0 a1} :
    Nxt (DevHeld a1) (execDeadlineTimer a0 a1) := by
  unfold execDeadlineTimer; refine .ofNext ?_; refine State.onClerk_devHeld ?_ ?_; exact .refl _; split; exact .refl _
  extract_lets +onlyGivenNames x0; (try clear_value x0); split; exact .refl _; refine holds_ite ?_ ?_; exact .refl _
  extract_lets +onlyGivenNames x1; refine (fun (h1 : DevHeld a1 x1) => ?_) ?_; (try clear_value x1)
  extract_lets +onlyGivenNames x2; refine (fun (h2 : DevHeld a1 x2) => ?_) ?_; (try clear_value x2)
  refine DevHeld.step ?_ State.raise_devHeld; refine DevHeld.step ?_ State.charge_devHeld; exact h2; unfold x2
  refine DevHeld.step ?_ (Only.devHeld State.setJob_only); exact h1; unfold x1
  refine DevHeld.step ?_ (Only.devHeld State.advance_only); exact .refl _

theorem execLedgerReconcile_devHeld {a0 a1 a2 a3} :
    Nxt (DevHeld a3) (execLedgerReconcile a0 a1 a2 a3) := by
  unfold execLedgerReconcile; refine .ofNext ?_; refine State.on_devHeld ?_ ?_; exact .refl _; refine holds_ite ?_ ?_
  exact .refl _; extract_lets +onlyGivenNames x0; (try clear_value x0); extract_lets +onlyGivenNames x1
  refine (fun (h1 : DevHeld a3 x1) => ?_) ?_; (try clear_value x1); extract_lets +onlyGivenNames x2
  refine (fun (h2 : DevHeld a3 x2) => ?_) ?_; (try clear_value x2); extract_lets +onlyGivenNames x3
  (try clear_value x3); extract_lets +onlyGivenNames x4; refine (fun (h4 : DevHeld a3 x4) => ?_) ?_
  (try clear_value x4); extract_lets +onlyGivenNames x5; (try clear_value x5); extract_lets +onlyGivenNames x6
  (try clear_value x6); extract_lets +onlyGivenNames x7; refine (fun (h7 : DevHeld a3 x7) => ?_) ?_
  (try clear_value x7); extract_lets +onlyGivenNames x8; (try clear_value x8); extract_lets +onlyGivenNames x9
  refine (fun (h9 : DevHeld a3 x9) => ?_) ?_; (try clear_value x9)
  refine DevHeld.step ?_ (Only.devHeld State.takeSnaps_only); exact h9; unfold x9; split
  refine DevHeld.step ?_ State.reconcile_devHeld; refine DevHeld.upd ?_; exact h7
  refine DevHeld.step ?_ State.unreconciled_devHeld; refine DevHeld.upd ?_; exact h7; unfold x7
  refine DevHeld.step ?_ (Only.devHeld State.clearWork_only); exact h4; unfold x4; refine DevHeld.upd ?_; exact h2
  unfold x2; refine holds_foldl ?_ fun x10 a10_ h10 => ?_; exact h1; refine DevHeld.step ?_ State.accrueAt_devHeld
  exact h10; unfold x1; refine DevHeld.step ?_ (Only.devHeld State.advance_only); exact .refl _

theorem execPitchMove_devHeld {a0 a1 a2 a3 a4 a5 a6 a7} :
    Nxt (DevHeld a7) (execPitchMove a0 a1 a2 a3 a4 a5 a6 a7) := by
  unfold execPitchMove; extract_lets +onlyGivenNames x0; refine (fun (h0 : DevHeld a7 x0) => ?_) ?_
  (try clear_value x0); refine .ofNext ?_; refine State.onClerk_devHeld ?_ ?_; exact h0; split; exact h0
  refine holds_ite ?_ ?_; refine DevHeld.step ?_ State.abortSteps_devHeld; exact h0; refine holds_ite ?_ ?_; exact h0
  extract_lets +onlyGivenNames x1; (try clear_value x1); split
  refine DevHeld.step ?_ (State.movePitch_devHeld _ (by assumption)); exact h0; refine holds_ite ?_ ?_
  refine DevHeld.step ?_ State.failJob_devHeld; exact h0; exact h0; unfold x0
  refine DevHeld.step ?_ (Only.devHeld State.advance_only); exact .refl _

theorem execPreemptResume_devHeld {a0 a1 a2} :
    Nxt (DevHeld a2) (execPreemptResume a0 a1 a2) := by
  unfold execPreemptResume; extract_lets +onlyGivenNames x0; refine (fun (h0 : DevHeld a2 x0) => ?_) ?_
  (try clear_value x0); refine .ofNext ?_; refine State.onClerk_devHeld ?_ ?_; exact h0; split; refine holds_ite ?_ ?_
  refine DevHeld.step ?_ State.resumeJob_devHeld; exact h0; exact h0; exact h0; unfold x0
  refine DevHeld.step ?_ (Only.devHeld State.advance_only); exact .refl _

theorem execStepWatchdogExpiry_devHeld {a0 a1 a2} :
    Nxt (DevHeld a2) (execStepWatchdogExpiry a0 a1 a2) := by
  unfold execStepWatchdogExpiry; extract_lets +onlyGivenNames x0; refine (fun (h0 : DevHeld a2 x0) => ?_) ?_
  (try clear_value x0); refine .ofNext ?_; refine State.onClerk_devHeld ?_ ?_; exact h0; split; exact h0; split
  exact h0; refine holds_ite ?_ ?_; exact h0; refine DevHeld.step ?_ State.raise_devHeld; exact h0; unfold x0
  refine DevHeld.step ?_ (Only.devHeld State.advance_only); exact .refl _

theorem execStepRerunGo_devHeld {a0 a1 a2 a3 a4} :
    Nxt (DevHeld a4) (execStepRerunGo a0 a1 a2 a3 a4) := by
  unfold execStepRerunGo; extract_lets +onlyGivenNames x0; refine (fun (h0 : DevHeld a4 x0) => ?_) ?_
  (try clear_value x0); refine .ofNext ?_; refine State.onClerk_devHeld ?_ ?_; exact h0; split; exact h0
  refine holds_ite ?_ ?_; exact h0; refine DevHeld.step ?_ State.rerunStep_devHeld
  refine DevHeld.step ?_ State.restoreSteps_devHeld; exact h0; unfold x0
  refine DevHeld.step ?_ (Only.devHeld State.advance_only); exact .refl _

theorem execEngineBusyExpiry_devHeld {a0 a1 a2 a3} :
    Nxt (DevHeld a3) (execEngineBusyExpiry a0 a1 a2 a3) := by
  unfold execEngineBusyExpiry; extract_lets +onlyGivenNames x0; refine (fun (h0 : DevHeld a3 x0) => ?_) ?_
  (try clear_value x0); extract_lets +onlyGivenNames x1; (try clear_value x1); refine .ofNext ?_
  refine State.on_devHeld ?_ ?_; exact h0; split; refine holds_ite ?_ ?_; refine DevHeld.step ?_ State.raise_devHeld
  exact h0; exact h0; exact h0; unfold x0; refine DevHeld.step ?_ (Only.devHeld State.advance_only); exact .refl _

theorem execClerkWatchdogExpiry_devHeld {a0 a1 a2} :
    Nxt (DevHeld a2) (execClerkWatchdogExpiry a0 a1 a2) := by
  unfold execClerkWatchdogExpiry; extract_lets +onlyGivenNames x0; refine (fun (h0 : DevHeld a2 x0) => ?_) ?_
  (try clear_value x0); refine .ofNext ?_; refine State.on_devHeld ?_ ?_; exact h0; refine holds_ite ?_ ?_; exact h0
  extract_lets +onlyGivenNames x6; (try clear_value x6); extract_lets +onlyGivenNames x7; (try clear_value x7)
  extract_lets +onlyGivenNames x8; refine (fun (h8 : DevHeld a2 x8) => ?_) ?_; (try clear_value x8)
  extract_lets +onlyGivenNames x9; refine (fun (h9 : DevHeld a2 x9) => ?_) ?_; (try clear_value x9)
  refine holds_ite ?_ ?_; refine DevHeld.step ?_ State.nextPrimary_devHeld; exact h9; exact h9; unfold x9
  refine DevHeld.step ?_ State.raise_devHeld; exact h8; unfold x8; refine DevHeld.upd ?_; exact h0; unfold x0
  refine DevHeld.step ?_ (Only.devHeld State.advance_only); exact .refl _

theorem execCompanionLossTimeout_devHeld {a0 a1} :
    Nxt (DevHeld a1) (execCompanionLossTimeout a0 a1) := by
  unfold execCompanionLossTimeout; extract_lets +onlyGivenNames x0; refine (fun (h0 : DevHeld a1 x0) => ?_) ?_
  (try clear_value x0); refine .ofNext ?_; refine State.on_devHeld ?_ ?_; exact h0; refine holds_ite ?_ ?_; exact h0
  extract_lets +onlyGivenNames x1; refine (fun (h1 : DevHeld a1 x1) => ?_) ?_; (try clear_value x1)
  refine holds_foldl ?_ fun x2 a2_ h2 => ?_; exact h1; refine DevHeld.step ?_ State.failJob_devHeld; exact h2
  unfold x1; refine DevHeld.step ?_ State.raise_devHeld; exact h0; unfold x0
  refine DevHeld.step ?_ (Only.devHeld State.advance_only); exact .refl _

theorem execCompanionRead_devHeld {a0 a1 a2 a3} :
    Nxt (DevHeld a3) (execCompanionRead a0 a1 a2 a3) := by
  unfold execCompanionRead; extract_lets +onlyGivenNames x0; refine (fun (h0 : DevHeld a3 x0) => ?_) ?_
  (try clear_value x0); refine .ofNext ?_; refine State.on_devHeld ?_ ?_; exact h0; split; exact h0
  refine holds_ite ?_ ?_; extract_lets +onlyGivenNames x1; refine (fun (h1 : Snd (DevHeld a3) x1) => ?_) ?_
  (try clear_value x1); refine DevHeld.step ?_ (Only.devHeld State.respond_only); exact h1; unfold x1
  refine DevHeld.stepSnd ?_ State.readWindow_devHeld
  refine DevHeld.step ?_ (Only.devHeld (State.takeSlot_only _ (by assumption))); exact h0; split
  refine DevHeld.step ?_ State.readHbm_devHeld
  refine DevHeld.step ?_ (Only.devHeld (State.takeSlot_only _ (by assumption))); exact h0
  refine DevHeld.step ?_ (Only.devHeld State.refuseAccess_only)
  refine DevHeld.step ?_ (Only.devHeld (State.takeSlot_only _ (by assumption))); exact h0; unfold x0
  refine DevHeld.step ?_ (Only.devHeld State.advance_only); exact .refl _

theorem execCompanionWrite_devHeld {a0 a1 a2 a3} :
    Nxt (DevHeld a3) (execCompanionWrite a0 a1 a2 a3) := by
  unfold execCompanionWrite; extract_lets +onlyGivenNames x0; refine (fun (h0 : DevHeld a3 x0) => ?_) ?_
  (try clear_value x0); refine .ofNext ?_; refine State.on_devHeld ?_ ?_; exact h0; split; exact h0
  refine holds_ite ?_ ?_; refine DevHeld.step ?_ State.writeWindow_devHeld
  refine DevHeld.step ?_ (Only.devHeld (State.takeSlot_only _ (by assumption))); exact h0; split
  refine DevHeld.step ?_ State.writeHbm_devHeld
  refine DevHeld.step ?_ (Only.devHeld (State.takeSlot_only _ (by assumption))); exact h0
  refine DevHeld.step ?_ (Only.devHeld State.refuseAccess_only)
  refine DevHeld.step ?_ (Only.devHeld (State.takeSlot_only _ (by assumption))); exact h0; unfold x0
  refine DevHeld.step ?_ (Only.devHeld State.advance_only); exact .refl _

theorem execLemefHalfLost_devHeld {a0 a1 a2} :
    Nxt (DevHeld a2) (execLemefHalfLost a0 a1 a2) := by
  unfold execLemefHalfLost; extract_lets +onlyGivenNames x0; refine (fun (h0 : DevHeld a2 x0) => ?_) ?_
  (try clear_value x0); refine .ofNext ?_; refine State.on_devHeld ?_ ?_; exact h0; refine holds_ite ?_ ?_; exact h0
  refine DevHeld.step ?_ State.loseHalf_devHeld; exact h0; unfold x0
  refine DevHeld.step ?_ (Only.devHeld State.advance_only); exact .refl _

theorem execLemefTrained_devHeld {a0} :
    Nxt (DevHeld a0) (execLemefTrained a0) := by
  unfold execLemefTrained
  refine .ofNext (State.on_devHeld (.refl _) (holds_ite (.refl _) ?_))
  extract_lets x
  have h : DevHeld a0 x := holds_foldl (.refl _) fun x _ h => h.step State.enterHalf_only.devHeld
  clear_value x
  exact h

theorem execBootTakeover_devHeld {a0} :
    Nxt (DevHeld a0) (execBootTakeover a0) := by
  unfold execBootTakeover
  refine .ofNext (State.on_devHeld (.refl _) (holds_ite (.refl _) ?_))
  extract_lets x
  have h : DevHeld a0 x := holds_foldl (.refl _) fun x _ h => h.step State.enterHalf_only.devHeld
  clear_value x
  exact h

theorem execImageFetchComplete_devHeld {a0 a1 a2} :
    Nxt (DevHeld a2) (execImageFetchComplete a0 a1 a2) := by
  unfold execImageFetchComplete; refine .ofNext ?_; refine State.on_devHeld ?_ ?_; exact .refl _
  refine holds_ite ?_ ?_; exact .refl _; refine DevHeld.upd ?_; exact .refl _

theorem execLemefSlotReceive_devHeld {a0 a1 a2 a3} :
    Nxt (DevHeld a3) (execLemefSlotReceive a0 a1 a2 a3) := by
  unfold execLemefSlotReceive; extract_lets +onlyGivenNames x0; refine (fun (h0 : DevHeld a3 x0) => ?_) ?_
  (try clear_value x0); extract_lets +onlyGivenNames x1; (try clear_value x1); refine .ofNext ?_
  refine State.on_devHeld ?_ ?_; exact h0; extract_lets +onlyGivenNames x2; refine (fun (h2 : DevHeld a3 x2) => ?_) ?_
  (try clear_value x2); extract_lets +onlyGivenNames x3; (try clear_value x3); refine holds_ite ?_ ?_; exact h2
  refine holds_ite ?_ ?_; refine DevHeld.step ?_ (Only.devHeld State.nakHalf_only)
  refine DevHeld.step ?_ (Only.devHeld State.count_only); exact h2; extract_lets +onlyGivenNames x4
  refine (fun (h4 : DevHeld a3 x4) => ?_) ?_; (try clear_value x4); extract_lets +onlyGivenNames x5
  refine (fun (h5 : DevHeld a3 x5) => ?_) ?_; (try clear_value x5); refine holds_ite ?_ ?_; exact h5
  refine holds_ite ?_ ?_; refine DevHeld.step ?_ (Only.devHeld State.acceptSlot_only); exact h5
  refine DevHeld.step ?_ (Only.devHeld State.nakHalf_only); exact h5; unfold x5; refine holds_ite ?_ ?_
  refine DevHeld.step ?_ State.replayHalf_devHeld; exact h4; exact h4; unfold x4
  refine DevHeld.step ?_ (Only.devHeld State.setHalf_only); exact h2; unfold x2
  refine DevHeld.step ?_ (Only.devHeld State.slotLock_only); exact h0; unfold x0
  refine DevHeld.step ?_ (Only.devHeld State.advance_only); exact .refl _

theorem execLemefAckTimeout_devHeld {a0 a1 a2} :
    Nxt (DevHeld a2) (execLemefAckTimeout a0 a1 a2) := by
  unfold execLemefAckTimeout; extract_lets +onlyGivenNames x0; refine (fun (h0 : DevHeld a2 x0) => ?_) ?_
  (try clear_value x0); extract_lets +onlyGivenNames x1; (try clear_value x1); refine .ofNext ?_
  refine State.on_devHeld ?_ ?_; exact h0; refine holds_ite ?_ ?_; refine DevHeld.step ?_ State.replayHalf_devHeld
  refine DevHeld.step ?_ (Only.devHeld State.setHalf_only); exact h0; exact h0; unfold x0
  refine DevHeld.step ?_ (Only.devHeld State.advance_only); exact .refl _

theorem execClerkResumesService_devHeld {a0 a1} :
    Nxt (DevHeld a1) (execClerkResumesService a0 a1) := by
  unfold execClerkResumesService; extract_lets +onlyGivenNames x0; refine (fun (h0 : DevHeld a1 x0) => ?_) ?_
  (try clear_value x0); refine .ofNext ?_; refine State.on_devHeld ?_ ?_; exact h0; refine holds_ite ?_ ?_; exact h0
  extract_lets +onlyGivenNames x1; (try clear_value x1); extract_lets +onlyGivenNames x2; (try clear_value x2)
  extract_lets +onlyGivenNames x3; refine (fun (h3 : DevHeld a1 x3) => ?_) ?_; (try clear_value x3)
  refine DevHeld.step ?_ State.post_devHeld; refine holds_foldl ?_ fun x4 a4_ h4 => ?_
  refine DevHeld.step ?_ (Only.devHeld State.refreshed_only); exact h3; refine DevHeld.step ?_ State.clerkAct_devHeld
  exact h4; unfold x3; refine DevHeld.upd ?_; exact h0; unfold x0
  refine DevHeld.step ?_ (Only.devHeld State.advance_only); exact .refl _

theorem execSetPolicySyncTimeout_devHeld {a0 a1} :
    Nxt (DevHeld a1) (execSetPolicySyncTimeout a0 a1) := by
  unfold execSetPolicySyncTimeout; extract_lets +onlyGivenNames x0; refine (fun (h0 : DevHeld a1 x0) => ?_) ?_
  (try clear_value x0); refine .ofNext ?_; refine State.onClerk_devHeld ?_ ?_; exact h0; split; refine holds_ite ?_ ?_
  exact h0; refine DevHeld.step ?_ State.finish_devHeld; refine DevHeld.upd ?_; exact h0; exact h0; unfold x0
  refine DevHeld.step ?_ (Only.devHeld State.advance_only); exact .refl _

end Sys2Proof.Machine
end

