-- ==== Sys2Proof/Laws/KeepsForm.lean ====
section
/-! SUPPORT. Operations that may change memory keep its canonical form. -/

set_option Elab.async false
namespace Sys2Proof.Machine

theorem State.putLine_memOk {a0 a1 a2 a3} :
    MemOk a0 (State.putLine a0 a1 a2 a3) := by
  unfold State.putLine
  refine .step ?_ State.countHbm_only.memOk
  exact fun w => memPut_wf w

theorem State.mergeLine_memOk {a0 a1 a2 a3 a4} :
    MemOk a0 (State.mergeLine a0 a1 a2 a3 a4) := by
  unfold State.mergeLine; refine holds_ite ?_ ?_; refine MemOk.step ?_ State.putLine_memOk; exact .refl _
  extract_lets +onlyGivenNames x0; (try clear_value x0); extract_lets +onlyGivenNames x1; (try clear_value x1)
  refine MemOk.step ?_ State.putLine_memOk; refine MemOk.step ?_ (Only.memOk State.countRead_only); exact .refl _

theorem State.putPart_memOk {a0 a1 a2} :
    MemOk a0 (State.putPart a0 a1 a2) := by
  unfold State.putPart; extract_lets +onlyGivenNames x0; (try clear_value x0)
  refine MemOk.step ?_ State.mergeLine_memOk; exact .refl _

theorem State.unitWrite_memOk {a0 a1 a2 a3 a4 a5} :
    MemOk a0 (State.unitWrite a0 a1 a2 a3 a4 a5) := by
  unfold State.unitWrite; refine holds_foldl ?_ fun x0 a0_ h0 => ?_; exact .refl _; extract_lets +onlyGivenNames x1
  (try clear_value x1); extract_lets +onlyGivenNames x2; refine (fun (h2 : Fst (MemOk a0) x2) => ?_) ?_
  (try clear_value x2); refine holds_ite ?_ ?_; refine MemOk.step ?_ (Only.memOk State.unitWriteFail_only); exact h2
  refine MemOk.step ?_ (Only.memOk State.chargeBlock_only); refine MemOk.step ?_ State.putPart_memOk; exact h2
  unfold x2; refine MemOk.stepFst ?_ (Only.memOk State.writeFails_only); exact h0

theorem State.egress_memOk {a0 a1 a2 a3 a4 a5 a6 a7 a8 a9 a10} :
    MemOk a0 (State.egress a0 a1 a2 a3 a4 a5 a6 a7 a8 a9 a10) := by
  unfold State.egress
  extract_lets x0 x1 x2 x3 x4 x5 x6 x7 x8
  have h1 : MemOk a0 x1.s := Only.memOk (StateRead.plane_only (x := a0.startRead a1 a4 a5 a3) (.refl _))
  have h2 : MemOk a0 x2 := MemOk.step (MemOk.step h1 (StateRead.done_only (.refl _)).memOk) State.count_only.memOk
  have h7 : MemOk a0 x7 := (h2.step State.unitWrite_memOk).step State.setPending_only.memOk
  have h8 : MemOk a0 x8 := holds_ite h2 ((h7.step State.count_only.memOk).step State.count_only.memOk)
  clear_value x8
  split
  · exact h8
  · extract_lets +onlyGivenNames y0 y1
    have k : MemOk a0 y1 := by
      refine holds_foldl h8 fun x a hx => ?_
      split
      · exact (hx.step State.sendUnit_only.memOk).step State.count_only.memOk
      · exact hx
    clear_value y1
    refine holds_ite (k.step State.contribute_only.memOk) ?_
    exact holds_ite ((k.step State.setHub_only.memOk).step State.refuseBlock_only.memOk) (k.step State.setHub_only.memOk)

theorem State.factNext_memOk {a0 a1 a2 a3 a4 a5 a6 a7 a8} :
    MemOk a0 (State.factNext a0 a1 a2 a3 a4 a5 a6 a7 a8) := by
  unfold State.factNext; extract_lets +onlyGivenNames x0; (try clear_value x0); extract_lets +onlyGivenNames x1
  (try clear_value x1); extract_lets +onlyGivenNames x2; refine (fun (h2 : MemOk a0 x2) => ?_) ?_
  (try clear_value x2); refine holds_ite ?_ ?_; exact h2; extract_lets +onlyGivenNames x3
  refine (fun (h3 : MemOk a0 x3) => ?_) ?_; (try clear_value x3); extract_lets +onlyGivenNames x4
  refine (fun (h4 : MemOk a0 x4) => ?_) ?_; (try clear_value x4)
  refine MemOk.step ?_ (Only.memOk State.setPending_only); exact h4; unfold x4; refine MemOk.upd ?_; exact h3
  unfold x3; refine MemOk.step ?_ (Only.memOk State.count_only); refine MemOk.step ?_ State.unitWrite_memOk; exact h2
  unfold x2; refine MemOk.step ?_ (Only.memOk State.setFact_only); exact .refl _

theorem State.putBytes_memOk {a0 a1 a2} :
    MemOk a0 (State.putBytes a0 a1 a2) := by
  unfold State.putBytes; refine holds_foldl ?_ fun x0 a0_ h0 => ?_; exact .refl _
  refine MemOk.step ?_ State.putPart_memOk; exact h0

theorem State.loadGroups_memOk {a0 a1 a2 a3} :
    MemOk a0 (State.loadGroups a0 a1 a2 a3) := by
  unfold State.loadGroups; extract_lets +onlyGivenNames x0; (try clear_value x0); extract_lets +onlyGivenNames x1
  (try clear_value x1); extract_lets +onlyGivenNames x2; (try clear_value x2); extract_lets +onlyGivenNames x3
  refine (fun (h3 : MemOk a0 x3) => ?_) ?_; (try clear_value x3); extract_lets +onlyGivenNames x4
  (try clear_value x4); extract_lets +onlyGivenNames x5; refine (fun (h5 : MemOk a0 x5) => ?_) ?_
  (try clear_value x5); extract_lets +onlyGivenNames x6; (try clear_value x6); extract_lets +onlyGivenNames x7
  refine (fun (h7 : MemOk a0 x7) => ?_) ?_; (try clear_value x7); refine holds_foldl ?_ fun x8 a8_ h8 => ?_; exact h7
  refine MemOk.step ?_ (Only.memOk State.setHub_only); exact h8; unfold x7; refine MemOk.upd ?_; exact h5; unfold x5
  refine MemOk.step ?_ (Only.memOk State.setGroupValid_only); exact h3; unfold x3
  refine holds_foldl ?_ fun x19 a19_ h19 => ?_; exact .refl _; refine MemOk.step ?_ State.putBytes_memOk; exact h19

theorem State.jobLoad_memOk {a0 a1 a2 a3 a4 a5 a6 a7} :
    MemOk a0 (State.jobLoad a0 a1 a2 a3 a4 a5 a6 a7) := by
  unfold State.jobLoad; split; refine MemOk.step ?_ (Only.memOk State.finish_only); exact .refl _; split
  refine MemOk.step ?_ (Only.memOk State.refuse_only); exact .refl _; extract_lets +onlyGivenNames x0
  refine (fun (h0 : MemOk a0 x0) => ?_) ?_; (try clear_value x0); extract_lets +onlyGivenNames x1
  refine (fun (h1 : MemOk a0 x1) => ?_) ?_; (try clear_value x1); refine MemOk.step ?_ (Only.memOk State.finish_only)
  refine MemOk.step ?_ (Only.memOk State.commitStalls_only); exact h1; unfold x1
  refine MemOk.step ?_ (Only.memOk State.setJob_only); exact h0; unfold x0
  refine MemOk.step ?_ (Only.memOk State.loadStalls_only); refine MemOk.step ?_ State.loadGroups_memOk
  refine MemOk.step ?_ (Only.memOk (State.loadUnits_only _ (by assumption))); exact .refl _

theorem State.setEntry_memOk {a0 a1 a2 a3} :
    MemOk a0 (State.setEntry a0 a1 a2 a3) := by
  unfold State.setEntry; split; refine MemOk.step ?_ State.putBytes_memOk; exact .refl _; exact .refl _

theorem State.unmapRange_memOk {a0 a1 a2 a3} :
    MemOk a0 (State.unmapRange a0 a1 a2 a3) := by
  unfold State.unmapRange; split; exact .refl _; extract_lets +onlyGivenNames x2; (try clear_value x2)
  extract_lets +onlyGivenNames x3; refine (fun (h3 : MemOk a0 x3) => ?_) ?_; (try clear_value x3)
  refine MemOk.step ?_ (Only.memOk State.setJob_only); exact h3; unfold x3; refine holds_foldl ?_ fun x7 a7_ h7 => ?_
  exact .refl _; refine MemOk.step ?_ State.setEntry_memOk; exact h7

theorem State.mapped_memOk {r a0 : State} {a1 a2 : Nat} {a3 : Option State} (h : MemOk r a0)
    (k : Opt (MemOk r) a3) : MemOk r (a0.mapped a1 a2 a3) := by
  unfold State.mapped
  split
  · exact ((k _ rfl).step State.invalidateJob_only.memOk).step State.finish_only.memOk
  · exact h.step State.refuse_only.memOk

theorem State.zeroFill_memOk {a0 a1 a2} :
    MemOk a0 (State.zeroFill a0 a1 a2) := by
  unfold State.zeroFill
  refine .step ?_ State.countHbm_only.memOk
  exact fun w => memZero_wf w

theorem State.ownPage_memOk {a0 a1 a2} :
    MemOk a0 (State.ownPage a0 a1 a2) := by
  unfold State.ownPage; refine holds_ite ?_ ?_; exact .refl _; extract_lets +onlyGivenNames x0
  refine (fun (h0 : MemOk a0 x0) => ?_) ?_; (try clear_value x0); extract_lets +onlyGivenNames x1
  refine (fun (h1 : MemOk a0 x1) => ?_) ?_; (try clear_value x1); refine MemOk.upd ?_; exact h1; unfold x1
  refine holds_ite ?_ ?_; refine MemOk.step ?_ (Only.memOk State.charge_only); exact h0; exact h0; unfold x0
  refine MemOk.step ?_ State.zeroFill_memOk; exact .refl _

theorem State.mapPage_memOk {a0 a1 a2} :
    MemOk a0 (State.mapPage a0 a1 a2) := by
  unfold State.mapPage; extract_lets +onlyGivenNames x0; refine (fun (h0 : MemOk a0 x0) => ?_) ?_
  (try clear_value x0); split; refine MemOk.step ?_ (Only.memOk State.setJob_only); exact h0; exact h0; unfold x0
  refine MemOk.step ?_ State.setEntry_memOk; refine MemOk.step ?_ State.ownPage_memOk; exact .refl _

theorem State.newTable_memOk {a0 a1 a2 a3} :
    Opt (Fst (MemOk a0)) (State.newTable a0 a1 a2 a3) := by
  unfold State.newTable; refine Opt.map Opt.any fun z0 _ => ?_; extract_lets +onlyGivenNames x1
  refine (fun (h1 : MemOk a0 x1) => ?_) ?_; (try clear_value x1); change MemOk _ (Prod.fst (_, _)); dsimp only
  refine MemOk.upd ?_; exact h1; unfold x1; refine MemOk.step ?_ (Only.memOk State.clerkOwns_only)
  refine MemOk.step ?_ State.zeroFill_memOk; exact .refl _

theorem State.rootTable_memOk {a0 a1 a2 a3} :
    Opt (Fst (MemOk a0)) (State.rootTable a0 a1 a2 a3) := by
  unfold State.rootTable; split; refine .ofSome ?_; change MemOk _ (Prod.fst (_, _)); dsimp only; exact .refl _
  refine Opt.map (P := (Fst (MemOk a0))) ?_ fun z4 h4 => ?_; refine MemOk.stepOptFst ?_ State.newTable_memOk
  exact .refl _; change MemOk _ (Prod.fst (_, _)); dsimp only; refine MemOk.step ?_ (Only.memOk State.setRoot_only)
  exact h4

theorem State.needTables_memOk {a0 a1 a2 a3 a4} :
    Opt (Fst (MemOk a0)) (State.needTables a0 a1 a2 a3 a4) := by
  unfold State.needTables; refine Opt.bind (P := (Fst (MemOk a0))) ?_ fun z0 h0 => ?_
  refine MemOk.stepOptFst ?_ State.rootTable_memOk; exact .refl _; split; refine .ofSome ?_
  change MemOk _ (Prod.fst (_, _)); dsimp only; exact h0; refine Opt.map (P := (Fst (MemOk a0))) ?_ fun z7 h7 => ?_
  refine MemOk.stepOptFst ?_ State.newTable_memOk; exact h0; change MemOk _ (Prod.fst (_, _)); dsimp only
  refine MemOk.step ?_ State.putBytes_memOk; exact h7

theorem State.mapRange_memOk {a0 a1 a2 a3 a4 a5 a6 a7 a8 a9} :
    Opt (MemOk a0) (State.mapRange a0 a1 a2 a3 a4 a5 a6 a7 a8 a9) := by
  unfold State.mapRange; extract_lets +onlyGivenNames x0; refine (fun (h0 : MemOk a0 x0) => ?_) ?_
  (try clear_value x0); refine Opt.bind Opt.any fun z1 _ => ?_
  refine Opt.map (P := (Fst (MemOk a0))) ?_ fun z2 h2 => ?_; refine holds_foldl ?_ fun x3 a3_ h3 => ?_
  refine .ofSome ?_; change MemOk _ (Prod.fst (_, _)); dsimp only; exact h0
  refine Opt.bind (P := (Fst (MemOk a0))) ?_ fun z7 h7 => ?_; exact h3
  refine Opt.map (P := (Fst (MemOk a0))) ?_ fun z9 h9 => ?_; refine MemOk.stepOptFst ?_ State.needTables_memOk
  exact h7; change MemOk _ (Prod.fst (_, _)); dsimp only; refine MemOk.step ?_ State.mapPage_memOk; exact h9; exact h2
  unfold x0; refine MemOk.step ?_ State.unmapRange_memOk; exact .refl _

theorem State.jobMap_memOk {a0 a1 a2 a3 a4 a5 a6} :
    MemOk a0 (State.jobMap a0 a1 a2 a3 a4 a5 a6) := by
  unfold State.jobMap; extract_lets +onlyGivenNames x0; (try clear_value x0); extract_lets +onlyGivenNames x1
  (try clear_value x1); extract_lets +onlyGivenNames x2; (try clear_value x2); extract_lets +onlyGivenNames x3
  (try clear_value x3); extract_lets +onlyGivenNames x4; (try clear_value x4); refine holds_ite ?_ ?_
  refine MemOk.step ?_ (Only.memOk State.refuse_only); exact .refl _; refine holds_ite ?_ ?_
  refine MemOk.step ?_ (Only.memOk State.finish_only); refine MemOk.step ?_ (Only.memOk State.invalidateJob_only)
  refine MemOk.step ?_ State.unmapRange_memOk; exact .refl _; refine holds_ite ?_ ?_; refine State.mapped_memOk ?_ ?_
  exact .refl _; refine MemOk.stepOpt ?_ State.mapRange_memOk; exact .refl _; split
  refine MemOk.step ?_ (Only.memOk State.refuse_only); exact .refl _; extract_lets +onlyGivenNames x21
  (try clear_value x21); extract_lets +onlyGivenNames x22; (try clear_value x22); refine holds_ite ?_ ?_
  refine MemOk.step ?_ (Only.memOk State.refuse_only); exact .refl _; refine holds_ite ?_ ?_
  refine MemOk.step ?_ (Only.memOk State.refuse_only); exact .refl _; refine State.mapped_memOk ?_ ?_; exact .refl _
  refine MemOk.stepOpt ?_ State.mapRange_memOk; exact .refl _

theorem State.moveHalls_memOk {a0 a1 a2 a3} :
    Opt (MemOk a0) (State.moveHalls a0 a1 a2 a3) := by
  unfold State.moveHalls; split; refine .ofSome ?_; exact .refl _; extract_lets +onlyGivenNames x0
  (try clear_value x0); refine Opt.map (P := (Fst (MemOk a0))) ?_ fun z1 h1 => ?_
  refine holds_foldl ?_ fun x2 a2_ h2 => ?_; refine .ofSome ?_; change MemOk _ (Prod.fst (_, _)); dsimp only
  exact .refl _; refine Opt.bind (P := (Fst (MemOk a0))) ?_ fun z3 h3 => ?_; exact h2; split; refine .ofSome ?_
  exact h3; extract_lets +onlyGivenNames x4; refine (fun (h4 : MemOk a0 x4) => ?_) ?_; (try clear_value x4)
  refine Opt.bind Opt.any fun z5 _ => ?_; split; refine .ofSome ?_; change MemOk _ (Prod.fst (_, _)); dsimp only
  refine MemOk.step ?_ State.mapPage_memOk; refine MemOk.step ?_ State.zeroFill_memOk; exact h4; exact .ofNone
  unfold x4; refine MemOk.step ?_ State.unmapRange_memOk; exact h3
  refine MemOk.step ?_ (Only.memOk State.invalidateJob_only); exact h1

theorem State.movePitch_memOk {a0 a1 a2 a3 a4 a5 a6} :
    Opt (MemOk a0) (State.movePitch a0 a1 a2 a3 a4 a5 a6) := by
  unfold State.movePitch; split; exact .ofNone; split; exact .ofNone; extract_lets +onlyGivenNames x0
  (try clear_value x0); extract_lets +onlyGivenNames x1; (try clear_value x1); extract_lets +onlyGivenNames x2
  (try clear_value x2); extract_lets +onlyGivenNames x3; refine (fun (h3 : MemOk a0 x3) => ?_) ?_
  (try clear_value x3); extract_lets +onlyGivenNames x4; (try clear_value x4); extract_lets +onlyGivenNames x5
  refine (fun (h5 : MemOk a0 x5) => ?_) ?_; (try clear_value x5); refine holds_ite ?_ ?_; exact .ofNone
  extract_lets +onlyGivenNames x6; (try clear_value x6); extract_lets +onlyGivenNames x7
  refine (fun (h7 : MemOk a0 x7) => ?_) ?_; (try clear_value x7); extract_lets +onlyGivenNames x8
  (try clear_value x8); refine Opt.bind Opt.any fun z9 _ => ?_; extract_lets +onlyGivenNames x10
  (try clear_value x10); extract_lets +onlyGivenNames x11; refine (fun (h11 : MemOk a0 x11) => ?_) ?_
  (try clear_value x11); extract_lets +onlyGivenNames x12; refine (fun (h12 : MemOk a0 x12) => ?_) ?_
  (try clear_value x12); refine Opt.map (P := (MemOk a0)) ?_ fun z13 h13 => ?_
  refine MemOk.stepOpt ?_ State.moveHalls_memOk; exact h12; extract_lets +onlyGivenNames x14
  refine (fun (h14 : MemOk a0 x14) => ?_) ?_; (try clear_value x14); extract_lets +onlyGivenNames x15
  refine (fun (h15 : MemOk a0 x15) => ?_) ?_; (try clear_value x15); extract_lets +onlyGivenNames x16
  (try clear_value x16); refine MemOk.step ?_ (Only.memOk State.raise_only); exact h15; unfold x15
  refine MemOk.step ?_ (Only.memOk State.count_only); refine MemOk.step ?_ (Only.memOk State.charge_only); exact h14
  unfold x14; refine MemOk.step ?_ (Only.memOk State.writeArbRotas_only)
  refine MemOk.step ?_ (Only.memOk State.commitStalls_only); exact h13; unfold x12
  refine holds_foldl ?_ fun x17 a17_ h17 => ?_; exact h11; refine MemOk.step ?_ (Only.memOk State.takeStall_only)
  exact h17; unfold x11; refine MemOk.step ?_ (Only.memOk State.setJob_only); exact h7; unfold x7
  refine MemOk.step ?_ (Only.memOk State.setJob_only); exact h5; unfold x5
  refine MemOk.step ?_ (Only.memOk State.setJob_only); exact h3; unfold x3
  refine holds_foldl ?_ fun x18 a18_ h18 => ?_; exact .refl _; refine MemOk.step ?_ (Only.memOk State.leaveStall_only)
  exact h18

theorem State.moveFenced_memOk {a0 a1 a2} :
    Opt (MemOk a0) (State.moveFenced a0 a1 a2) := by
  unfold State.moveFenced; split; refine .ofSome ?_; exact .refl _; refine holds_foldl ?_ fun x3 a3_ h3 => ?_
  refine .ofSome ?_; exact .refl _; refine Opt.bind (P := (MemOk a0)) ?_ fun z6 h6 => ?_; exact h3
  refine holds_ite ?_ ?_; refine .ofSome ?_; exact h6; extract_lets +onlyGivenNames x11; (try clear_value x11)
  refine MemOk.stepOpt ?_ State.movePitch_memOk; exact h6

theorem State.on_memOk {r a0 a1 : State} (h : MemOk r a0) (k : MemOk r a1) : MemOk r (a0.on a1) := by
  unfold State.on
  exact holds_ite (Q := MemOk r) k h

theorem State.onClerk_memOk {r a0 a1 : State} (h : MemOk r a0) (k : MemOk r a1) : MemOk r (a0.onClerk a1) := by
  unfold State.onClerk
  exact holds_ite (Q := MemOk r) k h

theorem State.putServed_memOk {a0 a1 a2 a3 a4 a5 a6} :
    MemOk a0 (State.putServed a0 a1 a2 a3 a4 a5 a6) := by
  unfold State.putServed; refine holds_ite ?_ ?_; refine MemOk.step ?_ State.mergeLine_memOk; exact .refl _
  extract_lets +onlyGivenNames x3; (try clear_value x3); extract_lets +onlyGivenNames x4; (try clear_value x4)
  refine holds_ite ?_ ?_; refine MemOk.step ?_ State.mergeLine_memOk; exact .refl _; extract_lets +onlyGivenNames x8
  (try clear_value x8); extract_lets +onlyGivenNames x9; refine (fun (h9 : MemOk a0 x9) => ?_) ?_
  (try clear_value x9); refine holds_ite ?_ ?_; exact h9; refine MemOk.step ?_ State.mergeLine_memOk; exact h9
  unfold x9; refine holds_ite ?_ ?_; exact .refl _; refine MemOk.step ?_ State.mergeLine_memOk; exact .refl _

theorem State.restart_memOk {a0} :
    MemOk a0 (State.restart a0) := fun _ => rfl

theorem State.restoreSteps_memOk {a0 a1 a2} :
    MemOk a0 (State.restoreSteps a0 a1 a2) := by
  unfold State.restoreSteps; split; exact .refl _; extract_lets +onlyGivenNames x0; (try clear_value x0)
  refine holds_ite ?_ ?_; exact .refl _; extract_lets +onlyGivenNames x1; refine (fun (h1 : MemOk a0 x1) => ?_) ?_
  (try clear_value x1); extract_lets +onlyGivenNames x2; refine (fun (h2 : MemOk a0 x2) => ?_) ?_
  (try clear_value x2); extract_lets +onlyGivenNames x3; refine (fun (h3 : MemOk a0 x3) => ?_) ?_
  (try clear_value x3); split; refine MemOk.step ?_ (State.moveFenced_memOk _ (by assumption)); exact h3
  refine MemOk.step ?_ (Only.memOk State.failJob_only); exact h3; unfold x3; split
  refine MemOk.step ?_ (Only.memOk State.setJob_only); exact h2; exact h2; unfold x2
  refine holds_foldl ?_ fun x4 a4_ h4 => ?_; exact h1; refine MemOk.step ?_ (Only.memOk State.discardStep_only)
  exact h4; unfold x1; refine holds_foldl ?_ fun x5 a5_ h5 => ?_; exact .refl _; refine holds_ite ?_ ?_; exact h5
  refine MemOk.step ?_ (Only.memOk State.sendAborts_only); exact h5

theorem State.runCommand_memOk {r a0 : State} {a1 a2 a3 : Nat} {a4 : State → Taken → State} (h : MemOk r a0)
    (k : ∀ x y, MemOk r x → MemOk r (a4 x y)) : MemOk r (State.runCommand a0 a1 a2 a3 a4) := by
  have h1 : MemOk r (a0.advance a1) := h.step State.advance_only.memOk
  unfold State.runCommand
  extract_lets x0
  split
  · exact h1
  · extract_lets j
    refine holds_ite h1 (holds_ite (((h1.step State.raise_only.memOk).step State.countRefusal_only.memOk).step
        State.finish_only.memOk)
      (holds_ite (k _ _ h1) (holds_ite (h1.step State.finish_only.memOk) ?_)))
    split
    · exact holds_ite (h1.step State.finish_only.memOk) (k _ _ h1)
    · exact h1

theorem State.testDevice_memOk {a0 a1} :
    MemOk a0 (State.testDevice a0 a1) := by
  unfold State.testDevice
  extract_lets s0 s1
  have h : MemOk a0 s1 := fun _ => rfl
  clear_value s1
  exact ((h.step State.testStalls_only.memOk).step State.trainBridges_only.memOk).step State.trainStacks_only.memOk

theorem State.selftest_memOk {a0 a1 a2 a3} :
    MemOk a0 (State.selftest a0 a1 a2 a3) := by
  unfold State.selftest; refine MemOk.step ?_ (Only.memOk State.finish_only); refine holds_ite ?_ ?_
  refine MemOk.step ?_ State.testDevice_memOk; exact .refl _; refine MemOk.step ?_ (Only.memOk State.testStalls_only)
  exact .refl _

theorem State.startTest_memOk {a0 a1 a2 a3} :
    MemOk a0 (State.startTest a0 a1 a2 a3) := by
  unfold State.startTest; refine holds_ite ?_ ?_; refine MemOk.step ?_ (Only.memOk State.refuse_only); exact .refl _
  refine holds_ite ?_ ?_; refine MemOk.step ?_ State.selftest_memOk; exact .refl _; refine holds_ite ?_ ?_
  refine MemOk.step ?_ (Only.memOk State.markStarted_only); refine MemOk.upd ?_; exact .refl _
  refine MemOk.step ?_ (Only.memOk State.finish_only); exact .refl _

theorem State.takeFrame_memOk {a0 a1 a2 a3 a4 a5 a6 a7 a8 a9} :
    MemOk a0 (State.takeFrame a0 a1 a2 a3 a4 a5 a6 a7 a8 a9) := by
  unfold State.takeFrame; extract_lets +onlyGivenNames x0; (try clear_value x0); extract_lets +onlyGivenNames x1
  (try clear_value x1); extract_lets +onlyGivenNames x2; refine (fun (h2 : MemOk a0 x2) => ?_) ?_
  (try clear_value x2); extract_lets +onlyGivenNames x3; (try clear_value x3); refine holds_ite ?_ ?_
  refine MemOk.step ?_ (Only.memOk State.count_only); exact h2; refine holds_ite ?_ ?_
  refine MemOk.step ?_ (Only.memOk State.raise_only); exact h2; extract_lets +onlyGivenNames x4
  refine (fun (h4 : MemOk a0 x4) => ?_) ?_; (try clear_value x4); refine holds_ite ?_ ?_
  refine MemOk.step ?_ State.egress_memOk; exact h4; refine MemOk.step ?_ (Only.memOk State.contribute_only); exact h4
  unfold x4; refine MemOk.step ?_ (Only.memOk State.setHub_only); exact h2; unfold x2
  refine MemOk.step ?_ (Only.memOk State.count_only); exact .refl _

theorem State.takeWcopy_memOk {a0 a1 a2 a3 a4 a5 a6 a7 a8} :
    MemOk a0 (State.takeWcopy a0 a1 a2 a3 a4 a5 a6 a7 a8) := by
  unfold State.takeWcopy; extract_lets +onlyGivenNames x0; (try clear_value x0); extract_lets +onlyGivenNames x1
  (try clear_value x1); extract_lets +onlyGivenNames x2; refine (fun (h2 : MemOk a0 x2) => ?_) ?_
  (try clear_value x2); refine holds_ite ?_ ?_; refine MemOk.step ?_ (Only.memOk State.raise_only); exact h2
  extract_lets +onlyGivenNames x3; (try clear_value x3); extract_lets +onlyGivenNames x4
  refine (fun (h4 : MemOk a0 x4) => ?_) ?_; (try clear_value x4); extract_lets +onlyGivenNames x5
  refine (fun (h5 : MemOk a0 x5) => ?_) ?_; (try clear_value x5); extract_lets +onlyGivenNames x6
  refine (fun (h6 : MemOk a0 x6) => ?_) ?_; (try clear_value x6); refine MemOk.step ?_ (Only.memOk State.count_only)
  exact h6; unfold x6; refine MemOk.step ?_ (Only.memOk State.setPending_only); exact h5; unfold x5
  refine holds_ite ?_ ?_; refine MemOk.step ?_ State.unitWrite_memOk; exact h4; exact h4; unfold x4
  refine MemOk.step ?_ State.unitWrite_memOk; exact h2; unfold x2; refine MemOk.step ?_ (Only.memOk State.setHub_only)
  exact .refl _

theorem State.writeUpdate_memOk {a0 a1 a2 a3 a4 a5 a6 a7 a8 a9} :
    MemOk a0 (State.writeUpdate a0 a1 a2 a3 a4 a5 a6 a7 a8 a9) := by
  unfold State.writeUpdate; extract_lets +onlyGivenNames x0; (try clear_value x0); extract_lets +onlyGivenNames x1
  (try clear_value x1); extract_lets +onlyGivenNames x2; (try clear_value x2); extract_lets +onlyGivenNames x3
  (try clear_value x3); extract_lets +onlyGivenNames x4; (try clear_value x4); extract_lets +onlyGivenNames x5
  (try clear_value x5); extract_lets +onlyGivenNames x6; refine (fun (h6 : MemOk a0 x6) => ?_) ?_
  (try clear_value x6); extract_lets +onlyGivenNames x7; refine (fun (h7 : MemOk a0 x7) => ?_) ?_
  (try clear_value x7); extract_lets +onlyGivenNames x8; (try clear_value x8); extract_lets +onlyGivenNames x9
  refine (fun (h9 : MemOk a0 x9) => ?_) ?_; (try clear_value x9)
  refine MemOk.step ?_ (Only.memOk State.sendWcopy_only); exact h9; unfold x9
  refine MemOk.step ?_ (Only.memOk State.count_only); refine MemOk.step ?_ (Only.memOk State.count_only)
  refine MemOk.step ?_ (Only.memOk State.count_only); exact h7; unfold x7
  refine MemOk.step ?_ (Only.memOk State.addSeal_only); refine MemOk.step ?_ (Only.memOk State.setPending_only)
  exact h6; unfold x6; refine holds_foldl ?_ fun x10 a10_ h10 => ?_; exact .refl _
  refine MemOk.step ?_ State.unitWrite_memOk; exact h10

theorem State.updateBlock_memOk {a0 a1 a2 a3 a4 a5 a6 a7 a8 a9} :
    MemOk a0 (State.updateBlock a0 a1 a2 a3 a4 a5 a6 a7 a8 a9) := by
  have ite' {r : State} {c : Prop} [Decidable c] {x y : StateRead} (hx : MemOk r x.s) (hy : MemOk r y.s) :
      MemOk r (if c then x else y).s := by split <;> assumption
  unfold State.updateBlock
  extract_lets x0 x1 x2 x3 x4 x5 x6 x7 x8 x9 x10 x11 x12 x13 x14 x15
  have h5 : MemOk a0 x5 := (MemOk.step (.refl _) State.setHub_only.memOk).step State.charge_only.memOk
  have h6 : MemOk a0 x6 := by
    unfold x6
    split
    · exact h5.step State.readStats_only.memOk
    · exact h5
  have h8 : MemOk a0 x8.s := MemOk.step h6 (StateRead.plane_only (x := x6.startRead a1 a4 a5 a3) (.refl _)).memOk
  have h9 : MemOk a0 x9.s := ite' h8 (MemOk.step h8 (StateRead.plane_only (x := { x8 with bytes := [] }) (.refl _)).memOk)
  have h10 : MemOk a0 x10.s := ite' h9 (MemOk.step h9 (StateRead.plane_only (x := { x9 with bytes := [] }) (.refl _)).memOk)
  have h11 : MemOk a0 x11 := MemOk.step (MemOk.step h10 (StateRead.done_only (.refl _)).memOk) State.count_only.memOk
  have h15 : MemOk a0 x15 :=
    holds_ite ((h11.step State.refuseBlock_only.memOk).step State.sendWcopy_only.memOk)
      (h11.step State.writeUpdate_memOk)
  clear_value x15 x7 x14 x12
  split
  · exact h15.step State.factNext_memOk
  · exact h15

theorem State.writeBlock_memOk {a0 a1 a2 a3} :
    MemOk a0 (State.writeBlock a0 a1 a2 a3) := by
  unfold State.writeBlock; extract_lets +onlyGivenNames x0; (try clear_value x0); extract_lets +onlyGivenNames x1
  refine (fun (h1 : MemOk a0 x1) => ?_) ?_; (try clear_value x1); refine holds_ite ?_ ?_; exact h1
  refine MemOk.step ?_ (Only.memOk State.chargeBlock_only); exact h1; unfold x1
  refine MemOk.step ?_ (Only.memOk State.chargeBlock_only); refine MemOk.step ?_ State.putServed_memOk; exact .refl _

theorem State.writeHbm_memOk {a0 a1 a2 a3 a4 a5 a6} :
    MemOk a0 (State.writeHbm a0 a1 a2 a3 a4 a5 a6) := by
  unfold State.writeHbm; extract_lets +onlyGivenNames x0; (try clear_value x0); extract_lets +onlyGivenNames x1
  (try clear_value x1); extract_lets +onlyGivenNames x2; (try clear_value x2); extract_lets +onlyGivenNames x3
  (try clear_value x3); extract_lets +onlyGivenNames x4; refine (fun (h4 : MemOk a0 x4) => ?_) ?_
  (try clear_value x4); extract_lets +onlyGivenNames x5; refine (fun (h5 : MemOk a0 x5) => ?_) ?_
  (try clear_value x5); extract_lets +onlyGivenNames x6; refine (fun (h6 : Fst (MemOk a0) x6) => ?_) ?_
  (try clear_value x6); extract_lets +onlyGivenNames x7; refine (fun (h7 : MemOk a0 x7) => ?_) ?_
  (try clear_value x7); refine MemOk.step ?_ (Only.memOk State.respond_only)
  refine MemOk.step ?_ (Only.memOk State.charge_only); exact h7; unfold x7; refine holds_ite ?_ ?_; exact .refl _
  refine holds_ite ?_ ?_; refine MemOk.step ?_ (Only.memOk State.raise_only); exact h6
  refine MemOk.step ?_ (Only.memOk State.staleWrite_only); refine MemOk.step ?_ State.putServed_memOk; exact h6
  unfold x6; refine MemOk.stepFst ?_ (Only.memOk State.writeFails_only); exact h5; unfold x5
  refine MemOk.step ?_ (Only.memOk State.countHbm_only); exact h4; unfold x4; refine holds_ite ?_ ?_
  refine MemOk.step ?_ (Only.memOk State.countHbm_only); refine MemOk.step ?_ (Only.memOk State.countHbm_only)
  refine MemOk.step ?_ (Only.memOk State.countHbm_only); exact .refl _; exact .refl _

theorem execHbmBlockWrite_memOk {a0 a1 a2 a3 a4 a5} :
    Nxt (MemOk a5) (execHbmBlockWrite a0 a1 a2 a3 a4 a5) := by
  unfold execHbmBlockWrite; extract_lets +onlyGivenNames x0; refine (fun (h0 : MemOk a5 x0) => ?_) ?_
  (try clear_value x0); refine .ofNext ?_; refine State.on_memOk ?_ ?_; exact h0; split; exact h0; split; exact h0
  extract_lets +onlyGivenNames x1; (try clear_value x1); refine holds_ite ?_ ?_; exact h0; refine holds_ite ?_ ?_
  extract_lets +onlyGivenNames x2; refine (fun (h2 : MemOk a5 x2) => ?_) ?_; (try clear_value x2)
  refine MemOk.step ?_ (Only.memOk State.raise_only); exact h2; unfold x2
  refine MemOk.step ?_ (Only.memOk State.dropTag_only); refine MemOk.step ?_ (Only.memOk State.writeFails_only)
  exact h0; extract_lets +onlyGivenNames x3; refine (fun (h3 : MemOk a5 x3) => ?_) ?_; (try clear_value x3)
  refine MemOk.step ?_ (Only.memOk State.onStall_only); exact h3; unfold x3
  refine MemOk.step ?_ State.writeBlock_memOk; refine MemOk.step ?_ (Only.memOk State.writeFails_only); exact h0
  unfold x0; refine State.on_memOk ?_ ?_; exact .refl _; refine MemOk.step ?_ (Only.memOk State.touch_only)
  refine MemOk.step ?_ (Only.memOk State.advance_only); exact .refl _

theorem execGradientFrameArrival_memOk {a0 a1 a2 a3 a4} :
    Nxt (MemOk a4) (execGradientFrameArrival a0 a1 a2 a3 a4) := by
  unfold execGradientFrameArrival; extract_lets +onlyGivenNames x0; refine (fun (h0 : MemOk a4 x0) => ?_) ?_
  (try clear_value x0); refine .ofNext ?_; refine State.on_memOk ?_ ?_; exact h0; split; exact h0; split; exact h0
  refine holds_ite ?_ ?_; exact h0; extract_lets +onlyGivenNames x1; (try clear_value x1)
  extract_lets +onlyGivenNames x2; (try clear_value x2); extract_lets +onlyGivenNames x3; (try clear_value x3); split
  refine MemOk.step ?_ (Only.memOk State.ackFrame_only); refine MemOk.step ?_ (Only.memOk State.orphan_only); exact h0
  refine holds_ite ?_ ?_; exact h0; refine MemOk.step ?_ (Only.memOk State.ackFrame_only)
  refine MemOk.step ?_ State.takeFrame_memOk; exact h0; unfold x0; refine State.on_memOk ?_ ?_; exact .refl _
  refine MemOk.step ?_ (Only.memOk State.touch_only); refine MemOk.step ?_ (Only.memOk State.advance_only)
  exact .refl _

theorem execTensorBlockUpdate_memOk {a0 a1 a2 a3 a4} :
    Nxt (MemOk a4) (execTensorBlockUpdate a0 a1 a2 a3 a4) := by
  unfold execTensorBlockUpdate; extract_lets +onlyGivenNames x0; refine (fun (h0 : MemOk a4 x0) => ?_) ?_
  (try clear_value x0); refine .ofNext ?_; refine State.on_memOk ?_ ?_; exact h0; split; exact h0
  extract_lets +onlyGivenNames x1; (try clear_value x1); extract_lets +onlyGivenNames x2; (try clear_value x2)
  extract_lets +onlyGivenNames x3; (try clear_value x3); extract_lets +onlyGivenNames x4; (try clear_value x4)
  refine holds_ite ?_ ?_; exact h0; split; exact h0; refine MemOk.step ?_ State.updateBlock_memOk; exact h0; unfold x0
  refine MemOk.step ?_ (Only.memOk State.advance_only); exact .refl _

theorem execWcopyMessageReceive_memOk {a0 a1 a2} :
    Nxt (MemOk a2) (execWcopyMessageReceive a0 a1 a2) := by
  unfold execWcopyMessageReceive; extract_lets +onlyGivenNames x0; refine (fun (h0 : MemOk a2 x0) => ?_) ?_
  (try clear_value x0); refine .ofNext ?_; refine State.on_memOk ?_ ?_; exact h0; split; exact h0
  extract_lets +onlyGivenNames x1; (try clear_value x1); extract_lets +onlyGivenNames x2; (try clear_value x2); split
  refine MemOk.step ?_ (Only.memOk State.oweMail_only)
  refine MemOk.step ?_ (Only.memOk (State.takeLocal_only _ (by assumption))); exact h0; split
  refine MemOk.step ?_ (Only.memOk State.oweMail_only)
  refine MemOk.step ?_ (Only.memOk (State.takeLocal_only _ (by assumption))); exact h0
  extract_lets +onlyGivenNames x3; (try clear_value x3); extract_lets +onlyGivenNames x4; (try clear_value x4)
  refine holds_ite ?_ ?_; refine MemOk.step ?_ (Only.memOk State.oweMail_only)
  refine MemOk.step ?_ (Only.memOk (State.takeLocal_only _ (by assumption))); exact h0; refine holds_ite ?_ ?_
  exact h0; extract_lets +onlyGivenNames x5; (try clear_value x5); extract_lets +onlyGivenNames x6
  refine (fun (h6 : MemOk a2 x6) => ?_) ?_; (try clear_value x6); refine MemOk.step ?_ (Only.memOk State.oweMail_only)
  exact h6; unfold x6; refine holds_foldl ?_ fun x7 a7_ h7 => ?_
  refine MemOk.step ?_ (Only.memOk (State.takeLocal_only _ (by assumption))); exact h0
  refine MemOk.step ?_ State.takeWcopy_memOk; exact h7; unfold x0
  refine MemOk.step ?_ (Only.memOk State.advance_only); exact .refl _

theorem execJobLoad_memOk {a0 a1 a2 a3 a4 a5} :
    Nxt (MemOk a5) (execJobLoad a0 a1 a2 a3 a4 a5) := by
  unfold execJobLoad; refine .ofNext ?_; refine State.on_memOk ?_ ?_; exact .refl _
  refine State.runCommand_memOk ?_ fun x3 y3 h3 => ?_; exact .refl _; split; refine MemOk.step ?_ State.jobLoad_memOk
  exact h3; exact h3

theorem execJobMap_memOk {a0 a1 a2 a3 a4} :
    Nxt (MemOk a4) (execJobMap a0 a1 a2 a3 a4) := by
  unfold execJobMap; refine .ofNext ?_; refine State.on_memOk ?_ ?_; exact .refl _
  refine State.runCommand_memOk ?_ fun x3 y3 h3 => ?_; exact .refl _; split; refine MemOk.step ?_ State.jobMap_memOk
  exact h3; exact h3

theorem execSelftest_memOk {a0 a1 a2 a3} :
    Nxt (MemOk a3) (execSelftest a0 a1 a2 a3) := by
  unfold execSelftest; refine .ofNext ?_; refine State.on_memOk ?_ ?_; exact .refl _
  refine State.runCommand_memOk ?_ fun x3 y3 h3 => ?_; exact .refl _; refine holds_ite ?_ ?_; exact h3
  refine MemOk.step ?_ State.startTest_memOk; exact h3

theorem execSelftestQueuedStart_memOk {a0 a1 a2 a3} :
    Nxt (MemOk a3) (execSelftestQueuedStart a0 a1 a2 a3) := by
  unfold execSelftestQueuedStart; refine .ofNext ?_; refine State.on_memOk ?_ ?_; exact .refl _
  refine State.runCommand_memOk ?_ fun x3 y3 h3 => ?_; exact .refl _; refine holds_ite ?_ ?_
  refine MemOk.step ?_ State.selftest_memOk; exact h3; exact h3

theorem execPitchMove_memOk {a0 a1 a2 a3 a4 a5 a6 a7} :
    Nxt (MemOk a7) (execPitchMove a0 a1 a2 a3 a4 a5 a6 a7) := by
  unfold execPitchMove; extract_lets +onlyGivenNames x0; refine (fun (h0 : MemOk a7 x0) => ?_) ?_
  (try clear_value x0); refine .ofNext ?_; refine State.onClerk_memOk ?_ ?_; exact h0; split; exact h0
  refine holds_ite ?_ ?_; refine MemOk.step ?_ (Only.memOk State.abortSteps_only); exact h0; refine holds_ite ?_ ?_
  exact h0; extract_lets +onlyGivenNames x1; (try clear_value x1); split
  refine MemOk.step ?_ (State.movePitch_memOk _ (by assumption)); exact h0; refine holds_ite ?_ ?_
  refine MemOk.step ?_ (Only.memOk State.failJob_only); exact h0; exact h0; unfold x0
  refine MemOk.step ?_ (Only.memOk State.advance_only); exact .refl _

theorem execStepRerunGo_memOk {a0 a1 a2 a3 a4} :
    Nxt (MemOk a4) (execStepRerunGo a0 a1 a2 a3 a4) := by
  unfold execStepRerunGo; extract_lets +onlyGivenNames x0; refine (fun (h0 : MemOk a4 x0) => ?_) ?_
  (try clear_value x0); refine .ofNext ?_; refine State.onClerk_memOk ?_ ?_; exact h0; split; exact h0
  refine holds_ite ?_ ?_; exact h0; refine MemOk.step ?_ (Only.memOk State.rerunStep_only)
  refine MemOk.step ?_ State.restoreSteps_memOk; exact h0; unfold x0
  refine MemOk.step ?_ (Only.memOk State.advance_only); exact .refl _

theorem execCompanionWrite_memOk {a0 a1 a2 a3} :
    Nxt (MemOk a3) (execCompanionWrite a0 a1 a2 a3) := by
  unfold execCompanionWrite; extract_lets +onlyGivenNames x0; refine (fun (h0 : MemOk a3 x0) => ?_) ?_
  (try clear_value x0); refine .ofNext ?_; refine State.on_memOk ?_ ?_; exact h0; split; exact h0
  refine holds_ite ?_ ?_; refine MemOk.step ?_ (Only.memOk State.writeWindow_only)
  refine MemOk.step ?_ (Only.memOk (State.takeSlot_only _ (by assumption))); exact h0; split
  refine MemOk.step ?_ State.writeHbm_memOk; refine MemOk.step ?_ (Only.memOk (State.takeSlot_only _ (by assumption)))
  exact h0; refine MemOk.step ?_ (Only.memOk State.refuseAccess_only)
  refine MemOk.step ?_ (Only.memOk (State.takeSlot_only _ (by assumption))); exact h0; unfold x0
  refine MemOk.step ?_ (Only.memOk State.advance_only); exact .refl _

theorem execResetNAssert_memOk {a0} :
    Nxt (MemOk a0) (execResetNAssert a0) := by
  unfold execResetNAssert; refine .ofNext ?_; refine holds_ite ?_ ?_; exact .refl _
  refine MemOk.step ?_ State.restart_memOk; refine MemOk.upd ?_; exact .refl _

theorem execPwrGoodFall_memOk {a0} :
    Nxt (MemOk a0) (execPwrGoodFall a0) := by
  unfold execPwrGoodFall; refine .ofNext ?_; refine holds_ite ?_ ?_; exact .refl _
  refine MemOk.step ?_ State.restart_memOk; refine MemOk.upd ?_; exact .refl _

theorem execOpeningInspectionDone_memOk {a0 a1} :
    Nxt (MemOk a1) (execOpeningInspectionDone a0 a1) := by
  unfold execOpeningInspectionDone; refine .ofNext ?_; refine State.on_memOk ?_ ?_; exact .refl _
  extract_lets +onlyGivenNames x0; refine (fun (h0 : MemOk a1 x0) => ?_) ?_; (try clear_value x0)
  refine holds_ite ?_ ?_; exact h0; extract_lets +onlyGivenNames x1; (try clear_value x1)
  extract_lets +onlyGivenNames x2; refine (fun (h2 : MemOk a1 x2) => ?_) ?_; (try clear_value x2)
  extract_lets +onlyGivenNames x3; refine (fun (h3 : MemOk a1 x3) => ?_) ?_; (try clear_value x3)
  refine holds_ite ?_ ?_; exact h3; extract_lets +onlyGivenNames x4; refine (fun (h4 : MemOk a1 x4) => ?_) ?_
  (try clear_value x4); extract_lets +onlyGivenNames x5; (try clear_value x5); refine MemOk.upd ?_; exact h4
  unfold x4; refine MemOk.step ?_ (Only.memOk State.advanceFuse_only); exact h3; unfold x3
  refine MemOk.step ?_ (Only.memOk State.placeTable_only); refine MemOk.step ?_ (Only.memOk State.chooseClerk_only)
  refine MemOk.step ?_ State.testDevice_memOk; exact h2; unfold x2; refine MemOk.upd ?_; exact h0; unfold x0
  refine MemOk.step ?_ (Only.memOk State.verifyImage_only); exact .refl _

theorem execVioFall_memOk {a0} :
    Nxt (MemOk a0) (execVioFall a0) := by
  unfold execVioFall; refine .ofNext ?_; refine MemOk.step ?_ State.restart_memOk; refine MemOk.upd ?_; exact .refl _

end Sys2Proof.Machine
end

