-- ==== Sys2Proof/Laws/Links.lean ====
section
/-! SUPPORT. What slots on their way leave of the half-ports: no half-port changes its state. -/

set_option Elab.async false
namespace Sys2Proof.Machine

/-- Every half-port is in the state it was in. -/
def SameLinks (s t : State) : Prop := ∀ k, (t.half k).state = (s.half k).state

theorem SameLinks.refl (s : State) : SameLinks s s := fun _ => rfl
theorem SameLinks.trans {r s t : State} (h : SameLinks r s) (k : SameLinks s t) : SameLinks r t := fun x => (k x).trans (h x)

theorem SameLinks.of {s t : State} (h : t.halves = s.halves) : SameLinks s t := fun k => by unfold State.half; rw [h]

theorem SameLinks.set {s : State} {h : Nat} {v : Half} (e : v.state = (s.half h).state) : SameLinks s (s.setHalf h v) := fun k => by
  by_cases q : k = h
  · subst q; simp [e]
  · rw [State.half_setHalf_other _ _ q]

theorem State.putSlot_sameLinks {s : State} {t h : Nat} {x : Slot} : SameLinks s (s.putSlot t h x) := by
  unfold State.putSlot
  refine (SameLinks.set ?_).trans (.of rfl)
  split <;> rfl

theorem State.sendSlot_sameLinks {s : State} {h : Nat} {q : SlotReq} : SameLinks s (s.sendSlot h q) := .set rfl

theorem State.request_sameLinks {s : State} {h y a : Nat} {d : List Byte} : SameLinks s (s.request h y a d) :=
  State.sendSlot_sameLinks

theorem State.writeLines_sameLinks {s : State} {a : Nat} {d : List Byte} : SameLinks s (s.writeLines a d) :=
  holds_foldl (Q := SameLinks s) (.refl _) fun _ _ k => k.trans State.request_sameLinks

/-- A half-port that enters UP is UP; the others keep their state. -/
theorem State.enterHalf_state {s : State} {t h k : Nat} :
    ((s.enterHalf t h).half k).state = if k = h then 2 else (s.half k).state := by
  unfold State.enterHalf
  extract_lets f
  split
  · rename_i e; subst e; simp
  · rename_i e; rw [State.half_setHalf_other _ _ e]

end Sys2Proof.Machine
end

