-- ==== Sys2Proof/Laws/Pages.lean ====
section
/-! SUPPORT. Reading pages back: what putting a page and adding to a counter leave of registers (R415, R463). -/

set_option Elab.async false
namespace Sys2Proof.Machine

theorem State.page_setPage (s : State) (n : Nat) (p : Page) : (s.setPage n p).page n = p := by
  unfold State.setPage State.page
  split
  · simp
  · simp

theorem State.page_setPage_other (s : State) {m n : Nat} (p : Page) (h : m ≠ n) : (s.setPage n p).page m = s.page m := by
  unfold State.setPage State.page
  by_cases k : 0x1000 ≤ n ∧ n < 0x1600 <;> by_cases l : 0x1000 ≤ m ∧ m < 0x1600
  · have : m - 0x1000 ≠ n - 0x1000 := by omega
    simp [k, l, State.setStall, State.stall, sgetD_sset_other _ _ _ this]
  · simp [k, l, State.setStall]
  · simp only [Bool.and_eq_true, decide_eq_true_eq, k, l, if_false, State.stall]; rfl
  · simp [k, l, sgetD_sset_other _ _ _ h]

/-- Putting a page with the live words it had leaves every register. -/
theorem State.live_setPage {s : State} {n : Nat} {p : Page} (h : p.live = (s.page n).live) (q : PageTy) (i o : Nat) :
    (s.setPage n p).live q i o = s.live q i o := by
  have b : ∀ l, (s.setPage n p).unready q o l = s.unready q o l := fun l => by
    unfold State.unready State.setPage; split <;> rfl
  unfold State.live State.regWord
  by_cases e : pageNo q i = n
  · subst e; simp only [State.page_setPage, b, Page.word, h]
  · simp only [State.page_setPage_other s p e, b]

@[simp] theorem State.live_count (s : State) (n c k : Nat) (q : PageTy) (i o : Nat) : (s.count n c k).live q i o = s.live q i o := by
  unfold State.count; split
  · rfl
  · exact State.live_setPage (p := (s.page n).bump c k) (by unfold Page.bump; rfl) q i o

@[simp] theorem State.live_advance (s : State) (t : Nat) (q : PageTy) (i o : Nat) : (s.advance t).live q i o = s.live q i o := by
  unfold State.advance; split
  · rfl
  · dsimp only; split
    · rw [State.live_count]; rfl
    · rfl

/-- A counter's value after adding to it. -/
theorem State.counter_count (s : State) {p c n : Nat} (h : n ≠ 0) :
    ((s.count p c n).page p).counters = sput 0#64 (s.page p).counters c (satAdd64 ((s.page p).counter c) n) := by
  unfold State.count; rw [if_neg h, State.page_setPage]; rfl

@[simp] theorem State.live_emit (s : State) (o : Out) (q : PageTy) (i a : Nat) : (s.emit o).live q i a = s.live q i a := rfl

/-- The event log's own counting leaves registers. -/
@[simp] theorem State.live_traceRec (s : State) (ty : Nat) (b : List Byte) (q : PageTy) (i o : Nat) :
    (s.traceRec ty b).live q i o = s.live q i o := by
  unfold State.traceRec; dsimp only
  split
  · rfl
  · split
    · rw [State.live_count]; rfl
    · rw [State.live_emit, State.live_count]; rfl

theorem State.live_eq {s t : State} (h : t.pages = s.pages) (k : t.stalls = s.stalls) (b : t.boot = s.boot) (q : PageTy)
    (i o : Nat) : t.live q i o = s.live q i o := by
  unfold State.live State.regWord State.unready State.page State.stall; rw [h, k, b]

theorem State.live_only {s t : State} {W : List Part} (o : Only W s t) (q : PageTy) (i a : Nat)
    (h : (W.contains .pages || W.contains .stalls || W.contains .boot) = false := by decide) : t.live q i a = s.live q i a := by
  simp only [Bool.or_eq_false_iff] at h
  exact State.live_eq (o .pages h.1.1) (o .stalls h.1.2) (o .boot h.2) q i a

/-- Recording an event leaves every register. -/
@[simp] theorem State.live_record (s : State) (e : Ev) (q : PageTy) (i o : Nat) : (s.record e).live q i o = s.live q i o := by
  unfold State.record
  extract_lets r recs lost y s1 s2 s3 pg p s4 f
  have h : s4.live q i o = s.live q i o := by
    simp only [s4]
    refine (State.live_setPage (s := s3) (n := pg) (by rfl) q i o).trans ?_
    simp only [s3]
    split
    · rw [State.live_count]; simp only [s2]; rw [State.live_count]; rfl
    · simp only [s2]; rw [State.live_count]; rfl
  split
  · rw [State.live_traceRec, h]
  · exact h

end Sys2Proof.Machine
end

