-- ==== Sys2Proof/WellFormed.lean ====
section
/-! DEFINITION. Well-formed commands: every operand lies in the range that the manual gives its object (R6, R7, R109,
R206, R207, R228, R257, R298, R342, R366, R399, R427, R436). -/
namespace Sys2Proof

/-- A stall number. -/
def stallOk (n : Nat) : Bool := decide (n < 1536)

/-- A job slot, a porter tag or a lane of an aisle port (R335). -/
def eightOk (n : Nat) : Bool := decide (n < 8)

/-- A bank. -/
def bankOk (n : Nat) : Bool := decide (n < 128)

/-- A hub die, a LemefLink half-port or a store. -/
def fourOk (n : Nat) : Bool := decide (n < 4)

/-- An aisle port or a compute die. -/
def twelveOk (n : Nat) : Bool := decide (n < 12)

/-- A job or a lane. -/
def jobOk (n : Nat) : Bool := decide (n < 64)

/-- A register address: in the 64 MiB window (R431) and aligned. -/
def addrOk (a : Nat) : Bool := decide (a < 2 ^ 26) && a % 4 = 0

/-- An agent that reads and writes registers: the four Clerk cores, then the four half-ports (R15). -/
def agentOk (a : Nat) : Bool := decide (a < 8)

/-- Bytes of one length. -/
def bytesOk (n : Nat) (l : List Byte) : Bool := l.length = n

/-- A directed bridge channel: 21 joins, two directions, at most eight channels. -/
def chanOk (c : Nat) : Bool := decide (c < 336)

/-- A placement entry: pitch, logical stall, stall; a stall of the device at position p is numbered 2,048 × (p + 1)
higher (log entry 25). -/
def placeOk (q : Nat × Nat × Nat) : Bool :=
  decide (q.1 < 256) && decide (q.2.1 < 65536) && stallOk (q.2.2 % 2048) && decide (q.2.2 < 2048 * 65)

/-- A doorline and the descriptors read for it. -/
def doorOk (door : List Byte) (descs : List (List Byte)) : Bool := bytesOk 64 door && descs.all (bytesOk 128)

/-- Findings of an inspection name stalls, channels of the 21 bridges, stacks, dies and hubs. -/
def foundOk (f : Inspection) : Bool :=
  f.repair.all (fun q => stallOk q.1 && bankOk q.2.1 && decide (q.2.2 < 256)) && f.scan.all stallOk
    && f.spares.all (fun q => stallOk q.1 && bankOk q.2.1 && decide (q.2.2.length ≤ 4) && q.2.2.all fun r => decide (r < 256)) && f.channels.all (fun c => decide (c < 168)) && f.downStacks.all (fun m => decide (m < 16))
    && f.halls.all twelveOk && f.clerks.all fourOk

/-- Is a command well formed? -/
def Instr.wf : Instr → Bool
  | .pllLock => true
  | .roundBoundary => true
  | .powerFrameUpdate m => m.rails.length = 7 && m.dies.length = 16
  | .syncPeriodBoundary => true
  | .bellsyncPulseCheck _ => true
  | .timeMarkReceive _ p _ _ => twelveOk p
  | .syncWindowExpiry => true
  | .bellrefLoss _ => true
  | .pllRelock _ => true
  | .acquire _ _ => true
  | .kupReport _ => true
  | .kupReceive _ p _ _ => twelveOk p
  | .kmasterIntake => true
  | .kdownReceive _ p _ _ => twelveOk p
  | .streamChunkArrival _ sn k _ raw _ => stallOk sn && eightOk k && bytesOk 4096 raw
  | .ldw sn k => stallOk sn && eightOk k
  | .mma sn k => stallOk sn && eightOk k
  | .vop sn k => stallOk sn && eightOk k
  | .vred sn k => stallOk sn && eightOk k
  | .vnormStat sn k => stallOk sn && eightOk k
  | .vnormApply sn k => stallOk sn && eightOk k
  | .vsmaxStat sn k => stallOk sn && eightOk k
  | .vsmaxApply sn k => stallOk sn && eightOk k
  | .vsfn sn k => stallOk sn && eightOk k
  | .pack sn k => stallOk sn && eightOk k
  | .unpack sn k => stallOk sn && eightOk k
  | .groupidx sn k => stallOk sn && eightOk k
  | .get sn k => stallOk sn && eightOk k
  | .put sn k => stallOk sn && eightOk k
  | .gather sn k => stallOk sn && eightOk k
  | .ahead sn k => stallOk sn && eightOk k
  | .send sn k => stallOk sn && eightOk k
  | .bulk sn k => stallOk sn && eightOk k
  | .grant sn k => stallOk sn && eightOk k
  | .checkcmp sn k => stallOk sn && eightOk k
  | .waitw sn k _ => stallOk sn && eightOk k
  | .stepEnd sn k _ => stallOk sn && eightOk k
  | .wordCompletion sn _ => stallOk sn
  | .hbmBlockArrival _ sn tag _ _ => stallOk sn && eightOk tag
  | .porterTransferComplete _ sn tag => stallOk sn && eightOk tag
  | .hbmBlockWrite _ sn tag _ n => stallOk sn && eightOk tag && decide (n ≤ 8)
  | .porterTagTimeout sn tag => stallOk sn && eightOk tag
  | .pageFaultTagRelease _ sn tag => stallOk sn && eightOk tag
  | .porterStarveTimer _ sn tag => stallOk sn && eightOk tag
  | .aheadBlockArrival _ h j b => fourOk h && jobOk j && b.pa % 64 = 0
  | .stealerPortGrant _ sn b => stallOk sn && bankOk b.bank && b.upsets.all fun q => decide (q.1 < 128)
  | .scrubComplete _ sn b => stallOk sn && bankOk b
  | .bankWakeComplete _ sn b => stallOk sn && bankOk b
  | .storeTestRegion _ sn st e f => stallOk sn && fourOk st && e.all (fun q => eightOk q.1) && f.all eightOk
  | .msgFlit0Arrival _ sn m => stallOk sn && decide (m.words.length ≤ 63)
  | .msgLastFlitArrival _ sn _ _ _ _ => stallOk sn
  | .msgTruncationTimeout _ sn _ n => stallOk sn && decide (n ≤ 63)
  | .bridgeFlitReceive _ c f rx => chanOk c && bytesOk 88 f && bytesOk 88 rx.bytes
  | .bridgeNakReceive _ c q => chanOk c && decide (q < 256)
  | .arbCycleDecision _ a o _ _ _ => decide (a < 1618) && decide (o < 128)
  | .stepCtrlGo _ sn _ => stallOk sn
  | .stepCtrlAbort _ sn _ => stallOk sn
  | .stepDrainEnd _ sn k => stallOk sn && eightOk k
  | .ringPtrWrite _ sn r _ => stallOk sn && decide (r < 16)
  | .checkValWrite _ sn _ => stallOk sn
  | .rerunArm _ d _ => twelveOk d
  | .xlateInval _ h _ => fourOk h
  | .commit _ a p _ => agentOk a && decide (p < 0x1600)
  | .grpStepWrite _ _ => true
  | .ledgerSnap _ a j => agentOk a && jobOk j
  | .ledgerRelease _ a j => agentOk a && jobOk j
  | .aisleRetrain _ p _ => twelveOk p
  | .bootGo _ a _ => agentOk a
  | .ringCtrlEnable _ a _ => agentOk a
  | .registerWrite _ a ad _ => agentOk a && addrOk ad
  | .lowWordRead _ a ad => agentOk a && addrOk ad
  | .rcFieldRead _ a ad => agentOk a && addrOk ad
  | .gradientFrameArrival _ sn tag _ => stallOk sn && eightOk tag
  | .gradMessageReceive _ p => twelveOk p
  | .tensorBlockUpdate _ g _ _ => jobOk g
  | .wcopyMessageReceive _ p => twelveOk p.port
  | .scheduleCompute j => jobOk j
  | .stepClose _ j => jobOk j.job
  | .flagWordSend j => jobOk j
  | .flagWordReceive _ p => twelveOk p
  | .guardArm _ j _ => jobOk j
  | .guardPeerDeadline j => jobOk j
  | .aisleFlitReceive _ p b => twelveOk p && bytesOk 256 b
  | .aisleMessageReceive _ p => twelveOk p
  | .aisleAckTimeout _ p => twelveOk p
  | .aisleNakRepeat _ p => twelveOk p
  | .aisleLaneLockLoss _ p l => twelveOk p && eightOk l
  | .aisleLinkTimeout _ p => twelveOk p
  | .aisleLanesLocked _ p => twelveOk p
  | .identReceive _ p b => twelveOk p && bytesOk 256 b
  | .creditRevoke _ p => decide (p < 16)
  | .sealReceive _ p => twelveOk p
  | .sealTableReceive _ j _ _ => jobOk j
  | .sealTableTimeout _ j => jobOk j
  | .abortReceive _ p => twelveOk p
  | .doorlineInval _ h d ds => fourOk h && doorOk d ds
  | .doorlinePoll _ d ds => doorOk d ds
  | .jobOpen _ _ _ _ pl => pl.all placeOk
  | .jobLoad _ _ _ _ _ => true
  | .jobMap _ _ _ _ => true
  | .stepRun _ _ _ => true
  | .stepAbort _ _ => true
  | .jobClose _ _ => true
  | .jobSuspend _ _ => true
  | .jobResume _ _ => true
  | .selftest _ _ f => foundOk f
  | .selftestQueuedStart _ _ f => foundOk f
  | .fenceStall _ _ => true
  | .unfenceStall _ _ f => foundOk f
  | .setPolicy _ _ => true
  | .twinBind _ _ => true
  | .echo _ _ => true
  | .summary _ _ => true
  | .deadlineTimer j => jobOk j
  | .ledgerReconcile _ _ i => i.rest != 0
  | .pitchMove _ j p _ sts _ ph => jobOk j && decide (p < 256) && sts.all stallOk && jobOk ph
  | .preemptResume _ j => jobOk j
  | .stepWatchdogExpiry _ j => jobOk j
  | .stepRerunGo _ j _ _ => jobOk j
  | .engineBusyExpiry _ sn _ => stallOk sn
  | .clerkWatchdogExpiry _ h => fourOk h
  | .companionLossTimeout _ => true
  | .statusHeartbeat => true
  | .companionRead _ h _ => fourOk h
  | .companionWrite _ h x => fourOk h && decide (x.fails ≤ 8)
  | .inval _ h => fourOk h
  | .lemefHalfLost _ h => fourOk h
  | .lemefTrained => true
  | .resetNRelease _ => true
  | .resetNAssert => true
  | .pwrGoodFall => true
  | .pwrGoodRise => true
  | .bootTakeover => true
  | .imageFetchComplete _ _ => true
  | .openingInspectionDone f => foundOk f
  | .thermtrip => true
  | .smbusRead _ _ => true
  | .tapInstruction _ => true
  | .traceCounterSnapshot => true
  | .lemefSlotReceive _ h b => fourOk h && bytesOk 96 b
  | .lemefAckTimeout _ h => fourOk h
  | .lemefRetrain _ h => fourOk h
  | .bridgeChannelRetrain _ c => chanOk c
  | .clerkResumesService _ => true
  | .vioRise => true
  | .vioFall => true
  | .setPolicySyncTimeout _ => true

end Sys2Proof
end

