-- ==== Sys2Proof/Tests/Slice0.lean ====
section
/-! SUPPORT. Tests: an ill-formed command for each check of well-formedness, states that meet the hypotheses of the statements
(one theorem `witness_…` for each statement with hypotheses), and small tests whose expected results are the manual's. -/

set_option Elab.async false
namespace Sys2Proof.Machine

/-! ### Well-formedness: each check refuses a term -/

theorem test_wf_rails : (Instr.powerFrameUpdate ⟨0, 0, [0, 0, 0, 0, 0, 0], List.replicate 16 0⟩).wf = false := by decide
theorem test_wf_dies : (Instr.powerFrameUpdate ⟨0, 0, List.replicate 7 0, [0]⟩).wf = false := by decide
theorem test_wf_port : (Instr.timeMarkReceive 0 12 0#64 0#32).wf = false := by decide
theorem test_wf_stall : (Instr.ldw 1536 0).wf = false := by decide
theorem test_wf_slot : (Instr.ldw 0 8).wf = false := by decide
theorem test_wf_chunk_bytes : (Instr.streamChunkArrival 0 0 0 .mx [] []).wf = false := by decide
theorem test_wf_tag : (Instr.porterTagTimeout 0 8).wf = false := by decide
theorem test_wf_attempts : (Instr.hbmBlockWrite 0 0 0 0 9).wf = false := by decide
theorem test_wf_hub : (Instr.aheadBlockArrival 0 4 0 ⟨0, false⟩).wf = false := by decide
theorem test_wf_job : (Instr.aheadBlockArrival 0 0 64 ⟨0, false⟩).wf = false := by decide
theorem test_wf_block_address : (Instr.aheadBlockArrival 0 0 0 ⟨32, false⟩).wf = false := by decide
theorem test_wf_bank : (Instr.scrubComplete 0 0 128).wf = false := by decide
theorem test_wf_store : (Instr.storeTestRegion 0 0 4 [] []).wf = false := by decide
theorem test_wf_row_find : (Instr.storeTestRegion 0 0 0 [(8, false)] []).wf = false := by decide
theorem test_wf_payload : (Instr.msgFlit0Arrival 0 0 ⟨0#128, List.replicate 64 (0, 0#512)⟩).wf = false := by decide
theorem test_wf_upset : (Instr.stealerPortGrant 0 0 ⟨0, [(128, true)]⟩).wf = false := by decide
theorem test_wf_merge_tries : (Instr.companionWrite 0 0 ⟨⟨false, false⟩, 9⟩).wf = false := by decide
theorem test_wf_revoked_port : (Instr.creditRevoke 0 16).wf = false := by decide
theorem test_wf_channel : (Instr.bridgeChannelRetrain 0 336).wf = false := by decide
theorem test_wf_flit_bytes : (Instr.bridgeFlitReceive 0 0 [] ⟨List.replicate 88 0#8, 0, 0⟩).wf = false := by decide
theorem test_wf_sequence : (Instr.bridgeNakReceive 0 0 256).wf = false := by decide
theorem test_wf_arbiter : (Instr.arbCycleDecision 0 1618 0 0 [] false).wf = false := by decide
theorem test_wf_output : (Instr.arbCycleDecision 0 0 128 0 [] false).wf = false := by decide
theorem test_wf_ring : (Instr.ringPtrWrite 0 0 16 0#32).wf = false := by decide
theorem test_wf_die : (Instr.rerunArm 0 12 0#32).wf = false := by decide
theorem test_wf_agent : (Instr.bootGo 0 8 0#32).wf = false := by decide
theorem test_wf_page : (Instr.commit 0 0 0x1600 0#32).wf = false := by decide
theorem test_wf_address_range : (Instr.registerWrite 0 0 (2 ^ 26) 0#32).wf = false := by decide
theorem test_wf_address_aligned : (Instr.lowWordRead 0 0 2).wf = false := by decide
theorem test_wf_aisle_flit : (Instr.aisleFlitReceive 0 0 []).wf = false := by decide
theorem test_wf_lane : (Instr.aisleLaneLockLoss 0 0 8).wf = false := by decide
theorem test_wf_doorline : (Instr.doorlinePoll 0 [] []).wf = false := by decide
theorem test_wf_descriptor : (Instr.doorlinePoll 0 (List.replicate 64 0#8) [[]]).wf = false := by decide
theorem test_wf_place_pitch : (Instr.jobOpen 0 0 [] 0 [(256, 0, 0)]).wf = false := by decide
theorem test_wf_place_stall : (Instr.jobOpen 0 0 [] 0 [(0, 0, 1536)]).wf = false := by decide
theorem test_wf_place_device : (Instr.jobOpen 0 0 [] 0 [(0, 0, 2048 * 65)]).wf = false := by decide
theorem test_wf_found_repair : (Instr.openingInspectionDone ⟨[(1536, 0, 0)], [], [], [], [], [], []⟩).wf = false := by decide
theorem test_wf_found_scan : (Instr.openingInspectionDone ⟨[], [1536], [], [], [], [], []⟩).wf = false := by decide
theorem test_wf_found_spares : (Instr.openingInspectionDone ⟨[], [], [(0, 0, [1, 2, 3, 4, 5])], [], [], [], []⟩).wf = false := by decide
theorem test_wf_found_channel : (Instr.openingInspectionDone ⟨[], [], [], [168], [], [], []⟩).wf = false := by decide
theorem test_wf_found_stack : (Instr.openingInspectionDone ⟨[], [], [], [], [16], [], []⟩).wf = false := by decide
theorem test_wf_found_hall : (Instr.openingInspectionDone ⟨[], [], [], [], [], [12], []⟩).wf = false := by decide
theorem test_wf_found_clerk : (Instr.openingInspectionDone ⟨[], [], [], [], [], [], [4]⟩).wf = false := by decide
theorem test_wf_idle_energy : (Instr.ledgerReconcile none [] ⟨0, 0, 0⟩).wf = false := by decide
theorem test_wf_move_pitch : (Instr.pitchMove 0 0 256 .power [] [] 0).wf = false := by decide
theorem test_wf_move_phase : (Instr.pitchMove 0 0 0 .power [] [] 64).wf = false := by decide
theorem test_wf_slot_bytes : (Instr.lemefSlotReceive 0 0 []).wf = false := by decide

/-! ### States for the witnesses -/

/-- A device that is RUNNING, its bell LOCAL at tick 0. -/
def upState : State :=
  { State.reset with
    pins := { State.reset.pins with vio := true, pwrGood := true, resetN := true }
    bell := { State.reset.bell with state := 1 }
    boot := { State.reset.boot with dev := 2, phase := 4, trained := true, inspected := true }
    clerk := { State.reset.clerk with serving := true } }

/-- A job of class 1 with nothing placed. -/
def aJob : Job := jobOf (List.replicate 128 0#8) ⟨1, 0, 0, 0, 0, 1, []⟩ 0 [] 0 0

/-- A device with a job 0. -/
def withJob (jb : Job) : State := { upState with jobs := [(0, jb)] }

/-- A device with a stall 0 in a given state. -/
def withStall (st : Stall) : State := { upState with stalls := [(0, st)] }

/-- A device with half-port 0 in a given state. -/
def withHalf (f : Half) : State := { upState with halves := [(0, f)] }

/-- A device with aisle port 0 in a given state. -/
def withAisle (l : Aisle) : State := { upState with aisles := [(0, l)] }

/-- A device with a page in a given state. -/
def withPage (n : Nat) (pg : Page) : State := { upState with pages := [(n, pg)] }

/-- A page with live words. -/
def aPage (l : List (Nat × W32)) : Page := { Page.empty with live := l }

/-- Common fields of a word at offset 0 that waits for nothing and signals nothing. -/
def aCommon : Common := ⟨0#40, ⟨0#3, 0#6, 0#16, false, 0#3, 0#2⟩, ⟨0#3, 0#6, 0#8, 0#8, 0#16⟩, 0#4, 0#8, none⟩

/-- A step of a job. -/
def aStep (n start : Nat) : StepSt :=
  ⟨n, 1, 0, 0, start, 0, 0, 0, 0, true, [], none, 0, 0, [], false, none, none, false, false, none, false⟩

/-! ### The machine -/

theorem witness_CommandsWriteOnlyTheirParts : exec .thermtrip upState
    = .next { upState with pins := { upState.pins with trip := true, lastTrip := true } } := rfl
theorem witness_StoppedClocksHoldTheState :
    State.reset.clocked = false ∧ actsUnclocked .roundBoundary = false := by decide

theorem witness_HeldInResetStaysReset : heldInReset State.reset ∧
    step { State.reset with pending := [.roundBoundary] } = .next State.reset := ⟨fun _ => rfl, rfl⟩

theorem witness_StepKeepsMemoryForm : Memory.wf (memWrite [] 5 7#8) = true ∧
    step { State.reset with mem := memWrite [] 5 7#8, pending := [.roundBoundary] }
      = .next { State.reset with mem := memWrite [] 5 7#8 } := ⟨by decide, rfl⟩

theorem witness_FusesOnlyAdvance : ∃ t, exec .pwrGoodFall upState = .next t := ⟨_, rfl⟩

/-- Held: a fall of PWR_GOOD samples nothing. -/
theorem witness_StrapsAreHeld_held : ∃ t, exec .pwrGoodFall upState = .next t ∧ upState.pins.resetN = true ∧
    ¬ (Instr.pwrGoodFall = .pwrGoodRise ∧ upState.pins.releasePending = true) := ⟨_, rfl, by decide, by decide⟩

/-- Sampled, at the shortest pulse of R478. -/
theorem witness_StrapsAreHeld_sampled : let s := { upState with pins := { upState.pins with resetN := false, posPin := 9#6 } }
    s.pins.vio = true ∧ s.pins.pwrGood = true ∧ s.pins.resetN = false ∧
      exec (.resetNRelease 10) s = .next { s with pins := { s.pins with resetN := true, releasePending := false, pos := 9#6, tap := .bypass } } :=
  ⟨rfl, rfl, rfl, rfl⟩

theorem witness_ThermalTripHolds : let s := { upState with pins := { upState.pins with trip := true } }
    s.pins.trip = true ∧ exec .roundBoundary s = .next s := ⟨rfl, rfl⟩

/-- A running device; and one whose image has been read. -/
theorem witness_DeviceStateMovesAsListed :
    let s := { upState with boot := { upState.boot with dev := 0, phase := 3, buffer := some ([], false) } }
    upState.fatalOk ∧ (∃ t, exec .resetNAssert upState = .next t ∧ t.boot.dev ≠ upState.boot.dev) ∧
    (∃ t, step upState = .next t) ∧ s.fatalOk ∧ s.pending = [] ∧ ∃ t, step s = .next t := by
  refine ⟨⟨by decide, fun r h => absurd h (by simp [upState, State.reset, Events.reset])⟩, ⟨_, rfl, by decide⟩, ⟨_, rfl⟩,
    ⟨by decide, fun r h => absurd h (by simp [upState, State.reset, Events.reset])⟩, rfl, ⟨_, rfl⟩⟩

/-! ### Pins, power and boot -/

theorem witness_PowerAndResetPins : let low := { upState with pins := { upState.pins with resetN := false, pwrGood := false } }
    upState.pins.vio = true ∧ upState.pins.releasePending = false ∧
    { upState.pins with releasePending := true }.releasePending = true ∧ low.pins.vio = true ∧ low.pins.resetN = false ∧
    low.pins.pwrGood = false ∧ { low.pins with pwrGood := true }.pwrGood = true ∧ { low.pins with vio := false }.vio = false ∧ 10 ≤ 10 := by
  decide

theorem witness_SmbusAnswersByTable : upState.pins.vio = true ∧ upState.pins.pwrGood = true ∧ upState.pins.resetN = true ∧
    { upState.power with tmax := some 40 }.tmax = some 40 ∧ upState.power.tmax = none ∧
    0x03#8 ∉ [0x00#8, 0x01#8, 0x02#8, 0x04#8, 0x05#8] := by decide

theorem witness_TestPortReachesNothingElse : let s := { upState with pins := { upState.pins with resetN := false } }
    (s.pins.vio = true ∧ s.pins.pwrGood = true ∧ s.pins.resetN = false) ∧
    (upState.pins.vio && upState.pins.pwrGood && !upState.pins.resetN) = false ∧ TapInstr.other 9 ≠ .bypass ∧
    ∀ n, TapInstr.extest ≠ .other n := by
  refine ⟨by decide, by decide, by decide, fun n h => ?_⟩; cases h

theorem witness_ClocksAndLinksStart : let cold := { upState with bell := { upState.bell with state := 0 } }
    let young := { upState with boot := { upState.boot with dev := 0, phase := 0, hub := 0 } }
    (cold.bell.state = 0 ∧ cold.pins.vio = true ∧ cold.pins.pwrGood = true ∧ cold.pins.resetN = true ∧ cold.pins.trip = false) ∧
    young.clocked = true ∧ young.boot.dev = 0 ∧ young.boot.phase = 0 ∧ young.boot.hub = 0 := by decide

theorem witness_BootGoStartsTheFetch : let s := { upState with boot := { upState.boot with dev := 0, phase := 1 } }
    let fetching := { upState with boot := { upState.boot with dev := 0, phase := 2 } }
    s.clocked = true ∧ s.boot.dev = 0 ∧ s.boot.phase = 1 ∧ (1#32).getLsbD 0 = true ∧ 4 ≤ 4 ∧ 3 < 4 ∧
    fetching.clocked = true ∧ fetching.boot.dev = 0 ∧ fetching.boot.phase ≠ 1 := by decide

theorem witness_ImageIsVerifiedOrRejected : let s := { upState with boot := { upState.boot with dev := 0, phase := 2 } }
    let v := { s with boot := { s.boot with phase := 3, buffer := some ([], false) } }
    s.clocked = true ∧ s.boot.dev = 0 ∧ s.boot.phase = 2 ∧ v.pending = [] ∧ v.clocked = true ∧ v.stalls = [] ∧ v.aisles = [] ∧
    v.boot.dev = 0 ∧ v.boot.buffer = some ([], false) ∧ 0 < 6 ∧
    (false && decide (v.live .lemef 0 0x148 ≤ 2 ^ 24) && ([] : List Byte).length = v.live .lemef 0 0x148) = false := by decide

theorem witness_OpeningInspectionEnds : let s := { upState with boot := { upState.boot with dev := 1 } }
    let none := Inspection.mk [] [] [] [] [] [] []
    s.clocked = true ∧ s.boot.dev = 1 ∧ ({ none with clerks := [3] }.clerks.contains 3 = true) ∧
    (∀ g, g < 3 → { none with clerks := [3] }.clerks.contains g = false) ∧ ∀ h, h < 4 → none.clerks.contains h = false := by decide

/-! ### The bell -/

/-- SQUARE scope, by SYNC_CONFIG.mask_scope in state SQUARE. -/
def squareState : State :=
  { withPage (pageNo .bell 0) (aPage [(0x110, 0x201#32), (0x114, 5#32)]) with bell := { upState.bell with state := 2 } }

theorem witness_RoundBoundaryMasksByK : upState.clocked = true ∧ upState.squareScope = false ∧
    squareState.clocked = true ∧ squareState.squareScope = true ∧ squareState.bell.nextRound % 2 ^ 20 = 0 ∧
    { squareState with bell := { squareState.bell with nextRound := 4096 } }.bell.nextRound % 2 ^ 20 ≠ 0 ∧
    (let s := withPage (pageNo .bell 0) { Page.empty with commit := true }
     (∃ q ∈ s.pages, q.1 = pageNo .bell 0 ∧ q.2.commit = true) ∧ ¬ ∃ q ∈ upState.pages, q.1 = pageNo .bell 0 ∧ q.2.commit = true) := by decide

/-- The frame's energy at 4,000 W (10,000 × 2^18 / 33 pJ for each watt), and 0; a junction at and above the throttle limit, and 3 below. -/
theorem witness_PowerFrameStepsK :
    let x := (upState.advance upState.bell.nextFrame).applyK upState.bell.nextFrame
    let m (e j k : Nat) : PowerMeas := ⟨j, k, [e, 0, 0, 0, 0, 0, 0], List.replicate 16 0⟩
    let w (q : PowerMeas) := ((q.rails.sum :: x.power.frames).take (2 ^ 7 * 3300000 / 262144)).take
      (2 ^ bits (x.live .power 0 0x104) 2 0 * 3300000 / 262144)
    let P (q : PowerMeas) := 33 * (w q).sum
    let L (q : PowerMeas) := x.powerLimits.1 * 10000 * 262144 * (w q).length
    upState.clocked = true ∧ L (m (4000 * 10000 * 262144) 0 0) < P (m (4000 * 10000 * 262144) 0 0) ∧
    x.powerLimits.2 < (m 0 106 0).junction ∧ 90 < (m 0 0 91).stack ∧
    (let q := m 0 0 0
     ¬ (L q < P q ∨ x.powerLimits.2 < q.junction ∨ 90 < q.stack) ∧ P q * 100 < 95 * L q ∧ q.junction + 3 < x.powerLimits.2) ∧
    (let q := m 0 (x.powerLimits.2 - 3) 0
     ¬ (L q < P q ∨ x.powerLimits.2 < q.junction ∨ 90 < q.stack) ∧ ¬ (P q * 100 < 95 * L q ∧ q.junction + 3 < x.powerLimits.2)) := by
  decide +kernel

theorem witness_SyncBoundaryEmitsThePulse : let x := (upState.advance upState.bell.nextSync).applyK upState.bell.nextSync
    let q := { squareState with pages := [(pageNo .bell 0, aPage [(0x110, 0x400#32)])] }
    let y := (q.advance q.bell.nextSync).applyK q.bell.nextSync
    upState.clocked = true ∧ x.isMaster = false ∧ x.bell.state ≠ 2 ∧ bit (x.live .trace 0 0x104) 17 = false ∧
    y.bell.state = 2 ∧ bit (y.live .bell 0 0x110) 10 = true := by decide

/-- A device in SQUARE whose primary source is the mark on port 0, in force and the port UP. -/
def markState : State :=
  { squareState with
    pages := [(pageNo .bell 0, aPage [(0x110, 0x202#32), (0x114, 0#32)])]
    aisles := [(0, { Aisle.empty with state := 3 })] }

/-- The same as the bell master. -/
def masterState : State := { markState with pages := [(pageNo .bell 0, aPage [(0x110, 0x300#32), (0x114, 0#32)])] }

theorem witness_MaskReportsTravel : let a := markState.advance 0x40000
    let m := markState.advance 0
    let k := masterState.advance masterState.bell.nextMid
    (markState.clocked = true ∧ a.squareScope = true ∧ a.isMaster = false ∧ a.primaryPort = some 0 ∧
      a.bell.kLocal = a.bell.kSent ∧ 0x40000 % 2 ^ 20 = 0x40000) ∧
    upState.squareScope = false ∧
    (m.carriesMarks 0 = true ∧ m.carriesMarks 1 = false ∧ (m.count (pageNo .aisle 0) 0x80 1).isMaster = false ∧
      (m.count (pageNo .aisle 0) 0x80 1).primaryPort = some 0) ∧
    (masterState.clocked = true ∧ (masterState.advance 0).carriesMarks 0 = true ∧ (masterState.count (pageNo .aisle 0) 0x80 1).isMaster = true) ∧
    { m with pages := (pageNo .aisle 0, aPage [(0x104, 4#32)]) :: m.pages }.carriesMarks 0 = false ∧
    k.isMaster = true ∧ k.squareScope = true := by decide

/-- Errors of 1, 2, 8 and 9 ticks. -/
theorem witness_PulsesAreChecked_table : (pulseErr 1).natAbs ≤ 1 ∧ 2 ≤ (pulseErr (-2)).natAbs ∧ (pulseErr 8).natAbs ≤ 8 ∧
    8 < (pulseErr 9).natAbs := by decide

/-- A device in SQUARE whose source is the pin. -/
def pinState : State := { squareState with pages := [(pageNo .bell 0, aPage [(0x110, 0x201#32), (0x114, 5#32)])] }

theorem witness_PulsesAreChecked_sources : (pinState.clocked = true ∧ pinState.source = some 0 ∧ pinState.bell.acqPending = false ∧
      pinState.bell.state = 2) ∧
    ((pulseErr (64 - 0)).natAbs ≤ 64 ∧ 64 < (pulseErr (65 - 0)).natAbs ∧ { pinState with bell := { pinState.bell with state := 3 } }.bell.state ≠ 2) ∧
    (let a := (markState.advance 0).count (pageNo .aisle 0) 0x80 1
     (markState.advance 0).carriesMarks 0 = true ∧ (markState.advance 0).carriesMarks 1 = false ∧ bits (0#64).toNat 50 48 ≠ 7 ∧ a.bell.onBackup = false ∧ a.source = some 1 ∧
      a.bell.acqPending = false ∧ a.bell.state = 2) ∧
    pinState.source ≠ none ∧ squareState.bell.state = 2 ∧
    { squareState with pages := [(pageNo .bell 0, aPage [(0x110, 0x20F#32)])] }.source = none ∧ pinState.bell.missed + 1 ≠ 3 ∧
    { pinState with bell := { pinState.bell with missed := 2 } }.bell.missed + 1 = 3 := by decide

theorem witness_ReferenceLossAndAcquisition : upState.clocked = true ∧ upState.bell.state ≠ 4 ∧
    { upState.bell with state := 4 }.state = 4 ∧ upState.boot.dev ≠ 0 ∧ { upState.boot with dev := 0 }.dev = 0 ∧ (1#32).getLsbD 0 = true ∧ upState.openJobs = [] ∧ (withJob aJob).openJobs ≠ [] ∧
    (let s := { pinState with bell := { pinState.bell with acqPending := true, now := 5 } }
     let a := s.advance 5
     a.source = some 0 ∧ a.bell.acqPending = true ∧ (pulseErr (5 - bits (a.live .bell 0 0x114) 11 0 : Int)).natAbs ≤ 64 ∧ a.openJobs = [] ∧ a.bell.now = 5 ∧
      ({ s with jobs := [(0, aJob)] }.advance 5).openJobs ≠ []) ∧
    (let s := { markState with bell := { markState.bell with acqPending := true, now := 5 } }
     let a := (s.advance 5).count (pageNo .aisle 0) 0x80 1
     (s.advance 5).carriesMarks 0 = true ∧ bits (0#64).toNat 50 48 ≠ 7 ∧ a.source = some 1 ∧ a.bell.acqPending = true ∧
      a.openJobs = [] ∧ a.bell.now = 5) := by
  decide

/-! ### Control words -/

/-- A word that waits for nothing. -/
def aWord : CWord := ⟨aCommon, .waitw⟩

/-- A stall whose slot 0 runs job 0 with one word, all rota slots the job's. -/
def aStall : Stall :=
  { Stall.empty with
    page := aPage [(0x300, 0#32), (0x340, 0#32), (0x400, 0x40#32)]
    slots := [(0, { SlotSt.empty with running := true, q := .all { SubQ.empty with words := [aWord] } })] }

theorem test_slot_runs : (aStall.jobSlot 0).valid = true ∧ (aStall.slotSt 0).running = true ∧ aStall.rota .mx 0 = some 0 := by decide

theorem witness_WordsIssueWhenEveryCheckPasses : let s := withStall aStall
    let a := ((s.advance 0).touch 0 0).earlier 0 .mx 0
    let x := (a.stall 0).settle 0 0
    s.clocked = true ∧ a.bell.masked = false ∧
    (let h := { s with bell := { s.bell with masked := true } }
     let b := ((h.advance 0).touch 0 0).earlier 0 .mx 0
     b.bell.masked = true ∧ (h.stall 0).head 0 .mx = some (aWord, 0) ∧ (b.stall 0).head 0 .mx ≠ none) ∧
    wordAt (.waitw 0 0 .mx) = some (0, 0, .mx) ∧ 0 < 8 ∧ (s.stall 0).head 0 .mx = some (aWord, 0) ∧ (a.stall 0).head 0 .mx ≠ none ∧
    wordSpec a (a.stall 0) aWord 0 (.waitw 0 0 .mx) = some (plainSpec (a.stall 0) 0 .mx 0 aWord) ∧ holdsSlot x.1 x.1 0 .mx 0 ∧
    passes x.1 0 .mx (a.ctx 0 0) 0 aWord (plainSpec (a.stall 0) 0 .mx 0 aWord) := by
  refine ⟨by decide, by decide, by decide, rfl, by decide, by decide, by decide, rfl, .inl ⟨by decide, rfl⟩, ?_, by decide, rfl, by decide, ?_,
    by decide, by decide⟩
  · exact fun h => absurd h.1 (by decide)
  · exact fun h => absurd h.1 (by decide)

/-- A stall whose slot 0 is job 0's while the rota slot is job 1's, job 63's (the last), or FREE with no other contender. -/
theorem witness_TheFirstFailedCheckDecides :
    ({ aStall with page := aPage [(0x340, 1#32), (0x400, 0x40#32)] }.rota .vx 0 = some 1) ∧
    ({ aStall with page := aPage [(0x340, 63#32), (0x400, 0x40#32)] }.rota .vx 0 = some 63) ∧
    ({ aStall with page := aPage [(0x340, 64#32), (0x400, 0x40#32)] }.rota .vx 0 = none) ∧
    holdsSlot aStall aStall 0 .mx 0 ∧ ¬ poisonStops aStall 0 aWord ∧
    poisonStops { aStall with slots := [(0, { aStall.slotSt 0 with poisonDue := true })] } 0 ⟨aCommon, .stepEnd⟩ ∧
    waitTooLong aStall { aCommon.wait with kind := 4#3, value := 1#16 } ∧
    aStall.foreign 0 ⟨0#64, 0, 0, []⟩ { aCommon with wait := { aCommon.wait with kind := 1#3 } } = true ∧
    aStall.foreign 0 ⟨0#64, 0, 0, []⟩ aCommon = false ∧
    aStall.waitTrue (aStall.jobRes 0) aCommon.wait = true ∧
    aStall.waitTrue (aStall.jobRes 0) { aCommon.wait with kind := 1#3 } = false ∧
    classChecks aStall 0 .vx 0 (plainSpec aStall 0 .vx 0 aWord) = none := by
  refine ⟨by decide, by decide, by decide, .inl ⟨by decide, rfl⟩, fun h => absurd h.1 (by decide), ⟨by decide, .inr rfl⟩,
    ⟨.inl rfl, by decide⟩, by decide, by decide, by decide, by decide, by decide⟩

/-- Class 1 allows no slip; the budget of class 0 is not used up at 0 (R114). -/
theorem witness_SlipsWaitsAndFaults : slipBudget 1 = some (aStall.subq 0 .mx).fails ∧ aStall.fault.valid = false ∧
    slipBudget 0 ≠ some (aStall.subq 0 .mx).fails := by decide

theorem witness_IssueTakesTheWord : let c := { aCommon.wait with consume := true, kind := 1#3 }
    aCommon.wait.consume = false ∧ c.consume = true ∧ c.kind = 1#3 ∧ { c with kind := 3#3 }.kind = 3#3 ∧
    aStall.wrapped.getLsbD ((aStall.jobRes 0).tallyBase + 0) = false := by decide

/-- PACK in E4M3 of 64 by 32 values, plain or enumerated, to A slot 0 or to ring 3. -/
def aPack (pf : BitVec 4) (ring : Bool) : Pack :=
  ⟨⟨.p, 0⟩, 2#4, false, 64, 32, pf, ring, ⟨.a, 0⟩, 3#4, false, false, false, 0#2, false, none, false, 0#8, false, false, false, 0#16⟩

theorem witness_VectorWordsWriteTheirResults_pack : Fmt.ofCode (aPack 0#4 false).fmtOut = some .e4m3 ∧
    packBad (aPack 0#4 false) = false ∧ packBad (aPack 1#4 true) = false ∧
    ¬ ((aPack 1#4 true).packFmt = 2#4 ∧ (aPack 1#4 true).p2Prune = true) ∧ (aPack 1#4 true).ring = true ∧
    (aPack 0#4 false).ring = false ∧ (aPack 0#4 false).statRing = none ∧ Fmt.e4m3.scaled = true ∧ 2047 < tileElems .e4m3 ∧
    63 < 32 * Fmt.e4m3.lanes ∧ inExtent .e4m3 false 64 32 0 = true ∧ inExtent .e4m3 false 32 32 2047 = false ∧
    (⟨.a, 0⟩ : Tile).store.num < 2 ∧ { Unpack.mk 3#4 true false ⟨.a, 0⟩ with consume := false }.struct = false ∧
    (PackHdr.mk 0 .e4m3 false false 0 64 0 0 32).pf = 0 ∧ (PackHdr.mk 1 .e4m3 false false 0 64 0 0 32).pf = 1 ∧
    1 ≤ 8 ∧ 8 ≤ 8 ∧ (⟨.a, 127⟩ : Tile).store = .a := by decide +kernel

/-- A pass in shape F of one row and 16 columns with BF16 operands that promotes by SET. -/
def aMma : Mma := ⟨.f, 0#3, 1#4, true, none, 0, 1, 32, 16, [0], 2#2, [0]⟩

/-- A set of zeros. -/
def aSet : StatSet := ⟨0, 0, .bf16, false, .none, List.replicate 32 0#512, [], [], false, 0⟩

/-- The pass, due at tick 0, before its tick `d`. -/
def aPass (d : Nat) : PassRun := ⟨⟨aSet, .bf16, aMma, 0, 2, 0⟩, 0, 0, 0, 0, false, d, [], [], []⟩

/-- A stall whose foot row 0 is saturated and poisoned, with the pass under way and a set in the shadow. -/
def arrayStall (d : Nat) : Stall :=
  { aStall with array := { ArraySt.empty with
      shadow := some aSet
      runs := [aPass d]
      foot := [(0, ⟨false, 0, true, none, List.replicate 32 ⟨2097151, true, 0#2, true⟩⟩)]
      groups := [(0, ⟨⟨some 0, some 0, false, false, 0⟩, 0, 0⟩)] } }

/-- Loads with and without structure; a pass at each kind of tick; and the promotion of its row, which shows saturation first. -/
theorem witness_MatrixWordsFillTheArray : let st := arrayStall 48
    let l (p : Pattern) : Load := ⟨0, .kMajor, 1#4, p⟩
    let row : FootRow := ⟨false, 0, true, none, List.replicate 32 ⟨2097151, true, 0#2, true⟩⟩
    ((l .none).struct.structured = false ∧ (l .of24).struct.structured = true) ∧
    (Stall.empty.array.runs = [] ∧ Stall.empty.array.clearing = []) ∧
    (Fmt.bf16 = (Fmt.ofCode aMma.fmtA).getD .bf16 ∧ aMma.swap = true ∧ st.array.shadow = some aSet ∧ aMma.nextW = none ∧
      aMma.promote ≠ 0#2 ∧ 0 < aMma.shape.info.subs ∧ 0 < cdiv aMma.m 32) ∧
    ((arrayStall 0).array.runs[0]? = some (aPass 0) ∧ (aPass 0).upto = (aPass 0).start + 0 ∧ 0 < aMma.m ∧ 0 < aMma.shape.info.foot) ∧
    ((arrayStall 40).array.runs[0]? = some (aPass 40) ∧ (aPass 40).upto = (aPass 40).start + 40 ∧ aMma.m ≤ 40 ∧
      aMma.shape.info.foot ≤ 40 ∧ 40 < aMma.shape.info.foot + aMma.m ∧ 40 < aMma.shape.info.foot + 8) ∧
    (st.array.runs[0]? = some (aPass 48) ∧ (aPass 48).upto = (aPass 48).start + 48 ∧ aMma.m + aMma.shape.info.foot ≤ 48 ∧
      aMma.shape.info.foot + 8 ≤ 48 ∧ 48 < aMma.shape.info.foot + 8 + aMma.m ∧ aMma.promote ≠ 0#2) ∧
    (st.array.rowFor (aPass 48) 0 0 0 = row ∧ row.poison = true ∧ 1 ≠ (aPass 48).ctx.fb 0 + 0) ∧
    (aMma.shape.col0 0 ≤ 15 ∧ 15 < aMma.shape.col0 0 + aMma.ncount ∧ aMma.shape.col0 0 + aMma.ncount ≤ 16) ∧
    (Contr.mk true false false ⟨0, 0⟩).spec ≠ 0 ∧ (Contr.mk false false false ⟨0, 0⟩).spec = 0 ∧
    (let ps := [(st.promoteSub (aPass 48) 0 0).2]
     let q := (st.promoteSub (aPass 48) 0 0).2
     ((List.range (aPass 48).ctx.w.shape.info.subs).foldl (fun (acc : Stall × List Promo) s =>
        let x := acc.1.promoteSub (aPass 48) s 0; (x.1, acc.2 ++ [x.2])) (st, [])).2 = [q] ∧
     bit (statAfter (st.tstat (tileKey q.tile)).toNat 0 false ps) 0 = true ∧ st.fault.valid = false) := by
  decide +kernel

/-- An ADD of two FP32 runs of one row and one value, and a row sum, all of them valid. -/
theorem witness_VectorWordsWriteTheirResults :
    let v := mapWord [.run ⟨⟨.p, 0⟩, 1#4, .kMajor, 1, 1, 1⟩, .run ⟨⟨.p, 1⟩, 1#4, .kMajor, 1, 1, 1⟩] [] false ⟨.p, 2⟩ 1 0 fun _ _ _ => 0#32
    let r := rowWord ⟨⟨.p, 0⟩, 1#4, .kMajor, 1, 32, 1⟩ none false ⟨.p, 1⟩ 31 1 1 0 fun _ _ _ => [0#32]
    v.invalid = false ∧ extentOf [.run ⟨⟨.p, 0⟩, 1#4, .kMajor, 1, 1, 1⟩, .run ⟨⟨.p, 1⟩, 1#4, .kMajor, 1, 1, 1⟩] = some (1, 1) ∧
    1 ≤ 32 * storeSlots 2 ∧ r.invalid = false ∧ (⟨.p, 2⟩ : Tile) ∈ v.dsts := by decide

theorem witness_StepsAreStarted : let s := withStall aStall
    s.clocked = true ∧ s.boot.dev ≠ 0 ∧ s.primary < 4 ∧ s.stallPresent 0 = true ∧ (0x100#32).getLsbD 9 = false ∧
    (0x200#32).getLsbD 8 = false ∧ (0x300#32).getLsbD 9 = true ∧ (0x300#32).getLsbD 8 = true ∧
    (4095 < 0 + 4096 ∧ (aStall.slotSt 0).running = true) ∧
    (let u := { aStall with slots := [] }
     ¬ (4096 % 64 ≠ 0 ∨ 4096 < 0 + 4096 ∨ (u.jobSlot 0).valid = false ∨ (u.slotSt 0).running = true)) := by decide

/-- A fetcher that awaits the first chunk of MX of stall 0, a slot with words, and one with none. -/
theorem witness_WordsArriveAndComplete : let f : Fetch := ⟨1, 0, true, false, []⟩
    let jb := { aJob with fetched := [(0, f)] }
    let s := { withJob jb with stalls := [(0, aStall)] }
    let x : Flight := ⟨.mx, 0, 0, 0, 0, 0, 7, aCommon, [], [], none, none⟩
    let q := aStall.subq 0 .mx
    s.clocked = true ∧ s.boot.dev ≠ 0 ∧ s.primary < 4 ∧ s.stallPresent 0 = true ∧ (0x200#32).getLsbD 8 = false ∧
    (0x300#32).getLsbD 8 = true ∧ (0x300#32).getLsbD 9 = true ∧
    ((aStall.slotSt 0).abortReq = false ∧ { aStall.slotSt 0 with abortReq := true }.abortReq = true) ∧
    ((s.advance 0).job (((s.advance 0).stall 0).jobSlot 0).job = some jb ∧ sget jb.fetched 0 = some f ∧ sget aJob.fetched 0 = none ∧
      f.asked = true ∧ { f with asked := false }.asked = false ∧ chunkOk (f.bytes ((jb.streamAt 0 0).getD 0) []) = false ∧
      f.failed = false ∧ { f with failed := true }.failed = true) ∧
    (q.words.length ≤ 64 ∧ (aStall.slotSt 0).feed.get .mx = []) ∧
    (q.stopped = false ∧ q.lastOff = none ∧ { q with lastOff := some 0 }.lastOff = some 0 ∧ Common.reserved aCommon = false ∧
      Common.reserved { aCommon with wait := { aCommon.wait with kind := 7#3 } } = true ∧ (Op.waitw).engine = none ∧
      ((aStall.slotSt 0).running = true ∧ q.current = true ∧ q.base + 0 < 1) ∧ ¬ q.base + 0 < 0 ∧ aWord.op ≠ .stepEnd) ∧
    ({ aStall with flight := [x] }.nextDone .mx = some x) ∧ aStall.nextDone .mx = none ∧
    ({ aStall with flight := [x] }.opsOpen 0 = true) ∧ aStall.opsOpen 0 = false ∧
    ({ aStall.slotSt 0 with draining := true }.draining = true ∧ (aStall.slotSt 0).draining = false ∧ (aStall.slotSt 0).running = true ∧
      (let e := { SubQ.empty with ended := true }
       e.ended && e.ended && e.ended && e.ended) = true) := by
  decide +kernel

/-- Bytes that are followed by their check value: length, body, and check. -/
theorem checked (z : List Byte) (n : Nat) (l : z.length = n) : (z ++ leBytes 4 (check32 z).toNat).length = n + 4 ∧
    (z ++ leBytes 4 (check32 z).toNat).take n = z ∧ leAt (z ++ leBytes 4 (check32 z).toNat) n 4 = (check32 z).toNat := by
  generalize hv : check32 z = v
  have := v.isLt
  refine ⟨by simp [leBytes, l], by rw [← l, List.take_left], ?_⟩
  unfold leAt; rw [← l, List.drop_left]; simp [leBytes]; omega

/-- A chunk of zeros with the check of its first 4,092 bytes in its last four. -/
theorem chunk_check : chunkOk (List.replicate 4092 0#8 ++ leBytes 4 (check32 (List.replicate 4092 0#8)).toNat) = true := by
  obtain ⟨h1, h2, h3⟩ := checked (List.replicate 4092 0#8) 4092 List.length_replicate
  unfold chunkOk; rw [h1, h2, h3]; exact Bool.and_eq_true_iff.2 ⟨rfl, decide_eq_true rfl⟩

/-- The lines of a chunk, one after the other. -/
theorem chunk_lines (raw : List Byte) (n : Nat) : ((List.range n).flatMap fun i => (raw.drop (64 * i)).take 64) = raw.take (64 * n) := by
  induction n with
  | zero => simp
  | succ n ih => rw [List.range_succ, List.flatMap_append, ih, Nat.mul_succ, List.take_add]; simp

/-- A chunk none of whose lines the line cache held passes its check as it came. -/
theorem witness_WordsArriveAndComplete_chunk : let f : Fetch := ⟨1, 0, true, false, []⟩
    ∃ raw, chunkOk (f.bytes 0 raw) = true := by
  obtain ⟨h1, -, -⟩ := checked (List.replicate 4092 0#8) 4092 List.length_replicate
  intro f
  refine ⟨List.replicate 4092 0#8 ++ leBytes 4 (check32 (List.replicate 4092 0#8)).toNat, ?_⟩
  have e : ∀ raw, raw.length = 4096 → f.bytes 0 raw = raw := fun raw l =>
    (chunk_lines raw 64).trans (List.take_of_length_le (by omega))
  rw [e _ h1]; exact chunk_check

/-- A slot with its check passes (R427). -/
theorem slot_checked (x : Slot) (l : x.low.length = 92) : slotOk x.bytes = true := by
  obtain ⟨h1, h2, h3⟩ := checked x.low 92 l
  unfold slotOk Slot.bytes; rw [h1, h2, h3]; exact Bool.and_eq_true_iff.2 ⟨rfl, decide_eq_true rfl⟩

/-! ### Registers -/

/-- A register with RW bits (BELL.SYNC_DELAY's page) and one with RWS bits. -/
theorem witness_AccessCodesOfAPage : (PageTy.row .stall 0 0x580).isSome = true ∧
    ((PageTy.row .bell 0 0x110).map fun r => decide (r.rws ≠ 0)) = some true ∧
    ((PageTy.row .stall 0 0x580).map fun r => decide (r.rws = 0)) = some true ∧
    sget { Page.empty with shadow := [(0x110, 5#32)] }.shadow 0x110 = some 5#32 ∧ sget Page.empty.shadow 0x110 = none ∧
    Page.empty.lateShadow = [] := by decide

theorem witness_RegisterWritesReachTheirPage : upState.clocked = true ∧ pageOf 0x1610000 = none ∧
    pageOf (regAddr .stall 0 0x580) = some (.stall, 0) ∧ upState.pagePresent .stall 0 = true ∧
    upState.mayWrite 0 .stall 0 0x580 = true ∧ actsOnWrite .stall 0 0x580 = false ∧ upState.mayWrite 4 .stall 0 0x580 = false ∧
    upState.mayWrite 0 .bell 0 0x910 = true ∧ upState.mayWrite 0 .stall 0 0x010 = true ∧ (1#32).getLsbD 0 = true ∧
    upState.mayWrite 0 .stall 0 0x01C = true ∧ { upState with fuses := { upState.fuses with grade := 2 } }.pagePresent .stall 127 = false := by
  decide

theorem witness_RingPointersAreWritten : upState.clocked = true ∧ upState.boot.dev ≠ 0 ∧ upState.primary < 4 ∧
    upState.stallPresent 0 = true ∧ 15 < 16 := by decide

/-- SCHED.GRP_SELECT is 0 after reset: a group that is not valid, one of a job that runs, and one of a job that does not. -/
theorem witness_ActingRegisters : let run := { withJob { aJob with place := [(0, 0, 0)] } with stalls := [(0, aStall)] }
    let valid (s : State) := { s with pages := [(pageNo .sched 0, aPage [(0x108, 1#32)])] }
    let off := withPage (pageNo .aisle 0) (aPage [(0x104, 0#32)])
    upState.clocked = true ∧ upState.boot.dev ≠ 0 ∧ upState.primary < 4 ∧ upState.stallPresent 0 = true ∧ 11 < 12 ∧
    (0x1000#32).getLsbD 12 = true ∧ upState.stallPresent (128 * 11 + bits (0x1000#32).toNat 6 0) = true ∧ 3 < 4 ∧
    (0x80000000#32).getLsbD 31 = true ∧ upState.groupValid 0 = false ∧
    ((valid run).groupValid 0 = true ∧ (valid run).jobActive (groupOf ((valid run).groupRecord 0)).job = true) ∧
    ((valid upState).groupValid 0 = true ∧ (valid upState).jobActive (groupOf ((valid upState).groupRecord 0)).job = false) ∧
    (upState.portPresent 11 = true ∧ (1#32).getLsbD 0 = true ∧ bit (upState.live .aisle 11 0x104) 0 = true ∧
      (2#32).getLsbD 0 = false ∧ bit (off.live .aisle 0 0x104) 0 = false) := by decide +kernel

/-- LEDGER_CTRL of an open and of a CLOSED page, and RING_CTRL with and without a command open. -/
theorem witness_ActingRegisters_companion : upState.clocked = true ∧ upState.boot.dev ≠ 0 ∧ 4 ≤ 4 ∧ 63 < 64 ∧
    (upState.ledger 63).state ≠ 2 ∧ { upState with ledgers := [(63, { Ledger.empty with state := 2 })] }.ledger 63 = { Ledger.empty with state := 2 } ∧
    (1#32).getLsbD 0 = true ∧ (2#32).getLsbD 0 = false ∧ upState.clerk.taken = [] ∧
    { upState with clerk := { upState.clerk with taken := [⟨[], 1, false, false⟩] } }.clerk.taken ≠ [] := by decide

theorem witness_ReadsAnswerAndLatch : upState.clocked = true ∧ latchCount 0x1104 = 0 ∧ latchCount 0x1100 = 1 ∧ (1 : Nat) ≠ 0 ∧
    0x1118 = regAddr .bell 0 0x118 := by decide

/-! ### LemefLink -/

/-- A half-port that is UP with one slot waiting: a read, a write of a full line, and an INVAL of address 0. -/
def slotHalf (ty : Nat) : Half :=
  { Half.empty with state := 2, inbox := [Slot.bytes { Slot.mk [] 0 0 0 0 0#64 0 0 false false 0 0 0 with ty := ty, mask := BitVec.allOnes 64 }] }

/-- Half-port 0 of a device whose job 0 has the first HBM page mapped for the companion. -/
def hostState (ty addr : Nat) (m : W64) : State :=
  { withJob { aJob with maps := [⟨0, 0, true, true, none⟩] } with
    halves := [(0, { slotHalf ty with inbox := [Slot.bytes ⟨List.replicate 64 0#8, ty, 0, 0, addr, m, 0, 0, false, false, 0, 0, 0⟩] })] }

/-- The four targets: the line at 0, the register window's first and last lines, and the line past it. -/
theorem witness_CompanionAccesses : (hostState 1 0 0#64).clocked = true ∧
    ((hostState 1 0 0#64).takeSlot 0 [1, 2]).map (fun q => (inRegWindow q.1.addr, q.2.companionLine q.1.addr)) = some (false, some (0, 0)) ∧
    ((hostState 2 (2 ^ 41) 0#64).takeSlot 0 [1, 2]).map (fun q => inRegWindow q.1.addr) = some true ∧
    ((hostState 2 (2 ^ 41 + 2 ^ 26 - 64) 0#64).takeSlot 0 [1, 2]).map (fun q => inRegWindow q.1.addr) = some true ∧
    ((hostState 1 (2 ^ 41 + 2 ^ 26) 0#64).takeSlot 0 [1, 2]).map (fun q => (inRegWindow q.1.addr, q.2.companionLine q.1.addr)) = some (false, none) ∧
    ((hostState 4 64 0#64).takeSlot 0 [4]).map (fun q => (inRegWindow q.1.addr, q.2.companionLine q.1.addr, decide (q.1.mask = 0#64)))
      = some (false, some (0, 64), true) := by decide

theorem witness_CompanionAccesses_writes :
    ((hostState 4 0 (BitVec.allOnes 64)).takeSlot 0 [4]).map (fun q => (decide (q.1.mask = BitVec.allOnes 64),
      decide (q.2.framePa 0 32 32 false = q.2.framePa 0 0 0 false + 32))) = some (true, true) ∧
    ((hostState 4 (2 ^ 41) 1#64).takeSlot 0 [4]).map (fun q => partWord q.1.mask) = some true ∧
    ((hostState 4 (2 ^ 41) 0#64).takeSlot 0 [4]).map (fun q => (partWord q.1.mask, slotWrites q.1)) = some (false, []) ∧
    ((hostState 6 0 0#64).takeSlot 0 [6]).isSome = true ∧ (upState.takeSlot 0 [1, 2, 4, 6]).isNone = true ∧ 7 < 8 ∧ 8 ≤ 8 ∧
    ((hostState 4 (2 ^ 41 + regAddr .lemef 0 0x144) 0xF#64).takeSlot 0 [4]).map (fun q =>
      (slotWrites q.1).all fun w => !q.2.writeRefused 4 w.1) = some true ∧
    ((hostState 4 (2 ^ 41 + 0x1610000) 0xF#64).takeSlot 0 [4]).map (fun q => ((pageOf (q.1.addr - windowBase)).isNone, slotWrites q.1 != []))
      = some (true, true) ∧
    (let x : Slot := ⟨List.replicate 64 0#8, 6, 0, 0, 0, 0#64, 0, 0, false, false, 0, 0, 0⟩
     let r := { upState with pages := [(pageNo .lemef 0, aPage [(0x13C, 1#32)])], clerk := { upState.clerk with cores := [2, 1, 1, 1] } }
     upState.doorInval x = false ∧ r.doorInval { x with addr := r.lemefReg 0x128 } = true) := by
  decide +kernel

theorem witness_HalfPortsLoseAndRecover : let x := Slot.bytes ⟨List.replicate 64 0#8, 7, 4, 0, 0, 0#64, 0, 0, false, false, 0, 0, 0⟩
    let y := Slot.bytes ⟨List.replicate 64 0#8, 1, 0, 0, 0, 0#64, 1, 0, false, false, 0, 0, 0⟩
    let z := Slot.bytes ⟨List.replicate 64 0#8, 0, 0, 0, 0, 0#64, 0, 0, false, true, 0, 0, 0⟩
    let f := { Half.empty with state := 2, replay := [⟨0, 1, x⟩] }
    ((withHalf f).clocked = true ∧ ((withHalf f).half 0).state = 2 ∧ slotOk [] = false) ∧
    (slotOk x = true ∧ (slotOf x).ty = 7 ∧ (slotOf x).pool = 4 ∧ (slotOf x).nak = false ∧ (slotOf x).seq = f.rxSeq) ∧
    (slotOk z = true ∧ (slotOf z).ty = 0 ∧ (slotOf z).nak = true) ∧
    (slotOk y = true ∧ (slotOf y).seq ≠ f.rxSeq) ∧
    ((upState.half 0).state ≠ 2 ∧ upState.boot.trained = true ∧ { f with state := 1 }.state = 1 ∧ State.reset.boot.trained = false) ∧
    ((∃ q ∈ { f with replay := [⟨0, 16, x⟩] }.replay, 16 ≤ q.tries) ∧ f.nakAt = none ∧ { f with nakAt := some 5 }.nakAt = some 5) ∧
    (f.replay = [⟨0, 1, x⟩] ∧ max f.ackAt f.retryAt + 3072 ≤ 3072 ∧ 3071 < max f.ackAt f.retryAt + 3072) ∧ upState.boot.dev ≠ 0 ∧ upState.boot.dev ≠ 3 := by
  refine ⟨⟨rfl, rfl, rfl⟩, ⟨slot_checked _ (by decide), by decide, by decide, by decide, by decide⟩,
    ⟨slot_checked _ (by decide), by decide, by decide⟩, ⟨slot_checked _ (by decide), by decide⟩,
    ⟨by decide, rfl, rfl, rfl⟩, ⟨⟨_, List.mem_singleton.2 rfl, by decide⟩, rfl, rfl⟩, ⟨rfl, by decide, by decide⟩, by decide, by decide⟩

/-! ### Transfers -/

/-- A block that is requested and has not landed. -/
def aBlock (rereads : Nat) : PBlock := ⟨0, 0, 0, none, true, false, rereads, false, 0#512, false⟩

/-- A transfer of one block. -/
def aTransfer (k : PtKind) (rereads : Nat) : Transfer :=
  ⟨k, 0, 0, 0, 0, 0, aCommon, [], [aBlock rereads], none, 0, [], [], false, false, false, false, false, none⟩

/-- A stall whose tag 7 a transfer holds. -/
def tagStall (x : Transfer) : State := withStall { Stall.empty with tags := [(7, x)] }

theorem witness_BlocksOfReadsArrive : let x := aTransfer .get 0
    let s := tagStall x
    let a := (s.advance 0).touch 0 0
    let u := ((a.countHbm 0 0x40 1).chargeBlock 0 0 0x70).countHbm 0 0x80 0
    let e := blockCheck 0#512 (u.framePa 0 0 0 false)
    s.clocked = true ∧ sget (a.stall 0).tags 7 = some x ∧ x.blocks[0]? = some (aBlock 0) ∧ x.kind ≠ .put ∧
    a.holds x (aBlock 0) = false ∧ (aBlock 0).snap = none ∧ 0 < hallBase ∧
    (Block.mk 0#512 e false false).check = (if false then e ^^^ 0xFFFFFFFF#32 else e) ∧
    (Block.mk 0#512 0#32 true false).uncorr = true ∧ (aBlock 1).rereads < 2 ∧ 2 ≤ (aBlock 2).rereads := by
  decide +kernel

/-- A block that a commit word holds back: its commit unit's last resolved step is 0, the job consumed step 1 before. -/
theorem witness_BlocksOfReadsArrive_held : let x := { aTransfer .get 0 with commit := true }
    let s := { withJob { aJob with prev := 1 } with hubs := [(0, { Hub.empty with units := [⟨0, 0, 0, 1, 0, 0, 0, none, false⟩] })] }
    s.holds x (aBlock 0) = true ∧ { aBlock 0 with snap := some (0#512, false) }.snap = some (0#512, false) := by decide +kernel

theorem witness_BlocksOfReadsArrive_done : (aTransfer .get 0).finished = false ∧
    (let x := { aTransfer .put 0 with blocks := [{ aBlock 0 with landed := true }] }
     x.finished = true ∧ x.kind = .put ∧ x.tail = none ∧ (aStall.jobSlot x.slot).job = x.job ∧
      (aStall.jobSlot x.slot).job ≠ { x with job := 1 }.job) := by decide

theorem witness_WritesAndEndsOfTransfers : let x := aTransfer .put 0
    let from_ := { x with runs := [⟨0, 64, .word 0 0, 0⟩] }
    let s := tagStall x
    let a := (s.advance 0).touch 0 0
    s.clocked = true ∧ sget (a.stall 0).tags 7 = some x ∧ x.blocks[0]? = some (aBlock 0) ∧ x.kind = .put ∧ x.grad = false ∧
    x.sourced 0 = true ∧ from_.sourced 0 = false ∧ { from_ with reads := [((Place.word 0 0).id, (0#512, false))] }.sourced 0 = true ∧
    8 ≤ 8 ∧ 7 < 8 ∧ (aBlock 0).pa < hallBase ∧ hallBase ≤ hallBase ∧
    ({ x with faulted := true, blocks := [{ aBlock 0 with requested := false, cause := 1 }] }.inFlight = 0) ∧
    ({ x with faulted := true }.inFlight ≠ 0 ∧ 164999 < x.issue + 165000) ∧
    (sget (s.stall 0).tags 7 = some x ∧ x.faulted = false ∧ 165000 = x.issue + 165000) ∧
    ([Steal.mk 0 false (some 7) 0#128 0 .none 0#512 false 0].find? fun v => v.tag = some 7 && decide (v.since + 165000 ≤ 165000)).isSome = true := by
  decide +kernel

theorem witness_AheadBlocksArrive : let s := { upState with hubs := [(3, { Hub.empty with ahead := [⟨0, 64, 64, none⟩] })] }
    let w := { upState with hubs := [(3, { Hub.empty with ahead := [⟨0, 64, 64, some (0#512, false)⟩] })] }
    s.clocked = true ∧ (lfind (fun x : AheadBlk => x.job = 0 && x.pa = 64 && x.arrived.isNone) (s.hub 3).ahead 0).isSome = true ∧
    (lfind (fun x : AheadBlk => x.job = 0 && x.arrived.isSome) (w.hub 3).ahead 0).isSome = true ∧
    (s.hub 3).ahead.countP (fun x => x.job = 1) ≤ s.aheadShare 3 1 := by decide

/-! ### Stores, messages, bridges and arbiters -/

theorem witness_StoresWorkInBackground : let st := Stall.empty
    let b := { Bank.empty with awake := true, scrubEnd := some 5 }
    let e : Steal := ⟨127, false, none, 0#128, 0, .word 3 4095, 0#512, false, 0⟩
    let q : Steal := { e with tag := some 3 }
    let v := { st with banks := [(127, b)], steal := [e, q] }
    let own := { v with page := aPage [(0x1DC, 0x40000000#32)] }
    let y := { v with banks := [(127, { b with scrubEnd := none })] }
    let z := { v with banks := [(127, { b with scrubEnd := none, lastEx := true, owner := 0x40#8 })] }
    (own.shut 127 = true ∧ e.port = 127 ∧ own.taker 127 = ownJob e.job ∧ own.taker 127 = ownJob q.job) ∧
    (y.shut 127 = false ∧ y.idlePort 0 127 = true ∧ { y with used := [(0, 127)] }.idlePort 0 127 = false) ∧
    (lfind (fun w : Steal => w.port = 127 && w.tag.isNone) v.steal 0 = some (0, e) ∧
      lfind (fun w : Steal => w.port = 127 && w.tag.isSome) v.steal 0 = some (1, q)) ∧
    (y.nextSteal 127 = some (0, e) ∧ z.nextSteal 127 = some (1, q)) ∧
    (y.taker e.bank ≠ ownJob e.job ∧ z.taker e.bank = ownJob e.job ∧ e.read = false ∧ e.tag = none) ∧
    ({ aStall with rings := [] }.overruns { e with hdr := 1#128 } = false ∧ st.overruns e = true) ∧
    (let r : Steal := { q with read := true }
     r.read = true ∧ z.taker r.bank = ownJob r.job ∧ r.tag = some 3 ∧ sget { z with tags := [(3, aTransfer .put 0)] }.tags 3 = some (aTransfer .put 0)) ∧
    (v.bank 127).scrubEnd = some 5 ∧ 4 < 5 ∧ 5 ≤ 5 ∧ bankOf 3 4095 = bankOf 3 4095 ∧ bankOf 3 4095 ≠ bankOf 0 0 ∧
    v.ownerEntry 127 = 0#8 ∧ { v with page := aPage [(0x1EC, 0x80000000#32)] }.retained 127 = true ∧
    (y.shut 127 = false ∧ (y.bank 127).wakeEnd = none ∧ y.regionIn 127 = false) ∧
    ({ b with wakeEnd := some 5 }.wakeEnd = some 5 ∧ b.owner = 0#8) ∧
    bit ({ st with page := aPage [(0x5F0, 0#32)] }.reg 0x5F0) 0 = false := by decide +kernel

/-- A GRANT for job 0 of stall 0, untracked. -/
def aHdr : Hdr := ⟨3, false, false, true, false, false, 0, 0, 0, 0, 0, 0, 0, 0, 0, 0⟩

/-- A stall whose ring 0 is job 0's: four words of the A-store, in banks of the job. -/
def ringStall : Stall :=
  { aStall with
    page := aPage ((0x780, 5#32) :: (0x784, 0x4000#32) :: aStall.page.live)
    banks := [(32, { Bank.empty with owner := 0x40#8 }), (33, { Bank.empty with owner := 0x40#8 })] }

/-- Headers with a wrong check, malformed, foreign, of another step, right with a repeated alive count, with the next and with
another, of a new stream with room and without, and right; a message with words yet to come, in its last tick and past it. -/
theorem witness_MessagesLeaveAndReachStalls : let b := aHdr.bits
    let k := { aHdr with untracked := false }
    let l := { aHdr with kind := 0, len := 2 }
    let m : Inbound := ⟨l.bits, 0, none, 0, false, none, [], [0#512, 1#512], []⟩
    let st := { Stall.empty with inbound := [m] }
    let seen (v : Nat) := { aStall with alive := [(aStall.aliveKey k, [(0, v)])] }
    upState.clocked = true ∧ hdrOk 1#128 = false ∧ hdrOk b = true ∧ hdrOf b = aHdr ∧
    ({ aHdr with kind := 4 }.malformed = true ∧ hdrOk { aHdr with kind := 4 }.bits = true) ∧
    ({ aHdr with dst := 1 }.malformed = false ∧ aStall.msgForeign 0 { aHdr with dst := 1 } = true ∧ hdrOk { aHdr with dst := 1 }.bits = true) ∧
    (aHdr.malformed = false ∧ aStall.msgForeign 0 aHdr = false) ∧
    (aHdr.stp = aStall.stepOf aHdr.job % 4 ∧ { aHdr with stp := 1 }.stp ≠ aStall.stepOf aHdr.job % 4) ∧
    (k.untracked = false ∧ (∀ v ∈ [0, 255, 9], (seen v).aliveKey k = aStall.aliveKey k ∧
        sget (sgetD (seen v).alive ((seen v).aliveKey k) []) k.src = some v) ∧
      k.malformed = false ∧ (seen 0).msgForeign 0 k = false ∧ k.stp = (seen 0).stepOf k.job % 4 ∧
      k.alive = 0 ∧ k.alive ≠ 255 ∧ k.alive = (255 + 1) % 256 ∧ k.alive ≠ 9 ∧ k.alive ≠ (9 + 1) % 256) ∧
    (let known (c : Stall) := sgetD c.alive (c.aliveKey k) []
     let other := { aStall with alive := [(aStall.aliveKey k, [(5, 0)])] }
     sget (known aStall) k.src = none ∧ (known aStall).length < (if k.stream.1 = 2 then 1 else 8) ∧
      sget (known other) k.src = none ∧ (if k.stream.1 = 2 then 1 else 8) ≤ (known other).length) ∧
    (aHdr.untracked = true ∧ aStall.aliveCheck 0 0 aHdr = (true, aStall.bump 0x778 1, []) ∧ aHdr.kind ≠ 0 ∧
      aStall.aliveCheck 0 0 k = (true, { aStall with alive := sset aStall.alive (aStall.aliveKey k) [(0, 0)] }, []) ∧
      (let c := seen 0
       (c.aliveCheck 0 0 k).1 = false)) ∧
    (hdrOk l.bits = true ∧ hdrOf l.bits = l ∧ l.malformed = false ∧ ringStall.msgForeign 0 l = false ∧ l.kind = 0 ∧
      l.stp = ringStall.stepOf l.job % 4 ∧ (ringStall.ring l.ring).outstanding = 0 ∧
      ({ ringStall with rings := [(0, { RingSt.empty with outstanding := 1 })] }.ring l.ring).outstanding ≠ 0) ∧
    (st.arriving l.bits = some (0, m) ∧ m.coming = 0#512 :: [1#512] ∧ m.payload.length < l.len ∧ (hdrOf l.bits).len = l.len) ∧
    1023 < m.since + 1024 ∧ m.since + 1024 ≤ 1024 := by
  decide +kernel

/-- Placements here and on the device at position 0, an account with a chit, a word that sends a remote increment, and streams of a
sender: none, the one that is sought, and 64 others. -/
theorem witness_MessagesLeaveAndReachStalls_leave : let at_ : List (Nat × Nat × Nat) := [(0, 0, 5), (0, 1, 2048)]
    let c : Account := ⟨5, 0, 1, 1⟩
    let st := { aStall with slots := [(0, { SlotSt.empty with accounts := [c] })] }
    let is (x : Stream) : Bool := x.kind = 2 && x.dst = 5 && x.target = 0
    let sender (l : List Stream) := { SlotSt.empty with streams := l }
    placeOf at_ 0 0 = some 5 ∧ remoteStall 5 = false ∧ placeOf at_ 0 1 = some 2048 ∧ remoteStall 2048 = true ∧
    st.account 0 5 0 = some (0, c) ∧ { aCommon.sig with kind := 4#3 }.kind = 4#3 ∧
    lfind is (sender [⟨2, 5, 0, 7⟩]).streams 0 = some (0, ⟨2, 5, 0, 7⟩) ∧ lfind is (sender []).streams 0 = none ∧
    (sender []).streams.length < 64 ∧ lfind is (sender (List.replicate 64 ⟨1, 0, 0, 0⟩)).streams 0 = none ∧
    64 ≤ (sender (List.replicate 64 ⟨1, 0, 0, 0⟩)).streams.length := by
  decide +kernel

theorem witness_BridgesRetryAndFail : let ch := { Channel.empty with live := true, buf := [(0, [])], failSeq := 0, fails := 15 }
    let s := { upState with chans := [(335, ch), (327, { Channel.empty with live := true })] }
    s.clocked = true ∧ (s.chan 335).live = true ∧ s.carrier 335 = 335 ∧ s.carrier 334 = 335 ∧ s.carrier 0 = 0 ∧ (s.chan 0).live = false ∧
    (s.chan 335).nak = false ∧ { s.chan 335 with nak := true }.nak = true ∧
    ((s.chan 335).buf.any fun x => x.1 = 0) = true ∧ ((s.chan 335).buf.any fun x => x.1 = 1) = false ∧
    (if ch.failSeq = 0 then ch.fails + 1 else 1) = 16 ∧
    (if { ch with fails := 14 }.failSeq = 0 then 14 + 1 else 1) < 16 ∧ s.boot.inspected = true ∧ State.reset.boot.inspected = false ∧
    (let flit := List.replicate 88 0#8
     let r := ch.transmit flit
     linkCheck flit 0 % 65536 = linkCheck flit (0 % 256) ∧ 0 % 256 = r.1.rxSeq ∧ 1 % 256 ≠ r.1.rxSeq) := by
  refine ⟨by decide, by decide, by decide, by decide, by decide, by decide, by decide, by decide, by decide, by decide, by decide,
    by decide, by decide, by decide, Nat.mod_eq_of_lt (BitVec.isLt _), by decide, by decide⟩

/-- Output 5 of the router at stall 0, held by requester 1; a request of requester 0, for the owner of a cycle by an entry. -/
theorem witness_ArbitersDecide : let h : Holder := ⟨1, 3, 2, true, 63, true, none, .other⟩
    let o : ArbOut := { ArbOut.empty with hold := some h }
    let w : ArbReq := ⟨0, .other, 1, none, false⟩
    let s := withPage (pageNo .arb 0) (aPage [(0x100, 0#32)])
    let e := s.arbEntry 0 0 (arbPosition 0 0)
    s.clocked = true ∧ s.arbPresent 0 = true ∧ s.arbOutput 0 0 = true ∧ s.arbOutput 0 127 = false ∧ s.arbPresent 1618 = false ∧
    6 < { ArbOut.empty with busyTo := 7 }.busyTo ∧ ArbOut.empty.busyTo ≤ 6 ∧ o.hold = some h ∧ 1603 < 1604 ∧
    h.locked = true ∧ h.cycles < 64 ∧ 64 ≤ { h with cycles := 64 }.cycles ∧ { h with locked := false }.locked = false ∧
    ArbOut.empty.hold = none ∧ w.withdraws = false ∧
    (e = .req 0 ∧ s.owns 0 0 0 e = true ∧ s.owns 0 0 1 e = false ∧
      (([w].filter fun r => s.arbHas 0 r.req).filter fun r => s.owns 0 0 r.req e).head? = some w) ∧
    (let x := { o with hold := some { h with locked := false } }
     x.hold = some { h with locked := false } ∧ (0x50, 1) ∈ (s.arbDecide 0 0 [w] x).2 ∧ (0x58, 2) ∈ (s.arbDecide 0 0 [w] x).2) ∧
    (∀ q ∈ (s.arbDecide 0 0 [] ArbOut.empty).2, q.1 ≠ 0x50) := by
  decide +kernel

/-- A message at the transmitter of aisle port 0 and a slot at that of half-port 0, held by their requesters. -/
theorem witness_ArbitersDecide_links : let m : AisleMsg := ⟨1, 1, 1, none, List.replicate 24 0#8, false⟩
    let a := withAisle { Aisle.empty with state := 3, queue := [m] }
    let h : Holder := ⟨1, 1, 0, false, 0, true, none, .other⟩
    let q : SlotReq := ⟨1, 1, 0, 0, 0#64, [], 0, none⟩
    let f := { Half.empty with state := 2, queue := [q], credits := [0, 1, 0, 0, 0] }
    0 < 12 ∧ (a.aisle 0).state = 3 ∧ h.req = m.req ∧
    lfind (fun x : AisleMsg => x.req = h.req) (a.aisle 0).queue 0 = some (0, m) ∧ (a.aisle 0).replay.length < 512 ∧
    0 < 4 ∧ ((withHalf f).half 0).state = 2 ∧ ((withHalf f).half 0).replay.length < 256 ∧
    readySlot ((withHalf f).half 0).credits q.requester ((withHalf f).half 0).queue [] 0 = some (0, q) ∧
    ((withHalf f).half 0).nakAt = none := by
  decide +kernel

/-! ### Gradients and steps -/

/-- A body of a message: its route word, a head of 24 bytes and `n` bytes of blocks, with its check. -/
def mailBody (head : List Byte) (n : Nat) : List Byte :=
  List.replicate 8 0#8 ++ (head ++ List.replicate n 0#8) ++ leBytes 4 (check32 (head ++ List.replicate n 0#8)).toNat

theorem mail_checked (head : List Byte) (n : Nat) (l : head.length = 24) : gradOk (mailBody head n) = true := by
  unfold gradOk mailBody
  generalize hz : head ++ List.replicate n 0#8 = z
  have lz : z.length = 24 + n := by rw [← hz]; simp [l]
  generalize hv : check32 z = v
  have := v.isLt
  have e1 : (List.replicate 8 0#8 ++ z ++ leBytes 4 v.toNat).length = 12 + z.length := by simp [leBytes]; omega
  have e2 : List.drop 8 (List.replicate 8 0#8 ++ z ++ leBytes 4 v.toNat) = z ++ leBytes 4 v.toNat := by
    rw [List.append_assoc]; exact List.drop_left (l₁ := List.replicate 8 0#8)
  have e3 : List.drop (12 + z.length - 4) (List.replicate 8 0#8 ++ z ++ leBytes 4 v.toNat) = leBytes 4 v.toNat := by
    have : 12 + z.length - 4 = (List.replicate 8 (0#8 : Byte) ++ z).length := by simp; omega
    rw [this]; exact List.drop_left
  rw [e1, e2, show 12 + z.length - 12 = z.length by omega, List.take_left]; simp only [hv]
  unfold leAt; rw [e3]
  simp [leBytes]; omega

/-- The record of a group with nothing but its first tensor block, and that group in force for step 1 of job 0. -/
def aGroup : List Byte := List.replicate 128 0#8
def aCur (record : List Byte) : GroupCur := ⟨0, 1, record, 0#32, 0#32, 0#32, []⟩

theorem witness_GradientsReachTheUpdate : let x : Transfer := { aTransfer .put 0 with grad := true }
    let s := tagStall x
    let r := lset (lset aGroup 56 1#8) 0 64#8
    let w := { tagStall x with sched := { s.sched with cur := [(3, { aCur r with step := 0 })] } }
    s.clocked = true ∧ sget (((s.advance 0).touch 0 0).stall 0).tags 7 = some x ∧ x.blocks[0]? = some (aBlock 0) ∧
    x.grad = true ∧ (aBlock 0).requested = true ∧ (aBlock 0).landed = false ∧
    ((s.advance 0).touch 0 0).groupHolding 0 0 0 = none ∧
    ((w.advance 0).touch 0 0).groupHolding 0 0 0 = some (3, { aCur r with step := 0 }, 0) ∧
    ((w.advance 0).touch 0 0).frameWaits 0 3 0 { aCur r with step := 0 } = false := by decide +kernel

/-- A job on two pitches: one on this device, one on the device at square position 1. -/
def twoDevices : Job := { aJob with devices := 2, place := [(0, 0, 0), (1, 0, 4096)] }

/-- Device with job 0 and a message of a type in the mailbox of aisle port 0. -/
def mailJobState (ty : Nat) (body : List Byte) (jb : Job) : State :=
  { withJob jb with aisles := [(0, { Aisle.empty with state := 3, local_ := [⟨ty, 0, 1, body⟩] })] }

/-- Job 0 with a step in use and group 0, whose record is all zero. -/
def groupJob : Job := { aJob with steps := [aStep 1 4096], image := some ⟨0, 0, 0, [], [], [(0, aGroup)], [], []⟩ }

/-- Head of a GRAD or WCOPY message of job 0, group 0, block 0, step 1, run 0, one block. -/
def aHead : List Byte := List.replicate 8 0#8 ++ [1#8] ++ List.replicate 15 0#8

theorem witness_GradientsReachTheUpdate_messages (ty : Nat) (h : ty = 2 ∨ ty = 3) :
    let b := mailBody aHead 8
    let s := mailJobState ty b groupJob
    s.clocked = true ∧ ((s.advance 0).takeLocal 0 (fun m => m.ty = ty)).isSome = true ∧ gradOk b = true ∧ gradOk [] = false ∧
    groupJob.groups.find? (fun q => q.1 = 0) = some (0, groupOf aGroup) := by
  obtain rfl | rfl := h <;>
  exact ⟨rfl, rfl, mail_checked _ _ (by decide), by decide, rfl⟩

theorem witness_GradientsReachTheUpdate_expected : groupJob.stepExpected 1 = true ∧ groupJob.runOf 1 = 0 ∧
    groupJob.stepExpected 9 = false ∧ (gradHdr (List.replicate 8 0#8 ++ aHead)) = ⟨0, 0, 0, 0, 0, 0, 1, 0, 1, 0⟩ := by decide +kernel

theorem witness_GradientsReachTheUpdate_blocks : let r := lset aGroup 56 1#8
    let c := aCur r
    let s := { upState with sched := { upState.sched with cur := [(63, c)] } }
    let w := { s with hubs := [(s.unitOf (groupOf r) 0, { Hub.empty with ingress := [⟨0, 63, 0, 1, 0, 0, [], false⟩] })] }
    s.clocked = true ∧ sget (s.advance 0).sched.cur 63 = some c ∧ (groupOf r).holds = true ∧ 0 < (groupOf r).count ∧
    c.frozenBlock 0 = false ∧ (groupOf r).factored = false ∧ (s.advance 0).pendingFor ((s.advance 0).unitOf (groupOf r) 0) 63 0 = none ∧
    (s.advance 0).contributions ((s.advance 0).unitOf (groupOf r) 0) 0 1 63 0 (groupOf r) = none ∧
    ((w.advance 0).contributions ((w.advance 0).unitOf (groupOf r) 0) 0 1 63 0 (groupOf r)).isSome = true := by decide +kernel

/-- A FACTORED group of one block whose accumulator awaits block 0, or another; contributions with poison; a block of a group with
exchange that is pending for step 9; ingress stores with room and without. -/
theorem witness_GradientsReachTheUpdate_factored : let r := lset (lset aGroup 56 1#8) 0 0x80#8
    let e := lset (lset aGroup 56 1#8) 1 8#8
    let acc (n : Nat) : FactAcc := ⟨63, 1, n, [], [], [], []⟩
    let s (n : Nat) := { upState with
      sched := { upState.sched with cur := [(63, aCur r)] }
      hubs := [(upState.unitOf (groupOf r) 0, { Hub.empty with ingress := [⟨0, 63, 0, 1, 0, 0, [], true⟩], acc := [acc n] })] }
    let a (n : Nat) := (s n).advance 0
    let p := { upState with hubs := [(upState.unitOf (groupOf e) 0, { Hub.empty with frames := [(63 * 2 ^ 32, (false, some 9))] })] }
    ((groupOf r).factored = true ∧ (groupOf r).holds = true ∧ 0 < (groupOf r).count ∧ (aCur r).frozenBlock 0 = false) ∧
    (((a 0).hub ((a 0).unitOf (groupOf r) 0)).factAcc 63 = some (acc 0) ∧ (acc 0).next = 0) ∧
    (((a 5).hub ((a 5).unitOf (groupOf r) 0)).factAcc 63 = some (acc 5) ∧ (acc 5).next ≠ 0) ∧
    (((a 0).contributions ((a 0).unitOf (groupOf r) 0) 0 1 63 0 (groupOf r)).map fun l => l.any fun z => z.poison) = some true ∧
    (aCur r).nextLive 0 < (groupOf r).count ∧
    (p.frameWaits 1 63 0 (aCur e) = true ∧ p.pendingFor (p.unitOf (groupOf e) 0) 63 0 = some 9 ∧ (9 : Nat) ≠ groupJob.fullStep 1) ∧
    upState.ingressRoom (groupOf e) 0 1 = true := by decide +kernel

/-- A device whose hub 0 holds one contribution of `n` bytes in its ingress store. -/
def ingressState (n : Nat) : State := { upState with hubs := [(0, { Hub.empty with ingress := [⟨0, 0, 0, 1, 0, 1, List.replicate n 0#8, false⟩] })] }

/-- A store of 24 MiB that is full takes no block. -/
theorem witness_GradientsReachTheUpdate_full : let e := groupOf (lset (lset aGroup 56 1#8) 1 8#8)
    (ingressState 25165824).ingressRoom e 0 1 = false := by
  intro e
  have u0 : upState.unitOf e 0 = 0 := by decide +kernel
  have u : ∀ n, (ingressState n).unitOf e 0 = 0 := fun n => Eq.trans (by rfl) u0
  have c : e.compBytes = 34 := by decide +kernel
  have i : ((ingressState 25165824).hub 0).ingressUsed = cdiv 25165824 1024 := by
    have g : ∀ n, ((ingressState n).hub 0).ingressUsed = cdiv n 1024 := fun n => by
      show cdiv ((List.replicate n 0#8).length + 0) 1024 = _
      rw [List.length_replicate]; rfl
    exact g _
  unfold State.ingressRoom
  rw [Bool.eq_false_iff]; intro h
  have := (List.all_eq_true.1 h) 0 (by simp)
  simp [u, i, c, cdiv] at this

theorem witness_StepsCloseAndResolve : let run := { aJob with steps := [aStep 1 4096] }
    let new := { aJob with steps := [{ aStep 1 4096 with sched := false }] }
    let shut := { twoDevices with steps := [{ aStep 1 4096 with closed := some 9000 }] }
    (run.steps.find? (fun y => y.closed.isNone) = some (aStep 1 4096) ∧ (aStep 1 4096).sched = true ∧ (aStep 1 4096).abort = none) ∧
    ((withJob run).jobActive 0 = false ∧ (withJob run).updatesDone 0 1 = true ∧ (withJob run).streamFault 0 run ([], []) = none) ∧
    (let check := { run with streamCheck := true, place := [(0, 0, 0)], devices := 2 }
     check.streamCheck = true ∧ run.streamCheck = false ∧
      ((withJob { twoDevices with streamCheck := true }).streamFault 0 { twoDevices with streamCheck := true } ([(5, 1#32)], [])).isSome = true) ∧
    (new.steps.find? fun y => y.start != 0 && !y.sched && y.abort.isNone).isSome = true ∧
    (shut.steps.find? (fun y => y.closed.isSome && y.due.isNone && !y.deferred) = some { aStep 1 4096 with closed := some 9000 } ∧
      shut.allWords { aStep 1 4096 with closed := some 9000 } = false) ∧
    (shut.steps.find? fun y => y.closed.isSome && !y.sent && y.abort.isNone).isSome = true ∧
    (withJob run).clerk.serving = true := by decide +kernel

/-- A guard at tick 12,288 with Λ = 2,048: 10,239 is before its round, 10,240 and 12,287 are in it. -/
theorem witness_StepsCloseAndResolve_guard : let x := { aStep 1 4096 with closed := some 9000, due := some 12288 }
    let jb := { aJob with steps := [x] }
    (jb.steps.find? (fun y => y.armed.isNone) = some x ∧ x.due = some 12288 ∧ x.abort = none) ∧ jb.lead = 2048 ∧
    10239 + jb.lead < 12288 ∧ 12288 ≤ 10240 + jb.lead ∧ 12287 < 12288 ∧ 12288 ≤ 10240 + 4096 ∧
    (withJob jb).freeResolve = some 0 ∧ (withJob jb).job 0 = some jb ∧ x.gr = 0 ∧ x.commits = true ∧
    (let b := (List.replicate 8 0#8 ++ [1#8, 0#8, 1#8] ++ List.replicate 33 0#8 : List Byte)
     ((mailJobState 4 b jb).takeLocal 0 (clerkMail 1)).isSome = true ∧ mailJob ⟨4, 0, 1, b⟩ = 0 ∧ clerkStep ⟨4, 0, 1, b⟩ = 1) := by
  decide +kernel

/-! ### The aisle -/

/-- A flit with its check. -/
def aFlit (head : List Byte) : List Byte :=
  head ++ List.replicate (252 - head.length) 0#8 ++ leBytes 4 (check32 (head ++ List.replicate (252 - head.length) 0#8)).toNat

theorem flit_checked (h : List Byte) (l : h.length ≤ 252) (ty : (flitOf (aFlit h)).ty ≤ 6) (pool : (flitOf (aFlit h)).pool ≤ 4) :
    flitOk (aFlit h) = true := by
  obtain ⟨h1, h2, h3⟩ := checked (h ++ List.replicate (252 - h.length) 0#8) 252 (by simp; omega)
  rw [show h ++ List.replicate (252 - h.length) 0#8 ++ leBytes 4 (check32 (h ++ List.replicate (252 - h.length) 0#8)).toNat
    = aFlit h from rfl] at h1 h2 h3
  unfold flitOk; rw [h1, h2, h3]; simp [ty, pool]

/-- Flits with the sequence number due and with another, a flit of type 0, and one whose NAK bit is set. -/
theorem witness_AisleFlitsAndMessages : let l := { Aisle.empty with state := 3 }
    let s := withAisle l
    let head (q : Byte) := ([0x34#8, 0#8, 0#8, 0#8, q, 0#8, 0#8, 0#8] : List Byte)
    s.clocked = true ∧ (s.aisle 0).state = 3 ∧ flitOk [] = false ∧ flitOk (aFlit (head 0#8)) = true ∧ flitOk (aFlit (head 1#8)) = true ∧
    ((flitOf (aFlit (head 0#8))).nak = false ∧ (flitOf (aFlit (head 0#8))).ty = 4 ∧ (flitOf (aFlit (head 0#8))).seq = l.rxSeq) ∧
    (flitOf (aFlit (head 1#8))).seq ≠ l.rxSeq := by
  refine ⟨rfl, by decide, by decide, flit_checked _ (by decide) (by decide +kernel) (by decide +kernel),
    flit_checked _ (by decide) (by decide +kernel) (by decide +kernel), ⟨?_, ?_, ?_⟩, ?_⟩ <;> decide +kernel

/-- A message for this device (position 0) and one for position 1, with hop counts 6 and 7, and the routes: none, an entry for the
device itself, and one from port 0 to port 1, which is UP. -/
theorem witness_AisleFlitsAndMessages_routes : let body (d h : Byte) := ([d, 0#8, h] ++ List.replicate 40 0#8 : List Byte)
    let far (d h : Byte) := withAisle { Aisle.empty with state := 3, inbox := [⟨1, 0, 1, body d h⟩] }
    let via (ty : Nat) (d h : Byte) := { far d h with
      pages := [(pageNo .hdie 0, aPage [(0x400, 0x300#32), (0x404, 0x111#32)])]
      aisles := [(0, { Aisle.empty with inbox := [⟨ty, 0, 1, body d h⟩] }), (1, { Aisle.empty with state := 3 })] }
    ((via 1 0#8 6#8).aisle 0).inbox = [⟨1, 0, 1, body 0#8 6#8⟩] ∧ (routeOf (body 1#8 7#8)).hops = 7 ∧ (routeOf (body 1#8 6#8)).hops ≠ 7 ∧
    (routeOf (body 1#8 6#8)).dst = 1 ∧ (routeOf (body 0#8 6#8)).dst = (via 1 0#8 6#8).pins.pos.toNat ∧
    ((far 1#8 6#8).route 1).2.2.1 = false ∧ ((via 1 0#8 6#8).route 0).2.2.1 = true ∧ ((via 1 0#8 6#8).route 0).2.2.2.1 = true ∧
    ((via 1 1#8 6#8).route 1).2.2.1 = true ∧ ((via 1 1#8 6#8).route 1).2.2.2.1 = false ∧ (via 1 1#8 6#8).pins.pos.toNat ≠ 1 ∧
    leAt (body 0#8 6#8) 8 1 = 0 ∧ leAt (List.replicate 8 0#8 ++ [5#8]) 8 1 = 5 ∧ leAt (List.replicate 8 0#8 ++ [4#8]) 8 1 = 4 ∧
    (via 1 1#8 6#8).portTo 1 1 false = some 1 ∧
    ({ via 1 1#8 6#8 with pages := (pageNo .aisle 1, aPage [(0x104, 4#32)]) :: (via 1 1#8 6#8).pages }.portTo 1 1 false = none) := by
  decide +kernel

/-- At port time 0: a replay is due at tick 4,096, not at 4,095; a repeat of a NAK at 4,096; and the messages of a suspended job,
at a port and at a half-port, its credits revoked or not, 330,000 ticks after. -/
theorem witness_AisleFlitsAndMessages_times : let l := { Aisle.empty with state := 3, replay := [⟨0, 1, []⟩], nakAt := some 0 }
    let m : AisleMsg := ⟨0, 0, 1, some 0, [], false⟩
    let r (p : Nat) : SlotReq := ⟨1, p, 0, 0, 0#64, [], 0, some 0⟩
    let jb := { aJob with suspended := true, suspAt := some 0 }
    (max l.ackAt l.retryAt + 4096 ≤ 4096 ∧ 4095 < max l.ackAt l.retryAt + 4096 ∧ 0 + 4096 ≤ 4096 ∧ l.nakAt = some 0 ∧ l.state = 3) ∧
    ({ l with queue := [m] }.queue = m :: [] ∧ m.job = some 0 ∧ (withJob jb).job 0 = some jb ∧ jb.suspended = true ∧
      jb.suspAt = some 0 ∧ 0 + 330000 ≤ 330000 ∧ jb.revoked = false ∧ { jb with revoked := true }.revoked = true) ∧
    ((withJob jb).longSuspended 330000 (some 0) = true ∧ (withJob jb).longSuspended 329999 (some 0) = false) ∧
    ({ Half.empty with queue := [r 1] }.queue = r 1 :: [] ∧ 1 ≤ (r 1).pool ∧ (r 3).pool ≤ 3 ∧ 11 < 12 ∧ 12 ≤ 12) ∧
    ((withJob jb).holder 1615 0).map Holder.req ≠ some m.req ∧ ((withJob jb).holder 1617 1).map Holder.req ≠ some (r 1).requester ∧
    Aisle.empty.nakAt = none ∧ { Aisle.empty with nakAt := some 0 }.nakAt ≠ none := by decide

/-- The words of position 0 to its side: a CLERK message of each type, and one of another device. -/
theorem witness_AisleFlitsAndMessages_words : ∃ b c : List Byte, leAt b 8 1 = suspendType ∧ leAt c 8 1 = soloType ∧
    (routeOf b).src = 0 ∧ (routeOf (lset b 1 1#8)).src ≠ 0 := by
  have h : suspendType < 255 := by unfold suspendType; omega
  refine ⟨List.replicate 8 0#8 ++ [BitVec.ofNat 8 suspendType], List.replicate 8 0#8 ++ [BitVec.ofNat 8 soloType], ?_, ?_, by rfl, ?_⟩
  · simp [leAt]; omega
  · simp [leAt, soloType]; omega
  · decide

/-- The sixteenth IDENT in TRAINING from the position that the port expects, or from another, and the fifteenth. -/
theorem witness_AislePortsTrainAndFail : let head := ([6#8] : List Byte)
    let l (n : Nat) := { Aisle.empty with state := 2, idents := List.replicate n 0, identsOut := 16 }
    let s (n : Nat) := withAisle (l n)
    let bad := { s 15 with pages := [(pageNo .aisle 0, aPage [(0x104, 0x4010#32)])] }
    (s 15).clocked = true ∧ (s 15).portPresent 11 = true ∧ ({ Aisle.empty with state := 1 }.state = 1) ∧ ((s 15).aisle 0).state = 2 ∧
    flitOk (aFlit head) = true ∧ (flitOf (aFlit head)).ty = 6 ∧
    ((((s 15).advance 0).dueIdents 0 0 16).aisle 0).idents.length + 1 = 16 ∧ ((((s 14).advance 0).dueIdents 0 0 16).aisle 0).idents.length + 1 < 16 ∧
    (bit ((s 15).live .aisle 0 0x104) 14 = false) ∧
    (bit (bad.live .aisle 0 0x104) 14 = true ∧ bits (bad.live .aisle 0 0x104) 9 4 ≠ leAt (flitOf (aFlit head)).payload 20 1 % 64) := by
  refine ⟨rfl, by decide, rfl, by decide, flit_checked _ (by decide) (by decide +kernel) (by decide +kernel), ?_, ?_, ?_, ?_, ?_, ?_⟩
    <;> decide +kernel

/-- The slot of the first IDENT starts within four ticks of 0, that of the second does not before tick 253; sixteen have left. -/
theorem witness_AislePortsTrainAndFail_idents : let l := { Aisle.empty with state := 2 }
    ((withAisle l).aisle 0).state = 2 ∧ (l.identsOut < 16 ∧ l.lockAt + 256 * l.identsOut < 0 + 4) ∧
    252 + 4 ≤ l.lockAt + 256 * { l with identsOut := 1 }.identsOut ∧ 16 ≤ { l with identsOut := 16 }.identsOut := by decide

theorem witness_AislePortsTrainAndFail_losses : let l (n : Nat) := { Aisle.empty with state := n }
    let n (k : Nat) := { l 3 with replay := [⟨0, k, []⟩] }
    ((n 16).replay.any fun f => decide (16 ≤ f.tries)) = true ∧ ((n 15).replay.any fun f => decide (16 ≤ f.tries)) = false ∧
    (n 15).replay ≠ [] ∧ (n 15).ackAt + 330000 ≤ 330000 ∧ (l 3).replay = [] ∧ (l 3).goodAt + 330000 ≤ 330000 ∧
    329999 < (l 3).goodAt + 330000 ∧ (∀ k ∈ [2, 3, 5, 6], (l k).state ∈ [2, 3, 5, 6]) ∧ (l 4).state ∉ [2, 3, 5, 6] := by decide

set_option maxRecDepth 20000 in
/-- A port that is not UP and leads nowhere once another entry's two ports remain; jobs that are bound to a twin, solo or not. -/
theorem witness_AislePortsTrainAndFail_jobs : let s := withAisle { Aisle.empty with state := 3 }
    let off := { upState with pages := (List.range 4).map fun h => (pageNo .hdie h, aPage [(0x404, 0x121#32)]), aisles := [(1, { Aisle.empty with state := 3 })] }
    let r := (off.unroute 0).route 1
    let w : TwinSt := ⟨1, 1, 255, 1, false, false, 0, [], [], []⟩
    s.openJobs = [] ∧ (s.aisle 0).partFlits = 0 ∧ { s with fuses := { s.fuses with grade := 2 } }.portPresent 2 = false ∧
    ((off.aisle 0).state ≠ 3 ∧ 1 < 64 ∧ r.2.2.1 = true ∧ r.2.2.2.1 = false) ∧
    (withJob { aJob with twin := some w }).job 0 = some { aJob with twin := some w } ∧ w.solo = false ∧ { w with solo := true }.solo = true := by
  decide +kernel

/-- A job bound to a twin with interval 1, policy 1 and a time of 1 ms. -/
def aTwin : TwinSt := ⟨1, 1, 255, 1, false, false, 0, [], [], []⟩

/-- A SEAL and an ABORT of job 0, step 1; the seals of one device and of two; a table that is done and the partner's. -/
theorem witness_SealsAndAborts : let b (ty : Byte) := (List.replicate 8 0#8 ++ [ty, 0#8, 1#8] ++ List.replicate 33 0#8 : List Byte)
    let jb := { aJob with twin := some aTwin }
    let w := { aTwin with doneAt := [(1, 0)], partner := [(1, aTwin.table 1)] }
    ((mailJobState 4 (b 2#8) jb).clocked = true ∧ (mailJobState 4 (b 2#8) jb).clerk.serving = true) ∧
    ((mailJobState 4 (b 2#8) jb).takeLocal 0 (clerkMail 2)).isSome = true ∧ upState.pins.pos = 0#6 ∧
    { upState.pins with pos := 1#6 }.pos ≠ 0#6 ∧
    ((mailJobState 4 (b 4#8) jb).takeLocal 0 (clerkMail 4)).isSome = true ∧ mailJob ⟨4, 0, 1, b 4#8⟩ = 0 ∧ (withJob jb).job 0 = some jb ∧
    clerkStep ⟨4, 0, 1, b 4#8⟩ = 1 ∧
    ((w.doneAt.any fun q => decide (q.2 + w.timeout * 3300000 ≤ 3300000)) = true ∧ w.solo = false) ∧
    (w.doneAt.any fun q => decide (q.2 + w.timeout * 3300000 ≤ 3299999)) = false ∧
    (jb.twin = some aTwin ∧ aTwin.solo = false ∧ aTwin.interval ≠ 0 ∧ 1 % aTwin.interval = 0) ∧
    ({ aTwin with solo := true }.solo = true ∧ { aTwin with interval := 0 }.interval = 0 ∧ 1 % { aTwin with interval := 2 }.interval ≠ 0) ∧
    ((0 :: { twoDevices with twin := some aTwin }.peers).all fun q => [(1, 0, 0, 0#64)].any fun (x : Nat × Nat × Nat × W64) => x.1 = 1 && x.2.1 = q) = false ∧
    ((0 :: jb.peers).all fun q => [(1, 0, 0, 0#64)].any fun (x : Nat × Nat × Nat × W64) => x.1 = 1 && x.2.1 = q) = true ∧
    (12 ≤ aTwin.path ∧ { aTwin with path := 0 }.path < 12 ∧ (withJob jb).takeTable 0 0 1 = none ∧
      ((mailJobState 4 (b 3#8) jb).takeTable 0 0 1).isSome = true) ∧
    (aTwin.doneAt.any fun q => q.1 = 1) = false ∧
    ((w.doneAt.any fun q => q.1 = 1) = true ∧ (w.partner.find? fun q => q.1 = 1) = some (1, aTwin.table 1) ∧
      tableDiff (w.table 1) (aTwin.table 1) = 0 ∧ tableDiff (w.table 1) [1#8] ≠ 0 ∧ w.policy = 1 ∧ { w with policy := 0 }.policy ≠ 1) := by
  decide +kernel

/-- An ABORT of an accepted step, and of the next, which may have sent its contributions already. -/
theorem witness_SealsAndAborts_runs : let jb := { aJob with steps := [aStep 1 4096] }
    (∃ x ∈ jb.steps, x.n % 2 ^ 48 = 1) ∧ (∀ x ∈ jb.steps, x.n % 2 ^ 48 ≠ 2) ∧ jb.stepExpected (2 % 65536) = true := by decide

/-! ### The Clerk and its commands -/

theorem witness_ClerkServesAndRestarts : let r := { upState with clerk := { upState.clerk with serving := false, cores := [2, 1, 1, 1] } }
    let beat := { upState with pages := [(pageNo .lemef 0, aPage [(0x13C, 1#32)])] }
    let cached := { withHalf { Half.empty with state := 2 } with
      rings := { upState.rings with lines := [(beat.lemefReg 0x128, some [1#8])] }, pages := beat.pages }
    cached.cached (cached.lemefReg 0x128) = some [1#8] ∧ upState.ringsOn = false ∧ r.nextClerk 0 = some 1 ∧
    { upState with boot := { upState.boot with inspected := true }, clerk := { upState.clerk with cores := [4, 2, 1, 1] } }.lineCache = false ∧
    (upState.clocked = true ∧ { cached with clerk := { upState.clerk with cores := [2, 1, 1, 1] } }.lineCache = true ∧ (cached.half 0).state = 2 ∧ upState.boot.dev = 2) ∧ cached.clocked = true ∧
    bit ((upState.advance upState.power.nextBeat).live .lemef 0 0x13C) 0 = false ∧
    bit ((beat.advance beat.power.nextBeat).live .lemef 0 0x13C) 0 = true ∧
    (r.clerk.serving = false ∧ r.clerk.cores.getD r.primary 0 ≠ 4) ∧ upState.boot.dev ≠ 0 ∧ upState.clerk.serving = true ∧
    (let a := upState.advance 32999999; a.bell.now < a.clerk.refresh + 33000000) ∧
    (let a := upState.advance 33000000; a.clerk.refresh + 33000000 ≤ a.bell.now) := by decide +kernel

theorem witness_TimersExpire : let jb := { aJob with steps := [aStep 1 4096], deadline := 5, watchdog := 1 }
    let st := { Stall.empty with flight := [⟨.mx, 0, 0, 0, 0, 0, 7, aCommon, [], [], none, none⟩] }
    upState.clocked = true ∧ upState.clerk.serving = true ∧ (withJob jb).job 0 = some jb ∧ jb.cls = 1 ∧
    (jb.steps.find? fun (y : StepSt) => !y.missed && match y.closed with
      | some c => decide (y.release + jb.deadline < c)
      | none => true) = some (aStep 1 4096) ∧
    (jb.steps.find? fun (y : StepSt) => y.start != 0 && y.closed.isNone && y.abort.isNone) = some (aStep 1 4096) ∧
    jb.watchdog ≠ 0 ∧ aJob.watchdog = 0 ∧ (aStep 1 4096).start + jb.watchdog * 3300000 ≤ 3304096 ∧
    ((withJob aJob).positionsFree aJob = true ∧ aJob.preempted = false ∧
      (let p := { aJob with preempted := true }
       p.preempted = true ∧ (withJob p).positionsFree p = true)) ∧
    ((withJob jb).jobActive 0 = false ∧ jb.state ≠ 5 ∧ (withJob jb).closing 0 = false ∧ (jb.steps.any fun x => (withJob jb).abortingStep 0 x.n) = false) ∧
    ({ upState.clerk with acquiring := some (1, 100) }.acquiring = some (1, 100) ∧ 99 < 100 ∧ 100 ≤ 100) ∧
    ((withStall st).stall 0).flight.find? (fun x => x.eng = .mx) = some ⟨.mx, 0, 0, 0, 0, 0, 7, aCommon, [], [], none, none⟩ ∧
    (st.busy.get .mx).till + 1048576 ≤ 1048576 ∧ 1048575 < (st.busy.get .mx).till + 1048576 := by decide +kernel

theorem witness_TimersExpire_snapshots : let s := { upState with pages := [(pageNo .trace 0, aPage [(0x100, 0x101#32)])] }
    bit (s.live .trace 0 0x100) 0 = true ∧ bits (s.live .trace 0 0x100) 11 8 ≠ 0 ∧ bit (upState.live .trace 0 0x100) 0 = false := by
  decide +kernel

/-- One event of each severity; with 255 and 256 records before. -/
theorem witness_EventsActBySeverity : let e := upState.mkEv 0x3106 2 (some 0) .clerk 0 0 0
    let r : EvRec := ⟨e, 0, true⟩
    e.sev = 2 ∧ e.job = some 0 ∧ (upState.mkEv 0x6102 0 none .clerk 0 0 0).sev < 2 ∧ { e with sev := 1 }.job = some 0 ∧
    ({ e with sev := 3, source := pageId .stall 0 }.source = pageId .stall 0 ∧ 0 < 2 ^ 16) ∧ { e with sev := 4 }.sev = 4 ∧
    (List.replicate 255 r).length < 256 ∧ List.replicate 256 r = r :: List.replicate 255 r :=
  ⟨rfl, rfl, by decide, rfl, by decide, rfl, by rw [List.length_replicate]; decide, List.replicate_succ⟩

/-- A descriptor: opcode, flags byte, job, and more bytes at offset 32. -/
def aDesc (op flags job : Byte) (l : List Byte) : List Byte :=
  ([op, flags, job] ++ List.replicate 29 0#8 ++ l ++ List.replicate 128 0#8).take 128

/-- The same as a taken command of number 7. -/
def aTaken (op : Byte) (l : List Byte) : Taken := ⟨aDesc op 0#8 0#8 l, 7, false, false⟩

/-- A running device, with job 0, that has taken one command. -/
def took (x : Taken) (jb : Job) : State := { withJob jb with clerk := { upState.clerk with taken := [x] } }

theorem desc_op (op : Byte) (l : List Byte) : descOp (aDesc op 0#8 0#8 l) = op.toNat := by
  simp [descOp, descField, leAt, aDesc]

theorem desc_job (op : Byte) (l : List Byte) : descJob (aDesc op 0#8 0#8 l) = 0 := by
  simp [descJob, descField, leAt, aDesc]

theorem taken_may (s : State) (x : Taken) (h : s.clerk.taken = [x]) : s.mayStart x = true := by
  have e : (s.clerk.taken.takeWhile fun y => y != x) = [] := by rw [h]; simp
  unfold State.mayStart; rw [e]; simp

/-- A command of any opcode acts. -/
theorem took_runs (op : Byte) (l : List Byte) (jb : Job) : runs (took (aTaken op l) jb) 0 7 op.toNat (aTaken op l) :=
  ⟨rfl, rfl, desc_op op l, rfl, rfl, taken_may _ _ rfl⟩

/-- A command on job 0 in state 1 acts. -/
theorem took_runsOn (op : Byte) (l : List Byte) (jb : Job) (h : jb.state = 1) :
    runsOn (took (aTaken op l) jb) 0 7 op.toNat (aTaken op l) jb :=
  ⟨took_runs op l jb, by
    have e : ((took (aTaken op l) jb).advance 0).openJobs = [0] := by
      unfold State.openJobs
      rw [show ((took (aTaken op l) jb).advance 0).jobs = [(0, jb)] from rfl]
      simp [h]
    rw [e, show descJob (aTaken op l).desc = 0 from desc_job op l]; rfl,
    by rw [show descJob (aTaken op l).desc = 0 from desc_job op l]; rfl, fun e => absurd (h.symm.trans e) (by decide)⟩

/-- The last sequence number of an absent command, opcodes that do not match, a state that is not RUNNING (1 and 3), a job
that is not open, and a failed job. -/
theorem witness_CommandsMeetStateAndJob : let x := aTaken 0x08#8 []
    let s := took x aJob
    let held (n : Nat) := { s with boot := { s.boot with dev := n } }
    let none := { s with jobs := [] }
    let dead := took x { aJob with state := 5, failure := 0x6305 }
    commandAt (.jobSuspend 0 7) = some (0, 7, 0x08) ∧ s.clocked = true ∧ (s.advance 0).takenBy 8 = Option.none ∧
    (s.advance 0).takenBy 7 = some x ∧ descOp x.desc = 0x08 ∧ descOp x.desc ≠ 0x09 ∧ s.clerk.serving = true ∧ (s.advance 0).mayStart x = true ∧
    ((held 1).advance 0).boot.dev = 1 ∧ ((held 3).advance 0).boot.dev = 3 ∧ (0x08 ≠ 0x7E ∧ 0x08 ≠ 0x7F) ∧
    (s.boot.dev = 2 ∧ jobOpcode 0x08 = true ∧ (none.advance 0).openJobs.contains (descJob x.desc) = false) ∧
    ((dead.advance 0).openJobs.contains (descJob x.desc) = true ∧ ∃ jb, (dead.advance 0).job (descJob x.desc) = some jb ∧ jb.state = 5) := by
  refine ⟨?_, ?_, ?_, ?_, ?_, ?_, ?_, ?_, ?_, ?_, ?_, ?_, ?_, _, rfl, rfl⟩ <;> decide +kernel

theorem witness_DeviceCommandsAct_policy : let x (acq : Byte) := aTaken 0x20#8 [acq]
    let s (acq : Byte) := took (x acq) aJob
    let wide := took (x 0#8) twoDevices
    runs (s 0#8) 0 7 0x20 (x 0#8) ∧ runs (s 1#8) 0 7 0x20 (x 1#8) ∧ (x 0#8).started = false ∧
    bit (descField (x 1#8).desc 32 1) 0 = true ∧ bit (descField (x 0#8).desc 32 1) 0 = false ∧ ((s 1#8).advance 0).bell.state ≠ 2 ∧
    ((s 1#8).advance 0).openJobs ≠ [] ∧ { s 1#8 with jobs := [] }.openJobs = [] ∧
    ((s 0#8).openJobs.any fun k => (((s 0#8).job k).map Job.spans).getD false) = false ∧
    (wide.openJobs.any fun k => ((wide.job k).map Job.spans).getD false) = true := by
  refine ⟨took_runs 0x20#8 _ _, took_runs 0x20#8 _ _, ?_, ?_, ?_, ?_, ?_, ?_, ?_, ?_⟩ <;> decide +kernel

/-- TWIN_BIND with interval 1 through port 0, through the absent port 2 of grade 2, through no port (255), and with interval 0. -/
theorem witness_DeviceCommandsAct_twin : let x (n path : Byte) := aTaken 0x30#8 [n, 0#8, 0#8, path]
    let s (n path : Byte) := took (x n path) aJob
    let same := { s 1#8 0#8 with aisles := [(0, { Aisle.empty with peerValid := true })] }
    runsOn (s 1#8 0#8) 0 7 0x30 (x 1#8 0#8) aJob ∧ descField (x 1#8 11#8).desc 35 1 = 11 ∧ descField (x 1#8 12#8).desc 35 1 = 12 ∧
    (s 1#8 11#8).portPresent 11 = true ∧ { s 1#8 2#8 with fuses := { upState.fuses with grade := 2 } }.portPresent 2 = false ∧
    aJob.steps = [] ∧ ((s 1#8 0#8).advance 0).jobActive 0 = false ∧ descField (x 1#8 0#8).desc 32 2 ≠ 0 ∧ descField (x 0#8 0#8).desc 32 2 = 0 ∧
    ((same.aisle 0).peerValid = true ∧ (same.aisle 0).peerSide = same.pins.twin) ∧ ((s 1#8 0#8).aisle 0).peerValid = false ∧
    ((s 1#8 0#8).advance 0).twinPort 0 = false ∧
    { s 1#8 0#8 with pages := [(pageNo .aisle 0, aPage [(0x104, 4#32)])] }.twinPort 0 = true := by
  refine ⟨took_runsOn 0x30#8 _ _ rfl, ?_, ?_, ?_, ?_, ?_, ?_, ?_, ?_, ?_, ?_, ?_, ?_⟩ <;> decide +kernel

/-- A SELFTEST of stall 0, of the absent stall 1,536, of the device with a job open, queued or not, behind 3 and 4 others. -/
theorem witness_DeviceCommandsAct_selftest : let x (fl scope lo hi : Byte) : Taken := ⟨aDesc 0x10#8 fl 0#8 [scope, 0#8, lo, hi], 7, false, false⟩
    let s (q : List Nat) := { took (x 0#8 2#8 0#8 0#8) aJob with clerk := { upState.clerk with taken := [x 0#8 2#8 0#8 0#8], selfq := q } }
    runs (s []) 0 7 0x10 (x 0#8 2#8 0#8 0#8) ∧ (s [1, 2, 3]).clerk.selfq.contains 7 = false ∧ (s [7]).clerk.selfq.contains 7 = true ∧
    ((s []).advance 0).testScope (x 0#8 2#8 0#8 0#8).desc = [0] ∧ ((s []).advance 0).testScope (x 0#8 2#8 0#8 6#8).desc = [] ∧
    ((s []).advance 0).testReady (x 0#8 2#8 0#8 0#8).desc = true ∧ ((s []).advance 0).testReady (x 0#8 0#8 0#8 0#8).desc = false ∧
    (({ s [7] with jobs := [] }.advance 0).testReady (x 0#8 0#8 0#8 0#8).desc = true ∧ descField (x 0#8 0#8 0#8 0#8).desc 32 1 = 0) ∧
    bit (descField (x 1#8 0#8 0#8 0#8).desc 1 1) 0 = true ∧ [1, 2, 3].length < 4 ∧ 4 ≤ [1, 2, 3, 4].length ∧
    descField (x 0#8 2#8 0#8 0#8).desc 32 1 ≠ 0 := by
  refine ⟨⟨rfl, rfl, ?_, rfl, rfl, taken_may _ _ rfl⟩, ?_, ?_, ?_, ?_, ?_, ?_, ?_, ?_, ?_, ?_, ?_⟩ <;> decide +kernel

/-- FENCE and UNFENCE of stall 0, fenced or not, and of the absent stall 1,536; ECHO with and without a report; SUMMARY with a
buffer of no byte and of all bytes. -/
theorem witness_DeviceCommandsAct_others : let x (op : Byte) (l : List Byte) := aTaken op l
    let s (op : Byte) (l : List Byte) := took (x op l) aJob
    let f := { upState with clerk := { upState.clerk with fences := [0] } }
    let passes (i : Inspection) : Prop := (∀ q ∈ i.repair, q.1 ≠ 0) ∧ 0 ∉ i.scan ∧ 0 / 128 ∉ i.halls
    runs (s 0x11#8 []) 0 7 0x11 (x 0x11#8 []) ∧ runs (s 0x12#8 []) 0 7 0x12 (x 0x12#8 []) ∧ runs (s 0x7E#8 []) 0 7 0x7E (x 0x7E#8 []) ∧
    runs (s 0x7F#8 []) 0 7 0x7F (x 0x7F#8 []) ∧ upState.stallPresent (descField (x 0x11#8 []).desc 32 2) = true ∧
    upState.stallPresent (descField (x 0x11#8 [0#8, 6#8]).desc 32 2) = false ∧ f.clerk.fences.contains 0 = true ∧
    upState.clerk.fences.contains 0 = false ∧
    (passes ⟨[], [], [], [], [], [], []⟩ ∧ ¬ passes ⟨[], [0], [], [], [], [], []⟩ ∧ ¬ passes ⟨[(0, 0, 0)], [], [], [], [], [], []⟩ ∧
      ¬ passes ⟨[], [], [], [], [], [0], []⟩) ∧
    bit (descField (x 0x7E#8 []).desc 40 1) 0 = false ∧
    bit (descField (x 0x7E#8 (List.replicate 8 0#8 ++ [1#8])).desc 40 1) 0 = true ∧ upState.clerkUp 0 = false ∧
    { upState with clerk := { upState.clerk with cores := [2] } }.clerkUp 0 = true ∧
    descField (x 0x7F#8 []).desc 40 4 = 0 ∧ descField (x 0x7F#8 (List.replicate 12 255#8)).desc 40 4 = 2 ^ 32 - 1 := by
  refine ⟨took_runs 0x11#8 _ _, took_runs 0x12#8 _ _, took_runs 0x7E#8 _ _, took_runs 0x7F#8 _ _, ?_, ?_, ?_, ?_, ?_, ?_, ?_, ?_, ?_, ?_, ?_⟩
    <;> decide +kernel

/-- An admission record of a class with `pitches` pitches of one stall, 16 rounds long, deadline and period as given. -/
def aRecord (cls : Byte) (deadline period : Nat) (stalls : Byte) : List Byte :=
  [1#8, 0#8, cls, 1#8, 16#8, 0#8, 0#8, 0#8] ++ leBytes 8 deadline ++ leBytes 8 period ++ [1#8, 1#8] ++ List.replicate 38 0#8
    ++ [stalls, 0#8] ++ List.replicate 62 0#8

/-- A JOB_OPEN of classes 1, 0 and 4 with a record of 128 bytes. -/
def openDesc (cls : Byte) : List Byte := [cls] ++ List.replicate 23 0#8 ++ [128#8]

theorem witness_JobCommandsAct_open : let x (c : Byte) := aTaken 0x01#8 (openDesc c)
    let s := took (x 1#8) aJob
    let a := s.advance 0
    runs s 0 7 0x01 (x 1#8) ∧ descField (x 0#8).desc 32 1 = 0 ∧ 3 < descField (x 4#8).desc 32 1 ∧ descField (x 1#8).desc 32 1 = 1 ∧
    admOf [] = none ∧ descField (x 1#8).desc 56 4 = 128 ∧ (aRecord 1#8 2097152 2097152 1#8).length = 128 ∧
    (admOf (aRecord 2#8 0 0 1#8)).map (·.cls) = some 2 ∧
    (admOf (aRecord 1#8 2097152 2097152 1#8)).map (fun r => timeTest r.length r.deadline r.period a.kMax 0) = some true ∧
    (admOf (aRecord 1#8 2097152 2097152 1#8)).map (fun r => a.neverFits r [(0, 0, 0)]) = some false ∧ a.freeJob = some 1 ∧
    (admOf (aRecord 1#8 2097152 2097152 1#8)).map (fun r => a.bandwidthFits r.pitches [(0, 0, 0)]) = some true ∧
    ((admOf (aRecord 1#8 2097152 2097152 1#8)).bind fun r => (a.choosePlace r 0 [(0, 0, 0)]).map fun p => p.2) = some [(0, 0, 0)] ∧
    (admOf (aRecord 1#8 73728 2097152 1#8)).map (fun r => timeTest r.length r.deadline r.period a.kMax 0) = some false ∧
    (admOf (aRecord 1#8 2097152 2097152 1#8)).map (fun r => r.devices) = some 1 ∧
    ((admOf (aRecord 1#8 2097152 2097152 1#8)).bind fun r => a.choosePlace { r with devices := 2 } 9 [(0, 0, 0)]) = some (9, [(0, 0, 0)]) := by
  refine ⟨took_runs 0x01#8 _ _, ?_, ?_, ?_, ?_, ?_, ?_, ?_, ?_, ?_, ?_, ?_, ?_, ?_, ?_, ?_⟩ <;> decide +kernel

/-- JOB_LOAD of an image of no bytes with nothing in it, and of one whose pitch 0 the job does not list. -/
theorem witness_JobCommandsAct_load : let x := aTaken 0x02#8 (List.replicate 16 0#8 ++ leBytes 4 (check32 []).toNat)
    let s := took x aJob
    let im : LoadImage := ⟨0, 0, 0, [], [], [], [], []⟩
    let un : LoadImage := { im with units := [(0, 0, 1)] }
    runsOn s 0 7 0x02 x aJob ∧ (s.advance 0).loadError 0 aJob x.desc [] im = none ∧ ((s.advance 0).loadUnits 0 aJob im []).isSome = true ∧
    (s.advance 0).loadError 0 aJob x.desc [] { im with streams := [(5, 0, 0, 0)] } = some (0, 5) ∧
    (s.advance 0).loadError 0 aJob x.desc [0#8] im = some (0, 0) ∧
    (s.advance 0).loadError 0 aJob x.desc [] un = some (0x4203, 0) := by
  refine ⟨took_runsOn 0x02#8 _ _ rfl, ?_, ?_, ?_, ?_, ?_⟩ <;> decide +kernel

/-- A search answers no more pages than it looks at. -/
theorem pickPages_length (free : Nat → Bool) (fuel p n : Nat) : (pickPages free fuel p n).length ≤ fuel := by
  induction fuel generalizing p n with
  | zero => simp [pickPages]
  | succ k ih =>
    cases n with
    | zero => simp [pickPages]
    | succ m =>
      unfold pickPages; split
      · simpa using ih (p + 1) m
      · exact Nat.le_succ_of_le (ih (p + 1) (m + 1))

/-- A mapping of more pages than there are, none of them offered, is wanting. -/
theorem mapRange_wants (s : State) (j va : Nat) (w c : Bool) (h : Option (Nat × Nat)) (fits : Nat → Bool) (n : Nat) (l : List Nat)
    (big : hbmPages + 192 < n) : s.mapRange j va w c h fits n [] l = none := by
  have short (f : Nat → Bool) : (pickPages f (hbmPages + 192) 0 n).length ≠ n := by
    have := pickPages_length f (hbmPages + 192) 0 n; omega
  unfold State.mapRange State.choosePages
  simp [short, show ¬ 0 = n by omega]

/-- JOB_MAP of the first page: for the device, unmapped, in a hall store, and where an image pins it; and of more pages than
there are. -/
theorem witness_JobCommandsAct_map : let x (f : Byte) := aTaken 0x03#8 (List.replicate 10 0#8 ++ [32#8] ++ List.replicate 5 0#8 ++ [f])
    let s (f : Byte) := took (x f) aJob
    let pin := { aJob with image := some ⟨0, 0, 0, [], [(0, 0, 1)], [], [], []⟩ }
    runsOn (s 0#8) 0 7 0x03 (x 0#8) aJob ∧ aJob.pins 0 2097152 = false ∧ pin.pins 0 2097152 = true ∧
    descField (x 0#8).desc 40 8 = 2097152 ∧ bit (descField (x 4#8).desc 48 1) 2 = true ∧ bit (descField (x 0#8).desc 48 1) 2 = false ∧
    bit (descField (x 8#8).desc 48 1) 3 = true ∧ placeOf aJob.place 0 0 = none ∧ placeOf [(0, 0, 4096)] 0 0 = some 4096 ∧
    remoteStall 4096 = true ∧ ((s 0#8).mapRange 0 0 true false none (mapFits 0 none) 1 [] []).isSome = true ∧
    (s 0#8).mapRange 0 0 true false none (mapFits 0 none) 1048576 [] [] = none := by
  refine ⟨took_runsOn 0x03#8 _ _ rfl, ?_, ?_, ?_, ?_, ?_, ?_, ?_, ?_, ?_, ?_, mapRange_wants _ _ _ _ _ _ _ _ _ (by decide)⟩ <;> decide +kernel

/-- A hall store page of a pitch that declared one, with none and with one mapped before. -/
theorem witness_JobCommandsAct_hall : let jb := { aJob with place := [(0, 0, 0)], adm := [⟨1, 0, true, false, [0, 0, 0, 0], 0, 0, 0, 0, 0, 0, 0, 1⟩] }
    let used := { jb with maps := [⟨0, hallBase, true, false, some (0, 0)⟩] }
    remoteStall 0 = false ∧ placeOf jb.place 0 0 = some 0 ∧
    ¬ ((jb.adm[0]?).map (·.hallPages)).getD 0 < jb.hallMapped 0 0 + 1 ∧ ((used.adm[0]?).map (·.hallPages)).getD 0 < used.hallMapped 0 0 + 1 ∧
    ((withJob jb).mapRange 0 0 true false (some (0, 0)) (mapFits 0 (some 0)) 1 [hallBase] []).isSome = true := by decide +kernel

/-- JOB_SUSPEND, JOB_RESUME, and JOB_CLOSE before and after its start, of a job with no step or with an armed one. -/
theorem witness_JobCommandsAct_close : let x (op : Byte) := aTaken op []
    let s (op : Byte) := took (x op) aJob
    let armed := { aJob with steps := [{ aStep 1 4096 with armed := some (8192, true) }] }
    runsOn (s 0x08#8) 0 7 0x08 (x 0x08#8) aJob ∧ runsOn (s 0x09#8) 0 7 0x09 (x 0x09#8) aJob ∧ runsOn (s 0x06#8) 0 7 0x06 (x 0x06#8) aJob ∧
    (x 0x06#8).started = false ∧ { x 0x06#8 with started := true }.started = true ∧ ((s 0x06#8).advance 0).jobActive 0 = false ∧
    aJob.steps = [] ∧ (∃ y ∈ armed.steps, y.armed ≠ none) := by
  refine ⟨took_runsOn 0x08#8 _ _ rfl, took_runsOn 0x09#8 _ _ rfl, took_runsOn 0x06#8 _ _ rfl, ?_, ?_, ?_, ?_, ?_⟩ <;> decide +kernel

/-- STEP_RUN of step 1 with guards 127 and 128, of a step that is consumed, and with an image; on one device and on two. -/
theorem witness_StepsMovesAndLedgers_run : let x (g : Byte) := aTaken 0x04#8 ([1#8] ++ List.replicate 7 0#8 ++ [g])
    let im : Job := { aJob with image := some ⟨0, 0, 0, [], [], [], [], []⟩ }
    let two := { twoDevices with steps := [{ aStep 1 0 with seq := 7 }] }
    let one := { aJob with steps := [{ aStep 1 0 with seq := 7 }] }
    runsOn (took (x 0#8) im) 0 7 0x04 (x 0#8) im ∧ (x 0#8).started = false ∧ descField (x 127#8).desc 40 2 = 127 ∧
    128 ≤ descField (x 128#8).desc 40 2 ∧ im.image ≠ none ∧ aJob.image = none ∧ descField (x 0#8).desc 32 8 = 1 ∧ im.consumed < 1 ∧
    { im with consumed := 1, resolution := 1 }.resolution ≠ 0 ∧
    ((withJob one).job 0 = some one ∧ (one.steps.find? fun z => z.seq = 7 && z.start = 0 && z.abort.isNone) = some { aStep 1 0 with seq := 7 }) ∧
    ((withJob one).jobReady 0 0 one = true ∧ one.spans = false) ∧ (withJob { one with quietAt := 1 }).jobReady 0 0 { one with quietAt := 1 } = false ∧
    two.spans = true ∧ 4095 < 0 + 4096 ∧ (0 + 4096 ≤ 4096 ∧ 4096 % 4096 = 64 * two.phase ∧ two.startsApart 1 4096 = true) ∧
    { two with starts := [(5, 4096)] }.startsApart 1 4096 = false := by
  refine ⟨took_runsOn 0x04#8 _ _ rfl, ?_, ?_, ?_, ?_, ?_, ?_, ?_, ?_, ?_, ?_, ?_, ?_, ?_, ?_, ?_⟩ <;> decide +kernel

/-- STEP_ABORT of a step that waits in a STEP_RUN, of none, of a step that runs, of an armed one and of one within Λ of its guard. -/
theorem witness_StepsMovesAndLedgers_abort : let x := aTaken 0x05#8 [1#8]
    let y : Taken := { aTaken 0x04#8 [1#8] with seq := 6 }
    let jb := { aJob with steps := [aStep 1 4096] }
    let waits (z : Taken) : Bool := !z.dup && !z.started && descOp z.desc = 0x04 && descJob z.desc = 0 && descField z.desc 32 8 = 1
    runsOn (took x jb) 0 7 0x05 x jb ∧ [y, x].find? waits = some y ∧ [x].find? waits = none ∧ (aJob.steps.find? fun z => z.n = 1) = none ∧
    (jb.steps.find? fun z => z.n = 1) = some (aStep 1 4096) ∧ (aStep 1 4096).start ≠ 0 ∧ (aStep 1 0).start = 0 ∧ (aStep 1 4096).armed = none ∧ (aStep 1 4096).abort = none ∧
    { aStep 1 4096 with armed := some (1, true) }.armed.isSome = true ∧ jb.lead = 2048 ∧ 2047 < 0 + jb.lead ∧ 0 + jb.lead ≤ 2048 ∧
    { x with started := true }.started = true ∧
    { withJob { jb with place := [(0, 0, 0)] } with stalls := [(0, aStall)] }.jobActive 0 = true := by
  refine ⟨took_runsOn 0x05#8 _ _ rfl, ?_, ?_, ?_, ?_, ?_, ?_, ?_, ?_, ?_, ?_, ?_, ?_, ?_, ?_⟩ <;> decide +kernel

/-- A job with a pitch of one stall that may move, at stall 0. -/
def movingJob : Job := { aJob with cls := 2, adm := [⟨1, 0, true, false, [0, 0, 0, 0], 0, 0, 0, 0, 0, 0, 0, 0⟩], place := [(0, 0, 0)] }

/-- The same with a pitch that asks for 33 flags, which no stall has. -/
def stuckJob : Job := { movingJob with adm := [⟨1, 0, true, false, [0, 0, 0, 0], 0, 0, 33, 0, 0, 0, 0, 0⟩] }

/-- Dies on which nothing fits give no placement. -/
theorem firstPlan_none {plan : List Nat → Option (List (Nat × Nat × Nat))} (h : ∀ ds, plan ds = none)
    (rank : List Nat → Nat × Nat) (single : Bool) (l : List (List Nat)) : firstPlan plan rank single l = none := by
  induction l with
  | nil => rfl
  | cons ds r ih => simp [firstPlan, h, ih]

/-- A pitch that fits nowhere has no placement on any dies. -/
theorem planOn_none (a : Ask) (left : List Nat) (n : 0 < a.n) (h : ∀ d, a.on d = []) (ds : List Nat) : planOn [a] left ds = none := by
  have f : ∀ w : List Nat, w.flatMap a.on = [] := fun w => List.flatMap_eq_nil_iff.2 fun d _ => h d
  have lw : lowest ds [a] left [] = none := by
    unfold lowest
    simp only [h, List.filter_nil, ite_self]
    have g : (if a.oneDie = true then (List.find? (fun l => decide (a.n ≤ l.length)) (List.map (fun d => ([] : List Nat)) ds)).getD []
      else List.flatMap (fun d => ([] : List Nat)) ds) = [] := by
      split
      · rw [List.find?_eq_none.2 (by simp; omega)]; rfl
      · simp
    rw [g]; simp [n]
  have pl : placeable ds [a] left [] = false := by
    unfold placeable Ask.ways
    split
    · omega
    · split <;> simp [h, f] <;> omega
  unfold planOn
  simp only [lw, pl]
  split <;> rfl

/-- A pitch that asks for more than 32 flags finds no stall. -/
theorem movePitch_none (s : State) (j p phase : Nat) (why : MoveWhy) (halls : List Nat) (jb : Job) (a : PitchAdm) (hj : s.job j = some jb)
    (ha : jb.adm[p]? = some a) (ph : phase = jb.phase) (n : 0 < a.stalls) (here : a.remote = false) (fl : 32 < a.flags) :
    s.movePitch j p phase why [] halls = none := by
  have fits : ∀ (z : State) ph sn, z.fits ph a sn = false := fun z ph sn => by
    have : z.roomFor sn a = none := by
      unfold State.roomFor
      have : ∀ l, freeRun l a.flags 32 = none := fun l => by
        unfold freeRun; rw [if_neg (by omega), show 32 + 1 - a.flags = 0 by omega]; rfl
      simp [this]
    unfold State.fits; rw [this]; simp
  have best : ∀ (z : State) ph t base home, z.bestPlace (z.asks ph t [(a, p)]) base home = none := fun z ph t base home => by
    have : z.asks ph t [(a, p)] = [⟨p, a.stalls, 0, a.span = 0, a.hallPages, [], List.replicate 12 []⟩] := by
      simp [State.asks, here, fits, List.map_const']
    rw [this]
    unfold State.bestPlace
    refine List.findSome?_eq_none_iff.2 fun k _ => firstPlan_none (fun ds => planOn_none _ _ n (fun d => ?_) ds) _ _ _
    simp only [Ask.on, List.getD_eq_getElem?_getD, List.getElem?_replicate]; split <;> rfl
  have off : ∀ (z : State) ph taken, z.offerFits ph a taken [] = false := fun z ph taken => by unfold State.offerFits; simp; omega
  unfold State.movePitch
  simp [hj, ha, ph, off, best]

/-- A move for which there is room; a fenced pitch that finds none; and a pre-empted job's running step, which is left first. -/
theorem witness_StepsMovesAndLedgers_moves : let s := withJob movingJob
    let a := s.advance 0
    let stuck := { withJob stuckJob with clerk := { upState.clerk with fences := [0] } }
    let left := { movingJob with preempted := true, steps := [aStep 1 4096] }
    s.clocked = true ∧ s.clerk.serving = true ∧ a.job 0 = some movingJob ∧ a.mayMove 0 0 movingJob .admission = true ∧
    a.mayMove 0 0 movingJob .fence = false ∧ a.leavesPreempted 0 movingJob .admission = false ∧
    (a.movePitch 0 0 0 .admission [1] []).isSome = true ∧
    (stuck.advance 0).mayMove 0 0 stuckJob .fence = true ∧ (stuck.advance 0).movePitch 0 0 0 .fence [] [] = none ∧
    ({ withJob left with stalls := [(0, aStall)] }.advance 0).leavesPreempted 0 left .admission = true := by
  refine ⟨?_, ?_, ?_, ?_, ?_, ?_, ?_, ?_, movePitch_none _ 0 0 0 .fence [] stuckJob _ ?_ rfl ?_ ?_ rfl ?_, ?_⟩ <;> decide +kernel

/-- A reconciliation with something to apportion, and one with nothing. -/
theorem witness_StepsMovesAndLedgers_ledger : let s := withJob movingJob
    let b := s.advance s.power.nextRec
    let c := b.stalls.foldl (fun z q => z.accrueAt .stall q.1) b
    let u := { c with power := { c.power with nextRec := s.power.nextRec + 3300000 } }
    s.clocked = true ∧ s.boot.dev ≠ 0 ∧ (u.estimates [] ⟨1, 1, 1⟩ 3300000).sum ≠ 0 ∧ (u.estimates [] ⟨0, 0, 0⟩ 3300000).sum = 0 := by
  decide +kernel

end Sys2Proof.Machine
end

section
/-! PROOFS. The register window (R12, R13, R15, R459 to R466): the access codes of a page, writes that reach a page or are
refused, and reads with their latches. -/
namespace Sys2Proof.Machine

/-! ### Stored words of a page -/

/-- The word that a table of live words gives an offset: what is listed, else the reset value. -/
def storedWord (p : PageTy) (i : Nat) (l : List (Nat × W32)) (o : Nat) : W32 :=
  (sget l o).getD (BitVec.ofNat 32 (p.reset i o))

theorem Page.word_eq_storedWord (pg : Page) (p : PageTy) (i o : Nat) : pg.word p i o = storedWord p i pg.live o := rfl

@[simp] theorem storedWord_sset_same (p : PageTy) (i : Nat) (l : List (Nat × W32)) (o : Nat) (v : W32) :
    storedWord p i (sset l o v) o = v := by simp [storedWord]

theorem storedWord_sset_other (p : PageTy) (i : Nat) (l : List (Nat × W32)) {o n : Nat} (v : W32) (h : n ≠ o) :
    storedWord p i (sset l o v) n = storedWord p i l n := by unfold storedWord; rw [sget_sset_other _ _ h]

theorem Page.shadowWord_of_row {p : PageTy} {i o : Nat} {r : RegRow} (h : p.row i o = some r) (pg : Page) :
    pg.shadowWord p i o = (sget pg.shadow o).getD (BitVec.ofNat 32 (p.reset i o &&& r.rws)) := by
  unfold Page.shadowWord; rw [h]

/-! ### Writes of RW bits (R12, R13) -/

/-- Merging bits under a mask leaves those outside it. -/
theorem merge_keeps (a x m : W32) : ((a &&& ~~~m) ||| (x &&& m)) &&& ~~~m = a &&& ~~~m := by
  ext j hj
  simp only [BitVec.getElem_and, BitVec.getElem_or, BitVec.getElem_not]
  cases m[j] <;> simp

section
variable {p : PageTy} {i o : Nat} {r : RegRow} (h : p.row i o = some r) (pg : Page) (v : W32)
include h

theorem Page.writeRW_of_rw_zero (k : r.rw = 0) : pg.writeRW p i o v = pg := by
  unfold Page.writeRW; simp [h, k]

theorem Page.writeRW_of_rw (k : r.rw ≠ 0) : pg.writeRW p i o v = { pg with
    live := sset pg.live o ((pg.word p i o &&& ~~~(BitVec.ofNat 32 r.rw)) ||| (v &&& BitVec.ofNat 32 r.rw)) } := by
  unfold Page.writeRW; simp [h, k]

theorem Page.word_writeRW_same : (pg.writeRW p i o v).word p i o
    = ((pg.word p i o &&& ~~~(BitVec.ofNat 32 r.rw)) ||| (v &&& BitVec.ofNat 32 r.rw)) := by
  by_cases k : r.rw = 0
  · rw [Page.writeRW_of_rw_zero h pg v k, k, BitVec.not_zero, BitVec.and_allOnes, BitVec.and_zero, BitVec.or_zero]
  · rw [Page.writeRW_of_rw h pg v k, Page.word_eq_storedWord, storedWord_sset_same]

theorem Page.word_writeRW_other {n : Nat} (e : n ≠ o) : (pg.writeRW p i o v).word p i n = pg.word p i n := by
  by_cases k : r.rw = 0
  · rw [Page.writeRW_of_rw_zero h pg v k]
  · rw [Page.writeRW_of_rw h pg v k]; exact storedWord_sset_other p i pg.live _ e

theorem Page.writeRW_shadow : (pg.writeRW p i o v).shadow = pg.shadow := by
  by_cases k : r.rw = 0
  · rw [Page.writeRW_of_rw_zero h pg v k]
  · rw [Page.writeRW_of_rw h pg v k]

/-! ### Writes of RWS bits (R463, R464) -/

theorem Page.writeShadow_of_rws_zero (late : Bool) (k : r.rws = 0) : pg.writeShadow p i o v late = pg := by
  unfold Page.writeShadow; simp [h, k]

theorem Page.writeShadow_now (k : r.rws ≠ 0) : pg.writeShadow p i o v false
    = { pg with shadow := sset pg.shadow o (v &&& BitVec.ofNat 32 r.rws), dirty := true } := by
  unfold Page.writeShadow; simp [h, k]

theorem Page.writeShadow_late (k : r.rws ≠ 0) : pg.writeShadow p i o v true
    = { pg with lateShadow := sset pg.lateShadow o (v &&& BitVec.ofNat 32 r.rws) } := by
  unfold Page.writeShadow; simp [h, k]

theorem Page.writeShadow_live (late : Bool) : (pg.writeShadow p i o v late).live = pg.live := by
  by_cases k : r.rws = 0
  · rw [Page.writeShadow_of_rws_zero h pg v late k]
  · cases late with
    | false => rw [Page.writeShadow_now h pg v k]
    | true => rw [Page.writeShadow_late h pg v k]

theorem Page.shadowWord_writeShadow (k : r.rws ≠ 0) :
    (pg.writeShadow p i o v false).shadowWord p i o = (v &&& BitVec.ofNat 32 r.rws) := by
  rw [Page.writeShadow_now h pg v k, Page.shadowWord_of_row h]; simp

/-- A late write is in the shadow once the boundary is past. -/
theorem Page.takeLate_writeShadow_late (k : r.rws ≠ 0) (e : pg.lateShadow = []) :
    ((pg.writeShadow p i o v true).takeLate.shadowWord p i o = (v &&& BitVec.ofNat 32 r.rws)) ∧
    (pg.writeShadow p i o v true).takeLate.dirty = true := by
  rw [Page.writeShadow_late h pg v k, Page.shadowWord_of_row h, e]
  simp [Page.takeLate, sset]

end

/-! ### Commits (R464) -/

/-- What a commit does to the live words for one shadow word: its RWS bits are copied. -/
def commitEntry (p : PageTy) (i : Nat) (q : Nat × W32) (l : List (Nat × W32)) : List (Nat × W32) :=
  match p.row i q.1 with
  | some r => sset l q.1 ((storedWord p i l q.1 &&& ~~~(BitVec.ofNat 32 r.rws)) ||| (q.2 &&& BitVec.ofNat 32 r.rws))
  | none => l

theorem Page.apply_live (pg : Page) (p : PageTy) (i : Nat) :
    (pg.apply p i).live = pg.shadow.foldr (commitEntry p i) pg.live := rfl

theorem storedWord_commitEntry_same {p : PageTy} {i o : Nat} {r : RegRow} (h : p.row i o = some r) (x : W32)
    (l : List (Nat × W32)) : storedWord p i (commitEntry p i (o, x) l) o
      = ((storedWord p i l o &&& ~~~(BitVec.ofNat 32 r.rws)) ||| (x &&& BitVec.ofNat 32 r.rws)) := by
  simp [commitEntry, h]

theorem storedWord_commitEntry_other (p : PageTy) (i : Nat) {q : Nat × W32} {o : Nat} (e : q.1 ≠ o) (l : List (Nat × W32)) :
    storedWord p i (commitEntry p i q l) o = storedWord p i l o := by
  unfold commitEntry
  split
  · exact storedWord_sset_other p i l _ e.symm
  · rfl

/-- The bits that are not RWS stand through a commit. -/
theorem storedWord_foldr_commitEntry_masked {p : PageTy} {i o : Nat} {r : RegRow} (h : p.row i o = some r)
    (sh l : List (Nat × W32)) : storedWord p i (sh.foldr (commitEntry p i) l) o &&& ~~~(BitVec.ofNat 32 r.rws)
      = storedWord p i l o &&& ~~~(BitVec.ofNat 32 r.rws) := by
  induction sh with
  | nil => rfl
  | cons q sh ih =>
    obtain ⟨n, x⟩ := q
    by_cases e : n = o
    · subst e; rw [List.foldr_cons, storedWord_commitEntry_same h, merge_keeps, ih]
    · rw [List.foldr_cons, storedWord_commitEntry_other p i e, ih]

/-- A word that the shadow does not list stands through a commit. -/
theorem storedWord_foldr_commitEntry_none (p : PageTy) (i : Nat) {o : Nat} {sh : List (Nat × W32)} (l : List (Nat × W32))
    (k : sget sh o = none) : storedWord p i (sh.foldr (commitEntry p i) l) o = storedWord p i l o := by
  induction sh with
  | nil => rfl
  | cons q sh ih =>
    obtain ⟨n, x⟩ := q
    by_cases e : n = o
    · simp [sget, e] at k
    · rw [List.foldr_cons, storedWord_commitEntry_other p i e]
      exact ih (by simpa [sget, e] using k)

/-- A word that the shadow lists gives its RWS bits to the live word. -/
theorem storedWord_foldr_commitEntry_some {p : PageTy} {i o : Nat} {r : RegRow} (h : p.row i o = some r) {x : W32}
    {sh : List (Nat × W32)} (l : List (Nat × W32)) (k : sget sh o = some x) :
    storedWord p i (sh.foldr (commitEntry p i) l) o
      = ((storedWord p i l o &&& ~~~(BitVec.ofNat 32 r.rws)) ||| (x &&& BitVec.ofNat 32 r.rws)) := by
  induction sh with
  | nil => cases k
  | cons q sh ih =>
    obtain ⟨n, y⟩ := q
    by_cases e : n = o
    · subst e
      obtain rfl : y = x := by simpa [sget] using k
      rw [List.foldr_cons, storedWord_commitEntry_same h, storedWord_foldr_commitEntry_masked h]
    · rw [List.foldr_cons, storedWord_commitEntry_other p i e]
      exact ih (by simpa [sget, e] using k)

/-- Settles O35: each access code by its own lemma, and the commit by induction on the shadow words. -/
theorem accessCodesOfAPage : Obligations.AccessCodesOfAPage := by
  unfold Obligations.AccessCodesOfAPage
  intro pg p i o v r h _ rws
  refine ⟨Page.word_writeRW_same h pg v, Page.writeRW_shadow h pg v, fun n => Page.word_writeRW_other h pg v,
    fun late => ⟨Page.writeShadow_live h pg v late, Page.writeShadow_of_rws_zero h pg v late⟩, ?now, ?late,
    fun x k => storedWord_foldr_commitEntry_some h pg.live k, storedWord_foldr_commitEntry_none p i pg.live,
    rfl, rfl, rfl, rfl, rfl, ?request⟩
  case now =>
    intro k
    exact ⟨Page.shadowWord_writeShadow h pg v k, by rw [Page.writeShadow_now h pg v k]⟩
  case late =>
    intro k u
    have hu : u = { pg with lateShadow := sset pg.lateShadow o (v &&& rws) } := Page.writeShadow_late h pg v k
    exact ⟨by rw [hu], by rw [hu], by rw [hu]; rfl, Page.takeLate_writeShadow_late h pg v k⟩
  case request => simp [Page.request, Page.takeLate]

/-! ### Writes of the register window (R432, R459, R461, R465) -/

/-- A write that is refused to the companion counts in ACCESS_REFUSED of its half-port (R432). -/
def State.refuseWrite (s : State) (agent : Nat) : State := if 4 ≤ agent then s.count (lemefPage (agent - 4)) 0x68 1 else s

theorem State.refuseWrite_only (s : State) (agent : Nat) : Only [.pages, .stalls] s (s.refuseWrite agent) :=
  holds_ite State.count_only (.refl s)

theorem State.writeReg_unassigned (s : State) (t agent : Nat) {addr : Nat} (v : W32) (h : pageOf addr = none) :
    s.writeReg t agent addr v = (s.count (pageNo .device 0) 0x48 1).refuseWrite agent := by
  unfold State.writeReg; rw [h]; rfl

section
variable {s : State} {agent addr : Nat} {p : PageTy} {i : Nat} (t : Nat) (v : W32) (h : pageOf addr = some (p, i))
include h

theorem State.writeReg_absent (k : s.pagePresent p i = false) :
    s.writeReg t agent addr v = (s.count (pageNo .device 0) 0x40 1).refuseWrite agent := by
  unfold State.writeReg; simp only [h, k]; rfl

theorem State.writeReg_forbidden (k : s.pagePresent p i = true) (m : s.mayWrite agent p i (addr % 0x1000) = false) :
    s.writeReg t agent addr v = s.refuseWrite agent := by
  unfold State.writeReg; simp only [h, k, m]; rfl

theorem State.writeReg_accepted (k : s.pagePresent p i = true) (m : s.mayWrite agent p i (addr % 0x1000) = true) :
    s.writeReg t agent addr v = s.applyWrite t p i (addr % 0x1000) v := by
  unfold State.writeReg; simp only [h, k, m]; rfl

end

/-- A block register whose write does not act takes its RW bits at once and its RWS bits in the shadow. -/
theorem State.writeBlockReg_plain {p : PageTy} {i o : Nat} (h : actsOnWrite p i o = false) (s : State) (t : Nat) (v : W32) :
    s.writeBlockReg t p i o v = s.setPage (pageNo p i)
      (((s.page (pageNo p i)).writeRW p i o v).writeShadow p i o v s.atBoundary) := by
  unfold State.writeBlockReg
  cases p with
  | stall | cdie | hdie | sched | aisle | bell | power | ledger | lemef => exact if_neg (by simpa [actsOnWrite] using h)
  | device | policy | fault | trace | security | clerk | update | hbm | arb => rfl

section
variable (s : State) (t : Nat) (p : PageTy) (i : Nat) {o : Nat} (v : W32)

theorem State.applyWrite_common (h : o < 0x40) : s.applyWrite t p i o v = s.writeCommon (pageNo p i) p i o v := by
  unfold State.applyWrite; rw [if_pos h]

theorem State.applyWrite_shadow (h : 0x800 ≤ o) : s.applyWrite t p i o v
    = s.setPage (pageNo p i) ((s.page (pageNo p i)).writeShadow p i (o - 0x800) v s.atBoundary) := by
  unfold State.applyWrite; rw [if_neg (by omega), if_pos h]

theorem State.applyWrite_plain (h : 0x40 ≤ o) (k : o < 0x800) (m : actsOnWrite p i o = false) : s.applyWrite t p i o v
    = s.setPage (pageNo p i) (((s.page (pageNo p i)).writeRW p i o v).writeShadow p i o v s.atBoundary) := by
  unfold State.applyWrite; rw [if_neg (by omega), if_neg (by omega), State.writeBlockReg_plain m]

theorem State.applyWrite_eventEnable (h : o = 0x01C) :
    s.applyWrite t p i o v = s.setPage (pageNo p i) ((s.page (pageNo p i)).writeRW p i o v) := by
  subst h; exact State.applyWrite_common s t p i v (by decide)

theorem State.applyWrite_commit (h : o = 0x010) (k : v.getLsbD 0 = true) :
    s.applyWrite t p i o v = s.setPage (pageNo p i) ((s.page (pageNo p i)).request s.atBoundary) := by
  subst h; rw [State.applyWrite_common s t p i v (by decide)]; exact if_pos k

end

/-- A write by command that touches nothing but pages stands as it is. -/
theorem exec_registerWrite_eq {s x : State} {t agent addr : Nat} {v : W32} (hc : s.clocked = true)
    (h : (s.advance t).writeReg t agent addr v = x) (o : Only [.pages, .stalls] (s.advance t) x) :
    exec (.registerWrite t agent addr v) s = .next x := by
  change Host.Outcome.next ((s.advance t).on ((s.advance t).writeReg t agent addr v)) = .next x
  rw [h, o.on (by simpa using hc)]

/-- COMMIT by command is a write of the page's COMMIT register (R464). -/
theorem exec_commit (s : State) (t agent page : Nat) (v : W32) :
    exec (.commit t agent page v) s = exec (.registerWrite t agent (page * 0x1000 + 0x010) v) s := rfl

/-- An offset inside a page does not change which page an address lies in. -/
theorem pageOf_page_add (addr : Nat) {o : Nat} (h : o < 0x1000) : pageOf (addr / 0x1000 * 0x1000 + o) = pageOf addr := by
  unfold pageOf; rw [show (addr / 0x1000 * 0x1000 + o) / 0x1000 = addr / 0x1000 by omega]

/-- Settles O36: a write is either refused or reaches its page, and either way touches pages alone. -/
theorem registerWritesReachTheirPage : Obligations.RegisterWritesReachTheirPage := by
  unfold Obligations.RegisterWritesReachTheirPage
  intro s t agent addr v hc a o refused
  refine ⟨fun h => ?_, fun p i h => ⟨fun k => ?_, fun k m => ?_, fun k m => ?_⟩⟩
  · exact exec_registerWrite_eq hc (State.writeReg_unassigned a t agent v h)
      (State.count_only.trans (State.refuseWrite_only _ agent))
  · exact exec_registerWrite_eq hc (State.writeReg_absent t v h k)
      (State.count_only.trans (State.refuseWrite_only _ agent))
  · exact exec_registerWrite_eq hc (State.writeReg_forbidden t v h k m) (State.refuseWrite_only a agent)
  · intro n
    have reaches : ∀ pg, a.applyWrite t p i o v = a.setPage n pg →
        exec (.registerWrite t agent addr v) s = .next (a.setPage n pg) := fun pg e =>
      exec_registerWrite_eq hc ((State.writeReg_accepted t v h k m).trans e) State.setPage_only
    refine ⟨fun lo hi plain => reaches _ (State.applyWrite_plain a t p i v lo hi plain),
      fun sh => reaches _ (State.applyWrite_shadow a t p i v sh),
      fun ev => reaches _ (State.applyWrite_eventEnable a t p i v ev),
      fun co one => ⟨reaches _ (State.applyWrite_commit a t p i v co one), ?_⟩⟩
    have same : addr / 0x1000 * 0x1000 + 0x010 = addr := by omega
    rw [exec_commit, same]
    exact reaches _ (State.applyWrite_commit a t p i v co one)

/-! ### Reads of the register window (R12, R15, R466) -/

@[simp] theorem State.within_out (s x : State) : (s.within x).out = x.out := rfl
@[simp] theorem State.within_latches (s x : State) : (s.within x).latches = x.latches := rfl
@[simp] theorem State.within_bell (s x : State) : (s.within x).bell = x.bell := rfl

/-- The page of an address is brought up to the present before the word is read (R201). -/
def State.accrueAddr (s : State) (addr : Nat) : State :=
  match pageOf addr with
  | some (p, i) => s.accrueAt p i
  | none => s

theorem State.readWord_eq (s : State) (agent addr : Nat) : s.readWord agent addr =
    (((s.accrueAddr addr).latched agent addr).getD ((s.accrueAddr addr).liveWord addr),
      (s.accrueAddr addr).readEffect agent addr) := rfl

theorem State.latched_eq {s t : State} (h : s.latches = t.latches) (agent addr : Nat) :
    s.latched agent addr = t.latched agent addr := by unfold State.latched; rw [h]

section
variable (s : State) (agent : Nat) {addr : Nat}

@[simp] theorem State.readEffect_out : (s.readEffect agent addr).out = s.out := State.readEffect_only .out (by decide)

theorem State.readEffect_latches_none (h : latchCount addr = 0) : (s.readEffect agent addr).latches = s.latches := by
  unfold State.readEffect; simp only [h, if_true]; split <;> rfl

/-- What a low-word read leaves in the reading agent's latch, and in no other. -/
theorem State.readEffect_latches (h : latchCount addr ≠ 0) : (s.readEffect agent addr).latches
    = sset s.latches agent (addr, (List.range (latchCount addr)).map fun i => s.liveWord (addr + 4 * (i + 1))) := by
  unfold State.readEffect; simp only [h, if_false]; split <;> rfl

theorem State.readEffect_latches_other {g : Nat} (e : g ≠ agent) :
    sget (s.readEffect agent addr).latches g = sget s.latches g := by
  by_cases h : latchCount addr = 0
  · rw [State.readEffect_latches_none s agent h]
  · rw [State.readEffect_latches s agent h, sget_sset_other _ _ e]

/-- After a low-word read the agent's latch holds the high word of that instant. -/
theorem State.latched_readEffect (h : latchCount addr = 1) :
    (s.readEffect agent addr).latched agent (addr + 4) = some (s.liveWord (addr + 4)) := by
  unfold State.latched
  rw [State.readEffect_latches s agent (by omega), sget_sset_same, h]
  simp

/-- SYNC_ERROR's RC field reads once (R12). -/
theorem State.readEffect_maxAbs (h : addr = 0x1118) : (s.readEffect agent addr).bell.maxAbs = 0 := by
  unfold State.readEffect; rw [if_pos h]

theorem State.readEffect_bell (h : addr ≠ 0x1118) : (s.readEffect agent addr).bell = s.bell := by
  unfold State.readEffect; rw [if_neg h]; split <;> rfl

end

section
variable (s : State) (agent addr : Nat)

@[simp] theorem State.answerRead_out : (s.answerRead agent addr).out = (s.accrueAddr addr).out ++ [.read s.bell.now agent addr
    ((((s.accrueAddr addr).latched agent addr).getD ((s.accrueAddr addr).liveWord addr)).setWidth 64)] := by
  rw [State.answerRead, State.emit_out, State.readWord_eq, State.readEffect_out]

@[simp] theorem State.answerRead_latches :
    (s.answerRead agent addr).latches = ((s.accrueAddr addr).readEffect agent addr).latches := rfl

@[simp] theorem State.answerRead_bell :
    (s.answerRead agent addr).bell = ((s.accrueAddr addr).readEffect agent addr).bell := rfl

end

/-- Both read commands answer the word and leave what the read of it does. -/
theorem exec_read {s : State} {t agent addr : Nat} {c : Instr} (hc : s.clocked = true)
    (h : c = .lowWordRead t agent addr ∨ c = .rcFieldRead t agent addr) :
    exec c s = .next (s.within ((s.advance t).answerRead agent addr)) := by
  rw [← State.on_clocked hc]
  rcases h with rfl | rfl <;> rfl

/-- Settles O39: each clause is what `State.readEffect` does to its part of the state. -/
theorem readsAnswerAndLatch : Obligations.ReadsAnswerAndLatch := by
  unfold Obligations.ReadsAnswerAndLatch
  intro s t agent addr c hc h a b
  have hb : a.accrueAddr addr = b := rfl
  refine ⟨s.within (a.answerRead agent addr), exec_read hc h, ?out, fun one => ?low, fun g e => ?others, fun nothing => ?keep,
    fun sync => ?clear, fun other => ?bell⟩
  case out => rw [State.within_out, State.answerRead_out, hb]
  case low =>
    have same : (s.within (a.answerRead agent addr)).latches = (b.readEffect agent addr).latches := by
      rw [State.within_latches, State.answerRead_latches, hb]
    rw [State.latched_eq same, State.latched_readEffect b agent one]
  case others => rw [State.within_latches, State.answerRead_latches, hb, State.readEffect_latches_other b agent e]
  case keep => rw [State.within_latches, State.answerRead_latches, hb, State.readEffect_latches_none b agent nothing]
  case clear => rw [State.within_bell, State.answerRead_bell, hb, State.readEffect_maxAbs b agent sync]
  case bell => rw [State.within_bell, State.answerRead_bell, hb, State.readEffect_bell b agent other]

end Sys2Proof.Machine
end

section
/-! PROOFS. The end of the opening inspection (R20, R417, R418, R448, R451): the tests leave the boot state and empty the
memory, the lowest Clerk that passed is chosen, and the rollback counter advances where the image asks. -/
namespace Sys2Proof.Machine

/-! ### The tests of the device (R417, R418) -/

theorem State.foldl_boot {β : Type} {f : State → β → State} (k : ∀ u a, (f u a).boot = u.boot) (l : List β) (s : State) :
    (l.foldl f s).boot = s.boot :=
  holds_foldl (Q := fun u : State => u.boot = s.boot) rfl fun u a h => (k u a).trans h

theorem State.bridgeDown_boot (s : State) (j : Nat) : (s.bridgeDown j).boot = s.boot := by
  unfold State.bridgeDown
  extract_lets lost broken told
  have fenced : ∀ (u : State) (n : Nat), (u.fence n 0x6508).boot = u.boot := fun _ _ => State.fence_only .boot (by decide)
  calc _ = told.boot := State.foldl_boot fenced ..
    _ = broken.boot := State.raise_boot (by simp [State.mkEv])
    _ = lost.boot := State.loseTransfers_only .boot (by decide)
    _ = s.boot := State.raise_boot (by simp [State.mkEv])

theorem State.testStalls_boot (s : State) (scope : List Nat) (f : Inspection) : (s.testStalls scope f).boot = s.boot := by
  unfold State.testStalls
  extract_lets tested spared repaired scanned dies
  calc _ = scanned.boot :=
        State.foldl_boot (fun _ _ => State.foldl_boot (fun _ _ => State.fence_only .boot (by decide)) ..) ..
    _ = repaired.boot := State.foldl_boot (fun _ _ => State.raise_boot (by simp [State.stallEv])) ..
    _ = spared.boot :=
        State.foldl_boot (fun _ _ => (State.raise_boot (by simp [State.stallEv])).trans (State.setStall_boot ..)) ..
    _ = tested.boot := State.foldl_boot (fun _ _ => State.mapSpares_only .boot (by decide)) ..

theorem State.trainBridges_boot (s : State) (failed : List Nat) : (s.trainBridges failed).boot = s.boot := by
  unfold State.trainBridges
  extract_lets live empty trained told
  calc _ = told.boot := State.foldl_boot (fun _ _ => State.bridgeDown_boot ..) ..
    _ = trained.boot := State.foldl_boot (fun _ _ => State.raise_boot (by simp [State.mkEv])) ..

theorem State.trainStacks_boot (s : State) (failed : List Nat) : (s.trainStacks failed).boot = s.boot := by
  unfold State.trainStacks
  refine State.foldl_boot (fun u m => ?_) ..
  exact State.raise_boot (s := { u with outStacks := u.outStacks ++ [m] }) (by simp [State.mkEv])

/-- No finding of the tests is fatal (R417). -/
theorem State.testDevice_boot (s : State) (f : Inspection) : (s.testDevice f).boot = s.boot := by
  unfold State.testDevice
  rw [State.trainStacks_boot, State.trainBridges_boot, State.testStalls_boot]

/-- The tests leave memory zero-filled (R418). -/
theorem State.testDevice_mem (s : State) (f : Inspection) : (s.testDevice f).mem = [] := by
  unfold State.testDevice
  extract_lets clerk cleared
  calc _ = ((cleared.testStalls (cleared.stallsOf 0 12) f).trainBridges f.channels).mem :=
        State.trainStacks_only .mem (by decide)
    _ = (cleared.testStalls (cleared.stallsOf 0 12) f).mem := State.trainBridges_only .mem (by decide)
    _ = cleared.mem := State.testStalls_only .mem (by decide)

/-! ### The choice of the primary Clerk (R20, R417) -/

section
variable {passed : List Nat}

theorem find_lowest_passed {h : Nat} (h4 : h < 4) (pass : passed.contains h = true)
    (low : ∀ g, g < h → passed.contains g = false) : (List.range 4).find? passed.contains = some h :=
  List.find?_range_eq_some.2 ⟨pass, List.mem_range.2 h4, fun g k => by rw [low g k]; rfl⟩

theorem find_none_passed (fail : ∀ h, h < 4 → passed.contains h = false) : (List.range 4).find? passed.contains = none :=
  List.find?_range_eq_none.2 fun g k => by rw [fail g k]; rfl

variable (s : State)

theorem State.chooseClerk_boot_of_some {h : Nat} (e : (List.range 4).find? passed.contains = some h) :
    (s.chooseClerk passed).boot = s.boot := by
  unfold State.chooseClerk
  simp only [e, Option.isSome_some, if_true]
  exact State.refreshed_only .boot (by decide)

theorem State.chooseClerk_primary {h : Nat} (e : (List.range 4).find? passed.contains = some h) :
    (s.chooseClerk passed).clerk.primary = h := by
  unfold State.chooseClerk
  simp only [e, Option.isSome_some, if_true, Option.getD_some]
  unfold State.refreshed
  exact congrArg Clerk.primary (State.count_only .clerk (by decide))

/-- No Clerk left is DEVICE_FATAL (R417). -/
theorem State.chooseClerk_boot_of_none (e : (List.range 4).find? passed.contains = none) :
    (s.chooseClerk passed).boot = { s.boot with dev := 3 } := by
  unfold State.chooseClerk
  simp only [e, Option.isSome_none, Bool.false_eq_true, if_false]
  exact State.raise_fatal_boot rfl

end

/-! ### The rollback counter (R451) -/

theorem State.advanceFuse_of_none {s : State} (e : s.boot.image = none) : s.advanceFuse = s := by
  unfold State.advanceFuse; rw [e]

/-- Its event is recorded and posted, and nothing else but the fuse changes. -/
theorem State.advanceFuse_frame (s : State) :
    Only [.fuses, .pages, .stalls, .halves, .rings, .events, .trace, .out] s s.advanceFuse := by
  unfold State.advanceFuse
  split
  · exact .refl _
  · exact holds_ite (.step (.upd (.refl _)) (State.raise_plain_only rfl (by simp [State.mkEv]))) (.refl _)

theorem State.advanceFuse_rollback {s : State} {m : FwImage} (e : s.boot.image = some m) :
    s.advanceFuse.fuses.rollback = if m.commitSvn then max s.fuses.rollback m.svn else s.fuses.rollback := by
  unfold State.advanceFuse
  rw [e]
  dsimp only
  cases asks : m.commitSvn with
  | false => rfl
  | true =>
    simp only [Bool.true_and, decide_eq_true_eq, if_true]
    split
    case isTrue above =>
      rw [max_eq_right above.le]
      exact congrArg Fuses.rollback (State.raise_only .fuses (by decide))
    case isFalse below => rw [max_eq_left (Nat.not_lt.1 below)]

/-! ### The inspection's end (R417, R447, R448) -/

/-- The device as the inspection leaves it: the checks of an image have ended, the device is tested, a primary Clerk chosen and
the group table placed. -/
def State.inspectedBy (s : State) (f : Inspection) : State :=
  (({ s with boot := { s.boot with buffer := none, inspected := true } }.testDevice f).chooseClerk f.clerks).placeTable

/-- The device enters RUNNING, the heartbeat and the reconciliation due with the next millisecond. -/
def State.startRunning (s : State) : State :=
  let beat := (s.bell.now / 3300000 + 1) * 3300000
  { s with boot := { s.boot with dev := 2 }, power := { s.power with nextRec := beat, nextBeat := beat } }

/-- Outside CLOSED the end of an image's checks only drops what was read. -/
theorem State.verifyImage_of_open {s : State} (d : s.boot.dev ≠ 0) :
    s.verifyImage = { s with boot := { s.boot with buffer := none } } := by
  unfold State.verifyImage
  split
  case h_1 e => rw [← e]
  case h_2 => simp [d]

theorem exec_openingInspectionDone (s : State) (f : Inspection) :
    exec (.openingInspectionDone f) s = execOpeningInspectionDone f s := rfl

theorem exec_openingInspectionDone_eq {s : State} (f : Inspection) (hc : s.clocked = true) (d : s.boot.dev = 1) :
    exec (.openingInspectionDone f) s = .next (s.within
      (if (s.inspectedBy f).boot.dev = 3 then s.inspectedBy f else (s.inspectedBy f).advanceFuse.startRunning)) := by
  rw [exec_openingInspectionDone]
  unfold execOpeningInspectionDone State.inspectedBy State.startRunning
  rw [State.on_clocked hc, State.verifyImage_of_open (by omega)]
  simp only [d, bne_self_eq_false, Bool.false_eq_true, if_false]

section
variable (s : State) (f : Inspection)

theorem State.inspectedBy_boot_of_some {h : Nat} (e : (List.range 4).find? f.clerks.contains = some h) :
    (s.inspectedBy f).boot = { s.boot with buffer := none, inspected := true } := by
  refine (State.placeTable_only .boot (by decide)).trans ?_
  rw [State.chooseClerk_boot_of_some _ e, State.testDevice_boot]

theorem State.inspectedBy_boot_of_none (e : (List.range 4).find? f.clerks.contains = none) :
    (s.inspectedBy f).boot = { s.boot with dev := 3, buffer := none, inspected := true } := by
  refine (State.placeTable_only .boot (by decide)).trans ?_
  rw [State.chooseClerk_boot_of_none _ e, State.testDevice_boot]

theorem State.inspectedBy_primary {h : Nat} (e : (List.range 4).find? f.clerks.contains = some h) :
    (s.inspectedBy f).clerk.primary = h :=
  (congrArg Clerk.primary (State.placeTable_only .clerk (by decide))).trans (State.chooseClerk_primary _ e)

theorem State.inspectedBy_mem : (s.inspectedBy f).mem = [] :=
  ((State.placeTable_only .mem (by decide)).trans (State.chooseClerk_only .mem (by decide))).trans (State.testDevice_mem _ f)

theorem State.inspectedBy_fuses : (s.inspectedBy f).fuses = s.fuses :=
  ((State.placeTable_only .fuses (by decide)).trans (State.chooseClerk_only .fuses (by decide))).trans
    (State.testDevice_only .fuses (by decide))

end

/-- Settles O21: `State.inspectedBy` leaves OPENING where a Clerk passed, and the device runs; where none passed it is STOPPED. -/
theorem openingInspectionEnds : Obligations.OpeningInspectionEnds := by
  unfold Obligations.OpeningInspectionEnds
  intro s f hc d
  refine ⟨fun h h4 pass low => ?running, fun fail => ?stopped⟩
  case running =>
    have e := find_lowest_passed h4 pass low
    have hboot := s.inspectedBy_boot_of_some f e
    have frame := (s.inspectedBy f).advanceFuse_frame
    have fboot : (s.inspectedBy f).advanceFuse.boot = (s.inspectedBy f).boot := frame .boot (by decide)
    have fclerk : (s.inspectedBy f).advanceFuse.clerk = (s.inspectedBy f).clerk := frame .clerk (by decide)
    have fmem : (s.inspectedBy f).advanceFuse.mem = (s.inspectedBy f).mem := frame .mem (by decide)
    refine ⟨s.within (s.inspectedBy f).advanceFuse.startRunning, ?_, rfl, ?inspected, ?primary, ?mem, ?rollback⟩
    · rw [exec_openingInspectionDone_eq f hc d, if_neg (by rw [hboot]; simp [d])]
    case inspected =>
      change (s.inspectedBy f).advanceFuse.boot.inspected = true
      rw [fboot, hboot]
    case primary =>
      change (s.inspectedBy f).advanceFuse.clerk.primary = h
      rw [fclerk, s.inspectedBy_primary f e]
    case mem =>
      change (s.inspectedBy f).advanceFuse.mem = []
      rw [fmem, s.inspectedBy_mem f]
    case rollback =>
      change max s.fuses.rollback (s.inspectedBy f).advanceFuse.fuses.rollback = _
      have himage : (s.inspectedBy f).boot.image = s.boot.image := by rw [hboot]
      cases m : s.boot.image with
      | none => rw [State.advanceFuse_of_none (himage.trans m), s.inspectedBy_fuses f, max_self]
      | some img =>
        rw [State.advanceFuse_rollback (himage.trans m), s.inspectedBy_fuses f]
        dsimp only
        split
        · exact max_eq_right (le_max_left ..)
        · exact max_self _
  case stopped =>
    have hboot := s.inspectedBy_boot_of_none f (find_none_passed fail)
    refine ⟨s.within (s.inspectedBy f), ?_, ?dev, ?inspected⟩
    · rw [exec_openingInspectionDone_eq f hc d, if_pos (by rw [hboot])]
    case dev => exact congrArg Boot.dev hboot
    case inspected => exact congrArg Boot.inspected hboot

end Sys2Proof.Machine
end

section
/-! PROOFS. Laws of the bell's commands: which clocked commands stand still with the clocks stopped, and what of the bell an
operation that leaves its parts alone keeps. -/
namespace Sys2Proof.Machine

/-- An operation that writes neither bell time nor the rest of the bell leaves the bell as it was. -/
theorem Only.bell {w : List Part} {s t : State} (h : Only w s t)
    (c : (w.contains .time || w.contains .bell) = false := by decide) : t.bell = s.bell := by
  simp only [Bool.or_eq_false_iff] at c
  have now : t.bell.now = s.bell.now := h .time c.1
  have rest : { t.bell with now := 0 } = { s.bell with now := 0 } := h .bell c.2
  calc t.bell = { ({ t.bell with now := 0 } : Bell) with now := t.bell.now } := rfl
    _ = s.bell := by rw [rest, now]

/-- A command's effect that pins, fuses and queue have no part in is its result. -/
theorem Only.answers {w : List Part} {s x : State} {o : Host.Outcome State Fault Refusal} (h : Only w s x)
    (k : s.clocked = true) (run : o = .next (s.on x))
    (c : (w.contains .pins || w.contains .fuses || w.contains .pending) = false := by decide) : o = .next x := by
  rw [run, h.on k c]

theorem State.advance_state (s : State) (t : Nat) : (s.advance t).bell.state = s.bell.state := by
  cases hc : s.clocked with
  | true => rw [State.advance_bell t hc]
  | false => rw [State.advance_stopped hc]

/-- What every pass of a loop leaves, the loop leaves. -/
theorem Only.foldl {β : Type} {w : List Part} {f : State → β → State} {l : List β} {s : State}
    (k : ∀ u a, Only w u (f u a)) : Only w s (l.foldl f s) :=
  holds_foldl (Q := Only w s) (.refl s) fun u a h => h.trans (k u a)

/-! ### The clocked commands -/

/-- Every command but those of the pins and the PLL is one of the clocked logic. -/
theorem exec_clocked {s : State} : ∀ {c : Instr}, actsUnclocked c = false → Clocked s (exec c s)
  | .pllLock, h | .resetNRelease .., h | .resetNAssert, h | .pwrGoodFall, h | .pwrGoodRise, h | .vioRise, h | .vioFall, h
  | .thermtrip, h | .smbusRead .., h | .tapInstruction .., h => nomatch h
  | .roundBoundary, _ | .powerFrameUpdate .., _ | .syncPeriodBoundary, _ | .syncWindowExpiry, _ | .kmasterIntake, _
  | .ldw .., _ | .mma .., _ | .vop .., _ | .vred .., _ | .vnormStat .., _ | .vnormApply .., _ | .vsmaxStat .., _
  | .vsmaxApply .., _ | .vsfn .., _ | .pack .., _ | .unpack .., _ | .groupidx .., _ | .get .., _ | .put .., _ | .gather .., _
  | .ahead .., _ | .send .., _ | .bulk .., _ | .grant .., _ | .checkcmp .., _ | .waitw .., _ | .stepEnd .., _
  | .wordCompletion .., _ | .porterTagTimeout .., _ | .porterStarveTimer .., _ | .stealerPortGrant .., _ | .scrubComplete .., _
  | .bankWakeComplete .., _ | .storeTestRegion .., _ | .msgFlit0Arrival .., _ | .msgLastFlitArrival .., _
  | .msgTruncationTimeout .., _ | .lowWordRead .., _ | .rcFieldRead .., _ | .scheduleCompute .., _ | .guardPeerDeadline .., _
  | .doorlinePoll .., _ | .jobOpen .., _ | .jobLoad .., _ | .jobMap .., _ | .stepRun .., _ | .stepAbort .., _ | .jobClose .., _
  | .jobSuspend .., _ | .jobResume .., _ | .selftest .., _ | .selftestQueuedStart .., _ | .fenceStall .., _
  | .unfenceStall .., _ | .setPolicy .., _ | .twinBind .., _ | .echo .., _ | .summary .., _ | .ledgerReconcile .., _
  | .statusHeartbeat, _ | .lemefTrained, _ | .bootTakeover, _ | .imageFetchComplete .., _ | .openingInspectionDone .., _
  | .traceCounterSnapshot, _ => .on
  | .bellsyncPulseCheck .., _ | .timeMarkReceive .., _ | .bellrefLoss .., _ | .pllRelock .., _ | .acquire .., _
  | .kupReport .., _ | .kupReceive .., _ | .kdownReceive .., _ | .streamChunkArrival .., _ | .aheadBlockArrival .., _
  | .bridgeFlitReceive .., _ | .bridgeNakReceive .., _ | .arbCycleDecision .., _ | .stepCtrlGo .., _ | .stepCtrlAbort .., _
  | .stepDrainEnd .., _ | .ringPtrWrite .., _ | .checkValWrite .., _ | .rerunArm .., _ | .xlateInval .., _ | .commit .., _
  | .grpStepWrite .., _ | .ledgerSnap .., _ | .ledgerRelease .., _ | .aisleRetrain .., _ | .bootGo .., _ | .ringCtrlEnable .., _
  | .registerWrite .., _ | .gradMessageReceive .., _ | .tensorBlockUpdate .., _ | .wcopyMessageReceive .., _ | .stepClose .., _
  | .aisleFlitReceive .., _ | .aisleMessageReceive .., _ | .aisleAckTimeout .., _ | .aisleNakRepeat .., _
  | .aisleLaneLockLoss .., _ | .aisleLinkTimeout .., _ | .aisleLanesLocked .., _ | .identReceive .., _ | .creditRevoke .., _
  | .doorlineInval .., _ | .engineBusyExpiry .., _ | .clerkWatchdogExpiry .., _ | .companionLossTimeout .., _
  | .companionRead .., _ | .companionWrite .., _ | .inval .., _ | .lemefHalfLost .., _ | .lemefSlotReceive .., _
  | .lemefAckTimeout .., _ | .lemefRetrain .., _ | .bridgeChannelRetrain .., _ | .clerkResumesService .., _ => .advanceOn
  | .hbmBlockArrival .., _ | .porterTransferComplete .., _ | .hbmBlockWrite .., _ | .pageFaultTagRelease .., _
  | .gradientFrameArrival .., _ => .onOn
  | .flagWordSend .., _ | .deadlineTimer .., _ => .onClerk
  | .flagWordReceive .., _ | .guardArm .., _ | .sealReceive .., _ | .sealTableReceive .., _ | .sealTableTimeout .., _
  | .abortReceive .., _ | .pitchMove .., _ | .preemptResume .., _ | .stepWatchdogExpiry .., _ | .stepRerunGo .., _
  | .setPolicySyncTimeout .., _ => .advanceOnClerk

/-- Settles O6: every command that is not of the pins or the PLL is one of the clocked logic. -/
theorem stoppedClocksHoldTheState : Obligations.StoppedClocksHoldTheState := by
  unfold Obligations.StoppedClocksHoldTheState
  intro c s stopped clockedCommand
  obtain ⟨t, run, -, still⟩ := exec_clocked (s := s) clockedCommand
  rw [run, still stopped]

/-! ### A tick without a command -/

theorem step_empty {s : State} (q : s.pending = []) : step s = .next (idleTick s) := by unfold step; rw [q]

theorem idleTick_stopped {s : State} (h : s.clocked = false) : idleTick s = s := by unfold idleTick; simp [h]

/-- After the bell has counted on, nothing of the tick touches the bell. -/
theorem idleTick_bell {s : State} (h : s.clocked = true) : (idleTick s).bell = (s.advance (s.bell.now + 1)).bell := by
  unfold idleTick
  simp only [h, Bool.not_true, Bool.false_eq_true, if_false]
  calc _ = _ := Only.bell State.verifyImage_only
    _ = _ := Only.bell (Only.foldl fun _ _ => State.dueIdents_only)
    _ = _ := Only.bell (Only.foldl fun _ _ => State.touch_only)

/-- Settles O2: `idleTick` advances the bell by one tick, and its other acts leave the bell alone. -/
theorem emptyQueuePassesOneTick : Obligations.EmptyQueuePassesOneTick := by
  unfold Obligations.EmptyQueuePassesOneTick
  intro s q
  rw [step_empty q]
  refine ⟨fun stopped => by rw [idleTick_stopped stopped], fun runs => ⟨_, rfl, ?now, idleTick_only.mono (by decide)⟩⟩
  case now => rw [idleTick_bell runs, State.advance_now _ runs, if_neg (by omega)]

/-! ### The start of the clocks and of LemefLink -/

theorem exec_pllLock {s : State} (cold : s.bell.state = 0) (vio : s.pins.vio = true) (good : s.pins.pwrGood = true)
    (reset : s.pins.resetN = true) (trip : s.pins.trip = false) :
    exec .pllLock s = .next ((List.range 4).foldl (fun s h => s.setHalf h { s.half h with state := 1 })
      { s with bell := Bell.reboundary { s.bell with state := 1, now := 0 } }) := by
  change execPllLock s = _
  unfold execPllLock
  simp [cold, vio, good, reset, trip]

/-- A loop over half-ports that sets each one's state leaves them all in it. -/
theorem foldl_half_state {f : State → Nat → State} {v : Nat}
    (k : ∀ s h g, ((f s h).half g).state = if g = h then v else (s.half g).state) (l : List Nat) (s : State) (g : Nat) :
    ((l.foldl f s).half g).state = if g ∈ l then v else (s.half g).state := by
  induction l generalizing s with
  | nil => rfl
  | cons h l ih =>
    rw [List.foldl_cons, ih, k]
    by_cases e : g = h <;> by_cases m : g ∈ l <;> simp [e, m]

theorem State.setHalf_state (v : Nat) (s : State) (h g : Nat) :
    ((s.setHalf h { s.half h with state := v }).half g).state = if g = h then v else (s.half g).state := by
  by_cases e : g = h
  · subst e; simp
  · rw [State.half_setHalf_other _ _ e, if_neg e]

/-- The half-ports of a list enter UP. -/
def State.enterHalves (s : State) (l : List Nat) : State := l.foldl (fun s h => s.enterHalf s.bell.now h) s

theorem State.enterHalves_only {s : State} {l : List Nat} : Only [.halves] s (s.enterHalves l) :=
  Only.foldl fun _ _ => State.enterHalf_only

theorem State.enterHalves_state (s : State) (l : List Nat) (g : Nat) :
    ((s.enterHalves l).half g).state = if g ∈ l then 2 else (s.half g).state :=
  foldl_half_state (fun _ _ _ => State.enterHalf_state) l s g

theorem exec_lemefTrained {s : State} (hc : s.clocked = true) (dev : s.boot.dev = 0) (phase : s.boot.phase = 0) :
    exec .lemefTrained s = .next (s.within { s.enterHalves (List.range 4) with
      boot := { (s.enterHalves (List.range 4)).boot with phase := 1, trained := true } }) := by
  change execLemefTrained s = _
  unfold execLemefTrained
  rw [State.on_clocked hc]
  simp only [dev, phase, bne_self_eq_false, Bool.or_self, Bool.false_eq_true, if_false]
  rfl

theorem exec_bootTakeover {s : State} (hc : s.clocked = true) (dev : s.boot.dev = 0) (phase : s.boot.phase = 0)
    (hub : s.boot.hub = 0) :
    exec .bootTakeover s = .next (s.within { s.enterHalves [1, 2, 3] with
      boot := { (s.enterHalves [1, 2, 3]).boot with hub := 1, phase := 1, trained := true }
      clerk := { (s.enterHalves [1, 2, 3]).clerk with primary := 1 } }) := by
  change execBootTakeover s = _
  unfold execBootTakeover
  rw [State.on_clocked hc]
  simp only [dev, phase, hub, bne_self_eq_false, Bool.or_self, Bool.false_eq_true, if_false]
  rfl

/-- Settles O18: each start sets the state of the half-ports it loops over, and the rest of what it does is written out. -/
theorem clocksAndLinksStart : Obligations.ClocksAndLinksStart := by
  unfold Obligations.ClocksAndLinksStart
  refine ⟨?lock, ?trained, ?takeover⟩
  case lock =>
    intro s cold vio good reset trip
    have run := exec_pllLock cold vio good reset trip
    have frame := execPllLock_only _ run
    have bell : ∀ u : State, ((List.range 4).foldl (fun s h => s.setHalf h { s.half h with state := 1 }) u).bell = u.bell :=
      fun u => Only.bell (w := [.halves]) (Only.foldl fun _ _ => State.setHalf_only)
    refine ⟨_, run, frame, by rw [bell]; rfl, by rw [bell]; rfl, ?_, fun h h4 => ?_⟩
    · unfold State.clocked
      rw [bell, show _ = s.pins from frame .pins rfl]
      simp [vio, good, reset, trip, Bell.reboundary]
    · rw [foldl_half_state (State.setHalf_state 1), if_pos (List.mem_range.2 h4)]
  case trained =>
    intro s hc dev phase
    refine ⟨_, exec_lemefTrained hc dev phase, ?_, fun h h4 => ?_⟩
    · change { (s.enterHalves (List.range 4)).boot with phase := 1, trained := true } = _
      rw [show _ = s.boot from State.enterHalves_only .boot rfl]
    · exact (s.enterHalves_state _ h).trans (if_pos (List.mem_range.2 h4))
  case takeover =>
    intro s hc dev phase hub
    refine ⟨_, exec_bootTakeover hc dev phase hub, ?_, ?_, s.enterHalves_state _ 0, fun h h1 h4 => ?_⟩
    · change { (s.enterHalves [1, 2, 3]).boot with hub := 1, phase := 1, trained := true } = _
      rw [show _ = s.boot from State.enterHalves_only .boot rfl]
    · change { (s.enterHalves [1, 2, 3]).clerk with primary := 1 } = _
      rw [show _ = s.clerk from State.enterHalves_only .clerk rfl]
    · refine (s.enterHalves_state _ h).trans (if_pos ?_)
      simp only [List.mem_cons, List.not_mem_nil, or_false]
      omega

end Sys2Proof.Machine
end

section
/-! PROOFS. Sync boundaries, pulses and acquisition of the bell (R28, R38 to R42, R345, R483, R484). -/
namespace Sys2Proof.Machine

/-! ### What events and marks leave of the bell and of what has left the device -/

@[simp] theorem State.raise_bell (s : State) (e : Ev) : (s.raise e).bell = s.bell := Only.bell State.raise_only

@[simp] theorem State.sendMark_bell (s : State) (t p y e kl ks r : Nat) : (s.sendMark t p y e kl ks r).bell = s.bell :=
  Only.bell State.sendMark_only

@[simp] theorem State.traceRec_bell (s : State) (ty : Nat) (b : List Byte) : (s.traceRec ty b).bell = s.bell :=
  Only.bell State.traceRec_only

@[simp] theorem State.live_putFlit (s : State) (t p : Nat) (f : Flit) (q : PageTy) (i o : Nat) :
    (s.putFlit t p f).live q i o = s.live q i o := by
  unfold State.putFlit
  extract_lets a c g b d u pg
  have h : u.live q i o = s.live q i o := rfl
  split
  · rw [State.live_count, h]
  · split
    · rw [State.live_count, h]
    · exact h

@[simp] theorem State.live_sendMark (s : State) (t p y e kl ks r : Nat) (q : PageTy) (i o : Nat) :
    (s.sendMark t p y e kl ks r).live q i o = s.live q i o := by
  unfold State.sendMark
  extract_lets m w
  rw [State.live_count, State.live_putFlit]

/-- What leaves between two states, none of it a pulse on BELLSYNC_OUT. -/
def NoPulse (s t : State) : Prop := ∃ l, t.out = s.out ++ l ∧ ∀ e, Out.pulse e ∉ l

theorem NoPulse.of_out {s t : State} (h : t.out = s.out) : NoPulse s t := ⟨[], by simp [h], by simp⟩

theorem NoPulse.refl (s : State) : NoPulse s s := .of_out rfl

theorem NoPulse.trans {r s t : State} (h : NoPulse r s) (k : NoPulse s t) : NoPulse r t := by
  obtain ⟨l, hl, nl⟩ := h
  obtain ⟨m, hm, nm⟩ := k
  exact ⟨l ++ m, by rw [hm, hl, List.append_assoc], fun e he => (List.mem_append.1 he).elim (nl e) (nm e)⟩

theorem NoPulse.emit {s : State} {o : Out} (h : ∀ e, o ≠ .pulse e) : NoPulse s (s.emit o) :=
  ⟨[o], rfl, fun e he => h e (List.mem_singleton.1 he).symm⟩

theorem State.count_out (s : State) (p o n : Nat) : (s.count p o n).out = s.out := State.count_only .out (by decide)

theorem State.putFlit_noPulse {s : State} {t p : Nat} {f : Flit} : NoPulse s (s.putFlit t p f) := by
  unfold State.putFlit
  extract_lets a c g b d u pg
  have h : NoPulse s u := (NoPulse.of_out (t := s.setAisle p d) rfl).trans (.emit fun _ => nofun)
  split
  · exact h.trans (.of_out (State.count_out ..))
  · split
    · exact h.trans (.of_out (State.count_out ..))
    · exact h

theorem State.sendMark_noPulse {s : State} {t p y e kl ks r : Nat} : NoPulse s (s.sendMark t p y e kl ks r) :=
  State.putFlit_noPulse.trans (.of_out (State.count_out ..))

theorem State.traceRec_noPulse {s : State} {ty : Nat} {b : List Byte} : NoPulse s (s.traceRec ty b) := by
  unfold State.traceRec
  dsimp only
  split
  · exact .refl s
  · split
    · exact .of_out (State.count_out ..)
    · refine NoPulse.trans (NoPulse.of_out ?_) (NoPulse.emit fun _ => nofun)
      exact State.count_out ..

/-! ### The sync boundary (R28, R38, R345, R484) -/

/-- Does the device emit a pulse at its sync boundary (R38)? -/
def State.emitsPulse (x : State) : Bool := x.isMaster || (decide (x.bell.state = 2) && bit (x.live .bell 0 0x110) 10)

/-- A sync boundary at `b` past: the next is due, and the pulse has left where the device emits one. -/
def State.pulseAt (x : State) (b : Nat) : State :=
  let y := { x with bell := { x.bell with nextSync := b + 2 ^ 20 } }
  if x.emitsPulse then y.emit (.pulse b) else y

/-- The k_square that a TIME mark announces: that of a KDOWN still to come into force, else the one in force (R346). -/
def Bell.kComing (b : Bell) : Nat := match b.kDown with | some (_, k) => k | none => b.kSquare

/-- The TIME marks of a sync boundary have left too (R345). -/
def State.marksAt (x : State) (b : Nat) : State :=
  if x.isMaster || decide (x.bell.state = 2) then
    x.markPorts.foldl (fun v p => v.sendMark b p 0 (b / 2 ^ 20) 0 x.bell.kComing 0) (x.pulseAt b) else x.pulseAt b

/-- The trace record of the bell (R484). -/
def State.bellTrace (x : State) (b : Nat) : List Byte :=
  leBytes 8 b ++ leBytes 1 x.bell.state ++ leBytes 1 (errByte x.bell.lastErr) ++ leBytes 1 x.bell.kApplied

section
variable (x : State) (b : Nat)

theorem State.pulseAt_only : Only [.bell, .out] x (x.pulseAt b) := by
  unfold State.pulseAt
  exact holds_ite ((Only.upd (.refl x)).step State.emit_only) (Only.upd (.refl x))

theorem State.pulseAt_bell : (x.pulseAt b).bell = { x.bell with nextSync := b + 2 ^ 20 } := by
  unfold State.pulseAt; dsimp only; split <;> rfl

theorem State.pulseAt_isMaster : (x.pulseAt b).isMaster = x.isMaster := by
  unfold State.pulseAt; dsimp only; split <;> rfl

theorem State.pulseAt_markPorts : (x.pulseAt b).markPorts = x.markPorts := by
  unfold State.pulseAt; dsimp only; split <;> rfl

theorem State.marksAt_pulseAt : Only [.pages, .stalls, .aisles, .out] (x.pulseAt b) (x.marksAt b) := by
  unfold State.marksAt
  exact holds_ite (Only.foldl fun _ _ => State.sendMark_only) (.refl _)

theorem State.marksAt_bell : (x.marksAt b).bell = { x.bell with nextSync := b + 2 ^ 20 } :=
  (Only.bell (x.marksAt_pulseAt b)).trans (x.pulseAt_bell b)

theorem State.marksAt_noPulse : NoPulse (x.pulseAt b) (x.marksAt b) := by
  unfold State.marksAt
  exact holds_ite (Q := NoPulse (x.pulseAt b)) (holds_foldl (.refl _) fun _ _ h => h.trans State.sendMark_noPulse) (.refl _)

theorem State.live_marksAt (q : PageTy) (i o : Nat) : (x.marksAt b).live q i o = x.live q i o := by
  have pulse : (x.pulseAt b).live q i o = x.live q i o := State.live_only (x.pulseAt_only b) q i o
  unfold State.marksAt
  refine holds_ite (Q := fun u : State => u.live q i o = x.live q i o) ?_ pulse
  exact holds_foldl (Q := fun u : State => u.live q i o = x.live q i o) pulse fun u p h => by rw [State.live_sendMark, h]

end

theorem exec_syncPeriodBoundary {s : State} (hc : s.clocked = true) :
    let b := s.bell.nextSync
    let x := (s.advance b).applyK b
    exec .syncPeriodBoundary s = .next
      (if bit (x.live .trace 0 0x104) 17 then (x.marksAt b).traceRec 2 (x.bellTrace b) else x.marksAt b) := by
  intro b x
  have frame : Only ([.time, .bell] ++ eventParts) s (x.marksAt b) :=
    (((State.advance_only (a1 := b)).mono (by decide)).step (State.applyK_only (a1 := b))).step (x.pulseAt_only b) |>.step
      (x.marksAt_pulseAt b)
  have traced : Only ([.time, .bell] ++ eventParts) s _ := holds_ite (c := bit (x.live .trace 0 0x104) 17 = true)
    (frame.step (State.traceRec_only (a1 := 2) (a2 := x.bellTrace b))) frame
  refine traced.answers hc ?_
  change execSyncPeriodBoundary s = _
  unfold execSyncPeriodBoundary
  rw [if_neg (by simp [hc])]
  extract_lets old y square z k m
  have pulse : z = x.pulseAt b := rfl
  have marks : m = x.marksAt b := by
    have bell : z.bell = { x.bell with nextSync := b + 2 ^ 20 } := by rw [pulse, x.pulseAt_bell]
    have down : k = x.bell.kComing := by
      simp only [k, bell]
      unfold Bell.kComing
      cases x.bell.kDown <;> rfl
    unfold State.marksAt
    simp only [m, down, pulse, x.pulseAt_isMaster, x.pulseAt_markPorts]
    rfl
  have live : m.live .trace 0 0x104 = x.live .trace 0 0x104 := by rw [marks, x.live_marksAt]
  have record : leBytes 8 b ++ leBytes 1 m.bell.state ++ leBytes 1 (errByte m.bell.lastErr) ++ leBytes 1 m.bell.kApplied
      = x.bellTrace b := by rw [marks, x.marksAt_bell]; rfl
  rw [live, record, marks]

/-- Settles O24: the pulse leaves before the marks and the trace record, and neither of these is a pulse or touches the bell. -/
theorem syncBoundaryEmitsThePulse : Obligations.SyncBoundaryEmitsThePulse := by
  unfold Obligations.SyncBoundaryEmitsThePulse
  intro s hc b x y emits z k m
  have run := exec_syncPeriodBoundary hc
  have out : emits = true → (x.pulseAt b).out = x.out ++ [.pulse b] := fun e => by
    unfold State.pulseAt; rw [if_pos (show x.emitsPulse = true from e)]; rfl
  have silent : emits = false → (x.pulseAt b).out = x.out := fun e => by
    unfold State.pulseAt; rw [if_neg (by rw [show x.emitsPulse = false from e]; simp)]
  have noPulse : NoPulse (x.pulseAt b) m := x.marksAt_noPulse b
  have known : ∃ t, exec .syncPeriodBoundary s = .next t ∧ t.bell = y.bell ∧ NoPulse m t ∧
      (bit (x.live .trace 0 0x104) 17 = false → t = m) ∧
      (bit (x.live .trace 0 0x104) 17 = true → t = m.traceRec 2 (x.bellTrace b)) := by
    refine ⟨_, run, ?_⟩
    cases traced : bit (x.live .trace 0 0x104) 17 with
    | false => exact ⟨x.marksAt_bell b, .refl m, fun _ => rfl, nofun⟩
    | true => exact ⟨(State.traceRec_bell ..).trans (x.marksAt_bell b), State.traceRec_noPulse, nofun, fun _ => rfl⟩
  obtain ⟨t, run, bell, quiet, untraced, traced⟩ := known
  obtain ⟨l, grown, none⟩ := noPulse.trans quiet
  refine ⟨t, run, bell, untraced, traced, fun e => ⟨l, ?_⟩, fun e => ⟨l, ?_, none⟩⟩
  · rw [grown, out e, List.append_assoc]; rfl
  · rw [grown, silent e]

end Sys2Proof.Machine
end

section
/-! PROOFS. Pulses, TIME marks, loss of the reference and acquisition of the bell (R39 to R42, R345, R483). -/
namespace Sys2Proof.Machine

/-! ### The check of a pulse (R39) -/

theorem pulseErr_range (tp : Int) : -2 ^ 19 ≤ pulseErr tp ∧ pulseErr tp < 2 ^ 19 ∧ (tp - pulseErr tp) % 2 ^ 20 = 0 := by
  unfold pulseErr; omega

/-- What every check of a pulse leaves, whatever the error: the pulse counted, SYNC_ERROR, and the next pulse expected. -/
def State.pulseNoted (s : State) (tp : Int) : State :=
  let y := s.count (pageNo .bell 0) 0x40 1
  { y with bell := { y.bell with
    lastErr := pulseErr tp, maxAbs := max y.bell.maxAbs (pulseErr tp).natAbs, missed := 0
    expected := ((tp + 2 ^ 19) / 2 ^ 20 * 2 ^ 20 + 2 ^ 20).toNat } }

section
variable (s : State) {tp : Int} {wrong : Bool}

theorem State.checkPulse_near (h : (pulseErr tp).natAbs ≤ 1) (k : wrong = false) : s.checkPulse tp wrong = s.pulseNoted tp := by
  unfold State.checkPulse
  extract_lets e n y x
  rw [if_neg (by simp [k, n, e]; omega), if_neg (by simp only [n, e]; omega)]
  rfl

theorem State.checkPulse_drift (h : 2 ≤ (pulseErr tp).natAbs) (l : (pulseErr tp).natAbs ≤ 8) (k : wrong = false) :
    s.checkPulse tp wrong = (s.pulseNoted tp).count (pageNo .bell 0) 0x50 1 := by
  unfold State.checkPulse
  extract_lets e n y x
  rw [if_neg (by simp [k, n, e]; omega), if_pos h]
  rfl

theorem State.checkPulse_skew (h : 8 < (pulseErr tp).natAbs ∨ wrong = true) :
    s.checkPulse tp wrong = ({ s.pulseNoted tp with bell := { (s.pulseNoted tp).bell with state := 3 } }.raise
      ((s.pulseNoted tp).mkEv 0xA202 1 none .bell 0 0 (errByte (pulseErr tp)))).failSpanning 0xA202 := by
  unfold State.checkPulse
  extract_lets e n y x
  rw [if_pos (by simpa [n, e] using h)]
  rfl

end

/-! ### A compensated pulse (R39, R42) -/

section
variable (s : State) {tp : Int} {v : Nat} {wrong : Bool}

theorem State.takePulse_checked (p : s.bell.acqPending = false) (q : s.bell.state = 2) :
    s.takePulse tp v wrong = s.checkPulse tp wrong := by
  unfold State.takePulse; simp [p, q]

theorem State.takePulse_ignored (p : s.bell.acqPending = false) (q : s.bell.state ≠ 2) : s.takePulse tp v wrong = s := by
  unfold State.takePulse; simp [p, q]

theorem State.takePulse_acquires (p : s.bell.acqPending = true) (q : s.openJobs = []) :
    s.takePulse tp v wrong = s.acquireBell tp v := by
  unfold State.takePulse; simp [p, q]

theorem State.takePulse_refuses (p : s.bell.acqPending = true) (q : s.openJobs ≠ []) :
    s.takePulse tp v wrong =
      let y := { s with bell := { s.bell with acqPending := false } }.refuseAcquire
      if s.bell.state = 2 then y.checkPulse tp wrong else y := by
  have bell : ({ s with bell := { s.bell with acqPending := false } }.refuseAcquire).bell.state = s.bell.state := by
    unfold State.refuseAcquire; rw [State.raise_bell]
  unfold State.takePulse
  simp [p, q, bell]

/-- An acquisition gives the bell its count and state SQUARE, and rebuilds its boundaries; nothing later of it touches the bell. -/
theorem State.acquireBell_bell : (s.acquireBell tp v).bell = Bell.reboundary { s.bell with
    now := (v + ((s.bell.now : Int) - tp).toNat) % 2 ^ 64, state := 2, acqPending := false, missed := 0, onBackup := false } := by
  unfold State.acquireBell
  extract_lets gone old acquired next power timed raised clerk
  have bell : raised.bell = acquired.bell := State.raise_bell ..
  split
  · exact (Only.bell State.finish_only).trans bell
  · exact bell

end

/-! ### A pulse on the pin, and a TIME mark (R39, R345, R483) -/

section
variable {s : State} (hc : s.clocked = true) (t : Nat)
include hc

/-- The tick of a pulse on BELLSYNC_IN at `t`, compensated by SYNC_DELAY (R39). -/
def State.pinTick (s : State) (t : Nat) : Int := (t : Int) - bits (s.live .bell 0 0x114) 11 0

theorem exec_bellsyncPulseCheck_ignored
    (h : (s.advance t).source ≠ some 0 ∨
      ((s.advance t).bell.state = 2 ∧ 64 < (pulseErr ((s.advance t).pinTick t)).natAbs)) :
    exec (.bellsyncPulseCheck t) s = .next (s.advance t) := by
  refine Only.answers (w := []) (.refl _) (by simpa using hc) ?_
  change execBellsyncPulseCheck t s = _
  unfold execBellsyncPulseCheck
  extract_lets a tp
  rw [if_pos]
  obtain other | ⟨square, far⟩ := h
  · simp [a, other]
  · simp only [a, tp, Bool.or_eq_true, Bool.and_eq_true, decide_eq_true_eq]
    exact .inr ⟨square, far⟩

theorem exec_bellsyncPulseCheck_taken (h : (s.advance t).source = some 0)
    (near : (s.advance t).bell.state = 2 → (pulseErr ((s.advance t).pinTick t)).natAbs ≤ 64) :
    exec (.bellsyncPulseCheck t) s = .next ((s.advance t).takePulse ((s.advance t).pinTick t)
      ((s.advance t).live .bell 0 0x120 / 2 ^ 20 * 2 ^ 20 + 2 ^ 32 * (s.advance t).live .bell 0 0x124) false) := by
  refine State.takePulse_only.answers (by simpa using hc) ?_
  change execBellsyncPulseCheck t s = _
  unfold execBellsyncPulseCheck
  extract_lets a tp
  rw [if_neg]
  · rfl
  · simp only [a, hc, h, State.advance_clocked, Bool.not_true, bne_self_eq_false, Bool.or_self, Bool.false_or,
      Bool.and_eq_true, decide_eq_true_eq, not_and, Nat.not_lt]
    exact near

/-- A TIME mark on the primary source port brings depth and master position (R345). -/
def State.noteMark (a : State) (p : Nat) (w : W64) : State :=
  if a.sourceOf (bits (a.live .bell 0 0x110) 3 0) = some (p + 1) then
    { a with bell := { a.bell with depth := bits w.toNat 50 48 + 1, masterPos := bits w.toNat 63 58 } } else a

/-- The tick of a TIME mark whose last byte arrives at `t`, compensated by its port's latency (R345). -/
def State.markTick (a : State) (t p : Nat) : Int := (t : Int) - (a.aisle p).latency

/-- Does a TIME mark name another epoch than its tick (R345)? -/
def wrongEpoch (tp : Int) (w : W64) : Bool := decide (((tp + 2 ^ 19) / 2 ^ 20) % 2 ^ 44 ≠ (bits w.toNat 43 0 : Int))

theorem exec_timeMarkReceive_refused (p : Nat) (w0 : W64) (w1 : W32) (h : (s.advance t).carriesMarks p = false) :
    exec (.timeMarkReceive t p w0 w1) s = .next (s.advance t) := by
  refine Only.answers (w := []) (.refl _) (by simpa using hc) ?_
  change execTimeMarkReceive t p w0 w1 s = _
  unfold execTimeMarkReceive
  extract_lets a m
  rw [if_pos (by simp [a, h])]

section
variable {p : Nat} {w0 : W64} (w1 : W32) (h : (s.advance t).carriesMarks p = true)
include h

/-- A mark that a port carries is counted, and from a device of depth less than 7 it is noted and taken from the source in
use. -/
theorem exec_timeMarkReceive_carried :
    let a := (s.advance t).count (pageNo .aisle p) 0x80 1
    let x := a.noteMark p w0
    exec (.timeMarkReceive t p w0 w1) s = .next (if bits w0.toNat 50 48 = 7 then a
      else if a.source ≠ some (p + 1) then x
      else x.takePulse (a.markTick t p) (bits w0.toNat 43 0 * 2 ^ 20) (wrongEpoch (a.markTick t p) w0)) := by
  intro a x
  have clocked : (s.advance t).clocked = true := by simpa using hc
  have counted : Only [.pages, .stalls] (s.advance t) a := State.count_only
  have noted : Only [.bell, .pages, .stalls] (s.advance t) x :=
    (counted.mono (by decide)).trans (holds_ite (Only.upd (.refl a)) (.refl a))
  have taken : Only ([.time, .bell, .power] ++ eventParts) (s.advance t)
      (x.takePulse (a.markTick t p) (bits w0.toNat 43 0 * 2 ^ 20) (wrongEpoch (a.markTick t p) w0)) :=
    (noted.mono (by decide)).step State.takePulse_only
  have frame : Only ([.time, .bell, .power] ++ eventParts) (s.advance t) _ :=
    holds_ite (c := bits w0.toNat 50 48 = 7) (counted.mono (by decide))
      (holds_ite (c := a.source ≠ some (p + 1)) (noted.mono (by decide)) taken)
  have source : x.source = a.source := by simp only [x]; unfold State.noteMark; split <;> rfl
  have latency : (x.aisle p).latency = (a.aisle p).latency := by simp only [x]; unfold State.noteMark; split <;> rfl
  refine frame.answers clocked ?_
  change execTimeMarkReceive t p w0 w1 s = _
  unfold execTimeMarkReceive
  extract_lets a0 m a1 old x1 tp
  rw [if_neg (by simp [a0, h, hc])]
  have noted : x1 = x := rfl
  have tick : tp = a.markTick t p := by simp only [tp, noted, latency]; rfl
  simp only [noted, tick, source, bne_iff_ne]
  rfl

end

end

/-! ### A window without a pulse (R40) -/

/-- A window that passed without a pulse is counted, and the next is expected. -/
def State.missWindow (s : State) : State :=
  let a := s.advance (s.bell.expected + 65)
  { a with bell := { a.bell with
    expected := s.bell.expected + 2 ^ 20, missed := if s.bell.missed + 1 = 3 then 0 else s.bell.missed + 1 } }.count
      (pageNo .bell 0) 0x48 1

/-- SYNC_LOST is raised. -/
def State.syncLost (x : State) : State := x.raise (x.mkEv 0xA201 1 none .bell 0 0 0)

/-- The backup source comes into use. -/
def State.useBackup (y : State) : State :=
  let z := { y with bell := { y.bell with onBackup := true } }
  z.raise (z.mkEv 0xA203 0 none .bell 0 0 0)

theorem State.missWindow_only (s : State) : Only [.time, .bell, .pages, .stalls] s s.missWindow :=
  ((State.advance_only.mono (by decide)).trans (Only.upd (.refl _))).step State.count_only

theorem State.syncLost_only (x : State) : Only eventParts x x.syncLost := State.raise_only

theorem State.useBackup_only (y : State) : Only ([.bell] ++ eventParts) y y.useBackup := by
  unfold State.useBackup
  extract_lets old z
  have switched : Only [.bell] y z := Only.upd (.refl y)
  exact (switched.mono (by decide)).step State.raise_only

section
variable {s : State} (hc : s.clocked = true)
include hc

theorem exec_syncWindowExpiry_idle (h : s.bell.state ≠ 2 ∨ s.source = none) : exec .syncWindowExpiry s = .next s := by
  refine Only.answers (w := []) (.refl s) hc ?_
  change execSyncWindowExpiry s = _
  unfold execSyncWindowExpiry
  rw [if_pos]
  obtain h | h := h <;> simp [h]

theorem exec_syncWindowExpiry_missed (square : s.bell.state = 2) (source : s.source ≠ none) :
    exec .syncWindowExpiry s = .next (if s.bell.missed + 1 ≠ 3 then s.missWindow
      else if s.bell.onBackup then s.missWindow.syncLost else s.missWindow.syncLost.useBackup) := by
  have lost : Only ([.time, .bell] ++ eventParts) s s.missWindow.syncLost :=
    (s.missWindow_only.mono (by decide)).step s.missWindow.syncLost_only
  have frame : Only ([.time, .bell] ++ eventParts) s _ := holds_ite (c := s.bell.missed + 1 ≠ 3) (s.missWindow_only.mono (by decide))
    (holds_ite (c := s.bell.onBackup = true) lost (lost.step s.missWindow.syncLost.useBackup_only))
  refine frame.answers hc ?_
  change execSyncWindowExpiry s = _
  unfold execSyncWindowExpiry
  rw [if_neg (by simp [hc, square, source])]
  have bell := State.advance_bell (s := s) (s.bell.expected + 65) hc
  extract_lets e a n old x y z
  have missed : n = s.bell.missed + 1 := by simp only [n, a, e, bell]
  have window : y = s.missWindow := by simp only [y, x, missed]; rfl
  have lost : z = s.missWindow.syncLost := by simp only [z, window]; rfl
  have backup : s.missWindow.syncLost.bell.onBackup = s.bell.onBackup := by
    unfold State.syncLost
    rw [State.raise_bell, ← window]
    simp only [y, x, old, a, e, State.count_bell, bell]
  have switched : ({ z with bell := { z.bell with onBackup := true } }.raise (z.mkEv 0xA203 0 none .bell 0 0 0)) = z.useBackup := rfl
  rw [switched, window, lost, missed, backup]
  simp only [bne_iff_ne]

end

/-- Settles O26: the check of a pulse by its error, then what each kind of pulse and a missing one come to. -/
theorem pulsesAreChecked : Obligations.PulsesAreChecked := by
  unfold Obligations.PulsesAreChecked
  refine ⟨pulseErr_range, ?check, ?pin, ?mark, ?window⟩
  case check =>
    intro s tp wrong
    exact ⟨s.checkPulse_near, s.checkPulse_drift, s.checkPulse_skew⟩
  case pin =>
    intro s t hc a
    refine ⟨fun other => exec_bellsyncPulseCheck_ignored hc t (.inl other), fun pin idle => ⟨fun square near => ?_,
      fun square far => exec_bellsyncPulseCheck_ignored hc t (.inr ⟨square, far⟩), fun other => ?_⟩⟩
    · rw [exec_bellsyncPulseCheck_taken hc t pin fun _ => near, State.takePulse_checked _ idle square]
      rfl
    · rw [exec_bellsyncPulseCheck_taken hc t pin fun square => absurd square other, State.takePulse_ignored _ idle other]
  case mark =>
    intro s t p w0 w1 hc a primary x tp
    have bell : x.bell.acqPending = a.bell.acqPending ∧ x.bell.state = a.bell.state := by
      simp only [x]; split <;> exact ⟨rfl, rfl⟩
    refine ⟨exec_timeMarkReceive_refused hc t p w0 w1, fun carried => ?_⟩
    have run := exec_timeMarkReceive_carried hc t (w0 := w0) w1 carried
    refine ⟨fun deep => ?_, fun depth other => ?_, fun depth source idle => ⟨fun square => ?_, fun other => ?_⟩⟩
    · rw [run, if_pos deep]
    · rw [run, if_neg depth, if_pos other]; rfl
    · rw [run, if_neg depth, if_neg (not_not_intro source)]
      exact congrArg _ (State.takePulse_checked x (bell.1.trans idle) (bell.2.trans square))
    · rw [run, if_neg depth, if_neg (not_not_intro source)]
      exact congrArg _ (State.takePulse_ignored x (bell.1.trans idle) (by rw [bell.2]; exact other))
  case window =>
    intro s hc a n x y z
    refine ⟨exec_syncWindowExpiry_idle hc, fun square source => ?_⟩
    have run := exec_syncWindowExpiry_missed hc square source
    refine ⟨fun more => ?_, fun third backup => ?_, fun third primary => ?_⟩
    · rw [run, if_pos more]; rfl
    · rw [run, if_neg (not_not_intro third), if_pos backup]; rfl
    · rw [run, if_neg (not_not_intro third), if_neg (by simp [primary])]; rfl

/-! ### Loss of the reference, and acquisition (R41, R42) -/

section
variable {s : State} (hc : s.clocked = true) (t : Nat)
include hc

theorem exec_bellrefLoss_lost (h : s.bell.state ≠ 4) :
    let a := s.advance t
    let x := { a with bell := { a.bell with state := 4 } }
    exec (.bellrefLoss t) s = .next ((x.raise (x.mkEv 0xA101 1 none .bell 0 0 0)).failSpanning 0xA101) := by
  intro a x
  have frame : Only ([.bell] ++ eventParts) a ((x.raise (x.mkEv 0xA101 1 none .bell 0 0 0)).failSpanning 0xA101) :=
    (Only.step (Only.upd (.refl a)) State.raise_only).step State.failSpanning_only
  refine frame.answers (by simpa [a] using hc) ?_
  change execBellrefLoss t s = _
  unfold execBellrefLoss
  extract_lets old y
  rw [if_neg (by simp [a, hc, State.advance_state, h])]

theorem exec_bellrefLoss_again (h : s.bell.state = 4) : exec (.bellrefLoss t) s = .next (s.advance t) := by
  refine Only.answers (w := []) (.refl _) (by simpa using hc) ?_
  change execBellrefLoss t s = _
  unfold execBellrefLoss
  extract_lets a0
  rw [if_pos (by simp [a0, State.advance_state, h])]

theorem exec_pllRelock_holdover (h : s.bell.state = 4) :
    let a := s.advance t
    exec (.pllRelock t) s = .next { a with bell := { a.bell with state := if a.inSquare then 3 else 1 } } := by
  intro a
  have frame : Only [.bell] a { a with bell := { a.bell with state := if a.inSquare then 3 else 1 } } := Only.upd (.refl a)
  refine frame.answers (by simpa [a] using hc) ?_
  change execPllRelock t s = _
  unfold execPllRelock
  extract_lets old
  rw [if_neg (by simp [a, State.advance_state, h])]

theorem exec_pllRelock_locked (h : s.bell.state ≠ 4) : exec (.pllRelock t) s = .next (s.advance t) := by
  refine Only.answers (w := []) (.refl _) (by simpa using hc) ?_
  change execPllRelock t s = _
  unfold execPllRelock
  extract_lets a0
  rw [if_pos (by simp [a0, State.advance_state, h])]

theorem exec_acquire_open (v : W32) (dev : s.boot.dev ≠ 0) : exec (.acquire t v) s = .next ((s.advance t).acquire v) := by
  refine State.acquire_only.answers (by simpa using hc) ?_
  change execAcquire t v s = _
  unfold execAcquire
  extract_lets a0
  rw [if_neg (by simp [a0, dev])]

theorem exec_acquire_closed (v : W32) (dev : s.boot.dev = 0) : exec (.acquire t v) s = .next (s.advance t) := by
  refine Only.answers (w := []) (.refl _) (by simpa using hc) ?_
  change execAcquire t v s = _
  unfold execAcquire
  extract_lets a0
  rw [if_pos (by simp [a0, dev])]

end

section
variable (s : State) (v : W32)

theorem State.acquire_idle (h : v.getLsbD 0 = false) : s.acquire v = s := by
  unfold State.acquire; rw [if_pos (by rw [h]; rfl)]

theorem State.acquire_pending (h : v.getLsbD 0 = true) (k : s.openJobs = []) :
    s.acquire v = { s with bell := { s.bell with acqPending := true, acqRefused := false } } := by
  unfold State.acquire; simp [h, k]

theorem State.acquire_refused (h : v.getLsbD 0 = true) (k : s.openJobs ≠ []) : s.acquire v = s.refuseAcquire := by
  unfold State.acquire; simp [h, k]

end

/-- What an acquisition leaves of the bell, `d` ticks after the edge that it is taken at. -/
theorem State.acquireBell_effect (s : State) (d v : Nat) :
    let u := s.acquireBell ((s.bell.now : Int) - d) v
    u.bell.state = 2 ∧ u.bell.acqPending = false ∧ u.bell.onBackup = false ∧ u.bell.now = (v + d) % 2 ^ 64 := by
  intro u
  have gone : ((s.bell.now : Int) - ((s.bell.now : Int) - d)).toNat = d := by omega
  simp only [u, State.acquireBell_bell, Bell.reboundary, gone, and_self]

/-- Settles O27: each command by the lemma that says what it comes to, and an acquisition by what it leaves of the bell. -/
theorem referenceLossAndAcquisition : Obligations.ReferenceLossAndAcquisition := by
  unfold Obligations.ReferenceLossAndAcquisition
  refine ⟨?reference, ?write, ?pin, ?mark⟩
  case reference =>
    intro s t hc a x
    exact ⟨exec_bellrefLoss_lost hc t, fun h => ⟨exec_bellrefLoss_again hc t h, exec_pllRelock_holdover hc t h⟩,
      exec_pllRelock_locked hc t⟩
  case write =>
    intro s t v hc a
    refine ⟨fun h => ?_, fun dev one => ⟨fun none => ?_, fun some => ?_⟩⟩
    · by_cases dev : s.boot.dev = 0
      · exact exec_acquire_closed hc t v dev
      · rw [exec_acquire_open hc t v dev, State.acquire_idle _ v (h.resolve_left dev)]
    · rw [exec_acquire_open hc t v dev, State.acquire_pending _ v one none]
    · rw [exec_acquire_open hc t v dev, State.acquire_refused _ v one some]; rfl
  case pin =>
    intro s t hc a d pin pending near
    have run := exec_bellsyncPulseCheck_taken hc t pin near
    refine ⟨fun none now => ?_, fun some => ?_⟩
    · rw [State.takePulse_acquires _ pending none] at run
      refine ⟨_, run, ?_⟩
      have effect := a.acquireBell_effect d (a.live .bell 0 0x120 / 2 ^ 20 * 2 ^ 20 + 2 ^ 32 * a.live .bell 0 0x124)
      rw [now] at effect
      exact effect
    · rw [run, State.takePulse_refuses _ pending some]; rfl
  case mark =>
    intro s t p w0 w1 hc carried a depth source pending none now
    have run := exec_timeMarkReceive_carried hc t (w0 := w0) w1 carried
    dsimp only at run
    have noted : (a.noteMark p w0).bell.acqPending = a.bell.acqPending ∧ (a.noteMark p w0).openJobs = a.openJobs ∧
        (a.noteMark p w0).bell.now = a.bell.now := by
      unfold State.noteMark; split <;> exact ⟨rfl, rfl, rfl⟩
    obtain ⟨hp, hj, hn⟩ := noted
    rw [if_neg depth, if_neg (not_not_intro source), State.takePulse_acquires _ (hp.trans pending) (hj.trans none)] at run
    refine ⟨_, run, ?_⟩
    have effect := (a.noteMark p w0).acquireBell_effect (a.aisle p).latency (bits w0.toNat 43 0 * 2 ^ 20)
    rw [hn.trans now] at effect
    exact effect

end Sys2Proof.Machine
end

section
/-! PROOFS. Control words at their due tick: sub-queues, slips, waits and faults, and the word whose checks all pass (R34 to
R36, R44, R115, R120, R124, R132, R446). -/
namespace Sys2Proof.Machine

/-! ### Sub-queues of a stall -/

@[simp] theorem Per4.get_set {α : Type} (p : Per4 α) (e : Eng) (v : α) : (p.set e v).get e = v := by cases e <;> rfl

@[simp] theorem Stall.slotSt_setSlot (st : Stall) (k : Nat) (v : SlotSt) : (st.setSlot k v).slotSt k = v := sgetD_sput_same ..

@[simp] theorem Stall.subq_setSubq (st : Stall) (k : Nat) (e : Eng) (q : SubQ) : (st.setSubq k e q).subq k e = q := by
  unfold Stall.subq Stall.setSubq; simp

@[simp] theorem Stall.fault_setSubq (st : Stall) (k : Nat) (e : Eng) (q : SubQ) : (st.setSubq k e q).fault = st.fault := rfl

/-- A slip moves the base by one round; its counters leave the sub-queue (R35, R133). -/
@[simp] theorem Stall.subq_slip (st : Stall) (k : Nat) (e : Eng) (cs : List Nat) :
    (st.slip k e cs).subq k e = { st.subq k e with base := (st.subq k e).base + 4096 } := by
  unfold Stall.slip
  exact holds_foldl (Q := fun u : Stall => u.subq k e = _) (Stall.subq_setSubq ..) fun _ _ h => h

theorem Stall.record_fault (st : Stall) (e : Eng) (j t pc : Nat) (f : Flt) :
    (st.record (wordFault e j t pc f)).fault = if st.fault.valid then st.fault else wordFault e j t pc f := by
  unfold Stall.record; split <;> rfl

section
variable (st : Stall) (sn k : Nat) (e : Eng) (t : Nat) (w : Wait) (cs : List Nat)

theorem Stall.waitFail_timeout (h : slipBudget w.tclass.toNat = some (st.subq k e).fails) :
    st.waitFail sn k e t w cs =
      ((st.record (wordFault e (st.jobSlot k).job t (st.subq k e).pc (flt 0x3202 (waitAux w)))).setSubq k e
          { st.subq k e with stopped := true },
        [.ev (st.ev sn t 0x3202 0 (st.jobSlot k).job (waitAux w + 2 ^ 32 * (st.subq k e).fails))]) := by
  unfold Stall.waitFail; exact if_pos h

theorem Stall.waitFail_slip (h : slipBudget w.tclass.toNat ≠ some (st.subq k e).fails) :
    st.waitFail sn k e t w cs
      = ((st.setSubq k e { st.subq k e with fails := (st.subq k e).fails + 1 }).slip k e cs, []) := by
  unfold Stall.waitFail; exact if_neg h

end

/-- Settles O30: a slip by `Stall.subq_slip`, a false wait by its two cases, a fault by what it is made of. -/
theorem slipsWaitsAndFaults : Obligations.SlipsWaitsAndFaults := by
  unfold Obligations.SlipsWaitsAndFaults
  intro st sn k e t w cs f q
  refine ⟨st.subq_slip k e cs, fun used => ⟨?_, fun free => ?_, ?_⟩, fun left => ⟨?_, ?_⟩, ?fault, st.record _ |>.subq_setSubq ..,
    rfl⟩
  · rw [st.waitFail_timeout sn k e t w cs used, Stall.subq_setSubq]
  · rw [st.waitFail_timeout sn k e t w cs used, Stall.fault_setSubq, Stall.record_fault, free]
    rfl
  · rw [st.waitFail_timeout sn k e t w cs used]
  · rw [st.waitFail_slip sn k e t w cs left, Stall.subq_slip, Stall.subq_setSubq]
  · rw [st.waitFail_slip sn k e t w cs left]
  case fault => exact Stall.record_fault ..

/-! ### The word whose checks all pass (R34, R124) -/

/-- The contest for a FREE slot of the rota changes the round-robin pointers and remembers its winner, nothing else (R34). -/
theorem Stall.freeWinner_frame (st : Stall) (e : Eng) (k t : Nat) :
    ∃ rr winner, (st.freeWinner e k t).1 = { st with rr := rr, winner := winner } := by
  unfold Stall.freeWinner
  extract_lets lo
  split
  · split
    · exact ⟨st.rr, st.winner, rfl⟩
    · exact ⟨_, _, rfl⟩
  · exact ⟨_, _, rfl⟩

theorem jobSlot_of_holdsSlot {st st' : Stall} {k : Nat} {e : Eng} {t : Nat} (h : holdsSlot st st' k e t) (i : Nat) :
    st'.jobSlot i = st.jobSlot i := by
  obtain ⟨-, rfl⟩ | ⟨-, won⟩ := h
  · rfl
  · obtain ⟨rr, winner, frame⟩ := st.freeWinner_frame e k t
    rw [won] at frame
    rw [show st' = _ from frame]
    rfl

/-- In a slot of its job that passes every check the word issues. -/
theorem Stall.due_of_passes {st st' : Stall} {sn k : Nat} {e : Eng} {ctx : JobCtx} {t : Nat} {w : CWord} {sp : Spec}
    (charge : Option Nat) (held : holdsSlot st st' k e t) (pass : passes st' k e ctx t w sp) :
    st.due sn k e ctx t w charge sp = st'.issueWord sn k e t w sp := by
  have job := jobSlot_of_holdsSlot held k
  obtain ⟨sound, own, owner, banks, short, waits, checks⟩ := pass
  unfold poisonStops at sound
  unfold waitTooLong at short
  unfold classChecks at checks
  rw [job] at banks
  unfold Stall.due
  extract_lets j missed wait body winner
  have issues : body st' = st'.issueWord sn k e t w sp := by
    simp only [body, j]
    rw [if_neg (by simpa using sound), if_neg (by simp [own, owner]), banks]
    dsimp only
    rw [if_neg (by simpa using short), if_neg (by simpa using waits), checks]
  obtain ⟨rota, rfl⟩ | ⟨rota, won⟩ := held
  · rw [rota]; dsimp only; rw [if_pos rfl, issues]
  · rw [rota]; simp only [winner, won, if_true, issues]

/-! ### The word commands (R110) -/

/-- Every word command issues the head word of its sub-queue by the checks and effect of its class. -/
theorem exec_word {c : Instr} {sn k : Nat} {e : Eng} (s : State) (h : wordAt c = some (sn, k, e)) :
    exec c s = .next (s.on (s.issue sn k e fun u st w t => wordSpec u st w t c)) := by
  unfold wordAt at h
  split at h <;> cases h <;> rfl

/-- Whether a word is of the command's class depends on the word alone. -/
theorem wordSpec_isNone (s s' : State) (st st' : Stall) (w : CWord) (t : Nat) (c : Instr) :
    (wordSpec s st w t c).isNone = (wordSpec s' st' w t c).isNone := by
  unfold wordSpec
  split
  case h_23 => rfl
  all_goals split <;> rfl

/-- What the issue of a head word comes to, once the words of the same tick on earlier engines have met theirs. -/
theorem State.issue_meets {s : State} {sn k : Nat} {e : Eng} {w : CWord} {t : Nat} {c : Instr} {sp : Spec} (h : k < 8)
    (head : (s.stall sn).head k e = some (w, t)) :
    let a := ((s.advance t).touch t sn).earlier sn e t
    (a.stall sn).head k e ≠ none → wordSpec a (a.stall sn) w t c = some sp →
    s.issue sn k e (fun u st w t => wordSpec u st w t c) = a.meet sn k e t w sp := by
  intro a still spec
  have known : (wordSpec s (s.stall sn) w t c).isNone = false := by
    rw [wordSpec_isNone s a _ (a.stall sn), spec]; rfl
  obtain ⟨q, hq⟩ := Option.ne_none_iff_exists'.1 still
  unfold State.issue
  rw [if_neg (by omega), head]
  dsimp only
  rw [if_neg (by simp [known])]
  simp only [show (((s.advance t).touch t sn).earlier sn e t) = a from rfl, hq, spec]

/-- Settles O28: the command issues its head word, which meets its due tick, and `Stall.due_of_passes` says what it does then. -/
theorem wordsIssueWhenEveryCheckPasses : Obligations.WordsIssueWhenEveryCheckPasses := by
  unfold Obligations.WordsIssueWhenEveryCheckPasses
  intro c s sn k e w t sp hc word h8 head a x still spec
  have run : exec c s = .next (a.meet sn k e t w sp) := by
    rw [← State.issue_meets h8 head still spec]
    exact State.issue_only.answers hc (exec_word s word)
  refine ⟨fun masked => ?_, fun open_ st' held pass => ?_⟩
  · rw [run]; unfold State.meet; rw [if_pos masked]
  · have issues : (a.onStall t sn fun st => st.due sn k e (a.ctx sn k) t w (st.chargeOf k (a.ctx sn k) w) sp)
        = (a.setStall sn (st'.issueWord sn k e t w sp).1).effects (x.2 ++ (st'.issueWord sn k e t w sp).2) := by
      unfold State.onStall
      dsimp only
      rw [Stall.due_of_passes _ held pass]
    rw [run]; unfold State.meet; rw [if_neg (by simp [open_]), issues]

end Sys2Proof.Machine
end

section
/-! PROOFS. STEP_RUN, STEP_ABORT, PITCH_MOVE and LEDGER_RECONCILE (R33, R129, R291, R304, R305, R373, R378, R384, R385, R445). -/
namespace Sys2Proof.Machine

/-! ### A ring command that may start (R442, R443) -/

/-- A command that runs on an open job does what its meaning does, at its tick. -/
theorem State.runCommand_of_runsOn {s : State} {t seq op : Nat} {x : Taken} {jb : Job} (f : State → Taken → State)
    (h : runsOn s t seq op x jb) : s.runCommand t seq op f = f (s.advance t) x := by
  obtain ⟨⟨-, taken, opcode, serving, dev, start⟩, open_, job, failed⟩ := h
  unfold State.runCommand
  dsimp only
  generalize s.advance t = a at *
  have ready : (descOp x.desc != op || !a.clerk.serving || decide (a.boot.dev = 0) || !a.mayStart x) = false := by
    simp [opcode, serving, dev, start]
  have running : (a.boot.dev != 2 && op != 0x7E && op != 0x7F) = false := by simp [dev]
  have allowed : (decide (jb.state = 5) && op != 0x06) = false := by
    by_cases k : jb.state = 5
    · simp [failed k]
    · simp [k]
  rw [taken]
  dsimp only
  rw [ready, running, open_, job]
  simp only [allowed, Bool.false_eq_true, Bool.not_true, if_false, ite_self]

theorem exec_of_runsOn {s : State} {t seq op : Nat} {x : Taken} {jb : Job} {c : Instr} {f : State → Taken → State}
    (h : runsOn s t seq op x jb) (run : exec c s = .next (s.on (s.runCommand t seq op f))) :
    exec c s = .next (s.within (f (s.advance t) x)) := by
  rw [run, State.on_clocked h.1.1, State.runCommand_of_runsOn f h]

/-! ### STEP_RUN (R33, R129, R291, R304) -/

theorem exec_stepRun {s : State} {t seq : Nat} {x : Taken} {jb : Job} (agreed : Option Nat)
    (h : runsOn s t seq 0x04 x jb) :
    exec (.stepRun t seq agreed) s = .next (s.within ((if x.started then s.advance t
      else (s.advance t).acceptStep t seq (descJob x.desc) jb x.desc).startStep t seq (descJob x.desc) agreed)) := by
  have job := h.2.2.1
  refine (exec_of_runsOn h rfl).trans ?_
  dsimp only
  rw [job]

section
variable (s : State) (t seq j : Nat) {jb : Job} {d : List Byte}

/-- What refuses a STEP_RUN: its guard, its step number, or a job without an image. -/
def stepRefused (jb : Job) (d : List Byte) : Prop :=
  128 ≤ descField d 40 2 ∨ (descField d 32 8 ≤ jb.consumed ∧ ¬ (jb.steps = [] ∧ jb.resolution = 0)) ∨ jb.image = none

theorem stepRefused_iff (jb : Job) (d : List Byte) : stepRefused jb d ↔
    (descField d 40 2 / 128 != 0 || (decide (descField d 32 8 ≤ jb.consumed) && !(jb.steps.isEmpty && jb.resolution = 0))
      || jb.image.isNone) = true := by
  have guard : descField d 40 2 / 128 = 0 ↔ ¬ 128 ≤ descField d 40 2 := by omega
  unfold stepRefused
  simp only [Bool.or_eq_true, Bool.and_eq_true, bne_iff_ne, ne_eq, guard, not_not, decide_eq_true_eq, Bool.not_eq_true',
    Bool.and_eq_false_iff, List.isEmpty_eq_false_iff, decide_eq_false_iff_not, Option.isNone_iff_eq_none, not_and_or, or_assoc]

theorem State.acceptStep_refused (h : stepRefused jb d) : s.acceptStep t seq j jb d = s.finish seq 2 0 0 0 0 none := by
  unfold State.acceptStep
  exact if_pos ((stepRefused_iff jb d).1 h)

theorem State.acceptStep_accepted (h : ¬ stepRefused jb d) : s.acceptStep t seq j jb d =
    ((s.setJob j (Job.settled { jb with
      consumed := descField d 32 8, carried := 0, runs := [], steps := jb.steps ++
        [⟨descField d 32 8, seq, descField d 40 2, descField d 44 4, 0, 0, 0, jb.runBefore (descField d 32 8), max t jb.lastClose,
          false, [], none, 0, jb.carried, [], false, none, none, false, false, none, false⟩] })).fetchStreams j
      (descField d 32 8) false).markStarted seq := by
  unfold State.acceptStep
  exact if_neg (mt (stepRefused_iff jb d).2 h)

end

section
variable {s : State} {t seq j : Nat} {jb : Job} {y : StepSt} (agreed : Option Nat) (job : s.job j = some jb)
  (waits : (jb.steps.find? fun z => z.seq = seq && z.start = 0 && z.abort.isNone) = some y)
include job waits

theorem State.startStep_of_goTick_none (h : s.goTick t j y.n jb agreed = none) : s.startStep t seq j agreed = s := by
  unfold State.startStep
  rw [job]; dsimp only
  rw [waits]; dsimp only
  rw [h]

theorem State.startStep_of_goTick_some {b : Nat} (h : s.goTick t j y.n jb agreed = some b) :
    s.startStep t seq j agreed = s.go t j y.n b := by
  unfold State.startStep
  rw [job]; dsimp only
  rw [waits]; dsimp only
  rw [h]

end

section
variable {s : State} {t j n : Nat} {jb : Job}

theorem State.goTick_unready (agreed : Option Nat) (h : s.jobReady t j jb = false) : s.goTick t j n jb agreed = none := by
  unfold State.goTick; simp [h]

/-- On one device a step starts at the first valid tick (R33). -/
theorem State.goTick_alone (agreed : Option Nat) (h : s.jobReady t j jb = true) (one : jb.spans = false) :
    s.goTick t j n jb agreed = some (upTo 4096 (t + 4096 - 64 * jb.phase) + 64 * jb.phase) := by
  unfold State.goTick Job.startTick Job.startsApart
  simp [h, one]

theorem State.goTick_unagreed (several : jb.spans = true) : s.goTick t j n jb none = none := by
  unfold State.goTick Job.startTick
  simp [several]

theorem State.goTick_refused {b : Nat} (several : jb.spans = true)
    (bad : b < t + 4096 ∨ b % 4096 ≠ 64 * jb.phase ∨ jb.startsApart n b = false) : s.goTick t j n jb (some b) = none := by
  unfold State.goTick Job.startTick
  by_cases valid : t + 4096 ≤ b ∧ b % 4096 = 64 * jb.phase
  · have apart : jb.startsApart n b = false :=
      (bad.resolve_left (by omega)).resolve_left (not_not_intro valid.2)
    simp [several, apart, valid]
  · simp [several, valid]

theorem State.goTick_agreed {b : Nat} (h : s.jobReady t j jb = true) (several : jb.spans = true) (late : t + 4096 ≤ b)
    (phase : b % 4096 = 64 * jb.phase) (apart : jb.startsApart n b = true) : s.goTick t j n jb (some b) = some b := by
  unfold State.goTick Job.startTick
  simp [h, several, late, phase, apart]

end

/-! ### STEP_ABORT (R305, R445) -/

theorem exec_stepAbort {s : State} {t seq : Nat} {x : Taken} {jb : Job} (h : runsOn s t seq 0x05 x jb) :
    exec (.stepAbort t seq) s = .next ((s.advance t).stepAbort t seq (descJob x.desc) jb x) := by
  have job := h.2.2.1
  have frame : Only ([.time] ++ eventParts) s ((s.advance t).stepAbort t seq (descJob x.desc) jb x) :=
    (State.advance_only.mono (by decide)).step State.stepAbort_only
  refine frame.answers h.1.1 ?_
  refine (exec_of_runsOn h rfl).trans ?_
  rw [State.on_clocked h.1.1, job]

/-- A step that is not armed and not past its guard tick less the lead is not held to its resolution (R294, R305). -/
theorem Job.firm_of_unarmed {jb : Job} {t : Nat} {st : StepSt} (unarmed : st.armed = none)
    (early : ∀ g, st.due = some g → t + jb.lead ≤ g) : jb.firm t st = false := by
  unfold Job.firm
  rw [unarmed]
  cases due : st.due with
  | none => simp
  | some g => simp [early g due]

theorem Job.abortable_iff_started {jb : Job} {t : Nat} {st : StepSt} (unarmed : st.armed = none)
    (early : ∀ g, st.due = some g → t + jb.lead ≤ g) : jb.abortable t st = (st.start != 0) := by
  unfold Job.abortable
  rw [Job.firm_of_unarmed unarmed early]
  rfl

/-- A STEP_RUN that still waits to be taken up, of the step that a STEP_ABORT names. -/
def stepWaits (j n : Nat) (y : Taken) : Bool :=
  !y.dup && !y.started && descOp y.desc = 0x04 && descJob y.desc = j && descField y.desc 32 8 = n

section
variable (s : State) (t seq j : Nat) {jb : Job} {x : Taken}

theorem State.stepAbort_waiting {y : Taken} (h : s.clerk.taken.find? (stepWaits j (descField x.desc 32 8)) = some y) :
    s.stepAbort t seq j jb x = (s.finish y.seq 5 0 0 0 0 (some j)).finish seq 0 0 0 0 0 none := by
  unfold State.stepAbort
  extract_lets n waits
  rw [show s.clerk.taken.find? waits = some y from h]

variable (none : s.clerk.taken.find? (stepWaits j (descField x.desc 32 8)) = none)
include none

theorem State.stepAbort_unknown (h : (jb.steps.find? fun y => y.n = descField x.desc 32 8) = Option.none) :
    s.stepAbort t seq j jb x = s.finish seq 0 0 1 0 0 Option.none := by
  unfold State.stepAbort
  extract_lets n waits
  rw [show s.clerk.taken.find? waits = _ from none, h]

variable {st : StepSt} (found : (jb.steps.find? fun y => y.n = descField x.desc 32 8) = some st)
include found

theorem State.stepAbort_started (h : x.started = true) :
    s.stepAbort t seq j jb x = s.stepAborted seq j (descField x.desc 32 8) := by
  unfold State.stepAbort
  extract_lets n waits
  rw [show s.clerk.taken.find? waits = _ from none, found]
  exact if_pos h

variable (fresh : x.started = false)
include fresh

/-- An armed step, or one past its guard tick less the lead, is not aborted (R305). -/
theorem State.stepAbort_firm (h : st.armed.isSome = true ∨ ∃ g, st.due = some g ∧ g < t + jb.lead) :
    s.stepAbort t seq j jb x = s.finish seq 0 0 1 0 0 Option.none := by
  unfold State.stepAbort
  extract_lets n waits
  rw [show s.clerk.taken.find? waits = _ from none, found]
  dsimp only
  rw [if_neg (by simp [fresh])]
  refine if_pos ?_
  obtain armed | ⟨g, due, late⟩ := h
  · simp [armed]
  · simp [due, late]

/-- A step that is not firm ends at once where it has not started, else once its stalls have drained. -/
theorem State.stepAbort_abortable (unarmed : st.armed = Option.none) (early : ∀ g, st.due = some g → t + jb.lead ≤ g) :
    s.stepAbort t seq j jb x = if st.start = 0 then (s.endStep j (descField x.desc 32 8) 5 0).finish seq 0 0 0 0 0 Option.none
      else (((s.setJob j { jb with steps := jb.steps.map (jb.aborted t 0 true) }).abortStalls j).markStarted seq).stepAborted seq j
        (descField x.desc 32 8) := by
  unfold State.stepAbort
  extract_lets n waits
  rw [show s.clerk.taken.find? waits = _ from none, found]
  dsimp only
  rw [if_neg (by simp [fresh]), Job.abortable_iff_started unarmed early, if_neg (by
    cases due : st.due with
    | none => simp [unarmed]
    | some g => simp [unarmed, early g due])]
  by_cases h : st.start = 0
  · rw [if_pos (by simp [h]), if_pos h]
  · rw [if_neg (by simp [h]), if_neg h]

end

section
variable {k : Job} {now c : Nat} {y : StepSt}

theorem Job.aborted_of_armed (h : y.armed ≠ none) : k.aborted now c true y = y := by
  have firm : k.firm now y = true := by unfold Job.firm; simp [Option.isSome_iff_ne_none.2 h]
  unfold Job.aborted Job.abortable
  rw [firm]
  rfl

theorem Job.aborted_of_unstarted (h : y.start = 0) : k.aborted now c true y = y := by
  unfold Job.aborted Job.abortable
  simp [h]

theorem Job.aborted_running (unarmed : y.armed = none) (started : y.start ≠ 0) (fresh : y.abort = none)
    (early : ∀ g, y.due = some g → now + k.lead ≤ g) : k.aborted now c true y = { y with abort := some c } := by
  unfold Job.aborted
  rw [Job.abortable_iff_started unarmed early, fresh]
  exact if_pos (by simp [started])

end

/-! ### PITCH_MOVE (R378, R379) -/

/-- The phase at which a pitch of a job is to be placed: a move keeps it unless it makes room for an admission (R378). -/
def Job.movePhase (k : Job) (why : MoveWhy) (ph : Nat) : Nat := if why = .admission ∧ k.spans = false then ph % 64 else k.phase

/-- What a PITCH_MOVE does to a job. -/
def State.pitchMove (a : State) (i p : Nat) (why : MoveWhy) (sns halls : List Nat) (ph : Nat) (k : Job) : State :=
  if a.leavesPreempted i k why then a.abortSteps i 0x6402
  else if !a.mayMove i p k why then a
  else match a.movePitch i p (k.movePhase why ph) why sns halls with
    | some u => u
    | none => if why = .fence then a.failJob i 0x6103 else a

theorem State.pitchMove_only (a : State) (i p : Nat) (why : MoveWhy) (sns halls : List Nat) (ph : Nat) (k : Job) :
    Only ([.mem, .marks] ++ eventParts) a (a.pitchMove i p why sns halls ph k) := by
  unfold State.pitchMove
  refine holds_ite (State.abortSteps_only.mono (by decide)) (holds_ite (.refl a) ?_)
  split
  · next u moved => exact (State.movePitch_only u moved).mono (by decide)
  · exact holds_ite (State.failJob_only.mono (by decide)) (.refl a)

theorem exec_pitchMove {s : State} {t i p : Nat} {why : MoveWhy} {sns halls : List Nat} {ph : Nat} {k : Job}
    (hc : s.clocked = true) (serving : s.clerk.serving = true) (job : (s.advance t).job i = some k) :
    exec (.pitchMove t i p why sns halls ph) s = .next ((s.advance t).pitchMove i p why sns halls ph k) := by
  rw [← ((s.advance t).pitchMove_only i p why sns halls ph k).onClerk (by simpa using hc) (by simpa using serving)]
  change execPitchMove t i p why sns halls ph s = _
  unfold execPitchMove
  dsimp only
  rw [job]
  have phase : (if why = .admission && !k.spans then ph % 64 else k.phase) = k.movePhase why ph := by
    unfold Job.movePhase; simp
  dsimp only
  rw [phase]
  rfl

section
variable {a : State} {i p : Nat} {why : MoveWhy} {sns halls : List Nat} (ph : Nat) {k : Job}

theorem State.pitchMove_preempted (h : a.leavesPreempted i k why = true) :
    a.pitchMove i p why sns halls ph k = a.abortSteps i 0x6402 := by unfold State.pitchMove; rw [if_pos h]

variable (stays : a.leavesPreempted i k why = false)
include stays

theorem State.pitchMove_stays (h : a.mayMove i p k why = false) : a.pitchMove i p why sns halls ph k = a := by
  unfold State.pitchMove; rw [if_neg (by simp [stays]), if_pos (by simp [h])]

variable (may : a.mayMove i p k why = true)
include may

theorem State.pitchMove_moves {u : State} (h : a.movePitch i p (k.movePhase why ph) why sns halls = some u) :
    a.pitchMove i p why sns halls ph k = u := by
  unfold State.pitchMove; rw [if_neg (by simp [stays]), if_neg (by simp [may]), h]

theorem State.pitchMove_unplaced (h : a.movePitch i p (k.movePhase why ph) why sns halls = none) :
    a.pitchMove i p why sns halls ph k = if why = .fence then a.failJob i 0x6103 else a := by
  unfold State.pitchMove; rw [if_neg (by simp [stays]), if_neg (by simp [may]), h]

end

/-! ### LEDGER_RECONCILE (R384, R385) -/

/-- The device at the end of an energy interval: what its stalls have accrued is on the pages, and the next interval is due. -/
def State.intervalEnd (s : State) : State :=
  let b := s.advance s.power.nextRec
  let c := b.stalls.foldl (fun z q => z.accrueAt .stall q.1) b
  { c with power := { c.power with nextRec := s.power.nextRec + 3300000 } }

/-- A new interval, of whose first frame `pj` have been measured. -/
def State.newInterval (u : State) (pj : Nat) : State :=
  let w := u.clearWork
  { w with power := { w.power with energy := 0, taken := pj } }

theorem State.intervalEnd_only (s : State) : Only ([.time, .power] ++ eventParts) s s.intervalEnd := by
  have accrued : Only ([.time] ++ eventParts) s
      ((s.advance s.power.nextRec).stalls.foldl (fun z q => z.accrueAt .stall q.1) (s.advance s.power.nextRec)) :=
    (State.advance_only.mono (by decide)).trans (Only.foldl fun _ _ => State.accrueAt_only.mono (by decide))
  exact (accrued.mono (by decide)).trans (Only.upd (.refl _))

theorem State.newInterval_only (u : State) (pj : Nat) : Only [.stalls, .power, .ledgers] u (u.newInterval pj) :=
  (State.clearWork_only.mono (by decide)).trans (Only.upd (.refl _))

section
variable {s : State} (hc : s.clocked = true) (dev : s.boot.dev ≠ 0) (coef : List (Nat × Nat)) (static : StaticCoef)
include hc dev

theorem exec_ledgerReconcile_unmeasured :
    let u := s.intervalEnd
    exec (.ledgerReconcile none coef static) s
      = .next ((u.newInterval 0).unreconciled u.openJobs (u.estimates coef static 3300000)).takeSnaps := by
  intro u
  have frame : Only ([.time, .power] ++ eventParts) s
      ((u.newInterval 0).unreconciled u.openJobs (u.estimates coef static 3300000)).takeSnaps :=
    ((s.intervalEnd_only.step (u.newInterval_only 0)).step State.unreconciled_only).step State.takeSnaps_only
  refine frame.answers hc ?_
  change execLedgerReconcile none coef static s = _
  unfold execLedgerReconcile
  rw [if_neg (by simp [hc, dev])]
  rfl

theorem exec_ledgerReconcile_measured (pj : Nat) :
    let u := s.intervalEnd
    exec (.ledgerReconcile (some pj) coef static) s = .next ((u.newInterval pj).reconcile u.openJobs
      (u.estimates coef static 3300000) (u.power.energy + pj)).takeSnaps := by
  intro u
  have frame : Only ([.time, .power] ++ eventParts) s ((u.newInterval pj).reconcile u.openJobs
      (u.estimates coef static 3300000) (u.power.energy + pj)).takeSnaps :=
    ((s.intervalEnd_only.step (u.newInterval_only pj)).step State.reconcile_only).step State.takeSnaps_only
  refine frame.answers hc ?_
  change execLedgerReconcile (some pj) coef static s = _
  unfold execLedgerReconcile
  rw [if_neg (by simp [hc, dev])]
  rfl

end

/-- The device once what an interval took has been divided: RECONCILED_UJ and the count of intervals rise (R385). -/
def State.reconciled (s : State) (m : Nat) : State := (s.count (pageNo .sched 0) 0x40 m).count (pageNo .sched 0) 0x50 1

section
variable (s : State) (js es : List Nat) (pj : Nat)

/-- A measurement leaves less than a microjoule for the next. -/
def State.measured (s : State) (all : Nat) : State := { s with power := { s.power with rest := all % 1000000, unrec := false } }

theorem State.reconcile_estimated (h : es.sum ≠ 0) :
    let all := pj + s.power.rest
    s.reconcile js es pj = ((s.measured all).chargeEnergy js (apportion (all / 1000000) es)).reconciled (all / 1000000) := by
  intro all
  unfold State.reconcile
  simp only [h, decide_false, Bool.false_eq_true, if_false]
  rfl

theorem State.reconcile_unestimated (h : es.sum = 0) :
    let all := pj + s.power.rest
    let v := s.measured all
    let z := v.chargeEnergy js ((List.range es.length).map fun i => Config.freeCharge (v.freeIx + i))
    s.reconcile js es pj = ({ z with freeIx := z.freeIx + es.length } : State).reconciled (all / 1000000) := by
  intro all v z
  unfold State.reconcile
  simp only [h, decide_true, if_true]
  rfl

end

/-- Settles O60: each command by the lemmas that say what its cases come to. -/
theorem stepsMovesAndLedgers : Obligations.StepsMovesAndLedgers := by
  unfold Obligations.StepsMovesAndLedgers
  intro s t seq x jb agreed a d j n
  refine ⟨?run, ?start, ?abort, ?aborted, ?move, fun _ _ => rfl, ?ledger⟩
  case run =>
    intro h g bad
    have run := exec_stepRun agreed h
    refine ⟨fun started => ?_, fun fresh refused => ?_, fun fresh good => ?_⟩
    · rw [run, if_pos started]
    · rw [run, if_neg (by simp [fresh]), State.acceptStep_refused _ _ _ _ refused]
    · rw [run, if_neg (by simp [fresh]), State.acceptStep_accepted _ _ _ _ good]
  case start =>
    intro u k y job waits
    refine ⟨fun unready => ?_, fun ready one => ?_, fun ready several => ⟨fun none => ?_, fun b some => ⟨fun bad => ?_,
      fun late phase apart => ?_⟩⟩⟩
    · exact State.startStep_of_goTick_none agreed job waits (State.goTick_unready agreed unready)
    · exact State.startStep_of_goTick_some agreed job waits (State.goTick_alone agreed ready one)
    · subst none
      exact State.startStep_of_goTick_none _ job waits (State.goTick_unagreed several)
    · exact State.startStep_of_goTick_none agreed job waits (some ▸ State.goTick_refused several bad)
    · exact State.startStep_of_goTick_some agreed job waits (some ▸ State.goTick_agreed ready several late phase apart)
  case abort =>
    intro h waits
    have run := exec_stepAbort h
    refine ⟨fun y found => ?_, fun none => ⟨fun unknown => ?_, fun st known => ⟨fun started active => ?_, fun fresh =>
      ⟨fun firm => ?_, fun unarmed early => ⟨fun idle => ?_, fun started => ?_⟩⟩⟩⟩⟩
    · rw [run, State.stepAbort_waiting _ _ _ _ found]
    · rw [run, State.stepAbort_unknown _ _ _ _ none unknown]
    · rw [run, State.stepAbort_started _ _ _ _ none known started]
      unfold State.stepAborted
      rw [if_pos active]
    · rw [run, State.stepAbort_firm _ _ _ _ none known fresh firm]
    · rw [run, State.stepAbort_abortable _ _ _ _ none known fresh unarmed early, if_pos idle]
    · rw [run, State.stepAbort_abortable _ _ _ _ none known fresh unarmed early, if_neg started]
  case aborted => exact fun k now c y => ⟨Job.aborted_of_armed, Job.aborted_of_unstarted, Job.aborted_running⟩
  case move =>
    intro i p ph why sns halls k hc serving job phase
    have run := exec_pitchMove (p := p) (why := why) (sns := sns) (halls := halls) (ph := ph) hc serving job
    refine ⟨fun leaves => ?_, fun stays held => ?_, fun stays may => ⟨fun u moved => ?_, fun unplaced => ⟨fun fence => ?_,
      fun other => ?_⟩⟩⟩
    · rw [run, State.pitchMove_preempted ph leaves]
    · rw [run, State.pitchMove_stays ph stays held]
    · rw [run, State.pitchMove_moves ph stays may moved]
    · rw [run, State.pitchMove_unplaced ph stays may unplaced, if_pos fence]
    · rw [run, State.pitchMove_unplaced ph stays may unplaced, if_neg other]
  case ledger =>
    intro measured coef static hc dev b c u es w
    refine ⟨fun none => ?_, fun pj some => ⟨fun estimated => ?_, fun unestimated => ?_⟩⟩
    · rw [none]
      exact exec_ledgerReconcile_unmeasured hc dev coef static
    · rw [some]
      exact (exec_ledgerReconcile_measured hc dev coef static pj).trans (congrArg (Host.Outcome.next ∘ State.takeSnaps)
        (State.reconcile_estimated (s.intervalEnd.newInterval pj) u.openJobs es (u.power.energy + pj) estimated))
    · rw [some]
      exact (exec_ledgerReconcile_measured hc dev coef static pj).trans (congrArg (Host.Outcome.next ∘ State.takeSnaps)
        (State.reconcile_unestimated (s.intervalEnd.newInterval pj) u.openJobs es (u.power.energy + pj) unestimated))

end Sys2Proof.Machine
end

section
/-! PROOFS. What a round boundary does to the bell (O22). -/

namespace Sys2Proof.Machine

/-! ### The BELL page among the device's pages -/

/-- What the commits of a boundary read of the BELL page: its live words, its shadow words, and whether a commit is pending. -/
def bellRegs (l : List (Nat × Page)) : List (Nat × W32) × List (Nat × W32) × Bool :=
  let p := sgetD l (pageNo .bell 0) .empty
  (p.live, p.shadow, l.any fun q => q.1 = pageNo .bell 0 && q.2.commit)

section
variable {α : Type} {f : Nat × α → Bool} {k : Nat} {l : List (Nat × α)} {v d : α}

theorem any_sset_other (h : ∀ w, f (k, w) = false) : (sset l k v).any f = l.any f := by
  induction l with
  | nil => simp [sset, h]
  | cons q l ih =>
    obtain ⟨i, w⟩ := q
    unfold sset
    split
    · simp [h]
    · split
      · next e => subst e; simp [h]
      · simp [ih]

theorem any_of_sgetD (default : f (k, d) = false) (h : f (k, sgetD l k d) = true) : l.any f = true := by
  induction l with
  | nil => exact absurd h (by simp [sgetD, sget, default])
  | cons q l ih =>
    obtain ⟨i, w⟩ := q
    by_cases e : i = k
    · subst e; simp_all [sgetD, sget]
    · rw [List.any_cons, ih (by simpa [sgetD, sget, e] using h), Bool.or_true]

theorem any_sset_same (default : f (k, d) = false) (h : f (k, v) = f (k, sgetD l k d)) : (sset l k v).any f = l.any f := by
  induction l with
  | nil => simpa [sset, sgetD, sget, default] using h
  | cons q l ih =>
    obtain ⟨i, w⟩ := q
    unfold sset
    split
    · rw [List.any_cons, h]
      cases c : f (k, sgetD ((i, w) :: l) k d) with
      | false => rfl
      | true => rw [any_of_sgetD default c, Bool.true_or]
    · split
      · next e => subst e; simp_all [sgetD, sget]
      · next e => rw [List.any_cons, List.any_cons, ih (by simpa [sgetD, sget, e] using h)]

end

theorem bellRegs_sset_other {k : Nat} {l : List (Nat × Page)} {v : Page} (h : k ≠ pageNo .bell 0) :
    bellRegs (sset l k v) = bellRegs l := by
  unfold bellRegs
  rw [sgetD_sset_other _ _ _ h.symm, any_sset_other (by simp [h])]

theorem bellRegs_sset_bell {l : List (Nat × Page)} {v : Page} (live : v.live = (sgetD l (pageNo .bell 0) .empty).live)
    (shadow : v.shadow = (sgetD l (pageNo .bell 0) .empty).shadow) (commit : v.commit = (sgetD l (pageNo .bell 0) .empty).commit) :
    bellRegs (sset l (pageNo .bell 0) v) = bellRegs l := by
  have any := any_sset_same (f := fun q : Nat × Page => q.1 = pageNo .bell 0 && q.2.commit) (k := pageNo .bell 0) (l := l)
    (v := v) (d := .empty) (by simp [Page.empty]) (by simp [commit])
  simp only [bellRegs, sgetD_sset_same, any, live, shadow]

/-! ### Operations that leave the BELL page's registers alone -/

theorem State.setPage_bellRegs_other {s : State} {n : Nat} {p : Page} (h : n ≠ pageNo .bell 0) :
    bellRegs (s.setPage n p).pages = bellRegs s.pages := by
  unfold State.setPage
  split
  · rfl
  · exact bellRegs_sset_other h

theorem State.setPage_bellRegs {s : State} {n : Nat} {p : Page} (live : p.live = (s.page n).live)
    (shadow : p.shadow = (s.page n).shadow) (commit : p.commit = (s.page n).commit) :
    bellRegs (s.setPage n p).pages = bellRegs s.pages := by
  by_cases h : n = pageNo .bell 0
  · subst h
    exact bellRegs_sset_bell live shadow commit
  · exact setPage_bellRegs_other h

/-- A fold of an operation that leaves something alone leaves it alone. -/
theorem foldl_keeps {α β γ : Type} {g : α → γ} {f : α → β → α} (h : ∀ a b, g (f a b) = g a) (l : List β) (a : α) :
    g (l.foldl f a) = g a := by
  induction l generalizing a with
  | nil => rfl
  | cons b l ih => rw [List.foldl_cons, ih, h]

theorem foldl_bellRegs {β : Type} {f : State → β → State} (h : ∀ s b, bellRegs (f s b).pages = bellRegs s.pages) (l : List β)
    (s : State) : bellRegs (l.foldl f s).pages = bellRegs s.pages := foldl_keeps (g := fun s => bellRegs s.pages) h l s

section
variable (s : State) (sn j n : Nat)

@[simp] theorem State.await_pages (x : ClerkAct) : (s.await x).pages = s.pages := rfl
@[simp] theorem State.abortStalls_pages : (s.abortStalls j).pages = s.pages := State.abortStalls_only .pages (by decide)
@[simp] theorem State.dropFetches_pages : (s.dropFetches j n).pages = s.pages := State.dropFetches_only .pages (by decide)
@[simp] theorem State.stopFetches_pages : (s.stopFetches sn).pages = s.pages := State.stopFetches_only .pages (by decide)
@[simp] theorem State.noteQuiet_pages (old : State) : (s.noteQuiet old).pages = s.pages := State.noteQuiet_only .pages (by decide)
@[simp] theorem State.noteEnergy_pages (off : Nat) : (s.noteEnergy j off n).pages = s.pages :=
  State.noteEnergy_only .pages (by decide)
@[simp] theorem State.flagJob_pages (t : Nat) : (s.flagJob j n t).pages = s.pages := State.flagJob_only .pages (by decide)
@[simp] theorem State.putCompletion_pages (record : Nat → List Byte) : (s.putCompletion record).pages = s.pages :=
  State.putCompletion_only .pages (by decide)
@[simp] theorem State.writeCompanion_pages (a : Nat) (d : List Byte) : (s.writeCompanion a d).pages = s.pages :=
  State.writeCompanion_only .pages (by decide)
@[simp] theorem State.writeStatus_pages : s.writeStatus.pages = s.pages := State.writeStatus_only .pages (by decide)
@[simp] theorem State.sendRemote_pages (pos : Nat) (h : BitVec 128) (ws : List Line) (crc st : W32) :
    (s.sendRemote pos h ws crc st).pages = s.pages := State.sendRemote_only .pages (by decide)
@[simp] theorem State.sendClerk_pages (pos ty step : Nat) (body : List Byte) : (s.sendClerk pos ty j step body).pages = s.pages :=
  State.sendClerk_only .pages (by decide)
@[simp] theorem State.sendTable_pages (path step : Nat) (table : List Byte) : (s.sendTable j path step table).pages = s.pages :=
  State.sendTable_only .pages (by decide)
@[simp] theorem State.tellAbort_pages (jb : Job) (x : StepSt) : (s.tellAbort j jb x).pages = s.pages :=
  State.tellAbort_only .pages (by decide)
@[simp] theorem State.tellSide_pages (ty : Nat) : (s.tellSide j ty).pages = s.pages := State.tellSide_only .pages (by decide)
@[simp] theorem State.advanceGroups_pages (gs : List (Nat × W64)) : (s.advanceGroups gs).pages = s.pages :=
  State.advanceGroups_only .pages (by decide)

@[simp] theorem State.count_bellRegs (page off : Nat) : bellRegs (s.count page off n).pages = bellRegs s.pages := by
  unfold State.count
  split
  · rfl
  · exact State.setPage_bellRegs rfl rfl rfl

@[simp] theorem State.advance_bellRegs (t : Nat) : bellRegs (s.advance t).pages = bellRegs s.pages := by
  unfold State.advance
  split
  · rfl
  · dsimp only; split <;> simp

@[simp] theorem State.traceRec_bellRegs (ty : Nat) (body : List Byte) : bellRegs (s.traceRec ty body).pages = bellRegs s.pages := by
  unfold State.traceRec
  split
  · rfl
  · dsimp only; split <;> simp

/-- No page but BELL has its number. -/
theorem pageNo_ne_bell {p : PageTy} (h : 2 ≤ p.span.1) (i : Nat) : pageNo p i ≠ pageNo .bell 0 := by
  have : pageNo .bell 0 = 1 := rfl
  unfold pageNo at *
  omega

@[simp] theorem State.shadow_stall_bellRegs (off v : Nat) : bellRegs (s.shadow .stall sn off v).pages = bellRegs s.pages :=
  State.setPage_bellRegs_other (pageNo_ne_bell (by decide) sn)

@[simp] theorem State.requestCommit_stall_bellRegs : bellRegs (s.requestCommit .stall sn).pages = bellRegs s.pages :=
  State.setPage_bellRegs_other (pageNo_ne_bell (by decide) sn)

@[simp] theorem State.shadows_stall_bellRegs (off : Nat) (vs : List Nat) :
    bellRegs (s.shadows .stall sn off vs).pages = bellRegs s.pages :=
  foldl_bellRegs (by simp) _ s

@[simp] theorem State.giveRota_bellRegs (v : Nat) (masks : List Nat) : bellRegs (s.giveRota sn v masks).pages = bellRegs s.pages :=
  foldl_bellRegs (fun z _ => foldl_bellRegs (fun _ _ => by dsimp only; split <;> simp) _ z) _ s

@[simp] theorem State.suspendSlots_bellRegs (b : Bool) : bellRegs (s.suspendSlots j b).pages = bellRegs s.pages := by
  unfold State.suspendSlots
  split
  · rfl
  · refine foldl_bellRegs (fun z sn => ?_) _ s
    split
    · rfl
    · dsimp only; split <;> simp

@[simp] theorem State.suspendJob_bellRegs (b : Bool) : bellRegs (s.suspendJob j b).pages = bellRegs s.pages := by
  unfold State.suspendJob
  split
  · rfl
  · dsimp only; split <;> simp

/-! Recording of events, completions and charges -/

@[simp] theorem State.postEvents_bellRegs : bellRegs (s.postEvents n).pages = bellRegs s.pages := by
  induction n generalizing s with
  | zero => rfl
  | succ n ih =>
    unfold State.postEvents
    dsimp only
    split
    · rfl
    · split
      · rfl
      · simp [ih]

@[simp] theorem State.post_bellRegs : bellRegs s.post.pages = bellRegs s.pages := by
  unfold State.post
  dsimp only
  split <;> simp

@[simp] theorem State.record_bellRegs (e : Ev) : bellRegs (s.record e).pages = bellRegs s.pages := by
  have pend (z : State) (pg : Nat) (b : BitVec 5) :
      bellRegs (z.setPage pg { z.page pg with pendingEv := b }).pages = bellRegs z.pages := State.setPage_bellRegs rfl rfl rfl
  unfold State.record
  dsimp only
  split_ifs <;> simp [pend]

@[simp] theorem State.charge_bellRegs (off : Nat) : bellRegs (s.charge j off n).pages = bellRegs s.pages := by
  unfold State.charge
  split
  · rfl
  · dsimp only; split <;> simp

@[simp] theorem State.writeCompletion_bellRegs (d : List Byte) (status cause job rate attempts orig result : Nat) :
    bellRegs (s.writeCompletion d status cause job rate attempts orig result).pages = bellRegs s.pages := by
  unfold State.writeCompletion
  dsimp only
  split <;> simp

@[simp] theorem State.finishDups_bellRegs (status result : Nat) :
    bellRegs (s.finishDups n status result).pages = bellRegs s.pages :=
  foldl_bellRegs (by simp) _ s

@[simp] theorem State.finish_bellRegs (status cause result rate attempts : Nat) (job : Option Nat) :
    bellRegs (s.finish n status cause result rate attempts job).pages = bellRegs s.pages := by
  unfold State.finish
  split
  · rfl
  · split
    · rfl
    · dsimp only; split <;> simp

/-! Steps, jobs and stalls that fail -/

@[simp] theorem State.compareSeals_bellRegs : bellRegs (s.compareSeals j n).pages = bellRegs s.pages := by
  unfold State.compareSeals
  split
  · rfl
  · split
    · rfl
    · split
      · rfl
      · split
        · rfl
        · extract_lets d ran w' sealed differs
          clear_value d
          split_ifs <;> simp [differs, sealed]

@[simp] theorem State.takeSeal_bellRegs (t pos st : Nat) (v : W64) :
    bellRegs (s.takeSeal t j n pos st v).pages = bellRegs s.pages := by
  unfold State.takeSeal
  split
  · rfl
  · split
    · rfl
    · dsimp only; split <;> simp

@[simp] theorem State.sendSeal_bellRegs (t st : Nat) (v : W64) : bellRegs (s.sendSeal t j n st v).pages = bellRegs s.pages := by
  unfold State.sendSeal
  split <;> simp

@[simp] theorem State.sealsOf_bellRegs (t before : Nat) (commit : Bool) :
    bellRegs (s.sealsOf t j before n commit).pages = bellRegs s.pages := by
  unfold State.sealsOf
  split
  · rfl
  · split
    · rfl
    · extract_lets first
      clear_value first
      exact foldl_bellRegs (fun _ _ => by dsimp only; split <;> simp) _ s

@[simp] theorem State.dropRing_bellRegs (r : Nat) : bellRegs (s.dropRing sn r).pages = bellRegs s.pages := by
  simp [State.dropRing]

@[simp] theorem State.freeAhead_bellRegs : bellRegs (s.freeAhead j).pages = bellRegs s.pages :=
  foldl_bellRegs (fun _ _ => by dsimp only; split <;> simp) _ s

@[simp] theorem State.discardStep_bellRegs (final : Bool) : bellRegs (s.discardStep j n final).pages = bellRegs s.pages := by
  have rings (z : State) (jb : Job) : bellRegs (jb.stalls.foldl (fun s sn =>
      ((s.stall sn).provRings j n).foldl (fun s r => s.dropRing sn r) s) z).pages = bellRegs z.pages :=
    foldl_bellRegs (fun y _ => foldl_bellRegs (by simp) _ y) _ z
  unfold State.discardStep
  split
  · rfl
  · dsimp only; split <;> simp [rings, foldl_bellRegs]

@[simp] theorem State.failNow_bellRegs (code : Nat) : bellRegs (s.failNow j code).pages = bellRegs s.pages := by
  unfold State.failNow
  split
  · rfl
  · split
    · rfl
    · simp [foldl_bellRegs]

@[simp] theorem State.failJob_bellRegs (code : Nat) : bellRegs (s.failJob j code).pages = bellRegs s.pages := by
  unfold State.failJob
  split <;> simp

@[simp] theorem State.abortSteps_bellRegs (cause : Nat) (counts : Bool) :
    bellRegs (s.abortSteps j cause counts).pages = bellRegs s.pages := by
  unfold State.abortSteps
  split
  · rfl
  · split
    · rfl
    · extract_lets reruns
      clear_value reruns
      split_ifs <;> simp

@[simp] theorem State.jobsLose_bellRegs (abortCause failCause : Nat) (counts : Nat → Bool) :
    bellRegs (s.jobsLose sn abortCause failCause counts).pages = bellRegs s.pages := by
  refine foldl_bellRegs (fun z j => ?_) _ s
  split
  · rfl
  · split_ifs <;> simp

@[simp] theorem State.fence_bellRegs (cause : Nat) : bellRegs (s.fence sn cause).pages = bellRegs s.pages := by
  unfold State.fence
  split
  · rfl
  · split <;> simp

@[simp] theorem State.stopDevice_bellRegs (code : Nat) : bellRegs (s.stopDevice code).pages = bellRegs s.pages :=
  foldl_bellRegs (by simp) _ s

@[simp] theorem State.raise_bellRegs (e : Ev) : bellRegs (s.raise e).pages = bellRegs s.pages := by
  unfold State.raise
  extract_lets recorded flagged failed
  have flag : bellRegs flagged.pages = bellRegs s.pages := by
    simp only [flagged]
    split <;> simp [recorded]
  have fail : bellRegs failed.pages = bellRegs s.pages := by
    simp only [failed]
    clear_value flagged
    split
    · simp [flag]
    · split <;> simp [flag]
    · simp [flag]
    · split <;> simp [flag]
    · exact flag
  simp [fail]

@[simp] theorem State.resetStall_bellRegs (job : Option Nat) : bellRegs (s.resetStall sn job).pages = bellRegs s.pages := by
  simp [State.resetStall]

@[simp] theorem State.strike_bellRegs (cause : Nat) (job : Option Nat) :
    bellRegs (s.strike sn cause job).pages = bellRegs s.pages := by
  unfold State.strike
  dsimp only
  split_ifs <;> simp

/-! What the words of the stalls do to the device -/

@[simp] theorem State.chargeIssue_bellRegs (t eng d : Nat) : bellRegs (s.chargeIssue t sn eng j d).pages = bellRegs s.pages := by
  unfold State.chargeIssue
  split <;> simp

@[simp] theorem State.countHbm_bellRegs (pa off : Nat) : bellRegs (s.countHbm pa off n).pages = bellRegs s.pages := by
  unfold State.countHbm
  split <;> simp

@[simp] theorem State.countRead_bellRegs (pa : Nat) : bellRegs (s.countRead pa).pages = bellRegs s.pages := by
  simp [State.countRead]

@[simp] theorem State.noteFetch_bellRegs (pa : Nat) : bellRegs (s.noteFetch j pa).pages = bellRegs s.pages := by
  unfold State.noteFetch
  dsimp only
  split
  · rfl
  · split <;> split <;> simp

@[simp] theorem State.useXlate_bellRegs (h va : Nat) : bellRegs (s.useXlate h j va).pages = bellRegs s.pages := by
  unfold State.useXlate
  dsimp only
  split
  · simp
  · split <;> simp [foldl_bellRegs]

@[simp] theorem State.takeRead_bellRegs (tag q : Nat) : bellRegs (s.takeRead sn tag q).pages = bellRegs s.pages := by
  unfold State.takeRead
  dsimp only
  split
  · rfl
  · split
    · rfl
    · split
      · rfl
      · split
        · simp
        · split <;> simp

@[simp] theorem State.aheadOne_bellRegs (h va limit : Nat) : bellRegs (s.aheadOne h j va limit).1.pages = bellRegs s.pages := by
  unfold State.aheadOne
  dsimp only
  split_ifs <;> (try split) <;> simp

@[simp] theorem State.aheadWord_bellRegs (t : Nat) (a : Ahead) : bellRegs (s.aheadWord t sn j a).pages = bellRegs s.pages := by
  have words (l : List Nat) (z : State × Option (Nat × Nat)) : bellRegs (l.foldl (fun (acc : State × Option (Nat × Nat)) va =>
      let q := acc.1.aheadOne (hubOf sn) j va a.limit.toNat
      (q.1, match acc.2, q.2 with | none, some c => some (c, va) | x, _ => x)) z).1.pages = bellRegs z.1.pages :=
    foldl_keeps (g := fun y : State × Option (Nat × Nat) => bellRegs y.1.pages) (by simp) l z
  unfold State.aheadWord
  dsimp only
  split
  · exact words _ _
  · rw [State.raise_bellRegs]; exact words _ _

@[simp] theorem State.effect_bellRegs (e : Eff) : bellRegs (s.effect e).pages = bellRegs s.pages := by
  cases e with
  | ev e => exact State.raise_bellRegs s e
  | count p o n => exact State.count_bellRegs s n p o
  | emit o =>
    unfold State.effect
    dsimp only
    split <;> simp
  | issued t sn eng job pc d =>
    unfold State.effect
    dsimp only
    split <;> simp
  | reads sn tag qs => exact foldl_bellRegs (by simp) qs s
  | lookup sn job va =>
    unfold State.effect
    dsimp only
    split <;> simp
  | ahead t sn job a => exact State.aheadWord_bellRegs s sn job t a
  | strike sn c j => exact State.strike_bellRegs s sn c j
  | remote t pos h ws crc st => simp [State.effect]

@[simp] theorem State.effects_bellRegs (l : List Eff) : bellRegs (s.effects l).pages = bellRegs s.pages :=
  foldl_bellRegs (by simp) l s

@[simp] theorem State.onStall_bellRegs (t : Nat) (f : Stall → Stall × List Eff) :
    bellRegs (s.onStall t sn f).pages = bellRegs s.pages := by
  simp [State.onStall]

/-! What a boundary does beside the commits -/

@[simp] theorem State.stallBoundaries_bellRegs (B : Nat) (masked : Bool) :
    bellRegs (s.stallBoundaries B masked).pages = bellRegs s.pages := by
  unfold State.stallBoundaries
  refine (foldl_bellRegs (fun z d => ?_) _ _).trans (foldl_bellRegs (by simp) _ s)
  split
  · rfl
  · exact State.setPage_bellRegs_other (pageNo_ne_bell (by decide) d)

@[simp] theorem State.resolveHub_bellRegs (B h : Nat) (r : Nat × Nat × Bool) :
    bellRegs (s.resolveHub B h r).pages = bellRegs s.pages := by
  simp [State.resolveHub]

@[simp] theorem State.hubBoundary_bellRegs (B h : Nat) : bellRegs (s.hubBoundary B h).pages = bellRegs s.pages := by
  unfold State.hubBoundary
  dsimp only
  split
  · rfl
  · rw [State.setPage_bellRegs_other (pageNo_ne_bell (by decide) h)]
    exact foldl_bellRegs (by simp) _ s

@[simp] theorem State.resolveStep_bellRegs (B : Nat) (x : StepSt) (commit : Bool) :
    bellRegs (s.resolveStep B j x commit).pages = bellRegs s.pages := by
  unfold State.resolveStep
  split
  · rfl
  · dsimp only; split <;> simp

@[simp] theorem State.resolveSteps_bellRegs (B : Nat) : bellRegs (s.resolveSteps B).pages = bellRegs s.pages := by
  refine foldl_bellRegs (fun z q => foldl_bellRegs (fun y x => ?_) _ z) _ s
  split
  · split <;> simp
  · rfl

@[simp] theorem State.rebankOne_bellRegs (owners : List Nat) : bellRegs (s.rebankOne sn owners).pages = bellRegs s.pages := by
  simp [State.rebankOne]

@[simp] theorem State.rebank_bellRegs (B : Nat) : bellRegs (s.rebank B).pages = bellRegs s.pages :=
  foldl_bellRegs (by simp) _ _

@[simp] theorem State.chargeReserved_bellRegs (masked : Bool) : bellRegs (s.chargeReserved masked).pages = bellRegs s.pages := by
  unfold State.chargeReserved
  split
  · rfl
  · refine foldl_bellRegs (fun z j => ?_) _ s
    split
    · dsimp only; split <;> simp
    · rfl

@[simp] theorem State.startAcquire_pages : s.startAcquire.pages = s.pages := State.startAcquire_only .pages (by decide)

end

end Sys2Proof.Machine
end

section
/-! PROOFS. The bell at a round boundary (O22): k_applied and the mask before the commits, the state through them. -/

namespace Sys2Proof.Machine

/-! ### k in force (R46) -/

section
variable (s : State) (b : Nat)

theorem State.setK_bell (k : Nat) : (s.setK k).bell = { s.bell with kApplied := k } := by
  unfold State.setK
  dsimp only
  split
  · rw [State.raise_bell]
  · rfl

@[simp] theorem State.setK_bellRegs (k : Nat) : bellRegs (s.setK k).pages = bellRegs s.pages := by
  unfold State.setK
  dsimp only
  split <;> simp

/-- k_square once a KDOWN for boundary `b` or before has come into force. -/
def State.squareK : Nat := (s.takeSquare b).bell.kSquare

theorem State.squareK_of_kDown {e k : Nat} (h : s.bell.kDown = some (e, k)) :
    s.squareK b = if e * 2 ^ 20 ≤ b then k else s.bell.kSquare := by
  unfold State.squareK State.takeSquare
  rw [h]
  dsimp only
  split <;> rfl

theorem State.squareK_of_none (h : s.bell.kDown = none) : s.squareK b = s.bell.kSquare := by
  unfold State.squareK State.takeSquare
  rw [h]

theorem State.takeSquare_bell : (s.takeSquare b).bell
    = { s.bell with kSquare := s.squareK b, kDown := (s.takeSquare b).bell.kDown } := by
  unfold State.squareK State.takeSquare
  split
  · split <;> rfl
  · rfl

theorem State.takeSquare_squareScope : (s.takeSquare b).squareScope = s.squareScope := by
  unfold State.squareScope
  rw [State.live_only (State.takeSquare_only (a0 := s) (a1 := b))]

@[simp] theorem State.takeSquare_pages : (s.takeSquare b).pages = s.pages := State.takeSquare_only .pages (by decide)

theorem State.advance_squareScope : (s.advance b).squareScope = s.squareScope := by
  unfold State.squareScope
  rw [State.live_advance]

/-- What k_applied becomes at boundary `b` (R46). -/
def State.nextK : Nat :=
  if s.squareScope then (if b % 2 ^ 20 = 0 then s.squareK b else s.bell.kApplied)
  else if s.bell.nextFrame = b then s.bell.kLocal else s.bell.kApplied

theorem State.applyK_bell : (s.applyK b).bell = { s.bell with
    kApplied := s.nextK b, kSquare := (s.applyK b).bell.kSquare, kDown := (s.applyK b).bell.kDown } := by
  unfold State.applyK State.nextK
  by_cases sync : b % 2 ^ 20 = 0
  · simp only [sync, if_true, State.takeSquare_squareScope]
    split
    · rw [State.setK_bell, State.takeSquare_bell]
    · rw [State.takeSquare_bell]
      dsimp only
      split
      · rw [State.setK_bell, State.takeSquare_bell]
      · rw [State.takeSquare_bell]
  · simp only [sync, if_false]
    split
    · rfl
    · split
      · rw [State.setK_bell]
      · rfl

@[simp] theorem State.applyK_bellRegs : bellRegs (s.applyK b).pages = bellRegs s.pages := by
  unfold State.applyK
  dsimp only
  split_ifs <;> simp

end

/-! ### The words of SYNC_CONFIG -/

/-- SYNC_CONFIG as it would stand after a commit. -/
def State.nextSyncConfig (s : State) : W32 :=
  storedWord .bell 0 ((s.page (pageNo .bell 0)).shadow.foldr (commitEntry .bell 0) (s.page (pageNo .bell 0)).live) 0x110

theorem syncConfig_row : PageTy.bell.row 0 0x110 = some (rowS 0x110 1 4 0x7FF 0) := rfl

theorem State.live_bell_eq (s : State) (o : Nat) :
    s.live .bell 0 o = (storedWord .bell 0 (s.page (pageNo .bell 0)).live o).toNat := rfl

/-- A second commit of the same shadow words gives the same word. -/
theorem storedWord_foldr_commitEntry_again {p : PageTy} {i o : Nat} {r : RegRow} (h : p.row i o = some r) (sh l : List (Nat × W32)) :
    storedWord p i (sh.foldr (commitEntry p i) (sh.foldr (commitEntry p i) l)) o = storedWord p i (sh.foldr (commitEntry p i) l) o := by
  cases k : sget sh o with
  | none => exact storedWord_foldr_commitEntry_none p i _ k
  | some x => rw [storedWord_foldr_commitEntry_some h _ k, storedWord_foldr_commitEntry_some h _ k, merge_keeps]

theorem bellRegs_page {s t : State} (h : bellRegs t.pages = bellRegs s.pages) :
    (t.page (pageNo .bell 0)).live = (s.page (pageNo .bell 0)).live ∧
      (t.page (pageNo .bell 0)).shadow = (s.page (pageNo .bell 0)).shadow :=
  ⟨congrArg Prod.fst h, congrArg (fun q => q.2.1) h⟩

theorem live_of_bellRegs {s t : State} (h : bellRegs t.pages = bellRegs s.pages) (o : Nat) : t.live .bell 0 o = s.live .bell 0 o := by
  rw [State.live_bell_eq, State.live_bell_eq, (bellRegs_page h).1]

theorem nextSyncConfig_of_bellRegs {s t : State} (h : bellRegs t.pages = bellRegs s.pages) :
    t.nextSyncConfig = s.nextSyncConfig := by
  unfold State.nextSyncConfig
  rw [(bellRegs_page h).1, (bellRegs_page h).2]

theorem inSquare_of {s t : State} (fuses : t.fuses.grade = s.fuses.grade) (live : t.live .bell 0 0x110 = s.live .bell 0 0x110) :
    t.inSquare = s.inSquare := by
  unfold State.inSquare State.isMaster State.sourceOf State.portPresent
  rw [live, fuses]

/-! ### Commits of pages (R43, R464) -/

/-- The bell's state once SYNC_CONFIG has changed, by whether the device belongs to a square (R43). -/
def stateIn (square : Bool) (state : Nat) : Nat :=
  if square then (if state = 1 then 3 else state) else if state = 2 ∨ state = 3 then 1 else state

theorem stateIn_again (square : Bool) (state : Nat) : stateIn square (stateIn square state) = stateIn square state := by
  unfold stateIn
  split_ifs <;> omega

theorem State.squareState_bell (s : State) : s.squareState.bell = { s.bell with state := stateIn s.inSquare s.bell.state } := by
  unfold State.squareState stateIn
  split
  · split <;> rfl
  · simp only [Bool.or_eq_true, decide_eq_true_eq]
    split <;> rfl

theorem State.takeMaster_bell (s : State) : s.takeMaster.bell
    = { s.bell with masterPos := s.takeMaster.bell.masterPos, masterNext := s.takeMaster.bell.masterNext } := by
  unfold State.takeMaster
  split <;> rfl

/-- What commits of pages leave of the bell, `taken` telling whether the BELL page is among them. -/
structure Commits (taken : Prop) (s t : State) : Prop where
  fuses : t.fuses = s.fuses
  rest : t.bell = { s.bell with state := t.bell.state, masterPos := t.bell.masterPos, masterNext := t.bell.masterNext }
  next : t.nextSyncConfig = s.nextSyncConfig
  live_taken : taken → t.live .bell 0 0x110 = s.nextSyncConfig.toNat
  live_kept : ¬ taken → t.live .bell 0 0x110 = s.live .bell 0 0x110
  state_taken : taken → t.bell.state = stateIn t.inSquare s.bell.state
  state_kept : ¬ taken → t.bell.state = s.bell.state

theorem Commits.refl (s : State) : Commits False s s :=
  ⟨rfl, rfl, rfl, False.elim, fun _ => rfl, False.elim, fun _ => rfl⟩

theorem Commits.trans {a b : Prop} {r s t : State} (h : Commits a r s) (k : Commits b s t) : Commits (a ∨ b) r t where
  fuses := k.fuses.trans h.fuses
  rest := by rw [k.rest, h.rest]
  next := k.next.trans h.next
  live_taken := fun q => by
    by_cases b
    · next hb => rw [k.live_taken hb, h.next]
    · next hb => rw [k.live_kept hb, h.live_taken (q.resolve_right hb)]
  live_kept := fun q => (k.live_kept fun hb => q (.inr hb)).trans (h.live_kept fun ha => q (.inl ha))
  state_taken := fun q => by
    by_cases ha : a
    · have square : t.inSquare = s.inSquare := inSquare_of (by rw [k.fuses]) (by
        by_cases hb : b
        · rw [k.live_taken hb, h.live_taken ha, h.next]
        · exact k.live_kept hb)
      by_cases hb : b
      · rw [k.state_taken hb, h.state_taken ha, square, stateIn_again]
      · rw [k.state_kept hb, h.state_taken ha, square]
    · rw [k.state_taken (q.resolve_left ha), h.state_kept ha]
  state_kept := fun q => (k.state_kept fun hb => q (.inr hb)).trans (h.state_kept fun ha => q (.inl ha))

/-- An operation that leaves bell, fuses and the BELL page's registers alone commits nothing of them. -/
theorem Commits.of_kept {w : List Part} {s t : State} (frame : Only w s t) (regs : bellRegs t.pages = bellRegs s.pages)
    (c : (w.contains .time || w.contains .bell || w.contains .fuses) = false := by decide) : Commits False s t := by
  simp only [Bool.or_eq_false_iff] at c
  have bell : t.bell = s.bell := frame.bell (by rw [c.1.1, c.1.2]; rfl)
  exact ⟨frame .fuses c.2, by rw [bell], nextSyncConfig_of_bellRegs regs, False.elim, fun _ => live_of_bellRegs regs _,
    False.elim, fun _ => by rw [bell]⟩

theorem findPage_eq {l : List PageTy} {n i : Nat} {p : PageTy} (h : findPage l n = some (p, i)) :
    n = pageNo p i ∧ i < p.span.2 := by
  induction l with
  | nil => cases h
  | cons q l ih =>
    unfold findPage at h
    split at h
    · next inside =>
      simp only [Bool.and_eq_true, decide_eq_true_eq] at inside
      cases h
      unfold pageNo
      omega
    · exact ih h

/-- A commit of another page than BELL leaves the bell as it was. -/
theorem State.commitOne_other {s : State} {B n : Nat} (h : n ≠ pageNo .bell 0) : Commits False s (s.commitOne B n) := by
  unfold State.commitOne
  split
  · exact .refl s
  · next p i found =>
    have put : Commits False s (s.setPage n ((s.page n).apply p i)) :=
      .of_kept State.setPage_only (State.setPage_bellRegs_other h)
    have then_ {w : List Part} {t : State} (k : Only w (s.setPage n ((s.page n).apply p i)) t)
        (pages : w.contains .pages = false := by decide)
        (c : (w.contains .time || w.contains .bell || w.contains .fuses) = false := by decide) : Commits False s t := by
      simpa using put.trans (.of_kept k (congrArg bellRegs (k .pages pages)) c)
    dsimp only
    split
    · exact then_ State.linkConfig_only
    · exact then_ State.policyCommit_only
    · obtain ⟨rfl, first⟩ := findPage_eq found
      exact absurd (by rw [Nat.lt_one_iff.mp first]) h
    · split
      · exact then_ (w := [.trace]) (Only.upd (.refl _))
      · exact put
    · exact put

/-- A commit of the BELL page: its shadow becomes live, and the bell's state follows the new SYNC_CONFIG (R43). -/
theorem State.commitOne_bell {s : State} {B : Nat} : Commits True s (s.commitOne B (pageNo .bell 0)) := by
  have run : s.commitOne B (pageNo .bell 0)
    = (s.setPage (pageNo .bell 0) ((s.page (pageNo .bell 0)).apply .bell 0)).takeMaster.squareState := rfl
  rw [run]
  generalize put : s.setPage (pageNo .bell 0) ((s.page (pageNo .bell 0)).apply .bell 0) = u
  have page : u.page (pageNo .bell 0) = (s.page (pageNo .bell 0)).apply .bell 0 := by rw [← put, State.page_setPage]
  have bell : u.bell = s.bell := by rw [← put]; exact Only.bell State.setPage_only
  have frame : Only [.time, .bell] u u.takeMaster.squareState := State.takeMaster_only.trans State.squareState_only
  have same : bellRegs u.takeMaster.squareState.pages = bellRegs u.pages := congrArg bellRegs (frame .pages (by decide))
  have live : u.live .bell 0 0x110 = s.nextSyncConfig.toNat := by
    rw [State.live_bell_eq, page, Page.apply_live, State.nextSyncConfig]
  have next : u.nextSyncConfig = s.nextSyncConfig := by
    unfold State.nextSyncConfig
    rw [page, Page.apply_live]
    exact storedWord_foldr_commitEntry_again syncConfig_row _ _
  have square : u.takeMaster.squareState.inSquare = u.takeMaster.inSquare :=
    inSquare_of (congrArg Fuses.grade (State.squareState_only .fuses (by decide))) (State.live_only State.squareState_only _ _ _)
  exact {
    fuses := (frame .fuses (by decide)).trans (by rw [← put]; exact State.setPage_only .fuses (by decide))
    rest := by rw [State.squareState_bell, State.takeMaster_bell, bell]
    next := (nextSyncConfig_of_bellRegs same).trans next
    live_taken := fun _ => (live_of_bellRegs same _).trans live
    live_kept := fun h => absurd trivial h
    state_taken := fun _ => by rw [square, State.squareState_bell, State.takeMaster_bell, bell]
    state_kept := fun h => absurd trivial h }

/-- The commits of a list of pages, one after the other. -/
theorem foldl_commitOne (B : Nat) (l : List (Nat × Page)) (s : State) :
    Commits (∃ q ∈ l, q.1 = pageNo .bell 0) s (l.foldl (fun s q => s.commitOne B q.1) s) := by
  induction l generalizing s with
  | nil => simpa using Commits.refl s
  | cons q l ih =>
    simp only [List.foldl_cons, List.exists_mem_cons_iff]
    refine .trans ?_ (ih _)
    by_cases h : q.1 = pageNo .bell 0
    · simpa [h] using State.commitOne_bell
    · simpa [h] using State.commitOne_other h

/-- Is a commit of the BELL page pending? -/
def State.commitsBell (s : State) : Prop := ∃ q ∈ s.pages, q.1 = pageNo .bell 0 ∧ q.2.commit = true

theorem commitsBell_of_bellRegs {s t : State} (h : bellRegs t.pages = bellRegs s.pages) : t.commitsBell ↔ s.commitsBell := by
  have pending (z : State) : z.commitsBell ↔ (bellRegs z.pages).2.2 = true := by simp [State.commitsBell, bellRegs]
  rw [pending, pending, h]

/-- What reached a page late leaves its live words. -/
theorem sgetD_map_takeLate (l : List (Nat × Page)) (n : Nat) :
    sgetD (l.map fun q => (q.1, q.2.takeLate)) n .empty = (sgetD l n .empty).takeLate := by
  induction l with
  | nil => rfl
  | cons q l ih =>
    by_cases e : q.1 = n
    · simp [sgetD, sget, e]
    · simpa [sgetD, sget, e] using ih

/-- The commits of a boundary: the bell's state follows a commit of the BELL page only, and by the SYNC_CONFIG then in force. -/
theorem State.commitPages_bell (s : State) (B : Nat) :
    let t := s.commitPages B
    t.bell = { s.bell with state := t.bell.state, masterPos := t.bell.masterPos, masterNext := t.bell.masterNext } ∧
      (¬ s.commitsBell → t.bell.state = s.bell.state) ∧ (s.commitsBell → t.bell.state = stateIn t.inSquare s.bell.state) := by
  intro t
  let pages := s.pages.filter fun (q : Nat × Page) => q.2.commit
  have run := foldl_commitOne B pages s
  have taken : (∃ q ∈ pages, q.1 = pageNo .bell 0) ↔ s.commitsBell :=
    ⟨fun ⟨q, mem, bell⟩ => ⟨q, (List.mem_filter.mp mem).1, bell, (List.mem_filter.mp mem).2⟩,
      fun ⟨q, mem, bell, commit⟩ => ⟨q, List.mem_filter.mpr ⟨mem, commit⟩, bell⟩⟩
  rw [taken] at run
  generalize done : pages.foldl (fun s q => s.commitOne B q.1) s = u at run
  have late : t = { u with
      pages := u.pages.map fun (q : Nat × Page) => (q.1, q.2.takeLate)
      bell := { u.bell with masterNext := u.bell.masterNext.map fun q => (q.1, false) } } := by rw [← done]; rfl
  have live : (t.page (pageNo .bell 0)).live = (u.page (pageNo .bell 0)).live := by
    rw [late]
    exact (congrArg Page.live (sgetD_map_takeLate u.pages (pageNo .bell 0))).trans rfl
  have square : t.inSquare = u.inSquare := inSquare_of (by rw [late]) (by rw [State.live_bell_eq, State.live_bell_eq, live])
  have state : t.bell.state = u.bell.state := by rw [late]
  refine ⟨?_, fun kept => ?_, fun commit => ?_⟩
  · rw [late]
    dsimp only
    rw [run.rest]
  · rw [state, run.state_kept kept]
  · rw [state, square, run.state_taken commit]

/-! ### The boundary -/

/-- The device at boundary `B` before the commits: k_applied, the mask, and the next round. -/
def State.roundStart (s : State) (B : Nat) : State :=
  let x := (s.advance B).applyK B
  let masked := decide (bitrev6 (B / 4096 % 64) < x.bell.kApplied)
  State.count { x with bell := { x.bell with masked := masked, nextRound := B + 4096 } } (pageNo .bell 0) 0x58 (b2n masked)

/-- What follows the commits of boundary `B`, which found the device in state `old`: the stalls, the hubs, the steps, the banks
and the charges. -/
def State.roundEnd (s old : State) (B : Nat) (masked : Bool) : State :=
  let u := (List.range 4).foldl (fun s h => s.hubBoundary B h) ((s.stallBoundaries B masked).noteQuiet old)
  ((u.resolveSteps B).rebank B).chargeReserved masked

section
variable (s old : State) (B : Nat) (masked : Bool)

theorem State.roundAt_eq : s.roundAt B = (((s.roundStart B).commitPages B).roundEnd (s.roundStart B) B
    (decide (bitrev6 (B / 4096 % 64) < ((s.advance B).applyK B).bell.kApplied))).startAcquire := rfl

theorem State.roundStart_bell : (s.roundStart B).bell = { ((s.advance B).applyK B).bell with
    masked := decide (bitrev6 (B / 4096 % 64) < ((s.advance B).applyK B).bell.kApplied), nextRound := B + 4096 } :=
  Only.bell State.count_only

theorem State.roundStart_bellRegs : bellRegs (s.roundStart B).pages = bellRegs s.pages := by
  simp [State.roundStart]

theorem State.roundEnd_only : Only [.boot, .pages, .stalls, .jobs, .hubs, .sched, .aisles, .halves, .clerk, .rings,
    .events, .ledgers, .trace, .out, .freeIx] s (s.roundEnd old B masked) := by
  have quiet := State.stallBoundaries_only.step (State.noteQuiet_only (a0 := s.stallBoundaries B masked) (a1 := old))
  have hubs := quiet.step (Only.foldl (l := List.range 4) fun _ h => State.hubBoundary_only (a1 := B) (a2 := h))
  exact (((hubs.mono (by decide)).step State.resolveSteps_only).step State.rebank_only).step State.chargeReserved_only

theorem State.roundEnd_bellRegs : bellRegs (s.roundEnd old B masked).pages = bellRegs s.pages := by
  simp [State.roundEnd, foldl_bellRegs]

theorem State.startAcquire_bell : s.startAcquire.bell
    = { s.bell with acqPending := s.startAcquire.bell.acqPending, acqRefused := s.startAcquire.bell.acqRefused } := by
  unfold State.startAcquire
  split <;> rfl

/-- What follows the commits leaves the bell but for an acquisition that starts. -/
theorem State.roundEnd_bell : (s.roundEnd old B masked).startAcquire.bell
    = { s.bell with acqPending := (s.roundEnd old B masked).startAcquire.bell.acqPending
                    acqRefused := (s.roundEnd old B masked).startAcquire.bell.acqRefused } := by
  rw [State.startAcquire_bell, Only.bell (State.roundEnd_only s old B masked)]

/-- What follows the commits puts the device in no square and takes it out of none. -/
theorem State.roundEnd_inSquare : (s.roundEnd old B masked).startAcquire.inSquare = s.inSquare :=
  inSquare_of
    (congrArg Fuses.grade ((State.startAcquire_only .fuses (by decide)).trans (State.roundEnd_only s old B masked .fuses (by decide))))
    (live_of_bellRegs ((congrArg bellRegs (State.startAcquire_pages _)).trans (State.roundEnd_bellRegs s old B masked)) _)

end

section
variable {s : State} (hc : s.clocked = true) (B : Nat)
include hc

/-- Bell time, k_applied, the mask and the next round at a boundary. -/
theorem State.roundAt_bell :
    let t := s.roundAt B
    let k := (s.advance B).nextK B
    t.bell = { s.bell with
      now := if B ≤ s.bell.now then s.bell.now else B % 2 ^ 64
      kApplied := k, masked := decide (bitrev6 (B / 4096 % 64) < k), nextRound := B + 4096
      state := t.bell.state, kSquare := t.bell.kSquare, kDown := t.bell.kDown, masterPos := t.bell.masterPos
      masterNext := t.bell.masterNext, acqPending := t.bell.acqPending, acqRefused := t.bell.acqRefused } := by
  dsimp only
  rw [State.roundAt_eq, State.roundEnd_bell, (State.commitPages_bell _ _).1, State.roundStart_bell, State.applyK_bell,
    State.advance_bell B hc]

/-- The bell's state at a boundary. -/
theorem State.roundAt_state :
    let t := s.roundAt B
    (¬ s.commitsBell → t.bell.state = s.bell.state) ∧ (s.commitsBell → t.bell.state = stateIn t.inSquare s.bell.state) := by
  obtain ⟨-, kept, taken⟩ := State.commitPages_bell (s.roundStart B) B
  have start : (s.roundStart B).bell.state = s.bell.state := by
    rw [State.roundStart_bell, State.applyK_bell, State.advance_bell B hc]
  rw [commitsBell_of_bellRegs (State.roundStart_bellRegs s B), start] at kept taken
  have state : (s.roundAt B).bell.state = ((s.roundStart B).commitPages B).bell.state := by
    rw [State.roundAt_eq, State.roundEnd_bell]
  have square : (s.roundAt B).inSquare = ((s.roundStart B).commitPages B).inSquare := by
    rw [State.roundAt_eq, State.roundEnd_inSquare]
  dsimp only
  rw [state, square]
  exact ⟨kept, taken⟩

end

/-! What k_applied becomes, by the mask scope -/

theorem State.nextK_square_sync {s : State} {B : Nat} (scope : s.squareScope = true) (sync : B % 2 ^ 20 = 0) :
    (s.advance B).nextK B = (s.advance B).squareK B := by
  unfold State.nextK
  rw [State.advance_squareScope, scope, if_pos rfl, if_pos sync]

section
variable {s : State} (hc : s.clocked = true) {B : Nat}
include hc

theorem State.nextK_local (scope : s.squareScope = false) :
    (s.advance B).nextK B = if s.bell.nextFrame = B then s.bell.kLocal else s.bell.kApplied := by
  unfold State.nextK
  rw [State.advance_squareScope, scope, if_neg Bool.false_ne_true, State.advance_bell B hc]

theorem State.nextK_square_between (scope : s.squareScope = true) (between : B % 2 ^ 20 ≠ 0) :
    (s.advance B).nextK B = s.bell.kApplied := by
  unfold State.nextK
  rw [State.advance_squareScope, scope, if_pos rfl, if_neg between, State.advance_bell B hc]

theorem State.advance_squareK_of_kDown {e k : Nat} (h : s.bell.kDown = some (e, k)) :
    (s.advance B).squareK B = if e * 2 ^ 20 ≤ B then k else s.bell.kSquare := by
  rw [State.squareK_of_kDown _ _ (by rw [State.advance_bell B hc, h]), State.advance_bell B hc]

theorem State.advance_squareK_of_none (h : s.bell.kDown = none) : (s.advance B).squareK B = s.bell.kSquare := by
  rw [State.squareK_of_none _ _ (by rw [State.advance_bell B hc, h]), State.advance_bell B hc]

end

theorem exec_roundBoundary {s : State} (hc : s.clocked = true) :
    exec .roundBoundary s = .next (s.roundAt s.bell.nextRound) := by
  refine Only.answers State.roundAt_only hc ?_
  change execRoundBoundary s = _
  unfold execRoundBoundary
  rw [if_pos hc]

/-- Settles O22: k_applied and the mask are formed before the boundary's commits, and the commits alone move the bell's state. -/
theorem roundBoundaryMasksByK : Obligations.RoundBoundaryMasksByK := by
  unfold Obligations.RoundBoundaryMasksByK
  intro s hc B commits
  have bell := State.roundAt_bell hc B
  obtain ⟨kept, taken⟩ := State.roundAt_state hc B
  have applied : (s.roundAt B).bell.kApplied = (s.advance B).nextK B := by rw [bell]
  refine ⟨s.roundAt B, exec_roundBoundary hc, ?now, ?nextRound, ?masked, fun scope => ?alone, fun scope between => ?between,
    fun scope sync => ?sync, kept, taken, ?kLocal, ?nextFrame, ?nextSync, ?nextMid, ?expected⟩
  case alone => exact applied.trans (State.nextK_local hc scope)
  case between => exact applied.trans (State.nextK_square_between hc scope between)
  case sync =>
    rw [applied, State.nextK_square_sync scope sync]
    cases announced : s.bell.kDown with
    | none => exact State.advance_squareK_of_none hc announced
    | some q =>
      obtain ⟨e, k⟩ := q
      exact State.advance_squareK_of_kDown hc announced
  case masked => rw [applied, bell]
  all_goals rw [bell]

end Sys2Proof.Machine
end

section
/-! PROOFS. The matrix array (O8): the window by which the first row of a group is promoted (R98, R102). -/

namespace Sys2Proof.Machine

/-! ### What a release leaves of a group (R98) -/

/-- A group that is empty holds no window for any job. -/
theorem ArraySt.groupOf_win_of_empty {a : ArraySt} {g : Nat} (h : a.group g = .empty) (job : Nat) :
    (a.groupOf g job).win = .empty := by
  unfold ArraySt.groupOf
  split
  · rw [h]; rfl
  · rfl

theorem ArraySt.group_release (a : ArraySt) (g job : Nat) : (a.release g job).group g = .empty := by
  change (a.setGroup g .empty).group g = .empty
  exact sgetD_sput_same FootGroup.empty a.groups g FootGroup.empty

/-- A row that used the window in force of its group finds an empty one there once the group is released. -/
theorem ArraySt.winOf_release {a : ArraySt} {r : Nat} {row : FootRow} (own : row.win = none) (job : Nat) :
    (a.release (r / 32) job).winOf r row = .empty := by
  unfold ArraySt.winOf
  rw [own]
  exact ArraySt.groupOf_win_of_empty (ArraySt.group_release a _ job) row.job

/-! ### A first row whose window is still in force -/

/-- A foot row of job 0 whose column 0 holds the short sum 1; its window is the one in force of its group. -/
def firstRow : FootRow := ⟨false, 0, false, none, ⟨1, false, 0#2, true⟩ :: List.replicate 31 ⟨0, false, 0#2, false⟩⟩

/-- Foot row 0 is that row, and the window in force of its group has its top at 1. -/
def firstRowStall : Stall :=
  { Stall.empty with array := { ArraySt.empty with
      foot := [(0, firstRow)]
      groups := [(0, ⟨⟨some 1, some 1, false, false, 1⟩, 1, 0⟩)] } }

/-- A pass of job 0 in shape F over one row, one lane and one column that has written foot row 0 and promotes it by SET to TP
slot 0. -/
def firstRowPass : PassRun :=
  ⟨⟨⟨0, 0, .bf16, false, .none, List.replicate 32 0#512, [], [], false, 0⟩, .bf16,
    ⟨.f, 0#3, 1#4, false, none, 0, 1, 1, 1, [0], 2#2, [0]⟩, 0, 1, 0⟩, 0, 0, 0, 0, false, 49, [], [], []⟩

/-- The model promotes by the window in force before the release: a sum of 1 counts 2^(1 - 20) (R94, R102). -/
theorem firstRow_promotes :
    entryAt (firstRowStall.promoteSub firstRowPass 0 0).1 ⟨.p, 0⟩ 0 0 = f32 ⟨false, 1, 1 - 20⟩ := by decide +kernel

/-- Refutes O8: its promotion clause reads the row's window in the array from which the group has just been released. For the
first row of a group the window in force is gone there (`ArraySt.winOf_release`), and the clause asks for 2^-20, where the
model promotes 2^-19. -/
theorem not_matrixWordsFillTheArray : ¬ Obligations.MatrixWordsFillTheArray := by
  unfold Obligations.MatrixWordsFillTheArray
  rintro ⟨-, -, -, -, -, -, -, promotions, -⟩
  obtain ⟨-, columns, -⟩ := promotions firstRowStall firstRowPass 0 0
  obtain ⟨-, unmasked⟩ := columns 0 (by decide)
  have asked : entryAt (firstRowStall.promoteSub firstRowPass 0 0).1 ⟨.p, 0⟩ 0 0
      = (⟨1, false, 0#2, true⟩ : FootEnt).promoted false (((firstRowStall.array.release (0 / 32) 0).winOf 0 firstRow).top 0) :=
    unmasked (by decide) (by decide)
  rw [firstRow_promotes, ArraySt.winOf_release rfl] at asked
  exact absurd asked (by decide)

end Sys2Proof.Machine
end

section
/-! PROOFS. The order of the checks at a word's due tick and what its issue takes (R34, R116, R121, R124, R187, R216, R395). -/
namespace Sys2Proof.Machine

/-! ### The checks in order (R124)

`Stall.due` in a slot that the word's job holds is a decision list. Its parts are named here from the last to the first;
`Stall.due_of_holdsSlot` ties them to the model. -/

/-- The checks of the word's class decide, and where none fails the word issues. -/
def Stall.classDecides (st : Stall) (sn k : Nat) (e : Eng) (t : Nat) (w : CWord) (ch : Option Nat) (sp : Spec) : Stall × List Eff :=
  match classChecks st k e t sp with
  | some (.waitFail cs) => st.waitFail sn k e t w.common.wait (cs ++ ch.toList)
  | some v => st.judge sn k e t w.common.wait v
  | none => st.issueWord sn k e t w sp

/-- The wait decides: one that names more slots than its ring has, one that is false, and one that is true. -/
def Stall.waitDecides (st : Stall) (sn k : Nat) (e : Eng) (t : Nat) (w : CWord) (ch : Option Nat) (sp : Spec) : Stall × List Eff :=
  let wt := w.common.wait
  if (wt.kind = 4#3 || wt.kind = 5#3) && decide ((st.ringCfg (wt.index.toNat % 16)).size < wt.value.toNat) then
    st.faultWord sn k e t (flt 0x1305 0)
  else if !st.waitTrue (st.jobRes k) wt then st.waitFail sn k e t wt (feedCtr wt.feed :: ch.toList)
  else st.classDecides sn k e t w ch sp

/-- The banks of job `j` decide (R187). -/
def Stall.banksDecide (st : Stall) (j sn k : Nat) (e : Eng) (t : Nat) (w : CWord) (ch : Option Nat) (sp : Spec) : Stall × List Eff :=
  match st.bankCheck j sp.regs with
  | some v => st.judge sn k e t w.common.wait v
  | none => st.waitDecides sn k e t w ch sp

/-- Poison to report decides first, then an object outside the job (R118, R395). -/
def Stall.checksDecide (st : Stall) (j sn k : Nat) (e : Eng) (ctx : JobCtx) (t : Nat) (w : CWord) (ch : Option Nat) (sp : Spec) :
    Stall × List Eff :=
  if (st.slotSt k).poisonDue && (w.common.wait.kind != 0#3 || w.op = .stepEnd) then
    (st.setSlot k { st.slotSt k with poisonDue := false }).faultWord sn k e t (flt 0x7103 0)
  else if st.foreign k ctx w.common || sp.ownerBad then st.faultWord sn k e t (flt 0x1304 0)
  else st.banksDecide j sn k e t w ch sp

section
variable {st : Stall} {sn k : Nat} {e : Eng} {t : Nat} {w : CWord} {ch : Option Nat} {sp : Spec}

theorem Stall.classDecides_of_waitFail {cs : List Nat} (h : classChecks st k e t sp = some (.waitFail cs)) :
    st.classDecides sn k e t w ch sp = st.waitFail sn k e t w.common.wait (cs ++ ch.toList) := by
  unfold Stall.classDecides; rw [h]

theorem Stall.classDecides_of_verdict {v : Verdict} (h : classChecks st k e t sp = some v) (other : ∀ cs, v ≠ .waitFail cs) :
    st.classDecides sn k e t w ch sp = st.judge sn k e t w.common.wait v := by
  unfold Stall.classDecides
  rw [h]
  cases v with
  | waitFail cs => exact absurd rfl (other cs)
  | slip | fault => rfl

theorem Stall.classDecides_of_pass (h : classChecks st k e t sp = none) :
    st.classDecides sn k e t w ch sp = st.issueWord sn k e t w sp := by
  unfold Stall.classDecides; rw [h]

theorem Stall.waitDecides_of_tooLong (h : waitTooLong st w.common.wait) :
    st.waitDecides sn k e t w ch sp = st.faultWord sn k e t (flt 0x1305 0) :=
  if_pos (by simpa [waitTooLong] using h)

theorem Stall.waitDecides_of_false (short : ¬ waitTooLong st w.common.wait) (h : st.waitTrue (st.jobRes k) w.common.wait = false) :
    st.waitDecides sn k e t w ch sp = st.waitFail sn k e t w.common.wait (feedCtr w.common.wait.feed :: ch.toList) :=
  (if_neg (by simpa [waitTooLong] using short)).trans (if_pos (by simp [h]))

theorem Stall.waitDecides_of_true (short : ¬ waitTooLong st w.common.wait) (h : st.waitTrue (st.jobRes k) w.common.wait = true) :
    st.waitDecides sn k e t w ch sp = st.classDecides sn k e t w ch sp :=
  (if_neg (by simpa [waitTooLong] using short)).trans (if_neg (by simp [h]))

theorem Stall.banksDecide_of_some {j : Nat} {v : Verdict} (h : st.bankCheck j sp.regs = some v) :
    st.banksDecide j sn k e t w ch sp = st.judge sn k e t w.common.wait v := by
  unfold Stall.banksDecide; rw [h]

theorem Stall.banksDecide_of_none {j : Nat} (h : st.bankCheck j sp.regs = none) :
    st.banksDecide j sn k e t w ch sp = st.waitDecides sn k e t w ch sp := by
  unfold Stall.banksDecide; rw [h]

variable {j : Nat} {ctx : JobCtx}

theorem Stall.checksDecide_of_poison (h : poisonStops st k w) : st.checksDecide j sn k e ctx t w ch sp
    = (st.setSlot k { st.slotSt k with poisonDue := false }).faultWord sn k e t (flt 0x7103 0) :=
  if_pos (by simpa [poisonStops] using h)

theorem Stall.checksDecide_of_foreign (sound : ¬ poisonStops st k w)
    (h : st.foreign k ctx w.common = true ∨ sp.ownerBad = true) :
    st.checksDecide j sn k e ctx t w ch sp = st.faultWord sn k e t (flt 0x1304 0) :=
  (if_neg (by simpa [poisonStops] using sound)).trans (if_pos (by simpa using h))

theorem Stall.checksDecide_of_own (sound : ¬ poisonStops st k w) (own : st.foreign k ctx w.common = false)
    (owner : sp.ownerBad = false) : st.checksDecide j sn k e ctx t w ch sp = st.banksDecide j sn k e t w ch sp :=
  (if_neg (by simpa [poisonStops] using sound)).trans (if_neg (by simp [own, owner]))

end

section
variable {st st' : Stall} (sn : Nat) {k : Nat} {e : Eng} (ctx : JobCtx) {t : Nat} (w : CWord) (ch : Option Nat) (sp : Spec)

theorem Stall.due_of_otherJob {j : Nat} (rota : st.rota e (t % 4096 / 64) = some j) (other : j ≠ (st.jobSlot k).job) :
    st.due sn k e ctx t w ch sp = st.faultWord sn k e t ⟨0x1302, 0, 0, 0, j⟩ := by
  unfold Stall.due; rw [rota]; exact if_neg other

theorem Stall.due_of_lostSlot {v : Nat} (rota : st.rota e (t % 4096 / 64) = none) (won : st.freeWinner e k t = (st', v))
    (lost : v ≠ k) : st.due sn k e ctx t w ch sp = (st'.slip k e [0xD8], []) := by
  unfold Stall.due; rw [rota, won]; exact if_neg lost

/-- In a slot that the word's job holds the checks decide. -/
theorem Stall.due_of_holdsSlot (held : holdsSlot st st' k e t) :
    st.due sn k e ctx t w ch sp = st'.checksDecide (st.jobSlot k).job sn k e ctx t w ch sp := by
  unfold Stall.due
  obtain ⟨rota, rfl⟩ | ⟨rota, won⟩ := held
  · rw [rota]; exact if_pos rfl
  · rw [rota, won]; exact if_pos rfl

end

/-- Settles O29: the rota decides first, and in a slot that the job holds each check does in its turn. -/
theorem theFirstFailedCheckDecides : Obligations.TheFirstFailedCheckDecides := by
  unfold Obligations.TheFirstFailedCheckDecides
  intro st st' sn k e ctx t w ch sp r wt
  refine ⟨fun j => st.due_of_otherJob sn ctx w ch sp, fun v => st.due_of_lostSlot sn ctx w ch sp, fun held => ?_⟩
  have decides : r = _ := st.due_of_holdsSlot sn ctx w ch sp held
  refine ⟨fun poison => decides.trans (Stall.checksDecide_of_poison poison), fun sound =>
    ⟨fun foreign => decides.trans (Stall.checksDecide_of_foreign sound foreign), fun own owner => ?_⟩⟩
  have banks := decides.trans (Stall.checksDecide_of_own sound own owner)
  refine ⟨fun v stop => banks.trans (Stall.banksDecide_of_some stop), fun free => ?_⟩
  have wait := banks.trans (Stall.banksDecide_of_none free)
  refine ⟨fun long => wait.trans (Stall.waitDecides_of_tooLong long), fun short =>
    ⟨fun no => wait.trans (Stall.waitDecides_of_false short no), fun yes => ?_⟩⟩
  have cls := wait.trans (Stall.waitDecides_of_true short yes)
  exact ⟨fun v stop other => cls.trans (Stall.classDecides_of_verdict stop other),
    fun cs chit => cls.trans (Stall.classDecides_of_waitFail chit), fun pass => cls.trans (Stall.classDecides_of_pass pass)⟩

/-! ### What the wait consumes and the issue takes (R113, R121, R124) -/

section
variable (st : Stall) (r : JobRes) (w : Wait)

/-- Keeping flags and tallies for the registers to show changes neither, nor anything else. -/
theorem Stall.note_frame (t : Nat) : ∃ seen, st.note t w = { st with seen := seen } := by
  unfold Stall.note
  exact holds_ite (Q := fun u : Stall => ∃ seen, u = { st with seen := seen }) ⟨_, rfl⟩ ⟨st.seen, rfl⟩

/-- A wait consumes flags and tallies alone. -/
theorem Stall.consume_frame : ∃ flags tallies, st.consume r w = { st with flags := flags, tallies := tallies } := by
  unfold Stall.consume
  split
  · exact ⟨st.flags, st.tallies, rfl⟩
  · split
    · exact ⟨_, st.tallies, rfl⟩
    · dsimp only
      split
      · exact ⟨st.flags, st.tallies, rfl⟩
      · exact ⟨st.flags, _, rfl⟩
    · exact ⟨st.flags, st.tallies, rfl⟩

variable {w}

theorem Stall.consume_of_not (h : w.consume = false) : st.consume r w = st := by
  unfold Stall.consume; simp [h]

theorem Stall.consume_flag (h : w.consume = true) (kind : w.kind = 1#3) :
    st.consume r w = st.clearFlag (r.flagBase + w.index.toNat) := by
  unfold Stall.consume; simp [h, kind]

theorem Stall.consume_tally (h : w.consume = true) (kind : w.kind = 3#3)
    (plain : st.wrapped.getLsbD (r.tallyBase + w.index.toNat) = false) :
    (st.consume r w).tally (r.tallyBase + w.index.toNat)
      = st.tally (r.tallyBase + w.index.toNat) - w.value.toNat := by
  unfold Stall.consume
  simp only [h, kind, plain]
  exact sgetD_sput_same ..

end

/-- The stall on which the class of an issued word acts: the wait has consumed, the head word has left its sub-queue and is
counted, and its occupancy `d` holds the engine. -/
def Stall.taken (st : Stall) (k : Nat) (e : Eng) (t : Nat) (w : Wait) (d : Nat) : Stall :=
  let u := (((st.note t w).consume (st.jobRes k) w).setSubq k e ((st.subq k e).issued t)).bump (wordCtr e) 1
  { u with busy := u.busy.set e ⟨max (u.busy.get e).till (t + d), k⟩ }

section
variable (st : Stall) (k : Nat) (e : Eng) (t : Nat) (w : Wait) (d : Nat)

/-- What the stall of an issued word differs in from the stall before. -/
theorem Stall.taken_frame : ∃ seen, st.taken k e t w d = { st with
    seen := seen, flags := (({ st with seen := seen } : Stall).consume (st.jobRes k) w).flags
    tallies := (({ st with seen := seen } : Stall).consume (st.jobRes k) w).tallies
    slots := (st.setSubq k e ((st.subq k e).issued t)).slots
    page := st.page.bump (wordCtr e) 1
    busy := st.busy.set e ⟨max (st.busy.get e).till (t + d), k⟩ } := by
  obtain ⟨seen, noted⟩ := st.note_frame w t
  obtain ⟨flags, tallies, consumed⟩ := ({ st with seen := seen } : Stall).consume_frame (st.jobRes k) w
  refine ⟨seen, ?_⟩
  unfold Stall.taken
  rw [noted, consumed]
  rfl

theorem Stall.taken_jobSlot : (st.taken k e t w d).jobSlot k = st.jobSlot k := by
  obtain ⟨seen, frame⟩ := st.taken_frame k e t w d
  rw [frame]; rfl

theorem Stall.taken_subq : (st.taken k e t w d).subq k e = (st.subq k e).issued t := by
  obtain ⟨seen, frame⟩ := st.taken_frame k e t w d
  rw [frame]; exact st.subq_setSubq k e _

theorem Stall.taken_busy : (st.taken k e t w d).busy.get e = ⟨max (st.busy.get e).till (t + d), k⟩ := by
  obtain ⟨seen, frame⟩ := st.taken_frame k e t w d
  rw [frame]; exact Per4.get_set ..

/-- Stores, stamps, rings, the array and the words in flight are as they were. -/
theorem Stall.taken_stores : (st.taken k e t w d).words = st.words ∧ (st.taken k e t w d).stamps = st.stamps ∧
    (st.taken k e t w d).rings = st.rings ∧ (st.taken k e t w d).array = st.array ∧
    (st.taken k e t w d).flight = st.flight := by
  obtain ⟨seen, frame⟩ := st.taken_frame k e t w d
  rw [frame]; exact ⟨rfl, rfl, rfl, rfl, rfl⟩

variable {w}

theorem Stall.taken_of_not_consume (h : w.consume = false) :
    (st.taken k e t w d).flags = st.flags ∧ (st.taken k e t w d).tallies = st.tallies := by
  obtain ⟨seen, frame⟩ := st.taken_frame k e t w d
  rw [frame, Stall.consume_of_not _ _ h]; exact ⟨rfl, rfl⟩

theorem Stall.taken_flags (h : w.consume = true) (kind : w.kind = 1#3) :
    (st.taken k e t w d).flags = (st.clearFlag ((st.jobRes k).flagBase + w.index.toNat)).flags := by
  obtain ⟨seen, frame⟩ := st.taken_frame k e t w d
  rw [frame, Stall.consume_flag _ _ h kind]; rfl

theorem Stall.taken_tally (h : w.consume = true) (kind : w.kind = 3#3)
    (plain : st.wrapped.getLsbD ((st.jobRes k).tallyBase + w.index.toNat) = false) :
    (st.taken k e t w d).tally ((st.jobRes k).tallyBase + w.index.toNat)
      = st.tally ((st.jobRes k).tallyBase + w.index.toNat) - w.value.toNat := by
  obtain ⟨seen, frame⟩ := st.taken_frame k e t w d
  rw [frame]
  exact Stall.consume_tally { st with seen := seen } _ h kind plain

end

theorem Stall.issueWord_eq (st : Stall) (sn k : Nat) (e : Eng) (t : Nat) (w : CWord) (sp : Spec) :
    st.issueWord sn k e t w sp = ((sp.run (st.taken k e t w.common.wait sp.d)).1,
      .issued t sn e.num (st.jobSlot k).job (st.subq k e).pc sp.d :: (sp.run (st.taken k e t w.common.wait sp.d)).2) := by
  rw [← st.taken_jobSlot k e t w.common.wait sp.d]; rfl

/-- Settles O31: the class acts on `Stall.taken`, whose parts are what the statement lists. -/
theorem issueTakesTheWord : Obligations.IssueTakesTheWord := by
  unfold Obligations.IssueTakesTheWord
  intro st sn k e t w sp q r
  obtain ⟨words, stamps, rings, array, flight⟩ := st.taken_stores k e t w.common.wait sp.d
  exact ⟨st.taken k e t w.common.wait sp.d, st.issueWord_eq sn k e t w sp, st.taken_subq k e t _ _, rfl, rfl, rfl, rfl,
    st.taken_busy k e t _ _, words, stamps, rings, array, flight, st.taken_of_not_consume k e t _, st.taken_flags k e t _,
    st.taken_tally k e t _⟩

end Sys2Proof.Machine
end

section
/-! PROOFS. The go of a step on a stall (R129, R220). -/
namespace Sys2Proof.Machine

/-- What a go that is accepted leaves of its slot: a new step, with both running values of the stream check at all ones (R220)
and the words that the fetchers have filled it with (R446). -/
theorem Stall.slotSt_go (st : Stall) {t k start : Nat} (n : Nat) (h : st.goRefused t k start = false) :
    (st.go t k start n).slotSt k = { SlotSt.empty with
      running := true, draining := (st.slotSt k).draining, step := n, feed := (st.slotSt k).feed
      q := ⟨(st.slotSt k).q.mx.begun start, (st.slotSt k).q.vx.begun start, (st.slotSt k).q.pt.begun start,
        (st.slotSt k).q.ex.begun start⟩ } := by
  unfold Stall.go
  simp only [h, Bool.false_eq_true, if_false, Stall.slotSt_setSlot]

/-- A stall whose slot 0 is job 0's and has run nothing. -/
def idleSlotStall : Stall := { Stall.empty with page := { Page.empty with live := [(0x400, 0x40#32)] } }

/-- Refutes O33: the statement asks for running values of 0 after a go that is accepted, where R220 and the model set both to
0xFFFF_FFFF, as the go of `idleSlotStall` for tick 4,096 shows. -/
theorem not_stepsAreStarted : ¬ Obligations.StepsAreStarted := by
  unfold Obligations.StepsAreStarted
  rintro ⟨-, goes⟩
  obtain ⟨-, accepted⟩ := goes idleSlotStall 0 0 4096 0
  obtain ⟨-, -, -, -, -, -, asked, -⟩ := accepted (by decide)
  have sets : ((idleSlotStall.go 0 0 4096 0).slotSt 0).sendRv = 0xFFFFFFFF#32 := by
    rw [idleSlotStall.slotSt_go 0 (by decide)]; rfl
  rw [sets] at asked
  exact absurd asked (by decide)

end Sys2Proof.Machine
end

section
/-! PROOFS. Control words from their stream's chunks to their completion, and the abort of a step (R109, R111, R116, R124, R129,
R130, R134, R446). -/
namespace Sys2Proof.Machine

/-! ### Writes of STEP_CTRL (R129, R130, R134) -/

/-- Page types whose pages all lie below a page number are passed over in the search for it. -/
theorem findPage_append {l : List PageTy} {n : Nat} (below : ∀ p ∈ l, p.span.1 + p.span.2 ≤ n) (r : List PageTy) :
    findPage (l ++ r) n = findPage r n := by
  induction l with
  | nil => rfl
  | cons p l ih =>
    have here := below p (by simp)
    rw [List.cons_append, findPage, if_neg (by simp; omega), ih fun q hq => below q (by simp [hq])]

theorem pageOf_stall {sn o : Nat} (h : sn < 1536) (k : o < 0x1000) : pageOf (regAddr .stall sn o) = some (.stall, sn) := by
  have below : ∀ p ∈ allPageTys.dropLast, p.span.1 + p.span.2 ≤ 0x1000 := by decide
  have number : regAddr .stall sn o / 0x1000 = 0x1000 + sn := by
    change ((0x1000 + sn) * 0x1000 + o) / 0x1000 = 0x1000 + sn
    omega
  unfold pageOf
  rw [number, show allPageTys = allPageTys.dropLast ++ [.stall] from rfl, findPage_append fun p hp => (below p hp).trans (by omega)]
  simp [findPage, PageTy.span, show 4096 + sn < 5632 by omega]

/-- A Clerk's write of STEP_CTRL on a present stall, once the device has left CLOSED, is taken. -/
theorem State.writeReg_stepCtrl {s : State} {sn agent : Nat} (t : Nat) (v : W32) (dev : s.boot.dev ≠ 0) (clerk : agent < 4)
    (present : s.stallPresent sn = true) : s.writeReg t agent (regAddr .stall sn 0x588) v = s.writeStepCtrl t sn v := by
  have low : sn < 1536 := by
    unfold State.stallPresent at present
    simp only [Bool.and_eq_true, decide_eq_true_eq] at present
    exact present.1
  have offset : regAddr .stall sn 0x588 % 0x1000 = 0x588 := by unfold regAddr; omega
  have may : s.mayWrite agent .stall sn 0x588 = true := by
    unfold State.mayWrite
    simp [dev, companionRegister, clerk]
  rw [State.writeReg_accepted t v (pageOf_stall low (by decide)) present (by rw [offset]; exact may), offset]
  rfl

/-- Setting the bits of a mask sets them and keeps the others. -/
theorem getLsbD_or_of_set (v : W32) {m : W32} {i : Nat} (h : m.getLsbD i = true) : (v ||| m).getLsbD i = true := by
  rw [BitVec.getLsbD_or, h, Bool.or_true]

theorem getLsbD_or_of_clear (v : W32) {m : W32} {i : Nat} (h : m.getLsbD i = false) :
    (v ||| m).getLsbD i = v.getLsbD i := by
  rw [BitVec.getLsbD_or, h, Bool.or_false]

/-- The slot that a word of STEP_CTRL names stands apart from its go and abort bits. -/
theorem bits_or_slot (v m : W32) (h : m.toNat % 8 = 0) : bits (v ||| m).toNat 2 0 = bits v.toNat 2 0 := by
  unfold bits
  rw [Nat.shiftRight_zero, Nat.shiftRight_zero, BitVec.toNat_or, Nat.or_mod_two_pow]
  simp [h]

section
variable (s : State) (t sn : Nat) {v : W32}

/-- Go and abort together are ignored. -/
theorem State.writeStepCtrl_both (go : v.getLsbD 8 = true) (abort : v.getLsbD 9 = true) :
    s.writeStepCtrl t sn v = s.touch t sn := by
  unfold State.writeStepCtrl State.touch
  simp only [go, abort, Bool.and_self, if_true]

theorem State.writeStepCtrl_abort (go : v.getLsbD 8 = false) (abort : v.getLsbD 9 = true) :
    s.writeStepCtrl t sn v = s.onStall t sn fun st => (st.abort (bits v.toNat 2 0), []) := by
  unfold State.writeStepCtrl
  simp only [go, abort, Bool.false_and, Bool.false_eq_true, if_false, if_true]

end

section
variable {s : State} {sn : Nat} (t : Nat) (v : W32) (hc : s.clocked = true) (dev : s.boot.dev ≠ 0) (clerk : s.primary < 4)
  (present : s.stallPresent sn = true)
include hc dev clerk present

/-- Either command of STEP_CTRL writes its word, with its own bit set. -/
theorem exec_stepCtrl {c : Instr} {m : W32}
    (h : c = .stepCtrlGo t sn v ∧ m = 0x100#32 ∨ c = .stepCtrlAbort t sn v ∧ m = 0x200#32) :
    exec c s = .next ((s.advance t).writeStepCtrl t sn (v ||| m)) := by
  have primary : (s.advance t).primary = s.primary := by unfold State.primary; rw [State.advance_clerk]
  have there : (s.advance t).stallPresent sn = true := by
    unfold State.stallPresent State.rows at present ⊢; rwa [State.advance_fuses]
  have taken := State.writeReg_stepCtrl (s := s.advance t) t (v ||| m) (by simpa using dev) (primary ▸ clerk) there
  refine State.writeStepCtrl_only.answers (by simpa using hc) ?_
  rw [← taken]
  rcases h with ⟨rfl, rfl⟩ | ⟨rfl, rfl⟩ <;> rfl

theorem exec_stepCtrlAbort (h : v.getLsbD 8 = false) : exec (.stepCtrlAbort t sn v) s
    = .next ((s.advance t).onStall t sn fun st => (st.abort (bits v.toNat 2 0), [])) := by
  rw [exec_stepCtrl t v hc dev clerk present (.inr ⟨rfl, rfl⟩),
    State.writeStepCtrl_abort _ t sn ((getLsbD_or_of_clear v rfl).trans h) (getLsbD_or_of_set v rfl),
    bits_or_slot v _ rfl]

theorem exec_stepCtrlGo_withAbort (h : v.getLsbD 9 = true) :
    exec (.stepCtrlGo t sn v) s = .next ((s.advance t).touch t sn) := by
  rw [exec_stepCtrl t v hc dev clerk present (.inl ⟨rfl, rfl⟩),
    State.writeStepCtrl_both _ t sn (getLsbD_or_of_set v rfl) ((getLsbD_or_of_clear v rfl).trans h)]

theorem exec_stepCtrlAbort_withGo (h : v.getLsbD 8 = true) :
    exec (.stepCtrlAbort t sn v) s = .next ((s.advance t).touch t sn) := by
  rw [exec_stepCtrl t v hc dev clerk present (.inr ⟨rfl, rfl⟩),
    State.writeStepCtrl_both _ t sn ((getLsbD_or_of_clear v rfl).trans h) (getLsbD_or_of_set v rfl)]

end

/-! ### The abort and the end of a step on a stall (R130) -/

section
variable {st : Stall} {k : Nat}

theorem Stall.abortNow_of_none (h : (st.slotSt k).abortReq = false) : st.abortNow k = st := by
  unfold Stall.abortNow; simp [h]

/-- At the boundary an abort discards the slot's words and what its fetchers hold. -/
theorem Stall.abortNow_of_request (h : (st.slotSt k).abortReq = true) :
    let u := (st.abortNow k).slotSt k
    u.running = false ∧ u.draining = st.opsOpen k ∧ u.abortReq = false ∧ ∀ e : Eng, (u.q.get e).words = [] ∧ u.feed.get e = [] := by
  unfold Stall.abortNow
  simp only [h, Bool.not_true, Bool.false_eq_true, if_false, Stall.slotSt_setSlot, true_and]
  intro e
  cases e <;> exact ⟨rfl, rfl⟩

theorem Stall.drainEnd_of_open (h : st.opsOpen k = true) : st.drainEnd k = st := by
  unfold Stall.drainEnd; simp [h]

theorem Stall.drainEnd_of_draining (h : st.opsOpen k = false) (d : (st.slotSt k).draining = true) :
    (st.drainEnd k).slotSt k = { st.slotSt k with draining := false } := by
  unfold Stall.drainEnd
  simp only [h, d, Bool.false_eq_true, if_false, if_true, Stall.slotSt_setSlot]

theorem Stall.drainEnd_of_ended (h : st.opsOpen k = false) (d : (st.slotSt k).draining = false) (r : (st.slotSt k).running = true)
    (ended : ((st.slotSt k).q.mx.ended && (st.slotSt k).q.vx.ended && (st.slotSt k).q.pt.ended && (st.slotSt k).q.ex.ended) = true) :
    (st.drainEnd k).slotSt k = { st.slotSt k with running := false } := by
  unfold Stall.drainEnd
  simp only [h, d, r, Bool.true_and, ended, Bool.false_eq_true, if_false, if_true, Stall.slotSt_setSlot]

end

theorem exec_stepDrainEnd {s : State} (t sn k : Nat) (hc : s.clocked = true) : exec (.stepDrainEnd t sn k) s
    = .next (((s.advance t).onStall t sn fun st => (st.drainEnd k, [])).noteQuiet (s.advance t)) :=
  Only.answers (s := s.advance t) (State.onStall_only.step State.noteQuiet_only) (by simpa using hc) rfl

/-! ### A chunk of a stream arrives (R446) -/

section
variable {s : State} {t sn k : Nat} {e : Eng} (raw : List Byte) (ws : List CWord) {jb : Job} (hc : s.clocked = true)
  (job : (s.advance t).job (((s.advance t).stall sn).jobSlot k).job = some jb)
include hc job

theorem exec_streamChunkArrival_idle (none : sget jb.fetched (sn * 4 + e.num) = none) :
    exec (.streamChunkArrival t sn k e raw ws) s = .next (s.advance t) := by
  refine Only.answers (.refl (w := []) (s.advance t)) (by simpa using hc) ?_
  change execStreamChunkArrival t sn k e raw ws s = _
  unfold execStreamChunkArrival
  simp only [job, none]

variable {f : Fetch} (fetch : sget jb.fetched (sn * 4 + e.num) = some f)
include fetch

theorem exec_streamChunkArrival_unasked (asked : f.asked = false) :
    exec (.streamChunkArrival t sn k e raw ws) s = .next (s.advance t) := by
  refine Only.answers (.refl (w := []) (s.advance t)) (by simpa using hc) ?_
  change execStreamChunkArrival t sn k e raw ws s = _
  unfold execStreamChunkArrival
  simp only [job, fetch, asked, Bool.not_false, if_true]

variable (asked : f.asked = true)
include asked

theorem exec_streamChunkArrival_delivers (ok : chunkOk (f.bytes ((jb.streamAt sn e.num).getD 0) raw) = true) :
    let a := s.advance t
    let base := (jb.streamAt sn e.num).getD 0
    let u := (if a.caches jb then a.fillLines base f.chunk (f.bytes base raw) else a).setJob (((a.stall sn).jobSlot k).job)
      (jb.chunkDone (sn * 4 + e.num) f ((uptoEnd ws).any fun w => w.op = .stepEnd))
    exec (.streamChunkArrival t sn k e raw ws) s = .next ((u.onStall t sn fun st =>
      (st.takeChunk k e (jb.delivers sn f.step) (uptoEnd ws), [])).refill t sn k e) := by
  intro a base u
  have filled : Only [.jobs, .rings] a u := Only.step
    (holds_ite (Q := Only _ a) (State.fillLines_only.mono (by decide)) (.refl a)) State.setJob_only
  refine Only.answers (((filled.mono (by decide)).trans State.onStall_only).trans State.refill_only)
    (by simpa [a] using hc) ?_
  change execStreamChunkArrival t sn k e raw ws s = _
  unfold execStreamChunkArrival
  simp only [job, fetch, asked, ok, Bool.not_true, Bool.false_eq_true, if_false]
  rfl

theorem exec_streamChunkArrival_fetchesAgain (ok : chunkOk (f.bytes ((jb.streamAt sn e.num).getD 0) raw) = false)
    (failed : f.failed = false) : exec (.streamChunkArrival t sn k e raw ws) s
      = .next ((s.advance t).fetchAgain (((s.advance t).stall sn).jobSlot k).job sn e.num f) := by
  refine State.fetchAgain_only.answers (by simpa using hc) ?_
  change execStreamChunkArrival t sn k e raw ws s = _
  unfold execStreamChunkArrival
  simp only [job, fetch, asked, ok, failed, Bool.not_true, Bool.not_false, Bool.false_eq_true, if_false, if_true]

theorem exec_streamChunkArrival_raises (ok : chunkOk (f.bytes ((jb.streamAt sn e.num).getD 0) raw) = false)
    (failed : f.failed = true) :
    let a := s.advance t
    let j := ((a.stall sn).jobSlot k).job
    exec (.streamChunkArrival t sn k e raw ws) s
      = .next (a.raise ⟨0x6205, 2, some j, pageId .stall sn, (a.stall sn).stepOf j, t, BitVec.ofNat 64 (sn + 2 ^ 16 * e.num)⟩) := by
  refine State.raise_only.answers (by simpa using hc) ?_
  change execStreamChunkArrival t sn k e raw ws s = _
  unfold execStreamChunkArrival
  simp only [job, fetch, asked, ok, failed, Bool.not_true, Bool.not_false, Bool.false_eq_true, if_false, if_true]

end

/-! ### The arrival of a word (R111, R124) -/

/-- A word that may not arrive stops its sub-queue, with a fault record and an event of code `c`. -/
def Stall.refuseWord (st : Stall) (sn t k : Nat) (e : Eng) (w : CWord) (c aux : Nat) : Stall × List Eff :=
  let q := st.subq k e
  let job := (st.jobSlot k).job
  ((st.record ⟨true, c, e.num, job, 0, 0, q.base + w.common.offset.toNat, t, q.next, BitVec.ofNat 32 aux⟩).setSubq k e
    { q with stopped := true }, [.ev (st.ev sn t c 2 job q.next)])

/-- The word's offset does not rise above the last that arrived. -/
def SubQ.outOfOrder (q : SubQ) (w : CWord) : Bool :=
  match q.lastOff with | some l => decide (w.common.offset.toNat ≤ l) | none => false

/-- The word holds a reserved encoding or is for another engine. -/
def malformed (w : CWord) (e : Eng) : Bool :=
  Common.reserved w.common || (match w.op.engine with | some x => x != e | none => false)

/-- The word belongs to the step that runs and comes after its due tick. -/
def Stall.lateWord (st : Stall) (t k : Nat) (e : Eng) (w : CWord) : Bool :=
  (st.slotSt k).running && (st.subq k e).current && decide ((st.subq k e).base + w.common.offset.toNat < t)

/-- What an arriving word meets, in order. -/
theorem Stall.arrive_eq (st : Stall) (sn t k : Nat) (e : Eng) (w : CWord) : st.arrive sn t k e w =
    if (st.subq k e).stopped then (st, [])
    else if (st.subq k e).outOfOrder w then st.refuseWord sn t k e w 0x1303 0
    else if malformed w e then st.refuseWord sn t k e w 0x1305 0
    else if st.lateWord t k e w then
      st.refuseWord sn t k e w 0x1302 (st.rotaEntry e (((st.subq k e).base + w.common.offset.toNat) % 4096 / 64))
    else (st.setSubq k e ((st.subq k e).put w), []) := rfl

theorem SubQ.outOfOrder_of_le {q : SubQ} {w : CWord} {l : Nat} (h : q.lastOff = some l) (k : w.common.offset.toNat ≤ l) :
    q.outOfOrder w = true := by
  unfold SubQ.outOfOrder; rw [h]; exact decide_eq_true k

theorem SubQ.outOfOrder_of_lt {q : SubQ} {w : CWord} (h : ∀ l, q.lastOff = some l → l < w.common.offset.toNat) :
    q.outOfOrder w = false := by
  unfold SubQ.outOfOrder
  split
  · exact decide_eq_false (Nat.not_le.2 (h _ ‹_›))
  · rfl

theorem malformed_iff {w : CWord} {e : Eng} :
    malformed w e = true ↔ Common.reserved w.common = true ∨ ∃ x, w.op.engine = some x ∧ x ≠ e := by
  unfold malformed
  cases w.op.engine <;> simp

theorem Stall.lateWord_iff {st : Stall} {t k : Nat} {e : Eng} {w : CWord} : st.lateWord t k e w = true ↔
    (st.slotSt k).running = true ∧ (st.subq k e).current = true ∧ (st.subq k e).base + w.common.offset.toNat < t := by
  simp [Stall.lateWord, and_assoc]

section
variable (st : Stall) (sn t k : Nat) (e : Eng) (w : CWord)

theorem Stall.refuseWord_subq (c aux : Nat) :
    (st.refuseWord sn t k e w c aux).1.subq k e = { st.subq k e with stopped := true } := Stall.subq_setSubq ..

/-- What an arrival can do to the words of its sub-queue: nothing, or the word joins them. -/
theorem Stall.arrive_words : ((st.arrive sn t k e w).1.subq k e).words = (st.subq k e).words ∨
    ((st.arrive sn t k e w).1.subq k e).words = (st.subq k e).words ++ [w] := by
  have refused : ∀ c aux, ((st.refuseWord sn t k e w c aux).1.subq k e).words = (st.subq k e).words := fun c aux => by
    rw [Stall.refuseWord_subq]
  rw [Stall.arrive_eq]
  split
  · exact .inl rfl
  · split
    · exact .inl (refused ..)
    · split
      · exact .inl (refused ..)
      · split
        · exact .inl (refused ..)
        · rw [Stall.subq_setSubq]; exact .inr rfl

variable {st k e w} (going : (st.subq k e).stopped = false)
include going

theorem Stall.arrive_outOfOrder (h : (st.subq k e).outOfOrder w = true) :
    st.arrive sn t k e w = st.refuseWord sn t k e w 0x1303 0 := by
  rw [Stall.arrive_eq, if_neg (by simp [going]), if_pos h]

variable (rising : (st.subq k e).outOfOrder w = false)
include rising

theorem Stall.arrive_malformed (h : malformed w e = true) : st.arrive sn t k e w = st.refuseWord sn t k e w 0x1305 0 := by
  rw [Stall.arrive_eq, if_neg (by simp [going]), if_neg (by simp [rising]), if_pos h]

variable (formed : malformed w e = false) {t}
include formed

theorem Stall.arrive_late (h : st.lateWord t k e w = true) : st.arrive sn t k e w
    = st.refuseWord sn t k e w 0x1302 (st.rotaEntry e (((st.subq k e).base + w.common.offset.toNat) % 4096 / 64)) := by
  rw [Stall.arrive_eq, if_neg (by simp [going]), if_neg (by simp [rising]), if_neg (by simp [formed]), if_pos h]

theorem Stall.arrive_joins (h : st.lateWord t k e w = false) :
    st.arrive sn t k e w = (st.setSubq k e ((st.subq k e).put w), []) := by
  rw [Stall.arrive_eq, if_neg (by simp [going]), if_neg (by simp [rising]), if_neg (by simp [formed]), if_neg (by simp [h])]

end

section
variable (q : SubQ) {w : CWord}

/-- The next word of the step takes the next ordinal and a later offset. -/
theorem SubQ.put_next (h : w.op ≠ .stepEnd) :
    (q.put w).next = q.next + 1 ∧ (q.put w).lastOff = some w.common.offset.toNat := by
  unfold SubQ.put; simp [h]

/-- Behind a STEP_END the next step's stream begins. -/
theorem SubQ.put_stepEnd (h : w.op = .stepEnd) : (q.put w).next = 0 ∧ (q.put w).lastOff = none := by
  unfold SubQ.put; simp [h]

end

/-! ### The fetcher fills a sub-queue (R109, R446) -/

theorem Per4.set_get {α : Type} (p : Per4 α) (e : Eng) : p.set e (p.get e) = p := by cases e <;> rfl

section
variable (st : Stall) (sn t k : Nat) (e : Eng)

theorem Stall.slotSt_setFeed (l : List (Option CWord)) :
    (st.setFeed k e l).slotSt k = { st.slotSt k with feed := (st.slotSt k).feed.set e l } := Stall.slotSt_setSlot ..

theorem Stall.subq_setFeed (l : List (Option CWord)) : (st.setFeed k e l).subq k e = st.subq k e := by
  unfold Stall.subq; rw [Stall.slotSt_setFeed]

theorem Stall.passOver_words : ((st.passOver k e).subq k e).words = (st.subq k e).words := by
  unfold Stall.passOver; rw [Stall.subq_setSubq]

/-- A sub-queue is filled to its 64 words and no further. -/
theorem Stall.fillFrom_words (l : List (Option CWord)) (h : (st.subq k e).words.length ≤ 64) :
    ((Stall.fillFrom sn t k e l st).1.subq k e).words.length ≤ 64 := by
  induction l generalizing st with
  | nil => unfold Stall.fillFrom; rwa [Stall.subq_setFeed]
  | cons o l ih =>
    cases o with
    | none => exact ih _ (by rwa [Stall.passOver_words])
    | some w =>
      unfold Stall.fillFrom
      split
      · rwa [Stall.subq_setFeed]
      case isFalse room =>
        refine ih _ ?_
        obtain same | joined := st.arrive_words sn t k e w
        · rwa [same]
        · rw [joined, List.length_append, List.length_singleton]; omega

variable {st k e} in
theorem Stall.fill_of_nothing (h : (st.slotSt k).feed.get e = []) :
    (st.fill sn t k e).1.slotSt k = st.slotSt k ∧ (st.fill sn t k e).2 = [] := by
  have same : (st.slotSt k).feed.set e [] = (st.slotSt k).feed := by rw [← h, Per4.set_get]
  unfold Stall.fill
  rw [h]
  exact ⟨(st.slotSt_setFeed k e []).trans (by rw [same]), rfl⟩

end

/-! ### The completion of a word (R116) -/

theorem exec_wordCompletion_none {s : State} {sn : Nat} {e : Eng} (hc : s.clocked = true) (h : (s.stall sn).nextDone e = none) :
    exec (.wordCompletion sn e) s = .next s := by
  refine Only.answers (.refl (w := []) s) hc ?_
  change execWordCompletion sn e s = _
  unfold execWordCompletion
  rw [h]

theorem exec_wordCompletion_some {s : State} {sn : Nat} {e : Eng} {f : Flight} (hc : s.clocked = true)
    (h : (s.stall sn).nextDone e = some f) : exec (.wordCompletion sn e) s
      = .next ((s.advance f.tick).onStall f.tick sn fun st => st.wordDone sn ((s.advance f.tick).ctx sn f.slot) f) := by
  refine Only.answers (w := [.boot, .time, .pages, .stalls, .jobs, .hubs, .aisles, .halves, .clerk, .rings, .events, .ledgers,
    .trace, .out, .freeIx]) ((Only.refl s).step State.advance_only |>.step State.onStall_only) hc ?_
  change execWordCompletion sn e s = _
  unfold execWordCompletion
  rw [h]

section
variable (st : Stall)

@[simp] theorem Stall.laters_flight (t : Nat) (l : List Act) : (st.laters t l).flight = st.flight :=
  holds_foldl (Q := fun u : Stall => u.flight = st.flight) rfl fun _ _ h => h

@[simp] theorem Stall.record_flight (f : FaultRec) : (st.record f).flight = st.flight := by
  unfold Stall.record; split <;> rfl

@[simp] theorem Stall.complete_flight (sn k step c due pc : Nat) (e : Eng) (ctx : JobCtx) (w : Common) :
    (st.complete sn k step c due pc e ctx w).1.flight = st.flight := by
  unfold Stall.complete
  dsimp only
  split
  · split
    · exact Stall.laters_flight ..
    · exact Stall.laters_flight ..
  · exact Stall.laters_flight ..

/-- A word that completes leaves the flight, and no other does. -/
theorem Stall.wordDone_flight (sn : Nat) (ctx : JobCtx) (f : Flight) : (st.wordDone sn ctx f).1.flight = st.flight.erase f := by
  unfold Stall.wordDone
  extract_lets c job landed advanced pl sp r
  split
  · rfl
  · have found : sp.1.flight = advanced.flight := by
      unfold sp
      split
      · exact Stall.record_flight ..
      · rfl
    calc r.1.flight = sp.1.flight := Stall.complete_flight ..
      _ = advanced.flight := found
      _ = st.flight.erase f := Stall.laters_flight ..

end

/-- Settles O34: the commands by their `exec_` lemmas, and what each does to a stall by the lemmas of its operation. -/
theorem wordsArriveAndComplete : Obligations.WordsArriveAndComplete := by
  unfold Obligations.WordsArriveAndComplete
  refine ⟨?stepCtrl, ?abort, ?chunk, ?fill, ?arrival, ?completion, fun st => st.wordDone_flight,
    fun s t sn k => exec_stepDrainEnd t sn k, fun st k => ⟨Stall.drainEnd_of_open, Stall.drainEnd_of_draining, Stall.drainEnd_of_ended⟩⟩
  case stepCtrl =>
    intro s t sn v hc dev clerk present a
    exact ⟨exec_stepCtrlAbort t v hc dev clerk present, exec_stepCtrlGo_withAbort t v hc dev clerk present,
      exec_stepCtrlAbort_withGo t v hc dev clerk present⟩
  case abort =>
    intro st k
    exact ⟨Stall.slotSt_setSlot .., Stall.abortNow_of_none, Stall.abortNow_of_request⟩
  case chunk =>
    intro s t sn k e raw ws jb hc a j key job
    refine ⟨exec_streamChunkArrival_idle raw ws hc job, fun f fetch => ?_⟩
    exact ⟨exec_streamChunkArrival_unasked raw ws hc job fetch, exec_streamChunkArrival_delivers raw ws hc job fetch,
      exec_streamChunkArrival_fetchesAgain raw ws hc job fetch, exec_streamChunkArrival_raises raw ws hc job fetch⟩
  case fill =>
    intro st sn t k e go ws
    exact ⟨Stall.slotSt_setFeed .., st.fillFrom_words sn t k e _, Stall.fill_of_nothing sn t⟩
  case arrival =>
    intro st sn t k e w q off stops late going
    have refuses : ∀ c aux, st.arrive sn t k e w = st.refuseWord sn t k e w c aux → stops c := fun c aux h => by
      simp only [stops, h]
      exact ⟨st.refuseWord_subq sn t k e w c aux, rfl⟩
    refine ⟨fun l last low => refuses _ _ (Stall.arrive_outOfOrder sn t going (SubQ.outOfOrder_of_le last low)), fun above => ?_⟩
    have rising : q.outOfOrder w = false := SubQ.outOfOrder_of_lt above
    refine ⟨fun bad => refuses _ _ (Stall.arrive_malformed sn t going rising (malformed_iff.2 bad)), fun plain own => ?_⟩
    have formed : malformed w e = false := Bool.eq_false_iff.2 fun bad => by
      obtain reserved | ⟨x, engine, other⟩ := malformed_iff.1 bad
      · rw [plain] at reserved; cases reserved
      · exact other (own x engine)
    refine ⟨fun h => refuses _ _ (Stall.arrive_late sn going rising formed (Stall.lateWord_iff.2 h)), fun h => ?_⟩
    have joins := Stall.arrive_joins sn going rising formed (Bool.eq_false_iff.2 fun l => h (Stall.lateWord_iff.1 l))
    rw [joins]
    exact ⟨Stall.subq_setSubq .., rfl, rfl, rfl, q.put_next, q.put_stepEnd⟩
  case completion =>
    intro s sn e hc
    exact ⟨exec_wordCompletion_none hc, fun f => exec_wordCompletion_some hc⟩

end Sys2Proof.Machine
end

section
/-! PROOFS. Writes of RING_PTRn by the primary Clerk (R194). -/
namespace Sys2Proof.Machine

/-- A Clerk's write of a register of a present stall, once the device has left CLOSED, is taken. -/
theorem State.writeReg_stall {s : State} {sn agent o : Nat} (t : Nat) (v : W32) (dev : s.boot.dev ≠ 0) (clerk : agent < 4)
    (present : s.stallPresent sn = true) (h : o < 0x1000) :
    s.writeReg t agent (regAddr .stall sn o) v = s.applyWrite t .stall sn o v := by
  have low : sn < 1536 := by
    unfold State.stallPresent at present
    simp only [Bool.and_eq_true, decide_eq_true_eq] at present
    exact present.1
  have offset : regAddr .stall sn o % 0x1000 = o := by unfold regAddr; omega
  have may : s.mayWrite agent .stall sn o = true := by
    unfold State.mayWrite
    simp [dev, companionRegister, clerk]
  rw [State.writeReg_accepted t v (pageOf_stall low h) present (offset.symm ▸ may), offset]

/-- A write of RING_PTRn acts on the stall and is not stored. -/
theorem State.applyWrite_ringPtr (s : State) (t sn : Nat) {r : Nat} (v : W32) (h : r < 16) :
    s.applyWrite t .stall sn (0x5B0 + 4 * r) v = s.onStall t sn fun st => (st.writeRingPtr r v, []) := by
  have ring : (0x5B0 + 4 * r - 0x5B0) / 4 = r := by omega
  have acts : (0x5B0 + 4 * r = 0x100 || 0x5B0 + 4 * r = 0x110 || 0x5B0 + 4 * r = 0x588
      || (decide (0x5B0 ≤ 0x5B0 + 4 * r) && decide (0x5B0 + 4 * r < 0x5F0)) || 0x5B0 + 4 * r = 0x680) = true := by
    simp; omega
  calc s.applyWrite t .stall sn (0x5B0 + 4 * r) v
      = s.writeBlockReg t .stall sn (0x5B0 + 4 * r) v := by
        unfold State.applyWrite; rw [if_neg (by omega), if_neg (by omega)]
    _ = s.writeStall t sn (0x5B0 + 4 * r) v := if_pos acts
    _ = s.onStall t sn fun st => (st.writeRingPtr r v, []) := by
        unfold State.writeStall
        rw [if_neg (by omega), if_neg (by omega), if_neg (by omega), if_pos (by simp; omega), ring]

/-- Settles O37: the write reaches the stall as a register write of the Clerk, and `Stall.writeRingPtr` is what it does there. -/
theorem ringPointersAreWritten : Obligations.RingPointersAreWritten := by
  unfold Obligations.RingPointersAreWritten
  intro s t sn r v hc dev clerk present h
  have primary : (s.advance t).primary = s.primary := by unfold State.primary; rw [State.advance_clerk]
  have there : (s.advance t).stallPresent sn = true := by
    unfold State.stallPresent State.rows at present ⊢; rwa [State.advance_fuses]
  have taken : (s.advance t).writeReg t (s.advance t).primary (regAddr .stall sn (0x5B0 + 4 * r)) v
      = (s.advance t).onStall t sn fun st => (st.writeRingPtr r v, []) :=
    (State.writeReg_stall t v (by simpa using dev) (primary ▸ clerk) there (by omega)).trans
      (State.applyWrite_ringPtr _ t sn v h)
  refine State.onStall_only.answers (s := s.advance t) (by simpa using hc) ?_
  exact congrArg (fun x => Host.Outcome.next ((s.advance t).on x)) taken

end Sys2Proof.Machine
end

section
/-! PROOFS. Blocks that PUTs write, and the ends of transfers that do not finish (R186, R248, R254, R257, R259, R407). -/
namespace Sys2Proof.Machine

/-! ### What a block's write leaves of memory (R246, R249, R311) -/

@[simp] theorem length_leBytes (n x : Nat) : (leBytes n x).length = n := by
  induction n generalizing x with
  | zero => rfl
  | succ n ih => rw [leBytes, List.length_cons, ih]

@[simp] theorem length_lineBytes (d : Line) : (lineBytes d).length = 64 := length_leBytes ..

/-- A byte address lies outside the memory block that begins at `f`. -/
def outsideBlock (f i : Nat) : Prop := i < f ∨ f + 64 ≤ i

theorem State.putLine_mem (s : State) (pa : Nat) (d : Line) (p : Bool) :
    (s.putLine pa d p).mem = memPut s.mem (pa / 64 * 64) (lineBytes d) := State.countHbm_only .mem (by decide)

theorem State.putLine_outside (s : State) {pa i : Nat} (d : Line) (p : Bool) (h : outsideBlock (pa / 64 * 64) i) :
    memRead (s.putLine pa d p).mem i = memRead s.mem i := by
  rw [State.putLine_mem]
  exact memRead_memPut_other (by rwa [length_lineBytes])

theorem State.mergeLine_outside (s : State) {pa i : Nat} (mask d : Nat) (p : Bool) (h : outsideBlock (pa / 64 * 64) i) :
    memRead (s.mergeLine pa mask d p).mem i = memRead s.mem i := by
  unfold State.mergeLine
  split
  · exact State.putLine_outside s _ p h
  · have counted : (s.countRead pa).mem = s.mem := State.countRead_only .mem (by decide)
    exact (State.putLine_outside _ _ _ h).trans (by rw [counted])

/-- A whole block is stored as it is given. -/
theorem State.mergeLine_whole (s : State) (pa d : Nat) (p : Bool) {i : Nat} (h : i < 64) :
    memRead (s.mergeLine pa (2 ^ 512 - 1) d p).mem (pa / 64 * 64 + i) = (lineBytes (BitVec.ofNat 512 d)).getD i 0#8 := by
  unfold State.mergeLine
  rw [if_pos rfl, State.putLine_mem]
  exact memRead_memPut_same (by rwa [length_lineBytes])

section
variable (s : State) (j : Nat) {va pa : Nat} (mask d : Nat) (p : Bool)

/-- A block that is written for a job changes no byte outside the blocks that serve it. -/
theorem State.putServed_outside {i : Nat} (lo : outsideBlock (lineFrames s j va pa).1 i)
    (hi : outsideBlock (lineFrames s j va pa).2 i) :
    memRead (s.putServed j va pa mask d p).mem i = memRead s.mem i := by
  have stays {c : Prop} [Decidable c] {u v : State} (hu : memRead u.mem i = memRead s.mem i)
      (hv : memRead v.mem i = memRead s.mem i) : memRead (if c then u else v).mem i = memRead s.mem i :=
    holds_ite (Q := fun u : State => memRead u.mem i = memRead s.mem i) hu hv
  unfold State.putServed
  unfold lineFrames at lo hi
  by_cases hall : hallBase ≤ pa
  · rw [if_pos hall] at lo ⊢
    exact State.mergeLine_outside s mask d p lo
  · rw [if_neg hall] at lo hi ⊢
    refine stays (State.mergeLine_outside s mask d p lo) ?_
    have low := stays (c := mask &&& 2 ^ 256 - 1 = 0) rfl (State.mergeLine_outside s (mask &&& 2 ^ 256 - 1) d p lo)
    exact stays low ((State.mergeLine_outside _ _ d p hi).trans low)

/-- A whole block whose entries lie together is stored as it is given. -/
theorem State.putServed_whole
    (together : hallBase ≤ pa ∨ s.framePa j (va + 32) (pa + 32) false = s.framePa j va pa false + 32)
    {i : Nat} (h : i < 64) : memRead (s.putServed j va pa (2 ^ 512 - 1) d p).mem ((lineFrames s j va pa).1 + i)
      = (lineBytes (BitVec.ofNat 512 d)).getD i 0#8 := by
  unfold State.putServed lineFrames
  by_cases hall : hallBase ≤ pa
  · rw [if_pos hall, if_pos hall]
    exact State.mergeLine_whole s pa d p h
  · rw [if_neg hall, if_neg hall]
    exact (congrArg (fun u : State => memRead u.mem _) (if_pos (together.resolve_left hall))).trans
      (State.mergeLine_whole s _ d p h)

end

/-! ### A stall that is brought up to a tick -/

/-- An operation that writes neither pins nor the bell leaves the clocks running. -/
theorem Only.clocked {w : List Part} {s x : State} (h : Only w s x)
    (c : (w.contains .pins || w.contains .bell) = false := by decide) : x.clocked = s.clocked := by
  simp only [Bool.or_eq_false_iff] at c
  have pins : x.pins = s.pins := h .pins c.1
  have bell : { x.bell with now := 0 } = { s.bell with now := 0 } := h .bell c.2
  have state : x.bell.state = s.bell.state := (congrArg Bell.state bell :)
  unfold State.clocked
  rw [pins, state]

section
variable {s : State} (t sn : Nat)

theorem State.onStall_advance_only {f : Stall → Stall × List Eff} : Only [.boot, .time, .pages, .stalls, .jobs, .hubs, .aisles,
    .halves, .clerk, .rings, .events, .ledgers, .trace, .out, .freeIx] s ((s.advance t).onStall t sn f) :=
  (Only.refl s).step State.advance_only |>.step State.onStall_only

theorem State.touch_advance_only : Only [.boot, .time, .pages, .stalls, .jobs, .hubs, .aisles, .halves, .clerk, .rings, .events,
    .ledgers, .trace, .out, .freeIx] s ((s.advance t).touch t sn) := State.onStall_advance_only t sn

variable (hc : s.clocked = true)
include hc

theorem State.on_touch_advance : s.on ((s.advance t).touch t sn) = (s.advance t).touch t sn :=
  (State.touch_advance_only t sn).on hc

theorem State.clocked_touch_advance : ((s.advance t).touch t sn).clocked = true :=
  (State.touch_advance_only t sn).clocked.trans hc

end

/-! ### A block of a PUT is written (R248, R257) -/

theorem State.writeFails_of_lt (s : State) (pa : Nat) {n : Nat} (h : n < 8) :
    (s.writeFails pa (min n 7)).1 = s.countHbm pa 0x70 n := by
  unfold State.writeFails
  rw [show min n 7 = n by omega, if_pos h]

theorem State.writeFails_eight (s : State) (pa : Nat) :
    (s.writeFails pa 8).1 = (s.countHbm pa 0x70 7).countHbm pa 0x78 1 := by
  unfold State.writeFails
  rw [if_neg (by decide)]

/-- A block of a PUT is in memory, and its transfer requests more. -/
def State.blockWritten (s : State) (t sn tag q : Nat) (x : Transfer) (b : PBlock) : State :=
  (s.writeBlock sn x b).onStall t sn fun st =>
    (st.setTag tag { x with blocks := lset x.blocks q { b with landed := true } }).requestMore sn t tag

theorem State.blockWritten_only {s : State} {t sn tag q : Nat} {x : Transfer} {b : PBlock} :
    Only [.boot, .pages, .stalls, .jobs, .hubs, .mem, .marks, .aisles, .halves, .clerk, .rings, .events, .ledgers, .trace, .out,
      .freeIx] s (s.blockWritten t sn tag q x b) := by
  unfold State.blockWritten
  exact (Only.refl s).step State.writeBlock_only |>.step State.onStall_only

/-- Counts, charges and what the stall does next leave memory as the block's write leaves it. -/
theorem State.blockWritten_mem (s : State) (t sn tag q : Nat) (x : Transfer) (b : PBlock) :
    let w := (s.stall sn).putData x b.va
    (s.blockWritten t sn tag q x b).mem = (s.putServed x.job b.va b.pa w.1 w.2.1 w.2.2).mem := by
  intro w
  refine (State.onStall_only .mem (by decide)).trans ?_
  unfold State.writeBlock
  exact holds_ite (Q := fun u : State => u.mem = (s.putServed x.job b.va b.pa w.1 w.2.1 w.2.2).mem)
    (State.chargeBlock_only .mem (by decide))
    ((State.chargeBlock_only .mem (by decide)).trans (State.chargeBlock_only .mem (by decide)))

/-- The eighth try to write a block at `pa` has failed (R248, R259). -/
def State.blockWriteFailed (s : State) (t sn tag pa : Nat) (x : Transfer) : State :=
  let u := ((s.countHbm pa 0x70 7).countHbm pa 0x78 1).dropTag sn tag
  u.raise (u.memEv t 0x4103 1 sn x.job pa)

theorem State.blockWriteFailed_only {s : State} {t sn tag pa : Nat} {x : Transfer} :
    Only [.boot, .pages, .stalls, .jobs, .hubs, .aisles, .halves, .clerk, .rings, .events, .ledgers, .trace, .out, .freeIx] s
      (s.blockWriteFailed t sn tag pa x) := by
  unfold State.blockWriteFailed
  exact (Only.refl s).step State.countHbm_only |>.step State.countHbm_only |>.step State.dropTag_only |>.step State.raise_only

section
variable {s : State} {t sn tag : Nat} {x : Transfer} (hc : s.clocked = true)
  (held : sget (((s.advance t).touch t sn).stall sn).tags tag = some x)
include hc held

section
variable {q n : Nat} {b : PBlock} (block : x.blocks[q]? = some b) (put : x.kind = .put) (plain : x.grad = false)
  (asked : b.requested = true) (waits : b.landed = false)
include block put plain asked waits

/-- A block that is asked for waits for its source words; then it is written, or has failed eight times. -/
theorem exec_hbmBlockWrite_asked :
    let a := (s.advance t).touch t sn
    let pa := a.framePa x.job b.va b.pa false
    exec (.hbmBlockWrite t sn tag q n) s = .next (a.on (if !x.sourced b.va then a
      else if 8 ≤ n && decide (b.pa < hallBase) then a.blockWriteFailed t sn tag pa x
      else (a.writeFails pa (min n 7)).1.blockWritten t sn tag q x b)) := by
  have due : (x.kind ≠ .put || x.grad || !b.requested || b.landed || !x.sourced b.va) = !x.sourced b.va := by
    simp [put, plain, asked, waits]
  change execHbmBlockWrite t sn tag q n s = _
  unfold execHbmBlockWrite
  rw [State.on_touch_advance t sn hc]
  dsimp only
  rw [held]
  dsimp only
  rw [block]
  dsimp only
  rw [due, State.writeFails_eight]
  unfold State.blockWriteFailed State.blockWritten
  rfl

theorem exec_hbmBlockWrite_unsourced (h : x.sourced b.va = false) :
    exec (.hbmBlockWrite t sn tag q n) s = .next ((s.advance t).touch t sn) := by
  refine (Only.refl (w := []) _).answers (State.clocked_touch_advance t sn hc) ?_
  rw [exec_hbmBlockWrite_asked hc held block put plain asked waits, if_pos (by rw [h]; rfl)]

variable (sourced : x.sourced b.va = true)
include sourced

theorem exec_hbmBlockWrite_fails (h : 8 ≤ n) (hbm : b.pa < hallBase) :
    let a := (s.advance t).touch t sn
    exec (.hbmBlockWrite t sn tag q n) s = .next (a.blockWriteFailed t sn tag (a.framePa x.job b.va b.pa false) x) := by
  refine State.blockWriteFailed_only.answers (State.clocked_touch_advance t sn hc) ?_
  rw [exec_hbmBlockWrite_asked hc held block put plain asked waits, if_neg (by simp [sourced]), if_pos (by simp [h, hbm])]

theorem exec_hbmBlockWrite_writes (h : n < 8) :
    let a := (s.advance t).touch t sn
    exec (.hbmBlockWrite t sn tag q n) s
      = .next ((a.countHbm (a.framePa x.job b.va b.pa false) 0x70 n).blockWritten t sn tag q x b) := by
  intro a
  refine ((State.countHbm_only.mono (by decide)).trans State.blockWritten_only).answers (State.clocked_touch_advance t sn hc) ?_
  rw [exec_hbmBlockWrite_asked hc held block put plain asked waits, if_neg (by simp [sourced]),
    if_neg (by simp; omega), State.writeFails_of_lt _ _ h]

end

/-! ### A tag is freed (R254, R259, R407) -/

/-- A transfer that a page fault stopped keeps its tag until its blocks have come, and 165,000 ticks at the most. -/
theorem exec_pageFaultTagRelease :
    let a := (s.advance t).touch t sn
    exec (.pageFaultTagRelease t sn tag) s
      = .next (if x.faulted && (x.inFlight = 0 || decide (x.issue + 165000 ≤ t)) then a.dropTag sn tag else a) := by
  intro a
  refine (holds_ite (Q := Only [.stalls, .freeIx] a) State.dropTag_only (.refl a)).answers
    (State.clocked_touch_advance t sn hc) ?_
  change execPageFaultTagRelease t sn tag s = _
  unfold execPageFaultTagRelease
  rw [State.on_touch_advance t sn hc]
  dsimp only
  rw [held]

end

/-- A tag held for 165,000 ticks is freed; the stall is struck where nothing else explains the loss. -/
theorem exec_porterTagTimeout {s : State} {sn tag : Nat} {x : Transfer} (hc : s.clocked = true)
    (held : sget (s.stall sn).tags tag = some x) (plain : x.faulted = false) :
    let t := x.issue + 165000
    let a := (s.advance t).touch t sn
    let u := (a.dropTag sn tag).raise ((a.stall sn).ev sn t 0x4301 0 x.job (((x.blocks.head?).map (·.va)).getD 0))
    exec (.porterTagTimeout sn tag) s = .next (if a.pathNamed sn x then u else u.strike sn 0x4301 (some x.job)) := by
  intro t a u
  have dropped : Only [.boot, .time, .pages, .stalls, .jobs, .hubs, .aisles, .halves, .clerk, .rings, .events, .ledgers, .trace,
      .out, .freeIx] s u :=
    (State.touch_advance_only t sn).step State.dropTag_only |>.step State.raise_only
  refine (holds_ite (Q := Only _ s) dropped (dropped.step State.strike_only)).answers hc ?_
  change execPorterTagTimeout sn tag s = _
  unfold execPorterTagTimeout
  rw [held]
  dsimp only
  rw [if_neg (by simp [plain]), State.on_touch_advance _ sn hc]

/-! ### A word that waits too long for its bank (R186) -/

theorem exec_porterStarveTimer {s : State} (t sn tag : Nat) (hc : s.clocked = true) : exec (.porterStarveTimer t sn tag) s
    = .next ((s.advance t).onStall t sn fun st => st.starve sn t tag) :=
  (State.onStall_advance_only t sn).answers hc rfl

theorem Stall.starve_waiting {st : Stall} {t tag : Nat} {x : Transfer} {w : Steal} (sn : Nat) (held : sget st.tags tag = some x)
    (waits : (st.steal.find? fun v => v.tag = some tag && decide (v.since + 165000 ≤ t)) = some w) :
    st.starve sn t tag = if x.starved then (st, [])
      else (st.setTag tag { x with starved := true }, [.ev (st.ev sn t 0x2201 0 x.job (bankRow w.bank w.place.rowNo))]) := by
  unfold Stall.starve
  rw [held]
  dsimp only
  rw [waits]

/-- Settles O43: each command by what it does to a stall that is brought up to its tick; the memory clauses are those of the
block's write. -/
theorem writesAndEndsOfTransfers : Obligations.WritesAndEndsOfTransfers := by
  unfold Obligations.WritesAndEndsOfTransfers
  intro s t sn tag q x hc a
  have memory : a.mem = s.mem := State.touch_advance_only t sn .mem (by decide)
  refine ⟨fun held => ⟨fun b n block put plain asked waits => ?block, fun stopped ended => ?release, fun waits => ?keep⟩,
    ?timeout, exec_porterStarveTimer t sn tag hc, fun st w held waits => Stall.starve_waiting sn held waits⟩
  case block =>
    intro pa
    refine ⟨exec_hbmBlockWrite_unsourced hc held block put plain asked waits, fun sourced many hbm => ⟨?_, ?_⟩,
      fun sourced few => ⟨_, exec_hbmBlockWrite_writes hc held block put plain asked waits sourced few, ?_⟩⟩
    · exact exec_hbmBlockWrite_fails hc held block put plain asked waits sourced many hbm
    · exact (State.blockWriteFailed_only .mem (by decide)).trans memory
    · intro y w f
      have counted : y.mem = s.mem := (State.countHbm_only .mem (by decide)).trans memory
      have written := State.blockWritten_mem y t sn tag q x b
      refine ⟨fun i lo hi => ?_, fun whole together i h => ?_⟩
      · rw [written, State.putServed_outside y x.job w.1 w.2.1 w.2.2 lo hi, counted]
      · rw [written, show ((y.stall sn).putData x b.va).1 = 2 ^ 512 - 1 from whole]
        exact State.putServed_whole y x.job w.2.1 w.2.2 together h
  case release =>
    rw [exec_pageFaultTagRelease hc held, if_pos (by simpa [stopped] using ended)]
  case keep =>
    rw [exec_pageFaultTagRelease hc held, if_neg]
    obtain plain | ⟨flying, early⟩ := waits
    · simp [plain]
    · simp [flying]; omega
  case timeout =>
    rintro held plain rfl
    exact exec_porterTagTimeout hc held plain

end Sys2Proof.Machine
end

section
/-! PROOFS. The end of a bank's scrub (R188, R189): which rows it clears. -/
namespace Sys2Proof.Machine

/-! ### What counting leaves of a stall's rows -/

/-- The store words and the errors of rows are the same in two stalls. -/
def Stall.SameRows (st u : Stall) : Prop := u.words = st.words ∧ u.errs = st.errs

namespace Stall.SameRows

theorem refl (st : Stall) : st.SameRows st := ⟨rfl, rfl⟩

theorem trans {st u v : Stall} (h : st.SameRows u) (k : u.SameRows v) : st.SameRows v := ⟨k.1.trans h.1, k.2.trans h.2⟩

theorem foldl {β : Type} {f : Stall → β → Stall} (st : Stall) (l : List β) (k : ∀ u a, SameRows u (f u a)) :
    st.SameRows (l.foldl f st) :=
  holds_foldl (Q := st.SameRows) (refl st) fun u a h => h.trans (k u a)

theorem ite {c : Prop} [Decidable c] {st u v : Stall} (h : st.SameRows u) (k : st.SameRows v) :
    st.SameRows (if c then u else v) := holds_ite (Q := st.SameRows) h k

theorem spend (st : Stall) (job kind n : Nat) : st.SameRows (st.spend job kind n) := .ite (.refl st) (.refl st)

theorem accrueScrub (st : Stall) (t b : Nat) : st.SameRows (st.accrueScrub t b) := .ite (.refl st) (.refl st)

theorem spendStatic (st : Stall) (dt : Nat) : st.SameRows (st.spendStatic dt) :=
  .trans (.foldl _ _ fun u _ => .ite (.spend u ..) (.ite (.refl u) (.spend u ..)))
    (.foldl _ _ fun u _ => .ite (.spend u ..) (.refl u))

theorem accrue (st : Stall) (t : Nat) : st.SameRows (st.accrue t) := by
  unfold Stall.accrue
  extract_lets static waited timed scrubbed waiting
  have scrubs : timed.SameRows scrubbed := .foldl _ _ fun u q => .accrueScrub u t q.1
  have rows : st.SameRows scrubbed := (Stall.SameRows.spendStatic st _).trans scrubs
  exact .ite rows rows

end Stall.SameRows

/-! ### The rows that the end of a scrub clears -/

theorem sget_filter {α : Type} (p : Nat → Bool) (m : List (Nat × α)) (k : Nat) :
    sget (m.filter fun q => p q.1) k = if p k then sget m k else none := by
  induction m with
  | nil => simp [sget]
  | cons q r ih =>
    obtain ⟨i, v⟩ := q
    by_cases same : i = k
    · subst same
      by_cases keep : p i <;> simp [sget, keep, ih]
    · by_cases keep : p i <;> simp [sget, keep, ih, same]

section
variable {st : Stall} {t b e : Nat} (h : (st.bank b).scrubEnd = some e) (ended : e ≤ t)
include h ended

/-- Of the words and errors those stay whose key lies in another bank. -/
theorem Stall.scrubDone_rows : (st.scrubDone t b).words = st.words.filter (fun q => !keyInBank b q.1) ∧
    (st.scrubDone t b).errs = st.errs.filter (fun q => !keyInBank b q.1) := by
  unfold Stall.scrubDone
  rw [h]
  dsimp -zeta only
  rw [if_neg (by omega)]
  extract_lets keys spans counted cleared returned own bank handed
  obtain ⟨words, errs⟩ : st.SameRows counted := .trans (.accrueScrub st ..) (.accrue ..)
  obtain ⟨kept, keptErrs⟩ : cleared.SameRows
      (if own = 0#8 || handed.retained b then handed.at_ (e + 1) (.sleep b) else handed) :=
    have rings : cleared.SameRows returned := .foldl _ _ fun u _ => .refl u
    .ite rings rings
  rw [kept, keptErrs, ← words, ← errs]
  exact ⟨rfl, rfl⟩

/-- The end of a scrub clears the words whose key lies in the bank, and no other. -/
theorem Stall.word_scrubDone (σ a : Nat) : (st.scrubDone t b).word σ a
    = if keyInBank b (σ * 4096 + a) then (0#512, false) else st.word σ a := by
  obtain ⟨words, errs⟩ := Stall.scrubDone_rows h ended
  unfold Stall.word Stall.stored sgetD
  rw [words, errs, sget_filter fun k => !keyInBank b k, sget_filter fun k => !keyInBank b k]
  cases keyInBank b (σ * 4096 + a) <;> rfl

/-- In a store of the device the words cleared are those of the bank. -/
theorem Stall.word_scrubDone_of_store {σ a : Nat} (store : σ < 4) (low : a < 4096) : (st.scrubDone t b).word σ a
    = if bankOf σ a = b then (0#512, false) else st.word σ a := by
  have key : keyBank (σ * 4096 + a) = bankOf σ a := by
    unfold keyBank
    rw [if_pos (by omega), show (σ * 4096 + a) / 4096 = σ by omega, show (σ * 4096 + a) % 4096 = a by omega]
  rw [Stall.word_scrubDone h ended, keyInBank, key]
  simp

end

/-- A stall whose bank 0 ends its scrub in tick 0 and whose sidecar row 0 of the W-store, in that bank, holds an uncorrectable
error. -/
def scrubbedSidecarStall : Stall :=
  { Stall.empty with
    banks := [(0, { Bank.empty with scrubEnd := some 0 })]
    errs := [(sideKey 0 0, true)] }

/-- Refutes O45: its scrub clause speaks of words of every store number. The key of word 0 of store 256, which no stall has, is
that of sidecar row 0 of the W-store; `bankOf` has it in bank 8,192, and the end of bank 0's scrub clears it. Of the stores 0 to
3 the clause holds (`Stall.word_scrubDone_of_store`). -/
theorem not_storesWorkInBackground : ¬ Obligations.StoresWorkInBackground := by
  unfold Obligations.StoresWorkInBackground
  rintro ⟨-, -, -, -, background⟩
  obtain ⟨scrubs, -⟩ := background scrubbedSidecarStall 0 0 0
  obtain ⟨-, ends⟩ := scrubs 0 (by decide)
  obtain ⟨-, keeps, -⟩ := ends (le_refl 0)
  have asked : (scrubbedSidecarStall.scrubDone 0 0).word 256 0 = scrubbedSidecarStall.word 256 0 :=
    keeps 256 0 (by decide) (by decide)
  have before : (scrubbedSidecarStall.word 256 0).2 = true := by decide
  rw [← asked, Stall.word_scrubDone (e := 0) (by decide) (le_refl 0), if_pos (by decide)] at before
  cases before

end Sys2Proof.Machine
end

section
/-! PROOFS. Registers whose write acts (R227, R253, R329, R339, R385, R404, R437). -/
set_option Elab.async false
namespace Sys2Proof.Machine

/-! ### A register write by command reaches its block (R432, R465) -/

/-- The page types stand in the order of their pages. -/
theorem allPageTys_split (p : PageTy) :
    allPageTys = allPageTys.takeWhile (· ≠ p) ++ p :: (allPageTys.dropWhile (· ≠ p)).tail ∧
      ∀ q ∈ allPageTys.takeWhile (· ≠ p), q.span.1 + q.span.2 ≤ p.span.1 := by
  cases p <;> decide

/-- The address of a page's register lies in that page. -/
theorem pageOf_regAddr {p : PageTy} {i o : Nat} (h : i < p.span.2) (k : o < 0x1000) :
    pageOf (regAddr p i o) = some (p, i) := by
  obtain ⟨split, below⟩ := allPageTys_split p
  have number : regAddr p i o / 0x1000 = p.span.1 + i := by unfold regAddr pageNo; omega
  unfold pageOf
  rw [number, split, findPage_append fun q hq => (below q hq).trans (by omega), findPage, if_pos (by simp [h]),
    Nat.add_sub_cancel_left]

theorem regAddr_offset (p : PageTy) (i : Nat) {o : Nat} (k : o < 0x1000) : regAddr p i o % 0x1000 = o := by
  unfold regAddr; omega

@[simp] theorem State.advance_stallPresent (s : State) (t n : Nat) : (s.advance t).stallPresent n = s.stallPresent n := by
  unfold State.stallPresent State.rows; rw [State.advance_fuses]

@[simp] theorem State.advance_portPresent (s : State) (t p : Nat) : (s.advance t).portPresent p = s.portPresent p := by
  unfold State.portPresent; rw [State.advance_fuses]

@[simp] theorem State.advance_primary (s : State) (t : Nat) : (s.advance t).primary = s.primary := by
  unfold State.primary; rw [State.advance_clerk]

/-- Once the device has left CLOSED, an agent that is the companion or a Clerk writes its own registers and no other. -/
theorem State.mayWrite_of_side {s : State} {agent : Nat} {p : PageTy} {i o : Nat} (dev : s.boot.dev ≠ 0)
    (side : companionRegister p i o = decide (4 ≤ agent)) : s.mayWrite agent p i o = true := by
  unfold State.mayWrite
  rw [if_neg dev, decide_eq_true side]

/-- A taken write of a block register does to the state what the block does, where that touches neither pins, fuses nor the
queue. -/
theorem exec_of_writeReg {s : State} {c : Instr} {t agent : Nat} {p : PageTy} {i o : Nat} {v : W32} {x : State} {w : List Part}
    (hc : s.clocked = true) (dev : s.boot.dev ≠ 0)
    (run : exec c s = .next ((s.advance t).on ((s.advance t).writeReg t agent (regAddr p i o) v)))
    (page : i < p.span.2) (block : ¬ o < 0x40 ∧ o < 0x800) (present : (s.advance t).pagePresent p i = true)
    (side : companionRegister p i o = decide (4 ≤ agent)) (writes : (s.advance t).writeBlockReg t p i o v = x)
    (only : Only w (s.advance t) x)
    (k : (w.contains .pins || w.contains .fuses || w.contains .pending) = false := by decide) : exec c s = .next x := by
  have offset : regAddr p i o % 0x1000 = o := regAddr_offset p i (by omega)
  refine only.answers (by simpa using hc) (run.trans ?_) k
  rw [State.writeReg_accepted t v (pageOf_regAddr page (by omega)) present
      (by rw [offset]; exact State.mayWrite_of_side (by simpa using dev) side), offset]
  unfold State.applyWrite
  rw [if_neg block.1, if_neg (by omega), writes]

/-! ### Registers of the primary Clerk -/

section
variable {s : State} (t : Nat) (v : W32) (hc : s.clocked = true) (dev : s.boot.dev ≠ 0) (clerk : s.primary < 4)
include hc dev clerk

/-- CHECK_VAL (R227). -/
theorem exec_checkValWrite {sn : Nat} (present : s.stallPresent sn = true) :
    exec (.checkValWrite t sn v) s = .next ((s.advance t).onStall t sn fun st => (st.writeCheck v, [])) := by
  have row : sn < 1536 := by
    unfold State.stallPresent at present
    simp only [Bool.and_eq_true, decide_eq_true_eq] at present
    exact present.1
  exact exec_of_writeReg hc dev rfl row (by decide) ((State.advance_stallPresent s t sn).trans present)
    (by simpa [companionRegister] using clerk) rfl State.onStall_only

/-- RERUN_ARM (R404). -/
theorem exec_rerunArm {d : Nat} (die : d < 12) : exec (.rerunArm t d v) s = .next ((s.advance t).writeRerunArm t d v) :=
  exec_of_writeReg hc dev rfl die (by decide) rfl (by simpa [companionRegister] using clerk) rfl State.writeRerunArm_only

/-- XLATE_INVAL (R253). -/
theorem exec_xlateInval {h : Nat} (hub : h < 4) : exec (.xlateInval t h v) s = .next ((s.advance t).writeXlateInval h v) :=
  exec_of_writeReg hc dev rfl hub (by decide) rfl (by simpa [companionRegister] using clerk) rfl State.writeXlateInval_only

/-- AISLE_RETRAIN (R339). -/
theorem exec_aisleRetrain {p : Nat} (present : s.portPresent p = true) : exec (.aisleRetrain t p v) s
    = .next (if v.getLsbD 0 then (s.advance t).retrainAisle p else s.advance t) := by
  have port : p < 12 := by
    unfold State.portPresent at present
    simp only [Bool.and_eq_true, decide_eq_true_eq] at present
    exact present.1
  exact exec_of_writeReg hc dev rfl port (by decide) ((State.advance_portPresent s t p).trans present)
    (by simpa [companionRegister] using clerk) rfl (holds_ite (Q := Only _ (s.advance t)) State.retrainAisle_only (.refl _))

end

/-- GRP_STEP (R329). -/
theorem exec_grpStepWrite {s : State} (t : Nat) (w : W64) (hc : s.clocked = true) (dev : s.boot.dev ≠ 0) :
    exec (.grpStepWrite t w) s = .next ((s.advance t).writeGrpStep w) := by
  refine State.writeGrpStep_only.answers (s := s.advance t) (by simpa using hc) ?_
  change Host.Outcome.next ((s.advance t).on (if (s.advance t).boot.dev = 0 then _ else _)) = _
  rw [if_neg (by simpa using dev)]

/-- GRP_STEP waits for the job of a group that its record names (R329). -/
theorem State.writeGrpStep_eq (s : State) (w : W64) :
    let g := bits (s.live .sched 0 0x110) 5 0
    s.writeGrpStep w = if s.groupValid g = true ∧ s.jobActive (groupOf (s.groupRecord g)).job = true then s
      else { s with sched := { s.sched with steps := sset s.sched.steps g w } } := by
  unfold State.writeGrpStep
  simp only [Bool.and_eq_true]

/-- CHECK_VAL waits for its slot and goes to the value that CHECK_SEL names (R227). -/
theorem Stall.writeCheck_eq (st : Stall) (v : W32) : st.writeCheck v
    = if st.slotBusy st.checkSel.1 then st
      else st.setSlot st.checkSel.1 (if st.checkSel.2 then { st.slotSt st.checkSel.1 with recvRv := v }
        else { st.slotSt st.checkSel.1 with sendRv := v }) := by
  unfold Stall.writeCheck
  cases st.checkSel.2 <;> rfl

/-- A port that retrains keeps the messages that wait in it. -/
theorem State.aisle_retrainAisle {s : State} {p : Nat} (present : s.portPresent p = true)
    (enabled : bit (s.live .aisle p 0x104) 0 = true) : ((s.retrainAisle p).aisle p).state = 1 ∧
      ((s.retrainAisle p).aisle p).replay = [] ∧ ((s.retrainAisle p).aisle p).queue = (s.aisle p).queue := by
  have freed (u : State) : (u.freeOutput (aisleArb p) 0).aisle p = u.aisle p := by
    unfold State.aisle; rw [show (u.freeOutput (aisleArb p) 0).aisles = u.aisles from State.freeOutput_only .aisles (by decide)]
  unfold State.retrainAisle
  rw [if_neg (by simp [present, enabled]), freed, State.aisle_setAisle]
  exact ⟨rfl, rfl, rfl⟩

theorem State.retrainAisle_disabled {s : State} {p : Nat} (disabled : bit (s.live .aisle p 0x104) 0 = false) :
    s.retrainAisle p = s := by
  unfold State.retrainAisle; rw [if_pos (by simp [disabled])]

/-! ### Registers of the companion (R385, R437) -/

section
variable {s : State} (t agent : Nat) (hc : s.clocked = true) (dev : s.boot.dev ≠ 0) (companion : 4 ≤ agent)
include hc dev companion

theorem exec_ledgerSnap {j : Nat} (job : j < 64) : exec (.ledgerSnap t agent j) s = .next ((s.advance t).writeLedger j 1#32) :=
  exec_of_writeReg hc dev rfl job (by decide) rfl (by simpa [companionRegister] using companion) rfl State.writeLedger_only

theorem exec_ledgerRelease {j : Nat} (job : j < 64) :
    exec (.ledgerRelease t agent j) s = .next ((s.advance t).writeLedger j 2#32) :=
  exec_of_writeReg hc dev rfl job (by decide) rfl (by simpa [companionRegister] using companion) rfl State.writeLedger_only

theorem exec_ringCtrlEnable (v : W32) : exec (.ringCtrlEnable t agent v) s = .next ((s.advance t).writeRingCtrl v) :=
  exec_of_writeReg hc dev rfl (by decide) (by decide) rfl (by simpa [companionRegister] using companion) rfl
    State.writeRingCtrl_only

end

theorem State.writeLedger_snap (s : State) (j : Nat) :
    s.writeLedger j 1#32 = s.setLedger j { s.ledger j with snapPend := true, snapDone := false } := rfl

/-- A page that is not CLOSED is not released. -/
theorem State.writeLedger_open {s : State} {j : Nat} (h : (s.ledger j).state ≠ 2) : s.writeLedger j 2#32 = s := by
  unfold State.writeLedger; exact if_neg (by simp [h])

/-- The release of a CLOSED page frees the page and the job number. -/
theorem State.writeLedger_closed {s : State} {j : Nat} (h : (s.ledger j).state = 2) : s.writeLedger j 2#32
    = { (s.setPage (pageNo .ledger j) .empty).setLedger j .empty with jobs := sdel s.jobs j } := by
  unfold State.writeLedger; exact if_pos (by simp [h])

/-- Enabling the rings starts them anew, from a RING_CTRL that is written. -/
theorem State.writeRingCtrl_enable (s : State) {v : W32} (h : v.getLsbD 0 = true) : s.writeRingCtrl v
    = (let pg := pageNo .lemef 0
      let x : State := { s.setPage pg ((s.page pg).writeRW .lemef 0 0x13C v) with rings := { s.rings with
        sqHead := 0, cqTail := 0, cqHead := 0, eqTail := 0, eqHead := 0, cq := [], eq := [] } }
      let u := x.postEvents 256
      if u.ringsOn then u.writeStatus else u) := by
  unfold State.writeRingCtrl; exact if_pos h

theorem State.writeRingCtrl_disable (s : State) {v : W32} (h : v.getLsbD 0 = false) : s.writeRingCtrl v
    = if s.clerk.taken = [] then s.setPage (pageNo .lemef 0) ((s.page (pageNo .lemef 0)).writeRW .lemef 0 0x13C v) else s := by
  unfold State.writeRingCtrl
  rw [if_neg (by rw [h]; decide)]
  simp only [List.isEmpty_iff]

/-- Settles O38: every write is taken, and each block says what it does. -/
theorem actingRegisters : Obligations.ActingRegisters := by
  unfold Obligations.ActingRegisters
  constructor
  · intro s t v hc dev clerk a
    refine ⟨fun sn present => ?check, fun d die arm present => ?rerun, fun h hub drop => ?xlate, ?group,
      fun p present => ⟨fun again enabled => ?retrain, fun off => ?noRetrain⟩⟩
    case check =>
      simp only [← Stall.writeCheck_eq]
      exact exec_checkValWrite t v hc dev clerk present
    case rerun =>
      rw [exec_rerunArm t v hc dev clerk die]
      unfold State.writeRerunArm
      exact congrArg _ (if_pos (by rw [State.advance_stallPresent, arm, present]; rfl))
    case xlate =>
      rw [exec_xlateInval t v hc dev clerk hub]
      unfold State.writeXlateInval
      exact congrArg _ (if_neg (by rw [drop]; decide))
    case group =>
      intro w g busy
      rw [exec_grpStepWrite t w hc dev, State.writeGrpStep_eq]
      exact ⟨fun idle => congrArg _ (if_neg idle), fun runs => congrArg _ (if_pos runs)⟩
    case retrain =>
      exact ⟨_, (exec_aisleRetrain t v hc dev clerk present).trans (congrArg _ (if_pos again)),
        State.aisle_retrainAisle ((State.advance_portPresent s t p).trans present) enabled⟩
    case noRetrain =>
      rw [exec_aisleRetrain t v hc dev clerk present]
      obtain clear | disabled := off
      · rw [clear]; rfl
      · rw [State.retrainAisle_disabled disabled, ite_self]
  · intro s t agent hc dev companion a
    refine ⟨fun j job => ?snap, fun j job notClosed => ?kept, fun j job closed => ?freed, fun v => ?enable,
      fun v off open_ => ?ignored, fun v off idle => ?disable⟩
    case snap => rw [exec_ledgerSnap t agent hc dev companion job, State.writeLedger_snap]
    case kept => rw [exec_ledgerRelease t agent hc dev companion job, State.writeLedger_open notClosed]
    case freed =>
      exact ⟨_, (exec_ledgerRelease t agent hc dev companion job).trans (congrArg _ (State.writeLedger_closed closed)),
        sget_sdel_same _ _, State.ledger_setLedger _ _ _, fun i other => sget_sdel_other _ other⟩
    case enable =>
      intro on
      rw [exec_ringCtrlEnable t agent hc dev companion, State.writeRingCtrl_enable _ on]
    case ignored => rw [exec_ringCtrlEnable t agent hc dev companion, State.writeRingCtrl_disable _ off, if_neg open_]
    case disable => rw [exec_ringCtrlEnable t agent hc dev companion, State.writeRingCtrl_disable _ off, if_pos idle]

end Sys2Proof.Machine
end

section
/-! PROOFS. Bridge channels: their flits, NAKs and retraining (R224, R225, R228, R231). -/
set_option Elab.async false
namespace Sys2Proof.Machine

/-! ### A flit on a bridge channel (R224, R228) -/

theorem State.carrier_of_live {s : State} {c : Nat} (h : (s.chan c).live = true) : s.carrier c = c := by
  unfold State.carrier; exact if_pos h

/-- A flit that leaves by replay counts at the channel's retry counter, where the device has one (log entry 28). -/
def State.countRetry (s : State) (c : Nat) (again : Bool) : State :=
  if again then (match retryCtr c with | some q => s.count q.1 q.2 1 | none => s) else s

theorem State.countRetry_only (s : State) (c : Nat) (again : Bool) : Only [.pages, .stalls] s (s.countRetry c again) := by
  unfold State.countRetry
  refine holds_ite ?_ (.refl s)
  split
  · exact State.count_only
  · exact .refl s

/-- A flit that a receiver takes: whole, and of the number due. -/
def flitGood (rx : RxFlit) (due : Nat) : Prop := rx.check % 65536 = linkCheck rx.bytes (rx.seq % 256) ∧ rx.seq % 256 = due

/-- What the receiver of channel `k` does with a flit, the transmitter being `ch` (R224). -/
def State.receiveFlit (s : State) (t k : Nat) (ch : Channel) (rx : RxFlit) : State :=
  if rx.check % 65536 = linkCheck rx.bytes (rx.seq % 256) && rx.seq % 256 = ch.rxSeq then
    s.setChan k { ch with
      rxSeq := (rx.seq % 256 + 1) % 256, nak := false, fails := if ch.failSeq = rx.seq % 256 then 0 else ch.fails }
  else if ch.nak then s.setChan k ch
  else (s.setChan k { ch with nak := true }).emit (.bridgeNak t k ch.rxSeq)

section
variable {s : State} {t k : Nat} {ch : Channel} {rx : RxFlit}

theorem State.receiveFlit_only : Only [.chans, .out] s (s.receiveFlit t k ch rx) := by
  have set (v : Channel) : Only [.chans, .out] s (s.setChan k v) := State.setChan_only.mono (by decide)
  unfold State.receiveFlit
  exact holds_ite (set _) (holds_ite (set _) ((set _).step State.emit_only))

theorem State.receiveFlit_good (h : flitGood rx ch.rxSeq) : s.receiveFlit t k ch rx
    = s.setChan k { ch with
      rxSeq := (ch.rxSeq + 1) % 256, nak := false, fails := if ch.failSeq = ch.rxSeq then 0 else ch.fails } := by
  obtain ⟨whole, due⟩ := h
  unfold State.receiveFlit
  rw [if_pos (by simp [whole, due]), due]

theorem State.receiveFlit_bad (h : ¬ flitGood rx ch.rxSeq) : s.receiveFlit t k ch rx
    = if ch.nak then s.setChan k ch else (s.setChan k { ch with nak := true }).emit (.bridgeNak t k ch.rxSeq) := by
  unfold State.receiveFlit
  exact if_neg (by simpa [flitGood] using h)

end

theorem exec_bridgeFlitReceive {s : State} (t c : Nat) (flit : List Byte) (rx : RxFlit) (hc : s.clocked = true) :
    let a := s.advance t
    let k := a.carrier c
    let r := (a.chan k).transmit flit
    exec (.bridgeFlitReceive t c flit rx) s
      = .next (if (a.chan k).live then (a.countRetry k r.2).receiveFlit t k r.1 rx else a) := by
  intro a k r
  have only : Only [.pages, .stalls, .chans, .out] a
      (if (a.chan k).live then (a.countRetry k r.2).receiveFlit t k r.1 rx else a) :=
    holds_ite (((a.countRetry_only k r.2).mono (by decide)).step State.receiveFlit_only) (.refl a)
  refine only.answers (by simpa [a] using hc) ?_
  change execBridgeFlitReceive t c flit rx s = _
  unfold execBridgeFlitReceive
  cases live : (a.chan k).live <;> simp only [a, k] at live <;> simp only [live] <;> rfl

/-! ### A NAK on a bridge channel (R224, R225) -/

/-- A channel replays from the flit that a NAK names, which has failed `n` times. -/
def State.replayFrom (s : State) (c q n : Nat) : State :=
  let ch := s.chan c
  let again := (ch.buf.dropWhile fun x => x.1 != q).map Prod.fst
  (s.setChan c { ch with replay := again, nak := false, failSeq := q, fails := n }).occupy (chanArb c) (c % 8)
    (replayCycles c again.length)

theorem exec_bridgeNakReceive {s : State} (t c q : Nat) (hc : s.clocked = true) :
    let a := s.advance t
    let ch := a.chan c
    let n := if ch.failSeq = q then ch.fails + 1 else 1
    exec (.bridgeNakReceive t c q) s = .next (if !ch.live || !(ch.buf.any fun x => x.1 = q) then a
      else if n < 16 then a.replayFrom c q n else (a.replayFrom c q n).channelDown (c / 16) (c % 8)) := by
  intro a ch n
  have replay : Only ([.chans, .arbs] ++ eventParts) a (a.replayFrom c q n) := by
    unfold State.replayFrom
    exact (State.setChan_only.mono (by decide)).step State.occupy_only
  exact (holds_ite (Q := Only _ a) (.refl a) (holds_ite (Q := Only _ a) replay (replay.step State.channelDown_only))).answers
    (by simpa [a] using hc) rfl

/-! ### Retraining (R224) -/

/-- A channel that is not live starts anew. -/
def State.bringUp (s : State) (k : Nat) : State :=
  if (s.chan k).live then s else s.setChan k { Channel.empty with live := true }

theorem State.bringUp_only {s : State} {k : Nat} : Only [.chans] s (s.bringUp k) := by
  unfold State.bringUp
  exact holds_ite (.refl s) State.setChan_only

theorem State.bringUp_live (s : State) (k : Nat) : ((s.bringUp k).chan k).live = true := by
  unfold State.bringUp
  split
  · assumption
  · rw [State.chan_setChan]

theorem State.bringUp_other (s : State) {k i : Nat} (h : i ≠ k) : (s.bringUp k).chan i = s.chan i := by
  unfold State.bringUp
  exact holds_ite (Q := fun u : State => u.chan i = s.chan i) rfl (State.chan_setChan_other s _ h)

/-- The channels of both directions that channel `c` names. -/
def State.bringUpBoth (s : State) (c : Nat) : State :=
  (s.bringUp (c / 16 * 16 + 8 * 0 + c % 8)).bringUp (c / 16 * 16 + 8 * 1 + c % 8)

theorem exec_bridgeChannelRetrain {s : State} (t c : Nat) (hc : s.clocked = true) : exec (.bridgeChannelRetrain t c) s
    = .next (if (s.advance t).boot.inspected then (s.advance t).bringUpBoth c else s.advance t) := by
  refine (holds_ite (Q := Only _ (s.advance t)) (State.bringUp_only.trans State.bringUp_only) (.refl _)).answers
    (by simpa using hc) rfl

/-- Of the channels of a bridge both directions of the one that is named are live, and no other channel changes. -/
theorem State.chan_bringUpBoth (s : State) (c k : Nat) : if k / 16 = c / 16 ∧ k % 8 = c % 8
    then ((s.bringUpBoth c).chan k).live = true else (s.bringUpBoth c).chan k = s.chan k := by
  unfold State.bringUpBoth
  split
  next named =>
    obtain first | second : k = c / 16 * 16 + 8 * 0 + c % 8 ∨ k = c / 16 * 16 + 8 * 1 + c % 8 := by omega
    · rw [State.bringUp_other _ (by omega), first]
      exact State.bringUp_live s _
    · rw [second]
      exact State.bringUp_live _ _
  next other => rw [State.bringUp_other _ (by omega), State.bringUp_other _ (by omega)]

/-- Settles O47: each command by what the channel that carries the traffic does. -/
theorem bridgesRetryAndFail : Obligations.BridgesRetryAndFail := by
  unfold Obligations.BridgesRetryAndFail
  intro s t c hc a ch
  refine ⟨⟨State.carrier_of_live, fun down flit rx => ?down, fun live flit rx => ?flit⟩, fun q => ?nak, fun young => ?young,
    fun inspected => ⟨_, (exec_bridgeChannelRetrain t c hc).trans (congrArg _ (if_pos inspected)), a.chan_bringUpBoth c⟩⟩
  case down => exact (exec_bridgeFlitReceive t c flit rx hc).trans (congrArg _ (if_neg (by rw [down]; decide)))
  case flit =>
    intro r u good
    have run : exec (.bridgeFlitReceive t c flit rx) s = .next (u.receiveFlit t (a.carrier c) r.1 rx) :=
      (exec_bridgeFlitReceive t c flit rx hc).trans (congrArg _ (if_pos live))
    refine ⟨fun taken => ?_, fun bad first => ?_, fun bad again => ?_⟩
    · rw [run, State.receiveFlit_good taken]
    · rw [run, State.receiveFlit_bad bad, if_neg (by rw [first]; decide)]
    · rw [run, State.receiveFlit_bad bad, if_pos again]
  case nak =>
    intro again n u v w
    have run : exec (.bridgeNakReceive t c q) s = .next (if !ch.live || !(ch.buf.any fun x => x.1 = q) then a
        else if n < 16 then u else u.channelDown (c / 16) (c % 8)) := exec_bridgeNakReceive t c q hc
    refine ⟨fun live held => ⟨fun few => ?_, fun many => ?_⟩, fun ignored => ?_⟩
    · rw [run, if_neg (by rw [live, held]; decide), if_pos few]
    · rw [run, if_neg (by rw [live, held]; decide), if_neg (by omega)]
      rfl
    · rw [run, if_pos]
      obtain down | unknown := ignored
      · rw [down]; rfl
      · rw [unknown]; exact Bool.or_true _
  case young => exact (exec_bridgeChannelRetrain t c hc).trans (congrArg _ (if_neg (by rw [young]; decide)))

end Sys2Proof.Machine
end

section
/-! PROOFS. Arbiters: the holder's beat, the lock, the decision for the cycle, and the traffic that grants move (R225, R231,
R234 to R237, R241). -/
set_option Elab.async false
namespace Sys2Proof.Machine

/-! ### The holder of an output (R235, R236) -/

theorem ArbOut.wait_hold (o : ArbOut) : o.wait.hold = o.hold.map fun h => { h with cycles := h.cycles + b2n h.locked } := rfl

section
variable {o : ArbOut} {h : Holder} (held : o.hold = some h)
include held

theorem ArbOut.cut_young (young : h.cycles < 64) : o.cut = (o, none) := by
  unfold ArbOut.cut
  rw [held]
  exact if_neg (by simp [young])

/-- A lock of 64 cycles is cut (R236). -/
theorem ArbOut.cut_old (locked : h.locked = true) (old : 64 ≤ h.cycles) :
    o.cut = ({ o with hold := some { h with locked := false } }, some h) := by
  unfold ArbOut.cut
  rw [held]
  exact if_pos (by simp [locked, old])

end

theorem revokedHolder_none {o : ArbOut} {l : List (Nat × Nat)} (h : ∀ q ∈ l, q.1 ≠ 0x50) : revokedHolder o l = none := by
  unfold revokedHolder
  exact if_neg fun any => by obtain ⟨q, mem, e⟩ := List.any_eq_true.1 any; exact h q mem (by simpa using e)

theorem revokedHolder_some {o : ArbOut} {l : List (Nat × Nat)} {m : Nat} (h : (0x50, m) ∈ l) : revokedHolder o l = o.hold := by
  unfold revokedHolder
  exact if_pos (List.any_eq_true.2 ⟨_, h, by simp⟩)

/-! ### The decision for a cycle (R231, R234 to R237) -/

/-- The requests of those that own the cycle's entry. -/
def State.owners (s : State) (n y : Nat) (l : List ArbReq) : List ArbReq :=
  (l.filter fun r => s.arbHas n r.req).filter fun r => s.owns n y r.req (s.arbEntry n y (arbPosition n y))

/-- A request that is granted holds the output from now on. -/
def holderOf (n : Nat) (w : ArbReq) (rota : Bool) : Holder :=
  ⟨w.req, w.beats, 0, arbLocked n w.req, 0, rota, w.job, w.carries⟩

/-- A request that stands is granted: it holds the output, its losses are forgotten, and no backoff changes. -/
theorem ArbOut.grant_stands (o : ArbOut) (n c : Nat) {w : ArbReq} (rota : Bool) (stands : w.withdraws = false) :
    (o.grant n c w rota).1.hold = some (holderOf n w rota) ∧ sgetD (o.grant n c w rota).1.losses w.req 0 = 0 ∧
      (o.grant n c w rota).1.off = o.off := by
  unfold ArbOut.grant
  simp only [stands]
  exact ⟨rfl, sgetD_sput_same 0 o.losses w.req 0, rfl⟩

section
variable (s : State) (n y : Nat) (l : List ArbReq) (o : ArbOut) {h : Holder} (held : o.hold = some h)

include held in
/-- A locked holder keeps the output, and so does one that owns the cycle. -/
theorem State.arbDecide_keeps (keeps : h.locked = true ∨ s.owns n y h.req (s.arbEntry n y (arbPosition n y)) = true) :
    (s.arbDecide n y l o).1.hold = some { h with rota := s.owns n y h.req (s.arbEntry n y (arbPosition n y)) } := by
  unfold State.arbDecide
  simp only [held]
  by_cases locked : h.locked = true
  · rw [if_pos locked]
  · rw [if_neg locked, if_pos (keeps.resolve_left locked)]

section
variable {q : Nat} {w : ArbReq} (entry : s.arbEntry n y (arbPosition n y) = .req q) (first : (s.owners n y l).head? = some w)
  (stands : w.withdraws = false)
include entry first stands

include held in
/-- An unlocked holder gives way to the requester that owns the cycle. -/
theorem State.arbDecide_revokes (unlocked : h.locked = false)
    (foreign : s.owns n y h.req (s.arbEntry n y (arbPosition n y)) = false) :
    (s.arbDecide n y l o).1.hold = some (holderOf n w true) ∧ (0x50, 1) ∈ (s.arbDecide n y l o).2 ∧
      (0x58, h.moved) ∈ (s.arbDecide n y l o).2 := by
  unfold State.owners at first
  rw [entry] at first foreign
  unfold State.arbDecide
  simp only [held, unlocked, foreign, entry, first]
  exact ⟨(ArbOut.grant_stands _ n _ true stands).1, by simp, by simp⟩

/-- Without a holder the requester that owns the cycle is granted. -/
theorem State.arbDecide_grants (free : o.hold = none) :
    (s.arbDecide n y l o).1.hold = some (holderOf n w true) ∧ sgetD (s.arbDecide n y l o).1.losses w.req 0 = 0 ∧
      (s.arbDecide n y l o).1.off = o.off := by
  unfold State.owners at first
  rw [entry] at first
  unfold State.arbDecide
  simp only [free, entry, first]
  exact ArbOut.grant_stands _ n _ true stands

end

theorem State.arbDecide_idle (free : o.hold = none) : s.arbDecide n y [] o = (o, [(0x80, 1)]) := by
  unfold State.arbDecide
  simp only [free, List.filter_nil]
  cases s.arbEntry n y (arbPosition n y) <;> rfl

end

/-! ### A cycle at an output (R231, R234) -/

/-- The record of an output after a cycle in which its holder moved a beat or waited. -/
def ArbOut.after (o : ArbOut) (moved : Bool) (y : Nat) : ArbOut := { (if moved then o.beat else o.wait) with cycle := y }

/-- A cycle of an output that a link replay occupies. -/
def State.arbReplays (s : State) (n out y : Nat) : State :=
  let c := ((sgetD s.arbs (n * 128 + out) .empty).after false y).cut
  ({ s with arbs := sset s.arbs (n * 128 + out) c.1 }.count (pageNo .arb n) 0x88 1).lockCut n out c.2

/-- The counters of an arbiter that a cycle raises. -/
def State.arbCount (s : State) (n : Nat) (l : List (Nat × Nat)) : State :=
  l.foldl (fun z q => if q.2 = 0 then z else z.count (pageNo .arb n) q.1 q.2) s

/-- A cycle in which an output's holder moves and the arbiter decides; with the record that it decides on and its decision. -/
def State.arbDecided (s : State) (t n out y : Nat) (l : List ArbReq) (gap : Bool) :
    State × ArbOut × ArbOut × List (Nat × Nat) :=
  let o := sgetD s.arbs (n * 128 + out) .empty
  let b := s.arbBeat t n out o.hold gap
  let c := (o.after b.2 y).cut
  let r := b.1.arbDecide n y (b.1.requests n out l) c.1
  let u := { b.1 with arbs := sset b.1.arbs (n * 128 + out) r.1 }.arbCount n ((0x80, b2n (o.hold.isSome && !b.2)) :: r.2)
  (u.lockCut n out c.2, c.1, r)

section
variable {s : State} {t n out y : Nat} {l : List ArbReq} {gap : Bool}

theorem State.arbReplays_only : Only ([.arbs] ++ eventParts) s (s.arbReplays n out y) := by
  unfold State.arbReplays
  exact (Only.upd (.refl s)).step State.count_only |>.step State.lockCut_only

theorem State.arbCount_only {l : List (Nat × Nat)} : Only [.pages, .stalls] s (s.arbCount n l) := by
  unfold State.arbCount
  exact Only.foldl fun _ _ => holds_ite (.refl _) State.count_only

theorem State.arbDecided_only : Fst (Only ([.arbs] ++ eventParts) s) (s.arbDecided t n out y l gap) := by
  unfold State.arbDecided
  have beat : Only ([.arbs] ++ eventParts) s (s.arbBeat t n out (sgetD s.arbs (n * 128 + out) .empty).hold gap).1 :=
    State.arbBeat_only.mono (by decide)
  exact beat.upd.step State.arbCount_only |>.step State.lockCut_only

end

theorem exec_arbCycleDecision {s : State} (t n out y : Nat) (l : List ArbReq) (gap : Bool) (hc : s.clocked = true) :
    let a := s.advance t
    let d := a.arbDecided t n out y l gap
    exec (.arbCycleDecision t n out y l gap) s = .next (if !a.arbPresent n || !a.arbOutput n out then a
      else if y < (sgetD a.arbs (n * 128 + out) .empty).busyTo then a.arbReplays n out y
      else (revokedHolder d.2.1 d.2.2.2).elim d.1 (d.1.revoked t n)) := by
  intro a d
  have decided : Only ([.arbs] ++ eventParts) a ((revokedHolder d.2.1 d.2.2.2).elim d.1 (d.1.revoked t n)) := by
    cases revokedHolder d.2.1 d.2.2.2 with
    | none => exact State.arbDecided_only
    | some h => exact Only.step State.arbDecided_only State.revoked_only
  refine (holds_ite (Q := Only _ a) (.refl a) (holds_ite (Q := Only _ a) State.arbReplays_only decided)).answers
    (by simpa [a] using hc) (congrArg (fun x => Host.Outcome.next (a.on x)) (congrArg (ite _ _) (congrArg (ite _ _) ?_)))
  change (match revokedHolder d.2.1 d.2.2.2 with | some h => d.1.revoked t n h | none => d.1) = _
  cases revokedHolder d.2.1 d.2.2.2 <;> rfl

/-! ### The transmitter of an aisle port (R235, R339) -/

theorem mem_of_queueHeads {l : List AisleMsg} {seen : List Nat} {m : AisleMsg} (h : m ∈ queueHeads l seen) : m ∈ l := by
  induction l generalizing seen with
  | nil => exact h
  | cons x l ih =>
    unfold queueHeads at h
    split at h
    · exact List.mem_cons_of_mem _ (ih h)
    · exact (List.mem_cons.1 h).elim (fun e => e ▸ List.mem_cons_self) fun h => List.mem_cons_of_mem _ (ih h)

/-- Every request of an aisle port's transmitter is a message that waits there with its credits reserved. -/
theorem State.aisleReqs_queued {s : State} {p : Nat} {r : ArbReq} (h : r ∈ s.aisleReqs p) :
    ∃ q ∈ (s.aisle p).queue, q.req = r.req ∧ q.flits = r.beats ∧ q.flits ≤ sgetD (s.aisle p).reserved q.req 0 := by
  unfold State.aisleReqs at h
  dsimp only at h
  split at h
  · cases h
  · obtain ⟨m, head, e⟩ := List.mem_filterMap.1 h
    split at e
    next credits => cases e; exact ⟨m, mem_of_queueHeads head, rfl, rfl, credits⟩
    next => cases e

/-- What a flit leaves with at port `p`: the receiver's acknowledgement, the credits due, and its number. -/
theorem State.putFlit_out (s : State) (t p : Nat) (f : Flit) : ∃ g : Flit,
    (s.putFlit t p f).out = s.out ++ [.flit t p g.bytes] ∧ g.ty = f.ty ∧ g.first = f.first ∧ g.last = f.last ∧ g.pool = f.pool ∧ g.payload = f.payload := by
  unfold State.putFlit
  extract_lets a c g b d u pg
  have sent : u.out = s.out ++ [.flit t p g.bytes] := rfl
  refine ⟨g, ?_, rfl, rfl, rfl, rfl, rfl⟩
  split
  · rw [State.count_out, sent]
  · split
    · rw [State.count_out, sent]
    · exact sent

theorem State.writeCompanion_out (s : State) (addr : Nat) (d : List Byte) : (s.writeCompanion addr d).out = s.out :=
  State.writeCompanion_only .out (by decide)

theorem State.postEvents_out (s : State) (n : Nat) : (s.postEvents n).out = s.out := by
  induction n generalizing s with
  | zero => rfl
  | succ n ih =>
    unfold State.postEvents
    dsimp only
    split
    · rfl
    · split
      · rfl
      · rw [ih, State.writeCompanion_out]

theorem State.post_out (s : State) : s.post.out = s.out := by
  unfold State.post
  exact holds_ite (Q := fun u : State => u.out = s.out)
    ((State.writeStatus_only .out (by decide)).trans (s.postEvents_out 256)) (s.postEvents_out 256)

/-- An event's record sends nothing but trace records. -/
theorem State.record_noPulse {s : State} {e : Ev} : NoPulse s (s.record e) := by
  unfold State.record
  extract_lets r recs lost rings s1 s2 s3 pg p s4 f
  have counted : s3.out = s.out :=
    (holds_ite (Q := fun u : State => u.out = s2.out) (State.count_out ..) rfl).trans (State.count_out s1 _ _ _)
  have pended : NoPulse s s4 := .of_out ((State.setPage_only .out (by decide)).trans counted)
  exact holds_ite (Q := NoPulse s) (pended.trans State.traceRec_noPulse) pended

/-- A charge sends nothing but trace records. -/
theorem State.charge_noPulse {s : State} {j o n : Nat} : NoPulse s (s.charge j o n) := by
  unfold State.charge
  refine holds_ite (Q := NoPulse s) (.refl s) ?_
  have counted : NoPulse s ((s.noteEnergy j o n).count (pageNo .ledger j) o n) :=
    .of_out ((State.count_out ..).trans (State.noteEnergy_only .out (by decide)))
  exact holds_ite (Q := NoPulse s) counted (counted.trans (NoPulse.trans
    ((NoPulse.of_out (State.setLedger_only .out (by decide))).trans State.record_noPulse) (.of_out (State.post_out _))))

section
variable {s : State} {t p : Nat}

/-- The next flit of the message that holds the port leaves, behind trace records of its charge. -/
theorem State.aisleBeat_out {h : Holder} {i : Nat} {m : AisleMsg}
    (held : lfind (fun x : AisleMsg => x.req = h.req) (s.aisle p).queue 0 = some (i, m)) :
    ∃ (f : Flit) (l : List Out), (s.aisleBeat t p h).out = s.out ++ l ++ [.flit t p f.bytes] ∧ (m.job = none → l = []) ∧
      f.ty = m.ty ∧ f.pool = m.pool ∧ f.payload = (m.body.drop (244 * h.moved)).take 244 ∧
      f.first = decide (h.moved = 0) ∧ f.last = (decide (h.moved + 1 = m.flits) && !m.cut) := by
  unfold State.aisleBeat
  dsimp only
  rw [held]
  dsimp only
  generalize moved : s.setAisle p _ = u
  have same : u.out = s.out := by rw [← moved]; rfl
  cases job : m.job with
  | none =>
    obtain ⟨f, out, ty, first, last, pool, payload⟩ := u.putFlit_out t p _
    exact ⟨f, [], by rw [out, same, List.append_nil], fun _ => rfl, ty, pool, payload, first, last⟩
  | some j =>
    obtain ⟨l, charged, -⟩ := State.charge_noPulse (s := u) (j := j) (o := 0x90) (n := 256)
    obtain ⟨f, out, ty, first, last, pool, payload⟩ := (u.charge j 0x90 256).putFlit_out t p _
    exact ⟨f, l, by rw [out, charged, same], nofun, ty, pool, payload, first, last⟩

variable (up : (s.aisle p).state = 3)
include up

theorem State.aisleSlot_holder {h : Holder} (room : (s.aisle p).replay.length < 512) : s.aisleSlot t p (some h) false
    = ((s.count (pageNo .aisle p) 0x88 (b2n ((s.aisle p).starved (some h.req)))).aisleBeat t p h, true) := by
  unfold State.aisleSlot
  simp [up, room]

theorem State.aisleSlot_idle : s.aisleSlot t p none false
    = ((s.count (pageNo .aisle p) 0x88 (b2n ((s.aisle p).starved none))).idleFlit t p, false) := by
  unfold State.aisleSlot
  simp [up]

end

theorem State.aisle_count (s : State) (pg o n p : Nat) : (s.count pg o n).aisle p = s.aisle p := by
  unfold State.aisle; rw [show (s.count pg o n).aisles = s.aisles from State.count_only .aisles (by decide)]

/-! ### The transmitter of a half-port (R235) -/

theorem sset_sset {α : Type} (m : List (Nat × α)) (k : Nat) (v w : α) : sset (sset m k v) k w = sset m k w := by
  induction m with
  | nil => simp [sset]
  | cons q m ih =>
    obtain ⟨i, x⟩ := q
    by_cases before : k < i
    · simp [sset, before]
    · by_cases same : i = k
      · simp [sset, same]
      · simp [sset, before, same, ih]

theorem State.setHalf_setHalf (s : State) (h : Nat) (v w : Half) : (s.setHalf h v).setHalf h w = s.setHalf h w := by
  unfold State.setHalf; rw [sset_sset]

theorem State.half_count (s : State) (pg o n h : Nat) : (s.count pg o n).half h = s.half h := by
  unfold State.half; rw [show (s.count pg o n).halves = s.halves from State.count_only .halves (by decide)]

theorem State.half_putSlot_queue (s : State) (t h : Nat) (x : Slot) : ((s.putSlot t h x).half h).queue = (s.half h).queue := by
  unfold State.putSlot
  extract_lets f c x f1 f2
  have sent : ((s.setHalf h f2).emit (.slot t h x.bytes)).half h = f2 := State.half_setHalf s h f2
  rw [sent]
  exact holds_ite (Q := fun f : Half => f.queue = (s.half h).queue) rfl rfl

section
variable (s : State) (t p i : Nat) (q : SlotReq)

theorem State.halfBeat_queue : ((s.halfBeat t p i q).half p).queue = ldel (s.half p).queue i := by
  unfold State.halfBeat
  extract_lets f u
  rw [State.half_count, State.half_putSlot_queue, State.half_setHalf]

/-- A beat does not see that its half-port was set to what it was. -/
theorem State.halfBeat_setHalf : (s.setHalf p (s.half p)).halfBeat t p i q = s.halfBeat t p i q := by
  unfold State.halfBeat
  rw [State.half_setHalf]
  dsimp only
  rw [State.setHalf_setHalf]

end

theorem Half.renak_early {f : Half} {t : Nat} (h : ∀ n, f.nakAt = some n → t < n + 3072) : f.renak t = f := by
  unfold Half.renak
  split
  next n asked => exact if_neg (by have := h n asked; omega)
  next => rfl

/-- The slot that waits for the holder's requester, with a credit for it, leaves. -/
theorem State.halfSlot_ready {s : State} {t p i : Nat} {h : Holder} {q : SlotReq} (up : (s.half p).state = 2)
    (room : (s.half p).replay.length < 256) (ready : readySlot (s.half p).credits h.req (s.half p).queue [] 0 = some (i, q))
    (early : ∀ n, (s.half p).nakAt = some n → t < n + 3072) :
    s.halfSlot t p (some h) false = (s.halfBeat t p i q, true) := by
  unfold State.halfSlot
  simp [up, Half.renak_early early, room, ready, State.halfBeat_setHalf]

/-! ### The arbiters by their kind (R231, R235) -/

section
variable (s : State) (t : Nat) (gap : Bool)

theorem State.arbBeat_plain {n : Nat} (out : Nat) (hold : Option Holder) (h : n < 1604) :
    s.arbBeat t n out hold gap = (s, !gap) := by
  unfold State.arbBeat
  rw [if_neg (by omega), if_neg (by omega)]

theorem State.arbBeat_aisle {p : Nat} (hold : Option Holder) (h : p < 12) :
    s.arbBeat t (1604 + p) 0 hold gap = s.aisleSlot t p hold gap := by
  unfold State.arbBeat
  rw [if_neg (by omega), if_pos (by omega), Nat.add_sub_cancel_left]

theorem State.arbBeat_half (p : Nat) (hold : Option Holder) :
    s.arbBeat t (1616 + p / 2) (p % 2) hold gap = s.halfSlot t p hold gap := by
  unfold State.arbBeat
  rw [if_pos (by omega), Nat.add_sub_cancel_left, show 2 * (p / 2) + p % 2 = p by omega]

/-- At an output that is no link's, the requests that fit it take part. -/
theorem State.requests_plain {n out : Nat} {l : List ArbReq} {r : ArbReq} (h : n < 1604) (asked : r ∈ s.requests n out l) :
    ∃ q ∈ l, q.req = r.req ∧ s.arbFits n out q = true := by
  unfold State.requests at asked
  rw [if_neg (by omega), if_neg (by omega)] at asked
  obtain ⟨q, fits, rfl⟩ := List.mem_map.1 asked
  obtain ⟨mem, fits⟩ := List.mem_filter.1 fits
  exact ⟨q, mem, holds_ite (Q := fun x : ArbReq => q.req = x.req) rfl rfl, fits⟩

theorem State.requests_aisle {p : Nat} (out : Nat) (l : List ArbReq) (h : p < 12) :
    s.requests (1604 + p) out l = s.aisleReqs p := by
  unfold State.requests
  rw [if_neg (by omega), if_pos (by omega), Nat.add_sub_cancel_left]

end

/-- Settles O48: the cycle of an output, the traffic of the links, the lock, and the decision, each by its own lemmas. -/
theorem arbitersDecide : Obligations.ArbitersDecide := by
  unfold Obligations.ArbitersDecide
  refine ⟨?cycle, fun s t n out hold gap plain =>
      ⟨s.arbBeat_plain t gap out hold plain, fun l r asked => s.requests_plain plain asked⟩, ?aisle, ?half,
    fun o h held locked => ⟨ArbOut.cut_young held, ArbOut.cut_old held locked⟩, fun s n out h => rfl, ?decision⟩
  case cycle =>
    intro s t n out y l gap hc a o
    have run := exec_arbCycleDecision t n out y l gap hc
    have there (present : a.arbPresent n = true) (output : a.arbOutput n out = true) :
        ¬ (!a.arbPresent n || !a.arbOutput n out) = true := by rw [present, output]; decide
    refine ⟨o.wait_hold, fun absent => ?_, fun present output => ⟨fun busy => ?_, ?_⟩⟩
    · refine run.trans (congrArg _ (if_pos ?_))
      obtain no | no := absent <;> simp only [a] at no <;> simp [no]
    · exact run.trans (congrArg _ ((if_neg (there present output)).trans (if_pos busy)))
    · intro free b x r idle u
      have decided : exec (.arbCycleDecision t n out y l gap) s = .next ((revokedHolder x.cut.1 r.2).elim u (u.revoked t n)) :=
        run.trans (congrArg _ ((if_neg (there present output)).trans (if_neg (Nat.not_lt.2 free))))
      refine ⟨fun none_ => ?_, fun h m held revoked => ?_⟩
      · rw [decided, revokedHolder_none none_]; rfl
      · rw [decided, revokedHolder_some revoked, held]; rfl
  case aisle =>
    intro s t p h i m port up _ held room
    have counted (n : Nat) : (s.count (pageNo .aisle p) 0x88 n).out = s.out := State.count_out ..
    refine ⟨?_, ?_, fun q => State.queueAisle_only .out (by decide), fun out l r asked => ?_⟩
    · rw [State.arbBeat_aisle s t false _ port, State.aisleSlot_holder up room]
      obtain ⟨f, l, out, rest⟩ := State.aisleBeat_out (t := t)
        (s := s.count (pageNo .aisle p) 0x88 (b2n ((s.aisle p).starved (some h.req)))) (by rw [State.aisle_count]; exact held)
      exact ⟨_, f, l, rfl, by rw [out, counted], rest⟩
    · rw [State.arbBeat_aisle s t false _ port, State.aisleSlot_idle up]
      obtain ⟨f, out, ty, -⟩ := (s.count (pageNo .aisle p) 0x88 (b2n ((s.aisle p).starved none))).putFlit_out t p (.plain 0 [])
      exact ⟨_, f, rfl, by rw [State.idleFlit, out, counted], ty⟩
    · exact State.aisleReqs_queued (s.requests_aisle out l port ▸ asked)
  case half =>
    intro s t p h i q port up room ready early
    exact ⟨(s.arbBeat_half t false p _).trans (State.halfSlot_ready up room ready early), s.halfBeat_queue t p i q,
      fun x => State.sendSlot_only .out (by decide)⟩
  case decision =>
    intro s n y l o e own r
    refine ⟨fun h held => ⟨fun locked => ?_, fun unlocked owns => ?_, fun unlocked foreign q w entry first stands => ?_⟩,
      fun free q w entry first stands => ?_, fun free none_ => ?_⟩
    · exact State.arbDecide_keeps s n y l o held (.inl locked)
    · rw [← owns]
      exact State.arbDecide_keeps s n y l o held (.inr owns)
    · exact State.arbDecide_revokes s n y l o held entry first stands unlocked foreign
    · exact State.arbDecide_grants s n y l o entry first stands free
    · subst none_
      exact State.arbDecide_idle s n y o free

end Sys2Proof.Machine
end

section
/-! PROOFS. Messages that leave a stall and that reach one (R208, R211, R216 to R218, R221 to R223, R225). -/
set_option Elab.async false
namespace Sys2Proof.Machine

/-! ### Lists -/

theorem getElem?_lset {α : Type} {l : List α} {i : Nat} {x : α} (y : α) (h : l[i]? = some x) : (lset l i y)[i]? = some y := by
  induction l generalizing i with
  | nil => cases h
  | cons z l ih => cases i with
    | zero => rfl
    | succ i => exact ih (i := i) h

theorem lfind_found {α : Type} {p : α → Bool} {l : List α} {k i : Nat} {x : α} (h : lfind p l k = some (i, x)) :
    p x = true ∧ k ≤ i ∧ l[i - k]? = some x := by
  induction l generalizing k with
  | nil => cases h
  | cons y l ih =>
    unfold lfind at h
    split at h
    next yes => cases h; exact ⟨yes, le_refl _, by simp⟩
    next no =>
      obtain ⟨yes, later, at_⟩ := ih h
      refine ⟨yes, by omega, ?_⟩
      rw [show i - k = (i - (k + 1)) + 1 by omega, List.getElem?_cons_succ, at_]

/-! ### Numbers in a stream (R221, R222) -/

section
variable (x : SlotSt) (cls dst tgt : Nat)

/-- Taking a number changes nothing of the slot but its streams. -/
theorem SlotSt.nextAlive_frame : ∃ l, (x.nextAlive cls dst tgt).1 = { x with streams := l } := by
  unfold SlotSt.nextAlive
  split
  · exact ⟨_, rfl⟩
  · split
    · exact ⟨_, rfl⟩
    · exact ⟨x.streams, rfl⟩

/-- The number depends on the streams alone. -/
theorem SlotSt.nextAlive_number {y : SlotSt} (h : y.streams = x.streams) :
    (y.nextAlive cls dst tgt).2 = (x.nextAlive cls dst tgt).2 := by
  unfold SlotSt.nextAlive
  rw [h]
  split
  · rfl
  · split <;> rfl

/-- The streams of a slot that a message of a class to a target belongs to. -/
def inStream (cls dst tgt : Nat) (x : Stream) : Bool := x.kind = cls && x.dst = dst && x.target = tgt

theorem SlotSt.nextAlive_known {i : Nat} {v : Stream} (h : lfind (inStream cls dst tgt) x.streams 0 = some (i, v)) :
    x.nextAlive cls dst tgt = ({ x with streams := lset x.streams i { v with next := (v.next + 1) % 256 } }, v.next, false) := by
  unfold SlotSt.nextAlive
  unfold inStream at h
  rw [h]

theorem SlotSt.nextAlive_new (h : lfind (inStream cls dst tgt) x.streams 0 = none) : x.nextAlive cls dst tgt
    = if x.streams.length < 64 then ({ x with streams := x.streams ++ [⟨cls, dst, tgt, 1⟩] }, 0, false)
      else (x, 0, true) := by
  unfold SlotSt.nextAlive
  unfold inStream at h
  rw [h]

end

/-! ### A message leaves (R208, R211, R216) -/

/-- The header of a message as it leaves slot `k`: its sender, job and step, and its number in its stream (R211, R221). -/
def Stall.sentHdr (st : Stall) (sn k step : Nat) (h : Hdr) (n : Nat) : Hdr :=
  let a := (st.slotSt k).nextAlive h.stream.1 h.dst h.stream.2
  { h with src := sn, job := (st.jobSlot k).job, stp := step % 4, alive := a.2.1, untracked := a.2.2, len := n }

/-- A message on its way: within the device by its route, else to the device at its position (R216). -/
def sentMsg (sn t cls : Nat) (h : Hdr) (ws : List Line) (status : W32) : Eff :=
  if remoteStall h.dst then .remote t (remotePos h.dst) h.bits ws (msgCrc h.bits ws status) status
  else .emit (.msg t (stallRoute sn h.dst h.kind cls) h.bits (flitBytes h.bits ws (msgCrc h.bits ws status) status))

/-- What a message takes from the state of its stall is the same in two of them. -/
structure Stall.SameSender (k : Nat) (st u : Stall) : Prop where
  page : u.page = st.page
  words : u.words = st.words
  streams : (u.slotSt k).streams = (st.slotSt k).streams
  step : (u.slotSt k).step = (st.slotSt k).step

theorem Stall.SameSender.refl (k : Nat) (st : Stall) : SameSender k st st := ⟨rfl, rfl, rfl, rfl⟩

theorem Stall.SameSender.trans {k : Nat} {st u v : Stall} (h : SameSender k st u) (g : SameSender k u v) : SameSender k st v :=
  ⟨g.page.trans h.page, g.words.trans h.words, g.streams.trans h.streams, g.step.trans h.step⟩

theorem Stall.SameSender.setSlot {k : Nat} (st : Stall) {x : SlotSt} (streams : x.streams = (st.slotSt k).streams)
    (step : x.step = (st.slotSt k).step) : SameSender k st (st.setSlot k x) :=
  ⟨rfl, rfl, by rw [Stall.slotSt_setSlot, streams], by rw [Stall.slotSt_setSlot, step]⟩

section
variable (st : Stall) (sn k t step : Nat) (h : Hdr) (ws : List Line) (status : W32)

theorem Stall.send_eff : (st.send sn k t step h ws status).2
    = [sentMsg sn t (st.jobSlot k).cls (st.sentHdr sn k step h ws.length) ws status] := rfl

theorem Stall.SameSender.send_eff {u : Stall} (same : SameSender k st u) : (u.send sn k t step h ws status).2
    = [sentMsg sn t (st.jobSlot k).cls (st.sentHdr sn k step h ws.length) ws status] := by
  have job : u.jobSlot k = st.jobSlot k := by unfold Stall.jobSlot Stall.reg; rw [same.page]
  have number := SlotSt.nextAlive_number (st.slotSt k) h.stream.1 h.dst h.stream.2 same.streams
  rw [Stall.send_eff, job]
  unfold Stall.sentHdr
  dsimp only
  rw [job, number]

theorem Stall.send_accounts : ((st.send sn k t step h ws status).1.slotSt k).accounts = (st.slotSt k).accounts := by
  have slot : (st.send sn k t step h ws status).1.slotSt k = ((st.slotSt k).nextAlive h.stream.1 h.dst h.stream.2).1 :=
    Stall.slotSt_setSlot ..
  obtain ⟨l, frame⟩ := (st.slotSt k).nextAlive_frame h.stream.1 h.dst h.stream.2
  rw [slot, frame]

end

/-- Of a stall nothing but the agenda changes. -/
def Stall.AgendaOnly (st u : Stall) : Prop := ∃ agenda, u = { st with agenda := agenda }

theorem Stall.AgendaOnly.once {st u : Stall} (h : AgendaOnly st u) (t : Nat) (d : Due) : AgendaOnly st (u.once t d) := by
  obtain ⟨agenda, rfl⟩ := h
  exact holds_ite (Q := AgendaOnly st) ⟨agenda, rfl⟩ ⟨_, rfl⟩

/-- Claims on ports and rows touch nothing but the claims and the agenda. -/
theorem Stall.claim_frame (st : Stall) (l : List Access) :
    ∃ agenda, st.claim l = { st with agenda := agenda, claims := l ++ st.claims } := by
  unfold Stall.claim
  generalize claimed : l.foldl _ st = u
  obtain ⟨agenda, rfl⟩ : AgendaOnly st u := by
    rw [← claimed]
    refine holds_foldl (Q := AgendaOnly st) ⟨st.agenda, rfl⟩ fun v a h => ?_
    have clash : AgendaOnly st (if v.claims.any fun c => c.tick = a.tick && c.port = a.port && !c.sameWord a
        then v.once a.tick (.clash a.port) else v) := holds_ite (Q := AgendaOnly st) (h.once _ _) h
    exact holds_ite (Q := AgendaOnly st) (clash.once _ _) clash
  exact ⟨agenda, rfl⟩

theorem Stall.claim_words (st : Stall) (l : List Access) : (st.claim l).words = st.words := by
  obtain ⟨agenda, claimed⟩ := st.claim_frame l
  rw [claimed]

theorem Stall.claim_slots (st : Stall) (l : List Access) : (st.claim l).slots = st.slots := by
  obtain ⟨agenda, claimed⟩ := st.claim_frame l
  rw [claimed]

/-- A BULK uses up a chit of its account (R218). -/
def Stall.spendChit (st : Stall) (k dst ring : Nat) : Stall :=
  match st.account k dst ring with
  | some (i, a) => st.setSlot k { st.slotSt k with accounts := lset (st.slotSt k).accounts i { a with count := a.count - 1 } }
  | none => st

theorem Stall.spendChit_same (st : Stall) (k dst ring : Nat) : SameSender k st (st.spendChit k dst ring) := by
  unfold Stall.spendChit
  split
  · exact .setSlot st rfl rfl
  · exact .refl k st

theorem Stall.spendChit_account {st : Stall} {k dst ring i : Nat} {c : Account} (h : st.account k dst ring = some (i, c)) :
    ((st.spendChit k dst ring).slotSt k).accounts[i]? = some { c with count := c.count - 1 } := by
  obtain ⟨-, -, found⟩ := lfind_found h
  unfold Stall.spendChit
  rw [h]
  dsimp only
  rw [Stall.slotSt_setSlot]
  exact getElem?_lset _ (by simpa using found)

theorem Stall.foldSend_same (st : Stall) (k : Nat) (d : Send) (ws : List Line) : SameSender k st (st.foldSend k d ws) := by
  unfold Stall.foldSend
  split
  · exact .setSlot st rfl rfl
  · exact .refl k st

theorem Stall.foldSend_accounts (st : Stall) (k : Nat) (d : Send) (ws : List Line) :
    ((st.foldSend k d ws).slotSt k).accounts = (st.slotSt k).accounts := by
  unfold Stall.foldSend
  split
  · dsimp only
    rw [Stall.slotSt_setSlot]
  · rfl

section
variable (st : Stall) (sn k t dst : Nat) (w : CWord) (d : Send) (bulk : Bool)

/-- The words of payload that a SEND or BULK carries, with their poison (R208). -/
def Stall.sendPayload : List (Line × Bool) := st.payload d.src d.word (if bulk then d.len else if d.kind = 1#3 then 1 else 0)

/-- The words that leave: the payload as the store holds it, or the sum of its tile. -/
def Stall.sendLines : List Line :=
  if d.csum && (if bulk then d.len else if d.kind = 1#3 then 1 else 0) = 1 then [BitVec.ofNat 512 (st.tileSum d.src).toNat]
  else (st.sendPayload d bulk).map (·.1)

/-- Does the message carry a tile status? -/
def sendStates : Bool :=
  (if bulk then d.len else if d.kind = 1#3 then 1 else 0) != 0 && bulk && (d.src.store = .p || d.src.store = .g)

/-- The stall as the message finds it: its chit used up and its words taken into the sender's running value. -/
def Stall.beforeSend : Stall :=
  let u := if bulk then st.spendChit k dst d.ring.toNat else st
  if (if bulk then d.len else if d.kind = 1#3 then 1 else 0) = 0 then u else u.foldSend k d (st.sendLines d bulk)

theorem Stall.spent_same : SameSender k st (if bulk then st.spendChit k dst d.ring.toNat else st) :=
  holds_ite (Q := SameSender k st) (st.spendChit_same k dst d.ring.toNat) (.refl k st)

theorem Stall.beforeSend_same : SameSender k st (st.beforeSend k dst d bulk) := by
  unfold Stall.beforeSend
  have spent := st.spent_same k dst d bulk
  exact holds_ite (Q := SameSender k st) spent (spent.trans (Stall.foldSend_same ..))

theorem Stall.beforeSend_account {i : Nat} {c : Account} (b : bulk = true) (h : st.account k dst d.ring.toNat = some (i, c)) :
    ((st.beforeSend k dst d bulk).slotSt k).accounts[i]? = some { c with count := c.count - 1 } := by
  unfold Stall.beforeSend
  have spent := Stall.spendChit_account h
  subst b
  dsimp only
  rw [if_pos rfl]
  split
  · exact spent
  · rw [Stall.foldSend_accounts]
    exact spent

/-- The message of a SEND or BULK leaves, one tick after the issue. -/
def Stall.sentBy : Stall × List Eff :=
  (st.beforeSend k dst d bulk).send sn k (t + 1) (st.slotSt k).step
    (sendHdr d bulk dst ((st.sendPayload d bulk).any (·.2)) (sendStates d bulk)) (st.sendLines d bulk)
    (if sendStates d bulk then st.tstat (tileKey d.src) else 0#32)

/-- Once its message has left, the word claims its ports and flies. -/
theorem Stall.sendRun_eq : ∃ l c, st.sendRun sn k t dst w d bulk
    = (((st.sentBy sn k t dst d bulk).1.claim l).fly k .ex c w, (st.sentBy sn k t dst d bulk).2) := by
  unfold Stall.sentBy
  rw [← (st.spent_same k dst d bulk).step]
  exact ⟨_, _, rfl⟩

theorem Stall.sendRun_words : (st.sendRun sn k t dst w d bulk).1.words = st.words := by
  obtain ⟨l, c, run⟩ := st.sendRun_eq sn k t dst w d bulk
  rw [run]
  exact (Stall.claim_words _ l).trans (st.beforeSend_same k dst d bulk).words

theorem Stall.sendRun_eff : (st.sendRun sn k t dst w d bulk).2 = [sentMsg sn (t + 1) (st.jobSlot k).cls
    (st.sentHdr sn k (st.slotSt k).step (sendHdr d bulk dst ((st.sendPayload d bulk).any (·.2)) (sendStates d bulk))
      (st.sendLines d bulk).length) (st.sendLines d bulk) (if sendStates d bulk then st.tstat (tileKey d.src) else 0#32)] := by
  obtain ⟨l, c, run⟩ := st.sendRun_eq sn k t dst w d bulk
  rw [run]
  exact (st.beforeSend_same k dst d bulk).send_eff ..

theorem Stall.sendRun_account {i : Nat} {c : Account} (b : bulk = true) (h : st.account k dst d.ring.toNat = some (i, c)) :
    ((st.sendRun sn k t dst w d bulk).1.slotSt k).accounts[i]? = some { c with count := c.count - 1 } := by
  obtain ⟨l, due, run⟩ := st.sendRun_eq sn k t dst w d bulk
  have slot : (st.sendRun sn k t dst w d bulk).1.slotSt k = (st.sentBy sn k t dst d bulk).1.slotSt k := by
    rw [run]
    exact congrArg (sgetD · k .empty) (Stall.claim_slots _ l)
  have kept : ((st.sentBy sn k t dst d bulk).1.slotSt k).accounts = ((st.beforeSend k dst d bulk).slotSt k).accounts :=
    Stall.send_accounts ..
  rw [slot, kept]
  exact st.beforeSend_account k dst d bulk b h

end

/-- A GRANT holds the slots that it promises outstanding and leaves as one message (R218). -/
theorem Stall.grant_run (st v : Stall) (sn k t : Nat) (ctx : JobCtx) (w : CWord) {g : Grant} {dst : Nat}
    (place : placeOf ctx.place g.pitch.toNat g.stall.toNat = some dst) :
    let r := (grantSpec st sn k t ctx w g).run v
    (r.1.ring g.ring.toNat).outstanding = (v.ring g.ring.toNat).outstanding + g.count ∧
    r.2 = [sentMsg sn (t + 1) (v.jobSlot k).cls (v.sentHdr sn k (v.slotSt k).step { Hdr.toward 3 dst with
      ring := g.ring.toNat, arg := g.count + 2 ^ 13 * (st.ringCfg g.ring.toNat).k } 0) [] 0#32] := by
  have target : (placeOf ctx.place g.pitch.toNat g.stall.toNat).getD 0 = dst := by rw [place]; rfl
  subst target
  exact ⟨congrArg RingSt.outstanding (sgetD_sput_same RingSt.empty v.rings g.ring.toNat _), rfl⟩

/-- Actions that are put off touch nothing else of the stall. -/
theorem Stall.laters_same (st : Stall) (k t : Nat) (l : List Act) : SameSender k st (st.laters t l) :=
  holds_foldl (Q := SameSender k st) (.refl k st) fun _ _ h => ⟨h.page, h.words, h.streams, h.step⟩

/-- A remote increment leaves the tick after its word's completion, with the step of the word (R217). -/
theorem Stall.complete_remote (st : Stall) (sn k step c due pc : Nat) (e : Eng) (ctx : JobCtx) {w : Common} {dst : Nat}
    (kind : w.sig.kind = 4#3) (place : placeOf ctx.place w.sig.pitch.toNat w.sig.stall.toNat = some dst) :
    (st.complete sn k step c due pc e ctx w).2 = [sentMsg sn (c + 1) (st.jobSlot k).cls (st.sentHdr sn k step
      { Hdr.toward 2 dst with tallyEn := true, tally := w.sig.index.toNat, inc := w.sig.value.toNat } 0) [] 0#32] := by
  unfold Stall.complete
  dsimp only
  rw [if_pos kind, place]
  exact (st.laters_same k c _).send_eff ..

/-! ### The first flit of a message (R217, R218, R222, R223) -/

section
variable (st : Stall) (sn t : Nat) (b : BitVec 128) (p : List (Nat × Line))

/-- The flits of an accepted message that are still to come stand in the agenda, and the message is held as arriving. -/
theorem Stall.accepted_eq (ix : Option Nat) : st.accepted t b ix p = { st with
    inbound := st.inbound ++ [⟨b, t, ix, 0, false, none, [], p.map (·.2), []⟩]
    agenda := st.agenda ++ p.map fun q => (t + q.1, .flit b) } := by
  have due (l : List (Nat × Line)) (u : Stall) : l.foldl (fun s q => s.at_ (t + q.1) (.flit b)) u
      = { u with agenda := u.agenda ++ l.map fun q => (t + q.1, .flit b) } := by
    induction l generalizing u with
    | nil => simp
    | cons q l ih => rw [List.foldl_cons, ih, List.map_cons, List.append_cons]; rfl
  exact due p _

variable {sn t b p}

/-- A wrong check drops the message. -/
theorem Stall.flit0_unchecked (bad : hdrOk b = false) : st.flit0 sn t b p
    = (st.bump 0x6A8 1, [.ev (st.ev sn t 0x3101 0 (hdrOf b).job (hdrOf b).aux)]) := by
  unfold Stall.flit0
  exact if_pos (by rw [bad]; rfl)

variable (whole : hdrOk b = true)
include whole

/-- A field out of range, or a ring or tally of another job, drops the message. -/
theorem Stall.flit0_malformed (bad : (hdrOf b).malformed = true ∨ st.msgForeign sn (hdrOf b) = true) : st.flit0 sn t b p
    = (st.bump 0x740 1, [.ev (st.ev sn t 0x3105 0 (hdrOf b).job (hdrOf b).aux)]) := by
  unfold Stall.flit0
  exact (if_neg (by rw [whole]; decide)).trans (if_pos (by simpa using bad))

variable (formed : (hdrOf b).malformed = false) (own : st.msgForeign sn (hdrOf b) = false)
include formed own

/-- Another step drops the message. -/
theorem Stall.flit0_otherStep (other : (hdrOf b).stp ≠ st.stepOf (hdrOf b).job % 4) : st.flit0 sn t b p
    = (st.bump 0x740 1, [.ev (st.ev sn t 0x3107 0 (hdrOf b).job (hdrOf b).aux)]) := by
  unfold Stall.flit0
  exact (if_neg (by rw [whole]; decide)).trans ((if_neg (by rw [formed, own]; decide)).trans (if_pos (by simpa using other)))

variable (step : (hdrOf b).stp = st.stepOf (hdrOf b).job % 4) {u : Stall} {e : List Eff}
include step

theorem Stall.flit0_repeated (alive : st.aliveCheck sn t (hdrOf b) = (false, u, e)) : st.flit0 sn t b p = (u, e) := by
  unfold Stall.flit0
  simp [whole, formed, own, step, alive]

variable (alive : st.aliveCheck sn t (hdrOf b) = (true, u, e))
include alive

/-- A SEND, an increment or a GRANT of a right stream is accepted; a SEND's slot is the one that its header names. -/
theorem Stall.flit0_small (kind : (hdrOf b).kind ≠ 0) : st.flit0 sn t b p
    = (u.accepted t b (if (hdrOf b).kind = 1 then some ((hdrOf b).arg % 4096) else none) p, e) := by
  unfold Stall.flit0
  simp [whole, formed, own, step, alive, kind]

/-- A BULK for whose ring no slot is promised ends (R218). -/
theorem Stall.flit0_noChit (kind : (hdrOf b).kind = 0) (none_ : (u.ring (hdrOf b).ring).outstanding = 0) : st.flit0 sn t b p
    = (u, e ++ [.ev (u.ev sn t 0x3205 2 (hdrOf b).job (hdrOf b).aux)]) := by
  unfold Stall.flit0
  simp [whole, formed, own, step, alive, kind, none_]

/-- A BULK takes a promised slot of its ring, behind those that are filled and landing. -/
theorem Stall.flit0_bulk (kind : (hdrOf b).kind = 0) (promised : (u.ring (hdrOf b).ring).outstanding ≠ 0) :
    let g := u.ring (hdrOf b).ring
    let ix := (g.tail + g.held + g.landing.length) % 65536
    let inc := (u.msgTally (hdrOf b)).map fun i => (i, (hdrOf b).inc, (hdrOf b).aux)
    st.flit0 sn t b p = ((u.setRing (hdrOf b).ring { g with
      outstanding := g.outstanding - 1
      landing := g.landing ++ [⟨ix, false, inc, []⟩] }).accepted t b (some ix) p, e) := by
  unfold Stall.flit0
  simp [whole, formed, own, step, alive, kind, promised]

end

/-! ### The alive count (R221, R222) -/

section
variable (st : Stall) (sn t : Nat) (h : Hdr)

/-- The alive counts that the stall knows of the message's stream. -/
def Stall.knownAlive : List (Nat × Nat) := sgetD st.alive (st.aliveKey h) []

/-- The message's alive count is recorded for its sender. -/
def Stall.noteAlive : Stall := { st with alive := sset st.alive (st.aliveKey h) (sset (st.knownAlive h) h.src h.alive) }

theorem Stall.aliveCheck_untracked (u : h.untracked = true) : st.aliveCheck sn t h = (true, st.bump 0x778 1, []) := by
  unfold Stall.aliveCheck
  exact if_pos u

variable (tracked : h.untracked = false)
include tracked

/-- The first message of a stream is recorded where the table has room. -/
theorem Stall.aliveCheck_new (new : sget (st.knownAlive h) h.src = none) : st.aliveCheck sn t h
    = if (if h.stream.1 = 2 then 1 else 8) ≤ (st.knownAlive h).length then (true, st.bump 0x778 1, [])
      else (true, st.noteAlive h, []) := by
  unfold Stall.aliveCheck
  unfold Stall.knownAlive at new
  dsimp only
  rw [if_neg (by rw [tracked]; decide), new]
  rfl

/-- A count that repeats ends the message; any other is recorded. -/
theorem Stall.aliveCheck_known {v : Nat} (known : sget (st.knownAlive h) h.src = some v) : st.aliveCheck sn t h
    = if h.alive = v then (false, st.bump 0x6B0 1, [.ev (st.ev sn t 0x3102 0 h.job h.aux)])
      else if h.alive = (v + 1) % 256 then (true, st.noteAlive h, [])
      else (true, (st.noteAlive h).bump 0x6B8 1, [.ev (st.ev sn t 0x3103 0 h.job (h.aux + 2 ^ 48 * v + 2 ^ 56 * h.alive))]) := by
  unfold Stall.aliveCheck
  unfold Stall.knownAlive at known
  dsimp only
  rw [if_neg (by rw [tracked]; decide), known]
  rfl

end

/-! ### The words of a message (R217, R225) -/

theorem lfind_of_stronger {α : Type} {p q : α → Bool} {l : List α} {k i : Nat} {x : α} (h : lfind p l k = some (i, x))
    (stronger : ∀ y, q y = true → p y = true) (holds : q x = true) : lfind q l k = some (i, x) := by
  induction l generalizing k with
  | nil => cases h
  | cons y l ih =>
    unfold lfind at h ⊢
    split at h
    next yes => cases h; rw [if_pos holds]
    next no => rw [if_neg fun also => no (stronger y also), ih h]

theorem Stall.arriving_found {st : Stall} {b : BitVec 128} {i : Nat} {m : Inbound} (h : st.arriving b = some (i, m)) :
    m.hdr = b ∧ st.inbound[i]? = some m := by
  obtain ⟨is, -, found⟩ := lfind_found h
  simp only [Bool.and_eq_true, decide_eq_true_eq] at is
  exact ⟨is.1, found⟩

theorem Stall.partly_of_arriving {st : Stall} {b : BitVec 128} {i : Nat} {m : Inbound} (h : st.arriving b = some (i, m)) :
    st.partly b m.payload.length = some (i, m) := by
  obtain ⟨is, -, -⟩ := lfind_found h
  exact lfind_of_stronger h (fun y stronger => by simp only [Bool.and_eq_true] at stronger ⊢; exact stronger.1)
    (by simpa using is)

theorem Stall.wakeFor_frame (st : Stall) (t b job : Nat) : ∃ banks, st.wakeFor t b job = { st with banks := banks } := by
  unfold Stall.wakeFor
  exact holds_ite (Q := fun u : Stall => ∃ banks, u = { st with banks := banks }) ⟨_, rfl⟩ ⟨st.banks, rfl⟩

/-- Words that wait for their banks join those that wait already, and may wake their banks. -/
theorem Stall.queueSteal_frame (st : Stall) (t : Nat) (l : List Steal) : ∃ since banks,
    st.queueSteal t l = { st with steal := st.steal ++ l, stealFrom := since, banks := banks } := by
  unfold Stall.queueSteal
  split
  next none_ => exact ⟨st.stealFrom, st.banks, by rw [List.isEmpty_iff.1 none_, List.append_nil]⟩
  next =>
    refine ⟨if st.steal.isEmpty then t else st.stealFrom, ?_⟩
    refine holds_foldl (Q := fun u : Stall => ∃ banks, u = { st with
      steal := st.steal ++ l, stealFrom := if st.steal.isEmpty then t else st.stealFrom, banks := banks }) ⟨st.banks, rfl⟩ ?_
    rintro _ x ⟨banks, rfl⟩
    split
    · exact ⟨banks, rfl⟩
    · exact (Stall.wakeFor_frame _ t x.bank x.job).imp fun _ woken => woken

/-- Payload words `ws` of a message as they wait for their banks. -/
def Stall.waitingWords (st : Stall) (t : Nat) (m : Inbound) (ws : List (Line × Bool)) : List Steal :=
  ws.zipIdx.map fun q =>
    let a := st.msgPlace m (m.payload.length + q.2)
    ⟨bankOf a.1 a.2, false, none, m.hdr, (hdrOf m.hdr).job, .word a.1 a.2, q.1.1, q.1.2, t⟩

/-- A message of which the words `ws` have come. -/
def Inbound.took (m : Inbound) (t : Nat) (ws : List (Line × Bool)) : Inbound :=
  { m with
    since := t, waiting := m.waiting + ws.length, payload := m.payload ++ ws.map (·.1), coming := m.coming.drop ws.length }

theorem Stall.takeWords_frame (st : Stall) (t i : Nat) (m : Inbound) (ws : List (Line × Bool)) : ∃ since banks,
    st.takeWords t i m ws = { st with
      inbound := lset st.inbound i (m.took t ws), steal := st.steal ++ st.waitingWords t m ws
      stealFrom := since, banks := banks } :=
  Stall.queueSteal_frame { st with inbound := lset st.inbound i (m.took t ws) } t (st.waitingWords t m ws)

theorem Stall.mem_waitingWords (st : Stall) (t : Nat) (m : Inbound) {ws : List (Line × Bool)} {q : Nat} {d : Line × Bool}
    (h : ws[q]? = some d) : ∃ w ∈ st.waitingWords t m ws, w.place = .word (st.msgPlace m (m.payload.length + q)).1
      (st.msgPlace m (m.payload.length + q)).2 ∧ w.data = d.1 ∧ w.poison = d.2 :=
  ⟨_, List.mem_map.2 ⟨(d, q), List.mem_zipIdx_iff_getElem?.2 h, rfl⟩, rfl, rfl, rfl⟩

/-- The next flit brings the next word, poisoned where the header says so. -/
theorem Stall.nextFlit_next {st : Stall} (t : Nat) {b : BitVec 128} {i : Nat} {m : Inbound} {d : Line} {r : List Line}
    (h : st.arriving b = some (i, m)) (coming : m.coming = d :: r) (more : m.payload.length < (hdrOf b).len) :
    st.nextFlit t b = st.takeWords t i m [(d, (hdrOf b).poison)] := by
  unfold Stall.nextFlit
  rw [h]
  dsimp only
  rw [coming]
  exact if_pos more

section
variable {st : Stall} (sn t : Nat) {b : BitVec 128} {i : Nat} {m : Inbound} (h : st.arriving b = some (i, m))
include h

/-- What the last flit does where the check over what arrived holds, and where it fails. -/
theorem Stall.lastFlit_arriving (l : Option Line) (x w : W32) :
    let z := { m with coming := m.coming ++ l.toList }
    let ok : Bool := x = msgCrc b (m.payload ++ z.rest) w
    let u := if ok then st else st.bump 0x6A8 1
    st.lastFlit sn t b l x w = (u.finishMsg t i z (z.rest.map fun d => (d, (hdrOf b).poison))
      (if (hdrOf b).statusValid then some w else none) !ok,
        if ok then [] else [.ev (u.ev sn t 0x3101 0 (hdrOf b).job (hdrOf b).aux)]) := by
  unfold Stall.lastFlit
  rw [h]
  simp only [decide_eq_true_eq]

/-- 1,024 ticks without a flit end the message, its missing words zero and poisoned (R225). -/
theorem Stall.truncate_arriving : st.truncate sn t b m.payload.length = if t < m.since + 1024 then (st, [])
    else (st.finishMsg t i m (m.rest.map fun _ => (0#512, true)) none false,
      [.ev (st.ev sn t 0x3104 0 (hdrOf b).job (hdrOf b).aux), .count (pageNo .cdie (sn / 128)) 0x58 1]) := by
  unfold Stall.truncate
  rw [Stall.partly_of_arriving h]

end

/-- Once a message is poisoned so is every word of it that waits (R217). -/
theorem Stall.spoil_steal (st : Stall) (m : Inbound) :
    ∀ w ∈ (st.spoil m).steal, w.hdr = m.hdr → w.tag = none → w.poison = true := by
  intro w mem hdr tag
  obtain ⟨x, -, rfl⟩ := List.mem_map.1 mem
  split at hdr
  next own => rw [if_pos own]
  next other =>
    rw [if_neg other] at tag
    exact absurd (by simp [hdr, tag]) other

theorem Stall.showAt_steal (st : Stall) (t key : Nat) : (st.showAt t key).steal = st.steal := by
  unfold Stall.showAt
  exact holds_ite (Q := fun u : Stall => u.steal = st.steal) rfl rfl

theorem Stall.foldRecv_steal (st : Stall) (job : Nat) (ws : List Line) : (st.foldRecv job ws).steal = st.steal := by
  unfold Stall.foldRecv
  split <;> rfl

/-- The landing of a message takes up no word that waits. -/
theorem Stall.land_steal (st : Stall) (t : Nat) (m : Inbound) : (st.land t m).steal = st.steal := by
  have loop {l : List Nat} {f : Stall → Nat → Stall} (u : Stall) (k : ∀ v a, (f v a).steal = v.steal) :
      (l.foldl f u).steal = u.steal := holds_foldl (Q := fun v : Stall => v.steal = u.steal) rfl fun v a e => (k v a).trans e
  have either {c : Prop} [Decidable c] {u v : Stall} (e : u.steal = st.steal) (k : v.steal = st.steal) :
      (if c then u else v).steal = st.steal := holds_ite (Q := fun u : Stall => u.steal = st.steal) e k
  unfold Stall.land
  extract_lets h c keys stamped stated shown g ix folded small
  have stamped_ : stamped.steal = st.steal := loop st fun _ _ => rfl
  have stated_ : stated.steal = st.steal := by
    unfold stated
    split
    · exact either stamped_ stamped_
    · exact stamped_
  have shown_ : shown.steal = st.steal := either ((loop stated fun v key => v.showAt_steal t key).trans stated_) stated_
  split
  · exact shown_
  · split <;> exact shown_
  · have folded_ : folded.steal = st.steal := either ((shown.foldRecv_steal h.job m.payload).trans shown_) shown_
    have small_ : small.steal = st.steal := either folded_ folded_
    split <;> exact small_

section
variable {st : Stall} (t : Nat) {i : Nat} {m : Inbound} (found : st.inbound[i]? = some m) (rest : List (Line × Bool))
  (status : Option W32)
include found

/-- The last words of a message arrive; a bad check poisons it; it lands once none of its words waits. -/
theorem Stall.finishMsg_eq (bad : Bool) :
    let e : Inbound := { m with last := true, status := status }
    let u := st.takeWords t i e rest
    let v := if bad then u.spoil (e.took t rest) else u
    st.finishMsg t i m rest status bad
      = if (e.took t rest).waiting = 0 then ({ v with inbound := ldel v.inbound i }).land t (e.took t rest) else v := by
  intro e u v
  obtain ⟨since, banks, frame⟩ := st.takeWords_frame t i e rest
  have held : (u.inbound[i]?).getD e = e.took t rest := by
    unfold u
    rw [frame, getElem?_lset _ found]
    rfl
  unfold Stall.finishMsg
  dsimp only
  rw [held]

/-- Words that come with the end of a message wait for their banks, and no stored word changes. -/
theorem Stall.finishMsg_waits (some_ : rest ≠ []) : (st.finishMsg t i m rest status false).words = st.words ∧
    ∀ (q : Nat) (d : Line × Bool), rest[q]? = some d → ∃ w ∈ (st.finishMsg t i m rest status false).steal,
      w.place = .word (st.msgPlace m (m.payload.length + q)).1 (st.msgPlace m (m.payload.length + q)).2 ∧
        w.data = d.1 ∧ w.poison = d.2 := by
  have waits : m.waiting + rest.length ≠ 0 := by have := List.length_pos_iff.2 some_; omega
  obtain ⟨since, banks, frame⟩ := st.takeWords_frame t i { m with last := true, status := status } rest
  have ends := (Stall.finishMsg_eq t found rest status false).trans (if_neg waits)
  rw [ends, if_neg (by decide), frame]
  refine ⟨rfl, fun q d at_ => ?_⟩
  obtain ⟨w, mem, is⟩ := st.mem_waitingWords t { m with last := true, status := status } at_
  exact ⟨w, List.mem_append_right _ mem, is⟩

/-- A bad check poisons every word of the message that waits. -/
theorem Stall.finishMsg_spoils :
    ∀ w ∈ (st.finishMsg t i m rest status true).steal, w.hdr = m.hdr → w.tag = none → w.poison = true := by
  rw [Stall.finishMsg_eq t found rest status true, if_pos rfl]
  split
  · rw [Stall.land_steal]
    exact Stall.spoil_steal _ _
  · exact Stall.spoil_steal _ _

end

/-! ### The commands -/

theorem exec_msgFlit0Arrival {s : State} (t sn : Nat) (b : BitVec 128) (p : List (Nat × Line)) (hc : s.clocked = true) :
    exec (.msgFlit0Arrival t sn ⟨b, p⟩) s = .next ((s.advance t).onStall t sn fun st => st.flit0 sn t b p) :=
  (State.onStall_advance_only t sn).answers hc rfl

theorem exec_msgLastFlitArrival {s : State} (t sn : Nat) (b : BitVec 128) (l : Option Line) (x w : W32) (hc : s.clocked = true) :
    exec (.msgLastFlitArrival t sn b l x w) s = .next ((s.advance t).onStall t sn fun st => st.lastFlit sn t b l x w) :=
  (State.onStall_advance_only t sn).answers hc rfl

theorem exec_msgTruncationTimeout {s : State} (t sn : Nat) (b : BitVec 128) (n : Nat) (hc : s.clocked = true) :
    exec (.msgTruncationTimeout t sn b n) s = .next ((s.advance t).onStall t sn fun st => st.truncate sn t b n) :=
  (State.onStall_advance_only t sn).answers hc rfl

theorem sentMsg_here {sn t cls : Nat} {h : Hdr} {ws : List Line} {status : W32} (here : remoteStall h.dst = false) :
    sentMsg sn t cls h ws status
      = .emit (.msg t (stallRoute sn h.dst h.kind cls) h.bits (flitBytes h.bits ws (msgCrc h.bits ws status) status)) := by
  unfold sentMsg
  rw [here]
  rfl

theorem sentMsg_away {sn t cls : Nat} {h : Hdr} {ws : List Line} {status : W32} (away : remoteStall h.dst = true) :
    sentMsg sn t cls h ws status = .remote t (remotePos h.dst) h.bits ws (msgCrc h.bits ws status) status := by
  unfold sentMsg
  rw [away]
  rfl

/-- Settles O46: what leaves by the lemmas of the sender, what arrives by those of the first flit, the alive count and the
words. -/
theorem messagesLeaveAndReachStalls : Obligations.MessagesLeaveAndReachStalls := by
  unfold Obligations.MessagesLeaveAndReachStalls
  refine ⟨?send, ?grant, ?increment, ?number, ?commands, ?arrival⟩
  case send =>
    intro st sn k t dst w d bulk x n pay ws stv status h0 a h r
    exact ⟨st.sendRun_words sn k t dst w d bulk,
      fun here => (st.sendRun_eff sn k t dst w d bulk).trans (congrArg (fun e => [e]) (sentMsg_here here)),
      fun away => (st.sendRun_eff sn k t dst w d bulk).trans (congrArg (fun e => [e]) (sentMsg_away away)),
      fun i c => st.sendRun_account sn k t dst w d bulk⟩
  case grant =>
    intro st v sn k t dst ctx w g place here a h r
    obtain ⟨promised, sent⟩ := Stall.grant_run st v sn k t ctx w place
    exact ⟨promised, sent.trans (congrArg (fun e => [e]) (sentMsg_here here))⟩
  case increment =>
    intro st sn k step c due pc e ctx w dst kind place here a h
    exact (st.complete_remote sn k step c due pc e ctx kind place).trans (congrArg (fun e => [e]) (sentMsg_here here))
  case number =>
    intro s cls dst tgt is
    refine ⟨fun i x => s.nextAlive_known cls dst tgt, fun new => ⟨fun room => ?_, fun full => ?_⟩⟩
    · exact (s.nextAlive_new cls dst tgt new).trans (if_pos room)
    · exact (s.nextAlive_new cls dst tgt new).trans (if_neg (Nat.not_lt.2 full))
  case commands =>
    exact fun s t sn b p l n x w hc => ⟨exec_msgFlit0Arrival t sn b p hc, exec_msgLastFlitArrival t sn b l x w hc,
      exec_msgTruncationTimeout t sn b n hc⟩
  case arrival =>
    intro st sn t b p h ev
    refine ⟨st.flit0_unchecked, st.flit0_malformed, fun whole formed own =>
      ⟨st.flit0_otherStep whole formed own, fun step go u e alive => ?taken⟩, ?alive, ?held, ?words⟩
    case taken =>
      refine ⟨fun ended => ?_, fun goes => ?_, fun goes bulk => ⟨?_, ?_⟩⟩
      · exact st.flit0_repeated whole formed own step (ended ▸ alive)
      · exact st.flit0_small whole formed own step (goes ▸ alive)
      · exact st.flit0_noChit whole formed own step (goes ▸ alive) bulk
      · exact st.flit0_bulk whole formed own step (goes ▸ alive) bulk
    case alive =>
      refine ⟨st.aliveCheck_untracked sn t h, fun tracked => ⟨fun new => ⟨fun full => ?_, fun room => ?_⟩, fun v known =>
        ⟨fun same => ?_, fun other next => ?_, fun other jump => ?_⟩⟩⟩
      · exact (st.aliveCheck_new sn t h tracked new).trans (if_pos full)
      · exact (st.aliveCheck_new sn t h tracked new).trans (if_neg (Nat.not_le.2 room))
      · exact (st.aliveCheck_known sn t h tracked known).trans (if_pos same)
      · exact (st.aliveCheck_known sn t h tracked known).trans ((if_neg other).trans (if_pos next))
      · exact (st.aliveCheck_known sn t h tracked known).trans ((if_neg other).trans (if_neg jump))
    case held =>
      intro ix u
      rw [show u = _ from st.accepted_eq t b p ix]
      exact ⟨rfl, rfl, rfl⟩
    case words =>
      intro i m arriving
      obtain ⟨hdr, found⟩ := Stall.arriving_found arriving
      refine ⟨fun d r => Stall.nextFlit_next t arriving, ?_, fun early => ?_, fun late => ?_,
        fun l status => Stall.finishMsg_waits t found l status, fun l status => hdr ▸ Stall.finishMsg_spoils t found l status⟩
      · intro l x w z
        refine ⟨fun good => ?_, fun bad => ?_⟩
        · refine (Stall.lastFlit_arriving sn t arriving l x w).trans ?_
          simp [good, z, h]
        · refine (Stall.lastFlit_arriving sn t arriving l x w).trans ?_
          simp [bad, z, h]
      · exact (Stall.truncate_arriving sn t arriving).trans (if_pos early)
      · exact (Stall.truncate_arriving sn t arriving).trans (if_neg (Nat.not_lt.2 late))

end Sys2Proof.Machine
end

section
/-! PROOFS. Run-ahead blocks that arrive in a hub's buffer and leave it (R260, R261, R270, R311). -/
namespace Sys2Proof.Machine

/-! ### The oldest arrived block leaves (R261) -/

section
variable {s : State} {h j : Nat}

theorem State.aheadEvict_within_share (few : ((s.hub h).ahead.countP fun x => x.job = j) ≤ s.aheadShare h j) :
    s.aheadEvict h j = s := if_pos few

theorem State.aheadEvict_over_share {k : Nat} {y : AheadBlk}
    (many : s.aheadShare h j < (s.hub h).ahead.countP fun x => x.job = j)
    (oldest : lfind (fun x : AheadBlk => x.job = j && x.arrived.isSome) (s.hub h).ahead 0 = some (k, y)) :
    s.aheadEvict h j = (s.setHub h { s.hub h with ahead := ldel (s.hub h).ahead k }).count (pageNo .hdie h) 0x68 1 := by
  unfold State.aheadEvict
  dsimp only
  rw [if_neg (Nat.not_le.2 many), oldest]

end

/-! ### A block arrives (R261, R263, R270) -/

/-- A run-ahead block is held in its hub's buffer as memory serves it, its reads counted and charged. -/
def State.aheadHeld (s : State) (h j i : Nat) (b : AheadBlk) (blk : AheadIn) : State :=
  let hb := s.hub h
  let from_ := s.servedFrom j b.va blk.pa
  let v := s.setHub h { hb with ahead := lset hb.ahead i { b with arrived := some (s.served j b.va blk.pa) } }
  (from_.foldl (fun z p => (z.countRead p).chargeBlock j p 0x70) v).countHbm (from_.headD blk.pa) 0x80 (b2n blk.corrected)

theorem State.aheadHeld_only {s : State} {h j i : Nat} {b : AheadBlk} {blk : AheadIn} :
    Only [.pages, .stalls, .hubs, .halves, .rings, .events, .ledgers, .trace, .out] s (s.aheadHeld h j i b blk) := by
  have reads (u : State) (p : Nat) : Only [.pages, .stalls, .halves, .rings, .events, .ledgers, .trace, .out] u
      ((u.countRead p).chargeBlock j p 0x70) := .step (State.countRead_only.mono (by decide)) State.chargeBlock_only
  exact ((State.setHub_only.mono (by decide)).step (Only.foldl reads)).step State.countHbm_only

section
variable {s : State} {t h j pa : Nat} (ecc : Bool) (hc : s.clocked = true)
include hc

theorem exec_aheadBlockArrival_unawaited
    (unawaited : lfind (fun x : AheadBlk => x.job = j && x.pa = pa && x.arrived.isNone) ((s.advance t).hub h).ahead 0 = none) :
    exec (.aheadBlockArrival t h j ⟨pa, ecc⟩) s = .next (s.advance t) := by
  refine (Only.refl (w := []) _).answers (by simpa using hc) ?_
  change execAheadBlockArrival t h j ⟨pa, ecc⟩ s = _
  unfold execAheadBlockArrival
  dsimp only
  rw [unawaited]

theorem exec_aheadBlockArrival_awaited {i : Nat} {b : AheadBlk}
    (awaited : lfind (fun x : AheadBlk => x.job = j && x.pa = pa && x.arrived.isNone) ((s.advance t).hub h).ahead 0
      = some (i, b)) :
    exec (.aheadBlockArrival t h j ⟨pa, ecc⟩) s = .next (((s.advance t).aheadHeld h j i b ⟨pa, ecc⟩).aheadEvict h j) := by
  refine (State.aheadHeld_only.step State.aheadEvict_only).answers (by simpa using hc) ?_
  change execAheadBlockArrival t h j ⟨pa, ecc⟩ s = _
  unfold execAheadBlockArrival
  dsimp only
  rw [awaited]
  rfl

end

/-- Settles O44: a block that is awaited is held and the buffer brought back to the job's share. -/
theorem aheadBlocksArrive : Obligations.AheadBlocksArrive := by
  unfold Obligations.AheadBlocksArrive
  intro s t h j pa ecc hc a hb awaited
  refine ⟨exec_aheadBlockArrival_unawaited ecc hc, fun i b found => ?_⟩
  exact ⟨exec_aheadBlockArrival_awaited ecc hc found, State.aheadEvict_within_share,
    fun k y many oldest => State.aheadEvict_over_share many oldest⟩

end Sys2Proof.Machine
end

section
/-! PROOFS. Blocks of reads that arrive, and the completion of a transfer (R246, R247, R257, R258, R261, R299, R311). -/
namespace Sys2Proof.Machine

/-! ### What a block is served from (R311) -/

/-- Which frame serves an address depends on jobs and hubs alone. -/
theorem State.framePa_congr {s u : State} (jobs : u.jobs = s.jobs) (hubs : u.hubs = s.hubs) (j va pa : Nat) (upd : Bool) :
    u.framePa j va pa upd = s.framePa j va pa upd := by
  have job : u.job j = s.job j := by unfold State.job; rw [jobs]
  have hub (h : Nat) : u.hub h = s.hub h := by unfold State.hub; rw [hubs]
  unfold State.framePa State.unitAt State.tensorAt
  simp only [job, hub]

theorem Only.framePa {w : List Part} {s u : State} (h : Only w s u) (j va pa : Nat) (upd : Bool)
    (c : (w.contains .jobs || w.contains .hubs) = false := by decide) : u.framePa j va pa upd = s.framePa j va pa upd := by
  simp only [Bool.or_eq_false_iff] at c
  exact State.framePa_congr (h .jobs c.1) (h .hubs c.2) j va pa upd

theorem State.servedFrom_headD (s : State) (j va d : Nat) {pa : Nat} (h : pa < hallBase) :
    (s.servedFrom j va pa).headD d = s.framePa j va pa false := by
  unfold State.servedFrom
  rw [if_neg (Nat.not_le.2 h)]
  dsimp only
  split <;> rfl

/-! ### The check of a block (R246, R247) -/

theorem blockVerdict_passes {k : Block} {pa : Nat} (p : Bool) (corrected : k.uncorr = false)
    (check : k.check = if p then blockCheck k.data pa ^^^ 0xFFFFFFFF#32 else blockCheck k.data pa) :
    blockVerdict k pa = some p := by
  unfold blockVerdict
  cases p <;> simp [corrected, check]

theorem blockVerdict_mismatch {k : Block} {pa : Nat}
    (h : k.uncorr = true ∨ (k.check ≠ blockCheck k.data pa ∧ k.check ≠ blockCheck k.data pa ^^^ 0xFFFFFFFF#32)) :
    blockVerdict k pa = none := by
  unfold blockVerdict
  obtain uncorr | ⟨clean, poisoned⟩ := h
  · simp [uncorr]
  · simp [clean, poisoned]

/-! ### A block is delivered (R247, R261, R311) -/

/-- The reads of a block are counted and charged, and its correction is counted (R270, R383). -/
def State.readBlock (s : State) (x : Transfer) (b : PBlock) (corrected : Bool) : State :=
  ((s.servedFrom x.job b.va b.pa).foldl (fun v i => (v.countHbm i 0x40 1).chargeBlock x.job i 0x70) s).countHbm
    (s.framePa x.job b.va b.pa false) 0x80 (b2n corrected)

theorem State.readBlock_only {s : State} {x : Transfer} {b : PBlock} {corrected : Bool} :
    Only [.pages, .stalls, .halves, .rings, .events, .ledgers, .trace, .out] s (s.readBlock x b corrected) := by
  have reads (v : State) (i : Nat) : Only [.pages, .stalls, .halves, .rings, .events, .ledgers, .trace, .out] v
      ((v.countHbm i 0x40 1).chargeBlock x.job i 0x70) := .step (State.countHbm_only.mono (by decide)) State.chargeBlock_only
  exact (Only.foldl reads).step State.countHbm_only

section
variable {s : State} (t sn tag q : Nat) {x : Transfer} {b : PBlock}

/-- A block of a run-ahead buffer comes as it was held there. -/
theorem State.deliver_snap {v : Line × Bool} (snap : b.snap = some v) :
    s.deliver t sn tag q x b none = s.pass t sn tag q ((s.servedFrom x.job b.va b.pa).headD b.pa) b v.1 v.2 := by
  unfold State.deliver
  rw [snap]
  rfl

section
variable {k : Block} (fresh : b.snap = none) (hbm : b.pa < hallBase)
include fresh hbm

/-- A block that memory delivers is read, and taken as its check says. -/
theorem State.deliver_read : s.deliver t sn tag q x b (some k) =
    match blockVerdict k (s.framePa x.job b.va b.pa false) with
    | some p => (s.readBlock x b k.corrected).pass t sn tag q (s.framePa x.job b.va b.pa false) b k.data p
    | none => (s.readBlock x b k.corrected).mismatch t sn tag q x b k.data := by
  unfold State.deliver State.readBlock
  rw [fresh]
  dsimp only
  rw [if_neg (Nat.not_le.2 hbm), State.servedFrom_headD s x.job b.va b.pa hbm]
  rfl

end

/-- A mismatch is requested again while fewer than two re-reads were made. -/
theorem State.mismatch_rereads (d : Line) (few : b.rereads < 2) : s.mismatch t sn tag q x b d =
    let y := { x with resent := true, blocks := lset x.blocks q { b with rereads := b.rereads + 1, snap := none } }
    let pa := s.framePa x.job b.va b.pa false
    let z := (s.setStall sn ((s.stall sn).setTag tag y)).countHbm pa 0x50 1
    if x.resent then z else z.raise (z.memEv t 0x4101 0 sn x.job pa) := if_pos few

/-- After two re-reads a mismatch is accepted poisoned. -/
theorem State.mismatch_poisons (d : Line) (many : 2 ≤ b.rereads) : s.mismatch t sn tag q x b d =
    let pa := s.framePa x.job b.va b.pa false
    let z := (s.countHbm pa 0x68 1).accept t sn tag q d true
    z.raise (z.memEv t 0x4102 0 sn x.job pa) := if_neg (Nat.not_lt.2 many)

end

/-! ### The commands (R247, R257, R299) -/

section
variable {s : State} {t sn tag q : Nat} {x : Transfer} (hc : s.clocked = true)
  (held : sget (((s.advance t).touch t sn).stall sn).tags tag = some x)
include hc held

section
variable {b : PBlock} (d : Option Block) (block : x.blocks[q]? = some b) (read : x.kind ≠ .put) (asked : b.requested = true)
  (waits : b.landed = false)
include block read asked waits

/-- A block that is asked for is delivered, unless a commit word holds it back. -/
theorem exec_hbmBlockArrival_asked :
    let a := (s.advance t).touch t sn
    exec (.hbmBlockArrival t sn tag q d) s = .next (if a.holds x b then a else a.deliver t sn tag q x b d) := by
  intro a
  refine (holds_ite (Q := Only _ a) (.refl a) State.deliver_only).answers (State.clocked_touch_advance t sn hc) ?_
  have due : (x.kind = .put || !b.requested || b.landed || a.holds x b) = a.holds x b := by simp [read, asked, waits]
  change execHbmBlockArrival t sn tag q d s = _
  unfold execHbmBlockArrival
  rw [State.on_touch_advance t sn hc]
  dsimp only
  rw [held]
  dsimp only
  rw [block]
  dsimp only
  rw [due]

end

theorem exec_porterTransferComplete :
    let a := (s.advance t).touch t sn
    exec (.porterTransferComplete t sn tag) s
      = .next (a.onStall t sn fun st => st.porterDone sn t tag (a.ctx sn x.slot)) := by
  refine State.onStall_only.answers (State.clocked_touch_advance t sn hc) ?_
  change execPorterTransferComplete t sn tag s = _
  unfold execPorterTransferComplete
  rw [State.on_touch_advance t sn hc]
  dsimp only
  rw [held]

end

/-! ### What completion does (R257, R258) -/

section
variable {st : Stall} {tag : Nat} {x : Transfer} (sn t : Nat) (f : JobCtx) (held : sget st.tags tag = some x)
include held

theorem Stall.porterDone_unfinished (h : x.finished = false) : st.porterDone sn t tag f = (st, []) := by
  unfold Stall.porterDone
  rw [held]
  simp [h]

/-- A transfer of a job that has left its slot only frees its tag. -/
theorem Stall.porterDone_orphan (h : x.finished = true) (left : (st.jobSlot x.slot).job ≠ x.job) :
    st.porterDone sn t tag f = ({ st with tags := sdel st.tags tag }, []) := by
  unfold Stall.porterDone
  rw [held]
  simp [h, left]

theorem Stall.porterDone_put (h : x.finished = true) (own : (st.jobSlot x.slot).job = x.job) (put : x.kind = .put)
    (noRing : x.tail = none) : st.porterDone sn t tag f
      = (({ st with tags := sdel st.tags tag }).bump 0x478 (if x.grad then 0 else (x.runs.map PRun.n).sum)).complete sn x.slot
          x.step t x.issue x.pc .pt f x.common := by
  unfold Stall.porterDone
  rw [held]
  dsimp only
  rw [noRing, if_neg (by simp [h]), if_neg (not_not_intro own), if_pos put, if_pos put]

end

/-- Settles O42: a block is delivered by its check, and completion is that of the stall's porter. -/
theorem blocksOfReadsArrive : Obligations.BlocksOfReadsArrive := by
  unfold Obligations.BlocksOfReadsArrive
  intro s t sn tag q x hc a held
  refine ⟨fun b d block read asked waits => ?_, exec_porterTransferComplete hc held, fun st f own =>
    ⟨Stall.porterDone_unfinished sn t f own, Stall.porterDone_orphan sn t f own, Stall.porterDone_put sn t f own⟩⟩
  have arrives := exec_hbmBlockArrival_asked hc held d block read asked waits
  refine ⟨fun kept => arrives.trans (by rw [if_pos kept]), fun free v snap kept => ?ahead,
    fun free fresh k data hbm => ?memory⟩
  case ahead =>
    subst kept
    rw [arrives, if_neg (by rw [free]; decide), State.deliver_snap t sn tag q snap]
  case memory =>
    subst data
    intro pa u e
    have frame : u.framePa x.job b.va b.pa false = pa := State.readBlock_only.framePa ..
    have taken : exec (.hbmBlockArrival t sn tag q (some k)) s = .next (match blockVerdict k pa with
        | some p => u.pass t sn tag q pa b k.data p
        | none => u.mismatch t sn tag q x b k.data) := by
      rw [arrives, if_neg (by rw [free]; decide), State.deliver_read t sn tag q fresh hbm]
      rfl
    refine ⟨fun p corrected check => ?passes, fun fails few => ?again, fun fails many => ?poisoned⟩
    case passes => rw [taken, blockVerdict_passes p corrected check]; rfl
    case again =>
      rw [taken, blockVerdict_mismatch fails]
      dsimp only
      rw [State.mismatch_rereads t sn tag q k.data few, frame]
    case poisoned =>
      rw [taken, blockVerdict_mismatch fails]
      dsimp only
      rw [State.mismatch_poisons t sn tag q k.data many, frame]

end Sys2Proof.Machine
end

section
/-! PROOFS. Accesses of the companion: reads and writes of HBM lines and of the register window, and INVAL (R248, R431 to R433,
R436, R459, R461). -/
namespace Sys2Proof.Machine

/-- Bell time moves no part that the clocked logic cannot change. -/
theorem State.within_advance (s : State) (t : Nat) (x : State) : (s.advance t).within x = s.within x := by simp [State.within]

/-! ### A slot is taken (R428) -/

theorem State.takeSlot_frame {s u : State} {h : Nat} {tys : List Nat} {x : Slot} (taken : s.takeSlot h tys = some (x, u)) :
    Only [.halves] s u := State.takeSlot_only (x, u) taken

/-- A slot that is taken at a tick leaves the queue, the fuses, pins and memory as they were. -/
theorem State.takeSlot_advance {s u : State} {t h : Nat} {tys : List Nat} {x : Slot}
    (taken : (s.advance t).takeSlot h tys = some (x, u)) : Only [.time, .pages, .stalls, .halves] s u :=
  (State.advance_only.mono (by decide)).step (State.takeSlot_frame taken)

section
variable {s : State} {t h : Nat} (rd : ReadTry) (tries : MergeTries) (hc : s.clocked = true)
include hc

/-! ### With no request waiting -/

theorem exec_companionRead_idle (idle : (s.advance t).takeSlot h [1, 2] = none) :
    exec (.companionRead t h rd) s = .next (s.advance t) := by
  refine (Only.refl (w := []) _).answers (by simpa using hc) ?_
  change execCompanionRead t h rd s = _
  unfold execCompanionRead
  dsimp only
  rw [idle]

theorem exec_companionWrite_idle (idle : (s.advance t).takeSlot h [4] = none) :
    exec (.companionWrite t h tries) s = .next (s.advance t) := by
  refine (Only.refl (w := []) _).answers (by simpa using hc) ?_
  change execCompanionWrite t h tries s = _
  unfold execCompanionWrite
  dsimp only
  rw [idle]

theorem exec_inval_idle (idle : (s.advance t).takeSlot h [6] = none) : exec (.inval t h) s = .next (s.advance t) := by
  refine (Only.refl (w := []) _).answers (by simpa using hc) ?_
  change execInval t h s = _
  unfold execInval
  dsimp only
  rw [idle]

end

/-! ### Reads (R431, R432) -/

section
variable {s u : State} {t h : Nat} {x : Slot} (rd : ReadTry) (hc : s.clocked = true)
  (taken : (s.advance t).takeSlot h [1, 2] = some (x, u))
include hc taken

theorem exec_companionRead_line {j va : Nat} (ram : inRegWindow x.addr = false)
    (mapped : u.companionLine x.addr = some (j, va)) :
    exec (.companionRead t h rd) s = .next (u.readHbm h j va x.addr x rd) := by
  refine (((State.takeSlot_frame taken).mono (by decide)).trans State.readHbm_only).answers (by simpa using hc) ?_
  change execCompanionRead t h rd s = _
  unfold execCompanionRead
  dsimp only
  rw [taken]
  dsimp only
  rw [if_neg (by simp [ram]), mapped]

theorem exec_companionRead_window (window : inRegWindow x.addr = true) :
    exec (.companionRead t h rd) s = .next ((u.readWindow (4 + h) (x.addr - windowBase)).2.respond h 3 0 x
      (u.readWindow (4 + h) (x.addr - windowBase)).1) := by
  have frame := ((State.takeSlot_frame taken).mono (by decide)).trans (State.readWindow_only (a1 := 4 + h) (a2 := x.addr - windowBase))
  refine (frame.step State.respond_only).answers (by simpa using hc) ?_
  change execCompanionRead t h rd s = _
  unfold execCompanionRead
  dsimp only
  rw [taken]
  dsimp only
  rw [if_pos window]

theorem exec_companionRead_denied (ram : inRegWindow x.addr = false) (unmapped : u.companionLine x.addr = none) :
    exec (.companionRead t h rd) s = .next (u.refuseAccess h 3 x) := by
  refine (((State.takeSlot_frame taken).mono (by decide)).trans State.refuseAccess_only).answers (by simpa using hc) ?_
  change execCompanionRead t h rd s = _
  unfold execCompanionRead
  dsimp only
  rw [taken]
  dsimp only
  rw [if_neg (by simp [ram]), unmapped]

end

/-- A read of a line answers the line that serves the job, and changes no memory. -/
theorem State.readHbm_answers (s : State) (h j va a : Nat) (x : Slot) (rd : ReadTry) :
    ∃ y : State, s.readHbm h j va a x rd
      = y.respond h 3 (if (s.served j va a).2 || rd.bad then 2 else 0) x (lineBytes (s.served j va a).1) ∧ y.mem = s.mem := by
  unfold State.readHbm
  extract_lets r pas pa bad read corrected failed
  have hread : read.mem = s.mem := (State.countHbm_only .mem (by decide)).trans
    (Only.foldl (w := [.pages, .stalls]) (fun _ _ => State.countHbm_only) .mem (by decide))
  have hcorrected : corrected.mem = s.mem := (State.countHbm_only .mem (by decide)).trans hread
  have hfailed : failed.mem = s.mem := by
    refine holds_ite (Q := fun y : State => y.mem = s.mem) ?_ hcorrected
    exact (State.countHbm_only .mem (by decide)).trans ((State.countHbm_only .mem (by decide)).trans
      ((State.countHbm_only .mem (by decide)).trans hcorrected))
  exact ⟨failed.charge j 0x98 64, rfl, (State.charge_only .mem (by decide)).trans hfailed⟩

/-! ### Writes of an HBM line (R248, R432) -/

/-- The counts of what the read of a line that is written in part meets. -/
def State.mergeTried (s : State) (pa : Nat) (x : Slot) (tries : MergeTries) : State :=
  let part := x.mask != BitVec.allOnes 64
  let s := if tries.read.bad && part then ((s.countHbm pa 0x40 2).countHbm pa 0x50 2).countHbm pa 0x68 1 else s
  s.countHbm pa 0x80 (b2n (tries.read.corrected && part))

theorem State.mergeTried_only {s : State} {pa : Nat} {x : Slot} {tries : MergeTries} :
    Only [.pages, .stalls] s (s.mergeTried pa x tries) := by
  have counted := (State.countHbm_only (a0 := s) (a1 := pa) (a2 := 0x40) (a3 := 2)).trans
    (State.countHbm_only (a1 := pa) (a2 := 0x50) (a3 := 2)) |>.trans (State.countHbm_only (a1 := pa) (a2 := 0x68) (a3 := 1))
  exact (holds_ite (Q := Only [.pages, .stalls] s) counted (.refl s)).trans State.countHbm_only

section
variable (s : State) (h j va a : Nat) {x : Slot} {tries : MergeTries}

/-- A write of no byte, and one whose eight tries fail, leaves memory as it was. -/
theorem State.writeHbm_mem_kept (kept : x.mask = 0#64 ∨ 8 ≤ tries.fails) :
    (s.writeHbm h j va a x tries).mem = s.mem := by
  refine (State.respond_only .mem (by decide)).trans ((State.charge_only .mem (by decide)).trans ?_)
  by_cases empty : x.mask = 0#64
  · rw [if_pos empty]
  · have fails : ((s.mergeTried (s.framePa j va a false) x tries).writeFails (s.framePa j va a false) tries.fails).2 = true := by
      unfold State.writeFails
      rw [if_neg (Nat.not_lt.2 (kept.resolve_left empty))]
    rw [if_neg empty]
    refine (congrArg State.mem (if_pos fails)).trans ?_
    exact (State.raise_only .mem (by decide)).trans
      ((State.writeFails_only .mem (by decide)).trans (State.mergeTried_only .mem (by decide)))

/-- Fewer than eight failed tries write the line where it is served. -/
theorem State.writeHbm_mem_written (masked : x.mask ≠ 0#64) (few : tries.fails < 8) :
    ∃ (u : State) (bad : Bool), Only [.pages, .stalls] s u ∧ (s.writeHbm h j va a x tries).mem
      = (u.putServed j va a (byteMask x.mask) (leAt x.data 0 64) bad).mem := by
  let pa := s.framePa j va a false
  have passes : ¬ ((s.mergeTried pa x tries).writeFails pa tries.fails).2 = true := by
    unfold State.writeFails
    rw [if_pos few]
    exact Bool.false_ne_true
  refine ⟨((s.mergeTried pa x tries).writeFails pa tries.fails).1, tries.read.bad && x.mask != BitVec.allOnes 64,
    State.mergeTried_only.trans State.writeFails_only, ?_⟩
  refine (State.respond_only .mem (by decide)).trans ((State.charge_only .mem (by decide)).trans ?_)
  rw [if_neg masked]
  refine (congrArg State.mem (if_neg passes)).trans ?_
  exact State.staleWrite_only .mem (by decide)

end

theorem byteMask_allOnes : byteMask (BitVec.allOnes 64) = 2 ^ 512 - 1 := by decide +kernel

/-- The frames of a line depend on jobs and hubs alone. -/
theorem lineFrames_of_only {w : List Part} {s u : State} (h : Only w s u) (j va pa : Nat)
    (c : (w.contains .jobs || w.contains .hubs) = false := by decide) : lineFrames u j va pa = lineFrames s j va pa := by
  unfold lineFrames
  rw [h.framePa j va pa false c, h.framePa j (va + 32) (pa + 32) false c]

section
variable {s u : State} {t h : Nat} {x : Slot} (tries : MergeTries) (hc : s.clocked = true)
  (taken : (s.advance t).takeSlot h [4] = some (x, u))
include hc taken

theorem exec_companionWrite_line {j va : Nat} (ram : inRegWindow x.addr = false)
    (mapped : u.companionLine x.addr = some (j, va)) :
    exec (.companionWrite t h tries) s = .next (u.writeHbm h j va x.addr x tries) := by
  refine (((State.takeSlot_frame taken).mono (by decide)).trans State.writeHbm_only).answers (by simpa using hc) ?_
  change execCompanionWrite t h tries s = _
  unfold execCompanionWrite
  dsimp only
  rw [taken]
  dsimp only
  rw [if_neg (by simp [ram]), mapped]

theorem exec_companionWrite_denied (ram : inRegWindow x.addr = false) (unmapped : u.companionLine x.addr = none) :
    exec (.companionWrite t h tries) s = .next (u.refuseAccess h 5 x) := by
  refine (((State.takeSlot_frame taken).mono (by decide)).trans State.refuseAccess_only).answers (by simpa using hc) ?_
  change execCompanionWrite t h tries s = _
  unfold execCompanionWrite
  dsimp only
  rw [taken]
  dsimp only
  rw [if_neg (by simp [ram]), unmapped]

/-! ### Writes of the register window (R459, R461) -/

theorem exec_companionWrite_window (window : inRegWindow x.addr = true) :
    exec (.companionWrite t h tries) s = .next (s.within (u.writeWindow t h x)) := by
  rw [← State.within_advance s t, ← State.on_clocked (by simpa using hc)]
  change execCompanionWrite t h tries s = _
  unfold execCompanionWrite
  dsimp only
  rw [taken]
  dsimp only
  rw [if_pos window]

end

section
variable {s : State} (t h : Nat) {x : Slot}

theorem State.writeWindow_unmasked (empty : slotWrites x = []) : s.writeWindow t h x = s.respond h 5 0 x [] := by
  unfold State.writeWindow
  rw [empty]
  rfl

variable (masked : slotWrites x ≠ [])
include masked

/-- A line in an absent or unassigned page is refused, and counted on the DEVICE page. -/
theorem State.writeWindow_absent
    (absent : ∀ p i, pageOf (x.addr - windowBase) = some (p, i) → s.pagePresent p i = false) :
    s.writeWindow t h x = (s.countRefused (x.addr - windowBase)).refuseAccess h 5 x := by
  unfold State.writeWindow
  dsimp only
  rw [if_neg (by simpa using masked)]
  cases page : pageOf (x.addr - windowBase) with
  | none => exact if_pos rfl
  | some q => exact if_pos (by simp [absent q.1 q.2 page])

variable (present : ¬ ∀ p i, pageOf (x.addr - windowBase) = some (p, i) → s.pagePresent p i = false)
include present

/-- A line in a page that is present is refused or written as a whole. -/
theorem State.writeWindow_present : s.writeWindow t h x =
    if partWord x.mask || (slotWrites x).any (fun w => s.writeRefused (4 + h) w.1) then s.refuseAccess h 5 x
    else ((slotWrites x).foldl (fun z w => z.writeReg t (4 + h) w.1 w.2) s).respond h 5 0 x [] := by
  unfold State.writeWindow
  dsimp only
  rw [if_neg (by simpa using masked)]
  cases page : pageOf (x.addr - windowBase) with
  | none => exact absurd (fun p i found => by simp [page] at found) present
  | some q =>
    have there : s.pagePresent q.1 q.2 = true := by
      by_contra gone
      refine present fun p i found => ?_
      obtain rfl : q = (p, i) := Option.some.inj (page.symm.trans found)
      simpa using gone
    exact if_neg (by simp [there])

theorem State.writeWindow_refused
    (bad : partWord x.mask = true ∨ ∃ q ∈ slotWrites x, s.writeRefused (4 + h) q.1 = true) :
    s.writeWindow t h x = s.refuseAccess h 5 x := by
  rw [State.writeWindow_present t h masked present, if_pos (by simpa [List.any_eq_true] using bad)]

theorem State.writeWindow_granted (whole : partWord x.mask = false)
    (granted : ∀ q ∈ slotWrites x, s.writeRefused (4 + h) q.1 = false) :
    s.writeWindow t h x = ((slotWrites x).foldl (fun z w => z.writeReg t (4 + h) w.1 w.2) s).respond h 5 0 x [] := by
  have good : (slotWrites x).any (fun w => s.writeRefused (4 + h) w.1) = false := List.any_eq_false.2 fun q k => by simp [granted q k]
  rw [State.writeWindow_present t h masked present, whole, good]
  rfl

end

/-! ### INVAL (R433, R436) -/

section
variable {s u : State} {t h : Nat} {x : Slot} (hc : s.clocked = true) (taken : (s.advance t).takeSlot h [6] = some (x, u))
include hc taken

theorem exec_inval_doorline (door : (s.advance t).doorInval x = true) : exec (.inval t h) s = .next (s.advance t) := by
  refine (Only.refl (w := []) _).answers (by simpa using hc) ?_
  change execInval t h s = _
  unfold execInval
  dsimp only
  rw [taken]
  dsimp only
  rw [if_pos door]

theorem exec_inval_line (other : (s.advance t).doorInval x = false) : exec (.inval t h) s
    = .next (((u.count (lemefPage h) 0x70 1).dropLine x.addr).respond h 7 0 x []) := by
  have frame : Only [.pages, .stalls, .halves, .rings] (s.advance t) _ :=
    ((State.takeSlot_frame taken).mono (by decide)).step (State.count_only (a1 := lemefPage h) (a2 := 0x70) (a3 := 1))
  refine ((frame.step State.dropLine_only).step State.respond_only).answers (by simpa using hc) ?_
  change execInval t h s = _
  unfold execInval
  dsimp only
  rw [taken]
  dsimp only
  rw [if_neg (by simp [other])]

end

/-- Settles O40: each access by where its line lies and what grants it. -/
theorem companionAccesses : Obligations.CompanionAccesses := by
  unfold Obligations.CompanionAccesses
  intro s t h rd tries hc a
  refine ⟨exec_companionRead_idle rd hc, exec_companionWrite_idle tries hc, exec_inval_idle hc, ?_⟩
  intro x u w inRam denied absent refused
  refine ⟨fun taken => ⟨fun j va granted => ?read, exec_companionRead_window rd hc taken,
      fun no => exec_companionRead_denied rd hc taken no.1 no.2⟩,
    fun taken => ⟨fun j va granted => ⟨_, exec_companionWrite_line tries hc taken granted.1 granted.2, ?write⟩,
      fun no => exec_companionWrite_denied tries hc taken no.1 no.2, fun window => ?window⟩,
    fun taken => ⟨exec_inval_doorline hc taken, fun other => ⟨_, exec_inval_line hc taken other, ?lines⟩⟩⟩
  case read =>
    obtain ⟨y, answer, kept⟩ := u.readHbm_answers h j va x.addr x rd
    refine ⟨y, ?_, kept.trans (State.takeSlot_advance taken .mem (by decide))⟩
    rw [exec_companionRead_line rd hc taken granted.1 granted.2, answer]
  case write =>
    have memory : u.mem = s.mem := State.takeSlot_advance taken .mem (by decide)
    refine ⟨fun b lo hi => ?outside, fun empty => (State.writeHbm_mem_kept u h j va x.addr empty).trans memory,
      fun full few together i below => ?stored⟩
    case outside =>
      by_cases kept : x.mask = 0#64 ∨ 8 ≤ tries.fails
      · rw [State.writeHbm_mem_kept u h j va x.addr kept, memory]
      · rw [not_or, Nat.not_le] at kept
        obtain ⟨v, bad, frame, written⟩ := State.writeHbm_mem_written u h j va x.addr kept.1 kept.2
        rw [← lineFrames_of_only frame] at lo hi
        rw [written, State.putServed_outside v j _ _ bad lo hi, frame .mem (by decide), memory]
    case stored =>
      obtain ⟨v, bad, frame, written⟩ := State.writeHbm_mem_written u h j va x.addr (by rw [full]; decide) few
      rw [written, full, byteMask_allOnes, ← lineFrames_of_only frame]
      refine State.putServed_whole v j _ bad ?_ below
      rwa [frame.framePa, frame.framePa]
  case window =>
    have answers {v : State} (run : u.writeWindow t h x = v) (frame : Only [.pages, .stalls, .halves] u v) :
        exec (.companionWrite t h tries) s = .next v := by
      rw [exec_companionWrite_window tries hc taken window, run,
        (((State.takeSlot_advance taken).mono (by decide)).trans (frame.mono (by decide)) :
          Only [.time, .pages, .stalls, .halves] s v).within]
    refine ⟨fun empty => answers (State.writeWindow_unmasked t h empty) (State.respond_only.mono (by decide)),
      fun masked => ⟨fun gone => ?_, fun there bad => ?_, fun there whole granted => ?_⟩⟩
    · exact answers (State.writeWindow_absent t h masked gone)
        ((State.countRefused_only.mono (by decide)).trans State.refuseAccess_only)
    · exact answers (State.writeWindow_refused t h masked there bad) State.refuseAccess_only
    · rw [exec_companionWrite_window tries hc taken window, State.writeWindow_granted t h masked there whole granted]
  case lines => rw [State.dropLine, State.count_only .rings (by decide)]

end Sys2Proof.Machine
end

section
/-! PROOFS. JOB_OPEN, and JOB_LOAD, JOB_MAP, JOB_SUSPEND, JOB_RESUME and JOB_CLOSE on an open job (R255, R264, R311, R364, R365,
R367, R371, R375, R379, R385, R445). -/
namespace Sys2Proof.Machine

/-! ### The phase and placement of a job (R371) -/

theorem findSome?_range_eq_some {α : Type} {f : Nat → Option α} {n : Nat} {b : α}
    (h : (List.range n).findSome? f = some b) : ∃ p, p < n ∧ f p = some b ∧ ∀ i, i < p → f i = none := by
  obtain ⟨before, p, after, split, found, nothing⟩ := List.findSome?_eq_some_iff.1 h
  have place : p = before.length := by
    have : (List.range n)[before.length]? = some p := by rw [split]; simp
    simp only [List.getElem?_eq_some_iff, List.getElem_range] at this
    omega
  have size : n = before.length + (after.length + 1) := by simpa using congrArg List.length split
  refine ⟨p, by omega, found, fun i below => nothing i ?_⟩
  have at_ : before[i]? = some i := by
    have : (List.range n)[i]? = some i := List.getElem?_range (by omega)
    rwa [split, List.getElem?_append_left (by omega)] at this
  exact List.mem_of_getElem? at_

section
variable {s : State} {r : AdmRecord} {ph p : Nat} {place q : List (Nat × Nat × Nat)}
  (chosen : s.choosePlace r ph place = some (p, q))
include chosen

/-- A job on one device takes the lowest phase at which a placement is found. -/
theorem State.choosePlace_alone (one : r.devices ≤ 1) : p < 64 ∧
    s.search r.pitches p (place.filter fun y => !remoteStall y.2.2) = some q ∧
    ∀ i, i < p → s.search r.pitches i (place.filter fun y => !remoteStall y.2.2) = none := by
  unfold State.choosePlace at chosen
  dsimp only at chosen
  rw [if_neg (Nat.not_lt.2 one)] at chosen
  obtain ⟨i, below, found, nothing⟩ := findSome?_range_eq_some chosen
  simp only [Option.map_eq_some_iff, Prod.mk.injEq, Option.map_eq_none_iff] at found nothing
  obtain ⟨l, here, rfl, rfl⟩ := found
  exact ⟨below, here, nothing⟩

/-- A job on several devices takes the phase agreed on, the entries of the others as offered. -/
theorem State.choosePlace_agreed (several : 1 < r.devices) : p < 64 ∧ p = ph ∧
    ∃ l, s.search r.pitches p (place.filter fun y => !remoteStall y.2.2) = some l ∧
      q = l ++ place.filter fun y => remoteStall y.2.2 := by
  unfold State.choosePlace at chosen
  dsimp only at chosen
  rw [if_pos several] at chosen
  split at chosen
  case isTrue agreed =>
    simp only [Option.map_eq_some_iff, Prod.mk.injEq] at chosen
    obtain ⟨l, here, rfl, rfl⟩ := chosen
    simp only [Bool.and_eq_true, decide_eq_true_eq] at agreed
    exact ⟨agreed.1, rfl, l, here, rfl⟩
  case isFalse => cases chosen

end

/-! ### JOB_OPEN (R364, R365, R375) -/

/-- A command that names no job does what its meaning does, at its tick. -/
theorem State.runCommand_of_runs {s : State} {t seq op : Nat} {x : Taken} (f : State → Taken → State)
    (h : runs s t seq op x) (free : jobOpcode op = false) : s.runCommand t seq op f = f (s.advance t) x := by
  obtain ⟨-, taken, opcode, serving, dev, start⟩ := h
  unfold State.runCommand
  dsimp only
  generalize s.advance t = a at *
  have ready : (descOp x.desc != op || !a.clerk.serving || decide (a.boot.dev = 0) || !a.mayStart x) = false := by
    simp [opcode, serving, dev, start]
  have running : (a.boot.dev != 2 && op != 0x7E && op != 0x7F) = false := by simp [dev]
  rw [taken]
  dsimp only
  rw [ready, running, free]
  rfl

theorem exec_jobOpen {s : State} {t seq : Nat} {x : Taken} (record : List Byte) (ph : Nat) (place : List (Nat × Nat × Nat))
    (h : runs s t seq 0x01 x) :
    exec (.jobOpen t seq record ph place) s = .next ((s.advance t).openJob seq x.desc record ph place) := by
  refine State.openJob_only.answers (s := s.advance t) (by simpa using h.1) ?_
  have run : exec (.jobOpen t seq record ph place) s
      = .next (s.on (s.runCommand t seq 0x01 fun s x => s.openJob seq x.desc record ph place)) := rfl
  rw [run, State.runCommand_of_runs _ h rfl, State.on_clocked h.1, State.on_clocked (by simpa using h.1), State.within_advance]

/-! ### Commands on an open job (R255, R264, R367, R379, R445) -/

/-- A command on an open job that writes neither pins, fuses nor the queue answers what its meaning makes of the state. -/
theorem exec_of_runsOn_only {s u : State} {t seq op : Nat} {x : Taken} {jb : Job} {c : Instr} {f : State → Taken → State}
    {w : List Part} (h : runsOn s t seq op x jb) (run : exec c s = .next (s.on (s.runCommand t seq op f)))
    (means : f (s.advance t) x = u) (frame : Only w (s.advance t) u)
    (k : (w.contains .pins || w.contains .fuses || w.contains .pending) = false := by decide) : exec c s = .next u := by
  rw [exec_of_runsOn h run, means, ← State.within_advance, frame.within k]

section
variable {s : State} {t seq : Nat} {x : Taken} {jb : Job}

theorem exec_jobLoad (raw : List Byte) (im : LoadImage) (frames : List Nat) (h : runsOn s t seq 0x02 x jb) :
    exec (.jobLoad t seq raw im frames) s
      = .next ((s.advance t).jobLoad seq (descJob x.desc) jb x.desc raw im frames) := by
  have job := h.2.2.1
  exact exec_of_runsOn_only h rfl (by rw [job]) State.jobLoad_only

theorem exec_jobMap (pages tables : List Nat) (h : runsOn s t seq 0x03 x jb) :
    exec (.jobMap t seq pages tables) s = .next ((s.advance t).jobMap seq (descJob x.desc) jb x.desc pages tables) := by
  have job := h.2.2.1
  exact exec_of_runsOn_only h rfl (by rw [job]) State.jobMap_only

theorem exec_jobSuspend (h : runsOn s t seq 0x08 x jb) : exec (.jobSuspend t seq) s
    = .next (((s.advance t).suspendJob (descJob x.desc) false).finish seq 0 0 0 0 0 none) :=
  exec_of_runsOn_only h rfl rfl ((State.suspendJob_only.mono (by decide)).trans State.finish_only)

theorem exec_jobResume (h : runsOn s t seq 0x09 x jb) : exec (.jobResume t seq) s
    = .next (((s.advance t).resumeJob (descJob x.desc) false).finish seq 0 0 0 0 0 none) :=
  exec_of_runsOn_only h rfl rfl (State.resumeJob_only.step State.finish_only)

theorem exec_jobClose (h : runsOn s t seq 0x06 x jb) :
    exec (.jobClose t seq) s = .next ((s.advance t).jobClose seq (descJob x.desc) x) :=
  exec_of_runsOn_only h rfl rfl State.jobClose_only

end

/-! ### JOB_MAP (R255, R264, R311, R439) -/

section
variable {s : State} {seq j : Nat} {jb : Job} {d : List Byte} {pages tables : List Nat}

/-- Pages that the loaded image needs are not mapped anew. -/
theorem State.jobMap_pinned (pinned : jb.pins (descField d 32 8) (descField d 40 8) = true) :
    s.jobMap seq j jb d pages tables = s.refuse seq 0x4203 := if_pos pinned

variable (loose : jb.pins (descField d 32 8) (descField d 40 8) = false)
include loose

theorem State.jobMap_unmaps (unmaps : bit (descField d 48 1) 2 = true) : s.jobMap seq j jb d pages tables
    = ((s.unmapRange j (descField d 32 8) (descField d 40 8)).invalidateJob j).finish seq 0 0 0 0 0 none :=
  (if_neg (Bool.eq_false_iff.1 loose)).trans (if_pos unmaps)

variable (maps : bit (descField d 48 1) 2 = false)
include maps

theorem State.jobMap_hbm (hbm : bit (descField d 48 1) 3 = false) :
    s.jobMap seq j jb d pages tables = s.mapped seq j (s.mapRange j (descField d 32 8) (bit (descField d 48 1) 0)
      (bit (descField d 48 1) 1) none (mapFits (descField d 50 2) none) (descField d 40 8 / 2 ^ 21) pages tables) :=
  (if_neg (Bool.eq_false_iff.1 loose)).trans ((if_neg (Bool.eq_false_iff.1 maps)).trans (if_pos (by rw [hbm]; rfl)))

variable (hall : bit (descField d 48 1) 3 = true)
include hall

theorem State.jobMap_nowhere (nowhere : placeOf jb.place (descField d 49 1) (descField d 52 2) = none) :
    s.jobMap seq j jb d pages tables = s.refuse seq 0 := by
  refine (if_neg (Bool.eq_false_iff.1 loose)).trans ((if_neg (Bool.eq_false_iff.1 maps)).trans ((if_neg (by simp [hall])).trans ?_))
  rw [nowhere]

section
variable {sn : Nat} (there : placeOf jb.place (descField d 49 1) (descField d 52 2) = some sn)
include there

theorem State.jobMap_remote (remote : remoteStall sn = true) : s.jobMap seq j jb d pages tables = s.refuse seq 0 := by
  refine (if_neg (Bool.eq_false_iff.1 loose)).trans ((if_neg (Bool.eq_false_iff.1 maps)).trans ((if_neg (by simp [hall])).trans ?_))
  rw [there]
  exact if_pos remote

/-- The hall store of a stall on this device takes pages while its pitch has declared them (R264). -/
theorem State.jobMap_hall (here : remoteStall sn = false) : s.jobMap seq j jb d pages tables =
    let va := descField d 32 8
    let n := descField d 40 8
    let pitch := descField d 49 1
    let rest := { jb with maps := jb.maps.filter fun m => !(decide (va ≤ m.va) && decide (m.va < va + n)) }
    if ((jb.adm[pitch]?).map (·.hallPages)).getD 0 < rest.hallMapped pitch (sn / 128) + n / 2 ^ 21 then s.refuse seq 0x6103
    else s.mapped seq j (s.mapRange j va (bit (descField d 48 1) 0) false (some (pitch, descField d 52 2))
      (mapFits 0 (some (sn / 128))) (n / 2 ^ 21) pages tables) := by
  refine (if_neg (Bool.eq_false_iff.1 loose)).trans ((if_neg (Bool.eq_false_iff.1 maps)).trans ((if_neg (by simp [hall])).trans ?_))
  rw [there]
  exact if_neg (Bool.eq_false_iff.1 here)

end

end

/-! ### JOB_CLOSE (R445) -/

section
variable {s : State} {seq j : Nat} {jb : Job} (job : s.job j = some jb)
include job

/-- Stalls that drain, and a step that is armed, hold up the end of a JOB_CLOSE. -/
theorem State.jobClosed_waits (h : s.jobActive j = true ∨ ∃ y ∈ jb.steps, y.armed ≠ none) : s.jobClosed seq j = s := by
  unfold State.jobClosed
  rw [job]
  dsimp only
  refine if_pos ?_
  obtain active | ⟨y, mem, armed⟩ := h
  · simp [active]
  · have firm : jb.firm s.bell.now y = true := by
      unfold Job.firm
      simp [Option.isSome_iff_ne_none.2 armed]
    simp only [Bool.or_eq_true, List.any_eq_true]
    exact .inr ⟨y, mem, firm⟩

theorem State.jobClosed_done (idle : s.jobActive j = false) (steps : jb.steps = []) :
    s.jobClosed seq j = (s.closeJob j jb).finish seq 0 0 0 0 0 none := by
  unfold State.jobClosed
  rw [job]
  simp [idle, steps, job]

end

/-- Settles O59: each command by what its meaning does on the state at its tick, test by test. -/
theorem jobCommandsAct : Obligations.JobCommandsAct := by
  unfold Obligations.JobCommandsAct
  intro s t seq x jb record ph place raw im frames pages tables a d j
  refine ⟨fun r p q chosen => ?place, fun h => ?open_, fun h => ?load, fun h => ?map, exec_jobSuspend, exec_jobResume,
    fun h => ⟨fun started => ?closing, fun fresh => ?close⟩⟩
  case place =>
    intro here
    refine ⟨?_, fun one => (State.choosePlace_alone chosen one).2, fun several => (State.choosePlace_agreed chosen several).2⟩
    obtain several | one := Nat.lt_or_ge 1 r.devices
    · exact (State.choosePlace_agreed chosen several).1
    · exact (State.choosePlace_alone chosen one).1
  case open_ =>
    intro cls out reject turned
    have tests : out = .next (a.openJob seq d record ph place) := exec_jobOpen record ph place h
    unfold State.openJob at tests
    dsimp only at tests
    refine ⟨fun bad => tests.trans (congrArg _ (if_pos (by simpa using bad))), fun class_ below => ?_⟩
    rw [if_neg (by simpa using ⟨class_, below⟩)] at tests
    refine ⟨fun unread => by rw [unread] at tests; exact tests, fun r read => ?_⟩
    rw [read] at tests
    dsimp only at tests
    refine ⟨fun wrong => tests.trans (congrArg _ (if_pos (by simpa using wrong))), fun same length => ?_⟩
    rw [if_neg (by simpa using ⟨same, length⟩)] at tests
    refine ⟨fun never => tests.trans (congrArg _ (if_pos never)), fun may => ?_⟩
    rw [if_neg (by simp [may])] at tests
    refine ⟨fun full => by rw [full] at tests; exact tests, fun k number => ?_⟩
    rw [number] at tests
    dsimp only at tests
    refine ⟨fun deadline late => tests.trans (congrArg _ (if_pos (by simp [late]; exact deadline))), fun inTime => ?_⟩
    rw [if_neg (by simpa using inTime)] at tests
    refine ⟨fun nowhere => by rw [nowhere] at tests; exact tests, fun p q found => ?_⟩
    rw [found] at tests
    dsimp only at tests
    refine ⟨fun deadline crossed => tests.trans (congrArg _ (if_pos (by simp [crossed]; exact deadline))), fun fits => ?_⟩
    rw [if_neg (by simpa using fits)] at tests
    exact tests
  case load =>
    have tests := exec_jobLoad raw im frames h
    unfold State.jobLoad at tests
    refine ⟨fun c r wrong => by rw [wrong] at tests; exact tests, fun good => ?_⟩
    rw [good] at tests
    refine ⟨fun wanting => by rw [wanting] at tests; exact tests, fun u placed => ?_⟩
    rw [placed] at tests
    exact tests
  case map =>
    intro va n f
    have tests := exec_jobMap pages tables h
    refine ⟨fun pinned => ?_, fun loose => ⟨fun unmaps => ?_, fun maps hbm => ⟨fun wanting => ?_, fun u mapped => ?_⟩,
      fun maps hall => ⟨fun nowhere => ?_, fun sn there => ⟨fun remote => ?_, fun here => ?_⟩⟩⟩⟩
    · exact tests.trans (congrArg _ (State.jobMap_pinned pinned))
    · exact tests.trans (congrArg _ (State.jobMap_unmaps loose unmaps))
    · rw [tests, State.jobMap_hbm loose maps hbm]
      exact congrArg (fun o => Host.Outcome.next (State.mapped a seq j o)) wanting
    · rw [tests, State.jobMap_hbm loose maps hbm]
      exact congrArg (fun o => Host.Outcome.next (State.mapped a seq j o)) mapped
    · exact tests.trans (congrArg _ (State.jobMap_nowhere loose maps hall nowhere))
    · exact tests.trans (congrArg _ (State.jobMap_remote loose maps hall there remote))
    · intro rest full m
      refine ⟨fun wanting => ?_, fun room u mapped => ?_⟩
      · rw [tests, State.jobMap_hall loose maps hall there here]
        by_cases exceeds : full
        · exact congrArg Host.Outcome.next (if_pos exceeds)
        · refine congrArg Host.Outcome.next ((if_neg exceeds).trans ?_)
          exact congrArg (State.mapped a seq j) (wanting.resolve_left exceeds)
      · rw [tests, State.jobMap_hall loose maps hall there here]
        refine congrArg Host.Outcome.next ((if_neg room).trans ?_)
        exact congrArg (State.mapped a seq j) mapped
  case closing =>
    have ends : exec (.jobClose t seq) s = .next (a.jobClosed seq j) := by
      rw [exec_jobClose h, State.jobClose, if_pos started]
    have job : a.job j = some jb := h.2.2.1
    exact ⟨fun waits => by rw [ends, State.jobClosed_waits job waits],
      fun idle steps => by rw [ends, State.jobClosed_done job idle steps]⟩
  case close =>
    intro waiting u k job
    rw [exec_jobClose h]
    refine congrArg Host.Outcome.next ((if_neg (Bool.eq_false_iff.1 fresh)).trans ?_)
    change ((State.abortStalls (match u.job j with | some k => _ | none => u) j).markStarted seq).jobClosed seq j = _
    rw [job]

end Sys2Proof.Machine
end

section
/-! PROOFS. The bytes that a write of memory changes: of a part of a block, of a range, of a table's entry, of a page and of the
group records of an image (R243, R249, R252, R255, R314). -/
namespace Sys2Proof.Machine

/-! ### Bytes of a line (R53) -/

theorem getD_leBytes {n i : Nat} (h : i < n) (x : Nat) : (leBytes n x).getD i 0#8 = BitVec.ofNat 8 (x / 256 ^ i) := by
  induction n generalizing i x with
  | zero => exact absurd h (Nat.not_lt_zero i)
  | succ n ih =>
    cases i with
    | zero => simp [leBytes]
    | succ i => rw [leBytes, List.getD_cons_succ, ih (by omega), Nat.div_div_eq_div_mul, Nat.pow_succ']

theorem getLsbD_lineBytes (w : Line) {i b : Nat} (h : i < 64) (k : b < 8) :
    ((lineBytes w).getD i 0#8).getLsbD b = w.getLsbD (8 * i + b) := by
  rw [lineBytes, getD_leBytes h, BitVec.getLsbD_ofNat, show 256 ^ i = 2 ^ (8 * i) by rw [Nat.pow_mul],
    Nat.testBit_div_two_pow, Nat.add_comm b, BitVec.getLsbD]
  simp [k]

/-- The bits of bytes read as a number. -/
theorem testBit_foldr_bytes (l : List Byte) {i b : Nat} (k : b < 8) :
    (l.foldr (fun (c : Byte) a => a * 256 + c.toNat) 0).testBit (8 * i + b) = (l.getD i 0#8).getLsbD b := by
  induction l generalizing i with
  | nil => simp
  | cons c l ih =>
    rw [List.foldr_cons, Nat.mul_comm _ 256]
    refine (Nat.testBit_two_pow_mul_add _ (i := 8) c.isLt _).trans ?_
    cases i with
    | zero => rw [if_pos (by omega), Nat.mul_zero, Nat.zero_add]; rfl
    | succ i => rw [if_neg (by omega), show 8 * (i + 1) + b - 8 = 8 * i + b by omega, ih, List.getD_cons_succ]

theorem testBit_of_eq_allOnes {m n i : Nat} (h : m = 2 ^ n - 1) (k : i < n) : m.testBit i = true := by
  rw [h, Nat.testBit_two_pow_sub_one, decide_eq_true k]

/-- The bits of the memory block at an address. -/
theorem State.getLsbD_line (s : State) (pa : Nat) {i b : Nat} (h : i < 64) (k : b < 8) :
    (s.line pa).getLsbD (8 * i + b) = (memRead s.mem (pa / 64 * 64 + i)).getLsbD b := by
  have bytes : (memBytes s.mem (pa / 64 * 64) 64).take 64 = memBytes s.mem (pa / 64 * 64) 64 :=
    List.take_of_length_le (by simp [memBytes])
  rw [State.line, bytesLine, BitVec.getLsbD_ofNat, leAt, List.drop_zero, bytes, testBit_foldr_bytes _ k]
  simp [memBytes, h, show 8 * i + b < 512 by omega]

/-! ### Parts of a block (R249) -/

/-- A byte of the block none of whose bits are written stays as it was. -/
theorem State.mergeLine_unmasked (s : State) {pa mask i : Nat} (d : Nat) (p : Bool) (block : pa / 64 * 64 ≤ i)
    (h : ∀ b, b < 8 → mask.testBit (8 * (i - pa / 64 * 64) + b) = false) :
    memRead (s.mergeLine pa mask d p).mem i = memRead s.mem i := by
  by_cases below : i < pa / 64 * 64 + 64
  case neg => exact State.mergeLine_outside s mask d p (.inr (Nat.not_lt.1 below))
  obtain ⟨k, rfl⟩ := Nat.exists_eq_add_of_le block
  rw [Nat.add_sub_cancel_left] at h
  unfold State.mergeLine
  split
  case isTrue whole =>
    exact absurd (testBit_of_eq_allOnes whole (show 8 * k + 0 < 512 by omega)) (by rw [h 0 (by decide)]; exact Bool.false_ne_true)
  case isFalse =>
    rw [State.putLine_mem, memRead_memPut_same (by rw [length_lineBytes]; omega)]
    refine BitVec.eq_of_getLsbD_eq fun b hb => ?_
    have inside : 8 * k + b < 512 := by omega
    have kept : (BitVec.ofNat 512 mask).getLsbD (8 * k + b) = false := by rw [BitVec.getLsbD_ofNat, h b hb, Bool.and_false]
    rw [getLsbD_lineBytes _ (by omega) hb]
    simp only [BitVec.getLsbD_or, BitVec.getLsbD_and, BitVec.getLsbD_not, kept, inside, BitVec.ofNat_toNat, BitVec.setWidth_eq,
      State.getLsbD_line s pa (show k < 64 by omega) hb, decide_true, Bool.not_false, Bool.and_true, Bool.and_false, Bool.or_false]

/-! ### What lies outside a range -/

theorem sameOutside_refl {a n : Nat} {m : List Host.Cell} : sameOutside a n m m := fun _ _ => rfl

theorem sameOutside_trans {a n : Nat} {m m' m'' : List Host.Cell} (h : sameOutside a n m m') (k : sameOutside a n m' m'') :
    sameOutside a n m m'' := fun i o => (k i o).trans (h i o)

theorem sameOutside_mono {a b n k : Nat} {m m' : List Host.Cell} (h : sameOutside b k m m') (lo : a ≤ b) (hi : b + k ≤ a + n) :
    sameOutside a n m m' := fun i o => h i (by omega)

theorem sameOutside_of_eq {a n : Nat} {m m' : List Host.Cell} (h : m' = m) : sameOutside a n m m' := h ▸ sameOutside_refl

/-- Bytes written within one block change no other byte. -/
theorem State.putPart_sameOutside (s : State) (a : Nat) (l : List Byte) :
    sameOutside a l.length s.mem (s.putPart a l).mem := by
  intro i outside
  unfold State.putPart
  dsimp only
  by_cases block : a / 64 * 64 ≤ i
  case neg => exact State.mergeLine_outside s _ _ false (.inl (Nat.not_le.1 block))
  refine State.mergeLine_unmasked s _ false block fun b hb => ?_
  rw [Nat.testBit_mul_two_pow, Nat.testBit_two_pow_sub_one]
  simp only [Bool.and_eq_false_iff, decide_eq_false_iff_not]
  omega

/-! ### Ranges as the blocks they lie in (R243) -/

/-- The parts of a range lie inside it, each in one block, none empty. -/
theorem mem_blockParts {a : Nat} {l : List Byte} {q : Nat × List Byte} (h : q ∈ blockParts a l) :
    a ≤ q.1 ∧ q.1 + q.2.length ≤ a + l.length ∧ q.1 % 64 + q.2.length ≤ 64 ∧ q.2 ≠ [] := by
  unfold blockParts at h
  dsimp only at h
  rw [List.mem_append] at h
  obtain first | later := h
  · split at first
    · cases first
    · obtain rfl := List.mem_singleton.1 first
      rw [← List.length_pos_iff]
      dsimp only
      rw [List.length_take]
      omega
  · rw [List.mem_map] at later
    obtain ⟨i, mem, rfl⟩ := later
    rw [List.mem_range, cdiv] at mem
    rw [← List.length_pos_iff]
    dsimp only
    rw [List.length_take, List.length_drop]
    omega

/-- Bytes within one block are one part. -/
theorem blockParts_within {a : Nat} {l : List Byte} (h : a % 64 + l.length ≤ 64) (filled : l ≠ []) :
    blockParts a l = [(a, l)] := by
  have pos := List.length_pos_iff.2 filled
  unfold blockParts cdiv
  dsimp only
  by_cases aligned : a % 64 = 0
  · rw [show min l.length ((64 - a % 64) % 64) = 0 by omega, if_pos rfl,
      show (l.length - 0 + 64 - 1) / 64 = 1 by omega]
    simp [List.take_of_length_le (show l.length ≤ 64 by omega)]
  · rw [show min l.length ((64 - a % 64) % 64) = l.length by omega, if_neg (by omega),
      show (l.length - l.length + 64 - 1) / 64 = 0 by omega]
    simp

theorem blockParts_nil (a : Nat) : blockParts a [] = [] := by simp [blockParts, cdiv]

/-- Bytes written as parts of blocks change no other byte. -/
theorem State.putBytes_sameOutside (s : State) (a : Nat) (l : List Byte) :
    sameOutside a l.length s.mem (s.putBytes a l).mem := by
  refine List.foldlRecOn (motive := fun u : State => sameOutside a l.length s.mem u.mem) _ _ (sameOutside_refl) ?_
  intro u written q mem
  obtain ⟨lo, hi, -⟩ := mem_blockParts mem
  exact sameOutside_trans written (sameOutside_mono (State.putPart_sameOutside u q.1 q.2) lo hi)

/-! ### Zero-filled ranges and pages (R255) -/

/-- A byte of a cleared range reads 0. -/
theorem memRead_memZero_same (m : List Host.Cell) {a n i : Nat} (lo : a ≤ i) (hi : i < a + n) : memRead (memZero m a n) i = 0#8 := by
  unfold memRead memZero sgetD
  have gone : sget (m.filter fun c => !(decide (a ≤ c.1) && decide (c.1 < a + n))) i = none := by
    induction m with
    | nil => rfl
    | cons c m ih =>
      obtain ⟨k, b⟩ := c
      rw [List.filter_cons]
      split
      case isTrue kept =>
        have other : k ≠ i := by rintro rfl; simp [lo, hi] at kept
        rw [sget, if_neg other, ih]
      case isFalse => exact ih
  rw [gone]; rfl

theorem State.zeroFill_mem (s : State) (pa n : Nat) : (s.zeroFill pa n).mem = memZero s.mem pa n :=
  State.countHbm_only .mem (by decide)

theorem State.zeroFill_sameOutside (s : State) (pa n : Nat) : sameOutside pa n s.mem (s.zeroFill pa n).mem := fun _ outside => by
  rw [State.zeroFill_mem, memRead_memZero_other outside]

theorem State.ownPage_sameOutside (s : State) (j pa : Nat) : sameOutside pa (2 ^ 21) s.mem (s.ownPage j pa).mem := by
  unfold State.ownPage
  split
  · exact sameOutside_refl
  · refine sameOutside_trans (State.zeroFill_sameOutside s pa (2 ^ 21)) (sameOutside_of_eq ?_)
    exact holds_ite (Q := fun u : State => u.mem = (s.zeroFill pa (2 ^ 21)).mem) (State.charge_only .mem (by decide)) rfl

/-- A page that is mapped is made the job's own, and its entry is written. -/
theorem State.mapPage_mem (s : State) (j : Nat) (m : MapEnt) :
    (s.mapPage j m).mem = ((s.ownPage j m.pa).setEntry j m.va (m.pa + 1 + 2 * b2n m.write)).mem := by
  unfold State.mapPage
  dsimp only
  split <;> rfl

/-! ### Translation tables (R252) -/

section
variable (s : State) (j va v : Nat)

theorem State.setEntry_without (h : s.l2Table j va = none) : s.setEntry j va v = s := by
  unfold State.setEntry
  rw [h]

theorem State.setEntry_sameOutside {a : Nat} (h : s.l2Table j va = some a) :
    sameOutside (a + 8 * bits va 32 21) 8 s.mem (s.setEntry j va v).mem := by
  unfold State.setEntry
  rw [h]
  exact State.putBytes_sameOutside s _ (leBytes 8 v)

theorem State.newTable_sameOutside {u : State} {kept offered rest : List Nat} {a : Nat}
    (h : s.newTable kept j offered = some (u, rest, a)) : sameOutside a (2 ^ 15) s.mem u.mem := by
  unfold State.newTable at h
  rw [Option.map_eq_some_iff] at h
  obtain ⟨b, -, made⟩ := h
  obtain ⟨rfl, -, rfl⟩ : _ ∧ _ ∧ b = a := by simpa only [Prod.mk.injEq] using made
  exact State.zeroFill_sameOutside s b (2 ^ 15)

theorem State.unmapRange_mem {jb : Job} (n : Nat) (h : s.job j = some jb) : (s.unmapRange j va n).mem
    = ((jb.maps.filter fun m => decide (va ≤ m.va) && decide (m.va < va + n)).foldl (fun u m => u.setEntry j m.va 0) s).mem := by
  unfold State.unmapRange
  rw [h]
  rfl

end

/-! ### Group records (R314) -/

theorem State.groupBase_congr {s u : State} (h : ∀ o, u.live .sched 0 o = s.live .sched 0 o) : u.groupBase = s.groupBase := by
  unfold State.groupBase
  rw [h, h]

/-- Writes of memory count on pages of HBM, and leave the live words of every page. -/
theorem State.live_putLine (s : State) (pa : Nat) (d : Line) (p : Bool) (o : Nat) :
    (s.putLine pa d p).live .sched 0 o = s.live .sched 0 o := by
  unfold State.putLine State.countHbm
  dsimp only
  split
  · rw [State.live_count]; rfl
  · rfl

theorem State.live_countHbm (s : State) (pa off n o : Nat) : (s.countHbm pa off n).live .sched 0 o = s.live .sched 0 o := by
  unfold State.countHbm
  split
  · exact State.live_count ..
  · rfl

theorem State.live_mergeLine (s : State) (pa mask d : Nat) (p : Bool) (o : Nat) :
    (s.mergeLine pa mask d p).live .sched 0 o = s.live .sched 0 o := by
  unfold State.mergeLine
  split
  · exact State.live_putLine ..
  · rw [State.live_putLine, State.countRead, State.live_countHbm, State.live_countHbm]

theorem State.groupBase_putBytes (s : State) (a : Nat) (l : List Byte) : (s.putBytes a l).groupBase = s.groupBase :=
  holds_foldl (Q := fun u : State => u.groupBase = s.groupBase) rfl fun u _ h =>
    (State.groupBase_congr fun o => State.live_mergeLine u _ _ _ false o).trans h

/-- A record of an image is written in the group table. -/
def State.putRecord (s : State) (j : Nat) (q : Nat × List Byte) : State := s.putBytes (s.groupBase + 128 * q.1) (ownRecord j q.2)

theorem State.foldl_setHub_mem (s : State) (f : State → Nat → Hub) (l : List Nat) :
    (l.foldl (fun (u : State) h => u.setHub h (f u h)) s).mem = s.mem :=
  foldl_keeps (g := State.mem) (f := fun u h => u.setHub h (f u h)) (fun _ _ => rfl) l s

/-- Of what a load of groups does, its records alone reach memory. -/
theorem State.loadGroups_mem (s : State) (j : Nat) (jb : Job) (im : LoadImage) :
    (s.loadGroups j jb im).mem = (im.groups.foldl (fun u q => u.putRecord j q) s).mem := by
  unfold State.loadGroups
  extract_lets old kept nums records v valid sched stepped
  have shadowed : valid.mem = records.mem := State.setGroupValid_only .mem (by decide)
  have started : stepped.mem = valid.mem := rfl
  clear_value stepped
  exact (State.foldl_setHub_mem stepped _ (List.range 4)).trans (started.trans shadowed)

/-- The records of an image are written, and no byte that lies in none of them. -/
theorem State.loadGroups_elsewhere (s : State) (j : Nat) (jb : Job) (im : LoadImage) {i : Nat}
    (h : ∀ q ∈ im.groups, i < s.groupBase + 128 * q.1 ∨ s.groupBase + 128 * q.1 + (ownRecord j q.2).length ≤ i) :
    memRead (s.loadGroups j jb im).mem i = memRead s.mem i := by
  rw [State.loadGroups_mem]
  refine (List.foldlRecOn (motive := fun u : State => memRead u.mem i = memRead s.mem i ∧ u.groupBase = s.groupBase) _ _
    ⟨rfl, rfl⟩ fun u kept q mem => ⟨?_, (State.groupBase_putBytes u _ _).trans kept.2⟩).1
  exact (State.putBytes_sameOutside u _ _ i (by rw [kept.2]; exact h q mem)).trans kept.1

end Sys2Proof.Machine
end

section
/-! PROOFS. The writes of the update unit, of a moved pitch and of the tests of the device (R298, R311, R316, R322 to R325, R378,
R418). -/
namespace Sys2Proof.Machine

/-! ### One part of a unit's write (R248, R311) -/

/-- The unit writes the bytes of one part, or fails all eight tries. -/
def State.unitWritePart (s : State) (j n : Nat) (fails : List (Nat × Nat)) (q : Nat × List Byte) : State :=
  let pa := unitDest s j q.1
  let w := s.writeFails pa (sgetD fails (pa / 64 * 64) 0)
  if w.2 then w.1.unitWriteFail j n pa else (w.1.putPart pa q.2).chargeBlock j pa 0x78

theorem State.unitWrite_eq (s : State) (j n va : Nat) (l : List Byte) (fails : List (Nat × Nat)) :
    s.unitWrite j n va l fails = (blockParts va l).foldl (fun u q => u.unitWritePart j n fails q) s := rfl

section
variable (s : State) (j n : Nat) (fails : List (Nat × Nat))

theorem State.unitWrite_nil (va : Nat) : s.unitWrite j n va [] fails = s := by
  rw [State.unitWrite_eq, blockParts_nil, List.foldl_nil]

theorem State.unitWrite_within {va : Nat} {l : List Byte} (h : va % 64 + l.length ≤ 64) (filled : l ≠ []) :
    s.unitWrite j n va l fails = s.unitWritePart j n fails (va, l) := by
  rw [State.unitWrite_eq, blockParts_within h filled, List.foldl_cons, List.foldl_nil]

/-- A write of the unit goes part by part. -/
theorem State.unitWrite_parts (va : Nat) (l : List Byte) :
    s.unitWrite j n va l fails = (blockParts va l).foldl (fun u q => u.unitWrite j n q.1 q.2 fails) s := by
  rw [State.unitWrite_eq]
  refine List.foldl_ext _ _ s fun u q mem => ?_
  obtain ⟨-, -, within, filled⟩ := mem_blockParts mem
  exact (State.unitWrite_within u j n fails within filled).symm

theorem State.unitWritePart_failed {q : Nat × List Byte} (h : 8 ≤ sgetD fails (unitDest s j q.1 / 64 * 64) 0) :
    (s.unitWritePart j n fails q).mem = s.mem := by
  have failed : (s.writeFails (unitDest s j q.1) (sgetD fails (unitDest s j q.1 / 64 * 64) 0)).2 = true := by
    unfold State.writeFails
    rw [if_neg (Nat.not_lt.2 h)]
  refine (congrArg State.mem (if_pos failed)).trans ?_
  exact (State.unitWriteFail_only .mem (by decide)).trans (State.writeFails_only .mem (by decide))

theorem State.unitWritePart_sameOutside (q : Nat × List Byte) :
    sameOutside (unitDest s j q.1) q.2.length s.mem (s.unitWritePart j n fails q).mem := by
  let w := s.writeFails (unitDest s j q.1) (sgetD fails (unitDest s j q.1 / 64 * 64) 0)
  have tried : w.1.mem = s.mem := State.writeFails_only .mem (by decide)
  have charged : ((w.1.putPart (unitDest s j q.1) q.2).chargeBlock j (unitDest s j q.1) 0x78).mem
      = (w.1.putPart (unitDest s j q.1) q.2).mem := State.chargeBlock_only .mem (by decide)
  have given := State.putPart_sameOutside w.1 (unitDest s j q.1) q.2
  rw [tried, ← charged] at given
  refine holds_ite (Q := fun u : State => sameOutside (unitDest s j q.1) q.2.length s.mem u.mem) (sameOutside_of_eq ?_) given
  exact (State.unitWriteFail_only .mem (by decide)).trans tried

end

/-! ### Planes of a tensor block (R316, R322 to R325) -/

/-- Seals, counts and messages leave memory as the planes' writes leave it. -/
theorem State.writeUpdate_mem (s : State) (h j n gi k : Nat) (g : Group) (seed : W64) (es : List ElemOut)
    (fails : List (Nat × Nat)) : (s.writeUpdate h j n gi k g seed es fails).mem
      = ((updatePlanes j n gi k g seed es).foldl (fun u p => u.unitWrite j n p.1 p.2 fails) s).mem := by
  unfold State.writeUpdate
  extract_lets w wc mb vb sc planes written sealed_ pg counted
  have hsealed : sealed_.mem = written.mem := (State.addSeal_only .mem (by decide)).trans (State.setPending_only .mem (by decide))
  have hcounted : counted.mem = sealed_.mem := (State.count_only .mem (by decide)).trans
    ((State.count_only .mem (by decide)).trans (State.count_only .mem (by decide)))
  exact (State.sendWcopy_only .mem (by decide)).trans (hcounted.trans hsealed)

theorem State.factNext_mem (s : State) (h j n gi k : Nat) (c : GroupCur) (a : FactAcc) (fails : List (Nat × Nat)) :
    (s.factNext h j n gi k c a fails).mem =
      if c.nextLive (k + 1) < (groupOf c.record).count then s.mem
      else ((s.setFact h { a with next := c.nextLive (k + 1) }).unitWrite j n (groupOf c.record).vaV
        ((a.newStats c.coef).flatMap fun x => leBytes 4 x.toNat) fails).mem := by
  unfold State.factNext
  extract_lets g next fact written marked
  split
  · exact State.setFact_only .mem (by decide)
  · have counted : written.mem = (fact.unitWrite j n g.vaV _ fails).mem := State.count_only .mem (by decide)
    have stands : marked.mem = written.mem := by clear_value written; rfl
    exact (State.setPending_only .mem (by decide)).trans (stands.trans counted)

section
variable (s : State) (j n gi k : Nat) (g : Group) (l : List Byte) (fails : List (Nat × Nat))

/-- A working copy that is refused writes nothing. -/
theorem State.takeWcopy_bad_mem : (s.takeWcopy j n gi k g true l fails).mem = s.mem := by
  unfold State.takeWcopy
  dsimp only
  rw [if_pos rfl]
  exact State.raise_only .mem (by decide)

theorem State.takeWcopy_good_mem :
    let h := s.unitOf g k
    let u := s.setHub h { s.hub h with await := (s.hub h).await.filter fun q => q != (gi, k, n) }
    let v := u.unitWrite j n (g.vaWc + blockBytes g.fmt * k) (l.take (blockBytes g.fmt)) fails
    (s.takeWcopy j n gi k g false l fails).mem = if g.fmt.scaled
      then (v.unitWrite j n (g.vaWcs + 32 * k) ((l.drop (blockBytes g.fmt)).take 32) fails).mem else v.mem := by
  intro h u v
  refine (State.count_only .mem (by decide)).trans ((State.setPending_only .mem (by decide)).trans ?_)
  exact apply_ite State.mem _ _ _

end

/-! ### Moves and tests (R378, R418) -/

/-- What a move writes when no hall page goes with it: every part of its list but memory. -/
abbrev moveParts : List Part :=
  [.boot, .pages, .stalls, .jobs, .hubs, .aisles, .halves, .clerk, .rings, .events, .ledgers, .trace, .out, .freeIx]

/-- A pitch without hall pages only has its job's translations invalidated. -/
theorem State.moveHalls_only_hubs {s : State} {j p : Nat} {halls : List Nat} {jb : Job} (job : s.job j = some jb)
    (noHall : ∀ m ∈ jb.maps, m.hall = none) : Opt (Only [.hubs] s) (s.moveHalls j p halls) := by
  intro u moved
  unfold State.moveHalls at moved
  rw [job] at moved
  dsimp only at moved
  rw [List.filter_eq_nil_iff.2 fun m mem => by simp [noHall m mem]] at moved
  obtain rfl : s.invalidateJob j = u := by simpa using moved
  exact State.invalidateJob_only

/-- The stalls that a placement takes leave the jobs as they were. -/
theorem State.takeStalls_only {u : State} {j : Nat} {jb : Job} {l : List (Nat × Nat × Nat)} :
    Only [.pages, .stalls] u (l.foldl (fun s q => s.takeStall j jb q.1 q.2.2) u) := by
  refine holds_foldl (.refl _) fun v q h => ?_
  exact h.step State.takeStall_only

theorem State.movePitch_only_noHall {s : State} {j p phase : Nat} {why : MoveWhy} {sns halls : List Nat} {jb : Job}
    (job : s.job j = some jb) (noHall : ∀ m ∈ jb.maps, m.hall = none) :
    Opt (Only moveParts s) (s.movePitch j p phase why sns halls) := by
  unfold State.movePitch
  split
  case h_1 => exact .ofNone
  case h_2 own found =>
    obtain rfl : own = jb := Option.some.inj (found.symm.trans job)
    split
    case h_1 => exact .ofNone
    case h_2 =>
      extract_lets +onlyGivenNames old rest again left kept emptied taken cleared plan
      have hleft : Only moveParts s left := holds_foldl (.refl _) fun v sn h => h.step State.leaveStall_only
      have hcleared : Only moveParts s cleared := (hleft.step State.setJob_only).step State.setJob_only
      clear_value cleared plan
      refine holds_ite .ofNone (Opt.bind Opt.any fun new _ => ?_)
      extract_lets +onlyGivenNames jb2 placed settled
      have hplaced : Only moveParts s placed := hcleared.step State.setJob_only
      have job2 : placed.job j = some jb2 := State.job_setJob cleared j jb2
      have halls2 : ∀ m ∈ jb2.maps, m.hall = none := noHall
      have frame : Only [.pages, .stalls] placed settled := State.takeStalls_only
      clear_value jb2 placed settled
      have here : settled.job j = some jb2 := by
        unfold State.job
        rw [show settled.jobs = placed.jobs from frame .jobs (by decide)]
        exact job2
      have hsettled : Only moveParts s settled := hplaced.step frame
      refine Opt.map (P := Only moveParts s) (Only.stepOpt hsettled (State.moveHalls_only_hubs here halls2)) fun v hv => ?_
      extract_lets +onlyGivenNames committed charged lead
      have hcommitted : Only moveParts s committed := (hv.step State.commitStalls_only).step State.writeArbRotas_only
      clear_value committed
      have hcharged : Only moveParts s charged := (hcommitted.step State.charge_only).step State.count_only
      clear_value charged lead
      exact hcharged.step State.raise_only

theorem State.testStalls_mem (s : State) (scope : List Nat) (f : Inspection) : (s.testStalls scope f).mem = s.mem :=
  State.testStalls_only .mem (by decide)

end Sys2Proof.Machine
end

section
/-! PROOFS. What each command leaves as it was: every part of the state outside its list, and every byte outside its writes
(R243, R249, R252, R255, R311, R314). -/
namespace Sys2Proof.Machine

theorem Nxt.mono {v w : List Part} {s : State} {o : Host.Outcome State Fault Refusal} (h : Nxt (Only v s) o)
    (k : v.all w.contains = true) : Nxt (Only w s) o := fun t answers => (h t answers).mono k

/-- Each command writes parts of its own list alone. -/
theorem exec_only (c : Instr) (s : State) : Nxt (Only (mayWrite c) s) (exec c s) := by
  cases c with
  | pllLock => exact execPllLock_only.mono rfl
  | roundBoundary => exact execRoundBoundary_only.mono rfl
  | powerFrameUpdate => exact execPowerFrameUpdate_only.mono rfl
  | syncPeriodBoundary => exact execSyncPeriodBoundary_only.mono rfl
  | bellsyncPulseCheck => exact execBellsyncPulseCheck_only.mono rfl
  | timeMarkReceive t port w0 w1 => exact (execTimeMarkReceive_only (a3 := w1)).mono rfl
  | syncWindowExpiry => exact execSyncWindowExpiry_only.mono rfl
  | bellrefLoss => exact execBellrefLoss_only.mono rfl
  | pllRelock => exact execPllRelock_only.mono rfl
  | acquire => exact execAcquire_only.mono rfl
  | kupReport => exact execKupReport_only.mono rfl
  | kupReceive t port w0 w1 => exact (execKupReceive_only (a2 := w0)).mono rfl
  | kmasterIntake => exact execKmasterIntake_only.mono rfl
  | kdownReceive => exact execKdownReceive_only.mono rfl
  | streamChunkArrival => exact execStreamChunkArrival_only.mono rfl
  | ldw => exact execLdw_only.mono rfl
  | mma => exact execMma_only.mono rfl
  | vop => exact execVop_only.mono rfl
  | vred => exact execVred_only.mono rfl
  | vnormStat => exact execVnormStat_only.mono rfl
  | vnormApply => exact execVnormApply_only.mono rfl
  | vsmaxStat => exact execVsmaxStat_only.mono rfl
  | vsmaxApply => exact execVsmaxApply_only.mono rfl
  | vsfn => exact execVsfn_only.mono rfl
  | pack => exact execPack_only.mono rfl
  | unpack => exact execUnpack_only.mono rfl
  | groupidx => exact execGroupidx_only.mono rfl
  | get => exact execGet_only.mono rfl
  | put => exact execPut_only.mono rfl
  | gather => exact execGather_only.mono rfl
  | ahead => exact execAhead_only.mono rfl
  | send => exact execSend_only.mono rfl
  | bulk => exact execBulk_only.mono rfl
  | grant => exact execGrant_only.mono rfl
  | checkcmp => exact execCheckcmp_only.mono rfl
  | waitw => exact execWaitw_only.mono rfl
  | stepEnd => exact execStepEnd_only.mono rfl
  | wordCompletion => exact execWordCompletion_only.mono rfl
  | hbmBlockArrival => exact execHbmBlockArrival_only.mono rfl
  | porterTransferComplete => exact execPorterTransferComplete_only.mono rfl
  | hbmBlockWrite => exact execHbmBlockWrite_only.mono rfl
  | porterTagTimeout => exact execPorterTagTimeout_only.mono rfl
  | pageFaultTagRelease => exact execPageFaultTagRelease_only.mono rfl
  | porterStarveTimer => exact execPorterStarveTimer_only.mono rfl
  | aheadBlockArrival => exact execAheadBlockArrival_only.mono rfl
  | stealerPortGrant => exact execStealerPortGrant_only.mono rfl
  | scrubComplete => exact execScrubComplete_only.mono rfl
  | bankWakeComplete => exact execBankWakeComplete_only.mono rfl
  | storeTestRegion => exact execStoreTestRegion_only.mono rfl
  | msgFlit0Arrival => exact execMsgFlit0Arrival_only.mono rfl
  | msgLastFlitArrival => exact execMsgLastFlitArrival_only.mono rfl
  | msgTruncationTimeout => exact execMsgTruncationTimeout_only.mono rfl
  | bridgeFlitReceive => exact execBridgeFlitReceive_only.mono rfl
  | bridgeNakReceive => exact execBridgeNakReceive_only.mono rfl
  | arbCycleDecision => exact execArbCycleDecision_only.mono rfl
  | stepCtrlGo => exact execStepCtrlGo_only.mono rfl
  | stepCtrlAbort => exact execStepCtrlAbort_only.mono rfl
  | stepDrainEnd => exact execStepDrainEnd_only.mono rfl
  | ringPtrWrite => exact execRingPtrWrite_only.mono rfl
  | checkValWrite => exact execCheckValWrite_only.mono rfl
  | rerunArm => exact execRerunArm_only.mono rfl
  | xlateInval => exact execXlateInval_only.mono rfl
  | commit => exact execCommit_only.mono rfl
  | grpStepWrite => exact execGrpStepWrite_only.mono rfl
  | ledgerSnap => exact execLedgerSnap_only.mono rfl
  | ledgerRelease => exact execLedgerRelease_only.mono rfl
  | aisleRetrain => exact execAisleRetrain_only.mono rfl
  | bootGo => exact execBootGo_only.mono rfl
  | ringCtrlEnable => exact execRingCtrlEnable_only.mono rfl
  | registerWrite => exact execRegisterWrite_only.mono rfl
  | lowWordRead => exact execLowWordRead_only.mono rfl
  | rcFieldRead => exact execRcFieldRead_only.mono rfl
  | gradientFrameArrival => exact execGradientFrameArrival_only.mono rfl
  | gradMessageReceive => exact execGradMessageReceive_only.mono rfl
  | tensorBlockUpdate => exact execTensorBlockUpdate_only.mono rfl
  | wcopyMessageReceive => exact execWcopyMessageReceive_only.mono rfl
  | scheduleCompute => exact execScheduleCompute_only.mono rfl
  | stepClose => exact execStepClose_only.mono rfl
  | flagWordSend => exact execFlagWordSend_only.mono rfl
  | flagWordReceive => exact execFlagWordReceive_only.mono rfl
  | guardArm => exact execGuardArm_only.mono rfl
  | guardPeerDeadline => exact execGuardPeerDeadline_only.mono rfl
  | aisleFlitReceive => exact execAisleFlitReceive_only.mono rfl
  | aisleMessageReceive => exact execAisleMessageReceive_only.mono rfl
  | aisleAckTimeout => exact execAisleAckTimeout_only.mono rfl
  | aisleNakRepeat => exact execAisleNakRepeat_only.mono rfl
  | aisleLaneLockLoss => exact execAisleLaneLockLoss_only.mono rfl
  | aisleLinkTimeout => exact execAisleLinkTimeout_only.mono rfl
  | aisleLanesLocked => exact execAisleLanesLocked_only.mono rfl
  | identReceive => exact execIdentReceive_only.mono rfl
  | creditRevoke => exact execCreditRevoke_only.mono rfl
  | sealReceive => exact execSealReceive_only.mono rfl
  | sealTableReceive => exact execSealTableReceive_only.mono rfl
  | sealTableTimeout => exact execSealTableTimeout_only.mono rfl
  | abortReceive => exact execAbortReceive_only.mono rfl
  | doorlineInval => exact execDoorlineInval_only.mono rfl
  | doorlinePoll => exact execDoorlinePoll_only.mono rfl
  | jobOpen => exact execJobOpen_only.mono rfl
  | jobLoad => exact execJobLoad_only.mono rfl
  | jobMap => exact execJobMap_only.mono rfl
  | stepRun => exact execStepRun_only.mono rfl
  | stepAbort => exact execStepAbort_only.mono rfl
  | jobClose => exact execJobClose_only.mono rfl
  | jobSuspend => exact execJobSuspend_only.mono rfl
  | jobResume => exact execJobResume_only.mono rfl
  | selftest => exact execSelftest_only.mono rfl
  | selftestQueuedStart => exact execSelftestQueuedStart_only.mono rfl
  | fenceStall => exact execFenceStall_only.mono rfl
  | unfenceStall => exact execUnfenceStall_only.mono rfl
  | setPolicy => exact execSetPolicy_only.mono rfl
  | twinBind => exact execTwinBind_only.mono rfl
  | echo => exact execEcho_only.mono rfl
  | summary => exact execSummary_only.mono rfl
  | deadlineTimer => exact execDeadlineTimer_only.mono rfl
  | ledgerReconcile => exact execLedgerReconcile_only.mono rfl
  | pitchMove => exact execPitchMove_only.mono rfl
  | preemptResume => exact execPreemptResume_only.mono rfl
  | stepWatchdogExpiry => exact execStepWatchdogExpiry_only.mono rfl
  | stepRerunGo => exact execStepRerunGo_only.mono rfl
  | engineBusyExpiry => exact execEngineBusyExpiry_only.mono rfl
  | clerkWatchdogExpiry => exact execClerkWatchdogExpiry_only.mono rfl
  | companionLossTimeout => exact execCompanionLossTimeout_only.mono rfl
  | statusHeartbeat => exact execStatusHeartbeat_only.mono rfl
  | companionRead => exact execCompanionRead_only.mono rfl
  | companionWrite => exact execCompanionWrite_only.mono rfl
  | inval => exact execInval_only.mono rfl
  | lemefHalfLost => exact execLemefHalfLost_only.mono rfl
  | lemefTrained => exact execLemefTrained_only.mono rfl
  | resetNRelease => exact execResetNRelease_only.mono rfl
  | resetNAssert => exact execResetNAssert_only.mono rfl
  | pwrGoodFall => exact execPwrGoodFall_only.mono rfl
  | pwrGoodRise => exact execPwrGoodRise_only.mono rfl
  | bootTakeover => exact execBootTakeover_only.mono rfl
  | imageFetchComplete => exact execImageFetchComplete_only.mono rfl
  | openingInspectionDone => exact execOpeningInspectionDone_only.mono rfl
  | thermtrip => exact execThermtrip_only.mono rfl
  | smbusRead => exact execSmbusRead_only.mono rfl
  | tapInstruction => exact execTapInstruction_only.mono rfl
  | traceCounterSnapshot => exact execTraceCounterSnapshot_only.mono rfl
  | lemefSlotReceive => exact execLemefSlotReceive_only.mono rfl
  | lemefAckTimeout => exact execLemefAckTimeout_only.mono rfl
  | lemefRetrain => exact execLemefRetrain_only.mono rfl
  | bridgeChannelRetrain => exact execBridgeChannelRetrain_only.mono rfl
  | clerkResumesService => exact execClerkResumesService_only.mono rfl
  | vioRise => exact execVioRise_only.mono rfl
  | vioFall => exact execVioFall_only.mono rfl
  | setPolicySyncTimeout => exact execSetPolicySyncTimeout_only.mono rfl

/-- No command writes the queue. -/
theorem mayWrite_pending (c : Instr) : (mayWrite c).contains .pending = false := by cases c <;> rfl

theorem exec_pending {c : Instr} {s t : State} (answers : exec c s = .next t) : t.pending = s.pending :=
  exec_only c s t answers .pending (mayWrite_pending c)

/-- Bytes of one block are written in the frame that is not committed, or nowhere. -/
theorem State.unitWrite_sameOutside (s : State) (j n va : Nat) (l : List Byte) (fails : List (Nat × Nat))
    (within : va % 64 + l.length ≤ 64) :
    sameOutside (unitDest s j va) l.length s.mem (s.unitWrite j n va l fails).mem ∧
      (8 ≤ sgetD fails (unitDest s j va / 64 * 64) 0 → (s.unitWrite j n va l fails).mem = s.mem) := by
  obtain rfl | filled := eq_or_ne l []
  · rw [State.unitWrite_nil]
    exact ⟨sameOutside_refl, fun _ => rfl⟩
  · rw [State.unitWrite_within s j n fails within filled]
    exact ⟨State.unitWritePart_sameOutside s j n fails (va, l), State.unitWritePart_failed s j n fails (q := (va, l))⟩

/-- Settles O5: a command's parts are those of the functions it calls; its writes of memory are merged lines, whose unmasked
bits stay, and cleared ranges. -/
theorem commandsWriteOnlyTheirParts : Obligations.CommandsWriteOnlyTheirParts := by
  refine ⟨fun c s t answers => ⟨exec_only c s t answers, exec_pending answers⟩,
    fun s a b => ⟨State.putPart_sameOutside s a b, State.putBytes_sameOutside s a b⟩,
    fun s pa n => ⟨State.zeroFill_sameOutside s pa n, fun i lo hi => ?zeroed⟩,
    fun s j va v => ⟨State.setEntry_without s j va v, fun a => State.setEntry_sameOutside s j va v⟩,
    fun s u kept offered rest j a => State.newTable_sameOutside s j,
    fun s j m => ⟨State.ownPage_sameOutside s j m.pa, State.mapPage_mem s j m⟩,
    fun s j va n jb job => State.unmapRange_mem s j va n job,
    fun s j jb im frames => ⟨fun u loaded => State.loadUnits_only u loaded .mem (by decide),
      State.loadStalls_only .mem (by decide), fun i => State.loadGroups_elsewhere s j jb im⟩,
    fun s u j p phase why sns halls jb job noHall moved =>
      State.movePitch_only_noHall job noHall u moved .mem (by decide),
    fun s j n va l fails =>
      ⟨State.unitWrite_sameOutside s j n va l fails, State.unitWrite_parts s j n fails va l, fun q mem => ?part⟩,
    State.writeUpdate_mem, State.factNext_mem,
    fun s j n gi k g l fails => ⟨State.takeWcopy_bad_mem s j n gi k g l fails, State.takeWcopy_good_mem s j n gi k g l fails⟩,
    fun s f scope => ⟨State.testDevice_mem s f, State.testStalls_mem s scope f⟩⟩
  case zeroed => rw [State.zeroFill_mem, memRead_memZero_same s.mem lo hi]
  case part =>
    obtain ⟨-, -, within, -⟩ := mem_blockParts mem
    exact within

end Sys2Proof.Machine
end

section
/-! PROOFS. Recording an event and acting by its severity (R291, R390 to R393, R402, R460). -/
set_option Elab.async false
namespace Sys2Proof.Machine

/-! ### The block that a PAGE_ID names (R460) -/

theorem PageTy.code_lt (p : PageTy) : p.code < 2 ^ 16 := by cases p <;> decide

theorem bits_pageId_code (p : PageTy) (i : Nat) : bits (pageId p i).toNat 15 0 = p.code := by
  have small := p.code_lt
  unfold bits pageId
  rw [BitVec.toNat_ofNat, Nat.shiftRight_zero]
  omega

theorem bits_pageId_instance (p : PageTy) {i : Nat} (h : i < 2 ^ 16) : bits (pageId p i).toNat 31 16 = i := by
  have small := p.code_lt
  unfold bits pageId
  rw [BitVec.toNat_ofNat, Nat.shiftRight_eq_div_pow]
  omega

/-! ### The log after an event (R390, R392, R393) -/

section
variable (s : State) (e : Ev)

theorem State.record_recs_of_room (room : s.events.recs.length < 256) :
    (s.record e).events.recs = s.events.recs ++ [⟨e, s.events.next, false⟩] := by
  rw [State.record_events]
  refine if_neg ?_
  rw [List.length_append, List.length_singleton]
  omega

variable {s} {o : EvRec} {l : List EvRec} (recs : s.events.recs = o :: l) (full : s.events.recs.length = 256)
include recs full

/-- The oldest of 256 records gives way. -/
theorem State.record_recs_of_full : (s.record e).events.recs = l ++ [⟨e, s.events.next, false⟩] := by
  rw [State.record_events]
  refine (if_pos ?_).trans (by rw [recs]; rfl)
  rw [List.length_append, List.length_singleton, full]
  decide

/-- A record that gives way before it was posted is lost (R436). -/
theorem State.record_lost_of_full :
    (s.record e).rings.lost = (s.rings.lost + if o.posted then 0 else 1) % 2 ^ 32 := by
  unfold State.record
  extract_lets r grown lost y s1 s2 s3 pg p s4 f
  have gone : lost = !o.posted := by
    have exceeds : 256 < grown.length := by
      rw [List.length_append, List.length_singleton, full]
      decide
    simp only [lost, exceeds, decide_true, Bool.true_and]
    simp only [grown, recs, List.cons_append]
  have counted : s3.rings = s1.rings := by
    have first : s2.rings = s1.rings := State.count_only .rings (by decide)
    refine holds_ite (Q := fun u : State => u.rings = s1.rings) ?_ first
    exact (State.count_only .rings (by decide)).trans first
  have paged : s4.rings = s3.rings := State.setPage_only .rings (by decide)
  have traced : (s4.traceRec 0 r.bytes).rings = s4.rings := State.traceRec_only .rings (by decide)
  have stands : s4.rings.lost = (s.rings.lost + if o.posted then 0 else 1) % 2 ^ 32 := by
    rw [paged, counted]
    simp only [s1, gone]
    cases o.posted <;> rfl
  refine holds_ite (Q := fun u : State => u.rings.lost = _) ?_ stands
  rw [traced]
  exact stands

end

/-! ### What follows from the severity (R291, R391, R402) -/

/-- The event is recorded and its flag set in the flag word of the job that it names. -/
def State.recordFlagged (s : State) (e : Ev) : State :=
  match e.job with
  | some j => (s.record e).flagJob j (flagBit e.code) e.tick
  | none => s.record e

section
variable (s : State) {e : Ev}

/-- Below JOB_FATAL only the codes of R402 act on the job. -/
theorem State.raise_minor {j : Nat} (minor : e.sev < 2) (job : e.job = some j) :
    s.raise e = (if abortCode e.code then (s.recordFlagged e).abortSteps j e.code else s.recordFlagged e).post := by
  obtain ⟨code, sev, named, source, step, tick, aux⟩ := e
  obtain rfl : named = some j := job
  obtain rfl | rfl : sev = 0 ∨ sev = 1 := by simp only at minor; omega
  · rfl
  · rfl

theorem State.raise_jobFatal {j : Nat} (fatal : e.sev = 2) (job : e.job = some j) :
    s.raise e = ((s.recordFlagged e).failJob j e.code).post := by
  obtain ⟨code, sev, named, source, step, tick, aux⟩ := e
  obtain rfl : named = some j := job
  obtain rfl : sev = 2 := fatal
  rfl

/-- STALL_FENCE acts where the source is a stall's page. -/
theorem State.raise_fences (fences : e.sev = 3) :
    s.raise e = (if bits e.source.toNat 15 0 = 0x42 then (s.recordFlagged e).fence (bits e.source.toNat 31 16) e.code
      else s.recordFlagged e).post := by
  obtain ⟨code, sev, named, source, step, tick, aux⟩ := e
  obtain rfl : sev = 3 := fences
  rfl

theorem State.raise_stallFence {n : Nat} (fences : e.sev = 3) (small : n < 2 ^ 16) (stall : e.source = pageId .stall n) :
    s.raise e = ((s.recordFlagged e).fence n e.code).post := by
  rw [State.raise_fences s fences, stall, bits_pageId_instance .stall small, bits_pageId_code]
  rfl

theorem State.raise_deviceFatal (fatal : e.sev = 4) : s.raise e = ((s.recordFlagged e).stopDevice e.code).post := by
  obtain ⟨code, sev, named, source, step, tick, aux⟩ := e
  obtain rfl : sev = 4 := fatal
  rfl

end

/-- Settles O56: the log by what recording leaves in it, and one lemma for each severity. -/
theorem eventsActBySeverity : Obligations.EventsActBySeverity := by
  unfold Obligations.EventsActBySeverity
  intro s e r f
  refine ⟨fun minor none_ => State.raise_plain none_ minor, fun j minor job => State.raise_minor s minor job,
    fun j fatal job => State.raise_jobFatal s fatal job,
    fun n fences small stall => State.raise_stallFence s fences small stall, State.raise_deviceFatal s, ?next, ?last,
    State.record_recs_of_room s e,
    fun o l recs full => ⟨State.record_recs_of_full e recs full, State.record_lost_of_full e recs full⟩⟩
  case next => rw [State.record_events]
  case last => rw [State.record_events]

end Sys2Proof.Machine
end

section
/-! PROOFS. The end of a provisional step: its close, the flag words, the guard tick and the arming of its resolution (R220, R292 to
R295, R312, R330). -/
set_option Elab.async false
namespace Sys2Proof.Machine

/-- What firmware does that pins, fuses and queue have no part in is its result, while the Clerk serves. -/
theorem Only.answersClerk {w : List Part} {s x : State} {o : Host.Outcome State Fault Refusal} (h : Only w s x)
    (k : s.clocked = true) (l : s.clerk.serving = true) (run : o = .next (s.onClerk x))
    (c : (w.contains .pins || w.contains .fuses || w.contains .pending) = false := by decide) : o = .next x := by
  rw [run, h.onClerk k l c]

@[simp] theorem State.job_advance (s : State) (t j : Nat) : (s.advance t).job j = s.job j := by
  unfold State.job
  rw [State.advance_jobs]

/-! ### Round boundaries (R293) -/

theorem upTo_mod (m t : Nat) : upTo m t % m = 0 := Nat.mul_mod_left _ _

theorem le_upTo {m : Nat} (pos : 0 < m) (t : Nat) : t ≤ upTo m t := by
  have split := Nat.div_add_mod' (t + m - 1) m
  have rest := Nat.mod_lt (t + m - 1) pos
  unfold upTo cdiv
  omega

theorem upTo_lt {m : Nat} (pos : 0 < m) (t : Nat) : upTo m t < t + m := by
  have below := Nat.div_mul_le_self (t + m - 1) m
  unfold upTo cdiv
  omega

/-- Without a planned round the guard tick is the first boundary a lead after the close. -/
theorem Job.guardTick_unplanned (jb : Job) {x : StepSt} (e : Nat) (unplanned : x.gr = 0) :
    (jb.guardTick x e).1 = upTo 4096 (e + jb.lead) := by
  unfold Job.guardTick
  rw [if_pos unplanned]

/-! ### The check of the streams (R220) -/

theorem unmatched_eq_none {a b : List (Nat × W32)} : unmatched a b = none ↔
    ∀ x : W32, a.countP (fun q => q.2 = x) ≤ b.countP (fun q => q.2 = x) := by
  unfold unmatched
  rw [Option.map_eq_none_iff, List.find?_eq_none]
  simp only [decide_eq_true_eq, Nat.not_lt]
  refine ⟨fun matched x => ?_, fun fewer q _ => fewer q.2⟩
  by_cases occurs : ∃ q ∈ a, q.2 = x
  · obtain ⟨q, mem, rfl⟩ := occurs
    exact matched q mem
  · have absent : a.countP (fun q => q.2 = x) = 0 :=
      List.countP_eq_zero.2 fun q mem same => occurs ⟨q, mem, of_decide_eq_true same⟩
    omega

section
variable (s : State) (j : Nat) {jb : Job} (far : List (Nat × W32) × List (Nat × W32))

theorem State.streamFault_unchecked (unchecked : jb.streamCheck = false) : s.streamFault j jb far = none := by
  unfold State.streamFault
  rw [unchecked]

theorem State.streamFault_eq_none (checked : jb.streamCheck = true) : s.streamFault j jb far = none ↔
    unmatched (s.foldValues j jb far).1 (s.foldValues j jb far).2 = none ∧
      unmatched (s.foldValues j jb far).2 (s.foldValues j jb far).1 = none := by
  unfold State.streamFault
  dsimp only
  rw [checked]
  generalize unmatched (s.foldValues j jb far).1 (s.foldValues j jb far).2 = unreceived
  generalize unmatched (s.foldValues j jb far).2 (s.foldValues j jb far).1 = unsent
  cases unreceived with
  | none => cases unsent <;> simp
  | some _ => simp

/-- Checked streams agree where each value is received as often as it is sent. -/
theorem State.streamFault_eq_none_iff (checked : jb.streamCheck = true) : s.streamFault j jb far = none ↔ ∀ x : W32,
    (s.foldValues j jb far).1.countP (fun q => q.2 = x) = (s.foldValues j jb far).2.countP (fun q => q.2 = x) := by
  rw [State.streamFault_eq_none s j far checked, unmatched_eq_none, unmatched_eq_none, ← forall_and]
  exact forall_congr' fun x => Nat.le_antisymm_iff.symm

end

/-! ### What a close does (R220, R292) -/

section
variable {s : State} (t : Nat) {j : Nat} {jb : Job} {x : StepSt} {far : List (Nat × W32) × List (Nat × W32)}

theorem State.closeStep_fault {aux : Nat} (differ : s.streamFault j jb far = some aux) :
    s.closeStep t j jb x far = s.raise (s.mkEv 0x3106 2 (some j) .clerk 0 (x.n % 2 ^ 32) aux) := by
  unfold State.closeStep
  rw [differ]

theorem State.closeStep_closes (agree : s.streamFault j jb far = none) :
    s.closeStep t j jb x far = (((s.setJob j { jb.updStep x.n (fun y => { y with closed := some t }) with
      lastClose := t }).freeAhead j).chooseGuard t j x.n) := by
  unfold State.closeStep
  rw [agree]

end

/-! ### The schedule engine (R312, R330) -/

section
variable {s : State} {j : Nat} {jb : Job} {x : StepSt} (hc : s.clocked = true) (job : s.job j = some jb)
include hc job

theorem exec_scheduleCompute (started : (jb.steps.find? fun y => y.start != 0 && !y.sched && y.abort.isNone) = some x) :
    exec (.scheduleCompute j) s = .next (((s.advance x.start).computeSchedule j x.n).setJob j { jb with
      steps := jb.steps.map fun y =>
        if y.n = x.n then { y with sched := true, groups := ((s.advance x.start).computeSchedule j x.n).liveGroups j x.n }
        else y }) := by
  have computed : Only [.time, .pages, .stalls, .hubs, .sched, .jobs] s ((s.advance x.start).computeSchedule j x.n) :=
    (State.advance_only.mono (by decide)).step State.computeSchedule_only
  refine (computed.step State.setJob_only).answers hc ?_
  change execScheduleCompute j s = _
  unfold execScheduleCompute
  rw [job]
  dsimp only
  rw [started]

/-! ### STEP_CLOSE (R292) -/

section
variable {t : Nat} (sends recvs : List (Nat × W32)) (oldest : (jb.steps.find? fun y => y.closed.isNone) = some x)
  (sampled : x.sched = true) (unaborted : x.abort = none)
include oldest sampled unaborted

omit hc in
theorem exec_stepClose_sampled : exec (.stepClose t ⟨j, sends, recvs⟩) s = .next ((s.advance t).on
    (if (s.advance t).jobActive j || !(s.advance t).updatesDone j x.n then s.advance t
      else (s.advance t).closeStep t j jb x (sends, recvs))) := by
  change execStepClose t ⟨j, sends, recvs⟩ s = _
  unfold execStepClose
  dsimp only
  rw [State.job_advance, job]
  dsimp only
  rw [oldest]
  dsimp only
  rw [sampled, unaborted]
  rfl

theorem exec_stepClose_waits (busy : (s.advance t).jobActive j = true ∨ (s.advance t).updatesDone j x.n = false) :
    exec (.stepClose t ⟨j, sends, recvs⟩) s = .next (s.advance t) := by
  refine (Only.refl (w := []) _).answers (by simpa using hc) ?_
  rw [exec_stepClose_sampled job sends recvs oldest sampled unaborted, if_pos (by simpa using busy)]

theorem exec_stepClose_done (idle : (s.advance t).jobActive j = false) (done : (s.advance t).updatesDone j x.n = true) :
    exec (.stepClose t ⟨j, sends, recvs⟩) s = .next ((s.advance t).closeStep t j jb x (sends, recvs)) := by
  refine State.closeStep_only.answers (by simpa using hc) ?_
  rw [exec_stepClose_sampled job sends recvs oldest sampled unaborted, if_neg (by simp [idle, done])]

end

/-! ### Flag words (R294, R295) -/

/-- Words still missing 512 ticks before the guard tick defer the resolution. -/
theorem exec_guardPeerDeadline_missing
    (closed : (jb.steps.find? fun y => y.closed.isSome && y.due.isNone && !y.deferred) = some x)
    (missing : jb.allWords x = false) :
    exec (.guardPeerDeadline j) s = .next ((s.advance ((jb.guardTick x x.lastClose).1 - 512)).setJob j
      (jb.updStep x.n fun y => { y with deferred := true })) := by
  have reached (t : Nat) : Only [.time, .pages, .stalls, .jobs] s (s.advance t) := State.advance_only.mono (by decide)
  refine ((reached _).step State.setJob_only).answers hc ?_
  change execGuardPeerDeadline j s = _
  unfold execGuardPeerDeadline
  rw [job]
  dsimp only
  rw [closed]
  dsimp only
  rw [missing]
  rfl

variable (serving : s.clerk.serving = true)
include serving

theorem exec_flagWordSend {e : Nat}
    (unsent : (jb.steps.find? fun y => y.closed.isSome && !y.sent && y.abort.isNone) = some x) (closed : x.closed = some e) :
    exec (.flagWordSend j) s = .next (jb.peers.foldl (fun z p => z.sendClerk p 1 j x.n
      (leBytes 2 x.word ++ leBytes 2 0 ++ leBytes 8 e)) ((s.advance (max ((jb.guardTick x e).1 - jb.lead) e)).setJob j
        (jb.updStep x.n fun y => { y with sent := true }))) := by
  have reached (t : Nat) : Only [.time, .pages, .stalls, .jobs, .aisles] s (s.advance t) := State.advance_only.mono (by decide)
  refine (((reached _).step State.setJob_only).step (Only.foldl fun _ _ => State.sendClerk_only)).answersClerk hc serving ?_
  change execFlagWordSend j s = _
  unfold execFlagWordSend
  rw [job]
  dsimp only
  rw [unsent]
  dsimp only
  rw [closed]
  rfl

/-- A peer's word replaces its earlier one. -/
theorem exec_flagWordReceive {t p : Nat} {m : Mail} {u : State} (taken : (s.advance t).takeLocal p (clerkMail 1) = some (m, u))
    (names : mailJob m = j) (step : (jb.steps.find? fun y => y.n % 2 ^ 48 = clerkStep m) = some x) :
    exec (.flagWordReceive t p) s = .next ((u.setJob j (jb.updStep x.n fun y => { y with
      peers := (y.peers.filter fun q => q.1 != (routeOf m.body).src) ++
        [((routeOf m.body).src, leAt m.body 16 2, leAt m.body 20 8)] })).chooseGuard t j x.n) := by
  have frame : Only [.aisles] (s.advance t) u := State.takeLocal_only (m, u) taken
  have kept : u.job j = some jb := by
    unfold State.job
    rw [show u.jobs = (s.advance t).jobs from frame .jobs (by decide), State.advance_jobs]
    exact job
  have taking : Only eventParts (s.advance t) u := frame.mono (by decide)
  refine ((taking.step State.setJob_only).step State.chooseGuard_only).answersClerk (by simpa using hc)
    (by simpa using serving) ?_
  change execFlagWordReceive t p s = _
  unfold execFlagWordReceive
  dsimp only
  rw [taken]
  dsimp only
  rw [names, kept]
  dsimp only
  rw [step]

end

/-! ### Arming (R293, R294, R308) -/

/-- What GUARD_ARM does with a step whose guard tick `g` a lead reaches: it moves the guard by `d` rounds, or arms the step. -/
def State.armOrDelay (s : State) (t j d : Nat) (x : StepSt) (g : Nat) : State :=
  let reach := if t < g then g else (t / 4096 + 1) * 4096
  if d != 0 then s.postponeGuard j x.n (reach + 4096 * d)
  else
    let u := if reach = g then s else s.postponeGuard j x.n reach
    if t + 4096 < reach then u else u.armStep j x reach

section
variable {s : State} {t j g : Nat} {jb : Job} {x : StepSt}

theorem State.armOrDelay_zero (ahead : t < g) (near : g ≤ t + 4096) : s.armOrDelay t j 0 x g = s.armStep j x g := by
  unfold State.armOrDelay
  simp [ahead, Nat.not_lt.2 near]

theorem State.armOrDelay_rounds {d : Nat} (delayed : d ≠ 0) : s.armOrDelay t j d x g
    = s.postponeGuard j x.n ((if t < g then g else (t / 4096 + 1) * 4096) + 4096 * d) := by
  unfold State.armOrDelay
  simp [delayed]

theorem State.postponeGuard_of_job (job : s.job j = some jb) (n : Nat) :
    s.postponeGuard j n g = (s.setJob j (jb.updStep n fun y => { y with due := some g })).guardLate j n := by
  unfold State.postponeGuard
  rw [job]

theorem State.armStep_of_free {i : Nat} (free : s.freeResolve = some i) (job : s.job j = some jb) : s.armStep j x g
    = (s.setJob j (jb.updStep x.n fun y => { y with armed := some (g, x.commits) })).writeResolve i j x.n x.commits := by
  unfold State.armStep
  rw [free, job]

/-- A step commits where the words of all devices miss the guard mask. -/
theorem StepSt.commits_iff :
    x.commits = true ↔ (x.peers.foldl (fun a q => a ||| q.2.1) (x.flags ||| x.carried)) &&& x.guard = 0 := by
  unfold StepSt.commits
  exact decide_eq_true_iff

variable (job : s.job j = some jb)
  (unarmed : (jb.steps.find? fun y => y.armed.isNone) = some x) (due : x.due = some g) (unaborted : x.abort = none)
include job unarmed due unaborted

theorem exec_guardArm_due (d : Nat) : exec (.guardArm t j d) s = .next ((s.advance t).onClerk
    (if t + jb.lead < g then s.advance t else (s.advance t).armOrDelay t j d x g)) := by
  change execGuardArm t j d s = _
  unfold execGuardArm
  dsimp only
  rw [State.job_advance, job]
  dsimp only
  rw [unarmed]
  dsimp only
  rw [due]
  dsimp only
  rw [unaborted]
  simp only [Option.isSome_none, Bool.false_or, decide_eq_true_eq]
  rfl

variable (hc : s.clocked = true) (serving : s.clerk.serving = true)
include hc serving

theorem exec_guardArm_early (d : Nat) (early : t + jb.lead < g) : exec (.guardArm t j d) s = .next (s.advance t) := by
  refine (Only.refl (w := []) _).answersClerk (by simpa using hc) (by simpa using serving) ?_
  rw [exec_guardArm_due job unarmed due unaborted, if_pos early]

theorem exec_guardArm_arms (lead : g ≤ t + jb.lead) (ahead : t < g) (near : g ≤ t + 4096) :
    exec (.guardArm t j 0) s = .next ((s.advance t).armStep j x g) := by
  refine State.armStep_only.answersClerk (by simpa using hc) (by simpa using serving) ?_
  rw [exec_guardArm_due job unarmed due unaborted, if_neg (Nat.not_lt.2 lead), State.armOrDelay_zero ahead near]

theorem exec_guardArm_delays {d : Nat} (delayed : d ≠ 0) (lead : g ≤ t + jb.lead) :
    exec (.guardArm t j d) s = .next ((s.advance t).postponeGuard j x.n
      ((if t < g then g else (t / 4096 + 1) * 4096) + 4096 * d)) := by
  refine State.postponeGuard_only.answersClerk (by simpa using hc) (by simpa using serving) ?_
  rw [exec_guardArm_due job unarmed due unaborted, if_neg (Nat.not_lt.2 lead), State.armOrDelay_rounds delayed]

end

/-- Settles O50: each command of a step's end by what it does to the step that it finds, and the guard tick by the round boundary
that a lead reaches. -/
theorem stepsCloseAndResolve : Obligations.StepsCloseAndResolve := by
  unfold Obligations.StepsCloseAndResolve
  refine ⟨fun s t j jb x hc job => ⟨exec_scheduleCompute hc job, fun oldest sampled unaborted sends recvs => ?close,
      exec_guardPeerDeadline_missing hc job, fun serving => ⟨fun e => exec_flagWordSend hc job serving,
        fun p m u => exec_flagWordReceive hc job serving, fun g unarmed due unaborted => ?arm⟩⟩,
    fun s j n g jb job => State.postponeGuard_of_job job n,
    fun s t j i g jb x free job => ⟨State.armStep_of_free free job, StepSt.commits_iff⟩,
    fun s j jb far => ⟨State.streamFault_unchecked s j far, State.streamFault_eq_none_iff s j far⟩,
    fun jb x e unplanned => ?tick⟩
  case close =>
    refine ⟨exec_stepClose_waits hc job sends recvs oldest sampled unaborted, fun idle done => ?_⟩
    rw [exec_stepClose_done hc job sends recvs oldest sampled unaborted idle done]
    exact ⟨fun aux differ => congrArg _ (State.closeStep_fault t differ),
      fun agree => congrArg _ (State.closeStep_closes t agree)⟩
  case arm =>
    have early (d : Nat) := exec_guardArm_early (t := t) job unarmed due unaborted hc serving d
    exact ⟨early 0, exec_guardArm_arms job unarmed due unaborted hc serving, fun d _ => early d,
      fun d => exec_guardArm_delays job unarmed due unaborted hc serving⟩
  case tick =>
    rw [Job.guardTick_unplanned jb e unplanned]
    exact ⟨upTo_mod .., le_upTo (by decide) _, upTo_lt (by decide) _⟩

end Sys2Proof.Machine
end

section
/-! PROOFS. Gradient frames, GRAD and WCOPY messages, the update of a tensor block, and the rules of MAIN and FACTORED (R317, R318,
R320, R322 to R324, R327, R353, R354). -/
set_option Elab.async false
namespace Sys2Proof.Machine

/-! ### The rules (R322, R323) -/

theorem Coef.main_eq (co : Coef) (x w m v : W32) :
    let m1 := ffma co.g.beta1 m (fmul co.ob1 x)
    let v1 := ffma co.g.beta2 v (fmul co.ob2 (fmul x x))
    let y := fdiv (fmul m1 co.c1) (fadd (fsqrt (fmul v1 co.c2)) co.g.eps)
    let w1 := ffma (fneg co.eta) (ffma co.g.lambda w y) w
    co.main x w m v = ⟨m1, v1, w1, [x, m1, v1, y, w1].any nonFinite⟩ := rfl

theorem Coef.factored_eq (co : Coef) (x w m sri scj rinv : W32) :
    let vr := fmul (fmul sri scj) rinv
    let v1 := ffma co.g.beta2 vr (fmul co.ob2 (ffma x x co.g.eps1))
    let m1 := if co.g.keepM then ffma co.g.beta1 m (fmul co.ob1 x) else x
    let y := fdiv (fmul m1 co.c1) (fadd (fsqrt (fmul v1 co.c2)) co.g.eps)
    let w1 := ffma (fneg co.eta) (ffma co.g.lambda w y) w
    co.factored x w m sri scj rinv = ⟨m1, v1, w1, nonFinite vr || [x, m1, v1, y, w1].any nonFinite⟩ := rfl

/-! ### The statistics of a FACTORED group (R323) -/

section
variable (a : FactAcc) (co : Coef)

theorem FactAcc.enter_nil (k : Nat) : a.enter co k [] = a := rfl

/-- A block's last element enters SR and SC after those before it. -/
theorem FactAcc.enter_append (k : Nat) (xs : List W32) (x : W32) :
    let b := a.enter co k xs
    let i := 32 * (k / co.g.colsB) + xs.length / 32
    let j := 32 * (k % co.g.colsB) + xs.length % 32
    a.enter co k (xs ++ [x]) = { b with
      sr := sset b.sr i (fadd (sgetD b.sr i 0#32) (co.q x)), sc := sset b.sc j (fadd (sgetD b.sc j 0#32) (co.q x)) } := by
  unfold FactAcc.enter
  simp only [List.zipIdx_append, List.zipIdx_singleton, List.foldl_append, List.foldl_cons, List.foldl_nil, Nat.zero_add]

/-- The new row statistics. -/
def FactAcc.newRows : List W32 :=
  (List.range (32 * co.g.rowsB)).map fun i => ffma co.g.beta2 (a.stat i)
    (fmul co.ob2 (fmul (sgetD a.sr i 0#32) (fdiv one32 (fnat (32 * co.g.colsB)))))

/-- The new column statistics. -/
def FactAcc.newCols : List W32 :=
  (List.range (32 * co.g.colsB)).map fun j => ffma co.g.beta2 (a.stat (32 * co.g.rowsB + j))
    (fmul co.ob2 (fmul (sgetD a.sc j 0#32) (fdiv one32 (fnat (32 * co.g.rowsB)))))

/-- The new statistics are those of the rows, those of the columns, and the mean of the rows. -/
theorem FactAcc.newStats_eq : a.newStats co = a.newRows co ++ a.newCols co ++
    [fmul ((a.newRows co).foldl fadd 0#32) (fdiv one32 (fnat (32 * co.g.rowsB)))] := rfl

theorem FactAcc.length_newRows : (a.newRows co).length = 32 * co.g.rowsB := by simp [FactAcc.newRows]

theorem FactAcc.length_newCols : (a.newCols co).length = 32 * co.g.colsB := by simp [FactAcc.newCols]

theorem FactAcc.length_newStats : (a.newStats co).length = 32 * co.g.rowsB + 32 * co.g.colsB + 1 := by
  rw [FactAcc.newStats_eq, List.length_append, List.length_append, a.length_newRows, a.length_newCols, List.length_singleton]

theorem FactAcc.newStats_row {i : Nat} (row : i < 32 * co.g.rowsB) : (a.newStats co)[i]? = some (ffma co.g.beta2 (a.stat i)
    (fmul co.ob2 (fmul (sgetD a.sr i 0#32) (fdiv one32 (fnat (32 * co.g.colsB)))))) := by
  rw [FactAcc.newStats_eq, List.append_assoc, List.getElem?_append_left (by rwa [a.length_newRows])]
  simp [FactAcc.newRows, row]

theorem FactAcc.newStats_col {j : Nat} (col : j < 32 * co.g.colsB) : (a.newStats co)[32 * co.g.rowsB + j]?
    = some (ffma co.g.beta2 (a.stat (32 * co.g.rowsB + j))
      (fmul co.ob2 (fmul (sgetD a.sc j 0#32) (fdiv one32 (fnat (32 * co.g.rowsB)))))) := by
  rw [FactAcc.newStats_eq, List.append_assoc, ← a.length_newRows co, List.getElem?_append_right (Nat.le_add_right ..),
    Nat.add_sub_cancel_left, List.getElem?_append_left (by rwa [a.length_newCols])]
  simp [FactAcc.newCols, FactAcc.length_newRows, col]

theorem FactAcc.newStats_mean : (a.newStats co)[32 * co.g.rowsB + 32 * co.g.colsB]?
    = some (fmul (((a.newStats co).take (32 * co.g.rowsB)).foldl fadd 0#32) (fdiv one32 (fnat (32 * co.g.rowsB)))) := by
  have rows : (a.newStats co).take (32 * co.g.rowsB) = a.newRows co := by
    rw [FactAcc.newStats_eq, List.append_assoc, ← a.length_newRows co, List.take_left]
  rw [rows, FactAcc.newStats_eq, ← a.length_newRows co, ← a.length_newCols co, ← List.length_append,
    List.getElem?_concat_length, a.length_newRows]

end

/-! ### Frames of the gradient window (R317, R318, R324) -/

/-- A frame whose words are read goes to the unit of its block, waits there, or is discarded. -/
def State.placeFrame (s : State) (t sn tag i : Nat) (x : Transfer) (va : Nat) (rd : List (Nat × Block))
    (fs : List (Nat × Nat)) : State :=
  let n := (s.stall sn).stepOf x.job
  let o := (va - gradWindow) / 4160
  match s.groupHolding x.job n o with
  | none => (s.orphan (hubOf sn) x.job n o).ackFrame t sn tag i
  | some (g, c, k) =>
    if s.frameWaits n g k c then s
    else
      let d := (s.stall sn).frameData x va
      (s.takeFrame x.job n g k c d.1 d.2 rd fs).ackFrame t sn tag i

section
variable {s : State} {t sn tag i : Nat} {x : Transfer} {va : Nat} {rd : List (Nat × Block)} {fs : List (Nat × Nat)}

theorem State.placeFrame_only : Only (.mem :: .marks :: eventParts) s (s.placeFrame t sn tag i x va rd fs) := by
  unfold State.placeFrame
  dsimp only
  split
  case h_1 => exact ((Only.refl s).step State.orphan_only).step State.ackFrame_only
  case h_2 => exact holds_ite (.refl s) (((Only.refl s).step State.takeFrame_only).step State.ackFrame_only)

theorem State.placeFrame_orphan
    (none_ : s.groupHolding x.job ((s.stall sn).stepOf x.job) ((va - gradWindow) / 4160) = none) :
    s.placeFrame t sn tag i x va rd fs
      = (s.orphan (hubOf sn) x.job ((s.stall sn).stepOf x.job) ((va - gradWindow) / 4160)).ackFrame t sn tag i := by
  unfold State.placeFrame
  dsimp only
  rw [none_]

section
variable {g k : Nat} {c : GroupCur}
  (holds : s.groupHolding x.job ((s.stall sn).stepOf x.job) ((va - gradWindow) / 4160) = some (g, c, k))
include holds

theorem State.placeFrame_waits (waits : s.frameWaits ((s.stall sn).stepOf x.job) g k c = true) :
    s.placeFrame t sn tag i x va rd fs = s := by
  unfold State.placeFrame
  dsimp only
  rw [holds]
  exact if_pos waits

theorem State.placeFrame_taken (free : s.frameWaits ((s.stall sn).stepOf x.job) g k c = false) :
    s.placeFrame t sn tag i x va rd fs = (s.takeFrame x.job ((s.stall sn).stepOf x.job) g k c
      ((s.stall sn).frameData x va).1 ((s.stall sn).frameData x va).2 rd fs).ackFrame t sn tag i := by
  unfold State.placeFrame
  dsimp only
  rw [holds]
  exact if_neg (Bool.eq_false_iff.1 free)

end

/-- A frame that is asked for and whose source words are read is placed. -/
theorem exec_gradientFrameArrival_sourced {b : PBlock} (hc : s.clocked = true)
    (held : sget (((s.advance t).touch t sn).stall sn).tags tag = some x) (block : x.blocks[i]? = some b)
    (grad : x.grad = true) (asked : b.requested = true) (waits : b.landed = false) (sourced : x.sourced b.va = true) :
    exec (.gradientFrameArrival t sn tag ⟨i, rd, fs⟩) s
      = .next (((s.advance t).touch t sn).placeFrame t sn tag i x b.va rd fs) := by
  refine State.placeFrame_only.answers (State.clocked_touch_advance t sn hc) ?_
  change execGradientFrameArrival t sn tag ⟨i, rd, fs⟩ s = _
  unfold execGradientFrameArrival
  rw [State.on_touch_advance t sn hc]
  dsimp only
  rw [held]
  dsimp only
  rw [block]
  dsimp only
  rw [grad, asked, waits, sourced]
  rfl

end

/-! ### A step that a block is pending for (R311, R320) -/

/-- Is a tensor block pending for another step? -/
def State.pendingElsewhere (s : State) (h gi k n : Nat) : Bool :=
  match s.pendingFor h gi k with
  | some x => x != n
  | none => false

theorem State.pendingElsewhere_iff {s : State} {h gi k n : Nat} :
    s.pendingElsewhere h gi k n = true ↔ ∃ x, s.pendingFor h gi k = some x ∧ x ≠ n := by
  unfold State.pendingElsewhere
  cases s.pendingFor h gi k <;> simp

theorem State.pendingElsewhere_eq_false {s : State} {h gi k n : Nat} (same : ∀ x, s.pendingFor h gi k = some x → x = n) :
    s.pendingElsewhere h gi k n = false := by
  rw [Bool.eq_false_iff, Ne, State.pendingElsewhere_iff]
  rintro ⟨x, pending, other⟩
  exact other (same x pending)

/-! ### GRAD messages (R320, R353) -/

/-- The blocks of a GRAD message enter the ingress stores of their hubs. -/
def State.ingestBlocks (s : State) (jb : Job) (g : Group) (body : List Byte) : State :=
  let hd := gradHdr body
  let n := 4 * g.compBytes
  (List.range hd.count).foldl (fun v i => v.ingest (v.unitOf g (hd.k + i)) ⟨hd.job, hd.group, hd.k + i, jb.fullStep hd.step,
    hd.rank, hd.fmt, (body.drop (32 + i * n)).take n, bit hd.poison i⟩) s

theorem State.ingestBlocks_only {s : State} {jb : Job} {g : Group} {body : List Byte} :
    Only [.pages, .stalls, .hubs] s (s.ingestBlocks jb g body) := Only.foldl fun _ _ => State.ingest_only

section
variable {s : State} {t p : Nat} {m : Mail} {u : State} (hc : s.clocked = true)
  (taken : (s.advance t).takeLocal p (fun m => m.ty = 2) = some (m, u))
include hc taken

theorem exec_gradMessageReceive_fails (bad : gradOk m.body = false) :
    exec (.gradMessageReceive t p) s = .next ((u.setHub (portHub p)
      { u.hub (portHub p) with gradFails := satAdd64 (u.hub (portHub p)).gradFails 1 }).oweMail p m) := by
  have frame : Only [.hubs, .aisles] (s.advance t) u := (State.takeLocal_only (m, u) taken).mono (by decide)
  refine ((frame.step State.setHub_only).step State.oweMail_only).answers (by simpa using hc) ?_
  change execGradMessageReceive t p s = _
  unfold execGradMessageReceive
  dsimp only
  rw [taken]
  dsimp only
  rw [bad]
  rfl

section
variable {jb : Job} {n : Nat} {g : Group} (good : gradOk m.body = true)
  (job : (s.advance t).job (gradHdr m.body).job = some jb)
  (group : (jb.groups.find? fun q => q.1 = (gradHdr m.body).group) = some (n, g))
include good job group

omit hc in
theorem exec_gradMessageReceive_known : exec (.gradMessageReceive t p) s = .next ((s.advance t).on
    (if !jb.stepExpected (gradHdr m.body).step || jb.runOf (gradHdr m.body).step != (gradHdr m.body).run then
        (u.setHub (portHub p) { u.hub (portHub p) with gradDrops := satAdd64 (u.hub (portHub p)).gradDrops 1 }).oweMail p m
      else if !(s.advance t).ingressRoom g (gradHdr m.body).k (gradHdr m.body).count then s.advance t
      else (u.ingestBlocks jb g m.body).oweMail p m)) := by
  change execGradMessageReceive t p s = _
  unfold execGradMessageReceive
  dsimp only
  rw [taken]
  dsimp only
  rw [good, job]
  dsimp only
  rw [group]
  rfl

theorem exec_gradMessageReceive_drops
    (other : jb.stepExpected (gradHdr m.body).step = false ∨ jb.runOf (gradHdr m.body).step ≠ (gradHdr m.body).run) :
    exec (.gradMessageReceive t p) s = .next ((u.setHub (portHub p)
      { u.hub (portHub p) with gradDrops := satAdd64 (u.hub (portHub p)).gradDrops 1 }).oweMail p m) := by
  have frame : Only [.hubs, .aisles] (s.advance t) u := (State.takeLocal_only (m, u) taken).mono (by decide)
  refine ((frame.step State.setHub_only).step State.oweMail_only).answers (by simpa using hc) ?_
  rw [exec_gradMessageReceive_known taken good job group, if_pos (by simpa using other)]

variable (expected : jb.stepExpected (gradHdr m.body).step = true)
  (run : jb.runOf (gradHdr m.body).step = (gradHdr m.body).run)
include expected run

theorem exec_gradMessageReceive_waits
    (full : (s.advance t).ingressRoom g (gradHdr m.body).k (gradHdr m.body).count = false) :
    exec (.gradMessageReceive t p) s = .next (s.advance t) := by
  refine (Only.refl (w := []) _).answers (by simpa using hc) ?_
  rw [exec_gradMessageReceive_known taken good job group, if_neg (by simp [expected, run]), if_pos (by simp [full])]

theorem exec_gradMessageReceive_enters
    (room : (s.advance t).ingressRoom g (gradHdr m.body).k (gradHdr m.body).count = true) :
    exec (.gradMessageReceive t p) s = .next ((u.ingestBlocks jb g m.body).oweMail p m) := by
  have frame : Only [.pages, .stalls, .hubs, .aisles] (s.advance t) u := (State.takeLocal_only (m, u) taken).mono (by decide)
  refine ((frame.step State.ingestBlocks_only).step State.oweMail_only).answers (by simpa using hc) ?_
  rw [exec_gradMessageReceive_known taken good job group, if_neg (by simp [expected, run]), if_neg (by simp [room])]

end

end

/-! ### WCOPY messages (R311, R321, R354) -/

/-- The blocks of a WCOPY message are written, or refused where its check fails or their poison bit is set. -/
def State.takeWcopies (s : State) (jb : Job) (g : Group) (bad : Bool) (body : List Byte) (fs : List (Nat × Nat)) : State :=
  let hd := gradHdr body
  let sz := blockBytes g.fmt + if g.fmt.scaled then 32 else 0
  (List.range hd.count).foldl (fun u i => u.takeWcopy hd.job (jb.fullStep hd.step) hd.group (hd.k + i) g
    (bad || bit hd.poison i) ((body.drop (32 + i * sz)).take sz) fs) s

section
variable {s : State} {jb : Job} {g : Group} {body : List Byte} {fs : List (Nat × Nat)}

theorem State.takeWcopies_only {bad : Bool} : Only (.mem :: .marks :: eventParts) s (s.takeWcopies jb g bad body fs) :=
  Only.foldl fun _ _ => State.takeWcopy_only.mono (by decide)

theorem State.takeWcopies_bad_mem : (s.takeWcopies jb g true body fs).mem = s.mem :=
  foldl_keeps (g := State.mem) (fun _ _ => State.takeWcopy_bad_mem ..) _ s

end

section
variable {s : State} {t p : Nat} {m : Mail} {u : State} (fs : List (Nat × Nat)) (hc : s.clocked = true)
  (taken : (s.advance t).takeLocal p (fun m => m.ty = 3) = some (m, u))
include hc taken

theorem exec_wcopyMessageReceive_jobless (job : (s.advance t).job (gradHdr m.body).job = none) :
    exec (.wcopyMessageReceive t ⟨p, fs⟩) s = .next (u.oweMail p m) := by
  have frame : Only [.aisles] (s.advance t) u := State.takeLocal_only (m, u) taken
  refine (frame.step State.oweMail_only).answers (by simpa using hc) ?_
  change execWcopyMessageReceive t ⟨p, fs⟩ s = _
  unfold execWcopyMessageReceive
  dsimp only
  rw [taken]
  dsimp only
  rw [job]

section
variable {jb : Job} (job : (s.advance t).job (gradHdr m.body).job = some jb)
include job

theorem exec_wcopyMessageReceive_groupless (group : (jb.groups.find? fun q => q.1 = (gradHdr m.body).group) = none) :
    exec (.wcopyMessageReceive t ⟨p, fs⟩) s = .next (u.oweMail p m) := by
  have frame : Only [.aisles] (s.advance t) u := State.takeLocal_only (m, u) taken
  refine (frame.step State.oweMail_only).answers (by simpa using hc) ?_
  change execWcopyMessageReceive t ⟨p, fs⟩ s = _
  unfold execWcopyMessageReceive
  dsimp only
  rw [taken]
  dsimp only
  rw [job]
  dsimp only
  rw [group]

variable {n : Nat} {g : Group} (group : (jb.groups.find? fun q => q.1 = (gradHdr m.body).group) = some (n, g))
include group

omit hc in
theorem exec_wcopyMessageReceive_known : exec (.wcopyMessageReceive t ⟨p, fs⟩) s = .next ((s.advance t).on
    (if gradOk m.body && (!jb.stepExpected (gradHdr m.body).step
          || jb.runOf (gradHdr m.body).step != (gradHdr m.body).run) then u.oweMail p m
      else if gradOk m.body && ((List.range (gradHdr m.body).count).map ((gradHdr m.body).k + ·)).any fun k =>
          (s.advance t).pendingElsewhere ((s.advance t).unitOf g k) (gradHdr m.body).group k
            (jb.fullStep (gradHdr m.body).step) then s.advance t
      else (u.takeWcopies jb g (!gradOk m.body) m.body fs).oweMail p m)) := by
  change execWcopyMessageReceive t ⟨p, fs⟩ s = _
  unfold execWcopyMessageReceive
  dsimp only
  rw [taken]
  dsimp only
  rw [job]
  dsimp only
  rw [group]
  rfl

theorem exec_wcopyMessageReceive_fails (bad : gradOk m.body = false) :
    exec (.wcopyMessageReceive t ⟨p, fs⟩) s = .next ((u.takeWcopies jb g true m.body fs).oweMail p m) := by
  have frame : Only (.mem :: .marks :: eventParts) (s.advance t) u := (State.takeLocal_only (m, u) taken).mono (by decide)
  refine ((frame.trans State.takeWcopies_only).step State.oweMail_only).answers (by simpa using hc) ?_
  rw [exec_wcopyMessageReceive_known fs taken job group, bad]
  rfl

variable (good : gradOk m.body = true) (expected : jb.stepExpected (gradHdr m.body).step = true)
  (run : jb.runOf (gradHdr m.body).step = (gradHdr m.body).run)
include good expected run

theorem exec_wcopyMessageReceive_waits {k x : Nat} (among : k < (gradHdr m.body).count)
    (pending : (s.advance t).pendingFor ((s.advance t).unitOf g ((gradHdr m.body).k + k)) (gradHdr m.body).group
      ((gradHdr m.body).k + k) = some x) (other : x ≠ jb.fullStep (gradHdr m.body).step) :
    exec (.wcopyMessageReceive t ⟨p, fs⟩) s = .next (s.advance t) := by
  refine (Only.refl (w := []) _).answers (by simpa using hc) ?_
  rw [exec_wcopyMessageReceive_known fs taken job group, if_neg (by simp [expected, run]), if_pos]
  rw [good, Bool.true_and, List.any_map, List.any_eq_true]
  exact ⟨k, List.mem_range.2 among, State.pendingElsewhere_iff.2 ⟨x, pending, other⟩⟩

theorem exec_wcopyMessageReceive_writes
    (same : ∀ k x, k < (gradHdr m.body).count → (s.advance t).pendingFor
      ((s.advance t).unitOf g ((gradHdr m.body).k + k)) (gradHdr m.body).group ((gradHdr m.body).k + k) = some x →
        x = jb.fullStep (gradHdr m.body).step) :
    exec (.wcopyMessageReceive t ⟨p, fs⟩) s = .next ((u.takeWcopies jb g false m.body fs).oweMail p m) := by
  have frame : Only (.mem :: .marks :: eventParts) (s.advance t) u := (State.takeLocal_only (m, u) taken).mono (by decide)
  refine ((frame.trans State.takeWcopies_only).step State.oweMail_only).answers (by simpa using hc) ?_
  rw [exec_wcopyMessageReceive_known fs taken job group, if_neg (by simp [expected, run]), if_neg, good]
  · rfl
  · rw [good, Bool.true_and, List.any_map, Bool.not_eq_true, List.any_eq_false]
    intro k among
    rw [Bool.not_eq_true]
    exact State.pendingElsewhere_eq_false fun x => same k x (List.mem_range.1 among)

end

/-- A message that fails its check writes nothing, whether its group is known or not. -/
theorem exec_wcopyMessageReceive_fails_mem (bad : gradOk m.body = false) :
    ∃ v, exec (.wcopyMessageReceive t ⟨p, fs⟩) s = .next v ∧ v.mem = s.mem := by
  have frame : Only [.aisles] (s.advance t) u := State.takeLocal_only (m, u) taken
  have kept : u.mem = s.mem := (frame .mem (by decide)).trans (State.advance_mem s t)
  have owed (v : State) : (v.oweMail p m).mem = v.mem := State.oweMail_only .mem (by decide)
  cases job : (s.advance t).job (gradHdr m.body).job with
  | none => exact ⟨_, exec_wcopyMessageReceive_jobless fs hc taken job, (owed u).trans kept⟩
  | some jb =>
    cases group : jb.groups.find? fun q => q.1 = (gradHdr m.body).group with
    | none => exact ⟨_, exec_wcopyMessageReceive_groupless fs hc taken job group, (owed u).trans kept⟩
    | some q => exact ⟨_, exec_wcopyMessageReceive_fails fs hc taken job group bad,
        (owed _).trans (State.takeWcopies_bad_mem.trans kept)⟩

end

/-! ### The accumulators of a FACTORED group (R323, R327) -/

/-- A job's event below JOB_FATAL that aborts no step leaves the hubs alone. -/
theorem State.raise_minor_hubs (s : State) {e : Ev} {j : Nat} (minor : e.sev < 2) (job : e.job = some j)
    (keeps : abortCode e.code = false) : (s.raise e).hubs = s.hubs := by
  rw [State.raise_minor s minor job, if_neg (Bool.eq_false_iff.1 keeps)]
  unfold State.recordFlagged
  rw [job]
  exact (State.post_only .hubs (by decide)).trans
    ((State.flagJob_only .hubs (by decide)).trans (State.record_only .hubs (by decide)))

theorem tryBlock_hubs (s : State) (j n pa : Nat) (resent again : Bool) (left : Nat) (bs : List Block) :
    (tryBlock s j n pa resent again left bs).1.hubs = s.hubs := by
  have hbm (v : State) (off m : Nat) : (v.countHbm pa off m).hubs = v.hubs := State.countHbm_only .hubs (by decide)
  have charged (v : State) : (v.chargeBlock j pa 0x70).hubs = v.hubs := State.chargeBlock_only .hubs (by decide)
  have resends (v w : State) : (v.raise (w.unitEv 0x4101 j n pa)).hubs = v.hubs :=
    State.raise_minor_hubs v (by decide : 0 < 2) rfl (show abortCode 0x4101 = false by decide)
  have poisons (v w : State) : (v.raise (w.unitEv 0x4102 j n pa)).hubs = v.hubs :=
    State.raise_minor_hubs v (by decide : 0 < 2) rfl (show abortCode 0x4102 = false by decide)
  induction left generalizing s resent again bs with
  | zero =>
    unfold tryBlock
    dsimp only
    split
    case h_1 => simp only [hbm, charged]
    case h_2 => simp only [hbm, charged, poisons]
    case h_3 impossible => cases impossible
  | succ left ih =>
    unfold tryBlock
    dsimp only
    split
    case h_1 => simp only [hbm, charged]
    case h_2 impossible => cases impossible
    case h_3 next =>
      cases next
      rw [ih]
      cases resent <;> simp [hbm, charged, resends]

theorem State.hub_congr {s u : State} (hubs : u.hubs = s.hubs) (h : Nat) : u.hub h = s.hub h := by
  unfold State.hub
  rw [hubs]

theorem State.hub_count (s : State) (pg off n h : Nat) : (s.count pg off n).hub h = s.hub h :=
  State.hub_congr (State.count_only .hubs (by decide)) h

theorem State.hub_charge (s : State) (j off n h : Nat) : (s.charge j off n).hub h = s.hub h :=
  State.hub_congr (State.charge_only .hubs (by decide)) h

theorem StateRead.plane_hubs (r : StateRead) (j n va len : Nat) (reads : List (Nat × Block)) :
    (r.plane j n va len reads).s.hubs = r.s.hubs :=
  foldl_keeps (g := fun x : StateRead => x.s.hubs) (fun _ _ => tryBlock_hubs ..) _ r

theorem StateRead.done_factAcc (r : StateRead) (h gi k n i : Nat) :
    ((r.done h gi k n).hub h).factAcc i = (r.s.hub h).factAcc i := by
  unfold StateRead.done
  dsimp only
  split
  · rfl
  · rw [State.hub_setHub]; rfl

theorem State.factAcc_setFact {s : State} {h : Nat} {a b : FactAcc} (held : (s.hub h).factAcc b.group = some a) :
    ((s.setFact h b).hub h).factAcc b.group = some b := by
  unfold Hub.factAcc at held ⊢
  unfold State.setFact
  dsimp only
  rw [State.hub_setHub, List.find?_map]
  have same : ((fun x : FactAcc => decide (x.group = b.group)) ∘ fun x => if x.group = b.group then b else x)
      = fun x => decide (x.group = b.group) := by
    funext x
    by_cases is : x.group = b.group <;> simp [is]
  rw [same, held, Option.map_some, if_pos (by simpa using List.find?_some held)]

section
variable (s : State) (h j n gi k : Nat)

/-- The statistics plane leaves SR and SC of the group's accumulators as they were. -/
theorem State.readStats_factAcc (g : Group) {a : FactAcc} (reads : List (Nat × Block))
    (held : (s.hub h).factAcc gi = some a) :
    ∃ b, ((s.readStats h j n gi k g a reads).hub h).factAcc gi = some b ∧ b.sr = a.sr ∧ b.sc = a.sc := by
  unfold State.readStats
  split
  · exact ⟨a, held, rfl, rfl⟩
  · extract_lets r
    have plane : r.1.s.hubs = s.hubs :=
      foldl_keeps (g := fun x : StateRead × List Nat => x.1.s.hubs) (fun _ _ => StateRead.plane_hubs ..) _ _
    have counted : (((r.1.done h gi k n).count (pageNo .update h) 0x70 g.statBytes).hub h).factAcc gi = some a := by
      rw [State.hub_count, StateRead.done_factAcc, State.hub_congr plane]
      exact held
    obtain rfl : a.group = gi := by simpa using List.find?_some held
    exact ⟨_, State.factAcc_setFact counted, rfl, rfl⟩

/-- What an update does before it reads the block's planes: the contributions leave the ingress store, and a FACTORED group's
statistics are read. -/
def State.startUpdate (c : GroupCur) (reads : List (Nat × Block)) : State :=
  let g := groupOf c.record
  let hb := s.hub h
  let u := (s.setHub h { hb with
    ingress := hb.ingress.filter fun x => !(x.job = j && x.group = gi && x.k = k && x.step = n) }).charge j 0x68 4
  match (if g.factored then hb.factAcc gi else none) with
  | some a => u.readStats h j n gi k g a reads
  | none => u

theorem State.startUpdate_only {s : State} {h j n gi k : Nat} {c : GroupCur} {reads : List (Nat × Block)} :
    Only eventParts s (s.startUpdate h j n gi k c reads) := by
  have charged (hb : Hub) : Only eventParts s ((s.setHub h hb).charge j 0x68 4) :=
    ((Only.refl s).step State.setHub_only).step State.charge_only
  unfold State.startUpdate
  dsimp only
  split
  case h_1 => exact (charged _).step State.readStats_only
  case h_2 => exact charged _

theorem State.startUpdate_factAcc {c : GroupCur} (reads : List (Nat × Block)) {a : FactAcc}
    (factored : (groupOf c.record).factored = true) (held : (s.hub h).factAcc gi = some a) :
    ∃ b, ((s.startUpdate h j n gi k c reads).hub h).factAcc gi = some b ∧ b.sr = a.sr ∧ b.sc = a.sc := by
  unfold State.startUpdate
  dsimp only
  rw [if_pos factored, held]
  dsimp only
  refine State.readStats_factAcc _ h j n gi k _ reads ?_
  rw [State.hub_charge, State.hub_setHub]
  exact held

/-- A block with a marked contribution is refused: memory stands, and a FACTORED group goes on with the accumulators that the update
started with. -/
theorem State.updateBlock_poisoned (c : GroupCur) {cs : List Contribution} (reads : List (Nat × Block)) (fs : List (Nat × Nat))
    (poison : (cs.any fun z => z.poison) = true) : ∃ v : State, v.mem = s.mem ∧
      s.updateBlock h j n gi k c cs reads fs =
        ((if (groupOf c.record).factored then ((s.startUpdate h j n gi k c reads).hub h).factAcc gi else none).elim v
          fun a => v.factNext h j n gi k c a fs) := by
  have started : Only eventParts s (s.startUpdate h j n gi k c reads) := State.startUpdate_only
  unfold State.updateBlock
  extract_lets g co seed hb emptied charged u a r0 r1 r2 counted xs es bad done
  have h0 : Only eventParts s r0.s := StateRead.plane_only (x := u.startRead h gi k n) started
  have h1 : Only eventParts s r1.s := holds_ite (Q := fun r : StateRead => Only eventParts s r.s) h0
    (StateRead.plane_only (x := { r0 with bytes := [] }) h0)
  have h2 : Only eventParts s r2.s := holds_ite (Q := fun r : StateRead => Only eventParts s r.s) h1
    (StateRead.plane_only (x := { r1 with bytes := [] }) h1)
  have hcounted : Only eventParts s counted := (StateRead.done_only h2).step State.count_only
  have hbad : bad = true := by simp only [bad, poison, Bool.true_or]
  have hdone : done.mem = s.mem := by
    unfold done
    rw [if_pos hbad]
    exact ((hcounted.step State.refuseBlock_only).step State.sendWcopy_only) .mem (by decide)
  refine ⟨done, hdone, ?_⟩
  rw [hbad]
  change _ = a.elim done _
  clear_value a done
  cases a <;> rfl

end

section
variable {s : State} {h j n gi k : Nat} {c : GroupCur} {cs : List Contribution} (reads : List (Nat × Block))
  (fs : List (Nat × Nat)) (poison : (cs.any fun z => z.poison) = true)
include poison

theorem State.updateBlock_poisoned_mem (unfactored : (groupOf c.record).factored = false) :
    (s.updateBlock h j n gi k c cs reads fs).mem = s.mem := by
  obtain ⟨v, kept, run⟩ := State.updateBlock_poisoned s h j n gi k c reads fs poison
  rw [run, if_neg (by simp [unfactored])]
  exact kept

/-- In a FACTORED group it adds nothing to SR and SC. -/
theorem State.updateBlock_poisoned_factored {a : FactAcc} (factored : (groupOf c.record).factored = true)
    (held : (s.hub h).factAcc gi = some a) : ∃ (v : State) (b : FactAcc),
      s.updateBlock h j n gi k c cs reads fs = v.factNext h j n gi k c b fs ∧ b.sr = a.sr ∧ b.sc = a.sc := by
  obtain ⟨v, -, run⟩ := State.updateBlock_poisoned s h j n gi k c reads fs poison
  obtain ⟨b, started, rows, cols⟩ := State.startUpdate_factAcc s h j n gi k reads factored held
  rw [if_pos factored, started] at run
  exact ⟨v, b, run, rows, cols⟩

end

/-! ### TENSOR_BLOCK_UPDATE (R320, R323) -/

/-- Is it a block's turn: in a FACTORED group, the one that its accumulators await? -/
def Hub.inTurn (hb : Hub) (g : Group) (gi k : Nat) : Bool :=
  !g.factored || (match hb.factAcc gi with | some a => decide (a.next = k) | none => false)

theorem Hub.inTurn_unfactored (hb : Hub) {g : Group} (gi k : Nat) (unfactored : g.factored = false) :
    hb.inTurn g gi k = true := by
  simp [Hub.inTurn, unfactored]

theorem Hub.inTurn_factored {hb : Hub} {g : Group} {gi : Nat} {a : FactAcc} (k : Nat) (factored : g.factored = true)
    (held : hb.factAcc gi = some a) : hb.inTurn g gi k = decide (a.next = k) := by
  simp [Hub.inTurn, factored, held]

section
variable {s : State} {t gi k : Nat} {l : List (Nat × Block)} {fs : List (Nat × Nat)} {c : GroupCur} (hc : s.clocked = true)
  (current : sget (s.advance t).sched.cur gi = some c)
include current

theorem exec_tensorBlockUpdate_current : exec (.tensorBlockUpdate t gi k ⟨l, fs⟩) s =
    let a := s.advance t
    let g := groupOf c.record
    let h := a.unitOf g k
    .next (a.on (if !g.holds || decide (g.count ≤ k) || c.frozenBlock k || a.pendingElsewhere h gi k c.step
        || !(a.hub h).inTurn g gi k then a
      else (a.contributions h c.job c.step gi k g).elim a fun cs => a.updateBlock h c.job c.step gi k c cs l fs)) := by
  change execTensorBlockUpdate t gi k ⟨l, fs⟩ s = _
  unfold execTensorBlockUpdate
  dsimp only
  rw [current]
  dsimp only
  cases (s.advance t).contributions ((s.advance t).unitOf (groupOf c.record) k) c.job c.step gi k (groupOf c.record) <;> rfl

variable (holds : (groupOf c.record).holds = true) (within : k < (groupOf c.record).count) (live : c.frozenBlock k = false)
  (same : ∀ n, (s.advance t).pendingFor ((s.advance t).unitOf (groupOf c.record) k) gi k = some n → n = c.step)
include holds within live same

/-- A block of a group in force that is not frozen and not pending for another step is updated in its turn, once its
contributions are held. -/
theorem exec_tensorBlockUpdate_live : exec (.tensorBlockUpdate t gi k ⟨l, fs⟩) s =
    let a := s.advance t
    let g := groupOf c.record
    let h := a.unitOf g k
    .next (a.on (if !(a.hub h).inTurn g gi k then a
      else (a.contributions h c.job c.step gi k g).elim a fun cs => a.updateBlock h c.job c.step gi k c cs l fs)) := by
  have acts : (!(groupOf c.record).holds || decide ((groupOf c.record).count ≤ k) || c.frozenBlock k ||
      (s.advance t).pendingElsewhere ((s.advance t).unitOf (groupOf c.record) k) gi k c.step) = false := by
    simp [holds, within, live, State.pendingElsewhere_eq_false same]
  rw [exec_tensorBlockUpdate_current current]
  dsimp only
  rw [acts, Bool.false_or]

include hc

theorem exec_tensorBlockUpdate_outOfTurn
    (turn : ((s.advance t).hub ((s.advance t).unitOf (groupOf c.record) k)).inTurn (groupOf c.record) gi k = false) :
    exec (.tensorBlockUpdate t gi k ⟨l, fs⟩) s = .next (s.advance t) := by
  refine (Only.refl (w := []) _).answers (by simpa using hc) ?_
  rw [exec_tensorBlockUpdate_live current holds within live same]
  dsimp only
  rw [if_pos (by simp [turn])]

theorem exec_tensorBlockUpdate_lacking (lacks : (s.advance t).contributions
      ((s.advance t).unitOf (groupOf c.record) k) c.job c.step gi k (groupOf c.record) = none) :
    exec (.tensorBlockUpdate t gi k ⟨l, fs⟩) s = .next (s.advance t) := by
  refine (Only.refl (w := []) _).answers (by simpa using hc) ?_
  rw [exec_tensorBlockUpdate_live current holds within live same]
  dsimp only
  rw [lacks, Option.elim_none, ite_self]

theorem exec_tensorBlockUpdate_updates {cs : List Contribution} (held : (s.advance t).contributions
      ((s.advance t).unitOf (groupOf c.record) k) c.job c.step gi k (groupOf c.record) = some cs)
    (turn : ((s.advance t).hub ((s.advance t).unitOf (groupOf c.record) k)).inTurn (groupOf c.record) gi k = true) :
    exec (.tensorBlockUpdate t gi k ⟨l, fs⟩) s = .next
      ((s.advance t).updateBlock ((s.advance t).unitOf (groupOf c.record) k) c.job c.step gi k c cs l fs) := by
  refine State.updateBlock_only.answers (by simpa using hc) ?_
  rw [exec_tensorBlockUpdate_live current holds within live same]
  dsimp only
  rw [held, if_neg (by simp [turn]), Option.elim_some]

end

theorem State.factNext_waits (s : State) (h j n gi k : Nat) {c : GroupCur} (a : FactAcc) (fs : List (Nat × Nat))
    (more : c.nextLive (k + 1) < (groupOf c.record).count) :
    s.factNext h j n gi k c a fs = s.setFact h { a with next := c.nextLive (k + 1) } := by
  unfold State.factNext
  exact if_pos more

theorem State.takeWcopy_refused (s : State) (j n gi k : Nat) (g : Group) (w : List Byte) (fs : List (Nat × Nat)) :
    let h := s.unitOf g k
    let u := s.setHub h { s.hub h with await := (s.hub h).await.filter fun q => q != (gi, k, n) }
    s.takeWcopy j n gi k g true w fs = (u.setHub h ((u.hub h).keepFrame gi k n)).raise (u.updEv 0x7301 h j n gi k) := by
  unfold State.takeWcopy
  exact if_pos rfl

/-- Settles O49: each command by where its frame, message or block goes, and the rules by their equations. -/
theorem gradientsReachTheUpdate : Obligations.GradientsReachTheUpdate := by
  unfold Obligations.GradientsReachTheUpdate
  refine ⟨fun s t sn tag i x b hc held block grad asked waits sourced rd fs => ?frame,
    fun s t p fs m u hc => ⟨fun taken => ⟨exec_gradMessageReceive_fails hc taken, fun jb g good job group => ?grad⟩,
      fun taken => ⟨exec_wcopyMessageReceive_fails_mem fs hc taken, fun jb g bad job group => ?refused,
        fun jb g good job group expected run => ?written⟩⟩,
    fun s t gi k l fs c hc current holds within live same => ?block,
    fun s h j n gi k c a fs => State.factNext_waits s h j n gi k a fs, State.takeWcopy_refused,
    fun a co k xs x => ⟨a.enter_nil co k, a.enter_append co k xs x⟩,
    fun a co => ⟨a.length_newStats co, fun i => a.newStats_row co, fun j => a.newStats_col co, a.newStats_mean co⟩,
    Coef.factored_eq, Coef.main_eq⟩
  case frame =>
    rw [exec_gradientFrameArrival_sourced hc held block grad asked waits sourced]
    exact ⟨fun none_ => congrArg _ (State.placeFrame_orphan none_), fun g c k group =>
      ⟨fun pending => congrArg _ (State.placeFrame_waits group pending),
        fun free => congrArg _ (State.placeFrame_taken group free)⟩⟩
  case grad =>
    exact ⟨exec_gradMessageReceive_drops hc taken good job group, fun expected run =>
      ⟨exec_gradMessageReceive_waits hc taken good job group expected run,
        exec_gradMessageReceive_enters hc taken good job group expected run⟩⟩
  case refused =>
    exact ⟨_, _, exec_wcopyMessageReceive_fails fs hc taken job group bad, rfl⟩
  case written =>
    exact ⟨fun k x => exec_wcopyMessageReceive_waits fs hc taken job group good expected run,
      exec_wcopyMessageReceive_writes fs hc taken job group good expected run⟩
  case block =>
    refine ⟨fun acc factored acc_ other => exec_tensorBlockUpdate_outOfTurn hc current holds within live same ?_,
      exec_tensorBlockUpdate_lacking hc current holds within live same,
      fun cs held => ⟨fun unfactored => ⟨exec_tensorBlockUpdate_updates hc current holds within live same held ?_, ?_⟩,
        fun acc factored acc_ turn => ⟨exec_tensorBlockUpdate_updates hc current holds within live same held ?_, ?_⟩⟩⟩
    · rw [Hub.inTurn_factored k factored acc_, decide_eq_false_iff_not]
      exact other
    · exact Hub.inTurn_unfactored _ gi k unfactored
    · exact fun poison => (State.updateBlock_poisoned_mem l fs poison unfactored).trans (State.advance_mem s t)
    · rw [Hub.inTurn_factored k factored acc_, decide_eq_true_eq]
      exact turn
    · exact fun poison => State.updateBlock_poisoned_factored l fs poison factored acc_

end Sys2Proof.Machine
end

section
/-! PROOFS. Mask reports under SQUARE scope (R345, R347, R356). -/

set_option Elab.async false
namespace Sys2Proof.Machine

/-- A command answers what its branch gives, where pins, fuses and queue have no part in it. -/
theorem Only.answersAs {w : List Part} {s x y : State} {o : Host.Outcome State Fault Refusal} (frame : Only w s y)
    (hc : s.clocked = true) (run : o = .next (s.on x)) (branch : x = y)
    (c : (w.contains .pins || w.contains .fuses || w.contains .pending) = false := by decide) : o = .next y :=
  frame.answers hc (branch ▸ run) c

/-- So does a command that acts at a tick. -/
theorem Only.answersAt {w : List Part} {s x y : State} {t : Nat} {o : Host.Outcome State Fault Refusal}
    (frame : Only w (s.advance t) y) (hc : s.clocked = true) (run : o = .next ((s.advance t).on x)) (branch : x = y)
    (c : (w.contains .pins || w.contains .fuses || w.contains .pending) = false := by decide) : o = .next y :=
  frame.answersAs ((s.advance_clocked t).trans hc) run branch c

/-- A command whose branch is the state at its tick only moves bell time. -/
theorem State.answers_advance {s x : State} {t : Nat} {o : Host.Outcome State Fault Refusal} (hc : s.clocked = true)
    (run : o = .next ((s.advance t).on x)) (branch : x = s.advance t) : o = .next (s.advance t) :=
  (Only.refl (w := []) _).answersAt hc run branch

/-! ### KUP (R347) -/

/-- Does a device report its k_local at a tick? -/
def State.reportsK (a : State) (t : Nat) : Prop :=
  a.squareScope = true ∧ a.isMaster = false ∧ (a.bell.kLocal ≠ a.bell.kSent ∨ t % 2 ^ 20 = 0x40000)

section
variable {s : State} {t : Nat} (hc : s.clocked = true)
include hc

/-- The guard of KUP_REPORT. -/
theorem State.reportsK_iff : (s.advance t).reportsK t ↔
    (!(s.advance t).clocked || !(s.advance t).squareScope || (s.advance t).isMaster ||
      ((s.advance t).bell.kLocal = (s.advance t).bell.kSent && t % 2 ^ 20 != 0x40000)) = false := by
  unfold State.reportsK
  rw [State.advance_clocked, hc]
  simp [and_assoc, Classical.or_iff_not_imp_left]

theorem exec_kupReport_silent (h : ¬ (s.advance t).reportsK t) : exec (.kupReport t) s = .next (s.advance t) :=
  State.answers_advance hc rfl (if_pos (by simpa only [State.reportsK_iff hc, Bool.not_eq_false] using h))

section
variable (h : (s.advance t).reportsK t)
include h

theorem exec_kupReport_portless (none_ : (s.advance t).primaryPort = none) : exec (.kupReport t) s = .next (s.advance t) := by
  refine State.answers_advance hc rfl ((if_neg (Bool.eq_false_iff.1 ((State.reportsK_iff hc).1 h))).trans ?_)
  rw [none_]

theorem exec_kupReport_sends {p : Nat} (port : (s.advance t).primaryPort = some p) : exec (.kupReport t) s = .next
    ({ s.advance t with bell := { (s.advance t).bell with kSent := (s.advance t).bell.kLocal } }.sendMark t p 1 0
      (s.advance t).bell.kLocal 0 (s.advance t).pins.pos.toNat) := by
  refine Only.answersAt (w := [.bell, .pages, .stalls, .aisles, .out]) ((Only.upd (.refl _)).step State.sendMark_only)
    hc rfl ((if_neg (Bool.eq_false_iff.1 ((State.reportsK_iff hc).1 h))).trans ?_)
  rw [port]

end

/-! ### Marks that come over a port (R345, R347, R356) -/

section
variable {p : Nat} (w0 : W64) (w1 : W32)

theorem exec_kupReceive_unheard (deaf : (s.advance t).carriesMarks p = false) :
    exec (.kupReceive t p w0 w1) s = .next (s.advance t) :=
  State.answers_advance hc rfl (if_pos (by simp [hc, deaf]))

theorem exec_kdownReceive_unheard (deaf : (s.advance t).carriesMarks p = false) :
    exec (.kdownReceive t p w0 w1) s = .next (s.advance t) :=
  State.answers_advance hc rfl (if_pos (by simp [hc, deaf]))

variable (heard : (s.advance t).carriesMarks p = true)
include heard

/-- The guard that a mark passes. -/
theorem State.heard_guard : ¬ (!(s.advance t).clocked || !(s.advance t).carriesMarks p) = true := by simp [hc, heard]

theorem exec_kupReceive_master (master : ((s.advance t).count (pageNo .aisle p) 0x80 1).isMaster = true) :
    let a := (s.advance t).count (pageNo .aisle p) 0x80 1
    exec (.kupReceive t p w0 w1) s = .next
      { a with bell := { a.bell with kTable := sset a.bell.kTable (bits w1.toNat 21 16) (bits w1.toNat 5 0) } } :=
  Only.answersAt (w := [.bell, .pages, .stalls]) (Only.upd (State.count_only.mono (by decide)))
    hc rfl ((if_neg (State.heard_guard hc heard)).trans (if_pos master))

section
variable (slave : ((s.advance t).count (pageNo .aisle p) 0x80 1).isMaster = false)
include slave

theorem exec_kupReceive_relays {q : Nat} (port : ((s.advance t).count (pageNo .aisle p) 0x80 1).primaryPort = some q) :
    exec (.kupReceive t p w0 w1) s = .next (((s.advance t).count (pageNo .aisle p) 0x80 1).sendMark t q 1 0
      (bits w1.toNat 5 0) 0 (bits w1.toNat 21 16)) := by
  refine ((State.count_only.mono (by decide)).trans State.sendMark_only).answersAt hc rfl
    ((if_neg (State.heard_guard hc heard)).trans ((if_neg (Bool.eq_false_iff.1 slave)).trans ?_))
  rw [port]

theorem exec_kupReceive_portless (none_ : ((s.advance t).count (pageNo .aisle p) 0x80 1).primaryPort = none) :
    exec (.kupReceive t p w0 w1) s = .next ((s.advance t).count (pageNo .aisle p) 0x80 1) := by
  refine State.count_only.answersAt hc rfl
    ((if_neg (State.heard_guard hc heard)).trans ((if_neg (Bool.eq_false_iff.1 slave)).trans ?_))
  rw [none_]

theorem exec_kdownReceive_relays : let a := (s.advance t).count (pageNo .aisle p) 0x80 1
    exec (.kdownReceive t p w0 w1) s = .next (a.markPorts.foldl (fun v q => v.sendMark t q 2 (bits w0.toNat 43 0) 0
      (bits w1.toNat 13 8) 0) { a with bell := { a.bell with kDown := some (bits w0.toNat 43 0, bits w1.toNat 13 8) } }) :=
  Only.answersAt (w := [.bell, .pages, .stalls, .aisles, .out])
    ((Only.upd (State.count_only.mono (by decide))).step (Only.foldl fun _ _ => State.sendMark_only))
    hc rfl ((if_neg (State.heard_guard hc heard)).trans (if_neg (Bool.eq_false_iff.1 slave)))

end

theorem exec_kdownReceive_master (master : ((s.advance t).count (pageNo .aisle p) 0x80 1).isMaster = true) :
    exec (.kdownReceive t p w0 w1) s = .next ((s.advance t).count (pageNo .aisle p) 0x80 1) :=
  State.count_only.answersAt hc rfl
    ((if_neg (State.heard_guard hc heard)).trans (if_pos master))

end

/-! ### The midpoint (R347) -/

/-- The largest mask that the master knows of. -/
def Bell.kReported (b : Bell) : Nat := b.kTable.foldl (fun x (q : Nat × Nat) => max x q.2) b.kLocal

/-- A midpoint at `m` past: the next is a period later. -/
def State.midpointPast (a : State) (m : Nat) : State := { a with bell := { a.bell with nextMid := m + 2 ^ 20 } }

theorem exec_kmasterIntake_announces
    (h : let a := s.advance s.bell.nextMid; a.isMaster = true ∧ a.squareScope = true ∧ a.bell.kReported ≠ a.bell.kSquare) :
    let m := s.bell.nextMid
    let a := s.advance m
    let b := a.midpointPast m
    let k := a.bell.kReported
    exec .kmasterIntake s = .next (a.markPorts.foldl (fun v p => v.sendMark m p 2 (m / 2 ^ 20 + 1) 0 k 0)
      { b with bell := { b.bell with kDown := some (m / 2 ^ 20 + 1, k) } }) := by
  obtain ⟨master, scope, other⟩ := h
  refine Only.answersAs (w := [.time, .bell, .pages, .stalls, .aisles, .out])
    ((Only.upd (Only.upd (State.advance_only.mono (by decide)))).step (Only.foldl fun _ _ => State.sendMark_only)) hc rfl
    ((if_neg (by simp [hc])).trans ((if_neg ?_).trans (if_neg other)))
  exact Bool.eq_false_iff.1 (by rw [Bool.or_eq_false_iff]; exact ⟨congrArg not master, congrArg not scope⟩)

theorem exec_kmasterIntake_rests
    (h : let a := s.advance s.bell.nextMid; ¬ (a.isMaster = true ∧ a.squareScope = true ∧ a.bell.kReported ≠ a.bell.kSquare)) :
    exec .kmasterIntake s = .next ((s.advance s.bell.nextMid).midpointPast s.bell.nextMid) := by
  refine Only.answersAs (w := [.time, .bell, .pages, .stalls]) (Only.upd (State.advance_only.mono (by decide))) hc rfl
    ((if_neg (by simp [hc])).trans ?_)
  by_cases alone : (!(s.advance s.bell.nextMid).isMaster || !(s.advance s.bell.nextMid).squareScope) = true
  · exact if_pos alone
  · refine (if_neg alone).trans (if_pos ?_)
    simp only [Bool.or_eq_true, Bool.not_eq_true', not_or, Bool.not_eq_false] at alone
    by_contra other
    exact h ⟨alone.1, alone.2, other⟩

end

/-- Settles O25: each report by the guard that it meets. -/
theorem maskReportsTravel : Obligations.MaskReportsTravel := by
  unfold Obligations.MaskReportsTravel
  exact ⟨fun s t hc => ⟨fun report p => exec_kupReport_sends hc report, exec_kupReport_portless hc, exec_kupReport_silent hc⟩,
    fun s t p w0 w1 hc heard => ⟨exec_kupReceive_master hc w0 w1 heard, fun slave q => exec_kupReceive_relays hc w0 w1 heard slave,
      exec_kupReceive_portless hc w0 w1 heard⟩,
    fun s hc => ⟨exec_kmasterIntake_announces hc, exec_kmasterIntake_rests hc⟩,
    fun s t p w0 w1 hc heard => ⟨exec_kdownReceive_relays hc w0 w1 heard, exec_kdownReceive_master hc w0 w1 heard⟩,
    fun s t p w0 w1 hc deaf => ⟨exec_kupReceive_unheard hc w0 w1 deaf, exec_kdownReceive_unheard hc w0 w1 deaf⟩⟩

end Sys2Proof.Machine
end

section
/-! PROOFS. LemefLink half-ports: slots, replay, loss and training, and the loss of the companion (R338, R339, R414, R427 to R430,
R448). -/

set_option Elab.async false
namespace Sys2Proof.Machine

/-- The parts that the operations of links and of events may write. -/
abbrev linkParts : List Part := [.boot, .pages, .stalls, .jobs, .hubs, .arbs, .aisles, .halves, .clerk, .rings, .events,
  .ledgers, .trace, .out, .freeIx]

/-! ### Slots that arrive (R427 to R429) -/

/-- Does a slot fail its check: crc, a reserved type or a reserved pool? -/
def slotFails (b : List Byte) : Bool :=
  !slotOk b || decide (7 < (slotOf b).ty) || (slotSequenced (slotOf b).ty && decide (4 < (slotOf b).pool))

theorem slotSequenced_iff (ty : Nat) : slotSequenced ty = true ↔ 1 ≤ ty ∧ ty ≤ 7 := by
  simp [slotSequenced]

theorem slotFails_iff (b : List Byte) : slotFails b = true ↔ slotOk b = false ∨ 7 < (slotOf b).ty ∨
    (1 ≤ (slotOf b).ty ∧ (slotOf b).ty ≤ 7 ∧ 4 < (slotOf b).pool) := by
  simp [slotFails, slotSequenced_iff, or_assoc, and_assoc]

theorem slotFails_eq_false {b : List Byte} (ok : slotOk b = true) (ty : (slotOf b).ty ≤ 7)
    (pool : 1 ≤ (slotOf b).ty → (slotOf b).pool ≤ 4) : slotFails b = false := by
  rw [← Bool.not_eq_true, slotFails_iff, ok]
  rintro (bad | bad | ⟨lo, -, bad⟩)
  · cases bad
  · omega
  · exact absurd (pool lo) (by omega)

/-- A good slot's acknowledgement and credits are taken; its NAK has the slots held for replay sent again. -/
def State.slotTaken (u : State) (t h : Nat) (x : Slot) : State :=
  if x.nak then (u.setHalf h ((u.half h).takeAck t x)).replayHalf t h else u.setHalf h ((u.half h).takeAck t x)

theorem State.slotTaken_only {u : State} {t h : Nat} {x : Slot} : Only linkParts u (u.slotTaken t h x) :=
  holds_ite (Q := Only linkParts u) ((State.setHalf_only.mono (by decide)).step State.replayHalf_only)
    (State.setHalf_only.mono (by decide))

section
variable {s u : State} {t h : Nat} {b : List Byte} (hc : s.clocked = true) (locked : (s.advance t).slotLock t h b = u)
include hc locked

theorem exec_lemefSlotReceive_notUp (down : (u.half h).state ≠ 2) : exec (.lemefSlotReceive t h b) s = .next u := by
  subst locked
  exact State.slotLock_only.answersAt hc rfl (if_pos (by simpa using down))

variable (up : (u.half h).state = 2)
include up

theorem exec_lemefSlotReceive_fails (bad : slotFails b = true) :
    exec (.lemefSlotReceive t h b) s = .next ((u.count (lemefPage h) 0x58 1).nakHalf t h) := by
  subst locked
  have frame := (State.slotLock_only (a0 := s.advance t) (a1 := t) (a2 := h) (a3 := b)).mono (w := [.pages, .stalls, .halves]) rfl
  exact ((frame.step State.count_only).step State.nakHalf_only).answersAt hc rfl
    ((if_neg (by simp [up])).trans (if_pos bad))

variable (good : slotFails b = false)
include good

/-- A good slot on a half-port that is UP is taken, and then by its number. -/
theorem exec_lemefSlotReceive_good {y : State} {w : List Part} (frame : Only w (u.slotTaken t h (slotOf b)) y)
    (branch : (if ((u.slotTaken t h (slotOf b)).half h).state != 2 || !slotSequenced (slotOf b).ty then u.slotTaken t h (slotOf b)
      else if (slotOf b).seq = (u.half h).rxSeq then (u.slotTaken t h (slotOf b)).acceptSlot h (slotOf b) b
      else (u.slotTaken t h (slotOf b)).nakHalf t h) = y)
    (k : w.all linkParts.contains = true := by decide) : exec (.lemefSlotReceive t h b) s = .next y := by
  subst locked
  have taken : Only linkParts (s.advance t) (((s.advance t).slotLock t h b).slotTaken t h (slotOf b)) :=
    (State.slotLock_only.mono (by decide)).trans State.slotTaken_only
  exact (taken.step frame k).answersAt hc rfl
    ((if_neg (by simp [up])).trans ((if_neg (Bool.eq_false_iff.1 good)).trans branch))

theorem exec_lemefSlotReceive_idle (idle : slotSequenced (slotOf b).ty = false ∨ ((u.slotTaken t h (slotOf b)).half h).state ≠ 2) :
    exec (.lemefSlotReceive t h b) s = .next (u.slotTaken t h (slotOf b)) :=
  exec_lemefSlotReceive_good hc locked up good (.refl (w := []) _) (if_pos (by simpa [or_comm] using idle))

variable (still : ((u.slotTaken t h (slotOf b)).half h).state = 2) (sequenced : slotSequenced (slotOf b).ty = true)
include still sequenced

theorem exec_lemefSlotReceive_accepts (due : (slotOf b).seq = (u.half h).rxSeq) :
    exec (.lemefSlotReceive t h b) s = .next ((u.slotTaken t h (slotOf b)).acceptSlot h (slotOf b) b) :=
  exec_lemefSlotReceive_good hc locked up good State.acceptSlot_only ((if_neg (by simp [still, sequenced])).trans (if_pos due))

theorem exec_lemefSlotReceive_naks (other : (slotOf b).seq ≠ (u.half h).rxSeq) :
    exec (.lemefSlotReceive t h b) s = .next ((u.slotTaken t h (slotOf b)).nakHalf t h) :=
  exec_lemefSlotReceive_good hc locked up good State.nakHalf_only ((if_neg (by simp [still, sequenced])).trans (if_neg other))

end

/-! ### Loss, training and replay (R338, R339, R429) -/

section
variable {s : State} {t h : Nat} (hc : s.clocked = true)
include hc

theorem exec_lemefHalfLost_up (up : ((s.advance t).half h).state = 2) :
    exec (.lemefHalfLost t h) s = .next ((s.advance t).loseHalf h) :=
  State.loseHalf_only.answersAt hc rfl (if_neg (by simp [up]))

theorem exec_lemefHalfLost_notUp (down : ((s.advance t).half h).state ≠ 2) : exec (.lemefHalfLost t h) s = .next (s.advance t) :=
  State.answers_advance hc rfl (if_pos (by simpa using down))

theorem exec_lemefRetrain_trains (down : ((s.advance t).half h).state ≠ 2) (trained : (s.advance t).boot.trained = true) :
    exec (.lemefRetrain t h) s = .next ((s.advance t).setHalf h { (s.advance t).half h with state := 1 }) :=
  State.setHalf_only.answersAt hc rfl (if_neg (by simpa [down] using trained))

theorem exec_lemefRetrain_stays (h' : ((s.advance t).half h).state = 2 ∨ (s.advance t).boot.trained = false) :
    exec (.lemefRetrain t h) s = .next (s.advance t) :=
  State.answers_advance hc rfl (if_pos (by simpa using h'))

theorem exec_lemefAckTimeout_due (up : ((s.advance t).half h).state = 2) (held : ((s.advance t).half h).replay ≠ [])
    (late : max ((s.advance t).half h).ackAt ((s.advance t).half h).retryAt + 3072 ≤ t) : exec (.lemefAckTimeout t h) s
      = .next (((s.advance t).setHalf h { (s.advance t).half h with retryAt := t }).replayHalf t h) :=
  ((State.setHalf_only.mono (by decide)).trans State.replayHalf_only).answersAt hc rfl (if_pos (by simp [up, held, late]))

theorem exec_lemefAckTimeout_early (early : t < max ((s.advance t).half h).ackAt ((s.advance t).half h).retryAt + 3072) :
    exec (.lemefAckTimeout t h) s = .next (s.advance t) :=
  State.answers_advance hc rfl (if_neg (by simp [Nat.not_le.2 early]))

theorem exec_companionLossTimeout_unserved (dev : (s.advance t).boot.dev = 0 ∨ (s.advance t).boot.dev = 3) :
    exec (.companionLossTimeout t) s = .next (s.advance t) :=
  State.answers_advance hc rfl (if_pos (by simpa using dev))

theorem exec_companionLossTimeout_fails (open_ : (s.advance t).boot.dev ≠ 0) (runs : (s.advance t).boot.dev ≠ 3) :
    let y := (s.advance t).raise ((s.advance t).mkEv 0x6507 1 none .lemef 0 0 0)
    exec (.companionLossTimeout t) s = .next (y.openJobs.foldl (fun z j => z.failJob j 0x6507) y) :=
  ((State.raise_only.mono (by decide)).trans (Only.foldl (w := linkParts) fun _ _ => State.failJob_only.mono (by decide))).answersAt
    hc rfl (if_neg (by rw [decide_eq_false open_, decide_eq_false runs]; nofun))

end

/-! ### What a half-port does of itself -/

section
variable (s : State) (t h : Nat) {b : List Byte}

theorem State.slotLock_locks (training : (s.half h).state = 1) (trained : s.boot.trained = true) (good : slotOk b = true) :
    ((s.slotLock t h b).half h).state = 2 := by
  unfold State.slotLock
  rw [if_pos (by simp [training, trained, good]), State.enterHalf_state, if_pos rfl]

theorem State.slotLock_keeps (k : (s.half h).state ≠ 1 ∨ s.boot.trained = false ∨ slotOk b = false) : s.slotLock t h b = s :=
  if_neg fun locks => by
    simp only [Bool.and_eq_true, decide_eq_true_eq] at locks
    obtain ⟨⟨training, trained⟩, good⟩ := locks
    simp [training, trained, good] at k

theorem State.replayHalf_loses (spent : ∃ q ∈ (s.half h).replay, 16 ≤ q.tries) : s.replayHalf t h = s.loseHalf h := by
  obtain ⟨q, held, tries⟩ := spent
  exact (if_neg (by simpa using List.ne_nil_of_mem held)).trans (if_pos (by simpa using ⟨q, held, tries⟩))

theorem State.nakHalf_again {n : Nat} (asked : (s.half h).nakAt = some n) : s.nakHalf t h = s := if_pos (by simp [asked])

theorem State.nakHalf_first (fresh : (s.half h).nakAt = none) :
    s.nakHalf t h = s.setHalf h { s.half h with nakAt := some t, nakOwed := true } := if_neg (by simp [fresh])

/-- An accepted slot moves the half-port on; one of the companion's requests waits, a response answers its own. -/
theorem State.half_acceptSlot (x : Slot) (b : List Byte) :
    let f := s.half h
    let g := (s.acceptSlot h x b).half h
    let waits := slotAsks x.ty || x.ty = 6
    g.rxSeq = (f.rxSeq + 1) % 4096 ∧ g.acked = true ∧ g.inbox = (if waits then f.inbox ++ [b] else f.inbox) ∧
      g.asked = f.asked.filter fun q => !(!waits && q.tag = x.tag) := by
  unfold State.acceptSlot
  dsimp only
  split <;> simp [State.oweSlot, State.half_count, *]

end

/-- Settles O41: each slot and timer by its own lemma, and what a half-port does of itself. -/
theorem halfPortsLoseAndRecover : Obligations.HalfPortsLoseAndRecover := by
  unfold Obligations.HalfPortsLoseAndRecover
  refine ⟨fun s t h hc => ⟨fun b => ⟨exec_lemefSlotReceive_notUp hc rfl, fun up => ⟨fun bad => ?fails, fun ok idle => ?idle,
      fun ok lo hi pool => ?sequenced⟩⟩,
    exec_lemefHalfLost_up hc, exec_lemefHalfLost_notUp hc, exec_lemefRetrain_trains hc, exec_lemefRetrain_stays hc,
    fun up held => ⟨exec_lemefAckTimeout_due hc up held, exec_lemefAckTimeout_early hc⟩,
    exec_companionLossTimeout_unserved hc, exec_companionLossTimeout_fails hc⟩,
    fun s t h b x => ⟨s.slotLock_locks t h, s.slotLock_keeps t h, s.replayHalf_loses t h, fun n => s.nakHalf_again t h,
      s.nakHalf_first t h, ?accepted⟩⟩
  case fails => exact exec_lemefSlotReceive_fails hc rfl up ((slotFails_iff b).2 bad)
  case idle =>
    exact exec_lemefSlotReceive_idle hc rfl up (slotFails_eq_false ok (by omega) (by omega))
      (.inl (by rw [slotSequenced, decide_eq_false (by omega)]; rfl))
  case sequenced =>
    have good := slotFails_eq_false ok hi fun _ => pool
    exact ⟨fun lost => exec_lemefSlotReceive_idle hc rfl up good (.inr lost),
      fun still => exec_lemefSlotReceive_accepts hc rfl up good still ((slotSequenced_iff _).2 ⟨lo, hi⟩),
      fun still => exec_lemefSlotReceive_naks hc rfl up good still ((slotSequenced_iff _).2 ⟨lo, hi⟩)⟩
  case accepted =>
    intro u
    obtain ⟨number, acked, inbox, asked⟩ := s.half_acceptSlot h x b
    refine ⟨number, acked, fun request => ?_, fun response => ?_⟩
    · have waits : (slotAsks x.ty || decide (x.ty = 6)) = true := by
        simpa [slotAsks, or_assoc] using request
      rw [inbox, asked, waits]
      simp
    · have answers : (slotAsks x.ty || decide (x.ty = 6)) = false := by
        simp only [List.mem_cons, List.not_mem_nil, or_false] at response
        obtain e | e | e := response <;> rw [e] <;> rfl
      rw [inbox, asked, answers]
      exact ⟨rfl, rfl⟩

end Sys2Proof.Machine
end

section
/-! PROOFS. SET_POLICY, TWIN_BIND, SELFTEST, fencing, ECHO and SUMMARY (R356, R411, R418, R419, R440, R445, R452). -/

set_option Elab.async false
namespace Sys2Proof.Machine

/-- A command that names no job and writes neither pins, fuses nor the queue answers what its meaning makes of the state. -/
theorem exec_of_runs_only {s u : State} {t seq op : Nat} {x : Taken} {c : Instr} {f : State → Taken → State} {w : List Part}
    (h : runs s t seq op x) (run : exec c s = .next (s.on (s.runCommand t seq op f))) (means : f (s.advance t) x = u)
    (frame : Only w (s.advance t) u) (free : jobOpcode op = false := by rfl)
    (k : (w.contains .pins || w.contains .fuses || w.contains .pending) = false := by decide) : exec c s = .next u := by
  rw [run, State.runCommand_of_runs _ h free, State.on_clocked h.1, means, ← State.within_advance, frame.within k]

/-! ### SET_POLICY (R440) -/

/-- The master of a SET_POLICY is kept for the round boundary. -/
theorem State.writeSync_bell (s : State) (d : List Byte) : (s.writeSync d).bell
    = { s.bell with masterNext := some (descField d 33 1, s.atBoundary) } := by
  unfold State.writeSync
  extract_lets f out u v
  have same : v.bell = s.bell := (Only.bell State.requestCommit_only).trans
    ((Only.bell State.shadow_only).trans (Only.bell State.shadow_only))
  change ({ v.bell with masterNext := some (descField d 33 1, decide (v.bell.nextRound ≤ v.bell.now)) } : Bell) = _
  rw [same]
  rfl

theorem State.applyPolicy_bell (s : State) (d : List Byte) : (s.applyPolicy d).bell
    = { s.bell with masterNext := some (descField d 33 1, s.atBoundary) } := by
  unfold State.applyPolicy
  extract_lets old u
  calc _ = ((u.writeSync d).writePorts d).bell := Only.bell State.writeRoutes_only
    _ = (u.writeSync d).bell := Only.bell State.writePorts_only
    _ = _ := u.writeSync_bell d

section
variable (s : State) {seq : Nat} {d : List Byte}

theorem State.setPolicy_wide (wide : (s.openJobs.any fun k => ((s.job k).map Job.spans).getD false) = true) :
    s.setPolicy seq d = s.finish seq 2 0 0 0 0 none := if_pos wide

variable (narrow : (s.openJobs.any fun k => ((s.job k).map Job.spans).getD false) = false)
include narrow

theorem State.setPolicy_applies (stays : ¬ (bit (descField d 32 1) 0 = true ∧ s.bell.state ≠ 2)) :
    s.setPolicy seq d = (s.applyPolicy d).finish seq 0 0 0 0 0 none := by
  have no : (bit (descField d 32 1) 0 && s.bell.state != 2) = false := by
    rw [← Bool.not_eq_true]
    simpa using stays
  unfold State.setPolicy
  dsimp only
  rw [narrow, no]
  rfl

variable (acquires : bit (descField d 32 1) 0 = true ∧ s.bell.state ≠ 2)
include acquires

theorem State.setPolicy_refuses (busy : s.openJobs ≠ []) :
    s.setPolicy seq d = (s.raise (s.mkEv 0xA205 0 none .bell 0 0 0)).finish seq 2 0xA205 0 0 0 none :=
  (if_neg (Bool.eq_false_iff.1 narrow)).trans (if_pos (by simpa [busy] using acquires))

theorem State.setPolicy_acquires (idle : s.openJobs = []) :
    let u := s.applyPolicy d
    s.setPolicy seq d
      = { u with clerk := { u.clerk with acquiring := some (seq, u.bell.nextRound + 4194304) } }.markStarted seq :=
  (if_neg (Bool.eq_false_iff.1 narrow)).trans ((if_neg (by simp [idle])).trans (if_pos (by simpa using acquires)))

end

/-! ### TWIN_BIND (R356) -/

section
variable (s : State) (seq j : Nat) (jb : Job) (d : List Byte)

/-- May a twin be bound over no such port: one that is no twin port, or that leads to the same side? -/
def State.badTwinPath (s : State) (path : Nat) : Prop :=
  path < 12 ∧ (s.twinPort path = false ∨ (s.aisle path).peerValid = true ∧ (s.aisle path).peerSide = s.pins.twin)

/-- The binding that a TWIN_BIND asks for. -/
def twinAsked (d : List Byte) : TwinSt :=
  ⟨descField d 32 2, descField d 34 1, descField d 35 1, descField d 36 2, false, false, 0, [], [], []⟩

theorem State.twinBind_absent (lt : descField d 35 1 < 12) (absent : s.portPresent (descField d 35 1) = false) :
    s.twinBind seq j jb d = s.finish seq 2 0x6201 0 0 0 none := if_pos (by simp [lt, absent])

variable (present : descField d 35 1 < 12 → s.portPresent (descField d 35 1) = true)
include present

theorem State.twinBind_present : ¬ (decide (descField d 35 1 < 12) && !s.portPresent (descField d 35 1)) = true := by
  simpa using present

theorem State.twinBind_waits (unresolved : jb.steps ≠ [] ∨ s.jobActive j = true) : s.twinBind seq j jb d = s :=
  (if_neg (s.twinBind_present d present)).trans (if_pos (by simpa using unresolved))

variable (done : jb.steps = []) (idle : s.jobActive j = false)
include done idle

theorem State.twinBind_resolved : s.twinBind seq j jb d =
    if descField d 32 2 != 0 && (decide (descField d 35 1 < 12) && (s.aisle (descField d 35 1)).peerValid &&
        (s.aisle (descField d 35 1)).peerSide = s.pins.twin || decide (descField d 35 1 < 12) && !s.twinPort (descField d 35 1))
    then s.refuse seq 0x6201
    else (s.setJob j { jb with twin := if descField d 32 2 = 0 then none else some (twinAsked d) }).finish seq 0 0 0 0 0 none :=
  (if_neg (s.twinBind_present d present)).trans (if_neg (by simp [done, idle]))

theorem State.twinBind_bad (binds : descField d 32 2 ≠ 0) (bad : s.badTwinPath (descField d 35 1)) :
    s.twinBind seq j jb d = s.finish seq 2 0x6201 0 0 0 none := by
  rw [State.twinBind_resolved s seq j jb d present done idle]
  obtain ⟨lt, bad⟩ := bad
  refine if_pos ?_
  simpa [binds, lt, or_comm] using bad

theorem State.twinBind_binds (binds : descField d 32 2 ≠ 0) (good : ¬ s.badTwinPath (descField d 35 1)) :
    s.twinBind seq j jb d = (s.setJob j { jb with twin := some (twinAsked d) }).finish seq 0 0 0 0 0 none := by
  rw [State.twinBind_resolved s seq j jb d present done idle, if_neg binds]
  refine if_neg ?_
  unfold State.badTwinPath at good
  simp only [Bool.and_eq_true, Bool.or_eq_true, decide_eq_true_eq, Bool.not_eq_true']
  tauto

theorem State.twinBind_unbinds (unbinds : descField d 32 2 = 0) :
    s.twinBind seq j jb d = (s.setJob j { jb with twin := none }).finish seq 0 0 0 0 0 none := by
  rw [State.twinBind_resolved s seq j jb d present done idle, if_pos unbinds]
  exact if_neg (by simp [unbinds])

end

/-! ### SELFTEST (R411, R418) -/

section
variable (s : State) (seq : Nat) {d : List Byte} (f : Inspection)

theorem State.selftest_device (whole : descField d 32 1 = 0) :
    s.selftest seq d f = (s.testDevice f).finish seq 0 0 0 0 0 none := congrArg (State.finish · seq 0 0 0 0 0 none) (if_pos whole)

theorem State.selftest_stalls (part : descField d 32 1 ≠ 0) :
    s.selftest seq d f = (s.testStalls (s.testScope d) f).finish seq 0 0 0 0 0 none :=
  congrArg (State.finish · seq 0 0 0 0 0 none) (if_neg part)

theorem State.startTest_nothing (empty : s.testScope d = []) : s.startTest seq d f = s.finish seq 2 0x6201 0 0 0 none :=
  if_pos (by simp [empty])

variable (scope : s.testScope d ≠ [])
include scope

theorem State.startTest_runs (ready : s.testReady d = true) : s.startTest seq d f = s.selftest seq d f :=
  (if_neg (by simpa using scope)).trans (if_pos ready)

variable (unready : s.testReady d = false)
include unready

theorem State.startTest_queues (may : bit (descField d 1 1) 0 = true) (room : s.clerk.selfq.length < 4) : s.startTest seq d f
    = { s with clerk := { s.clerk with selfq := s.clerk.selfq ++ [seq] } }.markStarted seq :=
  (if_neg (by simpa using scope)).trans ((if_neg (Bool.eq_false_iff.1 unready)).trans (if_pos (by simp [may, room])))

theorem State.startTest_busy (full : bit (descField d 1 1) 0 = false ∨ 4 ≤ s.clerk.selfq.length) :
    s.startTest seq d f = s.finish seq 3 0 0 0 0 none :=
  (if_neg (by simpa using scope)).trans ((if_neg (Bool.eq_false_iff.1 unready)).trans (if_neg (by
    rw [← Nat.not_lt, ← Bool.not_eq_true] at full
    simpa [Classical.or_iff_not_imp_left] using full)))

end

theorem stallPasses_iff (f : Inspection) (n : Nat) :
    stallPasses f n = true ↔ (∀ q ∈ f.repair, q.1 ≠ n) ∧ n ∉ f.scan ∧ n / 128 ∉ f.halls := by
  simp [stallPasses, and_assoc]

/-! ### SUMMARY (R419, R445) -/

section
variable (s : State) (seq : Nat) {d : List Byte}

/-- The state whose SUMMARY is taken: at the round boundary to come. -/
def State.atSummary (s : State) : State := s.advance s.bell.nextRound

theorem State.summary_short (short : descField d 40 4 < s.atSummary.sumRecord.length) : s.summary seq d
    = (s.atSummary.raise (s.atSummary.mkEv 0x6203 0 none .clerk 0 0 (seq % 2 ^ 64))).finish seq 1 0x6203 0 0 0 none := by
  unfold State.summary
  exact if_pos short

theorem State.summary_fits (fits : s.atSummary.sumRecord.length ≤ descField d 40 4) : s.summary seq d
    = (s.atSummary.writeLines (descField d 32 8) s.atSummary.sumRecord).finish seq 0 0 s.atSummary.sumRecord.length 0 0 none := by
  unfold State.summary
  exact if_neg (Nat.not_lt.2 fits)

end

/-! ### The commands -/

section
variable {s : State} {t seq : Nat} {x : Taken}

theorem exec_setPolicy (h : runs s t seq 0x20 x) (fresh : x.started = false) :
    exec (.setPolicy t seq) s = .next ((s.advance t).setPolicy seq x.desc) :=
  exec_of_runs_only h rfl (by rw [fresh]; rfl) State.setPolicy_only

theorem exec_twinBind {jb : Job} (h : runsOn s t seq 0x30 x jb) :
    exec (.twinBind t seq) s = .next ((s.advance t).twinBind seq (descJob x.desc) jb x.desc) := by
  have job := h.2.2.1
  exact exec_of_runsOn_only h rfl (by rw [job]) State.twinBind_only

theorem exec_echo (h : runs s t seq 0x7E x) : exec (.echo t seq) s = .next ((s.advance t).echo seq x.desc) :=
  exec_of_runs_only h rfl rfl State.echo_only

theorem exec_summary (h : runs s t seq 0x7F x) : exec (.summary t seq) s = .next ((s.advance t).summary seq x.desc) :=
  exec_of_runs_only h rfl rfl State.summary_only

section
variable (f : Inspection) (h : runs s t seq 0x10 x)
include h

theorem exec_selftest_starts (new : (s.advance t).clerk.selfq.contains seq = false) :
    exec (.selftest t seq f) s = .next ((s.advance t).startTest seq x.desc f) :=
  exec_of_runs_only h rfl (if_neg (Bool.eq_false_iff.1 new)) State.startTest_only

theorem exec_selftestQueuedStart_waits (unready : (s.advance t).testReady x.desc = false) :
    exec (.selftestQueuedStart t seq f) s = .next (s.advance t) :=
  exec_of_runs_only h rfl (if_neg (by rw [unready]; simp)) (.refl (w := []) _)

variable (queued : (s.advance t).clerk.selfq.contains seq = true)
include queued

theorem exec_selftest_queued : exec (.selftest t seq f) s = .next (s.advance t) :=
  exec_of_runs_only h rfl (if_pos queued) (.refl (w := []) _)

theorem exec_selftestQueuedStart_runs (ready : (s.advance t).testReady x.desc = true) :
    exec (.selftestQueuedStart t seq f) s = .next ((s.advance t).selftest seq x.desc f) :=
  exec_of_runs_only h rfl (if_pos (by rw [queued, ready]; rfl)) State.selftest_only

end

section
variable (h : runs s t seq 0x11 x)
include h

theorem exec_fenceStall_absent (absent : (s.advance t).stallPresent (descField x.desc 32 2) = false) :
    exec (.fenceStall t seq) s = .next ((s.advance t).finish seq 2 0x6201 0 0 0 none) :=
  exec_of_runs_only h rfl (if_pos (by rw [absent]; rfl)) State.finish_only

theorem exec_fenceStall_fences (present : (s.advance t).stallPresent (descField x.desc 32 2) = true) :
    exec (.fenceStall t seq) s = .next ((((s.advance t).fence (descField x.desc 32 2) 0).post).finish seq 0 0 0 0 0 none) :=
  exec_of_runs_only h rfl (if_neg (by rw [present]; nofun)) ((State.fence_only.step State.post_only).step State.finish_only)

end

section
variable (f : Inspection) (h : runs s t seq 0x12 x)
include h

theorem exec_unfenceStall_absent (absent : (s.advance t).stallPresent (descField x.desc 32 2) = false) :
    exec (.unfenceStall t seq f) s = .next ((s.advance t).finish seq 2 0x6201 0 0 0 none) :=
  exec_of_runs_only h rfl (if_pos (by rw [absent]; rfl)) State.finish_only

variable (present : (s.advance t).stallPresent (descField x.desc 32 2) = true)
include present

theorem exec_unfenceStall_unfenced (serving : (s.advance t).clerk.fences.contains (descField x.desc 32 2) = false) :
    exec (.unfenceStall t seq f) s = .next ((s.advance t).finish seq 1 0 0 0 0 none) :=
  exec_of_runs_only h rfl ((if_neg (by rw [present]; nofun)).trans (if_pos (by rw [serving]; rfl))) State.finish_only

variable (fenced : (s.advance t).clerk.fences.contains (descField x.desc 32 2) = true)
include fenced

theorem exec_unfenceStall_passes (passes : stallPasses f (descField x.desc 32 2) = true) : exec (.unfenceStall t seq f) s
    = .next ((((s.advance t).testStalls [descField x.desc 32 2] f).unfence (descField x.desc 32 2)).finish seq 0 0 0 0 0 none) :=
  exec_of_runs_only h rfl ((if_neg (by rw [present]; nofun)).trans ((if_neg (by rw [fenced]; nofun)).trans (if_pos passes)))
    ((State.testStalls_only.trans State.unfence_only).step State.finish_only)

theorem exec_unfenceStall_fails (fails : stallPasses f (descField x.desc 32 2) = false) : exec (.unfenceStall t seq f) s
    = .next (((s.advance t).testStalls [descField x.desc 32 2] f).finish seq 1 0 0 0 0 none) :=
  exec_of_runs_only h rfl ((if_neg (by rw [present]; nofun)).trans ((if_neg (by rw [fenced]; nofun)).trans
    (if_neg (Bool.eq_false_iff.1 fails)))) (State.testStalls_only.step State.finish_only)

end

end

/-- Settles O58: each command by what its meaning does on the state at its tick. -/
theorem deviceCommandsAct : Obligations.DeviceCommandsAct := by
  unfold Obligations.DeviceCommandsAct
  intro s t seq x jb f a d j n
  refine ⟨⟨by rw [State.applyPolicy_bell], by rw [State.applyPolicy_bell]⟩, fun h fresh => ?policy, fun h => ?twin,
    fun h new => ?selftest, fun h queued => ?queued, fun h => ⟨exec_fenceStall_absent h, exec_fenceStall_fences h⟩,
    fun h => ?unfence, fun h => ?echo, fun h => ?summary⟩
  case policy =>
    intro acq wide
    rw [exec_setPolicy h fresh]
    refine ⟨fun wide => congrArg _ (a.setPolicy_wide wide), fun narrow acquires busy => congrArg _ (a.setPolicy_refuses
      (Bool.eq_false_iff.2 narrow) acquires busy), fun narrow acquires idle => congrArg _ (a.setPolicy_acquires
      (Bool.eq_false_iff.2 narrow) acquires idle), fun narrow stays => congrArg _ (a.setPolicy_applies
      (Bool.eq_false_iff.2 narrow) stays)⟩
  case twin =>
    intro path bad
    have same : bad ↔ a.badTwinPath path := by simp [bad, a, State.badTwinPath]
    rw [exec_twinBind h, same]
    exact ⟨fun lt absent => congrArg _ (a.twinBind_absent seq j jb d lt absent), fun present =>
      ⟨fun unresolved => congrArg _ (a.twinBind_waits seq j jb d present unresolved), fun done idle =>
        ⟨fun binds bad => congrArg _ (a.twinBind_bad seq j jb d present done idle binds bad),
          fun binds good => congrArg _ (a.twinBind_binds seq j jb d present done idle binds good),
          fun unbinds => congrArg _ (a.twinBind_unbinds seq j jb d present done idle unbinds)⟩⟩⟩
  case selftest =>
    rw [exec_selftest_starts f h new]
    exact ⟨fun empty => congrArg _ (a.startTest_nothing seq f empty), fun scope =>
      ⟨fun ready => by
          rw [a.startTest_runs seq f scope ready]
          exact ⟨fun whole => congrArg _ (a.selftest_device seq f whole), fun part => congrArg _ (a.selftest_stalls seq f part)⟩,
        fun unready may room => congrArg _ (a.startTest_queues seq f scope unready may room),
        fun unready full => congrArg _ (a.startTest_busy seq f scope unready full)⟩⟩
  case queued =>
    refine ⟨exec_selftest_queued f h queued, exec_selftestQueuedStart_waits f h, fun ready whole => ?_, fun ready part => ?_⟩
    · rw [exec_selftestQueuedStart_runs f h queued ready, a.selftest_device seq f whole]
    · rw [exec_selftestQueuedStart_runs f h queued ready, a.selftest_stalls seq f part]
  case unfence =>
    exact ⟨exec_unfenceStall_absent f h, fun present => ⟨exec_unfenceStall_unfenced f h present, fun fenced =>
      ⟨fun passes => exec_unfenceStall_passes f h present fenced ((stallPasses_iff f n).2 passes), fun fails =>
        exec_unfenceStall_fails f h present fenced (Bool.eq_false_iff.2 fun passes => fails ((stallPasses_iff f n).1 passes))⟩⟩⟩
  case echo =>
    rw [exec_echo h]
    exact ⟨fun plain => congrArg _ (if_pos (by rw [plain]; rfl)), fun attest => ⟨fun down => congrArg _
      ((if_neg (by rw [attest]; nofun)).trans (if_pos (by rw [down]; rfl))), fun up => congrArg _
      ((if_neg (by rw [attest]; nofun)).trans (if_neg (by rw [up]; nofun)))⟩⟩
  case summary =>
    intro u r
    rw [exec_summary h]
    exact ⟨fun short => congrArg Host.Outcome.next (a.summary_short seq short),
      fun fits => congrArg Host.Outcome.next (a.summary_fits seq fits)⟩

end Sys2Proof.Machine
end

section
/-! PROOFS. Twin seals and aborts of peers (R353, R357 to R359). -/

set_option Elab.async false
namespace Sys2Proof.Machine

/-- Is a partner's table overdue at a tick (R359)? -/
def TwinSt.tableLate (w : TwinSt) (t : Nat) : Bool := w.doneAt.any fun q => decide (q.2 + w.timeout * 3300000 ≤ t)

/-! ### SEAL and ABORT (R353, R357) -/

section
variable {s u : State} {t p : Nat} {m : Mail} (hc : s.clocked = true) (serving : s.clerk.serving = true)
include hc serving

section
variable (taken : (s.advance t).takeLocal p (clerkMail 2) = some (m, u))
include taken

theorem exec_sealReceive_first (first : u.pins.pos = 0#6) : exec (.sealReceive t p) s = .next (u.takeSeal t (mailJob m)
    (clerkStep m) (routeOf m.body).src (leAt m.body 16 1) (BitVec.ofNat 64 (leAt m.body 24 8))) := by
  have frame : Only [.aisles] (s.advance t) u := State.takeLocal_only (m, u) taken
  refine ((frame.mono (by decide)).trans State.takeSeal_only).answersClerk (by simpa using hc) (by simpa using serving) ?_
  change execSealReceive t p s = _
  unfold execSealReceive
  dsimp only
  rw [taken]
  dsimp only
  rw [if_neg (by simp [first])]

theorem exec_sealReceive_other (other : u.pins.pos ≠ 0#6) : exec (.sealReceive t p) s = .next u := by
  have frame : Only [.aisles] (s.advance t) u := State.takeLocal_only (m, u) taken
  refine frame.answersClerk (by simpa using hc) (by simpa using serving) ?_
  change execSealReceive t p s = _
  unfold execSealReceive
  dsimp only
  rw [taken]
  dsimp only
  rw [if_pos (by simpa using other)]

end

section
variable {jb : Job} (taken : (s.advance t).takeLocal p (clerkMail 4) = some (m, u)) (job : u.job (mailJob m) = some jb)
include taken job

/-- A peer's ABORT clears the step's ingress entries and counts its run up; a step that was accepted is aborted. -/
theorem exec_abortReceive : exec (.abortReceive t p) s = .next
    (let v := (u.clearIngress (mailJob m) (clerkStep m)).setJob (mailJob m) (jb.countRun (clerkStep m))
     if jb.steps.any fun x => x.n % 2 ^ 48 = clerkStep m then v.abortSteps (mailJob m) 0 else v) := by
  have frame : Only [.aisles] (s.advance t) u := State.takeLocal_only (m, u) taken
  have cleared : Only linkParts (s.advance t) ((u.clearIngress (mailJob m) (clerkStep m)).setJob (mailJob m)
      (jb.countRun (clerkStep m))) :=
    ((frame.mono (by decide)).step State.clearIngress_only).step State.setJob_only
  refine (holds_ite (Q := Only linkParts (s.advance t)) (cleared.step State.abortSteps_only) cleared).answersClerk
    (by simpa using hc) (by simpa using serving) ?_
  change execAbortReceive t p s = _
  unfold execAbortReceive
  dsimp only
  rw [taken]
  dsimp only
  rw [job]

end

/-! ### Tables of the partner (R357, R359) -/

section
variable {j : Nat} {jb : Job} {w : TwinSt} (job : s.job j = some jb) (twin : jb.twin = some w)
include job twin

/-- Position 0 goes on alone with the job of a twin whose partner's table is late. -/
theorem exec_sealTableTimeout : exec (.sealTableTimeout t j) s = .next
    (if s.pins.pos = 0#6 && w.tableLate t then (s.advance t).twinSolo j else s.advance t) := by
  refine (holds_ite (Q := Only linkParts (s.advance t)) (State.twinSolo_only.mono (by decide)) (.refl _)).answersClerk
    (by simpa using hc) (by simpa using serving) ?_
  change execSealTableTimeout t j s = _
  unfold execSealTableTimeout
  dsimp only
  rw [State.job_advance, job]
  dsimp only
  rw [twin]
  dsimp only
  rw [State.advance_pins]
  rfl

variable (n : Nat) (l : List Byte)

theorem exec_sealTableReceive_none (lacks : (s.advance t).partnerTable w j n l = none) :
    exec (.sealTableReceive t j n l) s = .next (s.advance t) := by
  refine (Only.refl (w := []) _).answersClerk (by simpa using hc) (by simpa using serving) ?_
  change execSealTableReceive t j n l s = _
  unfold execSealTableReceive
  dsimp only
  rw [State.job_advance, job]
  dsimp only
  rw [twin]
  dsimp only
  rw [lacks]

variable {k : List Byte} {b : State} (come : (s.advance t).partnerTable w j n l = some (k, b))
include come

/-- A table that has come is compared where the device compares the step. -/
theorem exec_sealTableReceive_some : exec (.sealTableReceive t j n l) s = .next
    (if b.pins.pos != 0#6 || w.solo || w.interval = 0 || n % w.interval != 0 then b
     else (b.setJob j { jb with twin := some { w with
      partner := (w.partner.filter fun q => q.1 != n) ++ [(n, k)] } }).compareSeals j n) := by
  have frame : Only [.aisles] (s.advance t) b := State.partnerTable_only (k, b) come
  refine (holds_ite (Q := Only linkParts (s.advance t)) (frame.mono (by decide)) (((frame.mono (by decide)).step
    State.setJob_only).step State.compareSeals_only)).answersClerk (by simpa using hc) (by simpa using serving) ?_
  change execSealTableReceive t j n l s = _
  unfold execSealTableReceive
  dsimp only
  rw [State.job_advance, job]
  dsimp only
  rw [twin]
  dsimp only
  rw [come]

end

end

theorem State.takeTable_found {s b : State} {p j n : Nat} {k : List Byte} (taken : s.takeTable p j n = some (k, b)) :
    ∃ m, s.takeLocal p (fun x => clerkMail 3 x && mailJob x = j && clerkStep x = n) = some (m, b) ∧
      k = (m.body.drop 16).take 1024 := by
  obtain ⟨⟨m, u⟩, found, pair⟩ := Option.map_eq_some_iff.1 taken
  cases pair
  exact ⟨m, found, rfl⟩

theorem State.tellSide_eq {s : State} {j : Nat} {jb : Job} (job : s.job j = some jb) (ty : Nat) :
    s.tellSide j ty = jb.peers.foldl (fun z q => z.sendClerk q ty j 0 []) s := by
  unfold State.tellSide
  rw [job]

/-! ### Runs of a step (R353) -/

section
variable {jb : Job} {n : Nat}

theorem Job.countRun_accepted (accepted : ∃ x ∈ jb.steps, x.n % 2 ^ 48 = n) : jb.countRun n = { jb with
    steps := jb.steps.map fun x => if x.n % 2 ^ 48 = n then { x with run := (x.run + 1) % 16 } else x } :=
  if_pos (by simpa using accepted)

theorem Job.countRun_next (ahead : ∀ x ∈ jb.steps, x.n % 2 ^ 48 ≠ n) (expected : jb.stepExpected (n % 65536) = true) :
    jb.countRun n = { jb with runs := [(n, (jb.runBefore n + 1) % 16)] } :=
  (if_neg (by simpa using ahead)).trans (if_pos expected)

end

/-! ### Seals and tables at position 0 (R357, R358) -/

/-- A twin's seals once position 0 has taken one of a step. -/
def TwinSt.sealed (w : TwinSt) (n pos st : Nat) (v : W64) : TwinSt :=
  { w with seals := (w.seals.filter fun x => !(x.1 = n && x.2.1 = pos)) ++ [(n, pos, st, v)] }

/-- Are the seals of a step at hand from every device of a job's side? -/
def TwinSt.fullTable (w : TwinSt) (s : State) (jb : Job) (n : Nat) : Bool :=
  (s.pins.pos.toNat :: jb.peers).all fun q => w.seals.any fun x => x.1 = n && x.2.1 = q

/-- A twin once a step of it has been compared. -/
def TwinSt.compared (w : TwinSt) (n : Nat) (l : List Byte) : TwinSt := { w with
  seals := w.seals.filter fun x => x.1 != n
  doneAt := w.doneAt.filter fun q => q.1 != n
  partner := w.partner.filter fun q => q.1 != n
  lastStep := if tableRan (w.table n) || tableRan l then n else w.lastStep
  mismatch := w.mismatch || tableDiff (w.table n) l != 0 }

theorem any_or {α : Type} (l : List α) (f g : α → Bool) : l.any (fun x => f x || g x) = (l.any f || l.any g) := by
  induction l with
  | nil => rfl
  | cons x l ih => simp only [List.any_cons, ih]; cases f x <;> cases g x <;> simp

section
variable {s : State} {j n : Nat} {jb : Job} {w : TwinSt} (job : s.job j = some jb) (twin : jb.twin = some w)
include job twin

section
variable {t pos st : Nat} {v : W64}

theorem State.takeSeal_waits (early : (w.sealed n pos st v).fullTable s jb n = false ∨ (w.doneAt.any fun q => q.1 = n) = true) :
    s.takeSeal t j n pos st v = s.setJob j { jb with twin := some (w.sealed n pos st v) } := by
  unfold State.takeSeal
  rw [job]
  dsimp only
  rw [twin]
  refine if_pos ?_
  obtain few | sent := early
  · exact Bool.or_eq_true _ _ ▸ .inl (congrArg not few)
  · exact Bool.or_eq_true _ _ ▸ .inr sent

theorem State.takeSeal_full (full : (w.sealed n pos st v).fullTable s jb n = true) (new : (w.doneAt.any fun q => q.1 = n) = false) :
    s.takeSeal t j n pos st v = ((s.setJob j { jb with twin := some { w.sealed n pos st v with
      doneAt := w.doneAt ++ [(n, t)] } }).sendTable j w.path n ((w.sealed n pos st v).table n)).compareSeals j n := by
  unfold State.takeSeal
  rw [job]
  dsimp only
  rw [twin]
  exact if_neg (Bool.eq_false_iff.1 (Bool.or_eq_false_iff.2 ⟨congrArg not full, new⟩))

end

section
variable {l : List Byte} (together : w.solo = false) (done : (w.doneAt.any fun q => q.1 = n) = true)
  (come : (w.partner.find? fun q => q.1 = n) = some (n, l))
include together done come

/-- Both tables of a step are at hand: a difference is recorded, and suspends the job on the side where the policy says so. -/
theorem State.compareSeals_both : s.compareSeals j n =
    let u := s.setJob j { jb with twin := some (w.compared n l) }
    let v := (u.record (u.mkEv 0x7201 0 (some j) .clerk 0 (n % 2 ^ 32) (tableDiff (w.table n) l))).post
    if tableDiff (w.table n) l = 0 then u
    else if w.policy = 1 then (v.suspendJob j false).tellSide j suspendType else v := by
  unfold State.compareSeals
  rw [job]
  dsimp only
  rw [twin]
  dsimp only
  rw [if_neg (by simp [together, done]), come]
  rfl

end

end

/-- Settles O53: each message by what it finds, and position 0 by the seals and tables that it holds. -/
theorem sealsAndAborts : Obligations.SealsAndAborts := by
  unfold Obligations.SealsAndAborts
  refine ⟨fun s t p j n l m u jb w hc serving => ⟨fun taken => ⟨exec_sealReceive_first hc serving taken,
      exec_sealReceive_other hc serving taken⟩, fun taken job => ?abort, fun job twin => ⟨fun other => ?timeoutOther,
      fun first late => ?timeoutLate, fun first early => ?timeoutEarly, fun k b come => ?table, fun port lacks => ?lacking⟩⟩,
    fun s p j n k b => State.takeTable_found, fun s j ty jb job => State.tellSide_eq job ty,
    fun jb n => ⟨Job.countRun_accepted, Job.countRun_next⟩,
    fun s t j n jb w job twin => ⟨fun pos st v => ⟨State.takeSeal_waits job twin, State.takeSeal_full job twin⟩,
      fun l together done come => ?compared⟩⟩
  case abort =>
    intro v
    have run := exec_abortReceive hc serving taken job
    exact ⟨fun accepted => run.trans (congrArg _ (if_pos (by simpa using accepted))),
      fun ahead => run.trans (congrArg _ (if_neg (by simpa using ahead)))⟩
  case timeoutOther => rw [exec_sealTableTimeout hc serving job twin, if_neg (by simp [other])]
  case timeoutLate =>
    have due : w.tableLate t = true := late
    rw [exec_sealTableTimeout hc serving job twin, if_pos (by simp [first, due])]
  case timeoutEarly =>
    have not_due : w.tableLate t = false := early
    rw [exec_sealTableTimeout hc serving job twin, if_neg (by simp [not_due])]
  case table =>
    have found : (s.advance t).partnerTable w j n l = some (k, b) := by
      unfold State.partnerTable
      obtain ⟨lt, found⟩ | ⟨le, rfl, rfl⟩ := come
      · rw [if_pos lt, found]
      · rw [if_neg (Nat.not_lt.2 le)]
    have frame : Only [.aisles] (s.advance t) b := State.partnerTable_only (k, b) found
    have pins : b.pins = s.pins := (frame .pins (by decide)).trans (State.advance_pins s t)
    rw [exec_sealTableReceive_some hc serving job twin n l found, pins]
    exact ⟨fun first together interval compared => congrArg _ (if_neg (by simp [first, together, interval, compared])),
      fun skips => congrArg _ (if_pos (by simpa [or_assoc] using skips))⟩
  case lacking =>
    exact exec_sealTableReceive_none hc serving job twin n l (by unfold State.partnerTable; rw [if_pos port, lacks])
  case compared =>
    intro d u v
    have same : u = s.setJob j { jb with twin := some (w.compared n l) } := by
      simp only [u, TwinSt.compared, tableRan, any_or]
      rfl
    have run : s.compareSeals j n = if d = 0 then u else if w.policy = 1 then (v.suspendJob j false).tellSide j suspendType
        else v := by rw [State.compareSeals_both job twin together done come]; simp only [v, same]; rfl
    exact ⟨fun equal => run.trans (if_pos equal), fun differ keep => run.trans ((if_neg differ).trans (if_neg keep)),
      fun differ suspend => run.trans ((if_neg differ).trans (if_pos suspend))⟩

end Sys2Proof.Machine
end

section
/-! PROOFS. Flits and messages of an aisle port, and the credits of a suspended job (R338 to R340, R342, R355, R358, R359, R362, R381,
R413). -/

set_option Elab.async false
namespace Sys2Proof.Machine

/-! ### Flits that arrive (R338 to R340, R362) -/

theorem flitSequenced_iff (ty : Nat) : flitSequenced ty = true ↔ 1 ≤ ty ∧ ty ≤ 4 := by simp [flitSequenced]

theorem Aisle.locked_iff (a : Aisle) : a.locked = true ↔ a.state = 2 ∨ a.state = 3 ∨ a.state = 5 ∨ a.state = 6 := by
  simp [Aisle.locked, or_assoc]

/-- A good flit's acknowledgement and credits are taken; its NAK has the flits held for replay sent again. -/
def State.flitTaken (a : State) (t p : Nat) (f : Flit) : State :=
  if f.nak then (a.setAisle p ((a.aisle p).takeAck t f)).replayPort t p else a.setAisle p ((a.aisle p).takeAck t f)

theorem State.flitTaken_only {a : State} {t p : Nat} {f : Flit} : Only linkParts a (a.flitTaken t p f) :=
  holds_ite (Q := Only linkParts a) ((State.setAisle_only.mono (by decide)).step State.replayPort_only)
    (State.setAisle_only.mono (by decide))

section
variable {s : State} {t p : Nat} {b : List Byte} (hc : s.clocked = true)
include hc

section
variable (down : ((s.advance t).aisle p).state ≠ 3)
include down

theorem exec_aisleFlitReceive_unlocked (off : ((s.advance t).aisle p).locked = false) :
    exec (.aisleFlitReceive t p b) s = .next (s.advance t) :=
  State.answers_advance hc rfl ((if_pos (by simpa using down)).trans (if_pos (by rw [off]; rfl)))

variable (locked : ((s.advance t).aisle p).locked = true)
include locked

theorem exec_aisleFlitReceive_notes (good : flitOk b = true) : exec (.aisleFlitReceive t p b) s
    = .next ((s.advance t).setAisle p { (s.advance t).aisle p with goodAt := t }) :=
  State.setAisle_only.answersAt hc rfl
    ((if_pos (by simpa using down)).trans ((if_neg (by rw [locked]; nofun)).trans (if_pos good)))

theorem exec_aisleFlitReceive_counts (bad : flitOk b = false) : exec (.aisleFlitReceive t p b) s
    = .next ((s.advance t).count (pageNo .aisle p) 0x60 1) :=
  State.count_only.answersAt hc rfl
    ((if_pos (by simpa using down)).trans ((if_neg (by rw [locked]; nofun)).trans (if_neg (by rw [bad]; nofun))))

end

section
variable (up : ((s.advance t).aisle p).state = 3)
include up

theorem exec_aisleFlitReceive_fails (bad : flitOk b = false) : exec (.aisleFlitReceive t p b) s
    = .next (((s.advance t).count (pageNo .aisle p) 0x60 1).nakAisle t p) :=
  ((State.count_only.mono (w := [.pages, .stalls, .aisles]) (by decide)).step State.nakAisle_only).answersAt hc rfl
    ((if_neg (by simp [up])).trans (if_pos (by rw [bad]; rfl)))

variable (good : flitOk b = true)
include good

/-- What a good flit on an UP port gives, once its acknowledgement is taken: the port then lets messages reserve. -/
theorem exec_aisleFlitReceive_good {y : State} (frame : Only linkParts ((s.advance t).flitTaken t p (flitOf b)) y)
    (branch : (if !flitSequenced (flitOf b).ty then (s.advance t).flitTaken t p (flitOf b)
      else if (flitOf b).seq = ((s.advance t).aisle p).rxSeq then
        ((((s.advance t).flitTaken t p (flitOf b)).endPart t p (flitOf b)).setAisle p
          (((((s.advance t).flitTaken t p (flitOf b)).endPart t p (flitOf b)).aisle p).join (flitOf b))).count
            (pageNo .aisle p) 0x48 1
      else ((s.advance t).flitTaken t p (flitOf b)).nakAisle t p) = y) :
    exec (.aisleFlitReceive t p b) s = .next (y.reserveAisle p) :=
  ((State.flitTaken_only.trans frame).step State.reserveAisle_only).answersAt hc rfl
    ((if_neg (by simp [up])).trans ((if_neg (by rw [good]; nofun)).trans (congrArg (State.reserveAisle · p) branch)))

theorem exec_aisleFlitReceive_unsequenced (idle : flitSequenced (flitOf b).ty = false) : exec (.aisleFlitReceive t p b) s
    = .next (((s.advance t).flitTaken t p (flitOf b)).reserveAisle p) :=
  exec_aisleFlitReceive_good hc up good (.refl _) (if_pos (by rw [idle]; rfl))

variable (sequenced : flitSequenced (flitOf b).ty = true)
include sequenced

theorem exec_aisleFlitReceive_joins (due : (flitOf b).seq = ((s.advance t).aisle p).rxSeq) :
    let v := ((s.advance t).flitTaken t p (flitOf b)).endPart t p (flitOf b)
    exec (.aisleFlitReceive t p b) s
      = .next (((v.setAisle p ((v.aisle p).join (flitOf b))).count (pageNo .aisle p) 0x48 1).reserveAisle p) :=
  exec_aisleFlitReceive_good hc up good
    (((State.endPart_only.mono (by decide)).step State.setAisle_only).step State.count_only)
    ((if_neg (by rw [sequenced]; nofun)).trans (if_pos due))

theorem exec_aisleFlitReceive_naks (other : (flitOf b).seq ≠ ((s.advance t).aisle p).rxSeq) : exec (.aisleFlitReceive t p b) s
    = .next ((((s.advance t).flitTaken t p (flitOf b)).nakAisle t p).reserveAisle p) :=
  exec_aisleFlitReceive_good hc up good (State.nakAisle_only.mono (by decide))
    ((if_neg (by rw [sequenced]; nofun)).trans (if_neg other))

end

/-! ### Replay and NAK (R338) -/

theorem exec_aisleAckTimeout_due (up : ((s.advance t).aisle p).state = 3) (held : ((s.advance t).aisle p).replay ≠ [])
    (late : max ((s.advance t).aisle p).ackAt ((s.advance t).aisle p).retryAt + 4096 ≤ t) : exec (.aisleAckTimeout t p) s
      = .next (((s.advance t).setAisle p { (s.advance t).aisle p with retryAt := t }).replayPort t p) :=
  ((State.setAisle_only.mono (by decide)).trans State.replayPort_only).answersAt hc rfl (if_pos (by simp [up, held, late]))

theorem exec_aisleAckTimeout_early (early : t < max ((s.advance t).aisle p).ackAt ((s.advance t).aisle p).retryAt + 4096) :
    exec (.aisleAckTimeout t p) s = .next (s.advance t) :=
  State.answers_advance hc rfl (if_neg (by simp [Nat.not_le.2 early]))

section
variable {n : Nat} (asked : ((s.advance t).aisle p).nakAt = some n)
include asked

theorem exec_aisleNakRepeat_due (up : ((s.advance t).aisle p).state = 3) (late : n + 4096 ≤ t) :
    exec (.aisleNakRepeat t p) s
      = .next ((s.advance t).setAisle p { (s.advance t).aisle p with nakAt := some t, nakOwed := true }) := by
  refine State.setAisle_only.answers ((s.advance_clocked t).trans hc) ?_
  change execAisleNakRepeat t p s = _
  unfold execAisleNakRepeat
  dsimp only
  rw [asked]
  dsimp only
  rw [if_pos (by simp [up, late])]

theorem exec_aisleNakRepeat_early (early : t < n + 4096) : exec (.aisleNakRepeat t p) s = .next (s.advance t) := by
  refine (Only.refl (w := []) _).answers ((s.advance_clocked t).trans hc) ?_
  change execAisleNakRepeat t p s = _
  unfold execAisleNakRepeat
  dsimp only
  rw [asked]
  dsimp only
  rw [if_neg (by simp [Nat.not_le.2 early])]

end

end

section
variable (s : State) (t p : Nat) (f : Flit)

theorem State.nakAisle_first (fresh : (s.aisle p).nakAt = none) :
    s.nakAisle t p = s.setAisle p { s.aisle p with nakAt := some t, nakOwed := true } := if_neg (by simp [fresh])

theorem State.nakAisle_again (asked : (s.aisle p).nakAt ≠ none) : s.nakAisle t p = s :=
  if_pos (Option.isSome_iff_ne_none.2 asked)

/-- A flit that leaves carries the NAK that is owed, which is owed no more. -/
theorem State.putFlit_nak : (∃ g : Flit, (s.putFlit t p f).out = s.out ++ [.flit t p g.bytes] ∧ g.nak = (s.aisle p).nakOwed ∧
    g.ty = f.ty ∧ g.payload = f.payload ∧ g.ackValid = (s.aisle p).acked) ∧ ((s.putFlit t p f).aisle p).nakOwed = false := by
  unfold State.putFlit
  extract_lets a c g b d u pg
  have sent : u.out = s.out ++ [.flit t p g.bytes] := rfl
  have paid : (u.aisle p).nakOwed = false := by
    have port : u.aisle p = d := State.aisle_setAisle s p d
    rw [port]
    exact holds_ite (Q := fun x : Aisle => x.nakOwed = false) rfl rfl
  have kept (v : State) (hv : v = u ∨ ∃ o, v = u.count pg o 1) : v.out = u.out ∧ v.aisle p = u.aisle p := by
    obtain rfl | ⟨o, rfl⟩ := hv
    · exact ⟨rfl, rfl⟩
    · exact ⟨State.count_out .., State.aisle_count ..⟩
  obtain ⟨out, port⟩ := kept (if flitSequenced g.ty then u.count pg 0x40 1 else if g.ty = 0 then u.count pg 0x50 1 else u) (by
    split
    · exact .inr ⟨_, rfl⟩
    · split
      · exact .inr ⟨_, rfl⟩
      · exact .inl rfl)
  exact ⟨⟨g, out.trans sent, rfl, rfl, rfl, rfl⟩, by rw [port]; exact paid⟩

end

/-! ### Messages that arrive (R342, R355, R358, R359, R413) -/

/-- Is a CLERK message one of the words that position 0 sends its side? -/
def isSideWord (m : Mail) : Prop := leAt m.body 8 1 = suspendType ∨ leAt m.body 8 1 = soloType

theorem isSideWord.firmware {m : Mail} (h : isSideWord m) : 0x80 ≤ leAt m.body 8 1 := by
  obtain e | e := h <;> rw [e] <;> simp only [soloType, suspendType] <;> omega

theorem clerkForeign_iff (m : Mail) : clerkForeign m = true ↔
    m.ty = 4 ∧ (leAt m.body 8 1 = 0 ∨ 4 < leAt m.body 8 1) ∧ ¬ isSideWord m := by
  have firm := isSideWord.firmware (m := m)
  unfold isSideWord at *
  simp only [clerkForeign, Bool.and_eq_true, Bool.or_eq_true, Bool.not_eq_true', Bool.and_eq_false_iff, Bool.or_eq_false_iff,
    decide_eq_true_eq, decide_eq_false_iff_not, and_assoc, not_or]
  refine and_congr_right fun _ => and_congr_right fun _ => ⟨fun h => h.elim (fun low => ?_) id, .inr⟩
  exact not_or.1 fun word => low (firm word)

/-- Of the CLERK messages only a word of position 0 for this device waits while the Clerk restarts. -/
theorem State.awaitsClerk_iff (s : State) (m : Mail) : s.awaitsClerk m = true ↔
    s.clerk.serving = false ∧ m.ty = 4 ∧ isSideWord m ∧ s.isHere (routeOf m.body).dst = true := by
  have foreign := clerkForeign_iff m
  have firm := isSideWord.firmware (m := m)
  simp only [State.awaitsClerk, Bool.and_eq_true, Bool.not_eq_true', decide_eq_true_eq, and_assoc]
  refine and_congr_right fun _ => and_congr_right fun ty => ⟨fun h => ⟨?_, h.2.2⟩, fun h => ⟨firm h.1, ?_, h.2⟩⟩
  · by_contra other
    have : clerkForeign m = true := foreign.2 ⟨ty, .inr (by omega), other⟩
    rw [h.2.1] at this
    cases this
  · exact Bool.eq_false_iff.2 fun f => (foreign.1 f).2.2 h.1

/-- What becomes of a message that is taken from a port's buffer: dropped, delivered or sent on. -/
def State.passMail (u : State) (t p : Nat) (m : Mail) : State :=
  if !u.keeps (routeOf m.body) then (u.oweMail p m).count (pageNo .aisle p) 0x98 1
  else if u.isHere (routeOf m.body).dst then u.deliverMail t p m
  else u.relayMail p m

theorem State.passMail_only {u : State} {t p : Nat} {m : Mail} : Only linkParts u (u.passMail t p m) := by
  unfold State.passMail
  exact holds_ite ((State.oweMail_only.mono (by decide)).step State.count_only)
    (holds_ite (State.deliverMail_only.mono (by decide)) (State.relayMail_only.mono (by decide)))

section
variable {s : State} {t p : Nat} (hc : s.clocked = true)
include hc

theorem exec_aisleMessageReceive_empty (empty : ((s.advance t).aisle p).inbox = []) :
    exec (.aisleMessageReceive t p) s = .next (s.advance t) := by
  refine (Only.refl (w := []) _).answers ((s.advance_clocked t).trans hc) ?_
  change execAisleMessageReceive t p s = _
  unfold execAisleMessageReceive
  dsimp only
  rw [empty]

variable {m : Mail} {r : List Mail} (inbox : ((s.advance t).aisle p).inbox = m :: r)
include inbox

theorem exec_aisleMessageReceive_waits (waits : (s.advance t).awaitsClerk m = true) :
    exec (.aisleMessageReceive t p) s = .next (s.advance t) := by
  refine (Only.refl (w := []) _).answers ((s.advance_clocked t).trans hc) ?_
  change execAisleMessageReceive t p s = _
  unfold execAisleMessageReceive
  dsimp only
  rw [inbox]
  dsimp only
  rw [if_pos waits]

theorem exec_aisleMessageReceive_takes (goes : (s.advance t).awaitsClerk m = false) : exec (.aisleMessageReceive t p) s
    = .next (((s.advance t).setAisle p { (s.advance t).aisle p with inbox := r }).passMail t p m) := by
  refine ((State.setAisle_only.mono (by decide)).trans State.passMail_only).answers ((s.advance_clocked t).trans hc) ?_
  change execAisleMessageReceive t p s = _
  unfold execAisleMessageReceive
  dsimp only
  rw [inbox]
  dsimp only
  rw [if_neg (by rw [goes]; nofun)]
  rfl

end

section
variable (u : State) (t p : Nat) {m : Mail}

theorem State.passMail_drops (lost : (routeOf m.body).hops = 7 ∨ (u.route (routeOf m.body).dst).2.2.1 = false) :
    u.passMail t p m = (u.oweMail p m).count (pageNo .aisle p) 0x98 1 :=
  if_pos (by simpa [State.keeps, Classical.or_iff_not_imp_left] using lost)

variable (few : (routeOf m.body).hops ≠ 7) (valid : (u.route (routeOf m.body).dst).2.2.1 = true)
include few valid

theorem State.passMail_delivers (here : u.isHere (routeOf m.body).dst = true) : u.passMail t p m = u.deliverMail t p m :=
  (if_neg (by simp [State.keeps, few, valid])).trans (if_pos here)

theorem State.passMail_relays (away : u.isHere (routeOf m.body).dst = false) : u.passMail t p m = u.relayMail p m :=
  (if_neg (by simp [State.keeps, few, valid])).trans (if_neg (by rw [away]; nofun))

end

section
variable (u : State) (t p : Nat) {m : Mail}

theorem State.isHere_iff (q : Nat) : u.isHere q = true ↔ q = u.pins.pos.toNat ∨ (u.route q).2.2.2.1 = true := by
  simp [State.isHere]

theorem State.deliverMail_mesh (ty : m.ty = 1) : u.deliverMail t p m = (u.oweMail p m).enterMesh t p 64 m.body := if_pos ty

theorem State.deliverMail_foreign (ty : m.ty = 4) (other : leAt m.body 8 1 = 0 ∨ 4 < leAt m.body 8 1) (h : ¬ isSideWord m) :
    u.deliverMail t p m = u.oweMail p m :=
  (if_neg (by omega)).trans (if_pos ((clerkForeign_iff m).2 ⟨ty, other, h⟩))

theorem State.deliverMail_word (ty : m.ty = 4) (word : isSideWord m) : u.deliverMail t p m = (u.oweMail p m).sideWord m :=
  (if_neg (by omega)).trans ((if_neg fun f => ((clerkForeign_iff m).1 f).2.2 word).trans
    (if_pos (by simp [ty, word.firmware])))

/-- A GRAD or WCOPY message keeps its credits until the unit takes it; another gives its place back. -/
theorem State.deliverMail_local (kind : m.ty = 2 ∨ m.ty = 3 ∨ (m.ty = 4 ∧ 1 ≤ leAt m.body 8 1 ∧ leAt m.body 8 1 ≤ 4)) :
    let x := u.setAisle p { u.aisle p with local_ := (u.aisle p).local_ ++ [m] }
    u.deliverMail t p m = if m.pool = 4 then x else x.oweMail p m := by
  refine (if_neg (by omega)).trans ((if_neg fun f => ?_).trans (if_neg fun firmware => ?_))
  · obtain ⟨ty, other, -⟩ := (clerkForeign_iff m).1 f
    omega
  · simp only [Bool.and_eq_true, decide_eq_true_eq] at firmware
    omega

theorem State.relayMail_stuck (none_ : (u.oweMail p m).portTo (routeOf m.body).dst m.ty (routeOf m.body).alt = none) :
    u.relayMail p m = (u.oweMail p m).count (pageNo .aisle p) 0x98 1 := by
  unfold State.relayMail State.relay
  dsimp only
  rw [none_]

theorem State.relayMail_sends {q : Nat} (port : (u.oweMail p m).portTo (routeOf m.body).dst m.ty (routeOf m.body).alt = some q) :
    u.relayMail p m = ((u.oweMail p m).count (pageNo .aisle p) 0x90 m.flits).queueAisle q
      ⟨(aisleReq m.ty m.pool).1, m.pool, m.ty, some (mailJob m),
        RouteWord.bytes { routeOf m.body with hops := (routeOf m.body).hops + 1 } ++ m.body.drop 8, false⟩ := by
  unfold State.relayMail State.relay
  dsimp only
  rw [port]

theorem soloType_ne_suspendType : soloType ≠ suspendType := Nat.succ_ne_self _

variable (s : State) (m)

theorem State.sideWord_stranger (src : (routeOf m.body).src ≠ 0) : s.sideWord m = s := if_pos (by simpa using src)

theorem State.sideWord_suspends (src : (routeOf m.body).src = 0) (ty : leAt m.body 8 1 = suspendType) :
    s.sideWord m = s.suspendJob (mailJob m) false := (if_neg (by simp [src])).trans (if_pos ty)

theorem State.sideWord_solo (src : (routeOf m.body).src = 0) (ty : leAt m.body 8 1 = soloType) :
    s.sideWord m = s.setSolo (mailJob m) :=
  (if_neg (by simp [src])).trans (if_neg (by rw [ty]; exact soloType_ne_suspendType))

end

/-! ### Credits of a suspended job (R381) -/

/-- A revocation that finds the head of a queue. -/
theorem find?_zipIdx_head {α : Type} {f : α × Nat → Bool} {x : α} {l : List α} (h : f (x, 0) = true) :
    (x :: l).zipIdx.find? f = some (x, 0) := by simp [List.zipIdx_cons, h]

section
variable (s : State) (t p : Nat)

/-- The head of a port's queue that belongs to a job suspended so long gives its place and its reservation up. -/
theorem State.revokeAisle_head {m : AisleMsg} {r : List AisleMsg} (queue : (s.aisle p).queue = m :: r)
    (free : (s.holder (aisleArb p) 0).map Holder.req ≠ some m.req) (long : s.longSuspended t m.job = true) :
    s.revokeAisle t p = (((s.setAisle p { s.aisle p with
      queue := requeue (fun x => x.req = m.req && x.job = m.job) (fun x => x.req = m.req) (fun x => s.isSuspended x.job)
        (s.aisle p).queue
      credits := lmod (s.aisle p).credits m.pool (· + sgetD (s.aisle p).reserved m.req 0)
      reserved := sdel (s.aisle p).reserved m.req }).count (pageNo .aisle p) 0xA0 1).revokedEv t m.job
        (pageId .aisle p)).reserveAisle p := by
  unfold State.revokeAisle
  extract_lets a head busy
  have found : (a.queue.zipIdx).find? (fun q => head q.1 q.2 && some q.1.req != busy && s.longSuspended t q.1.job)
      = some (m, 0) := by
    rw [show a.queue = m :: r from queue]
    exact find?_zipIdx_head (by simp [head, busy, long, bne_iff_ne, Ne.symm free])
  rw [found]

theorem State.revokeAisle_none (none_ : ∀ m ∈ (s.aisle p).queue, s.longSuspended t m.job = false) : s.revokeAisle t p = s := by
  unfold State.revokeAisle
  extract_lets a head busy
  have nothing : (a.queue.zipIdx).find? (fun q => head q.1 q.2 && some q.1.req != busy && s.longSuspended t q.1.job) = none := by
    rw [List.find?_eq_none]
    intro q member
    simp [none_ q.1 (List.fst_mem_of_mem_zipIdx member)]
  rw [nothing]

theorem State.revokeHalf_head {m : SlotReq} {r : List SlotReq} (queue : (s.half p).queue = m :: r) (lo : 1 ≤ m.pool)
    (hi : m.pool ≤ 3) (free : (s.holder (lemefArb p) (p % 2)).map Holder.req ≠ some m.requester)
    (long : s.longSuspended t m.job = true) : s.revokeHalf t p = ((s.setHalf p { s.half p with
      queue := requeue (fun x => x.pool = m.pool && x.job = m.job) (fun x => x.pool = m.pool) (fun x => s.isSuspended x.job)
        (s.half p).queue }).count (lemefPage p) 0x78 1).revokedEv t m.job (pageId .lemef (p / 2)) := by
  unfold State.revokeHalf
  extract_lets f head busy
  have found : (f.queue.zipIdx).find? (fun q => 1 ≤ q.1.pool && q.1.pool ≤ 3 && head q.1 q.2 && some q.1.requester != busy
      && s.longSuspended t q.1.job) = some (m, 0) := by
    rw [show f.queue = m :: r from queue]
    exact find?_zipIdx_head (by simp [head, busy, long, lo, hi, bne_iff_ne, Ne.symm free])
  rw [found]

end

section
variable {s : State} {t p : Nat} (hc : s.clocked = true)
include hc

theorem exec_creditRevoke_port (port : p < 12) : exec (.creditRevoke t p) s = .next ((s.advance t).revokeAisle t p) :=
  State.revokeAisle_only.answersAt hc rfl (if_pos port)

theorem exec_creditRevoke_half (half : 12 ≤ p) :
    exec (.creditRevoke t p) s = .next ((s.advance t).revokeHalf t (p - 12)) :=
  State.revokeHalf_only.answersAt hc rfl (if_neg (Nat.not_lt.2 half))

end

section
variable {s : State} (t : Nat) {j : Nat} {jb : Job} (x : W32) (job : s.job j = some jb)
include job

theorem State.longSuspended_iff :
    s.longSuspended t (some j) = true ↔ jb.suspended = true ∧ ∃ u, jb.suspAt = some u ∧ u + 330000 ≤ t := by
  unfold State.longSuspended
  dsimp only
  rw [job]
  cases at_ : jb.suspAt <;> simp [at_]

theorem State.revokedEv_again (told : jb.revoked = true) : s.revokedEv t (some j) x = s := by
  unfold State.revokedEv
  dsimp only
  rw [job]
  exact if_pos told

theorem State.revokedEv_first (untold : jb.revoked = false) : s.revokedEv t (some j) x
    = (s.setJob j { jb with revoked := true }).raise ⟨0x6104, 0, some j, x, 0, t, jb.tenant.setWidth 64⟩ := by
  unfold State.revokedEv
  dsimp only
  rw [job]
  exact if_neg (Bool.eq_false_iff.1 untold)

end

/-- Settles O51: each flit and message by its own lemma, and the parts that the statement names by theirs. -/
theorem aisleFlitsAndMessages : Obligations.AisleFlitsAndMessages := by
  unfold Obligations.AisleFlitsAndMessages
  refine ⟨fun s t p hc => ⟨fun b up => ⟨exec_aisleFlitReceive_fails hc up, fun good => ?flit⟩, fun b down => ?down,
      exec_aisleMessageReceive_empty hc, fun m r inbox => ?message,
      fun held up => ⟨exec_aisleAckTimeout_due hc up held, exec_aisleAckTimeout_early hc⟩,
      fun n asked => exec_aisleNakRepeat_due hc asked, fun n asked => exec_aisleNakRepeat_early hc asked,
      fun m r port queue free long => ?revoke, fun port none_ => ?unrevoked, fun m r half queue lo hi free long => ?revokeHalf⟩,
    fun s t p f => ⟨s.nakAisle_first t p, s.nakAisle_again t p, s.putFlit_nak t p f⟩,
    fun s m => ⟨s.sideWord_stranger m, s.sideWord_suspends m, s.sideWord_solo m⟩,
    fun s t j jb x job => ⟨State.longSuspended_iff t job, State.revokedEv_again t x job, State.revokedEv_first t x job⟩⟩
  case flit =>
    refine ⟨fun idle => exec_aisleFlitReceive_unsequenced hc up good ?_, fun lo hi =>
      exec_aisleFlitReceive_joins hc up good ((flitSequenced_iff _).2 ⟨lo, hi⟩), fun lo hi =>
      exec_aisleFlitReceive_naks hc up good ((flitSequenced_iff _).2 ⟨lo, hi⟩)⟩
    rw [← Bool.not_eq_true, flitSequenced_iff]
    omega
  case down =>
    have locked := ((s.advance t).aisle p).locked_iff
    refine ⟨fun on good => exec_aisleFlitReceive_notes hc down (locked.2 ?_) good,
      fun on bad => exec_aisleFlitReceive_counts hc down (locked.2 ?_) bad,
      fun off => exec_aisleFlitReceive_unlocked hc down (Bool.eq_false_iff.2 fun on => off ?_)⟩
    · simp only [List.mem_cons, List.not_mem_nil, or_false] at on; omega
    · simp only [List.mem_cons, List.not_mem_nil, or_false] at on; omega
    · simpa [down] using locked.1 on
  case revoke =>
    rw [exec_creditRevoke_port hc port, State.revokeAisle_head _ t p queue free long]
    rfl
  case unrevoked => rw [exec_creditRevoke_port hc port, State.revokeAisle_none _ t p none_]
  case revokeHalf =>
    rw [exec_creditRevoke_half hc half, State.revokeHalf_head _ t (p - 12) queue lo hi free long]
    rfl
  case message =>
    intro u v w e ty mine word
    have goes (h : s.clerk.serving = true ∨ m.ty ≠ 4 ∨ ¬ word ∨ ¬ mine) :
        exec (.aisleMessageReceive t p) s = .next (u.passMail t p m) := by
      refine exec_aisleMessageReceive_takes hc inbox (Bool.eq_false_iff.2 fun waits => ?_)
      obtain ⟨restarts, clerk, firm, here⟩ := ((s.advance t).awaitsClerk_iff m).1 waits
      rw [State.advance_clerk] at restarts
      obtain serving | other | other | away := h
      · rw [restarts] at serving; cases serving
      · exact other clerk
      · exact other firm
      · exact away ((u.isHere_iff w.dst).1 here)
    refine ⟨fun restarts clerk firm here => exec_aisleMessageReceive_waits hc inbox (((s.advance t).awaitsClerk_iff m).2
        ⟨by rw [State.advance_clerk]; exact restarts, clerk, firm, (u.isHere_iff w.dst).2 here⟩),
      fun serving lost => (goes (.inl serving)).trans (congrArg _ (u.passMail_drops t p lost)),
      fun few valid here => ?_, fun few valid other foreign => ?_⟩
    · have passes := u.passMail_delivers t p few valid ((u.isHere_iff w.dst).2 here)
      refine ⟨fun kind => (goes (.inr (.inl (by omega)))).trans (congrArg _ (passes.trans (u.deliverMail_mesh t p kind))),
        fun kind other firm => (goes (.inr (.inr (.inl firm)))).trans
          (congrArg _ (passes.trans (u.deliverMail_foreign t p kind other firm))),
        fun kind firm serving => (goes (.inl serving)).trans (congrArg _ (passes.trans (u.deliverMail_word t p kind firm))),
        fun kind => (goes ?_).trans (congrArg _ (passes.trans (u.deliverMail_local t p kind)))⟩
      obtain kind | kind | ⟨kind, lo, hi⟩ := kind
      · exact .inr (.inl (by omega))
      · exact .inr (.inl (by omega))
      · exact .inr (.inr (.inl fun firm => absurd (isSideWord.firmware firm) (by omega)))
    · have away : ¬ mine := fun here => here.elim other (by simp [foreign])
      have passes := u.passMail_relays t p few valid (Bool.eq_false_iff.2 fun here => away ((u.isHere_iff w.dst).1 here))
      have run := (goes (.inr (.inr (.inr away)))).trans (congrArg _ passes)
      exact ⟨fun none_ => run.trans (congrArg _ (u.relayMail_stuck p none_)),
        fun q port => run.trans (congrArg _ (u.relayMail_sends p port))⟩

end Sys2Proof.Machine
end

section
/-! PROOFS. ROUTE entries without a lost port (R342, R360, R363). -/

set_option Elab.async false
namespace Sys2Proof.Machine

/-! ### Route words -/

theorem bits_low (w n : Nat) : bits w n 0 = w % 2 ^ (n + 1) := rfl

theorem bits_eq_div (w hi lo : Nat) : bits w hi lo = w / 2 ^ lo % 2 ^ (hi - lo + 1) := by
  rw [bits, Nat.shiftRight_eq_div_pow]

theorem bit_iff (w n : Nat) : bit w n = true ↔ w / 2 ^ n % 2 = 1 := by
  rw [bit, Nat.testBit_eq_decide_div_mod_eq, decide_eq_true_eq]

/-- A route word that is invalid, or the device's own, or names a port neither as primary nor as alternate. -/
def avoids (w p : Nat) : Prop := bit w 8 = true → bit w 9 = false → bits w 3 0 ≠ p ∧ bits w 7 4 ≠ p

/-- The ports of a route word lie in its low 13 bits. -/
theorem avoids_of_low {v w p : Nat} (low : v % 2 ^ 13 = w % 2 ^ 13) (h : avoids w p) : avoids v p := by
  simp only [avoids, bit_iff, ← Bool.not_eq_true, bits_eq_div] at *
  omega

theorem avoids_routeWord {a b n p : Nat} (ha : a < 12) (hb : b < 12) (hap : a ≠ p) (hbp : b ≠ p) :
    avoids (routeWord a b n) p := by
  simp only [avoids, routeWord, bit_iff, ← Bool.not_eq_true, bits_eq_div]
  omega

section
variable {w p : Nat}

theorem routeWithout_own (own : bit w 9 = true) : routeWithout w p = w := if_pos own

variable (other : ¬ bit w 9 = true)
include other

theorem routeWithout_both (ha : bits w 3 0 = p) (hb : bits w 7 4 = p) : routeWithout w p = w - 2 ^ 8 * bits w 8 8 :=
  (if_neg other).trans (if_pos (by simp [ha, hb]))

theorem routeWithout_primary (ha : bits w 3 0 = p) (hb : bits w 7 4 ≠ p) :
    routeWithout w p = bits w 7 4 + 16 * bits w 7 4 + w / 256 * 256 :=
  (if_neg other).trans ((if_neg (by simp [hb])).trans (if_pos ha))

theorem routeWithout_alternate (ha : bits w 3 0 ≠ p) (hb : bits w 7 4 = p) :
    routeWithout w p = bits w 3 0 + 16 * bits w 3 0 + w / 256 * 256 :=
  (if_neg other).trans ((if_neg (by simp [ha])).trans ((if_neg ha).trans (if_pos hb)))

theorem routeWithout_neither (ha : bits w 3 0 ≠ p) (hb : bits w 7 4 ≠ p) : routeWithout w p = w :=
  (if_neg other).trans ((if_neg (by simp [ha])).trans ((if_neg ha).trans (if_neg hb)))

end

/-- An entry from which a port is taken keeps its valid bit only where it names the port no more. -/
theorem avoids_routeWithout (w p : Nat) (kept : ¬ (bit w 8 = true ∧ bit (routeWithout w p) 8 = false)) :
    avoids (routeWithout w p) p := by
  by_cases own : bit w 9 = true
  · rw [routeWithout_own own]
    exact fun _ other => absurd own (Bool.eq_false_iff.1 other)
  by_cases ha : bits w 3 0 = p <;> by_cases hb : bits w 7 4 = p
  · rw [routeWithout_both own ha hb] at kept ⊢
    simp only [avoids, bit_iff, ← Bool.not_eq_true, bits_eq_div] at own kept ⊢
    omega
  · rw [routeWithout_primary own ha hb] at kept ⊢
    simp only [avoids, bit_iff, ← Bool.not_eq_true, bits_eq_div, Nat.reduceSub, Nat.reduceAdd, Nat.reducePow, Nat.div_one,
      ← ne_eq] at own ha hb kept ⊢
    omega
  · rw [routeWithout_alternate own ha hb] at kept ⊢
    simp only [avoids, bit_iff, ← Bool.not_eq_true, bits_eq_div, Nat.reduceSub, Nat.reduceAdd, Nat.reducePow, Nat.div_one,
      ← ne_eq] at own ha hb kept ⊢
    omega
  · rw [routeWithout_neither own ha hb]
    exact fun _ _ => ⟨ha, hb⟩

/-! ### Ways around a lost port (R360) -/

theorem argmin_mem {α : Type} {f : α → Nat} {l : List α} {x : α} (h : argmin f l = some x) : x ∈ l := by
  induction l generalizing x with
  | nil => cases h
  | cons y l ih =>
    unfold argmin at h
    split at h
    · cases h; exact .head _
    · rename_i z found
      split at h
      · cases h; exact .tail _ (ih found)
      · cases h; exact .head _

theorem State.hopsBy_up {s : State} {a q n : Nat} (way : s.hopsBy a q = some n) : s.portUp a = true := by
  unfold State.hopsBy at way
  by_contra down
  simp [down] at way

section
variable (s : State) (q : Nat) {p : Nat} (down : s.portUp p = false)
include down

/-- A new way takes ports that are UP. -/
theorem State.reroute_avoids : avoids (s.reroute q) p := by
  have up {a n : Nat} (way : (a, n) ∈ (List.range 12).filterMap fun p => (s.hopsBy p q).map fun n => (p, n)) :
      a < 12 ∧ a ≠ p := by
    simp only [List.mem_filterMap, List.mem_range, Option.map_eq_some_iff, Prod.mk.injEq] at way
    obtain ⟨b, lt, k, hops, rfl, -⟩ := way
    refine ⟨lt, ?_⟩
    rintro rfl
    rw [State.hopsBy_up hops] at down
    cases down
  unfold State.reroute
  dsimp only
  split
  · exact fun valid => absurd valid (by decide)
  · rename_i a n best
    obtain ⟨ha, hap⟩ := up (argmin_mem best)
    split
    · rename_i b k second
      obtain ⟨hb, hbp⟩ := up (List.mem_of_find?_eq_some second)
      exact avoids_routeWord ha hb hap hbp
    · exact avoids_routeWord ha ha hap hap

theorem State.routeAround_avoids (w : Nat) : avoids (s.routeAround w p q) p := by
  unfold State.routeAround
  dsimp only
  split
  · exact s.reroute_avoids q down
  · rename_i kept
    exact avoids_routeWithout w p (by simpa using kept)

end

/-! ### The Clerk's new entries (R360, R363) -/

theorem hdie_route_row (h : Nat) {q : Nat} (lt : q < 64) :
    PageTy.hdie.row h (0x400 + 4 * q) = some (rowRW 0x400 64 4 0x1FFF 0) :=
  (by decide : ∀ i < 64, PageTy.hdie.row 0 (0x400 + 4 * i) = some (rowRW 0x400 64 4 0x1FFF 0)) q lt

theorem State.live_hdie (s : State) (h o : Nat) :
    s.live .hdie h o = ((s.page (pageNo .hdie h)).word .hdie h o).toNat := by
  simp [State.live, State.regWord, State.unready]

/-- A ROUTE entry is written without a port where that changes it. -/
def State.unrouteEntry (s : State) (p h q : Nat) : State :=
  let o := 0x400 + 4 * q
  let w := s.live .hdie h o
  let v := s.routeAround w p q
  if v = w then s
  else s.setPage (pageNo .hdie h) ((s.page (pageNo .hdie h)).writeRW .hdie h o (BitVec.ofNat 32 v))

theorem State.unroute_eq (s : State) (p : Nat) : s.unroute p
    = (List.range 4).foldl (fun s h => (List.range 64).foldl (fun s q => s.unrouteEntry p h q) s) s := rfl

theorem State.unrouteEntry_only {s : State} {p h q : Nat} : Only [.pages, .stalls] s (s.unrouteEntry p h q) := by
  unfold State.unrouteEntry
  exact holds_ite (.refl _) State.setPage_only

/-- The low 13 bits are those that a write of an entry stores. -/
theorem low_of_merge (a x : W32) : ((a &&& ~~~(BitVec.ofNat 32 0x1FFF)) ||| (x &&& BitVec.ofNat 32 0x1FFF)).toNat % 2 ^ 13
    = x.toNat % 2 ^ 13 := by
  have low : ((a &&& ~~~(BitVec.ofNat 32 0x1FFF)) ||| (x &&& BitVec.ofNat 32 0x1FFF)).setWidth 13 = x.setWidth 13 := by
    ext i hi
    simp only [BitVec.getElem_setWidth, BitVec.getLsbD_or, BitVec.getLsbD_and, BitVec.getLsbD_not]
    have mask : (BitVec.ofNat 32 0x1FFF).getLsbD i = true := by
      interval_cases i <;> rfl
    simp [mask]
  rw [← BitVec.toNat_setWidth, ← BitVec.toNat_setWidth, low]

theorem State.unrouteEntry_avoids (s : State) {p h q : Nat} (down : s.portUp p = false) (lt : q < 64) :
    avoids ((s.unrouteEntry p h q).live .hdie h (0x400 + 4 * q)) p := by
  have around := s.routeAround_avoids q down (s.live .hdie h (0x400 + 4 * q))
  unfold State.unrouteEntry
  dsimp only
  split
  case isTrue same => rwa [same] at around
  case isFalse =>
    refine avoids_of_low ?_ around
    rw [State.live_hdie, State.page_setPage, Page.word_writeRW_same (hdie_route_row h lt)]
    refine (low_of_merge _ _).trans ?_
    rw [BitVec.toNat_ofNat]
    omega

theorem State.unrouteEntry_other (s : State) (p : Nat) {h k i q : Nat} (lt : i < 64) (other : h ≠ k ∨ i ≠ q) :
    (s.unrouteEntry p h i).live .hdie k (0x400 + 4 * q) = s.live .hdie k (0x400 + 4 * q) := by
  unfold State.unrouteEntry
  dsimp only
  split
  · rfl
  · rw [State.live_hdie, s.live_hdie k]
    by_cases page : k = h
    · subst page
      rw [State.page_setPage, Page.word_writeRW_other (hdie_route_row k lt) _ _ (by omega)]
    · rw [State.page_setPage_other _ _ (by unfold pageNo; omega)]

theorem State.unrouteEntry_portUp (s : State) (p h q : Nat) : (s.unrouteEntry p h q).portUp p = s.portUp p := by
  have kept : Only [.pages, .stalls] s (s.unrouteEntry p h q) := State.unrouteEntry_only
  have aisles : (s.unrouteEntry p h q).aisles = s.aisles := kept .aisles rfl
  have fuses : (s.unrouteEntry p h q).fuses = s.fuses := kept .fuses rfl
  unfold State.portUp State.portPresent State.aisle
  rw [aisles, fuses]

/-- A property that one step of a fold establishes and every step keeps holds after the fold. -/
theorem foldl_reaches {α β : Type} {Q P : α → Prop} {f : α → β → α} {l : List β} {x : β} {a : α} (mem : x ∈ l) (start : Q a)
    (inv : ∀ a b, Q a → Q (f a b)) (reach : ∀ a, Q a → P (f a x)) (keep : ∀ a b, b ∈ l → Q a → P a → P (f a b)) :
    P (l.foldl f a) := by
  obtain ⟨before, after, rfl⟩ := List.append_of_mem mem
  have q : Q (before.foldl f a) := holds_foldl start inv
  rw [List.foldl_append, List.foldl_cons]
  exact (List.foldlRecOn (motive := fun a => Q a ∧ P a) after f ⟨inv _ x q, reach _ q⟩
    fun a ⟨q, h⟩ b hb => ⟨inv a b q, keep a b (by simp [hb]) q h⟩).2

/-- No ROUTE entry leads over a port that is not UP once the Clerk has taken it from the routes. -/
theorem State.unroute_avoids (s : State) {p q : Nat} (down : s.portUp p = false) (lt : q < 64) :
    avoids ((s.unroute p).live .hdie 0 (0x400 + 4 * q)) p := by
  have inner (h : Nat) (s : State) (down : s.portUp p = false) :
      ((List.range 64).foldl (fun s q => s.unrouteEntry p h q) s).portUp p = false :=
    holds_foldl (Q := fun s => State.portUp s p = false) down fun (s : State) q down => (s.unrouteEntry_portUp p h q).trans down
  have keep (h : Nat) (s : State) (i : Nat) (li : i ∈ List.range 64) (down : s.portUp p = false)
      (before : avoids (s.live .hdie 0 (0x400 + 4 * q)) p) : avoids ((s.unrouteEntry p h i).live .hdie 0 (0x400 + 4 * q)) p := by
    by_cases here : h = 0 ∧ i = q
    · obtain ⟨rfl, rfl⟩ := here
      exact s.unrouteEntry_avoids down lt
    · rwa [s.unrouteEntry_other p (List.mem_range.1 li) (by omega)]
  rw [State.unroute_eq]
  refine foldl_reaches (Q := fun s => State.portUp s p = false) (P := fun s => avoids (State.live s .hdie 0 (0x400 + 4 * q)) p)
    (x := 0) (by simp) down (fun s h down => inner h s down) (fun s down => ?_) (fun s h _ down before => ?_)
  · exact foldl_reaches (Q := fun s => State.portUp s p = false) (List.mem_range.2 lt) down
      (fun s i down => (s.unrouteEntry_portUp p 0 i).trans down) (fun s down => s.unrouteEntry_avoids down lt) (keep 0)
  · exact (List.foldlRecOn (motive := fun s => State.portUp s p = false ∧ avoids (State.live s .hdie 0 (0x400 + 4 * q)) p)
      (List.range 64) _ ⟨down, before⟩
      fun s ⟨down, before⟩ i li => ⟨(s.unrouteEntry_portUp p h i).trans down, keep h s i li down before⟩).2

theorem State.route_unroute (s : State) {p q : Nat} (down : (s.aisle p).state ≠ 3) (lt : q < 64) :
    let r := (s.unroute p).route q
    r.2.2.1 = true → r.2.2.2.1 = false → r.1 ≠ p ∧ r.2.1 ≠ p :=
  s.unroute_avoids (by simp [State.portUp, down]) lt

end Sys2Proof.Machine
end

section
/-! PROOFS. Where a job's pitches lie stays when events are raised and steps are aborted (R349, R391, R402). -/

set_option Elab.async false
namespace Sys2Proof.Machine

/-- The same jobs have their pitches at the same places. -/
structure SamePlaces (s t : State) : Prop where
  place_job : ∀ k, (t.job k).map Job.place = (s.job k).map Job.place

theorem SamePlaces.refl (s : State) : SamePlaces s s := ⟨fun _ => rfl⟩

theorem SamePlaces.trans {s t u : State} (h : SamePlaces s t) (k : SamePlaces t u) : SamePlaces s u :=
  ⟨fun j => (k.place_job j).trans (h.place_job j)⟩

theorem SamePlaces.then {s t u : State} {w : List Part} (h : SamePlaces s t) (k : Only w t u) (no : w.contains .jobs = false) :
    SamePlaces s u := by
  have jobs : u.jobs = t.jobs := k .jobs no
  refine ⟨fun j => ?_⟩
  rw [← h.place_job j, State.job, State.job, jobs]

theorem SamePlaces.of_only {s t : State} {w : List Part} (k : Only w s t) (no : w.contains .jobs = false) : SamePlaces s t :=
  (SamePlaces.refl s).then k no

theorem SamePlaces.setClerk (s : State) (c : Clerk) : SamePlaces s { s with clerk := c } := ⟨fun _ => rfl⟩

theorem SamePlaces.setJob {s t : State} {j : Nat} {jb v : Job} (h : SamePlaces s t) (hj : s.job j = some jb)
    (same : v.place = jb.place) : SamePlaces s (t.setJob j v) := by
  refine ⟨fun k => ?_⟩
  by_cases at_ : k = j
  · rw [at_, State.job_setJob, hj, Option.map_some, Option.map_some, same]
  · rw [State.job_setJob_other _ _ at_, h.place_job k]

theorem SamePlaces.foldl {β : Type} {f : State → β → State} {l : List β} {s : State} (k : ∀ u a, SamePlaces u (f u a)) :
    SamePlaces s (l.foldl f s) :=
  holds_foldl (Q := SamePlaces s) (.refl s) fun u a h => h.trans (k u a)

theorem SamePlaces.place {s t : State} {j : Nat} {jb : Job} (h : SamePlaces s t) (hj : t.job j = some jb) :
    ∃ jb', s.job j = some jb' ∧ jb'.place = jb.place := by
  have same := h.place_job j
  rw [hj, Option.map_some] at same
  exact Option.map_eq_some_iff.1 same.symm

/-! ### Suspension and seals -/

theorem State.suspendJob_places (s : State) (j : Nat) (pre : Bool) : SamePlaces s (s.suspendJob j pre) := by
  unfold State.suspendJob
  split
  · exact .refl s
  · next jb hj =>
    dsimp only
    split
    · exact (SamePlaces.refl s).setJob hj rfl
    · refine SamePlaces.then ?_ State.suspendSlots_only rfl
      exact (SamePlaces.refl s).setJob hj rfl

theorem State.setSolo_places (s : State) (j : Nat) : SamePlaces s (s.setSolo j) := by
  unfold State.setSolo
  split
  · exact .refl s
  · next jb hj =>
    split
    · exact (SamePlaces.refl s).setJob hj rfl
    · exact .refl s

theorem State.compareSeals_places (s : State) (j n : Nat) : SamePlaces s (s.compareSeals j n) := by
  unfold State.compareSeals
  split
  · exact .refl s
  next jb hj =>
  split
  · exact .refl s
  split
  · exact .refl s
  split
  · exact .refl s
  dsimp only
  have set (w' : TwinSt) : SamePlaces s (s.setJob j { jb with twin := some w' }) := (SamePlaces.refl s).setJob hj rfl
  split
  · exact set _
  split
  · exact ((((set _).then State.record_only rfl).then State.post_only rfl).trans (State.suspendJob_places _ j false)).then
      State.tellSide_only rfl
  · exact ((set _).then State.record_only rfl).then State.post_only rfl

theorem State.takeSeal_places (s : State) (t j n pos st : Nat) (v : W64) : SamePlaces s (s.takeSeal t j n pos st v) := by
  unfold State.takeSeal
  split
  · exact .refl s
  next jb hj =>
  split
  · exact .refl s
  dsimp only
  have set (w' : TwinSt) : SamePlaces s (s.setJob j { jb with twin := some w' }) := (SamePlaces.refl s).setJob hj rfl
  split
  · exact set _
  · exact ((set _).then State.sendTable_only rfl).trans (State.compareSeals_places _ j n)

theorem State.sendSeal_places (s : State) (t j n st : Nat) (v : W64) : SamePlaces s (s.sendSeal t j n st v) := by
  unfold State.sendSeal
  split
  · exact State.takeSeal_places ..
  · exact .of_only State.sendClerk_only rfl

theorem State.sealsOf_places (s : State) (t j before n : Nat) (commit : Bool) :
    SamePlaces s (s.sealsOf t j before n commit) := by
  unfold State.sealsOf
  split
  · exact .refl s
  split
  · exact .refl s
  exact .foldl fun u i => holds_ite (u.sendSeal_places ..) (u.sendSeal_places ..)

/-! ### Steps discarded, jobs failed, steps aborted -/

theorem State.dropFetches_places (s : State) (j n : Nat) : SamePlaces s (s.dropFetches j n) := by
  unfold State.dropFetches
  split
  · next jb hj => exact (SamePlaces.refl s).setJob hj rfl
  · exact .refl s

theorem State.discardStep_places (s : State) (j n : Nat) (final : Bool) : SamePlaces s (s.discardStep j n final) := by
  unfold State.discardStep
  split
  · exact .refl s
  next jb hj =>
  extract_lets hubs rings sealed
  have hHubs : SamePlaces s hubs := .foldl fun u h => (SamePlaces.of_only State.setHub_only rfl).then State.count_only rfl
  have hRings : SamePlaces s rings :=
    hHubs.trans (.foldl fun u sn => .foldl fun v r => .of_only State.dropRing_only rfl)
  have hSealed : SamePlaces s sealed := by
    refine holds_ite ?_ hRings
    refine SamePlaces.trans ?_ (State.sealsOf_places ..)
    exact hRings.setJob hj rfl
  exact (hSealed.then State.freeAhead_only rfl).trans (State.dropFetches_places _ j n)

theorem State.finish_places (s : State) (seq status cause result rate attempts : Nat) (job : Option Nat) :
    SamePlaces s (s.finish seq status cause result rate attempts job) := by
  unfold State.finish
  split
  · exact .of_only State.await_only rfl
  split
  · exact .refl s
  next x found =>
  extract_lets _ taken k last
  have hTaken : SamePlaces s taken := .setClerk s _
  have hLast : SamePlaces s last := by
    unfold last
    split
    · next jb hj =>
      refine hTaken.trans ?_
      exact (SamePlaces.refl taken).setJob hj rfl
    · exact hTaken
  exact (hLast.then State.writeCompletion_only rfl).then State.finishDups_only rfl

theorem State.failNow_places (s : State) (j code : Nat) : SamePlaces s (s.failNow j code) := by
  unfold State.failNow
  split
  · exact .refl s
  next jb hj =>
  split
  · exact .refl s
  extract_lets gone failed stopped told
  have hFailed : SamePlaces s failed := (SamePlaces.refl s).setJob hj rfl
  have hTold : SamePlaces s told :=
    (hFailed.then State.abortStalls_only rfl).trans (.foldl fun u x => .of_only State.tellAbort_only rfl)
  exact hTold.trans (.foldl fun u x => (u.discardStep_places j x.n true).trans (State.finish_places ..))

theorem State.failJob_places (s : State) (j code : Nat) : SamePlaces s (s.failJob j code) := by
  unfold State.failJob
  split
  · exact s.failNow_places j code
  · exact .of_only State.await_only rfl

theorem State.abortSteps_places (s : State) (j cause : Nat) (counts : Bool) : SamePlaces s (s.abortSteps j cause counts) := by
  unfold State.abortSteps
  split
  · exact .of_only State.await_only rfl
  split
  · exact .refl s
  next jb hj =>
  split
  · exact .refl s
  split
  · exact s.failJob_places j cause
  split
  · exact ((SamePlaces.of_only State.record_only rfl).trans (State.failJob_places _ j 0x6305)).then State.post_only rfl
  · refine SamePlaces.then ?_ State.abortStalls_only rfl
    exact (SamePlaces.refl s).setJob hj rfl

/-! ### Events of one job -/

theorem State.flagJob_places (s : State) (j f t : Nat) : SamePlaces s (s.flagJob j f t) := by
  unfold State.flagJob
  split
  · exact .refl s
  next jb hj =>
  have set {v : Job} (same : v.place = jb.place) : SamePlaces s (s.setJob j v) := (SamePlaces.refl s).setJob hj same
  split
  · exact .refl s
  split
  · exact set rfl
  split
  · exact .refl s
  split
  · exact set rfl
  · exact set rfl

/-- An event of severity 0 to 2 that names a job leaves the places. -/
theorem State.raise_places (s : State) {e : Ev} {j : Nat} (mild : e.sev ≤ 2) (job : e.job = some j) :
    SamePlaces s (s.raise e) := by
  obtain ⟨-, low, two, -⟩ := eventsActBySeverity s e
  have flagged : SamePlaces s ((s.record e).flagJob j (flagBit e.code) e.tick) :=
    (SamePlaces.of_only State.record_only rfl).trans (State.flagJob_places ..)
  rw [job] at low two
  rcases Nat.lt_or_eq_of_le mild with less | eq
  · rw [low j less rfl]
    refine SamePlaces.then ?_ State.post_only rfl
    dsimp only
    split
    · exact flagged.trans (State.abortSteps_places ..)
    · exact flagged
  · rw [two j eq rfl]
    exact (flagged.trans (State.failJob_places ..)).then State.post_only rfl

theorem State.twinSolo_places (s : State) (j : Nat) : SamePlaces s (s.twinSolo j) := by
  unfold State.twinSolo
  split
  · exact .refl s
  split
  · exact .refl s
  split
  · exact .refl s
  · exact ((s.setSolo_places j).then State.tellSide_only rfl).trans (State.raise_places _ (Nat.le_succ 1) rfl)

end Sys2Proof.Machine
end

section
/-! PROOFS. Training and loss of an aisle port (R339, R348, R360). -/

set_option Elab.async false
namespace Sys2Proof.Machine

/-! ### IDENTs (R348) -/

section
variable (s : State) (t p n : Nat) (training : (s.aisle p).state = 2)
include training

theorem State.dueIdents_due (more : (s.aisle p).identsOut < 16) (due : (s.aisle p).lockAt + 256 * (s.aisle p).identsOut < t + 4) :
    s.dueIdents t p (n + 1) = ((s.setAisle p { s.aisle p with identsOut := (s.aisle p).identsOut + 1 }).sendIdent
      ((s.aisle p).lockAt + 256 * (s.aisle p).identsOut) p).dueIdents t p n :=
  if_neg (by simp [training]; omega)

theorem State.dueIdents_done (done : 16 ≤ (s.aisle p).identsOut ∨ t + 4 ≤ (s.aisle p).lockAt + 256 * (s.aisle p).identsOut) :
    s.dueIdents t p n = s := by
  cases n with
  | zero => rfl
  | succ n => exact if_pos (by simp [training, done])

end

section
variable {s : State} {t p : Nat} (hc : s.clocked = true)
include hc

theorem exec_aisleLanesLocked_present (down : ((s.advance t).aisle p).state = 1) (present : (s.advance t).portPresent p = true) :
    exec (.aisleLanesLocked t p) s = .next (((s.advance t).setAisle p { (s.advance t).aisle p with
      state := 2, lanes := 255, idents := [], identTx := 0, identRx := 0, lockAt := cdiv t 4 * 4, identsOut := 0, goodAt := t
      partFlits := 0 }).dueIdents t p 16) :=
  ((State.setAisle_only.mono (by decide)).trans State.dueIdents_only).answersAt hc rfl (if_neg (by simp [down, present]))

theorem exec_aisleLanesLocked_other (other : ((s.advance t).aisle p).state ≠ 1) :
    exec (.aisleLanesLocked t p) s = .next (s.advance t) :=
  State.answers_advance hc rfl (if_pos (by simp [other]))

variable {b : List Byte}

theorem exec_identReceive_other (other : ((s.advance t).aisle p).state ≠ 2) :
    exec (.identReceive t p b) s = .next (s.advance t) :=
  State.answers_advance hc rfl (if_pos (by simp [other]))

variable (training : ((s.advance t).aisle p).state = 2)
include training

theorem exec_identReceive_fails (bad : flitOk b = false) :
    exec (.identReceive t p b) s = .next ((s.advance t).count (pageNo .aisle p) 0x60 1) :=
  State.count_only.answersAt hc rfl ((if_neg (by simp [training])).trans (if_pos (by simp [bad])))

end

/-- What the port makes of an IDENT: one result more, or the sixteenth. -/
def State.identTaken (v : State) (t p : Nat) (y : List Byte) : State :=
  let a := (v.aisle p).takeIdent t y
  let u := v.setAisle p { a with latency := latencyOf a.idents }
  let c := u.live .aisle p 0x104
  let z := u.setAisle p { u.aisle p with state := 5 }
  if a.idents.length < 16 then v.setAisle p a
  else if bit c 14 && bits c 9 4 != a.peerPos then z.raise (z.linkEv t 0x5103 1 none p 0)
  else u.enterUp t p

theorem State.identTaken_only {v : State} {t p : Nat} {y : List Byte} : Only linkParts v (v.identTaken t p y) := by
  unfold State.identTaken
  exact holds_ite (State.setAisle_only.mono (by decide)) (holds_ite
    (((State.setAisle_only.trans State.setAisle_only).mono (by decide)).step State.raise_only)
    ((State.setAisle_only.trans State.enterUp_only).mono (by decide)))

section
variable (v : State) (t p : Nat) (y : List Byte)

theorem State.identTaken_more (few : ((v.aisle p).takeIdent t y).idents.length < 16) :
    v.identTaken t p y = v.setAisle p ((v.aisle p).takeIdent t y) := if_pos few

variable (last : 16 ≤ ((v.aisle p).takeIdent t y).idents.length)
include last

theorem State.identTaken_miswired :
    let a := (v.aisle p).takeIdent t y
    let u := v.setAisle p { a with latency := latencyOf a.idents }
    let c := u.live .aisle p 0x104
    let z := u.setAisle p { u.aisle p with state := 5 }
    bit c 14 = true → bits c 9 4 ≠ a.peerPos → v.identTaken t p y = z.raise (z.linkEv t 0x5103 1 none p 0) := by
  intro a u c z expected peer
  exact (if_neg (Nat.not_lt.2 last)).trans (if_pos (Bool.and_eq_true_iff.2 ⟨expected, bne_iff_ne.2 peer⟩))

theorem State.identTaken_up :
    let a := (v.aisle p).takeIdent t y
    let u := v.setAisle p { a with latency := latencyOf a.idents }
    let c := u.live .aisle p 0x104
    bit c 14 = false ∨ bits c 9 4 = a.peerPos → v.identTaken t p y = u.enterUp t p := by
  intro a u c right
  refine (if_neg (Nat.not_lt.2 last)).trans (if_neg fun wrong => ?_)
  obtain ⟨expected, peer⟩ := Bool.and_eq_true_iff.1 wrong
  exact right.elim (fun free => Bool.eq_false_iff.1 free expected) (bne_iff_ne.1 peer)

end

theorem exec_identReceive_ident {s : State} {t p : Nat} {b : List Byte} (hc : s.clocked = true)
    (training : ((s.advance t).aisle p).state = 2) (good : flitOk b = true) (ty : (flitOf b).ty = 6) :
    exec (.identReceive t p b) s = .next (((s.advance t).dueIdents t p 16).identTaken t p (flitOf b).payload) :=
  ((State.dueIdents_only.mono (by decide)).trans State.identTaken_only).answersAt hc rfl
    ((if_neg (by simp [training])).trans ((if_neg (by simp [good])).trans (if_neg (by simp [ty]))))

/-! ### Lanes and links lost (R339) -/

section
variable {s : State} {t p : Nat} (hc : s.clocked = true)
include hc

theorem exec_aisleLaneLockLoss_absent {n : Nat} (absent : (s.advance t).portPresent p = false) :
    exec (.aisleLaneLockLoss t p n) s = .next (s.advance t) :=
  State.answers_advance hc rfl (if_pos (by simp [absent]))

theorem exec_aisleLaneLockLoss_present (n : Nat) (present : (s.advance t).portPresent p = true) :
    let l := (s.advance t).aisle p
    let u := (s.advance t).setAisle p { l with lanes := l.lanes - 2 ^ (n % 8) * b2n (bit l.lanes (n % 8)) }
    exec (.aisleLaneLockLoss t p n) s = .next (if l.state ∈ [2, 3, 5, 6] then u.loseAisle t p 1 else u) := by
  intro l u
  refine Only.answersAt (w := linkParts) ((State.setAisle_only.mono (by decide)).trans
    (holds_ite (Q := Only linkParts u) State.loseAisle_only (.refl u))) hc rfl ((if_neg (by simp [present])).trans ?_)
  refine if_congr ?_ rfl rfl
  simp [Aisle.locked_iff, l]

theorem exec_aisleLinkTimeout_unlocked (open_ : ((s.advance t).aisle p).state ∉ [2, 3, 5, 6]) :
    exec (.aisleLinkTimeout t p) s = .next (s.advance t) := by
  refine State.answers_advance hc rfl (if_pos (Bool.or_eq_true_iff.2 (.inl ?_)))
  rw [Bool.not_eq_true', ← Bool.not_eq_true, Aisle.locked_iff]
  simpa using open_

end

/-- The cause by which the link of a port times out, none by 0. -/
def Aisle.timeoutCause (a : Aisle) (t : Nat) : Nat :=
  if a.replay.any fun f => decide (16 ≤ f.tries) then 2
  else if !a.replay.isEmpty && decide (a.ackAt + 330000 ≤ t) then 3
  else if a.goodAt + 330000 ≤ t then 4 else 0

section
variable (a : Aisle) (t : Nat)

theorem Aisle.timeoutCause_sends (sent : (a.replay.any fun f => decide (16 ≤ f.tries)) = true) : a.timeoutCause t = 2 :=
  if_pos sent

theorem Aisle.timeoutCause_ack (sent : (a.replay.any fun f => decide (16 ≤ f.tries)) = false) (held : a.replay ≠ [])
    (late : a.ackAt + 330000 ≤ t) : a.timeoutCause t = 3 :=
  (if_neg (Bool.eq_false_iff.1 sent)).trans (if_pos (by simp [held, late]))

theorem Aisle.timeoutCause_idle (empty : a.replay = []) : a.timeoutCause t = if a.goodAt + 330000 ≤ t then 4 else 0 :=
  (if_neg (by simp [empty])).trans (if_neg (by simp [empty]))

end

section
variable {s : State} {t p : Nat} (hc : s.clocked = true)
include hc

theorem exec_aisleLinkTimeout_live (none_ : ((s.advance t).aisle p).timeoutCause t = 0) :
    exec (.aisleLinkTimeout t p) s = .next (s.advance t) :=
  State.answers_advance hc rfl (if_pos (Bool.or_eq_true_iff.2 (.inr (decide_eq_true none_))))

theorem exec_aisleLinkTimeout_lost (locked : ((s.advance t).aisle p).state ∈ [2, 3, 5, 6]) {c : Nat}
    (cause : ((s.advance t).aisle p).timeoutCause t = c) (some_ : c ≠ 0) :
    exec (.aisleLinkTimeout t p) s = .next ((s.advance t).loseAisle t p c) := by
  have shut : ((s.advance t).aisle p).locked = true := (Aisle.locked_iff _).2 (by simpa using locked)
  subst cause
  refine State.loseAisle_only.answersAt hc rfl (if_neg fun h => ?_)
  obtain open_ | zero := Bool.or_eq_true_iff.1 h
  · rw [shut] at open_
    cases open_
  · exact some_ (of_decide_eq_true zero)

end

end Sys2Proof.Machine
end

section
/-! PROOFS. What the Clerk does when an aisle port is lost, and the jobs whose traffic crossed it (R339, R359, R360). -/

set_option Elab.async false
namespace Sys2Proof.Machine

/-! ### A job of a port that is lost (R360) -/

/-- Is a job bound to its partner over a port? -/
def Job.twinOn (jb : Job) (p : Nat) : Bool := match jb.twin with | some w => decide (w.path = p) | none => false

theorem Job.twinOn_eq (jb : Job) (p : Nat) : jb.twinOn p = jb.twin.any fun b => b.path = p := by
  unfold Job.twinOn
  cases jb.twin <;> rfl

/-- What the loss of a port does to an open job; `crossed` tells whether the job's traffic crossed the port. -/
def State.jobLosesPort (z : State) (a : Aisle) (t p cause : Nat) (crossed : Bool) (j : Nat) (jb : Job) : State :=
  let z := if z.pins.pos = 0#6 && jb.twinOn p then z.twinSolo j else z
  if a.peerValid && jb.peers.contains a.peerPos then z.raise (z.linkEv t 0x5102 2 (some j) p cause)
  else if !crossed then z
  else if z.reachable jb then z.abortSteps j 0x5102
  else z.raise (z.linkEv t 0x5102 2 (some j) p cause)

theorem State.jobLosesPort_eq (z : State) (a : Aisle) (t p c : Nat) (crossed : Bool) (j : Nat) (jb : Job) :
    z.jobLosesPort a t p c crossed j jb =
      let z := if z.pins.pos = 0#6 ∧ (jb.twin.any fun b => b.path = p) = true then z.twinSolo j else z
      if a.peerValid = true ∧ jb.peers.contains a.peerPos = true then z.raise (z.linkEv t 0x5102 2 (some j) p c)
      else if crossed = false then z
      else if z.reachable jb = true then z.abortSteps j 0x5102
      else z.raise (z.linkEv t 0x5102 2 (some j) p c) := by
  unfold State.jobLosesPort
  simp only [Bool.and_eq_true, decide_eq_true_eq, Bool.not_eq_true', Job.twinOn_eq]

theorem State.jobLosesPort_places (z : State) (a : Aisle) (t p c : Nat) (crossed : Bool) (j : Nat) (jb : Job) :
    SamePlaces z (z.jobLosesPort a t p c crossed j jb) := by
  unfold State.jobLosesPort
  extract_lets u
  have hu : SamePlaces z u := holds_ite (z.twinSolo_places j) (.refl z)
  have failed : SamePlaces z (u.raise (u.linkEv t 0x5102 2 (some j) p c)) := hu.trans (u.raise_places (Nat.le_refl 2) rfl)
  exact holds_ite failed (holds_ite hu (holds_ite (hu.trans (u.abortSteps_places ..)) failed))

/-- The jobs of a list each lose a port. -/
def State.jobsLosePort (s : State) (a : Aisle) (t p cause : Nat) (crossed : Nat → Job → Bool) (js : List Nat) : State :=
  js.foldl (fun z j => match z.job j with
    | none => z
    | some jb => z.jobLosesPort a t p cause (crossed j jb) j jb) s

theorem State.jobsLosePort_nil (s : State) (a : Aisle) (t p c : Nat) (crossed : Nat → Job → Bool) :
    s.jobsLosePort a t p c crossed [] = s := rfl

/-- Two folds agree where their steps do on the states that an invariant admits. -/
theorem foldl_congr_of_inv {α β : Type} {Q : α → Prop} {f g : α → β → α} {l : List β} {a : α} (start : Q a)
    (keep : ∀ a b, Q a → Q (g a b)) (same : ∀ a b, b ∈ l → Q a → f a b = g a b) : l.foldl f a = l.foldl g a := by
  induction l generalizing a with
  | nil => rfl
  | cons b l ih =>
    rw [List.foldl_cons, List.foldl_cons, same a b (.head l) start]
    exact ih (keep a b start) fun a c mem => same a c (.tail b mem)

/-- Which jobs crossed the port may be told beforehand, since a job's pitches stay where they are. -/
theorem State.jobsLosePort_congr {s : State} {a : Aisle} {t p c : Nat} {f g : Nat → Job → Bool} {js : List Nat}
    (same : ∀ j ∈ js, ∀ old jb, s.job j = some old → old.place = jb.place → f j jb = g j jb) :
    s.jobsLosePort a t p c f js = s.jobsLosePort a t p c g js := by
  refine foldl_congr_of_inv (Q := SamePlaces s) (.refl s) (fun z j hz => ?_) (fun z j mem hz => ?_)
  · split
    · exact hz
    · exact hz.trans (State.jobLosesPort_places ..)
  · split
    · rfl
    · next jb hj =>
      obtain ⟨old, ho, place⟩ := hz.place hj
      rw [same j mem old jb ho place]

theorem Job.peers_congr {jb old : Job} (place : old.place = jb.place) : old.peers = jb.peers := by
  unfold Job.peers
  rw [place]

theorem State.crosses_congr (x : State) {jb old : Job} (place : old.place = jb.place) (p : Nat) :
    x.crosses old p = x.crosses jb p := by
  unfold State.crosses
  rw [Job.peers_congr place]

/-- Jobs whose traffic crosses a port. -/
def State.usersOf (x : State) (p : Nat) : List Nat :=
  x.openJobs.filter fun j => match x.job j with | some jb => x.crosses jb p | none => false

theorem State.usersOf_contains {x : State} {j : Nat} {jb : Job} (mem : j ∈ x.openJobs) (hj : x.job j = some jb) (p : Nat) :
    (x.usersOf p).contains j = x.crosses jb p := by
  rw [Bool.eq_iff_iff, List.contains_iff_mem, State.usersOf, List.mem_filter, hj]
  exact and_iff_right mem

/-! ### The port (R339, R360) -/

/-- Bit 3 of a word is set. -/
theorem setBit3_eq (w : Nat) : w % 8 + 8 + w / 16 * 16 = w ||| 8 := by
  have high : (w ||| 8) / 16 = w / 16 := by rw [show 16 = 2 ^ 4 from rfl, Nat.or_div_two_pow]; simp
  have low : (w ||| 8) % 16 = w % 8 + 8 := by
    rw [show 16 = 2 ^ 4 from rfl, Nat.or_mod_two_pow, show w % 8 = w % 2 ^ 4 % 8 by omega]
    exact (by decide : ∀ r < 16, r ||| 8 % 2 ^ 4 = r % 8 + 8) (w % 2 ^ 4) (by omega)
  omega

/-- A lost port: its flits, credits, reservations and NAKs are gone. -/
def Aisle.lost (a : Aisle) : Aisle :=
  { a with
    state := 4, replay := [], credits := [0, 0, 0, 0, 0], owed := [0, 0, 0, 0, 0], reserved := [], part := [], partFlits := 0
    nakAt := none, nakOwed := false }

/-- A port is LOST, LINK_LOST is raised and the fence bit of LINK_CONFIG is set in a COMMIT. -/
def State.portLost (s : State) (t p cause : Nat) : State :=
  let u := (if (s.aisle p).state = 3 then s.passPart t p else s).freeOutput (1604 + p) 0
  let v := u.setAisle p (u.aisle p).lost
  let w := v.raise (v.linkEv t 0x5102 1 none p cause)
  (w.shadow .aisle p 0x104 (w.shadowOf .aisle p 0x104 ||| 8)).requestCommit .aisle p

theorem State.loseAisle_users (s : State) (t p c : Nat) : s.loseAisle t p c =
    let x := s.portLost t p c
    (x.unroute p).jobsLosePort (s.aisle p) t p c (fun j _ => (x.usersOf p).contains j) (x.unroute p).openJobs := by
  unfold State.portLost
  simp only [← setBit3_eq]
  rfl

theorem State.loseAisle_eq (s : State) (t p c : Nat) : s.loseAisle t p c =
    let x := s.portLost t p c
    (x.unroute p).jobsLosePort (s.aisle p) t p c (fun _ jb => x.crosses jb p) (x.unroute p).openJobs := by
  rw [State.loseAisle_users]
  extract_lets x
  have kept : Only [.pages, .stalls] x (x.unroute p) := State.unroute_only
  have jobs : (x.unroute p).jobs = x.jobs := kept .jobs rfl
  refine State.jobsLosePort_congr fun j mem old jb hj place => ?_
  rw [State.job, jobs] at hj
  rw [State.openJobs, jobs] at mem
  rw [State.usersOf_contains mem hj, x.crosses_congr place]

/-- Jobs and ports after a loss that cuts no message off. -/
theorem State.portLost_whole (s : State) (t p c : Nat) (whole : (s.aisle p).partFlits = 0) :
    (s.portLost t p c).jobs = s.jobs ∧ (s.portLost t p c).aisle p = (s.aisle p).lost := by
  have passes : s.passPart t p = s := if_pos (by simp [whole])
  unfold State.portLost
  rw [passes, ite_self]
  extract_lets u v w
  have freed : Only [.arbs] s u := State.freeOutput_only
  have port : u.aisle p = s.aisle p := by
    have aisles : u.aisles = s.aisles := freed .aisles rfl
    rw [State.aisle, aisles]
    rfl
  have raised : w = (v.record (v.linkEv t 0x5102 1 none p c)).post :=
    (eventsActBySeverity v (v.linkEv t 0x5102 1 none p c)).1 (Nat.lt_succ_self 1) rfl
  have logged : Only [.pages, .stalls, .halves, .rings, .events, .trace, .out] v w :=
    raised ▸ (State.record_only.mono rfl).trans (State.post_only.mono rfl)
  have kept : Only [.pages, .stalls, .halves, .rings, .events, .trace, .out] v
      ((w.shadow .aisle p 0x104 (w.shadowOf .aisle p 0x104 ||| 8)).requestCommit .aisle p) :=
    (logged.step State.shadow_only).step State.requestCommit_only
  have jobs := kept .jobs rfl
  have aisles := kept .aisles rfl
  refine ⟨jobs.trans (freed .jobs rfl), ?_⟩
  rw [State.aisle, show _ = _ from aisles, ← port]
  exact State.aisle_setAisle u p _

/-- The loss of a port on a device without open jobs. -/
theorem State.loseAisle_aisle (s : State) (t p c : Nat) (idle : s.openJobs = []) (whole : (s.aisle p).partFlits = 0) :
    (s.loseAisle t p c).aisle p = (s.aisle p).lost := by
  obtain ⟨jobs, port⟩ := s.portLost_whole t p c whole
  have kept : Only [.pages, .stalls] (s.portLost t p c) ((s.portLost t p c).unroute p) := State.unroute_only
  have jobs' : ((s.portLost t p c).unroute p).jobs = (s.portLost t p c).jobs := kept .jobs rfl
  have aisles : ((s.portLost t p c).unroute p).aisles = (s.portLost t p c).aisles := kept .aisles rfl
  have none_ : ((s.portLost t p c).unroute p).openJobs = [] := by
    rw [State.openJobs, jobs', jobs]
    exact idle
  rw [State.loseAisle_eq]
  dsimp only
  rw [none_, State.jobsLosePort_nil, State.aisle, aisles]
  exact port

/-! ### A partner that is lost (R359) -/

section
variable {s : State} {j : Nat} {jb : Job} {w : TwinSt} (job : s.job j = some jb) (twin : jb.twin = some w)
include job twin

theorem State.twinSolo_again (solo : w.solo = true) : s.twinSolo j = s := by
  unfold State.twinSolo
  rw [job]
  dsimp only
  rw [twin]
  exact if_pos solo

theorem State.twinSolo_first (both : w.solo = false) :
    s.twinSolo j = (((s.setJob j { jb with twin := some { w with solo := true } }).tellSide j soloType).raise
      (s.mkEv 0x7202 1 (some j) .clerk 0 (w.lastStep % 2 ^ 32) 0)) := by
  have alone : s.setSolo j = s.setJob j { jb with twin := some { w with solo := true } } := by
    unfold State.setSolo
    rw [job]
    dsimp only
    rw [twin]
  unfold State.twinSolo
  rw [job]
  dsimp only
  rw [twin]
  dsimp only
  rw [if_neg (Bool.eq_false_iff.1 both), alone]

end

/-- Settles O52: training and the loss of a port command by command, the routes by `State.route_unroute`, the jobs by
`State.loseAisle_eq`. -/
theorem aislePortsTrainAndFail : Obligations.AislePortsTrainAndFail := by
  unfold Obligations.AislePortsTrainAndFail
  refine ⟨fun s t p hc => ⟨exec_aisleLanesLocked_present hc, exec_aisleLanesLocked_other hc,
      fun b => exec_identReceive_other hc, fun b => exec_identReceive_fails hc, fun b training good ty => ?ident,
      exec_aisleLaneLockLoss_present hc, fun n => exec_aisleLaneLockLoss_absent hc, exec_aisleLinkTimeout_unlocked hc,
      fun locked => ?timeout⟩,
    fun s t p n training => ⟨s.dueIdents_due t p n training, s.dueIdents_done t p n training⟩,
    fun s t p c => ?loss, fun s p q => s.route_unroute, fun s t p c => s.loseAisle_aisle t p c,
    fun s j jb w job twin => ⟨State.twinSolo_again job twin, State.twinSolo_first job twin⟩⟩
  case ident =>
    rw [exec_identReceive_ident hc training good ty]
    extract_lets y v l' u c
    exact ⟨fun few => congrArg _ (v.identTaken_more t p y few),
      fun last expected peer => congrArg _ (v.identTaken_miswired t p y last expected peer),
      fun last right => congrArg _ (v.identTaken_up t p y last right)⟩
  case timeout =>
    have lost {c : Nat} := exec_aisleLinkTimeout_lost hc locked (c := c)
    have idle := Aisle.timeoutCause_idle ((s.advance t).aisle p) t
    exact ⟨fun sent => lost (Aisle.timeoutCause_sends _ t sent) (by decide),
      fun sent held late => lost (Aisle.timeoutCause_ack _ t sent held late) (by decide),
      fun empty late => lost ((idle empty).trans (if_pos late)) (by decide),
      fun empty early => exec_aisleLinkTimeout_live hc ((idle empty).trans (if_neg (Nat.not_le.2 early)))⟩
  case loss =>
    intro u v w x y one
    refine (s.loseAisle_eq t p c).trans (congrArg (fun f => y.openJobs.foldl f y) (funext fun z => funext fun j => ?_))
    cases z.job j with
    | none => rfl
    | some jb => exact z.jobLosesPort_eq ..

end Sys2Proof.Machine
end

section
/-! PROOFS. What a step is made of, and what every step keeps: memory's form, reset held, fuses, straps and a thermal trip (R451, R474,
R478, R481, R488). -/
namespace Sys2Proof.Machine

/-! ### A step -/

/-- A step is the front command's effect with the queue's rest, or a tick of the clock. -/
theorem step_cases {s t : State} (h : step s = .next t) :
    (∃ c q, s.pending = c :: q ∧ exec c { s with pending := q } = .next t) ∨ (s.pending = [] ∧ t = idleTick s) := by
  cases e : s.pending with
  | nil => rw [step_empty e] at h; cases h; exact .inr ⟨rfl, rfl⟩
  | cons c q =>
    unfold step at h
    rw [e] at h
    exact .inl ⟨c, q, rfl, h⟩

/-- What every command keeps whatever the queue, and an idle tick keeps, a step keeps. -/
theorem step_keeps {P : State → Prop} (queue : ∀ s q, P s → P { s with pending := q })
    (command : ∀ c s t, P s → exec c s = .next t → P t) (idle : ∀ s, P s → P (idleTick s)) {s t : State} (h : P s)
    (run : step s = .next t) : P t := by
  obtain ⟨c, q, -, run⟩ | ⟨-, rfl⟩ := step_cases run
  · exact command c _ t (queue s q h) run
  · exact idle s h

/-- Settles O1: `step` takes the front of the queue. -/
theorem stepRunsFrontCommand : Obligations.StepRunsFrontCommand := fun _ _ _ => rfl

/-- Settles O3: every table is empty at reset, and an unlisted entry reads as its first value. -/
theorem resetStartsClosedAndCold : Obligations.ResetStartsClosedAndCold :=
  ⟨rfl, rfl, rfl, rfl, rfl, fun _ => rfl, rfl, rfl, fun _ => rfl, fun _ => rfl, by decide, by decide, rfl⟩

/-! ### The commands of the pins and the PLL -/

/-- Settles O4: a clocked command always answers, and of the others only the release of RESET_N has a second case. -/
theorem onlyShortResetPulseStops : Obligations.OnlyShortResetPulseStops := by
  unfold Obligations.OnlyShortResetPulseStops
  intro c s
  cases u : actsUnclocked c with
  | false =>
    obtain ⟨t, run, -⟩ := exec_clocked (s := s) u
    exact .inl ⟨t, run, fun us e => by subst e; cases u⟩
  | true =>
    cases c with
    | resetNRelease us =>
      rcases Nat.lt_or_ge us 10 with short | long
      · exact .inr ⟨us, rfl, short, if_pos short⟩
      · exact .inl ⟨_, if_neg (Nat.not_lt.2 long), fun _ e => by cases e; exact long⟩
    | pllLock | resetNAssert | pwrGoodFall | pwrGoodRise | vioRise | vioFall | thermtrip | smbusRead | tapInstruction =>
      exact .inl ⟨_, rfl, nofun⟩
    | _ => cases u

/-! ### The canonical form of memory -/

theorem exec_memOk (c : Instr) (s : State) : Nxt (MemOk s) (exec c s) := by
  by_cases writes : (mayWrite c).contains .mem = false
  · exact Only.memOkNxt (exec_only c s) writes
  · cases c with
    | hbmBlockWrite => exact execHbmBlockWrite_memOk
    | gradientFrameArrival => exact execGradientFrameArrival_memOk
    | tensorBlockUpdate => exact execTensorBlockUpdate_memOk
    | wcopyMessageReceive => exact execWcopyMessageReceive_memOk
    | jobLoad => exact execJobLoad_memOk
    | jobMap => exact execJobMap_memOk
    | selftest => exact execSelftest_memOk
    | selftestQueuedStart => exact execSelftestQueuedStart_memOk
    | pitchMove => exact execPitchMove_memOk
    | stepRerunGo => exact execStepRerunGo_memOk
    | companionWrite => exact execCompanionWrite_memOk
    | resetNAssert => exact execResetNAssert_memOk
    | pwrGoodFall => exact execPwrGoodFall_memOk
    | openingInspectionDone => exact execOpeningInspectionDone_memOk
    | vioFall => exact execVioFall_memOk
    | _ => exact absurd rfl writes

/-- Settles O9: each command that may write memory keeps its form, and an idle tick writes none. -/
theorem stepKeepsMemoryForm : Obligations.StepKeepsMemoryForm := by
  unfold Obligations.StepKeepsMemoryForm
  intro s t form run
  exact step_keeps (P := fun u => Memory.wf u.mem = true) (fun _ _ h => h) (fun c u v h e => exec_memOk c u v e h)
    (fun _ => idleTick_only.memOk) form run

/-- Settles O10: memory is empty after reset. -/
theorem resetMemoryHasForm : Obligations.ResetMemoryHasForm := rfl

/-! ### A device held in reset (R478, R488) -/

/-- VIO, PWR_GOOD and RESET_N are all high. -/
def Pins.up (p : Pins) : Bool := p.vio && p.pwrGood && p.resetN

theorem heldInReset_iff {s : State} : heldInReset s ↔ (s.pins.up = false → s.restart = s) := Iff.rfl

/-- What lies outside the reset's reach may change, but a pin that was high may not fall. -/
theorem heldInReset_outside {s : State} (h : heldInReset s) {p : Pins} {o : List Out} {n : Nat} {q : List Instr}
    (rise : p.up = false → s.pins.up = false) :
    heldInReset { s with pins := p, out := o, freeIx := n, pending := q } := by
  intro low
  have held := h (rise low)
  calc State.restart { s with pins := p, out := o, freeIx := n, pending := q }
      = { s.restart with pins := p, out := o, freeIx := n, pending := q } := rfl
    _ = _ := by rw [held]

theorem heldInReset_restart (s : State) : heldInReset s.restart := fun _ => rfl

theorem State.up_of_clocked {s : State} (h : s.clocked = true) : s.pins.up = true := by
  unfold State.clocked at h
  simp only [Bool.and_eq_true] at h
  obtain ⟨⟨⟨⟨vio, good⟩, reset⟩, -⟩, -⟩ := h
  simp [Pins.up, vio, good, reset]

/-- Where the pins that are high stay high unless nothing changes, reset is held as before. -/
theorem heldInReset_of_still {s t : State} (h : heldInReset s) (pins : t.pins.up = s.pins.up)
    (still : s.pins.up = false → t = s) : heldInReset t := by
  intro low
  obtain rfl := still (pins.symm.trans low)
  exact h low

/-- A command of the clocked logic drives no pin, so it ends in reset only where it began there, with the clocks stopped. -/
theorem Clocked.heldInReset {s t : State} {o : Host.Outcome State Fault Refusal} (k : Clocked s o) (run : o = .next t)
    (h : heldInReset s) : heldInReset t := by
  obtain ⟨u, answers, ⟨pins, -⟩, still⟩ := k
  obtain rfl : u = t := by rw [answers] at run; cases run; rfl
  refine heldInReset_of_still h (by rw [pins]; rfl) fun low => still ?_
  exact Bool.eq_false_iff.2 fun runs => by rw [State.up_of_clocked runs] at low; cases low

theorem idleTick_heldInReset {s : State} (h : heldInReset s) : heldInReset (idleTick s) := by
  refine heldInReset_of_still h (congrArg Pins.up (show _ = s.pins from idleTick_only .pins rfl)) fun low => idleTick_stopped ?_
  exact Bool.eq_false_iff.2 fun runs => by rw [State.up_of_clocked runs] at low; cases low

/-- Each command of the pins and the PLL. -/
theorem exec_unclocked_heldInReset {c : Instr} {s t : State} (u : actsUnclocked c = true) (h : heldInReset s)
    (run : exec c s = .next t) : heldInReset t := by
  cases c with
  | pllLock =>
    refine heldInReset_of_still h (congrArg Pins.up (show _ = s.pins from exec_only .pllLock s t run .pins rfl)) fun low => ?_
    have dark : (s.bell.state != 0 || !(s.pins.vio && s.pins.pwrGood && s.pins.resetN) || s.pins.trip) = true := by
      rw [show (s.pins.vio && s.pins.pwrGood && s.pins.resetN) = false from low]
      simp
    rw [show exec .pllLock s = .next s from congrArg Host.Outcome.next (if_pos dark)] at run
    cases run; rfl
  | resetNRelease us =>
    change execResetNRelease us s = _ at run
    unfold execResetNRelease at run
    split at run
    · cases run
    cases run
    split
    case isTrue => exact h
    case isFalse held =>
      have low : s.pins.up = false := by simp_all [Pins.up]
      extract_lets v
      exact holds_ite (heldInReset_outside h fun _ => low) (heldInReset_outside h fun _ => low)
  | resetNAssert => cases run; exact holds_ite h (heldInReset_restart _)
  | pwrGoodFall => cases run; exact holds_ite h (heldInReset_restart _)
  | vioFall => cases run; exact heldInReset_restart _
  | pwrGoodRise =>
    cases run
    have rise {p : Pins} (good : p.up = (s.pins.vio && s.pins.resetN)) (low : p.up = false) : s.pins.up = false := by
      rw [good] at low
      unfold Pins.up
      rw [Bool.and_right_comm, low, Bool.false_and]
    exact holds_ite h (holds_ite (heldInReset_outside h (rise (by simp [Pins.up]))) (heldInReset_outside h (rise (by simp [Pins.up]))))
  | vioRise =>
    cases run
    split
    case isTrue => exact h
    case isFalse off => exact heldInReset_outside h fun _ => by simp_all [Pins.up]
  | thermtrip => cases run; exact holds_ite (heldInReset_outside h id) h
  | smbusRead cmd word => cases run; exact holds_ite (heldInReset_outside h id) h
  | tapInstruction i =>
    cases run
    refine holds_ite ?_ h
    exact holds_ite (heldInReset_outside h id) (heldInReset_outside h id)
  | _ => cases u

theorem exec_heldInReset {c : Instr} {s t : State} (h : heldInReset s) (run : exec c s = .next t) : heldInReset t := by
  cases u : actsUnclocked c with
  | false => exact (exec_clocked u).heldInReset run h
  | true => exact exec_unclocked_heldInReset u h run

/-- Settles O7: the clocked logic drives no pin and stands still in reset, and the pins' commands change nothing else in it or lead
into it. -/
theorem heldInResetStaysReset : Obligations.HeldInResetStaysReset := by
  unfold Obligations.HeldInResetStaysReset
  intro s t held run
  exact step_keeps (fun s q h => heldInReset_outside h id) (fun c u v h e => exec_heldInReset h e)
    (fun u h => idleTick_heldInReset h) held run

end Sys2Proof.Machine
end

section
/-! PROOFS. Fuses, straps, the thermal trip, and what the power and reset pins, SMBus and the test access port do (R451, R474, R478, R481,
R486, R487). -/
namespace Sys2Proof.Machine

/-! ### Fuses (R451) -/

theorem exec_held {c : Instr} {s t : State} (clockedCommand : actsUnclocked c = false) (run : exec c s = .next t) : Held s t := by
  obtain ⟨u, answers, held, -⟩ := exec_clocked (s := s) clockedCommand
  rw [answers] at run
  cases run
  exact held

/-- Nothing but the clocked logic reaches the fuses. -/
theorem mayWrite_fuses_of_unclocked {c : Instr} (u : actsUnclocked c = true) : (mayWrite c).contains .fuses = false := by
  cases c with
  | pllLock | resetNRelease | resetNAssert | pwrGoodFall | pwrGoodRise | vioRise | vioFall | thermtrip | smbusRead
  | tapInstruction => rfl
  | _ => cases u

/-- Settles O11: the clocked logic holds the fuses but for a rollback counter that grows, and the pins do not reach them. -/
theorem fusesOnlyAdvance : Obligations.FusesOnlyAdvance := by
  unfold Obligations.FusesOnlyAdvance
  intro c s t run
  cases u : actsUnclocked c with
  | false =>
    obtain ⟨-, grows, rest⟩ := exec_held u run
    exact ⟨grows, by rw [rest], by rw [rest], by rw [rest]⟩
  | true =>
    rw [show t.fuses = s.fuses from exec_only c s t run .fuses (mayWrite_fuses_of_unclocked u)]
    exact ⟨le_rfl, rfl, rfl, rfl⟩

/-! ### Straps and the thermal trip (R474, R481) -/

/-- A command that samples the straps: a release of RESET_N, or the rise of PWR_GOOD that a release waits for. -/
def samplesStraps (c : Instr) (p : Pins) : Prop :=
  (c = .pwrGoodRise ∧ p.releasePending = true) ∨ ((∃ us, c = .resetNRelease us) ∧ p.resetN = false)

/-- How a command leaves straps and trip: what the board ties stays, the straps stay but where they are sampled, and a trip ends
with power alone. -/
structure PinsHeld (c : Instr) (p q : Pins) : Prop where
  posPin : q.posPin = p.posPin
  twinPin : q.twinPin = p.twinPin
  straps : (q.pos = p.pos ∧ q.twin = p.twin) ∨ samplesStraps c p
  trip : p.trip = true → q.trip = true ∨ c = .pwrGoodFall ∨ c = .vioFall

theorem PinsHeld.refl (c : Instr) (p : Pins) : PinsHeld c p p := ⟨rfl, rfl, .inl ⟨rfl, rfl⟩, .inl⟩

theorem exec_pinsHeld {c : Instr} {s t : State} (run : exec c s = .next t) : PinsHeld c s.pins t.pins := by
  cases u : actsUnclocked c with
  | false =>
    obtain ⟨pins, -⟩ := exec_held u run
    rw [pins]
    exact ⟨rfl, rfl, .inl ⟨rfl, rfl⟩, .inl⟩
  | true =>
    cases c with
    | pllLock =>
      rw [show t.pins = s.pins from exec_only .pllLock s t run .pins rfl]
      exact .refl _ _
    | resetNRelease us =>
      change execResetNRelease us s = _ at run
      unfold execResetNRelease at run
      split at run
      · cases run
      cases run
      split
      case isTrue => exact .refl _ _
      case isFalse held =>
        have low : s.pins.resetN = false := by simp_all
        extract_lets v
        split
        · exact ⟨rfl, rfl, .inr (.inr ⟨⟨us, rfl⟩, low⟩), .inl⟩
        · exact ⟨rfl, rfl, .inl ⟨rfl, rfl⟩, .inl⟩
    | resetNAssert => cases run; split <;> exact ⟨rfl, rfl, .inl ⟨rfl, rfl⟩, .inl⟩
    | pwrGoodFall => cases run; split <;> exact ⟨rfl, rfl, .inl ⟨rfl, rfl⟩, fun _ => .inr (.inl rfl)⟩
    | vioFall => cases run; exact ⟨rfl, rfl, .inl ⟨rfl, rfl⟩, fun _ => .inr (.inr rfl)⟩
    | pwrGoodRise =>
      cases run
      split
      · exact .refl _ _
      · extract_lets v
        split
        case isTrue waits => exact ⟨rfl, rfl, .inr (.inl ⟨rfl, waits⟩), .inl⟩
        case isFalse => exact ⟨rfl, rfl, .inl ⟨rfl, rfl⟩, .inl⟩
    | vioRise => cases run; split <;> exact ⟨rfl, rfl, .inl ⟨rfl, rfl⟩, .inl⟩
    | thermtrip =>
      cases run
      split
      · exact ⟨rfl, rfl, .inl ⟨rfl, rfl⟩, fun _ => .inl rfl⟩
      · exact .refl _ _
    | smbusRead cmd word => cases run; split <;> exact .refl _ _
    | tapInstruction i =>
      cases run
      split
      · unfold State.scan
        split <;> exact ⟨rfl, rfl, .inl ⟨rfl, rfl⟩, .inl⟩
      · exact .refl _ _
    | _ => cases u

/-- Settles O12: `exec_pinsHeld` names the two commands that sample; the release is written out. -/
theorem strapsAreHeld : Obligations.StrapsAreHeld := by
  unfold Obligations.StrapsAreHeld
  intro c s t run
  obtain ⟨posPin, twinPin, straps, -⟩ := exec_pinsHeld run
  refine ⟨posPin, twinPin, fun noRelease noRise => straps.resolve_right ?_, fun high noRise => straps.resolve_right ?_, ?_⟩
  · rintro (rise | ⟨⟨us, release⟩, -⟩)
    exacts [noRise rise, noRelease us release]
  · rintro (rise | ⟨-, low⟩)
    · exact noRise rise
    · rw [high] at low; cases low
  · rintro us rfl vio good low
    change execResetNRelease us s = _ at run
    unfold execResetNRelease at run
    split at run
    · cases run
    simp only [vio, good, low, Bool.not_true, Bool.or_self, Bool.false_eq_true, if_false, if_true] at run
    cases run
    exact ⟨rfl, rfl⟩

/-- Settles O13: only the falls of PWR_GOOD and VIO end a trip, and with it no clock runs. -/
theorem thermalTripHolds : Obligations.ThermalTripHolds := by
  unfold Obligations.ThermalTripHolds
  intro c s t trip noGood noVio run
  have held : t.pins.trip = true := ((exec_pinsHeld run).trip trip).resolve_right (not_or.2 ⟨noGood, noVio⟩)
  exact ⟨held, by unfold State.clocked; simp [held]⟩

/-! ### The power and reset pins (R474, R478, R481) -/

section
variable {s : State} (vio : s.pins.vio = true)

theorem exec_vioFall (s : State) : exec .vioFall s = .next { State.reset with
    pins := { s.pins with
      vio := false, pwrGood := false, resetN := false, releasePending := false, trip := false, lastTrip := false
      tap := .bypass }
    fuses := s.fuses, out := s.out, freeIx := s.freeIx, pending := s.pending } := rfl

theorem exec_vioRise (off : s.pins.vio = false) :
    exec .vioRise s = .next { s with pins := { s.pins with vio := true, lastTrip := false } } :=
  congrArg Host.Outcome.next (if_neg (by simp [off]))

include vio

theorem exec_thermtrip : exec .thermtrip s = .next { s with pins := { s.pins with trip := true, lastTrip := true } } :=
  congrArg Host.Outcome.next (if_pos vio)

theorem exec_pwrGoodFall : exec .pwrGoodFall s = .next { State.reset with
    pins := { s.pins with pwrGood := false, trip := false, tap := .bypass }, fuses := s.fuses, out := s.out,
    freeIx := s.freeIx, pending := s.pending } :=
  congrArg Host.Outcome.next (if_neg (by simp [vio]))

theorem exec_resetNAssert : exec .resetNAssert s = .next { State.reset with
    pins := { s.pins with resetN := false, releasePending := false }, fuses := s.fuses, out := s.out,
    freeIx := s.freeIx, pending := s.pending } :=
  congrArg Host.Outcome.next (if_neg (by simp [vio]))

theorem exec_pwrGoodRise : exec .pwrGoodRise s = .next (if s.pins.releasePending = true
    then { s with pins := { s.pins with
      pwrGood := true, releasePending := false, pos := s.pins.posPin, twin := s.pins.twinPin, tap := .bypass } }
    else { s with pins := { s.pins with pwrGood := true } }) :=
  congrArg Host.Outcome.next (if_neg (by simp [vio]))

theorem exec_resetNRelease {us : Nat} (low : s.pins.resetN = false) (long : 10 ≤ us) :
    exec (.resetNRelease us) s = .next (if s.pins.pwrGood = true
      then { s with pins := { s.pins with
        resetN := true, releasePending := false, pos := s.pins.posPin, twin := s.pins.twinPin, tap := .bypass } }
      else { s with pins := { s.pins with resetN := true, releasePending := true } }) :=
  (if_neg (Nat.not_lt.2 long)).trans (congrArg Host.Outcome.next (if_neg (by simp [vio, low])))

end

/-- Settles O15: each pin's command written out; the state after a fall is a `State.restart`, which is held in reset. -/
theorem powerAndResetPins : Obligations.PowerAndResetPins := by
  unfold Obligations.PowerAndResetPins
  refine ⟨fun s => ⟨fun vio => ⟨_, exec_resetNAssert vio, rfl, rfl, fun _ => rfl⟩,
      fun vio => ⟨_, exec_pwrGoodFall vio, rfl, rfl, fun _ => rfl⟩, _, exec_vioFall s, rfl, rfl, rfl, rfl, fun _ => rfl⟩,
    fun s => ⟨fun vio => ⟨exec_thermtrip vio, exec_pwrGoodFall vio, exec_resetNAssert vio, fun free => ?_, fun waits => ?_,
      fun low us long => ⟨fun good => ?_, fun bad => ?_⟩⟩, exec_vioRise, exec_vioFall s⟩⟩
  · rw [exec_pwrGoodRise vio, if_neg (by simp [free])]
  · rw [exec_pwrGoodRise vio, if_pos waits]
  · rw [exec_resetNRelease vio low long, if_pos good]
  · rw [exec_resetNRelease vio low long, if_neg (by simp [bad])]

/-! ### SMBus (R487) -/

/-- The hottest junction in a byte, once it has been measured and the device is up. -/
theorem State.smbusValue_hottest (s : State) : s.smbusValue 1 =
    if s.pins.pwrGood && s.pins.resetN then (s.power.tmax.map (min · 255)).getD 0xFF else 0xFF := by
  unfold State.smbusValue
  cases s.power.tmax <;> cases s.pins.pwrGood <;> cases s.pins.resetN <;> rfl

/-- Settles O16: a row of `State.smbusValue` for each command of the table. -/
theorem smbusAnswersByTable : Obligations.SmbusAnswersByTable := by
  unfold Obligations.SmbusAnswersByTable
  intro s cmd word vio
  refine ⟨s.smbusValue cmd.toNat, congrArg Host.Outcome.next (if_pos vio), ?state, ?hottest, ?watts, ?status, ?grade, ?rest⟩
  case state =>
    rintro rfl
    change (if !s.pins.pwrGood || !s.pins.resetN then 0xFF else s.boot.dev) = _
    cases s.pins.pwrGood <;> cases s.pins.resetN <;> rfl
  case hottest =>
    rintro rfl
    refine ⟨fun x good reset measured => ?_, fun unknown => ?_⟩
    · rw [show (0x01#8 : BitVec 8).toNat = 1 from rfl, State.smbusValue_hottest, good, reset, measured]; rfl
    · refine (State.smbusValue_hottest s).trans ?_
      rcases unknown with down | down | none
      · rw [down]; rfl
      · rw [down, Bool.and_false]; rfl
      · rw [none]; exact ite_self _
  case watts =>
    rintro rfl good reset
    exact if_neg (by simp [good, reset])
  case status => rintro rfl; rfl
  case grade => rintro rfl; rfl
  case rest =>
    intro other
    have unlisted {n : Nat} (e : cmd.toNat = n) (small : n < 256)
        (listed : BitVec.ofNat 8 n ∈ [0x00#8, 0x01#8, 0x02#8, 0x04#8, 0x05#8]) :
        False := by
      obtain rfl : cmd = BitVec.ofNat 8 n := BitVec.eq_of_toNat_eq (by rw [e, BitVec.toNat_ofNat, Nat.mod_eq_of_lt small])
      exact other listed
    unfold State.smbusValue
    extract_lets down
    split
    case h_6 => rfl
    all_goals exact (unlisted (by assumption) (by decide) (by decide)).elim

/-! ### The test access port (R486) -/

/-- The lands are driven by the EXTEST instructions alone. -/
theorem tapDrives_iff (i : TapInstr) : tapDrives i = true ↔ i ∈ [TapInstr.extest, .extestPulse, .extestTrain] := by
  cases i <;> simp [tapDrives]

/-- With power good and RESET_N low a scan goes to the register that its instruction selects. -/
theorem exec_tapInstruction {s : State} {i : TapInstr} (din : List Bool) (vio : s.pins.vio = true) (good : s.pins.pwrGood = true)
    (low : s.pins.resetN = false) : exec (.tapInstruction ⟨i, din⟩) s = .next (s.scan (tapDoes i) din) :=
  congrArg Host.Outcome.next (if_pos (by simp [vio, good, low]))

/-- Settles O17: the instruction that the port executes selects one of the two registers of `State.scan`. -/
theorem testPortReachesNothingElse : Obligations.TestPortReachesNothingElse := by
  unfold Obligations.TestPortReachesNothingElse
  intro s i din
  refine ⟨fun vio good low => ⟨tapDoes i, ?other, ?own, fun selects => ?bypass, fun selects => ?boundary⟩,
    fun off => congrArg Host.Outcome.next (if_neg (by simp [off]))⟩
  case other => rintro n rfl; rfl
  case own =>
    intro own
    cases i with
    | other n => exact absurd rfl (own n)
    | _ => rfl
  case bypass =>
    rw [exec_tapInstruction din vio good low]
    exact congrArg Host.Outcome.next (if_pos selects)
  case boundary =>
    intro all held
    rw [exec_tapInstruction din vio good low]
    refine congrArg Host.Outcome.next ((if_neg selects).trans ?_)
    simp only [tapDrives_iff]
    rfl

end Sys2Proof.Machine
end

section
/-! PROOFS. How the device state moves: the checks of an image, the opening inspection, DEVICE_FATAL and reset (R391, R417, R447 to
R451). -/
namespace Sys2Proof.Machine

/-! ### The checks of an image end (R448, R450) -/

section
variable {s : State} {b : List Byte} {whole : Bool}

theorem State.verifyImage_of_none (e : s.boot.buffer = none) : s.verifyImage = s := by
  unfold State.verifyImage; rw [e]

theorem State.verifyImage_read (closed : s.boot.dev = 0) (read : s.boot.buffer = some (b, whole)) :
    s.verifyImage = match imageCause s.fuses (s.live .lemef 0 0x148) b whole with
      | 0 => { s with boot := { s.boot with buffer := none } }.startImage b
      | c => { s with boot := { s.boot with phase := 1, reject := c, buffer := none } }.record
          (s.mkEv 0x8101 0 none .security 0 0 c) := by
  unfold State.verifyImage
  rw [read]
  exact if_neg (by simp [closed])

theorem State.verifyImage_starts (closed : s.boot.dev = 0) (read : s.boot.buffer = some (b, whole))
    (pass : imageCause s.fuses (s.live .lemef 0 0x148) b whole = 0) :
    s.verifyImage = { s with boot := { s.boot with buffer := none } }.startImage b := by
  rw [State.verifyImage_read closed read, pass]
  rfl

theorem State.verifyImage_rejects {c : Nat} (closed : s.boot.dev = 0) (read : s.boot.buffer = some (b, whole))
    (fail : imageCause s.fuses (s.live .lemef 0 0x148) b whole = c + 1) :
    s.verifyImage = { s with boot := { s.boot with phase := 1, reject := c + 1, buffer := none } }.record
        (s.mkEv 0x8101 0 none .security 0 0 (c + 1)) := by
  rw [State.verifyImage_read closed read, fail]
  rfl

theorem State.startImage_boot (s : State) (b : List Byte) : (s.startImage b).boot = { s.boot with
    image := some ⟨BitVec.ofNat 32 (leAt b 8 4), leAt b 16 8, bit (leAt b 24 1) 0, sha512 b⟩, phase := 4, dev := 1 } := by
  unfold State.startImage
  refine (State.foldl_boot (f := fun (u : State) p => u.setAisle p { u.aisle p with state := 1 }) (fun _ _ => rfl) _ _).trans ?_
  exact State.refreshed_only .boot rfl

theorem State.record_boot (s : State) (e : Ev) : (s.record e).boot = s.boot := State.record_only .boot rfl

end

/-- How the checks of an image end: nothing has been read, the device is not CLOSED, the firmware starts, or the image is rejected. -/
theorem State.verifyImage_cases {P : State → Prop} {s : State} (unread : s.boot.buffer = none → P s)
    (opened : s.boot.dev ≠ 0 → P { s with boot := { s.boot with buffer := none } })
    (starts : s.boot.dev = 0 → s.boot.buffer.isSome = true → ∀ b, P ({ s with boot := { s.boot with buffer := none } }.startImage b))
    (rejects : ∀ c, P ({ s with boot := { s.boot with phase := 1, reject := c, buffer := none } }.record
      (s.mkEv 0x8101 0 none .security 0 0 c))) : P s.verifyImage := by
  rcases read : s.boot.buffer with _ | ⟨b, whole⟩
  · rw [State.verifyImage_of_none read]; exact unread read
  by_cases closed : s.boot.dev = 0
  · rcases cause : imageCause s.fuses (s.live .lemef 0 0x148) b whole with _ | c
    · rw [State.verifyImage_starts closed read cause]; exact starts closed (by rw [read]; rfl) b
    · rw [State.verifyImage_rejects closed read cause]; exact rejects (c + 1)
  · rw [State.verifyImage_of_open closed]; exact opened closed

/-- What the end of the checks does to the device state: it stands, or the firmware of an image that has been read starts. -/
theorem State.verifyImage_dev (s : State) : s.verifyImage.boot.dev = s.boot.dev ∨
    (s.boot.dev = 0 ∧ s.boot.buffer.isSome = true ∧ s.verifyImage.boot.dev = 1) :=
  State.verifyImage_cases (P := fun u => u.boot.dev = s.boot.dev ∨ (s.boot.dev = 0 ∧ s.boot.buffer.isSome = true ∧ u.boot.dev = 1))
    (fun _ => .inl rfl) (fun _ => .inl rfl) (fun closed read b => .inr ⟨closed, read, by rw [State.startImage_boot]⟩)
    (fun _ => .inl (by rw [State.record_boot]))

theorem State.verifyImage_buffer (s : State) : s.verifyImage.boot.buffer = none :=
  State.verifyImage_cases (P := fun u => u.boot.buffer = none) id (fun _ => rfl)
    (fun _ _ _ => by rw [State.startImage_boot]) (fun _ => by rw [State.record_boot])

/-- An image's rejection is no DEVICE_FATAL event. -/
theorem State.verifyImage_fatal (s : State) : s.verifyImage.events.fatal = s.events.fatal :=
  State.verifyImage_cases (P := fun u => u.events.fatal = s.events.fatal) (fun _ => rfl) (fun _ => rfl)
    (fun _ _ _ => congrArg Events.fatal (State.startImage_only .events rfl))
    (fun _ => by rw [State.record_events]; rfl)

/-! ### STOPPED goes with a DEVICE_FATAL event (R391, R447) -/

/-- A device that was not stopped stops on the DEVICE_FATAL event that is recorded. -/
def Stops (s t : State) : Prop := s.boot.dev ≠ 3 ∧ s.events.fatal = none ∧ t.boot.dev = 3 ∧
  ∃ r, t.events.fatal = some r ∧ r.ev.sev = 4

theorem State.fatalOk.fatal_eq_none {s : State} (ok : s.fatalOk) (runs : s.boot.dev ≠ 3) : s.events.fatal = none :=
  Option.not_isSome_iff_eq_none.1 fun h => runs (ok.1.2 h)

theorem State.fatalOk_of_running {s : State} (runs : s.boot.dev ≠ 3) (none : s.events.fatal = none) : s.fatalOk := by
  refine ⟨⟨fun stopped => absurd stopped runs, fun h => ?_⟩, fun r h => ?_⟩ <;> rw [none] at h <;> cases h

theorem State.reset_fatalOk : State.reset.fatalOk := State.fatalOk_of_running (by decide) rfl

theorem Stops.of_fatalOk {s t : State} (ok : s.fatalOk) (runs : s.boot.dev ≠ 3) (after : t.fatalOk) (stopped : t.boot.dev = 3) :
    Stops s t := by
  obtain ⟨r, e⟩ := Option.isSome_iff_exists.1 (after.1.1 stopped)
  exact ⟨runs, ok.fatal_eq_none runs, stopped, r, e, after.2 r e⟩

/-- What raises no more than events leaves the device state, or stops the device. -/
theorem DevHeld.moves {s t : State} (h : DevHeld s t) (ok : s.fatalOk) : t.boot.dev = s.boot.dev ∨ Stops s t := by
  obtain ⟨stands | stopped, keeps, -⟩ := h
  · exact .inl stands
  · by_cases was : s.boot.dev = 3
    · exact .inl (stopped.trans was.symm)
    · exact .inr (.of_fatalOk ok was (keeps ok) stopped)

theorem State.fatalOk.verifyImage {s : State} (ok : s.fatalOk) : s.verifyImage.fatalOk := by
  obtain same | ⟨closed, -, opening⟩ := s.verifyImage_dev
  · exact (DevHeld.of same s.verifyImage_fatal).2.1 ok
  · exact State.fatalOk_of_running (by omega) (s.verifyImage_fatal.trans (ok.fatal_eq_none (by omega)))

/-! ### The opening inspection's end (R417, R447) -/

theorem State.inspectedBy_devHeld (s : State) (f : Inspection) : DevHeld s (s.inspectedBy f) := by
  unfold State.inspectedBy
  exact (((DevHeld.refl s).upd).step State.testDevice_devHeld).step
    (State.chooseClerk_devHeld.step (Only.devHeld State.placeTable_only))

/-- The end of the inspection, with the checks of an image that has been read before it. -/
theorem exec_openingInspectionDone_verified (s : State) (f : Inspection) :
    exec (.openingInspectionDone f) s = .next (s.on (if s.verifyImage.boot.dev != 1 then s.verifyImage
      else if (s.verifyImage.inspectedBy f).boot.dev = 3 then s.verifyImage.inspectedBy f
      else (s.verifyImage.inspectedBy f).advanceFuse.startRunning)) := by
  have inspected : { s.verifyImage with boot := { s.verifyImage.boot with inspected := true } }
      = { s.verifyImage with boot := { s.verifyImage.boot with buffer := none, inspected := true } } := by
    rw [← s.verifyImage_buffer]
  change execOpeningInspectionDone f s = _
  unfold execOpeningInspectionDone State.inspectedBy State.startRunning
  dsimp only
  rw [inspected]

/-- A device that enters RUNNING has recorded no DEVICE_FATAL event. -/
theorem State.startRunning_fatalOk {u : State} (ok : u.fatalOk) (runs : u.boot.dev ≠ 3) : u.advanceFuse.startRunning.fatalOk := by
  have boot : u.advanceFuse.boot = u.boot := u.advanceFuse_frame .boot rfl
  have after : u.advanceFuse.fatalOk := State.advanceFuse_devHeld.2.1 ok
  exact State.fatalOk_of_running (by decide : (2 : Nat) ≠ 3)
    (show u.advanceFuse.events.fatal = none from after.fatal_eq_none (by rw [boot]; exact runs))

theorem exec_openingInspectionDone_moves {s t : State} {f : Inspection} (ok : s.fatalOk)
    (run : exec (.openingInspectionDone f) s = .next t) : t.fatalOk ∧ (t.boot.dev = s.boot.dev ∨ Stops s t ∨
      (t.boot.dev = 2 ∧ (s.boot.dev = 1 ∨ (s.boot.dev = 0 ∧ s.boot.buffer.isSome = true)))) := by
  rw [exec_openingInspectionDone_verified] at run
  cases run
  unfold State.on
  split
  case isFalse => exact ⟨ok, .inl rfl⟩
  case isTrue =>
    have before : s.verifyImage.boot.dev = 1 → s.boot.dev = 1 ∨ (s.boot.dev = 0 ∧ s.boot.buffer.isSome = true) := fun opening =>
      s.verifyImage_dev.elim (fun same => .inl (same.symm.trans opening)) fun ⟨closed, read, _⟩ => .inr ⟨closed, read⟩
    have held := s.verifyImage.inspectedBy_devHeld f
    have inspected : (s.verifyImage.inspectedBy f).fatalOk := held.2.1 ok.verifyImage
    split
    case isTrue other =>
      refine ⟨ok.verifyImage, .inl ?_⟩
      obtain same | ⟨-, -, opening⟩ := s.verifyImage_dev
      · exact same
      · rw [opening] at other; cases other
    case isFalse opening =>
      have opening : s.verifyImage.boot.dev = 1 := by simpa using opening
      split
      case isTrue stopped =>
        have runs : s.boot.dev ≠ 3 := by have := before opening; omega
        exact ⟨inspected, .inr (.inl (.of_fatalOk ok runs (t := s.within (s.verifyImage.inspectedBy f)) inspected stopped))⟩
      case isFalse runs =>
        exact ⟨State.startRunning_fatalOk inspected runs, .inr (.inr ⟨rfl, before opening⟩)⟩

/-! ### Every command -/

/-- A command other than the inspection's end and those that lead into reset. -/
def raisesOnly : Instr → Bool
  | .openingInspectionDone .. | .resetNAssert | .pwrGoodFall | .vioFall => false
  | _ => true

theorem exec_devHeld (c : Instr) (s : State) (h : raisesOnly c = true) : Nxt (DevHeld s) (exec c s) := by
  cases c with
  | pllLock => exact Only.devHeldNxt execPllLock_only
  | roundBoundary => exact execRoundBoundary_devHeld
  | powerFrameUpdate => exact execPowerFrameUpdate_devHeld
  | syncPeriodBoundary => exact execSyncPeriodBoundary_devHeld
  | bellsyncPulseCheck => exact execBellsyncPulseCheck_devHeld
  | timeMarkReceive => exact execTimeMarkReceive_devHeld (a3 := 0)
  | syncWindowExpiry => exact execSyncWindowExpiry_devHeld
  | bellrefLoss => exact execBellrefLoss_devHeld
  | pllRelock => exact Only.devHeldNxt execPllRelock_only
  | acquire => exact execAcquire_devHeld
  | kupReport => exact Only.devHeldNxt execKupReport_only
  | kupReceive => exact Only.devHeldNxt (execKupReceive_only (a2 := 0))
  | kmasterIntake => exact Only.devHeldNxt execKmasterIntake_only
  | kdownReceive => exact Only.devHeldNxt execKdownReceive_only
  | streamChunkArrival => exact execStreamChunkArrival_devHeld
  | ldw => exact execLdw_devHeld
  | mma => exact execMma_devHeld
  | vop => exact execVop_devHeld
  | vred => exact execVred_devHeld
  | vnormStat => exact execVnormStat_devHeld
  | vnormApply => exact execVnormApply_devHeld
  | vsmaxStat => exact execVsmaxStat_devHeld
  | vsmaxApply => exact execVsmaxApply_devHeld
  | vsfn => exact execVsfn_devHeld
  | pack => exact execPack_devHeld
  | unpack => exact execUnpack_devHeld
  | groupidx => exact execGroupidx_devHeld
  | get => exact execGet_devHeld
  | put => exact execPut_devHeld
  | gather => exact execGather_devHeld
  | ahead => exact execAhead_devHeld
  | send => exact execSend_devHeld
  | bulk => exact execBulk_devHeld
  | grant => exact execGrant_devHeld
  | checkcmp => exact execCheckcmp_devHeld
  | waitw => exact execWaitw_devHeld
  | stepEnd => exact execStepEnd_devHeld
  | wordCompletion => exact execWordCompletion_devHeld
  | hbmBlockArrival => exact execHbmBlockArrival_devHeld
  | porterTransferComplete => exact execPorterTransferComplete_devHeld
  | hbmBlockWrite => exact execHbmBlockWrite_devHeld
  | porterTagTimeout => exact execPorterTagTimeout_devHeld
  | pageFaultTagRelease => exact execPageFaultTagRelease_devHeld
  | porterStarveTimer => exact execPorterStarveTimer_devHeld
  | aheadBlockArrival => exact execAheadBlockArrival_devHeld
  | stealerPortGrant => exact execStealerPortGrant_devHeld
  | scrubComplete => exact execScrubComplete_devHeld
  | bankWakeComplete => exact execBankWakeComplete_devHeld
  | storeTestRegion => exact execStoreTestRegion_devHeld
  | msgFlit0Arrival => exact execMsgFlit0Arrival_devHeld
  | msgLastFlitArrival => exact execMsgLastFlitArrival_devHeld
  | msgTruncationTimeout => exact execMsgTruncationTimeout_devHeld
  | bridgeFlitReceive => exact Only.devHeldNxt execBridgeFlitReceive_only
  | bridgeNakReceive => exact execBridgeNakReceive_devHeld
  | arbCycleDecision => exact execArbCycleDecision_devHeld
  | stepCtrlGo => exact execStepCtrlGo_devHeld
  | stepCtrlAbort => exact execStepCtrlAbort_devHeld
  | stepDrainEnd => exact execStepDrainEnd_devHeld
  | ringPtrWrite => exact execRingPtrWrite_devHeld
  | checkValWrite => exact execCheckValWrite_devHeld
  | rerunArm => exact execRerunArm_devHeld
  | xlateInval => exact execXlateInval_devHeld
  | commit => exact execCommit_devHeld
  | grpStepWrite => exact Only.devHeldNxt execGrpStepWrite_only
  | ledgerSnap => exact execLedgerSnap_devHeld
  | ledgerRelease => exact execLedgerRelease_devHeld
  | aisleRetrain => exact execAisleRetrain_devHeld
  | bootGo => exact execBootGo_devHeld
  | ringCtrlEnable => exact execRingCtrlEnable_devHeld
  | registerWrite => exact execRegisterWrite_devHeld
  | lowWordRead => exact execLowWordRead_devHeld
  | rcFieldRead => exact execRcFieldRead_devHeld
  | gradientFrameArrival => exact execGradientFrameArrival_devHeld
  | gradMessageReceive => exact Only.devHeldNxt execGradMessageReceive_only
  | tensorBlockUpdate => exact execTensorBlockUpdate_devHeld
  | wcopyMessageReceive => exact execWcopyMessageReceive_devHeld
  | scheduleCompute => exact Only.devHeldNxt execScheduleCompute_only
  | stepClose => exact execStepClose_devHeld
  | flagWordSend => exact execFlagWordSend_devHeld
  | flagWordReceive => exact execFlagWordReceive_devHeld
  | guardArm => exact execGuardArm_devHeld
  | guardPeerDeadline => exact Only.devHeldNxt execGuardPeerDeadline_only
  | aisleFlitReceive => exact execAisleFlitReceive_devHeld
  | aisleMessageReceive => exact execAisleMessageReceive_devHeld
  | aisleAckTimeout => exact execAisleAckTimeout_devHeld
  | aisleNakRepeat => exact Only.devHeldNxt execAisleNakRepeat_only
  | aisleLaneLockLoss => exact execAisleLaneLockLoss_devHeld
  | aisleLinkTimeout => exact execAisleLinkTimeout_devHeld
  | aisleLanesLocked => exact Only.devHeldNxt execAisleLanesLocked_only
  | identReceive => exact execIdentReceive_devHeld
  | creditRevoke => exact execCreditRevoke_devHeld
  | sealReceive => exact execSealReceive_devHeld
  | sealTableReceive => exact execSealTableReceive_devHeld
  | sealTableTimeout => exact execSealTableTimeout_devHeld
  | abortReceive => exact execAbortReceive_devHeld
  | doorlineInval => exact execDoorlineInval_devHeld
  | doorlinePoll => exact execDoorlinePoll_devHeld
  | jobOpen => exact execJobOpen_devHeld
  | jobLoad => exact execJobLoad_devHeld
  | jobMap => exact execJobMap_devHeld
  | stepRun => exact execStepRun_devHeld
  | stepAbort => exact execStepAbort_devHeld
  | jobClose => exact execJobClose_devHeld
  | jobSuspend => exact execJobSuspend_devHeld
  | jobResume => exact execJobResume_devHeld
  | selftest => exact execSelftest_devHeld
  | selftestQueuedStart => exact execSelftestQueuedStart_devHeld
  | fenceStall => exact execFenceStall_devHeld
  | unfenceStall => exact execUnfenceStall_devHeld
  | setPolicy => exact execSetPolicy_devHeld
  | twinBind => exact execTwinBind_devHeld
  | echo => exact execEcho_devHeld
  | summary => exact execSummary_devHeld
  | deadlineTimer => exact execDeadlineTimer_devHeld
  | ledgerReconcile => exact execLedgerReconcile_devHeld
  | pitchMove => exact execPitchMove_devHeld
  | preemptResume => exact execPreemptResume_devHeld
  | stepWatchdogExpiry => exact execStepWatchdogExpiry_devHeld
  | stepRerunGo => exact execStepRerunGo_devHeld
  | engineBusyExpiry => exact execEngineBusyExpiry_devHeld
  | clerkWatchdogExpiry => exact execClerkWatchdogExpiry_devHeld
  | companionLossTimeout => exact execCompanionLossTimeout_devHeld
  | statusHeartbeat => exact Only.devHeldNxt execStatusHeartbeat_only
  | companionRead => exact execCompanionRead_devHeld
  | companionWrite => exact execCompanionWrite_devHeld
  | inval => exact Only.devHeldNxt execInval_only
  | lemefHalfLost => exact execLemefHalfLost_devHeld
  | lemefTrained => exact execLemefTrained_devHeld
  | resetNRelease => exact Only.devHeldNxt execResetNRelease_only
  | pwrGoodRise => exact Only.devHeldNxt execPwrGoodRise_only
  | bootTakeover => exact execBootTakeover_devHeld
  | imageFetchComplete => exact execImageFetchComplete_devHeld
  | thermtrip => exact Only.devHeldNxt execThermtrip_only
  | smbusRead => exact Only.devHeldNxt execSmbusRead_only
  | tapInstruction => exact Only.devHeldNxt execTapInstruction_only
  | traceCounterSnapshot => exact Only.devHeldNxt execTraceCounterSnapshot_only
  | lemefSlotReceive => exact execLemefSlotReceive_devHeld
  | lemefAckTimeout => exact execLemefAckTimeout_devHeld
  | lemefRetrain => exact Only.devHeldNxt execLemefRetrain_only
  | bridgeChannelRetrain => exact Only.devHeldNxt execBridgeChannelRetrain_only
  | clerkResumesService => exact execClerkResumesService_devHeld
  | vioRise => exact Only.devHeldNxt execVioRise_only
  | setPolicySyncTimeout => exact execSetPolicySyncTimeout_devHeld
  | openingInspectionDone | resetNAssert | pwrGoodFall | vioFall => cases h

/-- What a command does to the device state. -/
theorem exec_moves {c : Instr} {s t : State} (ok : s.fatalOk) (run : exec c s = .next t) : t.fatalOk ∧
    (t.boot.dev = s.boot.dev ∨ Stops s t ∨
      ((∃ f, c = .openingInspectionDone f) ∧ t.boot.dev = 2 ∧
        (s.boot.dev = 1 ∨ (s.boot.dev = 0 ∧ s.boot.buffer.isSome = true))) ∨
      ((c = .resetNAssert ∨ c = .pwrGoodFall ∨ c = .vioFall) ∧ t.boot.dev = 0)) := by
  have restarted (p : Pins) : ({ s with pins := p } : State).restart.fatalOk := State.reset_fatalOk
  cases u : raisesOnly c with
  | true =>
    have held := exec_devHeld c s u t run
    exact ⟨held.2.1 ok, (held.moves ok).imp_right .inl⟩
  | false =>
    cases c with
    | openingInspectionDone f =>
      obtain ⟨after, same | stops | opened⟩ := exec_openingInspectionDone_moves ok run
      exacts [⟨after, .inl same⟩, ⟨after, .inr (.inl stops)⟩, ⟨after, .inr (.inr (.inl ⟨⟨f, rfl⟩, opened⟩))⟩]
    | resetNAssert =>
      cases run
      split
      · exact ⟨ok, .inl rfl⟩
      · exact ⟨restarted _, .inr (.inr (.inr ⟨.inl rfl, rfl⟩))⟩
    | pwrGoodFall =>
      cases run
      split
      · exact ⟨ok, .inl rfl⟩
      · exact ⟨restarted _, .inr (.inr (.inr ⟨.inr (.inl rfl), rfl⟩))⟩
    | vioFall => cases run; exact ⟨restarted _, .inr (.inr (.inr ⟨.inr (.inr rfl), rfl⟩))⟩
    | _ => cases u

/-! ### A tick without a command -/

/-- What has been read of an image is as it was. -/
def SameBuffer (s t : State) : Prop := t.boot.buffer = s.boot.buffer

theorem Only.sameBuffer {w : List Part} {s t : State} (h : Only w s t) (c : w.contains .boot = false := by decide) :
    SameBuffer s t := congrArg Boot.buffer (show t.boot = s.boot from h .boot c)

theorem SameBuffer.trans {r s t : State} (h : SameBuffer r s) (k : SameBuffer s t) : SameBuffer r t := Eq.trans k h

theorem SameBuffer.foldl {β : Type} {f : State → β → State} (k : ∀ u a, SameBuffer u (f u a)) (l : List β) (s : State) :
    SameBuffer s (l.foldl f s) :=
  holds_foldl (Q := SameBuffer s) rfl fun u a h => h.trans (k u a)

theorem State.raise_sameBuffer (s : State) (e : Ev) : SameBuffer s (s.raise e) := by
  by_cases fatal : e.sev = 4
  · exact (congrArg Boot.buffer (State.raise_fatal_boot fatal) : _)
  · exact congrArg Boot.buffer (State.raise_boot fatal)

theorem State.aheadWord_sameBuffer (s : State) (t sn j : Nat) (a : Ahead) : SameBuffer s (s.aheadWord t sn j a) := by
  unfold State.aheadWord
  extract_lets h vas r
  have fetched : SameBuffer s r.1 := holds_foldl (Q := Fst (SameBuffer s)) rfl fun acc va held =>
    SameBuffer.trans held (State.aheadOne_only.sameBuffer)
  split
  · exact fetched
  · exact fetched.trans (State.raise_sameBuffer _ _)

theorem State.effect_sameBuffer (s : State) (e : Eff) : SameBuffer s (s.effect e) := by
  cases e with
  | ev e => exact s.raise_sameBuffer e
  | ahead t sn job a => exact s.aheadWord_sameBuffer t sn job a
  | count p o n => exact State.count_only.sameBuffer
  | strike sn cause job => exact State.strike_only.sameBuffer
  | reads sn tag qs => exact SameBuffer.foldl (fun _ _ => State.takeRead_only.sameBuffer) _ _
  | lookup sn job va => exact holds_ite (Q := SameBuffer s) rfl State.useXlate_only.sameBuffer
  | remote t pos hdr words crc status => exact SameBuffer.trans State.charge_only.sameBuffer State.sendRemote_only.sameBuffer
  | emit o =>
    cases o with
    | msg => exact SameBuffer.trans State.charge_only.sameBuffer State.emit_only.sameBuffer
    | _ => exact State.emit_only.sameBuffer
  | issued t sn eng job pc d =>
    exact SameBuffer.trans State.chargeIssue_only.sameBuffer (holds_ite (Q := SameBuffer _) State.traceRec_only.sameBuffer rfl)

theorem State.touch_sameBuffer (s : State) (t sn : Nat) : SameBuffer s (s.touch t sn) :=
  SameBuffer.foldl (fun u e => u.effect_sameBuffer e) _ _

/-- What an idle tick does before the checks of an image end. -/
def State.idleActs (s : State) : State :=
  let a := s.advance (s.bell.now + 1)
  let u := a.stalls.foldl (fun u q => u.touch u.bell.now q.1) a
  u.aisles.foldl (fun u q => u.dueIdents u.bell.now q.1 16) u

theorem idleTick_clocked {s : State} (hc : s.clocked = true) : idleTick s = s.idleActs.verifyImage := by
  unfold idleTick State.idleActs
  simp only [hc, Bool.not_true, Bool.false_eq_true, if_false]

theorem State.idleActs_devHeld (s : State) : DevHeld s s.idleActs := by
  unfold State.idleActs
  extract_lets a u
  have touched : DevHeld s u :=
    holds_foldl (Q := DevHeld s) (Only.devHeld State.advance_only) fun v q h => h.step State.touch_devHeld
  exact holds_foldl (Q := DevHeld s) touched fun v q h => h.step (Only.devHeld State.dueIdents_only)

theorem State.idleActs_sameBuffer (s : State) : SameBuffer s s.idleActs := by
  unfold State.idleActs
  extract_lets a u
  have touched : SameBuffer a u := SameBuffer.foldl (fun v q => v.touch_sameBuffer _ _) _ _
  exact (State.advance_only.sameBuffer.trans touched).trans (SameBuffer.foldl (fun _ _ => State.dueIdents_only.sameBuffer) _ _)

theorem idleTick_moves {s : State} (ok : s.fatalOk) : (idleTick s).fatalOk ∧ ((idleTick s).boot.dev = s.boot.dev ∨
    Stops s (idleTick s) ∨ (s.boot.dev = 0 ∧ s.boot.buffer.isSome = true ∧ (idleTick s).boot.dev = 1)) := by
  cases hc : s.clocked with
  | false => rw [idleTick_stopped hc]; exact ⟨ok, .inl rfl⟩
  | true =>
    rw [idleTick_clocked hc]
    have held := s.idleActs_devHeld
    have after : s.idleActs.verifyImage.fatalOk := (held.2.1 ok).verifyImage
    refine ⟨after, ?_⟩
    obtain same | ⟨closed, read, opening⟩ := s.idleActs.verifyImage_dev
    · obtain stands | ⟨runs, -, stopped, -⟩ := held.moves ok
      · exact .inl (same.trans stands)
      · exact .inr (.inl (.of_fatalOk ok runs after (same.trans stopped)))
    · have was : s.boot.dev = 0 := by
        obtain stands | stopped := held.1
        · exact stands.symm.trans closed
        · omega
      exact .inr (.inr ⟨was, by rwa [← s.idleActs_sameBuffer], opening⟩)

/-- Settles O14: commands raise events and nothing more, but for the inspection's end and the falls into reset; in an idle tick an
image that has been read may start. -/
theorem deviceStateMovesAsListed : Obligations.DeviceStateMovesAsListed := by
  unfold Obligations.DeviceStateMovesAsListed
  intro stops
  refine ⟨State.reset_fatalOk, fun s t ok run => ?_, fun c s t ok run => (exec_moves ok run).2, fun s t ok empty run => ?_⟩
  · exact step_keeps (P := State.fatalOk) (fun _ _ h => h) (fun c u v h e => (exec_moves h e).1) (fun u h => (idleTick_moves h).1)
      ok run
  · rw [step_empty empty] at run
    cases run
    exact (idleTick_moves ok).2

end Sys2Proof.Machine
end

section
/-! PROOFS. BOOT_GO, and the verification of an image (R434, R447 to R450, R465). -/
namespace Sys2Proof.Machine

/-! ### BOOT_GO (R434, R447, R448, R465) -/

section
variable {s : State} {agent : Nat} (t : Nat) (v : W32)

/-- In state CLOSED only the companion writes, and only boot registers. -/
theorem State.mayWrite_bootGo (closed : s.boot.dev = 0) : s.mayWrite agent .lemef 0 0x14C = decide (4 ≤ agent) := by
  unfold State.mayWrite
  rw [if_pos closed]
  exact Bool.and_true _

theorem State.writeReg_bootGo (closed : s.boot.dev = 0) (companion : 4 ≤ agent) :
    s.writeReg t agent (regAddr .lemef 0 0x14C) v =
      if v.getLsbD 0 && s.boot.phase = 1 then { s with boot := { s.boot with phase := 2 } }.readImage else s := by
  rw [State.writeReg_accepted t v (pageOf_regAddr (by decide) (by decide)) rfl
    (by rw [regAddr_offset _ _ (by decide), State.mayWrite_bootGo closed, decide_eq_true companion]), regAddr_offset _ _ (by decide)]
  rfl

theorem State.writeReg_bootGo_clerk (closed : s.boot.dev = 0) (clerk : agent < 4) :
    s.writeReg t agent (regAddr .lemef 0 0x14C) v = s := by
  rw [State.writeReg_forbidden t v (pageOf_regAddr (by decide) (by decide)) rfl
    (by rw [regAddr_offset _ _ (by decide), State.mayWrite_bootGo closed, decide_eq_false (by omega)])]
  exact if_neg (by omega)

theorem Only.lemefReg {w : List Part} {s u : State} (h : Only w s u) (o : Nat)
    (c : (w.contains .boot || w.contains .pages || w.contains .stalls) = false := by decide) : u.lemefReg o = s.lemefReg o := by
  simp only [Bool.or_eq_false_iff] at c
  have boot : u.boot = s.boot := h .boot c.1.1
  have pages : u.pages = s.pages := h .pages c.1.2
  have stalls : u.stalls = s.stalls := h .stalls c.2
  unfold State.lemefReg State.live State.regWord State.unready State.page State.stall
  rw [boot, pages, stalls]

/-- The requests for the lines leave where the image lies and which hub boots. -/
theorem State.readImage_eq (u : State) : u.readImage = (List.range (cdiv (u.live .lemef 0 0x148) 64)).foldl (fun z i =>
    z.request u.boot.hub 1 (u.lemefReg 0x140 + 64 * i) []) u := by
  refine foldl_congr_of_inv (Q := Only [.halves] u) (.refl u) (fun z i h => h.step State.request_only) fun z i _ h => ?_
  rw [show z.boot = u.boot from h .boot rfl, h.lemefReg]

theorem exec_bootGo {u : State} {w : List Part} (hc : s.clocked = true)
    (writes : (s.advance t).writeReg t agent (regAddr .lemef 0 0x14C) v = u) (frame : Only w (s.advance t) u)
    (c : (w.contains .pins || w.contains .fuses || w.contains .pending) = false := by decide) :
    exec (.bootGo t agent v) s = .next u := by
  change Host.Outcome.next ((s.advance t).on ((s.advance t).writeReg t agent (regAddr .lemef 0 0x14C) v)) = .next u
  rw [writes, frame.on (by simpa using hc) c]

end

/-- Settles O19: the write reaches the boot register where the companion makes it, and acts in WAIT_IMAGE alone. -/
theorem bootGoStartsTheFetch : Obligations.BootGoStartsTheFetch := by
  unfold Obligations.BootGoStartsTheFetch
  intro s t agent v hc closed
  rw [← s.advance_boot t] at *
  refine ⟨fun companion go waits => ?_, fun companion other => ?_, fun clerk => ?_, State.readImage_eq⟩
  · refine exec_bootGo (w := [.boot, .halves]) t v hc ?_ ?_
    · rw [State.writeReg_bootGo t v closed companion, if_pos (by rw [go, waits]; rfl)]
    · exact (Only.upd (.refl _)).step State.readImage_only
  · refine exec_bootGo (w := []) t v hc ?_ (.refl _)
    rw [State.writeReg_bootGo t v closed companion, if_neg (fun h => other (of_decide_eq_true (Bool.and_eq_true_iff.1 h).2))]
  · exact exec_bootGo (w := []) t v hc (State.writeReg_bootGo_clerk t v closed clerk) (.refl _)

/-! ### The checks of an image (R448, R450) -/

/-- The number of the first check in a list that fails, counted from `c`, or 0. -/
def failedFrom (c : Nat) : List Bool → Nat
  | [] => 0
  | pass :: rest => if pass then failedFrom (c + 1) rest else c

theorem failedFrom_of_all {l : List Bool} (pass : l.all id = true) (c : Nat) : failedFrom c l = 0 := by
  induction l generalizing c with
  | nil => rfl
  | cons x l ih =>
    rw [List.all_cons, Bool.and_eq_true] at pass
    rw [failedFrom, if_pos (show x = true from pass.1), ih pass.2]

theorem failedFrom_of_first {l : List Bool} {n : Nat} (before : (l.take n).all id = true) (fails : l[n]? = some false) (c : Nat) :
    failedFrom c l = c + n := by
  induction l generalizing n c with
  | nil => cases fails
  | cons x l ih =>
    cases n with
    | zero =>
      obtain rfl : x = false := by simpa using fails
      rfl
    | succ n =>
      rw [List.take_succ_cons, List.all_cons, Bool.and_eq_true] at before
      rw [failedFrom, if_pos (show x = true from before.1), ih before.2 (by simpa using fails)]
      omega

/-- The six checks of R450 in order. -/
def imageChecks (fu : Fuses) (len : Nat) (b : List Byte) (whole : Bool) : List Bool :=
  [imageLengthOk len b whole, imageHeaderOk b, sha512 ((b.drop 256).take 1024) = fu.keyHash, imageSignatureOk b,
    decide (fu.rollback ≤ leAt b 16 8), bit (leAt b 25 1) fu.grade]

theorem imageCause_eq (fu : Fuses) (len : Nat) (b : List Byte) (whole : Bool) :
    imageCause fu len b whole = failedFrom 1 (imageChecks fu len b whole) := by
  unfold imageCause imageChecks
  simp only [failedFrom, Bool.not_eq_true', bne_iff_ne, ne_eq, decide_eq_true_eq, ite_not, ← Nat.not_le]
  simp only [← Bool.not_eq_true, ite_not, Nat.reduceAdd]

theorem exec_imageFetchComplete {s : State} (b : List Byte) (whole : Bool) (hc : s.clocked = true) (closed : s.boot.dev = 0)
    (fetching : s.boot.phase = 2) : exec (.imageFetchComplete b whole) s
      = .next { s with boot := { s.boot with phase := 3, buffer := some (b, whole) } } := by
  change Host.Outcome.next (s.on _) = _
  rw [if_neg (by simp [closed, fetching])]
  exact congrArg Host.Outcome.next ((Only.upd (w := [.boot]) (.refl s)).on hc)

theorem State.setPage_stalls (s : State) {n : Nat} (low : n < 0x1000) (p : Page) : (s.setPage n p).stalls = s.stalls := by
  unfold State.setPage
  rw [if_neg (by simp; omega)]

theorem State.advance_stalls (s : State) (t : Nat) : (s.advance t).stalls = s.stalls := by
  unfold State.advance
  refine holds_ite (Q := fun u : State => u.stalls = s.stalls) rfl ?_
  exact holds_ite (Q := fun u : State => u.stalls = s.stalls)
    (holds_ite (Q := fun u : State => u.stalls = s.stalls) rfl (State.setPage_stalls _ (by decide) _)) rfl

/-- With no stall and no aisle port a tick is the bell's and the boot ROM's alone. -/
theorem State.idleActs_of_empty {s : State} (stalls : s.stalls = []) (aisles : s.aisles = []) :
    s.idleActs = s.advance (s.bell.now + 1) := by
  have none : (s.advance (s.bell.now + 1)).stalls = [] := (s.advance_stalls _).trans stalls
  unfold State.idleActs
  dsimp only
  rw [none, List.foldl_nil, State.advance_aisles, aisles, List.foldl_nil]

/-- Settles O20: the cause is the number of the first check that fails. -/
theorem imageIsVerifiedOrRejected : Obligations.ImageIsVerifiedOrRejected := by
  unfold Obligations.ImageIsVerifiedOrRejected
  refine ⟨fun s b whole hc closed fetching => exec_imageFetchComplete b whole hc closed fetching, fun s empty hc stalls aisles => ?tick,
    fun s b whole closed read => ?checks⟩
  case tick => rw [step_empty empty, idleTick_clocked hc, State.idleActs_of_empty stalls aisles]
  case checks =>
    intro t len svn checks
    have cause : imageCause s.fuses (s.live .lemef 0 0x148) b whole = failedFrom 1 checks := imageCause_eq ..
    refine ⟨s.verifyImage_buffer, fun pass => ?_, fun n small before fails => ?_⟩
    · have boot : t.boot = _ := (congrArg State.boot (State.verifyImage_starts closed read
        (cause.trans (failedFrom_of_all pass 1)))).trans (State.startImage_boot _ b)
      rw [boot]
      exact ⟨rfl, rfl, rfl⟩
    · have rejects : t = _ := State.verifyImage_rejects closed read
        (cause.trans ((failedFrom_of_first before fails 1).trans (Nat.add_comm 1 n)))
      refine ⟨by rw [rejects, State.record_boot], ?_⟩
      obtain ⟨r, last, ev⟩ := State.record_last (s := { s with boot := { s.boot with phase := 1, reject := n + 1, buffer := none } })
        (e := s.mkEv 0x8101 0 none .security 0 0 (n + 1))
      exact ⟨r, by rw [rejects, last], by rw [ev]; rfl, by rw [ev]; rfl⟩

end Sys2Proof.Machine
end

section
/-! PROOFS. What every command of the submission ring meets before it acts (R442, R443). -/
namespace Sys2Proof.Machine

/-- Every command of the submission ring goes through `State.runCommand` with its opcode. -/
theorem exec_of_commandAt {i : Instr} {t seq op : Nat} (at_ : commandAt i = some (t, seq, op)) (s : State) :
    ∃ f, exec i s = .next (s.on (s.runCommand t seq op f)) := by
  cases i with
  | jobOpen | jobLoad | jobMap | stepRun | stepAbort | jobClose | jobSuspend | jobResume | selftest | fenceStall | unfenceStall
  | setPolicy | twinBind | echo | summary => cases at_; exact ⟨_, rfl⟩
  | _ => cases at_

section
variable {s a : State} {t seq op : Nat} (f : State → Taken → State) (now : s.advance t = a)
include now

theorem State.runCommand_unknown (unknown : a.takenBy seq = none) : s.runCommand t seq op f = a := by
  unfold State.runCommand; rw [now]; dsimp only; rw [unknown]

variable {x : Taken} (taken : a.takenBy seq = some x)
include taken

theorem State.runCommand_waits (h : descOp x.desc ≠ op ∨ a.clerk.serving = false ∨ a.boot.dev = 0 ∨ a.mayStart x = false) :
    s.runCommand t seq op f = a := by
  unfold State.runCommand
  rw [now]
  dsimp only
  rw [taken]
  refine if_pos ?_
  rcases h with other | away | closed | early
  · simp [other]
  · simp [away]
  · simp [closed]
  · simp [early]

variable (opcode : descOp x.desc = op) (serving : a.clerk.serving = true) (starts : a.mayStart x = true)
include opcode serving starts

/-- A command whose turn has come meets the device state and its job. -/
theorem State.runCommand_starts (opened : a.boot.dev ≠ 0) : s.runCommand t seq op f =
    if a.boot.dev != 2 && op != 0x7E && op != 0x7F then
      ((a.raise (a.mkEv 0x6204 0 none .clerk 0 0 (seq % 2 ^ 64))).countRefusal op).finish seq 2 0x6204 0 0 0 none
    else if !jobOpcode op then f a x
    else if !a.openJobs.contains (descJob x.desc) then a.finish seq 2 0x6201 0 0 0 none
    else match a.job (descJob x.desc) with
      | some jb => if jb.state = 5 && op != 0x06 then a.finish seq 2 jb.failure 0 0 0 none else f a x
      | none => a := by
  unfold State.runCommand
  rw [now]
  dsimp only
  rw [taken]
  exact if_neg (by simp [opcode, serving, opened, starts])

theorem State.runCommand_notRunning (opened : a.boot.dev ≠ 0) (other : a.boot.dev ≠ 2) (noEcho : op ≠ 0x7E)
    (noSummary : op ≠ 0x7F) :
    s.runCommand t seq op f =
      ((a.raise (a.mkEv 0x6204 0 none .clerk 0 0 (seq % 2 ^ 64))).countRefusal op).finish seq 2 0x6204 0 0 0 none := by
  rw [State.runCommand_starts f now taken opcode serving starts opened]
  exact if_pos (by simp [other, noEcho, noSummary])

variable (running : a.boot.dev = 2) (named : jobOpcode op = true)
include running named

theorem State.runCommand_noJob (closed : a.openJobs.contains (descJob x.desc) = false) :
    s.runCommand t seq op f = a.finish seq 2 0x6201 0 0 0 none := by
  rw [State.runCommand_starts f now taken opcode serving starts (by omega), if_neg (by simp [running]), named, closed]
  rfl

theorem State.runCommand_failedJob {jb : Job} (opened : a.openJobs.contains (descJob x.desc) = true)
    (job : a.job (descJob x.desc) = some jb) (failed : jb.state = 5) (noClose : op ≠ 0x06) :
    s.runCommand t seq op f = a.finish seq 2 jb.failure 0 0 0 none := by
  rw [State.runCommand_starts f now taken opcode serving starts (by omega), if_neg (by simp [running]), named, opened, job]
  simp only [Bool.not_true, Bool.false_eq_true, if_false]
  exact if_pos (by simp [failed, noClose])

end

/-- Settles O57: the cases of `State.runCommand` in order. -/
theorem commandsMeetStateAndJob : Obligations.CommandsMeetStateAndJob := by
  unfold Obligations.CommandsMeetStateAndJob
  intro i s t seq op at_ hc a
  obtain ⟨f, run⟩ := exec_of_commandAt at_ s
  have now : s.advance t = a := rfl
  have timed : Only ([.time] ++ eventParts) s a := State.advance_only.mono (by decide)
  have refused {u : State} {q st c r rate n : Nat} {j : Option Nat} (h : Only ([.time] ++ eventParts) s u) :
      Only ([.time] ++ eventParts) s (u.finish q st c r rate n j) := h.step State.finish_only
  refine ⟨fun unknown => timed.answersAs hc run (State.runCommand_unknown f now unknown), fun x taken =>
    ⟨fun h => timed.answersAs hc run (State.runCommand_waits f now taken h), fun opcode serving starts =>
      ⟨fun opened other noEcho noSummary => ?state,
        fun running named => ⟨fun closed => ?closed, fun opened jb job failed noClose => ?failed⟩⟩⟩⟩
  case state =>
    exact (refused ((timed.step State.raise_only).step State.countRefusal_only)).answersAs hc run
      (State.runCommand_notRunning f now taken opcode serving starts opened other noEcho noSummary)
  case closed =>
    exact (refused timed).answersAs hc run (State.runCommand_noJob f now taken opcode serving starts running named closed)
  case failed =>
    exact (refused timed).answersAs hc run
      (State.runCommand_failedJob f now taken opcode serving starts running named opened job failed noClose)

end Sys2Proof.Machine
end

section
/-! PROOFS. Deadlines, watchdogs, reruns and the other timers (R379, R382, R402, R403, R406, R440, R485). -/
namespace Sys2Proof.Machine

/-! ### Timers of a job (R379, R382, R402, R403) -/

/-- A step that did not close by its deadline and has not been counted as missed (R382). -/
def Job.late (jb : Job) (x : StepSt) : Bool := !x.missed && match x.closed with
  | some c => decide (x.release + jb.deadline < c)
  | none => true

section
variable {s : State} {t j : Nat} {jb : Job} (hc : s.clocked = true) (serving : s.clerk.serving = true)
  (job : s.job j = some jb)
include hc serving

/-- What the Clerk's firmware makes of a timer at its tick. -/
theorem exec_of_onClerk {c : Instr} {x y : State} {w : List Part} (frame : Only w (s.advance t) y)
    (run : exec c s = .next ((s.advance t).onClerk x)) (branch : x = y)
    (k : (w.contains .pins || w.contains .fuses || w.contains .pending) = false := by decide) : exec c s = .next y :=
  frame.answersClerk ((s.advance_clocked t).trans hc) (by rw [State.advance_clerk]; exact serving) (branch ▸ run) k

include job

theorem exec_deadlineTimer {x : StepSt} (deadline : jb.cls = 1) (late : jb.steps.find? jb.late = some x) :
    let u := (s.advance (x.release + jb.deadline)).setJob j (jb.updStep x.n fun y => { y with missed := true })
    exec (.deadlineTimer j) s = .next ((u.charge j 0xB8 1).raise
      (u.mkEv 0x6102 0 (some j) .clerk 0 (x.n % 2 ^ 32) jb.tenant.toNat)) := by
  intro u
  have frame : Only ([.time] ++ eventParts) s u := (State.advance_only.mono (by decide)).step State.setJob_only
  refine ((frame.step State.charge_only).step State.raise_only).answersClerk hc serving ?_
  change Host.Outcome.next (s.onClerk (match s.job j with | none => s | some jb => _)) = _
  rw [job]
  dsimp only
  split
  case h_1 none => cases none.symm.trans late
  case h_2 y found =>
    obtain rfl : y = x := Option.some.inj (found.symm.trans late)
    rw [deadline]
    rfl

theorem exec_stepWatchdogExpiry {x : StepSt}
    (runs : (jb.steps.find? fun (y : StepSt) => y.start != 0 && y.closed.isNone && y.abort.isNone) = some x) :
    exec (.stepWatchdogExpiry t j) s = .next (if jb.watchdog = 0 || decide (t < x.start + jb.watchdog * 3300000) then s.advance t
      else (s.advance t).raise ((s.advance t).mkEv 0x6303 0 (some j) .clerk 0 (x.n % 2 ^ 32) 0)) := by
  refine exec_of_onClerk hc serving (w := eventParts) (holds_ite (.refl _) (State.raise_only.mono (by decide))) rfl ?_
  rw [State.job_advance, job]
  dsimp only
  rw [runs]

theorem exec_preemptResume : exec (.preemptResume t j) s = .next
    (if jb.preempted && (s.advance t).positionsFree jb then (s.advance t).resumeJob j true else s.advance t) := by
  refine exec_of_onClerk hc serving (w := eventParts) (holds_ite (State.resumeJob_only.mono (by decide)) (.refl _)) rfl ?_
  rw [State.job_advance, job]

theorem exec_stepRerunGo {m : List (Nat × List Nat × List Nat)} {g : Option Nat} (idle : (s.advance t).jobActive j = false)
    (sound : jb.state ≠ 5) (kept : (s.advance t).closing j = false)
    (free : (jb.steps.any fun x => (s.advance t).abortingStep j x.n) = false) :
    exec (.stepRerunGo t j m g) s = .next ((s.advance t).within (((s.advance t).restoreSteps j m).rerunStep t j g)) := by
  change Host.Outcome.next ((s.advance t).onClerk _) = _
  rw [State.onClerk_clocked (by simpa using hc) (by simpa using serving), State.job_advance, job]
  dsimp only
  rw [if_neg (by simp [idle, sound, kept, free])]

end

/-! ### SET_POLICY that waits for synchronisation (R440) -/

theorem exec_setPolicySyncTimeout {s : State} {t q n : Nat} (hc : s.clocked = true) (serving : s.clerk.serving = true)
    (waits : (s.advance t).clerk.acquiring = some (q, n)) :
    exec (.setPolicySyncTimeout t) s = .next (if t < n then s.advance t else ({ s.advance t with
      clerk := { (s.advance t).clerk with acquiring := none }
      bell := { (s.advance t).bell with acqPending := false } }).finish q 1 0xA201 0 0 0 none) := by
  refine exec_of_onClerk hc serving (w := [.bell] ++ eventParts)
    (holds_ite (.refl _) (Only.step (Only.upd (.refl _)) State.finish_only)) rfl ?_
  rw [waits]

/-! ### Hung engines (R406) -/

theorem exec_engineBusyExpiry {s : State} {t n : Nat} {e : Eng} {f : Flight} (hc : s.clocked = true)
    (oldest : (((s.advance t).stall n).flight.find? fun x => x.eng = e) = some f) :
    exec (.engineBusyExpiry t n e) s = .next (if (((s.advance t).stall n).busy.get e).till + 1048576 ≤ t
      then (s.advance t).raise (((s.advance t).stall n).ev n (s.advance t).bell.now 0x6506 3
        (((s.advance t).stall n).jobSlot f.slot).job e.num) else s.advance t) := by
  refine Only.answersAt (w := eventParts) (holds_ite (State.raise_only.mono (by decide)) (.refl _)) hc rfl ?_
  rw [oldest]

/-! ### Snapshots of the counters (R485) -/

theorem exec_traceCounterSnapshot {s : State} (hc : s.clocked = true) : exec .traceCounterSnapshot s = .next
    (if !bit (s.live .trace 0 0x100) 0 || bits (s.live .trace 0 0x100) 11 8 = 0 then s
      else (s.advance s.snapTick).counterEntries.foldl (fun z e => z.traceRec 3 (e ++ leBytes 8 z.bell.now))
        (s.advance s.snapTick)) :=
  Only.answersAs (w := [.time] ++ eventParts) (holds_ite (.refl _) ((State.advance_only.mono (by decide)).step
    (Only.foldl fun _ _ => State.traceRec_only))) hc rfl rfl

/-- Settles O55: each timer's command by the case that its state meets. -/
theorem timersExpire : Obligations.TimersExpire := by
  unfold Obligations.TimersExpire
  intro s t j hc a
  refine ⟨fun serving => ⟨fun jb x job deadline late => ?deadline,
    fun jb x job runs => ⟨fun off => ?unwatched, fun on due => ?watchdog⟩,
      fun jb job => ⟨fun preempted free => ?resumes, fun other => ?stays,
        fun m g idle sound kept free => exec_stepRerunGo hc serving job idle sound kept free⟩,
      fun q n waits => ⟨fun early => ?early, fun due => ?timeout⟩⟩,
    fun n e f oldest => ⟨fun early => ?busy, fun due => ?hung⟩, ?snapshot⟩
  case deadline => exact exec_deadlineTimer hc serving job deadline late
  case unwatched => rw [exec_stepWatchdogExpiry hc serving job runs, if_pos (by simp [off])]
  case watchdog => rw [exec_stepWatchdogExpiry hc serving job runs, if_neg (by simp [on, due])]
  case resumes => rw [exec_preemptResume hc serving job, if_pos (by rw [preempted, free]; rfl)]
  case stays => rw [exec_preemptResume hc serving job, if_neg (by simp [other])]
  case early => rw [exec_setPolicySyncTimeout hc serving waits, if_pos early]
  case timeout => rw [exec_setPolicySyncTimeout hc serving waits, if_neg (by omega)]
  case busy => rw [exec_engineBusyExpiry hc oldest, if_neg (Nat.not_le.2 early)]
  case hung => rw [exec_engineBusyExpiry hc oldest, if_pos due]
  case snapshot =>
    intro w
    refine ⟨fun on paced => ?_, fun off => ?_⟩
    · rw [exec_traceCounterSnapshot hc, if_neg (by simp [w, on, paced])]
    · rw [exec_traceCounterSnapshot hc, if_pos (by simpa [w] using off)]

end Sys2Proof.Machine
end

section
/-! PROOFS. The doorline, the heartbeat, and the Clerk's watchdog and restart (R413, R433, R436, R437, R471). -/
namespace Sys2Proof.Machine

/-! ### A guard `m != n || !b`, which stops a command -/

theorem bne_or_not {m n : Nat} {b : Bool} (h : m ≠ n ∨ b = false) : (m != n || !b) = true := by
  rcases h with differ | off
  · rw [bne_iff_ne.2 differ, Bool.true_or]
  · rw [off, Bool.not_false, Bool.or_true]

theorem not_bne_or_not {m n : Nat} {b : Bool} (same : m = n) (on : b = true) : ¬ (m != n || !b) = true := by
  rw [same, on, bne_self_eq_false]
  nofun

/-! ### Reading the doorline (R433, R436) -/

theorem State.readDoor_cached {s : State} {b : List Byte} (cache : s.lineCache = true)
    (held : s.cached (s.lemefReg 0x128) = some b) (l : List Byte) (d : List (List Byte)) : s.readDoor l d = s.readDoor b d := by
  unfold State.readDoor
  simp only [cache, held, if_true, Option.isSome_some, Option.getD_some]

theorem State.readDoor_ringsOff {s : State} (off : s.ringsOn = false) (l : List Byte) (d : List (List Byte)) : s.readDoor l d = s := by
  unfold State.readDoor
  exact if_pos (by rw [off]; rfl)

theorem State.refreshDog_serving {s : State} (dev : s.boot.dev ≠ 0) (serving : s.clerk.serving = true) : s.refreshDog
    = { s with clerk := { s.clerk with refresh := s.bell.now } }.count (pageNo .clerk 0) 0x68 1 := by
  unfold State.refreshDog
  exact if_neg (by simp [dev, serving])

section
variable {s : State} {t h : Nat} (hc : s.clocked = true) (l : List Byte) (d : List (List Byte))
include hc

theorem exec_doorlinePoll : exec (.doorlinePoll t l d) s = .next (((s.advance t).refreshDog).readDoor l d) :=
  Only.answersAs (w := [.time] ++ eventParts) (((State.advance_only.mono (by decide)).step State.refreshDog_only).step
    State.readDoor_only) hc rfl rfl

theorem exec_doorlineInval : exec (.doorlineInval t h l d) s = .next
    (if !(s.advance t).lineCache || ((s.advance t).half h).state != 2 then s.advance t
      else
        let x := (s.advance t).lemefReg 0x128
        let q := (s.advance t).takeInval h x
        ((((q.2.count (lemefPage h) 0x70 1).dropLine x).sendSlot h ⟨7, q.1.2, q.1.1, x, 0#64, [], 0, none⟩).readDoor l d)) := by
  refine Only.answersAt (w := eventParts) (holds_ite (.refl _) ?_) hc rfl rfl
  refine Only.step ?_ State.readDoor_only
  refine Only.step ?_ State.sendSlot_only
  refine Only.step ?_ State.dropLine_only
  refine Only.step ?_ State.count_only
  exact Only.mono State.takeInval_only (by decide)

end

/-! ### The heartbeat (R436) -/

theorem exec_statusHeartbeat {s : State} (hc : s.clocked = true) :
    let b := s.advance s.power.nextBeat
    let u := { b with power := { b.power with nextBeat := s.power.nextBeat + 3300000 } }
    exec .statusHeartbeat s = .next (if u.boot.dev != 2 || !bit (u.live .lemef 0 0x13C) 0 then u
      else { u with rings := { u.rings with heartbeat := u.rings.heartbeat + 1 } }.writeStatus) := by
  intro b u
  have frame : Only ([.time, .power] ++ eventParts) s u := Only.upd (State.advance_only.mono (by decide))
  refine Only.answersAs (holds_ite frame (Only.step (Only.upd frame) State.writeStatus_only)) hc rfl rfl

/-! ### What waits for the Clerk (R413) -/

section
variable {s : State} (away : s.clerk.serving = false)
include away

theorem State.failJob_away (j c : Nat) :
    s.failJob j c = { s with clerk := { s.clerk with waiting := s.clerk.waiting ++ [.fail j c] } } := by
  unfold State.failJob
  exact if_neg (by simp [away])

theorem State.abortSteps_away (j c : Nat) :
    s.abortSteps j c = { s with clerk := { s.clerk with waiting := s.clerk.waiting ++ [.abort j c true] } } := by
  unfold State.abortSteps
  exact if_pos (by rw [away]; rfl)

theorem State.fence_away (n c : Nat) :
    s.fence n c = { s with clerk := { s.clerk with waiting := s.clerk.waiting ++ [.fence n c] } } := by
  unfold State.fence
  exact if_pos (by rw [away]; rfl)

end

/-- The restarted Clerk serves again, with nothing waiting and its watchdog refreshed. -/
def State.servesAgain (a : State) : State :=
  { a with clerk := { a.clerk with
    cores := lset a.clerk.cores a.primary 2, serving := true, waiting := [], refresh := a.bell.now } }.count (pageNo .clerk 0) 0x68 1

theorem State.servesAgain_only (a : State) : Only [.pages, .stalls, .clerk] a a.servesAgain :=
  Only.step (Only.upd (.refl _)) State.count_only

theorem exec_clerkResumesService {s : State} {t : Nat} (hc : s.clocked = true) (away : (s.advance t).clerk.serving = false)
    (core : (s.advance t).clerk.cores.getD (s.advance t).primary 0 ≠ 4) : exec (.clerkResumesService t) s
      = .next (((s.advance t).clerk.waiting.foldl State.clerkAct (s.advance t).servesAgain).post) := by
  have acts (u : State) : Only eventParts u ((s.advance t).clerk.waiting.foldl State.clerkAct u) :=
    Only.foldl fun _ _ => State.clerkAct_only.mono (by decide)
  have frame := (((s.advance t).servesAgain_only.mono (by decide)).trans (acts _)).step State.post_only
  refine frame.answersAt hc rfl (if_neg ?_)
  rw [Bool.or_eq_true, decide_eq_true_eq, away]
  exact not_or.2 ⟨nofun, core⟩

/-! ### The Clerk's watchdog (R413) -/

/-- The next-numbered standby core is the lowest above the one that is left. -/
theorem State.nextClerk_spec {s : State} {h k : Nat} (next : s.nextClerk h = some k) :
    h < k ∧ s.clerk.cores.getD k 0 = 1 ∧ ∀ i, h < i → i < k → s.clerk.cores.getD i 0 ≠ 1 := by
  obtain ⟨found, -, lower⟩ := List.find?_range_eq_some.1 next
  rw [Bool.and_eq_true, decide_eq_true_eq, decide_eq_true_eq] at found
  refine ⟨found.1, found.2, fun i above below standby => ?_⟩
  have := lower i below
  rw [decide_eq_true above, decide_eq_true standby] at this
  cases this

theorem State.nextPrimary_primary {s : State} {h k : Nat} (next : s.nextClerk h = some k) : (s.nextPrimary h).clerk.primary = k := by
  unfold State.nextPrimary
  dsimp only
  rw [next]

theorem exec_clerkWatchdogExpiry {s : State} {t h : Nat} (hc : s.clocked = true) :
    let a := s.advance t
    let r := (a.clerk.recent.filter fun u => decide (a.bell.now < u + 3300000000)) ++ [a.bell.now]
    let u := { a with clerk := { a.clerk with
      cores := lset a.clerk.cores h 3, restarts := a.clerk.restarts + 1, recent := r, serving := false } }
    let v := u.raise (u.mkEv 0x6504 1 none .clerk 0 0 h)
    exec (.clerkWatchdogExpiry t h) s = .next
      (if a.boot.dev = 0 || h != a.primary || !a.clerk.serving || decide (a.bell.now < a.clerk.refresh + 33000000) then a
        else if 2 ≤ r.length then v.nextPrimary h else v) := by
  intro a r u v
  have restarted : Only eventParts a v := Only.step (Only.upd (.refl _)) State.raise_only
  exact Only.answersAt (holds_ite (.refl _) (holds_ite (restarted.step State.nextPrimary_only) restarted)) hc rfl rfl

/-- Settles O54: the Clerk's commands written out, branch by branch. -/
theorem clerkServesAndRestarts : Obligations.ClerkServesAndRestarts := by
  unfold Obligations.ClerkServesAndRestarts
  refine ⟨fun s l d => ⟨fun b cache held => State.readDoor_cached cache held l d, fun off => State.readDoor_ringsOff off l d,
      State.refreshDog_serving⟩,
    fun s j c n away => ⟨State.failJob_away away j c, State.abortSteps_away away j c, State.fence_away away n c⟩,
    fun s h k next => ⟨State.nextPrimary_primary next, State.nextClerk_spec next⟩, fun s t h l d hc => ?_⟩
  intro a
  refine ⟨fun cache up => ?inval, fun down => ?noInval, exec_doorlinePoll hc l d, ⟨fun idle => ?noBeat, fun running on => ?beat⟩,
    exec_clerkResumesService hc, fun opened primary serving => ⟨fun fed => ?fed, fun late => ?late⟩⟩
  case inval =>
    exact (exec_doorlineInval hc l d).trans (congrArg Host.Outcome.next (if_neg (by
      rw [Bool.or_comm]; exact not_bne_or_not up cache)))
  case noInval =>
    exact (exec_doorlineInval hc l d).trans (congrArg Host.Outcome.next (if_pos (by
      rw [Bool.or_comm]; exact bne_or_not down.symm)))
  case noBeat => exact (exec_statusHeartbeat hc).trans (congrArg Host.Outcome.next (if_pos (bne_or_not idle)))
  case beat => exact (exec_statusHeartbeat hc).trans (congrArg Host.Outcome.next (if_neg (not_bne_or_not running on)))
  case fed =>
    exact (exec_clerkWatchdogExpiry hc).trans (congrArg Host.Outcome.next (if_pos (by rw [decide_eq_true fed, Bool.or_true])))
  case late =>
    refine (exec_clerkWatchdogExpiry hc).trans (congrArg Host.Outcome.next (if_neg ?_))
    rw [decide_eq_false (Nat.not_lt.2 late), decide_eq_false opened, show (s.advance t).clerk.serving = true from serving,
      bne_eq_false_iff_eq.2 primary]
    nofun

end Sys2Proof.Machine
end

section
/-! PROOFS. The power controller's frame (R46, R479, R489, R490). -/
namespace Sys2Proof.Machine

/-! ### The rule of k_local (R479) -/

section
variable {k mean limit temp throttle bound : Nat} {hot : Bool}

theorem nextK_of_above (above : limit < mean ∨ throttle < temp ∨ hot = true) :
    nextK k mean limit temp throttle bound hot = min (k + 4) bound := by
  have passed : (decide (limit < mean) || decide (throttle < temp) || hot) = true := by
    simpa [or_assoc] using above
  unfold nextK
  dsimp only
  rw [if_pos passed, min_assoc, min_self]

section
variable (within : ¬ (limit < mean ∨ throttle < temp ∨ hot = true))
include within

theorem nextK_of_not_above : nextK k mean limit temp throttle bound hot =
    min (if mean * 100 < 95 * limit ∧ temp + 3 < throttle then k - 1 else k) bound := by
  have passed : ¬ (decide (limit < mean) || decide (throttle < temp) || hot) = true := by
    simpa [or_assoc] using within
  unfold nextK
  dsimp only
  rw [if_neg passed]
  simp only [Bool.and_eq_true, decide_eq_true_eq]

theorem nextK_of_below (power : mean * 100 < 95 * limit) (cool : temp + 3 < throttle) :
    nextK k mean limit temp throttle bound hot = min (k - 1) bound := by
  rw [nextK_of_not_above within, if_pos ⟨power, cool⟩]

theorem nextK_of_between (between : ¬ (mean * 100 < 95 * limit ∧ temp + 3 < throttle)) :
    nextK k mean limit temp throttle bound hot = min k bound := by
  rw [nextK_of_not_above within, if_neg between]

end

end

/-! ### What a frame leaves (R46, R489, R490) -/

/-- The controller without the remainders of its rail counters. -/
def Power.unrailed (p : Power) : Power := { p with rails := [] }

theorem Power.frames_of_unrailed {p q : Power} (h : p.unrailed = q.unrailed) : p.frames = q.frames :=
  (congrArg Power.frames h :)

theorem Power.tmax_of_unrailed {p q : Power} (h : p.unrailed = q.unrailed) : p.tmax = q.tmax := (congrArg Power.tmax h :)

theorem Power.watts_of_unrailed {p q : Power} (h : p.unrailed = q.unrailed) : p.watts = q.watts := (congrArg Power.watts h :)

/-- The rail counters take the frame's energy, and the controller keeps their remainders alone. -/
theorem State.railEnergy_power (s : State) (l : List Nat) : (s.railEnergy l).power.unrailed = s.power.unrailed := by
  unfold State.railEnergy
  refine holds_foldl (Q := fun u : State => u.power.unrailed = s.power.unrailed) rfl fun u i h => ?_
  exact (congrArg Power.unrailed (State.count_only .power rfl)).trans h

/-- The bell when the frame at `f` has been measured. -/
def Bell.framed (b : Bell) (f k : Nat) : Bell := { b with nextFrame := f + 262144, kLocal := k }

theorem Bell.framed_kApplied (b : Bell) (f k : Nat) : (b.framed f k).kApplied = b.kApplied := rfl

section
variable (s : State) (f : Nat) (m : PowerMeas)

/-- The state that the frame's measurement is taken in: k in force at the frame boundary. -/
def State.atFrame : State := (s.advance f).applyK f

/-- The frame's measurement before its counters and events. -/
def State.frameMeasured : State :=
  { s.atFrame f with
    power := ((s.atFrame f).nextPower m).1, bell := (s.atFrame f).bell.framed f ((s.atFrame f).nextPower m).2 }

/-- Counters and events leave the bell and the controller but for the rails' remainders. -/
theorem State.powerFrame_frame : Only [.boot, .pages, .stalls, .jobs, .hubs, .aisles, .halves, .clerk, .rings, .events,
    .ledgers, .trace, .out, .freeIx] ((s.frameMeasured f m).railEnergy m.rails) (s.powerFrame f m) := by
  unfold State.powerFrame
  exact Only.step (holds_ite (.refl _) (State.count_only.mono (by decide))) State.powerEvents_only

theorem State.powerFrame_bell : (s.powerFrame f m).bell = (s.atFrame f).bell.framed f ((s.atFrame f).nextPower m).2 :=
  (s.powerFrame_frame f m).bell.trans State.railEnergy_only.bell

theorem State.powerFrame_power : (s.powerFrame f m).power.unrailed = ((s.atFrame f).nextPower m).1.unrailed :=
  (congrArg Power.unrailed (s.powerFrame_frame f m .power rfl)).trans (State.railEnergy_power ..)

theorem State.powerFrame_nextFrame : (s.powerFrame f m).bell.nextFrame = f + 262144 :=
  congrArg Bell.nextFrame (s.powerFrame_bell f m)

theorem State.powerFrame_kLocal : (s.powerFrame f m).bell.kLocal = ((s.atFrame f).nextPower m).2 :=
  congrArg Bell.kLocal (s.powerFrame_bell f m)

theorem State.powerFrame_kApplied : (s.powerFrame f m).bell.kApplied = (s.atFrame f).bell.kApplied :=
  (congrArg Bell.kApplied (s.powerFrame_bell f m)).trans
    (Bell.framed_kApplied ..)

theorem State.powerFrame_frames : (s.powerFrame f m).power.frames = ((s.atFrame f).nextPower m).1.frames :=
  Power.frames_of_unrailed (s.powerFrame_power f m)

theorem State.powerFrame_tmax : (s.powerFrame f m).power.tmax = ((s.atFrame f).nextPower m).1.tmax :=
  Power.tmax_of_unrailed (s.powerFrame_power f m)

theorem State.powerFrame_watts : (s.powerFrame f m).power.watts = ((s.atFrame f).nextPower m).1.watts :=
  Power.watts_of_unrailed (s.powerFrame_power f m)

end

/-! ### The controller's next state (R479) -/

section
variable (x : State) (m : PowerMeas)

theorem State.nextPower_frames : (x.nextPower m).1.frames = (m.rails.sum :: x.power.frames).take (framesIn 7) := rfl

theorem State.nextPower_tmax : (x.nextPower m).1.tmax = some m.junction := rfl

theorem State.nextPower_watts : (x.nextPower m).1.watts = 33 * ((x.nextPower m).1.frames.take (framesIn 0)).sum
    / (10000 * 262144 * max 1 ((x.nextPower m).1.frames.take (framesIn 0)).length) := rfl

theorem State.nextPower_k : (x.nextPower m).2 =
    let last := (x.nextPower m).1.frames.take (framesIn (bits (x.live .power 0 0x104) 2 0))
    Sys2Proof.Machine.nextK x.bell.kLocal (33 * last.sum) (x.powerLimits.1 * 10000 * 262144 * last.length) m.junction x.powerLimits.2
      (x.kBound m.junction) (decide (90 < m.stack)) := rfl

end


theorem exec_powerFrameUpdate {s : State} (m : PowerMeas) (hc : s.clocked = true) :
    exec (.powerFrameUpdate m) s = .next (s.powerFrame s.bell.nextFrame m) :=
  State.powerFrame_only.answersAs hc rfl (if_pos hc)

/-- Settles O23: `nextK` by its three cases, and the controller by what `State.nextPower` leaves in it. -/
theorem powerFrameStepsK : Obligations.PowerFrameStepsK := by
  unfold Obligations.PowerFrameStepsK
  intro s m hc x limit thr bound k frames last w P L above
  have hframes : (x.nextPower m).1.frames = frames := x.nextPower_frames m
  have kLocal : (s.powerFrame s.bell.nextFrame m).bell.kLocal = nextK k P L m.junction thr bound (decide (90 < m.stack)) := by
    refine (s.powerFrame_kLocal s.bell.nextFrame m).trans ((x.nextPower_k m).trans ?_)
    rw [hframes]
    rfl
  have watts : (s.powerFrame s.bell.nextFrame m).power.watts =
      33 * (last 0).sum / (10000 * 262144 * max 1 (last 0).length) := by
    refine (s.powerFrame_watts s.bell.nextFrame m).trans ((x.nextPower_watts m).trans ?_)
    rw [hframes]
    rfl
  have passed : above ↔ L < P ∨ thr < m.junction ∨ decide (90 < m.stack) = true := by simp [above]
  refine ⟨_, exec_powerFrameUpdate m hc, s.powerFrame_nextFrame .., fun h => ?_, fun h cold cool => ?_, fun h between => ?_,
    s.powerFrame_kApplied .., (s.powerFrame_frames ..).trans hframes, (s.powerFrame_tmax ..).trans (x.nextPower_tmax m), watts⟩
  · rw [kLocal, nextK_of_above (passed.1 h)]
  · rw [kLocal, nextK_of_below (fun q => h (passed.2 q)) cold cool]
  · rw [kLocal, nextK_of_between (fun q => h (passed.2 q)) between]

end Sys2Proof.Machine
end
